-- ==== Sys2Proof/Word.lean ====
section
/-! DEFINITION. Sys2Proof/Word.lean: the word types of the K4 (spec/06 R172, spec/04 R102) and their plainest arithmetic. -/

namespace Sys2Proof

/-- A byte of memory (R4). -/
abbrev Byte := BitVec 8

/-- A scalar register, a system register or an address as a register carries it (R17, R102). -/
abbrev Word := BitVec 64

end Sys2Proof
end

