-- ==== Sys2Proof/Syntax.lean ====
section
/-! DEFINITION. Sys2Proof/Syntax.lean: the ONE inductive of instructions and events of the Knaska K4. One constructor for each row of
spec/opcode_table.json, in the table's order: 214 rows that an instruction word encodes, whose arguments are
the fields the table names (`sm` is the switch marker, bit 31 of every word: R172), and 78 rows that no word
encodes, the events by which engines, the fabric, Geyser, the host and the boot logic act (spec/95). An event has no field in the
table; what it happens to is State.subj. -/

namespace Sys2Proof

/-- Number of a scalar register g0 to g31 (R172, R181). -/
abbrev Reg := Fin 32

/-- Number of a predicate p0 to p7 (R172, R181). -/
abbrev PReg := Fin 8

/-- A context slot of the package: physical cluster, pipe and slot (R12, R16). -/
structure CtxId where
  cl : Nat
  pipe : Nat
  slot : Nat
deriving DecidableEq, Repr

/-- The instructions and events of the package, one constructor per row of the opcode table. -/
inductive Instr where
  /-- ADD (R199). -/
  | add (sm : Bool) (d : Reg) (a : Reg) (b : Reg) (t : Bool)
  /-- SUB (R199). -/
  | sub (sm : Bool) (d : Reg) (a : Reg) (b : Reg) (t : Bool)
  /-- AND (R199). -/
  | and (sm : Bool) (d : Reg) (a : Reg) (b : Reg)
  /-- OR (R199). -/
  | or (sm : Bool) (d : Reg) (a : Reg) (b : Reg)
  /-- XOR (R199). -/
  | xor (sm : Bool) (d : Reg) (a : Reg) (b : Reg)
  /-- ANDN (R199). -/
  | andn (sm : Bool) (d : Reg) (a : Reg) (b : Reg)
  /-- ORN (R199). -/
  | orn (sm : Bool) (d : Reg) (a : Reg) (b : Reg)
  /-- SLL (R199). -/
  | sll (sm : Bool) (d : Reg) (a : Reg) (b : Reg)
  /-- SRL (R199). -/
  | srl (sm : Bool) (d : Reg) (a : Reg) (b : Reg)
  /-- SRA (R199). -/
  | sra (sm : Bool) (d : Reg) (a : Reg) (b : Reg)
  /-- ROL (R199). -/
  | rol (sm : Bool) (d : Reg) (a : Reg) (b : Reg)
  /-- ROR (R199). -/
  | ror (sm : Bool) (d : Reg) (a : Reg) (b : Reg)
  /-- SLT (R199). -/
  | slt (sm : Bool) (d : Reg) (a : Reg) (b : Reg)
  /-- SLTU (R199). -/
  | sltu (sm : Bool) (d : Reg) (a : Reg) (b : Reg)
  /-- MIN (R199). -/
  | min (sm : Bool) (d : Reg) (a : Reg) (b : Reg)
  /-- MAX (R199). -/
  | max (sm : Bool) (d : Reg) (a : Reg) (b : Reg)
  /-- MINN (R199). -/
  | minn (sm : Bool) (d : Reg) (a : Reg) (b : Reg)
  /-- MAXN (R199). -/
  | maxn (sm : Bool) (d : Reg) (a : Reg) (b : Reg)
  /-- CLZ (R199). -/
  | clz (sm : Bool) (d : Reg) (a : Reg)
  /-- CTZ (R199). -/
  | ctz (sm : Bool) (d : Reg) (a : Reg)
  /-- POP (R199). -/
  | pop (sm : Bool) (d : Reg) (a : Reg)
  /-- BREV (R199). -/
  | brev (sm : Bool) (d : Reg) (a : Reg)
  /-- BSWAP (R199). -/
  | bswap (sm : Bool) (d : Reg) (a : Reg)
  /-- SEXT_B (R199). -/
  | sextB (sm : Bool) (d : Reg) (a : Reg)
  /-- SEXT_H (R199). -/
  | sextH (sm : Bool) (d : Reg) (a : Reg)
  /-- SEXT_W (R199). -/
  | sextW (sm : Bool) (d : Reg) (a : Reg)
  /-- ZEXT_W (R199). -/
  | zextW (sm : Bool) (d : Reg) (a : Reg)
  /-- BFX (R200). -/
  | bfx (sm : Bool) (d : Reg) (a : Reg) (b : Reg)
  /-- BFI (R200). -/
  | bfi (sm : Bool) (d : Reg) (a : Reg) (b : Reg)
  /-- SEL (R199). -/
  | sel (sm : Bool) (d : Reg) (a : Reg) (b : Reg) (p : PReg)
  /-- ADDI (R201). -/
  | addi (sm : Bool) (d : Reg) (a : Reg) (i : BitVec 15)
  /-- ANDI (R201). -/
  | andi (sm : Bool) (d : Reg) (a : Reg) (i : BitVec 15)
  /-- ORI (R201). -/
  | ori (sm : Bool) (d : Reg) (a : Reg) (i : BitVec 15)
  /-- XORI (R201). -/
  | xori (sm : Bool) (d : Reg) (a : Reg) (i : BitVec 15)
  /-- SLLI (R201). -/
  | slli (sm : Bool) (d : Reg) (a : Reg) (n : Fin 64)
  /-- SRLI (R201). -/
  | srli (sm : Bool) (d : Reg) (a : Reg) (n : Fin 64)
  /-- SRAI (R201). -/
  | srai (sm : Bool) (d : Reg) (a : Reg) (n : Fin 64)
  /-- SLTII (R201). -/
  | sltii (sm : Bool) (d : Reg) (a : Reg) (i : BitVec 14)
  /-- SLTIN (R201). -/
  | sltin (sm : Bool) (d : Reg) (a : Reg) (i : BitVec 14)
  /-- LIH (R201). -/
  | lih (sm : Bool) (d : Reg) (h : Fin 16) (v : BitVec 16)
  /-- ADPC (R201). -/
  | adpc (sm : Bool) (d : Reg) (i : BitVec 20)
  /-- MUL (R202). -/
  | mul (sm : Bool) (d : Reg) (a : Reg) (b : Reg) (w : Bool)
  /-- MULH (R202). -/
  | mulh (sm : Bool) (d : Reg) (a : Reg) (b : Reg) (w : Bool)
  /-- MULHN (R202). -/
  | mulhn (sm : Bool) (d : Reg) (a : Reg) (b : Reg) (w : Bool)
  /-- DIV (R202). -/
  | div (sm : Bool) (d : Reg) (a : Reg) (b : Reg) (w : Bool)
  /-- DIVN (R202). -/
  | divn (sm : Bool) (d : Reg) (a : Reg) (b : Reg) (w : Bool)
  /-- REM (R202). -/
  | rem (sm : Bool) (d : Reg) (a : Reg) (b : Reg) (w : Bool)
  /-- REMN (R202). -/
  | remn (sm : Bool) (d : Reg) (a : Reg) (b : Reg) (w : Bool)
  /-- FADD (R204). -/
  | fadd (sm : Bool) (d : Reg) (a : Reg) (b : Reg) (r : Fin 4) (z : Bool) (t : Bool)
  /-- FSUB (R204). -/
  | fsub (sm : Bool) (d : Reg) (a : Reg) (b : Reg) (r : Fin 4) (z : Bool) (t : Bool)
  /-- FMUL (R204). -/
  | fmul (sm : Bool) (d : Reg) (a : Reg) (b : Reg) (r : Fin 4) (z : Bool) (t : Bool)
  /-- FMA (R204). -/
  | fma (sm : Bool) (d : Reg) (a : Reg) (b : Reg) (r : Fin 4) (z : Bool) (t : Bool)
  /-- FDIV (R204). -/
  | fdiv (sm : Bool) (d : Reg) (a : Reg) (b : Reg) (r : Fin 4) (z : Bool) (t : Bool)
  /-- FSQRT (R204). -/
  | fsqrt (sm : Bool) (d : Reg) (a : Reg) (r : Fin 4) (z : Bool) (t : Bool)
  /-- FMIN (R204). -/
  | fmin (sm : Bool) (d : Reg) (a : Reg) (b : Reg) (t : Bool)
  /-- FMAX (R204). -/
  | fmax (sm : Bool) (d : Reg) (a : Reg) (b : Reg) (t : Bool)
  /-- FSIGN (R204). -/
  | fsign (sm : Bool) (d : Reg) (a : Reg) (b : Reg) (m : Fin 4) (t : Bool)
  /-- FCLASS (R206). -/
  | fclass (sm : Bool) (d : Reg) (a : Reg) (t : Bool)
  /-- FCMP (R205). -/
  | fcmp (sm : Bool) (n : PReg) (a : Reg) (b : Reg) (c : Fin 8) (t : Bool)
  /-- FCVT (R207). -/
  | fcvt (sm : Bool) (d : Reg) (a : Reg) (c : Fin 16) (x : Bool) (z : Bool) (r : Fin 4) (t : Fin 16)
  /-- LD (R208). -/
  | ld (sm : Bool) (d : Reg) (a : Reg) (w : Fin 8) (h : Fin 4) (o : BitVec 10)
  /-- ST (R208). -/
  | st (sm : Bool) (d : Reg) (a : Reg) (w : Fin 8) (h : Fin 4) (o : BitVec 10)
  /-- LDA (R208). -/
  | lda (sm : Bool) (d : Reg) (a : Reg) (w : Fin 8) (h : Fin 4) (o : BitVec 10)
  /-- STL (R208). -/
  | stl (sm : Bool) (d : Reg) (a : Reg) (w : Fin 8) (h : Fin 4) (o : BitVec 10)
  /-- AMO_ADD (R210). -/
  | amoAdd (sm : Bool) (d : Reg) (a : Reg) (b : Reg) (c : Fin 4) (o : Fin 8) (w : Bool)
  /-- AMO_AND (R210). -/
  | amoAnd (sm : Bool) (d : Reg) (a : Reg) (b : Reg) (c : Fin 4) (o : Fin 8) (w : Bool)
  /-- AMO_OR (R210). -/
  | amoOr (sm : Bool) (d : Reg) (a : Reg) (b : Reg) (c : Fin 4) (o : Fin 8) (w : Bool)
  /-- AMO_XOR (R210). -/
  | amoXor (sm : Bool) (d : Reg) (a : Reg) (b : Reg) (c : Fin 4) (o : Fin 8) (w : Bool)
  /-- AMO_MIN (R210). -/
  | amoMin (sm : Bool) (d : Reg) (a : Reg) (b : Reg) (c : Fin 4) (o : Fin 8) (w : Bool)
  /-- AMO_MAX (R210). -/
  | amoMax (sm : Bool) (d : Reg) (a : Reg) (b : Reg) (c : Fin 4) (o : Fin 8) (w : Bool)
  /-- AMO_MINN (R210). -/
  | amoMinn (sm : Bool) (d : Reg) (a : Reg) (b : Reg) (c : Fin 4) (o : Fin 8) (w : Bool)
  /-- AMO_MAXN (R210). -/
  | amoMaxn (sm : Bool) (d : Reg) (a : Reg) (b : Reg) (c : Fin 4) (o : Fin 8) (w : Bool)
  /-- AMO_SWP (R210). -/
  | amoSwp (sm : Bool) (d : Reg) (a : Reg) (b : Reg) (c : Fin 4) (o : Fin 8) (w : Bool)
  /-- AMO_CAS (R211). -/
  | amoCas (sm : Bool) (d : Reg) (a : Reg) (b : Reg) (c : Fin 4) (o : Fin 8) (w : Bool)
  /-- AMO_FADD (R212). -/
  | amoFadd (sm : Bool) (d : Reg) (a : Reg) (b : Reg) (c : Fin 4) (o : Fin 8) (w : Bool)
  /-- RED_ADD (R213). -/
  | redAdd (sm : Bool) (a : Reg) (b : Reg) (c : Fin 4) (o : Fin 8) (w : Bool)
  /-- RED_FADD (R213). -/
  | redFadd (sm : Bool) (a : Reg) (b : Reg) (c : Fin 4) (o : Fin 8) (w : Bool)
  /-- RED_MIN (R213). -/
  | redMin (sm : Bool) (a : Reg) (b : Reg) (c : Fin 4) (o : Fin 8) (w : Bool)
  /-- RED_MAX (R213). -/
  | redMax (sm : Bool) (a : Reg) (b : Reg) (c : Fin 4) (o : Fin 8) (w : Bool)
  /-- RED_OR (R213). -/
  | redOr (sm : Bool) (a : Reg) (b : Reg) (c : Fin 4) (o : Fin 8) (w : Bool)
  /-- PF (R214). -/
  | pf (sm : Bool) (a : Reg) (k : Fin 16)
  /-- BEQ (R215). -/
  | beq (sm : Bool) (a : Reg) (b : Reg) (o : BitVec 15)
  /-- BGEU (R215). -/
  | bgeu (sm : Bool) (a : Reg) (b : Reg) (o : BitVec 15)
  /-- BNE (R215). -/
  | bne (sm : Bool) (a : Reg) (b : Reg) (o : BitVec 15)
  /-- BLT (R215). -/
  | blt (sm : Bool) (a : Reg) (b : Reg) (o : BitVec 15)
  /-- BGE (R215). -/
  | bge (sm : Bool) (a : Reg) (b : Reg) (o : BitVec 15)
  /-- BLTU (R215). -/
  | bltu (sm : Bool) (a : Reg) (b : Reg) (o : BitVec 15)
  /-- BP (R215). -/
  | bp (sm : Bool) (p : PReg) (o : BitVec 21)
  /-- BNP (R215). -/
  | bnp (sm : Bool) (p : PReg) (o : BitVec 21)
  /-- JAL (R216). -/
  | jal (sm : Bool) (d : Reg) (o : BitVec 20)
  /-- JALR (R216). -/
  | jalr (sm : Bool) (d : Reg) (a : Reg) (i : BitVec 15)
  /-- PCMP (R219). -/
  | pcmp (sm : Bool) (n : PReg) (a : Reg) (b : Reg) (c : Fin 8)
  /-- PAND (R219). -/
  | pand (sm : Bool) (n : PReg) (x : PReg) (y : PReg)
  /-- POR (R219). -/
  | por (sm : Bool) (n : PReg) (x : PReg) (y : PReg)
  /-- PXOR (R219). -/
  | pxor (sm : Bool) (n : PReg) (x : PReg) (y : PReg)
  /-- PNOT (R219). -/
  | pnot (sm : Bool) (n : PReg) (x : PReg)
  /-- FENCE_ACQ (R147). -/
  | fenceAcq (sm : Bool) (c : Fin 4)
  /-- FENCE_REL (R147). -/
  | fenceRel (sm : Bool) (c : Fin 4)
  /-- FENCE_FULL (R147). -/
  | fenceFull (sm : Bool) (c : Fin 4)
  /-- FENCE_SC (R149). -/
  | fenceSc (sm : Bool) (c : Fin 4)
  /-- BAR_ARV (R222). -/
  | barArv (sm : Bool) (a : Reg) (n : Fin 32)
  /-- BAR_WAIT (R222). -/
  | barWait (sm : Bool) (d : Reg) (n : Fin 32)
  /-- BAR_ARW (R222). -/
  | barArw (sm : Bool) (d : Reg) (a : Reg) (n : Fin 32)
  /-- WAIT_CNT (R223). -/
  | waitCnt (sm : Bool) (n : BitVec 10) (c : Fin 4)
  /-- TAG_WANY (R224). -/
  | tagWany (sm : Bool) (a : Reg)
  /-- TAG_WALL (R224). -/
  | tagWall (sm : Bool) (a : Reg)
  /-- TAG_FFR (R224). -/
  | tagFfr (sm : Bool) (d : Reg) (a : Reg)
  /-- TAG_CLR (R224). -/
  | tagClr (sm : Bool) (a : Reg)
  /-- WAIT_NTC (R225). -/
  | waitNtc (sm : Bool) (a : Reg)
  /-- YIELD (R225). -/
  | yield (sm : Bool)
  /-- RCV (R217). -/
  | rcv (sm : Bool) (o : BitVec 15)
  /-- JOIN (R43). -/
  | join (sm : Bool)
  /-- EXIT (R218). -/
  | exit (sm : Bool)
  /-- FUSE (R37). -/
  | fuse (sm : Bool) (w : Fin 32)
  /-- SPLIT (R46). -/
  | split (sm : Bool)
  /-- VOTE_ANY (R226). -/
  | voteAny (sm : Bool) (n : PReg) (m : PReg)
  /-- VOTE_ALL (R226). -/
  | voteAll (sm : Bool) (n : PReg) (m : PReg)
  /-- VOTE_BAL (R226). -/
  | voteBal (sm : Bool) (d : Reg) (m : PReg)
  /-- LGET (R227). -/
  | lget (sm : Bool) (d : Reg) (a : Reg) (b : Reg)
  /-- WQ_INIT (R229). -/
  | wqInit (sm : Bool) (a : Reg) (b : Reg) (d : Reg) (k : Fin 4)
  /-- WQ_NEXT (R230). -/
  | wqNext (sm : Bool) (d : Reg) (n : PReg) (k : Fin 4)
  /-- TSK_DONE (R67). -/
  | tskDone (sm : Bool) (a : Reg) (d : Reg)
  /-- TSK_SUBMIT (R231). -/
  | tskSubmit (sm : Bool) (a : Reg) (d : Reg)
  /-- STG_ACQ (R54). -/
  | stgAcq (sm : Bool) (a : Reg) (r : Fin 8) (p : Bool)
  /-- STG_REL (R54). -/
  | stgRel (sm : Bool) (a : Reg) (r : Fin 8)
  /-- STG_PEEK (R54). -/
  | stgPeek (sm : Bool) (d : Reg) (r : Fin 8)
  /-- V_ADD (R260). -/
  | vAdd (sm : Bool) (a : Reg) (b : Reg) (d : Reg) (c : Bool)
  /-- V_SUB (R260). -/
  | vSub (sm : Bool) (a : Reg) (b : Reg) (d : Reg) (c : Bool)
  /-- V_MUL (R260). -/
  | vMul (sm : Bool) (a : Reg) (b : Reg) (d : Reg) (c : Bool)
  /-- V_FMA (R260). -/
  | vFma (sm : Bool) (a : Reg) (b : Reg) (d : Reg) (c : Bool)
  /-- V_FMS (R260). -/
  | vFms (sm : Bool) (a : Reg) (b : Reg) (d : Reg) (c : Bool)
  /-- V_MIN (R260). -/
  | vMin (sm : Bool) (a : Reg) (b : Reg) (d : Reg) (c : Bool)
  /-- V_MAX (R260). -/
  | vMax (sm : Bool) (a : Reg) (b : Reg) (d : Reg) (c : Bool)
  /-- V_ABS (R262). -/
  | vAbs (sm : Bool) (a : Reg) (b : Reg) (d : Reg)
  /-- V_NEG (R262). -/
  | vNeg (sm : Bool) (a : Reg) (b : Reg) (d : Reg)
  /-- V_AND (R260). -/
  | vAnd (sm : Bool) (a : Reg) (b : Reg) (d : Reg) (c : Bool)
  /-- V_OR (R260). -/
  | vOr (sm : Bool) (a : Reg) (b : Reg) (d : Reg) (c : Bool)
  /-- V_XOR (R260). -/
  | vXor (sm : Bool) (a : Reg) (b : Reg) (d : Reg) (c : Bool)
  /-- V_SHL (R260). -/
  | vShl (sm : Bool) (a : Reg) (b : Reg) (d : Reg) (c : Bool)
  /-- V_SHR (R260). -/
  | vShr (sm : Bool) (a : Reg) (b : Reg) (d : Reg) (c : Bool)
  /-- V_CMP (R261). -/
  | vCmp (sm : Bool) (a : Reg) (b : Reg) (d : Reg) (c : Bool)
  /-- V_SEL (R262). -/
  | vSel (sm : Bool) (a : Reg) (b : Reg) (d : Reg) (c : Bool)
  /-- V_CVT (R263). -/
  | vCvt (sm : Bool) (a : Reg) (b : Reg) (d : Reg)
  /-- V_MOV (R262). -/
  | vMov (sm : Bool) (a : Reg) (b : Reg) (d : Reg)
  /-- V_RSUM (R265). -/
  | vRsum (sm : Bool) (a : Reg) (b : Reg) (d : Reg)
  /-- V_RMAX (R265). -/
  | vRmax (sm : Bool) (a : Reg) (b : Reg) (d : Reg)
  /-- V_RMIN (R265). -/
  | vRmin (sm : Bool) (a : Reg) (b : Reg) (d : Reg)
  /-- V_SCAN (R266). -/
  | vScan (sm : Bool) (a : Reg) (b : Reg) (d : Reg)
  /-- V_BCAST (R264). -/
  | vBcast (sm : Bool) (a : Reg) (b : Reg) (d : Reg) (c : Bool)
  /-- V_IOTA (R264). -/
  | vIota (sm : Bool) (a : Reg) (b : Reg) (d : Reg)
  /-- V_CLAMP (R260). -/
  | vClamp (sm : Bool) (a : Reg) (b : Reg) (d : Reg) (c : Bool)
  /-- V_SFU (R270). -/
  | vSfu (sm : Bool) (a : Reg) (b : Reg) (d : Reg)
  /-- V_GAT (R267). -/
  | vGat (sm : Bool) (a : Reg) (b : Reg) (d : Reg)
  /-- V_SCT (R268). -/
  | vSct (sm : Bool) (a : Reg) (b : Reg) (d : Reg)
  /-- SFU (R271). -/
  | sfu (sm : Bool) (d : Reg) (a : Reg) (r : Fin 4) (z : Bool) (f : Fin 8)
  /-- MX_CFG (R279). -/
  | mxCfg (sm : Bool) (a : Reg) (d : Reg)
  /-- MX_LD (R283). -/
  | mxLd (sm : Bool) (a : Reg) (b : Reg) (d : Reg) (v : Bool) (o : Bool) (u : Bool)
  /-- MX_MMA (R284). -/
  | mxMma (sm : Bool) (d : Reg) (v : Bool) (u : Bool) (n : Fin 8)
  /-- MX_ZERO (R286). -/
  | mxZero (sm : Bool) (d : Reg) (v : Bool) (n : Fin 8)
  /-- MX_ST (R287). -/
  | mxSt (sm : Bool) (a : Reg) (b : Reg) (d : Reg) (v : Bool) (n : Fin 8)
  /-- GM_LAY (R295). -/
  | gmLay (sm : Bool) (a : Reg) (b : Reg) (d : Reg) (v : Bool)
  /-- GM_GEMV (R296). -/
  | gmGemv (sm : Bool) (a : Reg) (b : Reg) (d : Reg) (v : Bool)
  /-- CP_BULK (R301). -/
  | cpBulk (sm : Bool) (a : Reg) (b : Reg) (d : Reg)
  /-- CP_CANCEL (R305). -/
  | cpCancel (sm : Bool) (a : Reg) (d : Reg)
  /-- GA_GATH (R306). -/
  | gaGath (sm : Bool) (a : Reg) (b : Reg) (d : Reg)
  /-- SC_SCAT (R307). -/
  | scScat (sm : Bool) (a : Reg) (b : Reg) (d : Reg) (u : Fin 8)
  /-- CL_AR (R312). -/
  | clAr (sm : Bool) (a : Reg) (b : Reg) (d : Reg) (u : Fin 8)
  /-- CL_AG (R312). -/
  | clAg (sm : Bool) (a : Reg) (b : Reg) (d : Reg)
  /-- CL_RS (R312). -/
  | clRs (sm : Bool) (a : Reg) (b : Reg) (d : Reg) (u : Fin 8)
  /-- CL_BC (R312). -/
  | clBc (sm : Bool) (a : Reg) (b : Reg) (d : Reg)
  /-- CL_SEND (R317). -/
  | clSend (sm : Bool) (a : Reg) (b : Reg) (d : Reg)
  /-- CL_RECV (R317). -/
  | clRecv (sm : Bool) (a : Reg) (b : Reg) (d : Reg)
  /-- CL_ABORT (R318). -/
  | clAbort (sm : Bool) (a : Reg) (b : Reg) (d : Reg)
  /-- SQ_OPEN (R332). -/
  | sqOpen (sm : Bool) (a : Reg) (b : Reg) (d : Reg) (n : Fin 16)
  /-- SQ_NEXT (R333). -/
  | sqNext (sm : Bool) (n : Fin 16)
  /-- SQ_END (R333). -/
  | sqEnd (sm : Bool) (m : PReg) (n : Fin 16)
  /-- SQ_CRD (R333). -/
  | sqCrd (sm : Bool) (d : Reg) (n : Fin 16)
  /-- SQ_POS (R333). -/
  | sqPos (sm : Bool) (d : Reg) (n : Fin 16) (p : Bool)
  /-- SQ_SEEK (R334). -/
  | sqSeek (sm : Bool) (a : Reg) (n : Fin 16)
  /-- SQ_ISECT (R337). -/
  | sqIsect (sm : Bool) (x : Fin 16) (y : Fin 16) (n : Fin 16)
  /-- SQ_UNION (R337). -/
  | sqUnion (sm : Bool) (x : Fin 16) (y : Fin 16) (n : Fin 16)
  /-- SQ_CLOSE (R336). -/
  | sqClose (sm : Bool) (n : Fin 16)
  /-- SQ_DRAIN (R339). -/
  | sqDrain (sm : Bool) (a : Reg) (b : Reg) (d : Reg) (n : Fin 16) (w : Bool)
  /-- SQ_PART (R340). -/
  | sqPart (sm : Bool) (a : Reg) (b : Reg) (d : Reg)
  /-- SQ_SAVE (R341). -/
  | sqSave (sm : Bool) (a : Reg) (n : Fin 16)
  /-- SQ_REST (R342). -/
  | sqRest (sm : Bool) (a : Reg) (n : Fin 16)
  /-- MX_SPMM (R345). -/
  | mxSpmm (sm : Bool) (a : Reg) (b : Reg) (d : Reg) (v : Bool) (w : Bool) (n : Fin 8)
  /-- SP_PACK (R360). -/
  | spPack (sm : Bool) (a : Reg) (b : Reg) (d : Reg)
  /-- SP_UNPACK (R361). -/
  | spUnpack (sm : Bool) (a : Reg) (b : Reg) (d : Reg)
  /-- SP_INVAL (R357). -/
  | spInval (sm : Bool) (a : Reg) (b : Reg) (d : Reg) (l : Bool)
  /-- SP_PIN (R358). -/
  | spPin (sm : Bool) (a : Reg) (b : Reg) (d : Reg) (o : Bool)
  /-- SP_STAT (R359). -/
  | spStat (sm : Bool) (a : Reg) (d : Reg) (c : Bool)
  /-- VB_ACQ (R234). -/
  | vbAcq (sm : Bool) (a : Reg) (d : Reg)
  /-- VB_ACQ_TRY (R234). -/
  | vbAcqTry (sm : Bool) (a : Reg) (d : Reg) (p : PReg)
  /-- VB_REL (R235). -/
  | vbRel (sm : Bool) (a : Reg) (d : Reg)
  /-- RDSYS (R237). -/
  | rdsys (sm : Bool) (d : Reg) (r : BitVec 12)
  /-- WRSYS (R183). -/
  | wrsys (sm : Bool) (a : Reg) (r : BitVec 12)
  /-- ECALL (R71). -/
  | ecall (sm : Bool)
  /-- EBREAK (R240). -/
  | ebreak (sm : Bool)
  /-- UPRET (R69). -/
  | upret (sm : Bool)
  /-- WCFG (R239). -/
  | wcfg (sm : Bool) (n : Fin 8) (a : Reg)
  /-- ERET (R385). -/
  | eret (sm : Bool)
  /-- FQ_POP (R400). -/
  | fqPop (sm : Bool) (d : Reg) (a : Reg) (b : Reg)
  /-- SVC_DONE (R401). -/
  | svcDone (sm : Bool) (d : Reg) (a : Reg) (b : Reg)
  /-- XLAT_INV (R402). -/
  | xlatInv (sm : Bool) (d : Reg) (a : Reg) (b : Reg)
  /-- CACHE_WB (R403). -/
  | cacheWb (sm : Bool) (d : Reg) (a : Reg) (b : Reg)
  /-- CACHE_INV (R403). -/
  | cacheInv (sm : Bool) (d : Reg) (a : Reg) (b : Reg)
  /-- CTX_SAVE (R388). -/
  | ctxSave (sm : Bool) (a : Reg)
  /-- CTX_REST (R388). -/
  | ctxRest (sm : Bool) (a : Reg)
  /-- HALT (R394). -/
  | halt (sm : Bool) (d : Reg) (a : Reg) (b : Reg)
  /-- NBR_PUT (R404). -/
  | nbrPut (sm : Bool) (d : Reg) (a : Reg) (b : Reg)
  /-- NBR_GET (R405). -/
  | nbrGet (sm : Bool) (d : Reg) (a : Reg) (b : Reg)
  /-- MCAST (R406). -/
  | mcast (sm : Bool) (d : Reg) (a : Reg) (b : Reg)
  /-- CL_REFORM (R462). -/
  | clReform (sm : Bool) (d : Reg) (a : Reg) (b : Reg)
  /-- LONG_RESULT_RETURN (R179), an event: no word encodes it. -/
  | longResultReturn
  /-- CHECK_POINT_PASS (R180), an event: no word encodes it. -/
  | checkPointPass
  /-- TRANSLATION_PROBE_RESULT (R416), an event: no word encodes it. -/
  | translationProbeResult
  /-- FAULT_RECORD_ADMIT (R424), an event: no word encodes it. -/
  | faultRecordAdmit
  /-- DIRTY_BIT_SET (R419), an event: no word encodes it. -/
  | dirtyBitSet
  /-- REMOTE_RESPONSE (R458), an event: no word encodes it. -/
  | remoteResponse
  /-- REDUCTION_APPLY (R156), an event: no word encodes it. -/
  | reductionApply
  /-- L1_WRITEBACK_DEADLINE (R123), an event: no word encodes it. -/
  | l1WritebackDeadline
  /-- PTS_TICK (R124), an event: no word encodes it. -/
  | ptsTick
  /-- FUMAROLE_WINDOW_CLOSE (R148), an event: no word encodes it. -/
  | fumaroleWindowClose
  /-- FUMAROLE_ARRIVAL (R149), an event: no word encodes it. -/
  | fumaroleArrival
  /-- VECTOR_PART_BIND (R258), an event: no word encodes it. -/
  | vectorPartBind
  /-- VECTOR_COMMAND_COMPLETE (R254), an event: no word encodes it. -/
  | vectorCommandComplete
  /-- GATHER_SCATTER_COMPLETE (R269), an event: no word encodes it. -/
  | gatherScatterComplete
  /-- SFU_ENTRY_SERVE (R272), an event: no word encodes it. -/
  | sfuEntryServe
  /-- SFU_RESULT_WRITE (R272), an event: no word encodes it. -/
  | sfuResultWrite
  /-- MX_CFG_APPLY (R279), an event: no word encodes it. -/
  | mxCfgApply
  /-- MATRIX_COMMAND_COMPLETE (R289), an event: no word encodes it. -/
  | matrixCommandComplete
  /-- COPY_COMPLETE (R304), an event: no word encodes it. -/
  | copyComplete
  /-- COLLECTIVE_MESSAGE (R461), an event: no word encodes it. -/
  | collectiveMessage
  /-- COLLECTIVE_TIMEOUT (R315), an event: no word encodes it. -/
  | collectiveTimeout
  /-- COLLECTIVE_COMPLETE (R314), an event: no word encodes it. -/
  | collectiveComplete
  /-- STREAM_FETCH_COMPLETE (R330), an event: no word encodes it. -/
  | streamFetchComplete
  /-- SINTER_COMPILE_COMPLETE (R351), an event: no word encodes it. -/
  | sinterCompileComplete
  /-- SWAP_THRESHOLD_EXPIRY (R57), an event: no word encodes it. -/
  | swapThresholdExpiry
  /-- TEAM_SWAP_OUT (R58), an event: no word encodes it. -/
  | teamSwapOut
  /-- TEAM_RESTORE (R58), an event: no word encodes it. -/
  | teamRestore
  /-- RESIDENCY_SLICE_END (R59), an event: no word encodes it. -/
  | residencySliceEnd
  /-- TEAM_PLACEMENT (R430), an event: no word encodes it. -/
  | teamPlacement
  /-- WATCHDOG_EXPIRY (R391), an event: no word encodes it. -/
  | watchdogExpiry
  /-- KILL_RECORD_APPEND (R390), an event: no word encodes it. -/
  | killRecordAppend
  /-- CONTROL_TICK (R433), an event: no word encodes it. -/
  | controlTick
  /-- DROOP_EVENT (R435), an event: no word encodes it. -/
  | droopEvent
  /-- DROOPY_END (R435), an event: no word encodes it. -/
  | droopyEnd
  /-- IDLE_TIMEOUT (R438), an event: no word encodes it. -/
  | idleTimeout
  /-- ADMISSION_SLOT (R440), an event: no word encodes it. -/
  | admissionSlot
  /-- VOLTAGE_SETTLED (R437), an event: no word encodes it. -/
  | voltageSettled
  /-- FREQ_PAUSE_END (R393), an event: no word encodes it. -/
  | freqPauseEnd
  /-- GANG_SWITCH_OUT (R395), an event: no word encodes it. -/
  | gangSwitchOut
  /-- GANG_SWITCH_IN (R397), an event: no word encodes it. -/
  | gangSwitchIn
  /-- LINK_REQUEST_TIMEOUT (R458), an event: no word encodes it. -/
  | linkRequestTimeout
  /-- PORT_RETRY_TIMEOUT (R459), an event: no word encodes it. -/
  | portRetryTimeout
  /-- LINK_UP (R455), an event: no word encodes it. -/
  | linkUp
  /-- ECC_ERROR (R477), an event: no word encodes it. -/
  | eccError
  /-- FATAL_ERROR (R476), an event: no word encodes it. -/
  | fatalError
  /-- FEATURES_OK (R446), an event: no word encodes it. -/
  | featuresOk
  /-- PART_SET (R445), an event: no word encodes it. -/
  | partSet
  /-- LINK_SET (R457), an event: no word encodes it. -/
  | linkSet
  /-- CXL_SET (R456), an event: no word encodes it. -/
  | cxlSet
  /-- QUERY (R449), an event: no word encodes it. -/
  | query
  /-- DEBUG_STOP (R449), an event: no word encodes it. -/
  | debugStop
  /-- DEBUG_RESUME (R449), an event: no word encodes it. -/
  | debugResume
  /-- MAP (R451), an event: no word encodes it. -/
  | map
  /-- UNMAP (R451), an event: no word encodes it. -/
  | unmap
  /-- LOAD_IMAGE (R452), an event: no word encodes it. -/
  | loadImage
  /-- SUBMIT (R453), an event: no word encodes it. -/
  | submit
  /-- SIGNAL (R454), an event: no word encodes it. -/
  | signal
  /-- COMM_CREATE (R460), an event: no word encodes it. -/
  | commCreate
  /-- COMM_REFORM (R462), an event: no word encodes it. -/
  | commReform
  /-- COMM_DESTROY (R460), an event: no word encodes it. -/
  | commDestroy
  /-- COMPLETION_EVENT_DELIVER (R453), an event: no word encodes it. -/
  | completionEventDeliver
  /-- EVENT_RECORD_DELIVER (R455), an event: no word encodes it. -/
  | eventRecordDeliver
  /-- RESET_RELEASE (R463), an event: no word encodes it. -/
  | resetRelease
  /-- POWER_LOSS (R475), an event: no word encodes it. -/
  | powerLoss
  /-- CXL_LINK_UP (R464), an event: no word encodes it. -/
  | cxlLinkUp
  /-- LEASE_POLL (R467), an event: no word encodes it. -/
  | leasePoll
  /-- LEASE_RENEW (R467), an event: no word encodes it. -/
  | leaseRenew
  /-- LEASE_PHASE_TIMEOUT (R467), an event: no word encodes it. -/
  | leasePhaseTimeout
  /-- START_TIMEOUT (R463), an event: no word encodes it. -/
  | startTimeout
  /-- NBR_PACKET_ARRIVAL (R471), an event: no word encodes it. -/
  | nbrPacketArrival
  /-- MAP_CHECK (R472), an event: no word encodes it. -/
  | mapCheck
  /-- BOOTOK (R463), an event: no word encodes it. -/
  | bootok
  /-- ILLEGAL_ENCODING (R8), an event: no word encodes it. -/
  | illegalEncoding
  /-- INSTRUCTION_FETCH_FAULT (R104), an event: no word encodes it. -/
  | instructionFetchFault
  /-- WRITE_PERFORMED (R147), an event: no word encodes it. -/
  | writePerformed
  /-- COORDINATOR_CONTACT_LOST (R315), an event: no word encodes it. -/
  | coordinatorContactLost
  /-- UNSUPPORTED_REQUEST (R448), an event: no word encodes it. -/
  | unsupportedRequest
  /-- PEER_REQUEST (R408), an event: no word encodes it. -/
  | peerRequest
deriving DecidableEq, Repr

end Sys2Proof
end

