-- ==== Sys2Proof/WellFormed.lean ====
section
/-! DEFINITION. Sys2Proof/WellFormed.lean: the field values that the instruction descriptions exclude (spec/06 R174, R176; spec/07 R204,
R207, R210, R213, R214, R219; spec/08 R271; spec/09 R297). An encoding whose fields break these raises ILLEGAL. An event has no fields. -/

namespace Sys2Proof

/-- The instruction's fields are ones that the manual assigns (R8, R176). -/
def Instr.wf : Instr → Bool
  | .add _ _ _ _ _ => true
  | .sub _ _ _ _ _ => true
  | .and _ _ _ _ => true
  | .or _ _ _ _ => true
  | .xor _ _ _ _ => true
  | .andn _ _ _ _ => true
  | .orn _ _ _ _ => true
  | .sll _ _ _ _ => true
  | .srl _ _ _ _ => true
  | .sra _ _ _ _ => true
  | .rol _ _ _ _ => true
  | .ror _ _ _ _ => true
  | .slt _ _ _ _ => true
  | .sltu _ _ _ _ => true
  | .min _ _ _ _ => true
  | .max _ _ _ _ => true
  | .minn _ _ _ _ => true
  | .maxn _ _ _ _ => true
  | .clz _ _ _ => true
  | .ctz _ _ _ => true
  | .pop _ _ _ => true
  | .brev _ _ _ => true
  | .bswap _ _ _ => true
  | .sextB _ _ _ => true
  | .sextH _ _ _ => true
  | .sextW _ _ _ => true
  | .zextW _ _ _ => true
  | .bfx _ _ _ _ => true
  | .bfi _ _ _ _ => true
  | .sel _ _ _ _ _ => true
  | .addi _ _ _ _ => true
  | .andi _ _ _ _ => true
  | .ori _ _ _ _ => true
  | .xori _ _ _ _ => true
  | .slli _ _ _ _ => true
  | .srli _ _ _ _ => true
  | .srai _ _ _ _ => true
  | .sltii _ _ _ _ => true
  | .sltin _ _ _ _ => true
  | .lih _ _ _ _ => true
  | .adpc _ _ _ => true
  | .mul _ _ _ _ _ => true
  | .mulh _ _ _ _ _ => true
  | .mulhn _ _ _ _ _ => true
  | .div _ _ _ _ _ => true
  | .divn _ _ _ _ _ => true
  | .rem _ _ _ _ _ => true
  | .remn _ _ _ _ _ => true
  | .fadd _ _ _ _ _ _ _ => true
  | .fsub _ _ _ _ _ _ _ => true
  | .fmul _ _ _ _ _ _ _ => true
  | .fma _ _ _ _ _ _ _ => true
  | .fdiv _ _ _ _ _ _ _ => true
  | .fsqrt _ _ _ _ _ _ => true
  | .fmin _ _ _ _ _ => true
  | .fmax _ _ _ _ _ => true
  | .fsign _ _ _ b m _ => !(m == 3) || b == 0
  | .fclass _ _ _ _ => true
  | .fcmp _ _ _ _ _ _ => true
  | .fcvt _ _ _ c x z r t => 1 ≤ c.val && c.val ≤ 9 && 1 ≤ t.val && t.val ≤ 9 && c != t && !(x && (t == 7 || t == 8 || (t == 9 && c != 8))) && !(8 ≤ c.val && 8 ≤ t.val && (z || r != 0))
  | .ld _ _ _ w h _ => w != 7 && h != 3
  | .st _ _ _ w h _ => w.val % 2 == 0 && h != 3
  | .lda _ _ _ w _ _ => w != 7
  | .stl _ _ _ w _ _ => w.val % 2 == 0
  | .amoAdd _ _ _ _ _ o _ => o.val ≤ 4
  | .amoAnd _ _ _ _ _ o _ => o.val ≤ 4
  | .amoOr _ _ _ _ _ o _ => o.val ≤ 4
  | .amoXor _ _ _ _ _ o _ => o.val ≤ 4
  | .amoMin _ _ _ _ _ o _ => o.val ≤ 4
  | .amoMax _ _ _ _ _ o _ => o.val ≤ 4
  | .amoMinn _ _ _ _ _ o _ => o.val ≤ 4
  | .amoMaxn _ _ _ _ _ o _ => o.val ≤ 4
  | .amoSwp _ _ _ _ _ o _ => o.val ≤ 4
  | .amoCas _ _ _ _ _ o _ => o.val ≤ 4
  | .amoFadd _ _ _ _ _ o _ => o.val ≤ 4
  | .redAdd _ _ _ _ o _ => o == 0 || o == 2
  | .redFadd _ _ _ _ o _ => o == 0 || o == 2
  | .redMin _ _ _ _ o _ => o == 0 || o == 2
  | .redMax _ _ _ _ o _ => o == 0 || o == 2
  | .redOr _ _ _ _ o _ => o == 0 || o == 2
  | .pf _ _ k => k.val ≤ 2
  | .beq _ _ _ _ => true
  | .bgeu _ _ _ _ => true
  | .bne _ _ _ _ => true
  | .blt _ _ _ _ => true
  | .bge _ _ _ _ => true
  | .bltu _ _ _ _ => true
  | .bp _ _ _ => true
  | .bnp _ _ _ => true
  | .jal _ _ _ => true
  | .jalr _ _ _ _ => true
  | .pcmp _ _ _ _ c => c.val ≤ 5
  | .pand _ _ _ _ => true
  | .por _ _ _ _ => true
  | .pxor _ _ _ _ => true
  | .pnot _ _ _ => true
  | .fenceAcq _ _ => true
  | .fenceRel _ _ => true
  | .fenceFull _ _ => true
  | .fenceSc _ _ => true
  | .barArv _ _ _ => true
  | .barWait _ _ _ => true
  | .barArw _ _ _ _ => true
  | .waitCnt _ _ _ => true
  | .tagWany _ _ => true
  | .tagWall _ _ => true
  | .tagFfr _ _ _ => true
  | .tagClr _ _ => true
  | .waitNtc _ _ => true
  | .yield _ => true
  | .rcv _ _ => true
  | .join _ => true
  | .exit _ => true
  | .fuse _ _ => true
  | .split _ => true
  | .voteAny _ _ _ => true
  | .voteAll _ _ _ => true
  | .voteBal _ _ _ => true
  | .lget _ _ _ _ => true
  | .wqInit _ _ _ _ _ => true
  | .wqNext _ _ _ _ => true
  | .tskDone _ _ _ => true
  | .tskSubmit _ _ _ => true
  | .stgAcq _ _ _ _ => true
  | .stgRel _ _ _ => true
  | .stgPeek _ _ _ => true
  | .vAdd _ _ _ _ _ => true
  | .vSub _ _ _ _ _ => true
  | .vMul _ _ _ _ _ => true
  | .vFma _ _ _ _ _ => true
  | .vFms _ _ _ _ _ => true
  | .vMin _ _ _ _ _ => true
  | .vMax _ _ _ _ _ => true
  | .vAbs _ _ _ _ => true
  | .vNeg _ _ _ _ => true
  | .vAnd _ _ _ _ _ => true
  | .vOr _ _ _ _ _ => true
  | .vXor _ _ _ _ _ => true
  | .vShl _ _ _ _ _ => true
  | .vShr _ _ _ _ _ => true
  | .vCmp _ _ _ _ _ => true
  | .vSel _ _ _ _ _ => true
  | .vCvt _ _ _ _ => true
  | .vMov _ _ _ _ => true
  | .vRsum _ _ _ _ => true
  | .vRmax _ _ _ _ => true
  | .vRmin _ _ _ _ => true
  | .vScan _ _ _ _ => true
  | .vBcast _ _ _ _ _ => true
  | .vIota _ _ _ _ => true
  | .vClamp _ _ _ _ _ => true
  | .vSfu _ _ _ _ => true
  | .vGat _ _ _ _ => true
  | .vSct _ _ _ _ => true
  | .sfu _ _ _ r _ f => r == 0 || f == 2
  | .mxCfg _ _ _ => true
  | .mxLd _ _ _ _ _ _ _ => true
  | .mxMma _ _ _ _ _ => true
  | .mxZero _ _ _ _ => true
  | .mxSt _ _ _ _ _ _ => true
  | .gmLay _ _ _ _ _ => true
  | .gmGemv _ _ _ _ _ => true
  | .cpBulk _ _ _ _ => true
  | .cpCancel _ _ _ => true
  | .gaGath _ _ _ _ => true
  | .scScat _ _ _ _ u => u.val ≤ 4
  | .clAr _ _ _ _ u => u.val ≤ 3
  | .clAg _ _ _ _ => true
  | .clRs _ _ _ _ u => u.val ≤ 3
  | .clBc _ _ _ _ => true
  | .clSend _ _ _ _ => true
  | .clRecv _ _ _ _ => true
  | .clAbort _ _ _ _ => true
  | .sqOpen _ _ _ _ _ => true
  | .sqNext _ _ => true
  | .sqEnd _ _ _ => true
  | .sqCrd _ _ _ => true
  | .sqPos _ _ _ _ => true
  | .sqSeek _ _ _ => true
  | .sqIsect _ _ _ _ => true
  | .sqUnion _ _ _ _ => true
  | .sqClose _ _ => true
  | .sqDrain _ _ _ _ _ _ => true
  | .sqPart _ _ _ _ => true
  | .sqSave _ _ _ => true
  | .sqRest _ _ _ => true
  | .mxSpmm _ _ _ _ _ _ _ => true
  | .spPack _ _ _ _ => true
  | .spUnpack _ _ _ _ => true
  | .spInval _ _ _ _ _ => true
  | .spPin _ _ _ _ _ => true
  | .spStat _ _ _ _ => true
  | .vbAcq _ _ _ => true
  | .vbAcqTry _ _ _ _ => true
  | .vbRel _ _ _ => true
  | .rdsys _ _ _ => true
  | .wrsys _ _ _ => true
  | .ecall _ => true
  | .ebreak _ => true
  | .upret _ => true
  | .wcfg _ _ _ => true
  | .eret _ => true
  | .fqPop _ _ _ _ => true
  | .svcDone _ _ _ _ => true
  | .xlatInv _ _ _ _ => true
  | .cacheWb _ _ _ _ => true
  | .cacheInv _ _ _ _ => true
  | .ctxSave _ _ => true
  | .ctxRest _ _ => true
  | .halt _ _ _ _ => true
  | .nbrPut _ _ _ _ => true
  | .nbrGet _ _ _ _ => true
  | .mcast _ _ _ _ => true
  | .clReform _ _ _ _ => true
  | .longResultReturn => true
  | .checkPointPass => true
  | .translationProbeResult => true
  | .faultRecordAdmit => true
  | .dirtyBitSet => true
  | .remoteResponse => true
  | .reductionApply => true
  | .l1WritebackDeadline => true
  | .ptsTick => true
  | .fumaroleWindowClose => true
  | .fumaroleArrival => true
  | .vectorPartBind => true
  | .vectorCommandComplete => true
  | .gatherScatterComplete => true
  | .sfuEntryServe => true
  | .sfuResultWrite => true
  | .mxCfgApply => true
  | .matrixCommandComplete => true
  | .copyComplete => true
  | .collectiveMessage => true
  | .collectiveTimeout => true
  | .collectiveComplete => true
  | .streamFetchComplete => true
  | .sinterCompileComplete => true
  | .swapThresholdExpiry => true
  | .teamSwapOut => true
  | .teamRestore => true
  | .residencySliceEnd => true
  | .teamPlacement => true
  | .watchdogExpiry => true
  | .killRecordAppend => true
  | .controlTick => true
  | .droopEvent => true
  | .droopyEnd => true
  | .idleTimeout => true
  | .admissionSlot => true
  | .voltageSettled => true
  | .freqPauseEnd => true
  | .gangSwitchOut => true
  | .gangSwitchIn => true
  | .linkRequestTimeout => true
  | .portRetryTimeout => true
  | .linkUp => true
  | .eccError => true
  | .fatalError => true
  | .featuresOk => true
  | .partSet => true
  | .linkSet => true
  | .cxlSet => true
  | .query => true
  | .debugStop => true
  | .debugResume => true
  | .map => true
  | .unmap => true
  | .loadImage => true
  | .submit => true
  | .signal => true
  | .commCreate => true
  | .commReform => true
  | .commDestroy => true
  | .completionEventDeliver => true
  | .eventRecordDeliver => true
  | .resetRelease => true
  | .powerLoss => true
  | .cxlLinkUp => true
  | .leasePoll => true
  | .leaseRenew => true
  | .leasePhaseTimeout => true
  | .startTimeout => true
  | .nbrPacketArrival => true
  | .mapCheck => true
  | .bootok => true
  | .illegalEncoding => true
  | .instructionFetchFault => true
  | .writePerformed => true
  | .coordinatorContactLost => true
  | .unsupportedRequest => true
  | .peerRequest => true

end Sys2Proof
end

