-- ==== Sys2Proof/Decode.lean ====
section
/-! DEFINITION. Sys2Proof/Decode.lean: the 32-bit instruction word (spec/06 R172 to R177), read major by major, and the encoder that
writes it back. Decoding is total: every word that no encoding assigns is rejected by name (R8, R176), and raises ILLEGAL when it is
issued. Fields are read and written as numbers: field [hi:lo] of the word w is (w / 2^lo) mod 2^(hi-lo+1) (R3). -/

namespace Sys2Proof

/-- Why a word is no instruction (R8, R176). -/
inductive DecodeError where
  /-- fewer than four bytes were given -/
  | truncated
  /-- the major of the word is not assigned (0x00, 0x28 to 0x3F) -/
  | reservedMajor (major : Nat)
  /-- the major is assigned, but not this function value, or a bit that must be zero is set -/
  | unassigned (major : Nat)
  /-- a field holds a value that the instruction's description excludes -/
  | illFormed (i : Instr)
deriving DecidableEq, Repr

/-- The k-bit field of w whose lowest bit is lo (R3). -/
def fld (w lo k : Nat) : Nat := w / 2 ^ lo % 2 ^ k

/-- One bit of w. -/
def bitAt (w lo : Nat) : Bool := fld w lo 1 == 1

/-- A k-bit field as a number below 2^k. -/
def finAt (k w lo : Nat) : Fin (2 ^ k) := ⟨fld w lo k, Nat.mod_lt _ (Nat.two_pow_pos k)⟩

/-- A k-bit field as bits. -/
def bvAt (k w lo : Nat) : BitVec k := BitVec.ofNat k (fld w lo k)

/-- Major 0x01 (R175). -/
def decIntR (w : Nat) : Option Instr :=
  if fld w 0 9 = 0 then some (.add (bitAt w 31) (finAt 5 w 20) (finAt 5 w 15) (finAt 5 w 10) (bitAt w 9)) else
  if fld w 0 9 = 1 then some (.sub (bitAt w 31) (finAt 5 w 20) (finAt 5 w 15) (finAt 5 w 10) (bitAt w 9)) else
  if fld w 0 10 = 2 then some (.and (bitAt w 31) (finAt 5 w 20) (finAt 5 w 15) (finAt 5 w 10)) else
  if fld w 0 10 = 3 then some (.or (bitAt w 31) (finAt 5 w 20) (finAt 5 w 15) (finAt 5 w 10)) else
  if fld w 0 10 = 4 then some (.xor (bitAt w 31) (finAt 5 w 20) (finAt 5 w 15) (finAt 5 w 10)) else
  if fld w 0 10 = 5 then some (.andn (bitAt w 31) (finAt 5 w 20) (finAt 5 w 15) (finAt 5 w 10)) else
  if fld w 0 10 = 6 then some (.orn (bitAt w 31) (finAt 5 w 20) (finAt 5 w 15) (finAt 5 w 10)) else
  if fld w 0 10 = 7 then some (.sll (bitAt w 31) (finAt 5 w 20) (finAt 5 w 15) (finAt 5 w 10)) else
  if fld w 0 10 = 8 then some (.srl (bitAt w 31) (finAt 5 w 20) (finAt 5 w 15) (finAt 5 w 10)) else
  if fld w 0 10 = 9 then some (.sra (bitAt w 31) (finAt 5 w 20) (finAt 5 w 15) (finAt 5 w 10)) else
  if fld w 0 10 = 10 then some (.rol (bitAt w 31) (finAt 5 w 20) (finAt 5 w 15) (finAt 5 w 10)) else
  if fld w 0 10 = 11 then some (.ror (bitAt w 31) (finAt 5 w 20) (finAt 5 w 15) (finAt 5 w 10)) else
  if fld w 0 10 = 12 then some (.slt (bitAt w 31) (finAt 5 w 20) (finAt 5 w 15) (finAt 5 w 10)) else
  if fld w 0 10 = 13 then some (.sltu (bitAt w 31) (finAt 5 w 20) (finAt 5 w 15) (finAt 5 w 10)) else
  if fld w 0 10 = 14 then some (.min (bitAt w 31) (finAt 5 w 20) (finAt 5 w 15) (finAt 5 w 10)) else
  if fld w 0 10 = 15 then some (.max (bitAt w 31) (finAt 5 w 20) (finAt 5 w 15) (finAt 5 w 10)) else
  if fld w 0 10 = 16 then some (.minn (bitAt w 31) (finAt 5 w 20) (finAt 5 w 15) (finAt 5 w 10)) else
  if fld w 0 10 = 17 then some (.maxn (bitAt w 31) (finAt 5 w 20) (finAt 5 w 15) (finAt 5 w 10)) else
  if fld w 0 15 = 18 then some (.clz (bitAt w 31) (finAt 5 w 20) (finAt 5 w 15)) else
  if fld w 0 15 = 19 then some (.ctz (bitAt w 31) (finAt 5 w 20) (finAt 5 w 15)) else
  if fld w 0 15 = 20 then some (.pop (bitAt w 31) (finAt 5 w 20) (finAt 5 w 15)) else
  if fld w 0 15 = 21 then some (.brev (bitAt w 31) (finAt 5 w 20) (finAt 5 w 15)) else
  if fld w 0 15 = 22 then some (.bswap (bitAt w 31) (finAt 5 w 20) (finAt 5 w 15)) else
  if fld w 0 15 = 23 then some (.sextB (bitAt w 31) (finAt 5 w 20) (finAt 5 w 15)) else
  if fld w 0 15 = 24 then some (.sextH (bitAt w 31) (finAt 5 w 20) (finAt 5 w 15)) else
  if fld w 0 15 = 25 then some (.sextW (bitAt w 31) (finAt 5 w 20) (finAt 5 w 15)) else
  if fld w 0 15 = 26 then some (.zextW (bitAt w 31) (finAt 5 w 20) (finAt 5 w 15)) else
  if fld w 0 10 = 27 then some (.bfx (bitAt w 31) (finAt 5 w 20) (finAt 5 w 15) (finAt 5 w 10)) else
  if fld w 0 10 = 28 then some (.bfi (bitAt w 31) (finAt 5 w 20) (finAt 5 w 15) (finAt 5 w 10)) else
  if fld w 0 6 = 29 ∧ fld w 9 1 = 0 then some (.sel (bitAt w 31) (finAt 5 w 20) (finAt 5 w 15) (finAt 5 w 10) (finAt 3 w 6)) else
  none

/-- Major 0x02 (R175). -/
def decAddi (w : Nat) : Option Instr :=
  some (.addi (bitAt w 31) (finAt 5 w 20) (finAt 5 w 15) (bvAt 15 w 0))

/-- Major 0x03 (R175). -/
def decAndi (w : Nat) : Option Instr :=
  some (.andi (bitAt w 31) (finAt 5 w 20) (finAt 5 w 15) (bvAt 15 w 0))

/-- Major 0x04 (R175). -/
def decOri (w : Nat) : Option Instr :=
  some (.ori (bitAt w 31) (finAt 5 w 20) (finAt 5 w 15) (bvAt 15 w 0))

/-- Major 0x05 (R175). -/
def decXori (w : Nat) : Option Instr :=
  some (.xori (bitAt w 31) (finAt 5 w 20) (finAt 5 w 15) (bvAt 15 w 0))

/-- Major 0x06 (R175). -/
def decShi (w : Nat) : Option Instr :=
  if fld w 6 9 = 0 then some (.slli (bitAt w 31) (finAt 5 w 20) (finAt 5 w 15) (finAt 6 w 0)) else
  if fld w 6 9 = 1 then some (.srli (bitAt w 31) (finAt 5 w 20) (finAt 5 w 15) (finAt 6 w 0)) else
  if fld w 6 9 = 2 then some (.srai (bitAt w 31) (finAt 5 w 20) (finAt 5 w 15) (finAt 6 w 0)) else
  none

/-- Major 0x07 (R175). -/
def decCmpi (w : Nat) : Option Instr :=
  if fld w 14 1 = 0 then some (.sltii (bitAt w 31) (finAt 5 w 20) (finAt 5 w 15) (bvAt 14 w 0)) else
  if fld w 14 1 = 1 then some (.sltin (bitAt w 31) (finAt 5 w 20) (finAt 5 w 15) (bvAt 14 w 0)) else
  none

/-- Major 0x08 (R175). -/
def decLih (w : Nat) : Option Instr :=
  some (.lih (bitAt w 31) (finAt 5 w 20) (finAt 4 w 16) (bvAt 16 w 0))

/-- Major 0x09 (R175). -/
def decAdpc (w : Nat) : Option Instr :=
  some (.adpc (bitAt w 31) (finAt 5 w 20) (bvAt 20 w 0))

/-- Major 0x0A (R175). -/
def decMulDiv (w : Nat) : Option Instr :=
  if fld w 0 3 = 0 ∧ fld w 4 6 = 0 then some (.mul (bitAt w 31) (finAt 5 w 20) (finAt 5 w 15) (finAt 5 w 10) (bitAt w 3)) else
  if fld w 0 3 = 1 ∧ fld w 4 6 = 0 then some (.mulh (bitAt w 31) (finAt 5 w 20) (finAt 5 w 15) (finAt 5 w 10) (bitAt w 3)) else
  if fld w 0 3 = 2 ∧ fld w 4 6 = 0 then some (.mulhn (bitAt w 31) (finAt 5 w 20) (finAt 5 w 15) (finAt 5 w 10) (bitAt w 3)) else
  if fld w 0 3 = 3 ∧ fld w 4 6 = 0 then some (.div (bitAt w 31) (finAt 5 w 20) (finAt 5 w 15) (finAt 5 w 10) (bitAt w 3)) else
  if fld w 0 3 = 4 ∧ fld w 4 6 = 0 then some (.divn (bitAt w 31) (finAt 5 w 20) (finAt 5 w 15) (finAt 5 w 10) (bitAt w 3)) else
  if fld w 0 3 = 5 ∧ fld w 4 6 = 0 then some (.rem (bitAt w 31) (finAt 5 w 20) (finAt 5 w 15) (finAt 5 w 10) (bitAt w 3)) else
  if fld w 0 3 = 6 ∧ fld w 4 6 = 0 then some (.remn (bitAt w 31) (finAt 5 w 20) (finAt 5 w 15) (finAt 5 w 10) (bitAt w 3)) else
  none

/-- Major 0x0B (R175). -/
def decFpR (w : Nat) : Option Instr :=
  if fld w 0 4 = 0 ∧ fld w 8 2 = 0 then some (.fadd (bitAt w 31) (finAt 5 w 20) (finAt 5 w 15) (finAt 5 w 10) (finAt 2 w 6) (bitAt w 5) (bitAt w 4)) else
  if fld w 0 4 = 1 ∧ fld w 8 2 = 0 then some (.fsub (bitAt w 31) (finAt 5 w 20) (finAt 5 w 15) (finAt 5 w 10) (finAt 2 w 6) (bitAt w 5) (bitAt w 4)) else
  if fld w 0 4 = 2 ∧ fld w 8 2 = 0 then some (.fmul (bitAt w 31) (finAt 5 w 20) (finAt 5 w 15) (finAt 5 w 10) (finAt 2 w 6) (bitAt w 5) (bitAt w 4)) else
  if fld w 0 4 = 3 ∧ fld w 8 2 = 0 then some (.fma (bitAt w 31) (finAt 5 w 20) (finAt 5 w 15) (finAt 5 w 10) (finAt 2 w 6) (bitAt w 5) (bitAt w 4)) else
  if fld w 0 4 = 4 ∧ fld w 8 2 = 0 then some (.fdiv (bitAt w 31) (finAt 5 w 20) (finAt 5 w 15) (finAt 5 w 10) (finAt 2 w 6) (bitAt w 5) (bitAt w 4)) else
  if fld w 0 4 = 5 ∧ fld w 8 7 = 0 then some (.fsqrt (bitAt w 31) (finAt 5 w 20) (finAt 5 w 15) (finAt 2 w 6) (bitAt w 5) (bitAt w 4)) else
  if fld w 0 4 = 6 ∧ fld w 5 5 = 0 then some (.fmin (bitAt w 31) (finAt 5 w 20) (finAt 5 w 15) (finAt 5 w 10) (bitAt w 4)) else
  if fld w 0 4 = 7 ∧ fld w 5 5 = 0 then some (.fmax (bitAt w 31) (finAt 5 w 20) (finAt 5 w 15) (finAt 5 w 10) (bitAt w 4)) else
  if fld w 0 4 = 8 ∧ fld w 5 1 = 0 ∧ fld w 8 2 = 0 then some (.fsign (bitAt w 31) (finAt 5 w 20) (finAt 5 w 15) (finAt 5 w 10) (finAt 2 w 6) (bitAt w 4)) else
  if fld w 0 4 = 9 ∧ fld w 5 10 = 0 then some (.fclass (bitAt w 31) (finAt 5 w 20) (finAt 5 w 15) (bitAt w 4)) else
  if fld w 0 4 = 10 ∧ fld w 8 2 = 0 ∧ fld w 23 2 = 0 then some (.fcmp (bitAt w 31) (finAt 3 w 20) (finAt 5 w 15) (finAt 5 w 10) (finAt 3 w 5) (bitAt w 4)) else
  none

/-- Major 0x0C (R175). -/
def decFpCvt (w : Nat) : Option Instr :=
  if fld w 8 2 = 0 ∧ fld w 14 1 = 0 then some (.fcvt (bitAt w 31) (finAt 5 w 20) (finAt 5 w 15) (finAt 4 w 10) (bitAt w 7) (bitAt w 6) (finAt 2 w 4) (finAt 4 w 0)) else
  none

/-- Major 0x0D (R175). -/
def decLd (w : Nat) : Option Instr :=
  some (.ld (bitAt w 31) (finAt 5 w 20) (finAt 5 w 15) (finAt 3 w 12) (finAt 2 w 10) (bvAt 10 w 0))

/-- Major 0x0E (R175). -/
def decSt (w : Nat) : Option Instr :=
  some (.st (bitAt w 31) (finAt 5 w 20) (finAt 5 w 15) (finAt 3 w 12) (finAt 2 w 10) (bvAt 10 w 0))

/-- Major 0x0F (R175). -/
def decLda (w : Nat) : Option Instr :=
  some (.lda (bitAt w 31) (finAt 5 w 20) (finAt 5 w 15) (finAt 3 w 12) (finAt 2 w 10) (bvAt 10 w 0))

/-- Major 0x10 (R175). -/
def decStl (w : Nat) : Option Instr :=
  some (.stl (bitAt w 31) (finAt 5 w 20) (finAt 5 w 15) (finAt 3 w 12) (finAt 2 w 10) (bvAt 10 w 0))

/-- Major 0x11 (R175). -/
def decAmo (w : Nat) : Option Instr :=
  if fld w 0 6 = 14 ∧ fld w 10 5 = 0 ∧ fld w 20 5 = 0 then some (.pf (bitAt w 31) (finAt 5 w 15) (finAt 4 w 6)) else
  if fld w 6 4 = 0 then some (.amoAdd (bitAt w 31) (finAt 5 w 20) (finAt 5 w 15) (finAt 5 w 10) (finAt 2 w 4) (finAt 3 w 1) (bitAt w 0)) else
  if fld w 6 4 = 1 then some (.amoAnd (bitAt w 31) (finAt 5 w 20) (finAt 5 w 15) (finAt 5 w 10) (finAt 2 w 4) (finAt 3 w 1) (bitAt w 0)) else
  if fld w 6 4 = 2 then some (.amoOr (bitAt w 31) (finAt 5 w 20) (finAt 5 w 15) (finAt 5 w 10) (finAt 2 w 4) (finAt 3 w 1) (bitAt w 0)) else
  if fld w 6 4 = 3 then some (.amoXor (bitAt w 31) (finAt 5 w 20) (finAt 5 w 15) (finAt 5 w 10) (finAt 2 w 4) (finAt 3 w 1) (bitAt w 0)) else
  if fld w 6 4 = 4 then some (.amoMin (bitAt w 31) (finAt 5 w 20) (finAt 5 w 15) (finAt 5 w 10) (finAt 2 w 4) (finAt 3 w 1) (bitAt w 0)) else
  if fld w 6 4 = 5 then some (.amoMax (bitAt w 31) (finAt 5 w 20) (finAt 5 w 15) (finAt 5 w 10) (finAt 2 w 4) (finAt 3 w 1) (bitAt w 0)) else
  if fld w 6 4 = 6 then some (.amoMinn (bitAt w 31) (finAt 5 w 20) (finAt 5 w 15) (finAt 5 w 10) (finAt 2 w 4) (finAt 3 w 1) (bitAt w 0)) else
  if fld w 6 4 = 7 then some (.amoMaxn (bitAt w 31) (finAt 5 w 20) (finAt 5 w 15) (finAt 5 w 10) (finAt 2 w 4) (finAt 3 w 1) (bitAt w 0)) else
  if fld w 6 4 = 8 then some (.amoSwp (bitAt w 31) (finAt 5 w 20) (finAt 5 w 15) (finAt 5 w 10) (finAt 2 w 4) (finAt 3 w 1) (bitAt w 0)) else
  if fld w 6 4 = 9 then some (.amoCas (bitAt w 31) (finAt 5 w 20) (finAt 5 w 15) (finAt 5 w 10) (finAt 2 w 4) (finAt 3 w 1) (bitAt w 0)) else
  if fld w 6 4 = 10 then some (.amoFadd (bitAt w 31) (finAt 5 w 20) (finAt 5 w 15) (finAt 5 w 10) (finAt 2 w 4) (finAt 3 w 1) (bitAt w 0)) else
  if fld w 6 4 = 11 ∧ fld w 20 5 = 0 then some (.redAdd (bitAt w 31) (finAt 5 w 15) (finAt 5 w 10) (finAt 2 w 4) (finAt 3 w 1) (bitAt w 0)) else
  if fld w 6 4 = 12 ∧ fld w 20 5 = 0 then some (.redFadd (bitAt w 31) (finAt 5 w 15) (finAt 5 w 10) (finAt 2 w 4) (finAt 3 w 1) (bitAt w 0)) else
  if fld w 6 4 = 13 ∧ fld w 20 5 = 0 then some (.redMin (bitAt w 31) (finAt 5 w 15) (finAt 5 w 10) (finAt 2 w 4) (finAt 3 w 1) (bitAt w 0)) else
  if fld w 6 4 = 14 ∧ fld w 20 5 = 0 then some (.redMax (bitAt w 31) (finAt 5 w 15) (finAt 5 w 10) (finAt 2 w 4) (finAt 3 w 1) (bitAt w 0)) else
  if fld w 6 4 = 15 ∧ fld w 20 5 = 0 then some (.redOr (bitAt w 31) (finAt 5 w 15) (finAt 5 w 10) (finAt 2 w 4) (finAt 3 w 1) (bitAt w 0)) else
  none

/-- Major 0x12 (R175). -/
def decBeq (w : Nat) : Option Instr :=
  some (.beq (bitAt w 31) (finAt 5 w 20) (finAt 5 w 15) (bvAt 15 w 0))

/-- Major 0x13 (R175). -/
def decBgeu (w : Nat) : Option Instr :=
  some (.bgeu (bitAt w 31) (finAt 5 w 20) (finAt 5 w 15) (bvAt 15 w 0))

/-- Major 0x14 (R175). -/
def decBp (w : Nat) : Option Instr :=
  if fld w 21 1 = 0 then some (.bp (bitAt w 31) (finAt 3 w 22) (bvAt 21 w 0)) else
  if fld w 21 1 = 1 then some (.bnp (bitAt w 31) (finAt 3 w 22) (bvAt 21 w 0)) else
  none

/-- Major 0x15 (R175). -/
def decJal (w : Nat) : Option Instr :=
  some (.jal (bitAt w 31) (finAt 5 w 20) (bvAt 20 w 0))

/-- Major 0x16 (R175). -/
def decJalr (w : Nat) : Option Instr :=
  some (.jalr (bitAt w 31) (finAt 5 w 20) (finAt 5 w 15) (bvAt 15 w 0))

/-- Major 0x17 (R175). -/
def decPred (w : Nat) : Option Instr :=
  if fld w 3 7 = 0 ∧ fld w 23 2 = 0 then some (.pcmp (bitAt w 31) (finAt 3 w 20) (finAt 5 w 15) (finAt 5 w 10) (finAt 3 w 0)) else
  if fld w 0 10 = 64 ∧ fld w 13 2 = 0 ∧ fld w 18 2 = 0 ∧ fld w 23 2 = 0 then some (.pand (bitAt w 31) (finAt 3 w 20) (finAt 3 w 15) (finAt 3 w 10)) else
  if fld w 0 10 = 128 ∧ fld w 13 2 = 0 ∧ fld w 18 2 = 0 ∧ fld w 23 2 = 0 then some (.por (bitAt w 31) (finAt 3 w 20) (finAt 3 w 15) (finAt 3 w 10)) else
  if fld w 0 10 = 192 ∧ fld w 13 2 = 0 ∧ fld w 18 2 = 0 ∧ fld w 23 2 = 0 then some (.pxor (bitAt w 31) (finAt 3 w 20) (finAt 3 w 15) (finAt 3 w 10)) else
  if fld w 0 15 = 256 ∧ fld w 18 2 = 0 ∧ fld w 23 2 = 0 then some (.pnot (bitAt w 31) (finAt 3 w 20) (finAt 3 w 15)) else
  none

/-- Major 0x18 (R175). -/
def decSync (w : Nat) : Option Instr :=
  if fld w 2 23 = 0 then some (.fenceAcq (bitAt w 31) (finAt 2 w 0)) else
  if fld w 2 23 = 1 then some (.fenceRel (bitAt w 31) (finAt 2 w 0)) else
  if fld w 2 23 = 2 then some (.fenceFull (bitAt w 31) (finAt 2 w 0)) else
  if fld w 2 23 = 3 then some (.fenceSc (bitAt w 31) (finAt 2 w 0)) else
  if fld w 5 10 = 1 ∧ fld w 20 5 = 0 then some (.barArv (bitAt w 31) (finAt 5 w 15) (finAt 5 w 0)) else
  if fld w 5 15 = 2 then some (.barWait (bitAt w 31) (finAt 5 w 20) (finAt 5 w 0)) else
  if fld w 5 10 = 3 then some (.barArw (bitAt w 31) (finAt 5 w 20) (finAt 5 w 15) (finAt 5 w 0)) else
  if fld w 2 8 = 32 ∧ fld w 20 5 = 0 then some (.waitCnt (bitAt w 31) (bvAt 10 w 10) (finAt 2 w 0)) else
  if fld w 0 15 = 160 ∧ fld w 20 5 = 0 then some (.tagWany (bitAt w 31) (finAt 5 w 15)) else
  if fld w 0 15 = 192 ∧ fld w 20 5 = 0 then some (.tagWall (bitAt w 31) (finAt 5 w 15)) else
  if fld w 0 15 = 224 then some (.tagFfr (bitAt w 31) (finAt 5 w 20) (finAt 5 w 15)) else
  if fld w 0 15 = 256 ∧ fld w 20 5 = 0 then some (.tagClr (bitAt w 31) (finAt 5 w 15)) else
  if fld w 0 15 = 288 ∧ fld w 20 5 = 0 then some (.waitNtc (bitAt w 31) (finAt 5 w 15)) else
  if fld w 0 25 = 320 then some (.yield (bitAt w 31)) else
  if fld w 0 10 = 352 then some (.rcv (bitAt w 31) (bvAt 15 w 10)) else
  if fld w 0 25 = 384 then some (.join (bitAt w 31)) else
  if fld w 0 25 = 416 then some (.exit (bitAt w 31)) else
  none

/-- Major 0x19 (R175). -/
def decSimt (w : Nat) : Option Instr :=
  if fld w 5 20 = 0 then some (.fuse (bitAt w 31) (finAt 5 w 0)) else
  if fld w 0 25 = 32 then some (.split (bitAt w 31)) else
  if fld w 0 15 = 64 ∧ fld w 18 2 = 0 ∧ fld w 23 2 = 0 then some (.voteAny (bitAt w 31) (finAt 3 w 20) (finAt 3 w 15)) else
  if fld w 0 15 = 96 ∧ fld w 18 2 = 0 ∧ fld w 23 2 = 0 then some (.voteAll (bitAt w 31) (finAt 3 w 20) (finAt 3 w 15)) else
  if fld w 0 15 = 128 ∧ fld w 18 2 = 0 then some (.voteBal (bitAt w 31) (finAt 5 w 20) (finAt 3 w 15)) else
  if fld w 0 10 = 160 then some (.lget (bitAt w 31) (finAt 5 w 20) (finAt 5 w 15) (finAt 5 w 10)) else
  none

/-- Major 0x1A (R175). -/
def decTask (w : Nat) : Option Instr :=
  if fld w 2 8 = 0 then some (.wqInit (bitAt w 31) (finAt 5 w 20) (finAt 5 w 15) (finAt 5 w 10) (finAt 2 w 0)) else
  if fld w 5 5 = 2 ∧ fld w 15 10 = 0 then some (.wqNext (bitAt w 31) (finAt 5 w 10) (finAt 3 w 2) (finAt 2 w 0)) else
  if fld w 0 10 = 128 ∧ fld w 15 5 = 0 then some (.tskDone (bitAt w 31) (finAt 5 w 20) (finAt 5 w 10)) else
  if fld w 0 10 = 192 ∧ fld w 15 5 = 0 then some (.tskSubmit (bitAt w 31) (finAt 5 w 20) (finAt 5 w 10)) else
  if fld w 0 2 = 0 ∧ fld w 6 14 = 4 then some (.stgAcq (bitAt w 31) (finAt 5 w 20) (finAt 3 w 3) (bitAt w 2)) else
  if fld w 0 3 = 0 ∧ fld w 6 14 = 5 then some (.stgRel (bitAt w 31) (finAt 5 w 20) (finAt 3 w 3)) else
  if fld w 0 3 = 0 ∧ fld w 6 4 = 6 ∧ fld w 15 10 = 0 then some (.stgPeek (bitAt w 31) (finAt 5 w 10) (finAt 3 w 3)) else
  none

/-- Major 0x1B (R175). -/
def decVec (w : Nat) : Option Instr :=
  if fld w 1 9 = 0 then some (.vAdd (bitAt w 31) (finAt 5 w 20) (finAt 5 w 15) (finAt 5 w 10) (bitAt w 0)) else
  if fld w 1 9 = 16 then some (.vSub (bitAt w 31) (finAt 5 w 20) (finAt 5 w 15) (finAt 5 w 10) (bitAt w 0)) else
  if fld w 1 9 = 32 then some (.vMul (bitAt w 31) (finAt 5 w 20) (finAt 5 w 15) (finAt 5 w 10) (bitAt w 0)) else
  if fld w 1 9 = 48 then some (.vFma (bitAt w 31) (finAt 5 w 20) (finAt 5 w 15) (finAt 5 w 10) (bitAt w 0)) else
  if fld w 1 9 = 64 then some (.vFms (bitAt w 31) (finAt 5 w 20) (finAt 5 w 15) (finAt 5 w 10) (bitAt w 0)) else
  if fld w 1 9 = 80 then some (.vMin (bitAt w 31) (finAt 5 w 20) (finAt 5 w 15) (finAt 5 w 10) (bitAt w 0)) else
  if fld w 1 9 = 96 then some (.vMax (bitAt w 31) (finAt 5 w 20) (finAt 5 w 15) (finAt 5 w 10) (bitAt w 0)) else
  if fld w 0 10 = 224 then some (.vAbs (bitAt w 31) (finAt 5 w 20) (finAt 5 w 15) (finAt 5 w 10)) else
  if fld w 0 10 = 256 then some (.vNeg (bitAt w 31) (finAt 5 w 20) (finAt 5 w 15) (finAt 5 w 10)) else
  if fld w 1 9 = 144 then some (.vAnd (bitAt w 31) (finAt 5 w 20) (finAt 5 w 15) (finAt 5 w 10) (bitAt w 0)) else
  if fld w 1 9 = 160 then some (.vOr (bitAt w 31) (finAt 5 w 20) (finAt 5 w 15) (finAt 5 w 10) (bitAt w 0)) else
  if fld w 1 9 = 176 then some (.vXor (bitAt w 31) (finAt 5 w 20) (finAt 5 w 15) (finAt 5 w 10) (bitAt w 0)) else
  if fld w 1 9 = 192 then some (.vShl (bitAt w 31) (finAt 5 w 20) (finAt 5 w 15) (finAt 5 w 10) (bitAt w 0)) else
  if fld w 1 9 = 208 then some (.vShr (bitAt w 31) (finAt 5 w 20) (finAt 5 w 15) (finAt 5 w 10) (bitAt w 0)) else
  if fld w 1 9 = 224 then some (.vCmp (bitAt w 31) (finAt 5 w 20) (finAt 5 w 15) (finAt 5 w 10) (bitAt w 0)) else
  if fld w 1 9 = 240 then some (.vSel (bitAt w 31) (finAt 5 w 20) (finAt 5 w 15) (finAt 5 w 10) (bitAt w 0)) else
  if fld w 0 10 = 512 then some (.vCvt (bitAt w 31) (finAt 5 w 20) (finAt 5 w 15) (finAt 5 w 10)) else
  if fld w 0 10 = 544 then some (.vMov (bitAt w 31) (finAt 5 w 20) (finAt 5 w 15) (finAt 5 w 10)) else
  if fld w 0 10 = 576 then some (.vRsum (bitAt w 31) (finAt 5 w 20) (finAt 5 w 15) (finAt 5 w 10)) else
  if fld w 0 10 = 608 then some (.vRmax (bitAt w 31) (finAt 5 w 20) (finAt 5 w 15) (finAt 5 w 10)) else
  if fld w 0 10 = 640 then some (.vRmin (bitAt w 31) (finAt 5 w 20) (finAt 5 w 15) (finAt 5 w 10)) else
  if fld w 0 10 = 672 then some (.vScan (bitAt w 31) (finAt 5 w 20) (finAt 5 w 15) (finAt 5 w 10)) else
  if fld w 1 9 = 352 then some (.vBcast (bitAt w 31) (finAt 5 w 20) (finAt 5 w 15) (finAt 5 w 10) (bitAt w 0)) else
  if fld w 0 10 = 737 then some (.vIota (bitAt w 31) (finAt 5 w 20) (finAt 5 w 15) (finAt 5 w 10)) else
  if fld w 1 9 = 384 then some (.vClamp (bitAt w 31) (finAt 5 w 20) (finAt 5 w 15) (finAt 5 w 10) (bitAt w 0)) else
  if fld w 0 10 = 800 then some (.vSfu (bitAt w 31) (finAt 5 w 20) (finAt 5 w 15) (finAt 5 w 10)) else
  if fld w 0 10 = 832 then some (.vGat (bitAt w 31) (finAt 5 w 20) (finAt 5 w 15) (finAt 5 w 10)) else
  if fld w 0 10 = 864 then some (.vSct (bitAt w 31) (finAt 5 w 20) (finAt 5 w 15) (finAt 5 w 10)) else
  none

/-- Major 0x1C (R175). -/
def decSfu (w : Nat) : Option Instr :=
  if fld w 6 9 = 0 then some (.sfu (bitAt w 31) (finAt 5 w 20) (finAt 5 w 15) (finAt 2 w 4) (bitAt w 3) (finAt 3 w 0)) else
  none

/-- Major 0x1D (R175). -/
def decMat (w : Nat) : Option Instr :=
  if fld w 0 10 = 0 ∧ fld w 15 5 = 0 then some (.mxCfg (bitAt w 31) (finAt 5 w 20) (finAt 5 w 10)) else
  if fld w 0 3 = 0 ∧ fld w 6 4 = 1 then some (.mxLd (bitAt w 31) (finAt 5 w 20) (finAt 5 w 15) (finAt 5 w 10) (bitAt w 5) (bitAt w 4) (bitAt w 3)) else
  if fld w 4 1 = 0 ∧ fld w 6 4 = 2 ∧ fld w 15 10 = 0 then some (.mxMma (bitAt w 31) (finAt 5 w 10) (bitAt w 5) (bitAt w 3) (finAt 3 w 0)) else
  if fld w 3 2 = 0 ∧ fld w 6 4 = 3 ∧ fld w 15 10 = 0 then some (.mxZero (bitAt w 31) (finAt 5 w 10) (bitAt w 5) (finAt 3 w 0)) else
  if fld w 3 2 = 0 ∧ fld w 6 4 = 4 then some (.mxSt (bitAt w 31) (finAt 5 w 20) (finAt 5 w 15) (finAt 5 w 10) (bitAt w 5) (finAt 3 w 0)) else
  if fld w 0 5 = 0 ∧ fld w 6 4 = 5 then some (.gmLay (bitAt w 31) (finAt 5 w 20) (finAt 5 w 15) (finAt 5 w 10) (bitAt w 5)) else
  if fld w 0 5 = 0 ∧ fld w 6 4 = 6 then some (.gmGemv (bitAt w 31) (finAt 5 w 20) (finAt 5 w 15) (finAt 5 w 10) (bitAt w 5)) else
  none

/-- Major 0x1E (R175). -/
def decCopy (w : Nat) : Option Instr :=
  if fld w 0 10 = 0 then some (.cpBulk (bitAt w 31) (finAt 5 w 20) (finAt 5 w 15) (finAt 5 w 10)) else
  if fld w 0 10 = 64 ∧ fld w 15 5 = 0 then some (.cpCancel (bitAt w 31) (finAt 5 w 20) (finAt 5 w 10)) else
  if fld w 0 10 = 128 then some (.gaGath (bitAt w 31) (finAt 5 w 20) (finAt 5 w 15) (finAt 5 w 10)) else
  if fld w 0 3 = 0 ∧ fld w 6 4 = 3 then some (.scScat (bitAt w 31) (finAt 5 w 20) (finAt 5 w 15) (finAt 5 w 10) (finAt 3 w 3)) else
  if fld w 0 3 = 0 ∧ fld w 6 4 = 4 then some (.clAr (bitAt w 31) (finAt 5 w 20) (finAt 5 w 15) (finAt 5 w 10) (finAt 3 w 3)) else
  if fld w 0 10 = 320 then some (.clAg (bitAt w 31) (finAt 5 w 20) (finAt 5 w 15) (finAt 5 w 10)) else
  if fld w 0 3 = 0 ∧ fld w 6 4 = 6 then some (.clRs (bitAt w 31) (finAt 5 w 20) (finAt 5 w 15) (finAt 5 w 10) (finAt 3 w 3)) else
  if fld w 0 10 = 448 then some (.clBc (bitAt w 31) (finAt 5 w 20) (finAt 5 w 15) (finAt 5 w 10)) else
  if fld w 0 10 = 512 then some (.clSend (bitAt w 31) (finAt 5 w 20) (finAt 5 w 15) (finAt 5 w 10)) else
  if fld w 0 10 = 576 then some (.clRecv (bitAt w 31) (finAt 5 w 20) (finAt 5 w 15) (finAt 5 w 10)) else
  if fld w 0 10 = 640 then some (.clAbort (bitAt w 31) (finAt 5 w 20) (finAt 5 w 15) (finAt 5 w 10)) else
  none

/-- Major 0x1F (R175). -/
def decStrm (w : Nat) : Option Instr :=
  if fld w 0 2 = 0 ∧ fld w 6 4 = 0 then some (.sqOpen (bitAt w 31) (finAt 5 w 20) (finAt 5 w 15) (finAt 5 w 10) (finAt 4 w 2)) else
  if fld w 0 2 = 0 ∧ fld w 6 19 = 1 then some (.sqNext (bitAt w 31) (finAt 4 w 2)) else
  if fld w 0 2 = 0 ∧ fld w 6 4 = 2 ∧ fld w 13 12 = 0 then some (.sqEnd (bitAt w 31) (finAt 3 w 10) (finAt 4 w 2)) else
  if fld w 0 2 = 0 ∧ fld w 6 4 = 3 ∧ fld w 15 10 = 0 then some (.sqCrd (bitAt w 31) (finAt 5 w 10) (finAt 4 w 2)) else
  if fld w 1 1 = 0 ∧ fld w 6 4 = 4 ∧ fld w 15 10 = 0 then some (.sqPos (bitAt w 31) (finAt 5 w 10) (finAt 4 w 2) (bitAt w 0)) else
  if fld w 0 2 = 0 ∧ fld w 6 14 = 5 then some (.sqSeek (bitAt w 31) (finAt 5 w 20) (finAt 4 w 2)) else
  if fld w 0 2 = 0 ∧ fld w 6 9 = 6 ∧ fld w 19 1 = 0 ∧ fld w 24 1 = 0 then some (.sqIsect (bitAt w 31) (finAt 4 w 20) (finAt 4 w 15) (finAt 4 w 2)) else
  if fld w 0 2 = 0 ∧ fld w 6 9 = 7 ∧ fld w 19 1 = 0 ∧ fld w 24 1 = 0 then some (.sqUnion (bitAt w 31) (finAt 4 w 20) (finAt 4 w 15) (finAt 4 w 2)) else
  if fld w 0 2 = 0 ∧ fld w 6 19 = 8 then some (.sqClose (bitAt w 31) (finAt 4 w 2)) else
  if fld w 1 1 = 0 ∧ fld w 6 4 = 9 then some (.sqDrain (bitAt w 31) (finAt 5 w 20) (finAt 5 w 15) (finAt 5 w 10) (finAt 4 w 2) (bitAt w 0)) else
  if fld w 0 10 = 640 then some (.sqPart (bitAt w 31) (finAt 5 w 20) (finAt 5 w 15) (finAt 5 w 10)) else
  if fld w 0 2 = 0 ∧ fld w 6 14 = 11 then some (.sqSave (bitAt w 31) (finAt 5 w 20) (finAt 4 w 2)) else
  if fld w 0 2 = 0 ∧ fld w 6 14 = 12 then some (.sqRest (bitAt w 31) (finAt 5 w 20) (finAt 4 w 2)) else
  none

/-- Major 0x20 (R175). -/
def decSpar (w : Nat) : Option Instr :=
  if fld w 3 1 = 0 ∧ fld w 6 4 = 0 then some (.mxSpmm (bitAt w 31) (finAt 5 w 20) (finAt 5 w 15) (finAt 5 w 10) (bitAt w 5) (bitAt w 4) (finAt 3 w 0)) else
  if fld w 0 10 = 64 then some (.spPack (bitAt w 31) (finAt 5 w 20) (finAt 5 w 15) (finAt 5 w 10)) else
  if fld w 0 10 = 128 then some (.spUnpack (bitAt w 31) (finAt 5 w 20) (finAt 5 w 15) (finAt 5 w 10)) else
  if fld w 1 9 = 96 then some (.spInval (bitAt w 31) (finAt 5 w 20) (finAt 5 w 15) (finAt 5 w 10) (bitAt w 0)) else
  if fld w 1 9 = 128 then some (.spPin (bitAt w 31) (finAt 5 w 20) (finAt 5 w 15) (finAt 5 w 10) (bitAt w 0)) else
  if fld w 1 9 = 160 ∧ fld w 15 5 = 0 then some (.spStat (bitAt w 31) (finAt 5 w 20) (finAt 5 w 10) (bitAt w 0)) else
  none

/-- Major 0x21 (R175). -/
def decVrb (w : Nat) : Option Instr :=
  if fld w 0 10 = 0 ∧ fld w 15 5 = 0 then some (.vbAcq (bitAt w 31) (finAt 5 w 20) (finAt 5 w 10)) else
  if fld w 0 2 = 0 ∧ fld w 5 5 = 1 ∧ fld w 15 5 = 0 then some (.vbAcqTry (bitAt w 31) (finAt 5 w 20) (finAt 5 w 10) (finAt 3 w 2)) else
  if fld w 0 10 = 64 ∧ fld w 15 5 = 0 then some (.vbRel (bitAt w 31) (finAt 5 w 20) (finAt 5 w 10)) else
  none

/-- Major 0x22 (R175). -/
def decSysReg (w : Nat) : Option Instr :=
  if fld w 12 8 = 0 then some (.rdsys (bitAt w 31) (finAt 5 w 20) (bvAt 12 w 0)) else
  if fld w 12 3 = 4 ∧ fld w 20 5 = 0 then some (.wrsys (bitAt w 31) (finAt 5 w 15) (bvAt 12 w 0)) else
  none

/-- Major 0x23 (R175). -/
def decSys (w : Nat) : Option Instr :=
  if fld w 0 25 = 0 then some (.ecall (bitAt w 31)) else
  if fld w 0 25 = 1 then some (.ebreak (bitAt w 31)) else
  if fld w 0 25 = 2 then some (.upret (bitAt w 31)) else
  if fld w 0 15 = 3 ∧ fld w 23 2 = 0 then some (.wcfg (bitAt w 31) (finAt 3 w 20) (finAt 5 w 15)) else
  if fld w 0 25 = 256 then some (.eret (bitAt w 31)) else
  if fld w 0 10 = 257 then some (.fqPop (bitAt w 31) (finAt 5 w 20) (finAt 5 w 15) (finAt 5 w 10)) else
  if fld w 0 10 = 258 then some (.svcDone (bitAt w 31) (finAt 5 w 20) (finAt 5 w 15) (finAt 5 w 10)) else
  if fld w 0 10 = 259 then some (.xlatInv (bitAt w 31) (finAt 5 w 20) (finAt 5 w 15) (finAt 5 w 10)) else
  if fld w 0 10 = 260 then some (.cacheWb (bitAt w 31) (finAt 5 w 20) (finAt 5 w 15) (finAt 5 w 10)) else
  if fld w 0 10 = 261 then some (.cacheInv (bitAt w 31) (finAt 5 w 20) (finAt 5 w 15) (finAt 5 w 10)) else
  if fld w 0 15 = 262 ∧ fld w 20 5 = 0 then some (.ctxSave (bitAt w 31) (finAt 5 w 15)) else
  if fld w 0 15 = 263 ∧ fld w 20 5 = 0 then some (.ctxRest (bitAt w 31) (finAt 5 w 15)) else
  if fld w 0 10 = 264 then some (.halt (bitAt w 31) (finAt 5 w 20) (finAt 5 w 15) (finAt 5 w 10)) else
  if fld w 0 10 = 265 then some (.nbrPut (bitAt w 31) (finAt 5 w 20) (finAt 5 w 15) (finAt 5 w 10)) else
  if fld w 0 10 = 266 then some (.nbrGet (bitAt w 31) (finAt 5 w 20) (finAt 5 w 15) (finAt 5 w 10)) else
  if fld w 0 10 = 267 then some (.mcast (bitAt w 31) (finAt 5 w 20) (finAt 5 w 15) (finAt 5 w 10)) else
  if fld w 0 10 = 268 then some (.clReform (bitAt w 31) (finAt 5 w 20) (finAt 5 w 15) (finAt 5 w 10)) else
  none

/-- Major 0x24 (R175). -/
def decBne (w : Nat) : Option Instr :=
  some (.bne (bitAt w 31) (finAt 5 w 20) (finAt 5 w 15) (bvAt 15 w 0))

/-- Major 0x25 (R175). -/
def decBlt (w : Nat) : Option Instr :=
  some (.blt (bitAt w 31) (finAt 5 w 20) (finAt 5 w 15) (bvAt 15 w 0))

/-- Major 0x26 (R175). -/
def decBge (w : Nat) : Option Instr :=
  some (.bge (bitAt w 31) (finAt 5 w 20) (finAt 5 w 15) (bvAt 15 w 0))

/-- Major 0x27 (R175). -/
def decBltu (w : Nat) : Option Instr :=
  some (.bltu (bitAt w 31) (finAt 5 w 20) (finAt 5 w 15) (bvAt 15 w 0))

/-- The majors of R175. -/
def decMajor (w : Nat) : Option Instr :=
  match fld w 25 6 with
  | 1 => decIntR w
  | 2 => decAddi w
  | 3 => decAndi w
  | 4 => decOri w
  | 5 => decXori w
  | 6 => decShi w
  | 7 => decCmpi w
  | 8 => decLih w
  | 9 => decAdpc w
  | 10 => decMulDiv w
  | 11 => decFpR w
  | 12 => decFpCvt w
  | 13 => decLd w
  | 14 => decSt w
  | 15 => decLda w
  | 16 => decStl w
  | 17 => decAmo w
  | 18 => decBeq w
  | 19 => decBgeu w
  | 20 => decBp w
  | 21 => decJal w
  | 22 => decJalr w
  | 23 => decPred w
  | 24 => decSync w
  | 25 => decSimt w
  | 26 => decTask w
  | 27 => decVec w
  | 28 => decSfu w
  | 29 => decMat w
  | 30 => decCopy w
  | 31 => decStrm w
  | 32 => decSpar w
  | 33 => decVrb w
  | 34 => decSysReg w
  | 35 => decSys w
  | 36 => decBne w
  | 37 => decBlt w
  | 38 => decBge w
  | 39 => decBltu w
  | _ => none

/-- The major is one that R175 assigns. -/
def majorAssigned (m : Nat) : Bool := 1 ≤ m && m ≤ 0x27

/-- The instruction a word holds, or why it holds none (R8, R176). -/
def decodeWord (w : Nat) : Except DecodeError Instr :=
  match decMajor w with
  | some i => if i.wf then .ok i else .error (.illFormed i)
  | none => if majorAssigned (fld w 25 6) then .error (.unassigned (fld w 25 6)) else .error (.reservedMajor (fld w 25 6))

/-- The word that four bytes hold, the lowest address first (R4). -/
def wordOfBytes (b0 b1 b2 b3 : Byte) : Nat :=
  b0.toNat + b1.toNat * 2 ^ 8 + b2.toNat * 2 ^ 16 + b3.toNat * 2 ^ 24

/-- The four bytes of a word, the lowest address first (R4). -/
def bytesOfWord (w : Nat) : List Byte :=
  [BitVec.ofNat 8 w, BitVec.ofNat 8 (w / 2 ^ 8), BitVec.ofNat 8 (w / 2 ^ 16), BitVec.ofNat 8 (w / 2 ^ 24)]

/-- The first instruction of a byte sequence, and the bytes after it. -/
def decodeBytes : List Byte → Except DecodeError (Instr × List Byte)
  | b0 :: b1 :: b2 :: b3 :: rest =>
    match decodeWord (wordOfBytes b0 b1 b2 b3) with
    | .ok i => .ok (i, rest)
    | .error e => .error e
  | _ => .error .truncated

/-- What the decoder reads from an instruction whose bits are w, numbered as the opcode table numbers them: every instruction is one
32-bit word, and the bits above nbits are zero. The word is laid out as the hardware stores it and given to the decoder. -/
def decodeTableWord (nbits w : Nat) : Option Instr :=
  match decodeBytes (bytesOfWord (w % 2 ^ nbits)) with
  | .ok (i, _) => some i
  | .error _ => none

/-- The word of an instruction, written from the encoding tables (R172 and the table of each major); an event has none. -/
def encode : Instr → Option Nat
  | .add sm d a b t => some (33554432 + sm.toNat * 2147483648 + d.val * 1048576 + a.val * 32768 + b.val * 1024 + t.toNat * 512)
  | .sub sm d a b t => some (33554433 + sm.toNat * 2147483648 + d.val * 1048576 + a.val * 32768 + b.val * 1024 + t.toNat * 512)
  | .and sm d a b => some (33554434 + sm.toNat * 2147483648 + d.val * 1048576 + a.val * 32768 + b.val * 1024)
  | .or sm d a b => some (33554435 + sm.toNat * 2147483648 + d.val * 1048576 + a.val * 32768 + b.val * 1024)
  | .xor sm d a b => some (33554436 + sm.toNat * 2147483648 + d.val * 1048576 + a.val * 32768 + b.val * 1024)
  | .andn sm d a b => some (33554437 + sm.toNat * 2147483648 + d.val * 1048576 + a.val * 32768 + b.val * 1024)
  | .orn sm d a b => some (33554438 + sm.toNat * 2147483648 + d.val * 1048576 + a.val * 32768 + b.val * 1024)
  | .sll sm d a b => some (33554439 + sm.toNat * 2147483648 + d.val * 1048576 + a.val * 32768 + b.val * 1024)
  | .srl sm d a b => some (33554440 + sm.toNat * 2147483648 + d.val * 1048576 + a.val * 32768 + b.val * 1024)
  | .sra sm d a b => some (33554441 + sm.toNat * 2147483648 + d.val * 1048576 + a.val * 32768 + b.val * 1024)
  | .rol sm d a b => some (33554442 + sm.toNat * 2147483648 + d.val * 1048576 + a.val * 32768 + b.val * 1024)
  | .ror sm d a b => some (33554443 + sm.toNat * 2147483648 + d.val * 1048576 + a.val * 32768 + b.val * 1024)
  | .slt sm d a b => some (33554444 + sm.toNat * 2147483648 + d.val * 1048576 + a.val * 32768 + b.val * 1024)
  | .sltu sm d a b => some (33554445 + sm.toNat * 2147483648 + d.val * 1048576 + a.val * 32768 + b.val * 1024)
  | .min sm d a b => some (33554446 + sm.toNat * 2147483648 + d.val * 1048576 + a.val * 32768 + b.val * 1024)
  | .max sm d a b => some (33554447 + sm.toNat * 2147483648 + d.val * 1048576 + a.val * 32768 + b.val * 1024)
  | .minn sm d a b => some (33554448 + sm.toNat * 2147483648 + d.val * 1048576 + a.val * 32768 + b.val * 1024)
  | .maxn sm d a b => some (33554449 + sm.toNat * 2147483648 + d.val * 1048576 + a.val * 32768 + b.val * 1024)
  | .clz sm d a => some (33554450 + sm.toNat * 2147483648 + d.val * 1048576 + a.val * 32768)
  | .ctz sm d a => some (33554451 + sm.toNat * 2147483648 + d.val * 1048576 + a.val * 32768)
  | .pop sm d a => some (33554452 + sm.toNat * 2147483648 + d.val * 1048576 + a.val * 32768)
  | .brev sm d a => some (33554453 + sm.toNat * 2147483648 + d.val * 1048576 + a.val * 32768)
  | .bswap sm d a => some (33554454 + sm.toNat * 2147483648 + d.val * 1048576 + a.val * 32768)
  | .sextB sm d a => some (33554455 + sm.toNat * 2147483648 + d.val * 1048576 + a.val * 32768)
  | .sextH sm d a => some (33554456 + sm.toNat * 2147483648 + d.val * 1048576 + a.val * 32768)
  | .sextW sm d a => some (33554457 + sm.toNat * 2147483648 + d.val * 1048576 + a.val * 32768)
  | .zextW sm d a => some (33554458 + sm.toNat * 2147483648 + d.val * 1048576 + a.val * 32768)
  | .bfx sm d a b => some (33554459 + sm.toNat * 2147483648 + d.val * 1048576 + a.val * 32768 + b.val * 1024)
  | .bfi sm d a b => some (33554460 + sm.toNat * 2147483648 + d.val * 1048576 + a.val * 32768 + b.val * 1024)
  | .sel sm d a b p => some (33554461 + sm.toNat * 2147483648 + d.val * 1048576 + a.val * 32768 + b.val * 1024 + p.val * 64)
  | .addi sm d a i => some (67108864 + sm.toNat * 2147483648 + d.val * 1048576 + a.val * 32768 + i.toNat)
  | .andi sm d a i => some (100663296 + sm.toNat * 2147483648 + d.val * 1048576 + a.val * 32768 + i.toNat)
  | .ori sm d a i => some (134217728 + sm.toNat * 2147483648 + d.val * 1048576 + a.val * 32768 + i.toNat)
  | .xori sm d a i => some (167772160 + sm.toNat * 2147483648 + d.val * 1048576 + a.val * 32768 + i.toNat)
  | .slli sm d a n => some (201326592 + sm.toNat * 2147483648 + d.val * 1048576 + a.val * 32768 + n.val)
  | .srli sm d a n => some (201326656 + sm.toNat * 2147483648 + d.val * 1048576 + a.val * 32768 + n.val)
  | .srai sm d a n => some (201326720 + sm.toNat * 2147483648 + d.val * 1048576 + a.val * 32768 + n.val)
  | .sltii sm d a i => some (234881024 + sm.toNat * 2147483648 + d.val * 1048576 + a.val * 32768 + i.toNat)
  | .sltin sm d a i => some (234897408 + sm.toNat * 2147483648 + d.val * 1048576 + a.val * 32768 + i.toNat)
  | .lih sm d h v => some (268435456 + sm.toNat * 2147483648 + d.val * 1048576 + h.val * 65536 + v.toNat)
  | .adpc sm d i => some (301989888 + sm.toNat * 2147483648 + d.val * 1048576 + i.toNat)
  | .mul sm d a b w => some (335544320 + sm.toNat * 2147483648 + d.val * 1048576 + a.val * 32768 + b.val * 1024 + w.toNat * 8)
  | .mulh sm d a b w => some (335544321 + sm.toNat * 2147483648 + d.val * 1048576 + a.val * 32768 + b.val * 1024 + w.toNat * 8)
  | .mulhn sm d a b w => some (335544322 + sm.toNat * 2147483648 + d.val * 1048576 + a.val * 32768 + b.val * 1024 + w.toNat * 8)
  | .div sm d a b w => some (335544323 + sm.toNat * 2147483648 + d.val * 1048576 + a.val * 32768 + b.val * 1024 + w.toNat * 8)
  | .divn sm d a b w => some (335544324 + sm.toNat * 2147483648 + d.val * 1048576 + a.val * 32768 + b.val * 1024 + w.toNat * 8)
  | .rem sm d a b w => some (335544325 + sm.toNat * 2147483648 + d.val * 1048576 + a.val * 32768 + b.val * 1024 + w.toNat * 8)
  | .remn sm d a b w => some (335544326 + sm.toNat * 2147483648 + d.val * 1048576 + a.val * 32768 + b.val * 1024 + w.toNat * 8)
  | .fadd sm d a b r z t => some (369098752 + sm.toNat * 2147483648 + d.val * 1048576 + a.val * 32768 + b.val * 1024 + r.val * 64 + z.toNat * 32 + t.toNat * 16)
  | .fsub sm d a b r z t => some (369098753 + sm.toNat * 2147483648 + d.val * 1048576 + a.val * 32768 + b.val * 1024 + r.val * 64 + z.toNat * 32 + t.toNat * 16)
  | .fmul sm d a b r z t => some (369098754 + sm.toNat * 2147483648 + d.val * 1048576 + a.val * 32768 + b.val * 1024 + r.val * 64 + z.toNat * 32 + t.toNat * 16)
  | .fma sm d a b r z t => some (369098755 + sm.toNat * 2147483648 + d.val * 1048576 + a.val * 32768 + b.val * 1024 + r.val * 64 + z.toNat * 32 + t.toNat * 16)
  | .fdiv sm d a b r z t => some (369098756 + sm.toNat * 2147483648 + d.val * 1048576 + a.val * 32768 + b.val * 1024 + r.val * 64 + z.toNat * 32 + t.toNat * 16)
  | .fsqrt sm d a r z t => some (369098757 + sm.toNat * 2147483648 + d.val * 1048576 + a.val * 32768 + r.val * 64 + z.toNat * 32 + t.toNat * 16)
  | .fmin sm d a b t => some (369098758 + sm.toNat * 2147483648 + d.val * 1048576 + a.val * 32768 + b.val * 1024 + t.toNat * 16)
  | .fmax sm d a b t => some (369098759 + sm.toNat * 2147483648 + d.val * 1048576 + a.val * 32768 + b.val * 1024 + t.toNat * 16)
  | .fsign sm d a b m t => some (369098760 + sm.toNat * 2147483648 + d.val * 1048576 + a.val * 32768 + b.val * 1024 + m.val * 64 + t.toNat * 16)
  | .fclass sm d a t => some (369098761 + sm.toNat * 2147483648 + d.val * 1048576 + a.val * 32768 + t.toNat * 16)
  | .fcmp sm n a b c t => some (369098762 + sm.toNat * 2147483648 + n.val * 1048576 + a.val * 32768 + b.val * 1024 + c.val * 32 + t.toNat * 16)
  | .fcvt sm d a c x z r t => some (402653184 + sm.toNat * 2147483648 + d.val * 1048576 + a.val * 32768 + c.val * 1024 + x.toNat * 128 + z.toNat * 64 + r.val * 16 + t.val)
  | .ld sm d a w h o => some (436207616 + sm.toNat * 2147483648 + d.val * 1048576 + a.val * 32768 + w.val * 4096 + h.val * 1024 + o.toNat)
  | .st sm d a w h o => some (469762048 + sm.toNat * 2147483648 + d.val * 1048576 + a.val * 32768 + w.val * 4096 + h.val * 1024 + o.toNat)
  | .lda sm d a w h o => some (503316480 + sm.toNat * 2147483648 + d.val * 1048576 + a.val * 32768 + w.val * 4096 + h.val * 1024 + o.toNat)
  | .stl sm d a w h o => some (536870912 + sm.toNat * 2147483648 + d.val * 1048576 + a.val * 32768 + w.val * 4096 + h.val * 1024 + o.toNat)
  | .amoAdd sm d a b c o w => some (570425344 + sm.toNat * 2147483648 + d.val * 1048576 + a.val * 32768 + b.val * 1024 + c.val * 16 + o.val * 2 + w.toNat)
  | .amoAnd sm d a b c o w => some (570425408 + sm.toNat * 2147483648 + d.val * 1048576 + a.val * 32768 + b.val * 1024 + c.val * 16 + o.val * 2 + w.toNat)
  | .amoOr sm d a b c o w => some (570425472 + sm.toNat * 2147483648 + d.val * 1048576 + a.val * 32768 + b.val * 1024 + c.val * 16 + o.val * 2 + w.toNat)
  | .amoXor sm d a b c o w => some (570425536 + sm.toNat * 2147483648 + d.val * 1048576 + a.val * 32768 + b.val * 1024 + c.val * 16 + o.val * 2 + w.toNat)
  | .amoMin sm d a b c o w => some (570425600 + sm.toNat * 2147483648 + d.val * 1048576 + a.val * 32768 + b.val * 1024 + c.val * 16 + o.val * 2 + w.toNat)
  | .amoMax sm d a b c o w => some (570425664 + sm.toNat * 2147483648 + d.val * 1048576 + a.val * 32768 + b.val * 1024 + c.val * 16 + o.val * 2 + w.toNat)
  | .amoMinn sm d a b c o w => some (570425728 + sm.toNat * 2147483648 + d.val * 1048576 + a.val * 32768 + b.val * 1024 + c.val * 16 + o.val * 2 + w.toNat)
  | .amoMaxn sm d a b c o w => some (570425792 + sm.toNat * 2147483648 + d.val * 1048576 + a.val * 32768 + b.val * 1024 + c.val * 16 + o.val * 2 + w.toNat)
  | .amoSwp sm d a b c o w => some (570425856 + sm.toNat * 2147483648 + d.val * 1048576 + a.val * 32768 + b.val * 1024 + c.val * 16 + o.val * 2 + w.toNat)
  | .amoCas sm d a b c o w => some (570425920 + sm.toNat * 2147483648 + d.val * 1048576 + a.val * 32768 + b.val * 1024 + c.val * 16 + o.val * 2 + w.toNat)
  | .amoFadd sm d a b c o w => some (570425984 + sm.toNat * 2147483648 + d.val * 1048576 + a.val * 32768 + b.val * 1024 + c.val * 16 + o.val * 2 + w.toNat)
  | .redAdd sm a b c o w => some (570426048 + sm.toNat * 2147483648 + a.val * 32768 + b.val * 1024 + c.val * 16 + o.val * 2 + w.toNat)
  | .redFadd sm a b c o w => some (570426112 + sm.toNat * 2147483648 + a.val * 32768 + b.val * 1024 + c.val * 16 + o.val * 2 + w.toNat)
  | .redMin sm a b c o w => some (570426176 + sm.toNat * 2147483648 + a.val * 32768 + b.val * 1024 + c.val * 16 + o.val * 2 + w.toNat)
  | .redMax sm a b c o w => some (570426240 + sm.toNat * 2147483648 + a.val * 32768 + b.val * 1024 + c.val * 16 + o.val * 2 + w.toNat)
  | .redOr sm a b c o w => some (570426304 + sm.toNat * 2147483648 + a.val * 32768 + b.val * 1024 + c.val * 16 + o.val * 2 + w.toNat)
  | .pf sm a k => some (570425358 + sm.toNat * 2147483648 + a.val * 32768 + k.val * 64)
  | .beq sm a b o => some (603979776 + sm.toNat * 2147483648 + a.val * 1048576 + b.val * 32768 + o.toNat)
  | .bgeu sm a b o => some (637534208 + sm.toNat * 2147483648 + a.val * 1048576 + b.val * 32768 + o.toNat)
  | .bne sm a b o => some (1207959552 + sm.toNat * 2147483648 + a.val * 1048576 + b.val * 32768 + o.toNat)
  | .blt sm a b o => some (1241513984 + sm.toNat * 2147483648 + a.val * 1048576 + b.val * 32768 + o.toNat)
  | .bge sm a b o => some (1275068416 + sm.toNat * 2147483648 + a.val * 1048576 + b.val * 32768 + o.toNat)
  | .bltu sm a b o => some (1308622848 + sm.toNat * 2147483648 + a.val * 1048576 + b.val * 32768 + o.toNat)
  | .bp sm p o => some (671088640 + sm.toNat * 2147483648 + p.val * 4194304 + o.toNat)
  | .bnp sm p o => some (673185792 + sm.toNat * 2147483648 + p.val * 4194304 + o.toNat)
  | .jal sm d o => some (704643072 + sm.toNat * 2147483648 + d.val * 1048576 + o.toNat)
  | .jalr sm d a i => some (738197504 + sm.toNat * 2147483648 + d.val * 1048576 + a.val * 32768 + i.toNat)
  | .pcmp sm n a b c => some (771751936 + sm.toNat * 2147483648 + n.val * 1048576 + a.val * 32768 + b.val * 1024 + c.val)
  | .pand sm n x y => some (771752000 + sm.toNat * 2147483648 + n.val * 1048576 + x.val * 32768 + y.val * 1024)
  | .por sm n x y => some (771752064 + sm.toNat * 2147483648 + n.val * 1048576 + x.val * 32768 + y.val * 1024)
  | .pxor sm n x y => some (771752128 + sm.toNat * 2147483648 + n.val * 1048576 + x.val * 32768 + y.val * 1024)
  | .pnot sm n x => some (771752192 + sm.toNat * 2147483648 + n.val * 1048576 + x.val * 32768)
  | .fenceAcq sm c => some (805306368 + sm.toNat * 2147483648 + c.val)
  | .fenceRel sm c => some (805306372 + sm.toNat * 2147483648 + c.val)
  | .fenceFull sm c => some (805306376 + sm.toNat * 2147483648 + c.val)
  | .fenceSc sm c => some (805306380 + sm.toNat * 2147483648 + c.val)
  | .barArv sm a n => some (805306400 + sm.toNat * 2147483648 + a.val * 32768 + n.val)
  | .barWait sm d n => some (805306432 + sm.toNat * 2147483648 + d.val * 1048576 + n.val)
  | .barArw sm d a n => some (805306464 + sm.toNat * 2147483648 + d.val * 1048576 + a.val * 32768 + n.val)
  | .waitCnt sm n c => some (805306496 + sm.toNat * 2147483648 + n.toNat * 1024 + c.val)
  | .tagWany sm a => some (805306528 + sm.toNat * 2147483648 + a.val * 32768)
  | .tagWall sm a => some (805306560 + sm.toNat * 2147483648 + a.val * 32768)
  | .tagFfr sm d a => some (805306592 + sm.toNat * 2147483648 + d.val * 1048576 + a.val * 32768)
  | .tagClr sm a => some (805306624 + sm.toNat * 2147483648 + a.val * 32768)
  | .waitNtc sm a => some (805306656 + sm.toNat * 2147483648 + a.val * 32768)
  | .yield sm => some (805306688 + sm.toNat * 2147483648)
  | .rcv sm o => some (805306720 + sm.toNat * 2147483648 + o.toNat * 1024)
  | .join sm => some (805306752 + sm.toNat * 2147483648)
  | .exit sm => some (805306784 + sm.toNat * 2147483648)
  | .fuse sm w => some (838860800 + sm.toNat * 2147483648 + w.val)
  | .split sm => some (838860832 + sm.toNat * 2147483648)
  | .voteAny sm n m => some (838860864 + sm.toNat * 2147483648 + n.val * 1048576 + m.val * 32768)
  | .voteAll sm n m => some (838860896 + sm.toNat * 2147483648 + n.val * 1048576 + m.val * 32768)
  | .voteBal sm d m => some (838860928 + sm.toNat * 2147483648 + d.val * 1048576 + m.val * 32768)
  | .lget sm d a b => some (838860960 + sm.toNat * 2147483648 + d.val * 1048576 + a.val * 32768 + b.val * 1024)
  | .wqInit sm a b d k => some (872415232 + sm.toNat * 2147483648 + a.val * 1048576 + b.val * 32768 + d.val * 1024 + k.val)
  | .wqNext sm d n k => some (872415296 + sm.toNat * 2147483648 + d.val * 1024 + n.val * 4 + k.val)
  | .tskDone sm a d => some (872415360 + sm.toNat * 2147483648 + a.val * 1048576 + d.val * 1024)
  | .tskSubmit sm a d => some (872415424 + sm.toNat * 2147483648 + a.val * 1048576 + d.val * 1024)
  | .stgAcq sm a r p => some (872415488 + sm.toNat * 2147483648 + a.val * 1048576 + r.val * 8 + p.toNat * 4)
  | .stgRel sm a r => some (872415552 + sm.toNat * 2147483648 + a.val * 1048576 + r.val * 8)
  | .stgPeek sm d r => some (872415616 + sm.toNat * 2147483648 + d.val * 1024 + r.val * 8)
  | .vAdd sm a b d c => some (905969664 + sm.toNat * 2147483648 + a.val * 1048576 + b.val * 32768 + d.val * 1024 + c.toNat)
  | .vSub sm a b d c => some (905969696 + sm.toNat * 2147483648 + a.val * 1048576 + b.val * 32768 + d.val * 1024 + c.toNat)
  | .vMul sm a b d c => some (905969728 + sm.toNat * 2147483648 + a.val * 1048576 + b.val * 32768 + d.val * 1024 + c.toNat)
  | .vFma sm a b d c => some (905969760 + sm.toNat * 2147483648 + a.val * 1048576 + b.val * 32768 + d.val * 1024 + c.toNat)
  | .vFms sm a b d c => some (905969792 + sm.toNat * 2147483648 + a.val * 1048576 + b.val * 32768 + d.val * 1024 + c.toNat)
  | .vMin sm a b d c => some (905969824 + sm.toNat * 2147483648 + a.val * 1048576 + b.val * 32768 + d.val * 1024 + c.toNat)
  | .vMax sm a b d c => some (905969856 + sm.toNat * 2147483648 + a.val * 1048576 + b.val * 32768 + d.val * 1024 + c.toNat)
  | .vAbs sm a b d => some (905969888 + sm.toNat * 2147483648 + a.val * 1048576 + b.val * 32768 + d.val * 1024)
  | .vNeg sm a b d => some (905969920 + sm.toNat * 2147483648 + a.val * 1048576 + b.val * 32768 + d.val * 1024)
  | .vAnd sm a b d c => some (905969952 + sm.toNat * 2147483648 + a.val * 1048576 + b.val * 32768 + d.val * 1024 + c.toNat)
  | .vOr sm a b d c => some (905969984 + sm.toNat * 2147483648 + a.val * 1048576 + b.val * 32768 + d.val * 1024 + c.toNat)
  | .vXor sm a b d c => some (905970016 + sm.toNat * 2147483648 + a.val * 1048576 + b.val * 32768 + d.val * 1024 + c.toNat)
  | .vShl sm a b d c => some (905970048 + sm.toNat * 2147483648 + a.val * 1048576 + b.val * 32768 + d.val * 1024 + c.toNat)
  | .vShr sm a b d c => some (905970080 + sm.toNat * 2147483648 + a.val * 1048576 + b.val * 32768 + d.val * 1024 + c.toNat)
  | .vCmp sm a b d c => some (905970112 + sm.toNat * 2147483648 + a.val * 1048576 + b.val * 32768 + d.val * 1024 + c.toNat)
  | .vSel sm a b d c => some (905970144 + sm.toNat * 2147483648 + a.val * 1048576 + b.val * 32768 + d.val * 1024 + c.toNat)
  | .vCvt sm a b d => some (905970176 + sm.toNat * 2147483648 + a.val * 1048576 + b.val * 32768 + d.val * 1024)
  | .vMov sm a b d => some (905970208 + sm.toNat * 2147483648 + a.val * 1048576 + b.val * 32768 + d.val * 1024)
  | .vRsum sm a b d => some (905970240 + sm.toNat * 2147483648 + a.val * 1048576 + b.val * 32768 + d.val * 1024)
  | .vRmax sm a b d => some (905970272 + sm.toNat * 2147483648 + a.val * 1048576 + b.val * 32768 + d.val * 1024)
  | .vRmin sm a b d => some (905970304 + sm.toNat * 2147483648 + a.val * 1048576 + b.val * 32768 + d.val * 1024)
  | .vScan sm a b d => some (905970336 + sm.toNat * 2147483648 + a.val * 1048576 + b.val * 32768 + d.val * 1024)
  | .vBcast sm a b d c => some (905970368 + sm.toNat * 2147483648 + a.val * 1048576 + b.val * 32768 + d.val * 1024 + c.toNat)
  | .vIota sm a b d => some (905970401 + sm.toNat * 2147483648 + a.val * 1048576 + b.val * 32768 + d.val * 1024)
  | .vClamp sm a b d c => some (905970432 + sm.toNat * 2147483648 + a.val * 1048576 + b.val * 32768 + d.val * 1024 + c.toNat)
  | .vSfu sm a b d => some (905970464 + sm.toNat * 2147483648 + a.val * 1048576 + b.val * 32768 + d.val * 1024)
  | .vGat sm a b d => some (905970496 + sm.toNat * 2147483648 + a.val * 1048576 + b.val * 32768 + d.val * 1024)
  | .vSct sm a b d => some (905970528 + sm.toNat * 2147483648 + a.val * 1048576 + b.val * 32768 + d.val * 1024)
  | .sfu sm d a r z f => some (939524096 + sm.toNat * 2147483648 + d.val * 1048576 + a.val * 32768 + r.val * 16 + z.toNat * 8 + f.val)
  | .mxCfg sm a d => some (973078528 + sm.toNat * 2147483648 + a.val * 1048576 + d.val * 1024)
  | .mxLd sm a b d v o u => some (973078592 + sm.toNat * 2147483648 + a.val * 1048576 + b.val * 32768 + d.val * 1024 + v.toNat * 32 + o.toNat * 16 + u.toNat * 8)
  | .mxMma sm d v u n => some (973078656 + sm.toNat * 2147483648 + d.val * 1024 + v.toNat * 32 + u.toNat * 8 + n.val)
  | .mxZero sm d v n => some (973078720 + sm.toNat * 2147483648 + d.val * 1024 + v.toNat * 32 + n.val)
  | .mxSt sm a b d v n => some (973078784 + sm.toNat * 2147483648 + a.val * 1048576 + b.val * 32768 + d.val * 1024 + v.toNat * 32 + n.val)
  | .gmLay sm a b d v => some (973078848 + sm.toNat * 2147483648 + a.val * 1048576 + b.val * 32768 + d.val * 1024 + v.toNat * 32)
  | .gmGemv sm a b d v => some (973078912 + sm.toNat * 2147483648 + a.val * 1048576 + b.val * 32768 + d.val * 1024 + v.toNat * 32)
  | .cpBulk sm a b d => some (1006632960 + sm.toNat * 2147483648 + a.val * 1048576 + b.val * 32768 + d.val * 1024)
  | .cpCancel sm a d => some (1006633024 + sm.toNat * 2147483648 + a.val * 1048576 + d.val * 1024)
  | .gaGath sm a b d => some (1006633088 + sm.toNat * 2147483648 + a.val * 1048576 + b.val * 32768 + d.val * 1024)
  | .scScat sm a b d u => some (1006633152 + sm.toNat * 2147483648 + a.val * 1048576 + b.val * 32768 + d.val * 1024 + u.val * 8)
  | .clAr sm a b d u => some (1006633216 + sm.toNat * 2147483648 + a.val * 1048576 + b.val * 32768 + d.val * 1024 + u.val * 8)
  | .clAg sm a b d => some (1006633280 + sm.toNat * 2147483648 + a.val * 1048576 + b.val * 32768 + d.val * 1024)
  | .clRs sm a b d u => some (1006633344 + sm.toNat * 2147483648 + a.val * 1048576 + b.val * 32768 + d.val * 1024 + u.val * 8)
  | .clBc sm a b d => some (1006633408 + sm.toNat * 2147483648 + a.val * 1048576 + b.val * 32768 + d.val * 1024)
  | .clSend sm a b d => some (1006633472 + sm.toNat * 2147483648 + a.val * 1048576 + b.val * 32768 + d.val * 1024)
  | .clRecv sm a b d => some (1006633536 + sm.toNat * 2147483648 + a.val * 1048576 + b.val * 32768 + d.val * 1024)
  | .clAbort sm a b d => some (1006633600 + sm.toNat * 2147483648 + a.val * 1048576 + b.val * 32768 + d.val * 1024)
  | .sqOpen sm a b d n => some (1040187392 + sm.toNat * 2147483648 + a.val * 1048576 + b.val * 32768 + d.val * 1024 + n.val * 4)
  | .sqNext sm n => some (1040187456 + sm.toNat * 2147483648 + n.val * 4)
  | .sqEnd sm m n => some (1040187520 + sm.toNat * 2147483648 + m.val * 1024 + n.val * 4)
  | .sqCrd sm d n => some (1040187584 + sm.toNat * 2147483648 + d.val * 1024 + n.val * 4)
  | .sqPos sm d n p => some (1040187648 + sm.toNat * 2147483648 + d.val * 1024 + n.val * 4 + p.toNat)
  | .sqSeek sm a n => some (1040187712 + sm.toNat * 2147483648 + a.val * 1048576 + n.val * 4)
  | .sqIsect sm x y n => some (1040187776 + sm.toNat * 2147483648 + x.val * 1048576 + y.val * 32768 + n.val * 4)
  | .sqUnion sm x y n => some (1040187840 + sm.toNat * 2147483648 + x.val * 1048576 + y.val * 32768 + n.val * 4)
  | .sqClose sm n => some (1040187904 + sm.toNat * 2147483648 + n.val * 4)
  | .sqDrain sm a b d n w => some (1040187968 + sm.toNat * 2147483648 + a.val * 1048576 + b.val * 32768 + d.val * 1024 + n.val * 4 + w.toNat)
  | .sqPart sm a b d => some (1040188032 + sm.toNat * 2147483648 + a.val * 1048576 + b.val * 32768 + d.val * 1024)
  | .sqSave sm a n => some (1040188096 + sm.toNat * 2147483648 + a.val * 1048576 + n.val * 4)
  | .sqRest sm a n => some (1040188160 + sm.toNat * 2147483648 + a.val * 1048576 + n.val * 4)
  | .mxSpmm sm a b d v w n => some (1073741824 + sm.toNat * 2147483648 + a.val * 1048576 + b.val * 32768 + d.val * 1024 + v.toNat * 32 + w.toNat * 16 + n.val)
  | .spPack sm a b d => some (1073741888 + sm.toNat * 2147483648 + a.val * 1048576 + b.val * 32768 + d.val * 1024)
  | .spUnpack sm a b d => some (1073741952 + sm.toNat * 2147483648 + a.val * 1048576 + b.val * 32768 + d.val * 1024)
  | .spInval sm a b d l => some (1073742016 + sm.toNat * 2147483648 + a.val * 1048576 + b.val * 32768 + d.val * 1024 + l.toNat)
  | .spPin sm a b d o => some (1073742080 + sm.toNat * 2147483648 + a.val * 1048576 + b.val * 32768 + d.val * 1024 + o.toNat)
  | .spStat sm a d c => some (1073742144 + sm.toNat * 2147483648 + a.val * 1048576 + d.val * 1024 + c.toNat)
  | .vbAcq sm a d => some (1107296256 + sm.toNat * 2147483648 + a.val * 1048576 + d.val * 1024)
  | .vbAcqTry sm a d p => some (1107296288 + sm.toNat * 2147483648 + a.val * 1048576 + d.val * 1024 + p.val * 4)
  | .vbRel sm a d => some (1107296320 + sm.toNat * 2147483648 + a.val * 1048576 + d.val * 1024)
  | .rdsys sm d r => some (1140850688 + sm.toNat * 2147483648 + d.val * 1048576 + r.toNat)
  | .wrsys sm a r => some (1140867072 + sm.toNat * 2147483648 + a.val * 32768 + r.toNat)
  | .ecall sm => some (1174405120 + sm.toNat * 2147483648)
  | .ebreak sm => some (1174405121 + sm.toNat * 2147483648)
  | .upret sm => some (1174405122 + sm.toNat * 2147483648)
  | .wcfg sm n a => some (1174405123 + sm.toNat * 2147483648 + n.val * 1048576 + a.val * 32768)
  | .eret sm => some (1174405376 + sm.toNat * 2147483648)
  | .fqPop sm d a b => some (1174405377 + sm.toNat * 2147483648 + d.val * 1048576 + a.val * 32768 + b.val * 1024)
  | .svcDone sm d a b => some (1174405378 + sm.toNat * 2147483648 + d.val * 1048576 + a.val * 32768 + b.val * 1024)
  | .xlatInv sm d a b => some (1174405379 + sm.toNat * 2147483648 + d.val * 1048576 + a.val * 32768 + b.val * 1024)
  | .cacheWb sm d a b => some (1174405380 + sm.toNat * 2147483648 + d.val * 1048576 + a.val * 32768 + b.val * 1024)
  | .cacheInv sm d a b => some (1174405381 + sm.toNat * 2147483648 + d.val * 1048576 + a.val * 32768 + b.val * 1024)
  | .ctxSave sm a => some (1174405382 + sm.toNat * 2147483648 + a.val * 32768)
  | .ctxRest sm a => some (1174405383 + sm.toNat * 2147483648 + a.val * 32768)
  | .halt sm d a b => some (1174405384 + sm.toNat * 2147483648 + d.val * 1048576 + a.val * 32768 + b.val * 1024)
  | .nbrPut sm d a b => some (1174405385 + sm.toNat * 2147483648 + d.val * 1048576 + a.val * 32768 + b.val * 1024)
  | .nbrGet sm d a b => some (1174405386 + sm.toNat * 2147483648 + d.val * 1048576 + a.val * 32768 + b.val * 1024)
  | .mcast sm d a b => some (1174405387 + sm.toNat * 2147483648 + d.val * 1048576 + a.val * 32768 + b.val * 1024)
  | .clReform sm d a b => some (1174405388 + sm.toNat * 2147483648 + d.val * 1048576 + a.val * 32768 + b.val * 1024)
  | .longResultReturn => none
  | .checkPointPass => none
  | .translationProbeResult => none
  | .faultRecordAdmit => none
  | .dirtyBitSet => none
  | .remoteResponse => none
  | .reductionApply => none
  | .l1WritebackDeadline => none
  | .ptsTick => none
  | .fumaroleWindowClose => none
  | .fumaroleArrival => none
  | .vectorPartBind => none
  | .vectorCommandComplete => none
  | .gatherScatterComplete => none
  | .sfuEntryServe => none
  | .sfuResultWrite => none
  | .mxCfgApply => none
  | .matrixCommandComplete => none
  | .copyComplete => none
  | .collectiveMessage => none
  | .collectiveTimeout => none
  | .collectiveComplete => none
  | .streamFetchComplete => none
  | .sinterCompileComplete => none
  | .swapThresholdExpiry => none
  | .teamSwapOut => none
  | .teamRestore => none
  | .residencySliceEnd => none
  | .teamPlacement => none
  | .watchdogExpiry => none
  | .killRecordAppend => none
  | .controlTick => none
  | .droopEvent => none
  | .droopyEnd => none
  | .idleTimeout => none
  | .admissionSlot => none
  | .voltageSettled => none
  | .freqPauseEnd => none
  | .gangSwitchOut => none
  | .gangSwitchIn => none
  | .linkRequestTimeout => none
  | .portRetryTimeout => none
  | .linkUp => none
  | .eccError => none
  | .fatalError => none
  | .featuresOk => none
  | .partSet => none
  | .linkSet => none
  | .cxlSet => none
  | .query => none
  | .debugStop => none
  | .debugResume => none
  | .map => none
  | .unmap => none
  | .loadImage => none
  | .submit => none
  | .signal => none
  | .commCreate => none
  | .commReform => none
  | .commDestroy => none
  | .completionEventDeliver => none
  | .eventRecordDeliver => none
  | .resetRelease => none
  | .powerLoss => none
  | .cxlLinkUp => none
  | .leasePoll => none
  | .leaseRenew => none
  | .leasePhaseTimeout => none
  | .startTimeout => none
  | .nbrPacketArrival => none
  | .mapCheck => none
  | .bootok => none
  | .illegalEncoding => none
  | .instructionFetchFault => none
  | .writePerformed => none
  | .coordinatorContactLost => none
  | .unsupportedRequest => none
  | .peerRequest => none

end Sys2Proof
end

