-- ==== Sys2Proof/Config.lean ====
section
/-! DEFINITION. Sys2Proof/Config.lean: what the manual leaves open. Each constant is opaque: it has no value that a proof could use, so
whatever is proved holds for every value. -/

namespace Sys2Proof.Config

/-- The n-th free bits drawn where the manual calls a value unpredictable or states none (R6, R9, R10). (DESIGN CHOICE, log 4) -/
opaque free : Nat → Word

/-- Which of the things that may happen next does happen: the order the manual leaves to the device (R16, R178, R254 and others). -/
opaque pick : Nat → Nat

/-- Nanoseconds of global time that the n-th move takes (R11, R441). (DESIGN CHOICE, log 6) -/
opaque elapsed : Nat → Nat

/-- Cluster enabled by fuse (R1), by physical id. (DESIGN CHOICE, log 7) -/
opaque fuseEnabled : Nat → Bool

/-- Cluster that is enabled by fuse and answers nothing (R404, R471), by physical id. (DESIGN CHOICE, log 7) -/
opaque silent : Nat → Bool

/-- The fuses of VMIN (R436). (DESIGN CHOICE, log 7) -/
opaque vminFuse : Nat → Nat → Nat

/-- Least voltage code of a domain at a divider step, from fuses: codes above 60 are never used (R436). (DESIGN CHOICE, log 7) -/
def vmin (m s : Nat) : Nat := min 60 (vminFuse m s)

/-- How far, in pages, the bytes of a cluster's part of a switch area are turned round (R395). (DESIGN CHOICE, log 48) -/
opaque areaTurn : Nat

/-- Host interface 1 runs CXL 3.1 (R446, R456). (DESIGN CHOICE, log 152) -/
opaque cxlOnOne : Bool

/-- The key digest fused into the package (R465). (DESIGN CHOICE, log 7) -/
opaque keyDigest : List Byte

/-- SM3 of GM/T 0004 (R465, R466): 32 bytes. (DESIGN CHOICE, log 8) -/
opaque sm3 : List Byte → List Byte

/-- SM2 verification of GM/T 0003 under the default distinguishing identifier (R465): public key, signature, message. (DESIGN CHOICE, log 8) -/
opaque sm2Verify : List Byte → List Byte → List Byte → Bool

/-- The package identity's low 16 bits (R467). (DESIGN CHOICE, log 7) -/
opaque holder : BitVec 16

/-- Temperature of a cluster in whole °C at a control tick (R434): GTIME, physical id. (DESIGN CHOICE, log 7; DESIGN CHOICE, log 92) -/
opaque temperature : Nat → Nat → Nat

/-- Power estimate of a cluster over a control tick in units of 10 mW (R433). (DESIGN CHOICE, log 7; DESIGN CHOICE, log 92) -/
opaque power : Nat → Nat → Nat

/-- SFU results that the manual bounds and does not fix (R101): function, operand. (DESIGN CHOICE, log 9) -/
opaque sfu : Nat → BitVec 32 → BitVec 32

end Sys2Proof.Config
end

