-- ==== Sys2Proof/Machine/State.lean ====
section
/-! DEFINITION. Sys2Proof/Machine/State.lean: everything the manual gives the Knaska K4 to remember, as plain data, and the package
right after reset. Numbers that the manual only counts or names are Nat; what software sees as a word is a bit vector. A list that is
keyed (contexts, clusters, teams) is sparse: an entry that is not listed stands at its default, which is its value at reset. -/

namespace Sys2Proof.Machine

/-- A virtqueue request (R448): the function and queue it came on, the bytes of the driver-readable part of its chain (header and payload), the
length of the device-writable part, and the descriptors of the chain. Function f of host interface i is number 5 · i + f (R446). (DESIGN CHOICE, log 96) -/
structure HostReq where
  fn : Nat
  queue : Nat
  data : List Byte
  room : Nat
  descs : Nat := 2
deriving DecidableEq, Repr

/-- What a peer package asks of this package's memory over Evoud Link (R408). -/
inductive PeerOp where
  | read (bytes : Nat)
  | write (data : List Byte)
deriving DecidableEq, Repr

/-- A request of a peer package for region 0x0 of this package (R408). -/
structure PeerReq where
  peer : Nat
  pa : Nat
  op : PeerOp
deriving DecidableEq, Repr

/-- A collective message from another member (R461): the communicator identity, the sender's generation and rank,
the instance it belongs to, the function and SUB it runs, its element type and count, its MATCH value, GTIME of its issue, and its send elements' bytes. (DESIGN CHOICE, log 80) -/
structure CollMsg where
  cid : BitVec 64
  gen : BitVec 16
  rank : Nat
  inst : Nat
  fn : Nat
  sub : Nat
  etype : Nat
  count : Nat
  mtch : Nat
  since : Nat
  data : List Byte
deriving DecidableEq, Repr

/-- A collective message that leaves for the package `peer`: kind 0 a contribution, 1 the coordinator's decision (STATUS in lo, CODE and RANK in hi),
2 a `cl.abort` (code in lo), 3 a receive view is written, 4 a member has issued. It travels on `port` (R457). -/
structure CollOut where
  peer : Nat
  kind : Nat
  lo : Nat
  hi : Nat
  msg : CollMsg
  port : Option Nat := none
deriving DecidableEq, Repr

/-- An error that the error-correcting logic found (R477): unit code, kind (0 corrected, 1 poisoned, 2 fatal), the physical cluster or
stack, and the address or array index. (DESIGN CHOICE, log 120) -/
structure EccInfo where
  unit : Nat
  kind : Nat
  place : Nat
  addr : Nat
deriving DecidableEq, Repr

/-- What an event happens to: a position in a list of the state, the numbers of a cluster, pipe, slot, team or partition, one further
number (quadrant, stream, domain, port, task, window, function or unit), two more, an answer, and a message from outside. (DESIGN CHOICE, log 124) -/
structure Subject where
  n : Nat := 0
  cl : Nat := 0
  pipe : Nat := 0
  slot : Nat := 0
  team : Nat := 0
  part : Nat := 0
  num : Nat := 0
  lo : Nat := 0
  hi : Nat := 0
  ok : Bool := true
  req : Option HostReq := none
  msg : Option CollMsg := none
  ecc : Option EccInfo := none
  peer : Option PeerReq := none
deriving DecidableEq, Repr

/-- Privilege of a context (R379); PRIV never holds 3. -/
inductive Priv where
  | user | supervisor | machine
deriving DecidableEq, Repr

/-- The banked trap registers of one level (R182, R385). (DESIGN CHOICE, log 127) -/
structure Bank where
  epc : Word := 0
  ecause : Word := 0
  eval : Word := 0
  estat : Word := 0
deriving DecidableEq, Repr

/-- One entry of a divergence stack (R42). `phaseN` false: the taken lanes run (T); true: the pending lanes run (N). -/
structure DivEntry where
  j : Word
  pendPc : Word
  pend : BitVec 16
  taken : BitVec 16
  phaseN : Bool
deriving DecidableEq, Repr

/-- The reconvergence record that a split gives every lane (R46). -/
structure Record where
  stack : List DivEntry
  base : Nat
  width : Nat
  members : BitVec 16
  a : BitVec 16
deriving DecidableEq, Repr

/-- Scopes (R137). -/
inductive Scope where
  | grp | clu | dev | sys
deriving DecidableEq, Repr

/-- The four outstanding counters (R153). -/
inductive Cls where
  | occ | ocm | ocg | ocl
deriving DecidableEq, Repr

/-- What a group waits for (R56, and the other holds of the manual). (DEDUCED, log 62) -/
inductive Wait where
  /-- the rendezvous of `fuse w` (R37) -/
  | fuse (w : Nat)
  /-- the phase of barrier n differing from the ticket (R222) -/
  | bar (n : Nat)
  /-- slot `slot` of ring r showing the phase (R54) -/
  | ring (r slot : Nat) (ph : Bool)
  /-- a tag of the mask (R224) -/
  | tagAny (m : Word)
  /-- every tag of the mask (R224) -/
  | tagAll (m : Word)
  /-- a counter at or below n (R223) -/
  | cnt (c : Cls) (n : Nat)
  /-- a NOTICE bit of the mask (R225) -/
  | notice (m : Word)
  /-- the re-fuse at the record's join (R47) -/
  | joinAt
  /-- k blocks of the role's pool (R234) -/
  | blocks (k : Nat)
  /-- the commands that name released registers (R235) -/
  | blockUse (k : Nat)
  /-- the long results, counters and reductions of an exiting lane (R218) -/
  | drained
  /-- the group's earlier writes and reductions being performed, before a release at a scope (R147, R156, R458) -/
  | performed (sc : Scope)
  /-- the completion of an sc operation (R149) -/
  | scDone
  /-- an entry of the fault queue, or of the kill queue (R400) -/
  | queueEntry (kill : Bool)
  /-- the page that a fused group's stream instruction needs (R330) -/
  | page (va reason : Nat)
  /-- one round-robin pass of the pipe (R56, `yield`) -/
  | pass (left : Nat)
  /-- the communicator's instance being written as STALE (R462) -/
  | reform
  /-- the accesses in flight to the n bytes from lo being performed (R402, R421) -/
  | inval (lo n : Nat)
deriving DecidableEq, Repr

/-- Room that an instruction wants (R246, R272, R275, R300, R311, R424): an entry of its pipe's vector queue, of the SFU queue, of the matrix queue of a
quadrant; one of the 512 copies; the end of the command on a communicator's slot and generation; a free fault record. -/
inductive Room where
  | vector
  | sfu
  | quad (q : Nat)
  | copies
  | comm (part slot : Nat) (gen : BitVec 16)
  | record
deriving DecidableEq, Repr

/-- Why a context is Parked (R34). -/
inductive Park where
  | results | check
  | room (r : Room)
deriving DecidableEq, Repr

/-- The state of a context's slot (R34). A slot with no context is not listed; Trapped is Ready with TL above 0. -/
inductive CState where
  | ready
  | parked (p : Park)
  | waiting (w : Wait) (since : Nat)
  | held
  | exited
  /-- a killed context whose record waits for room in the kill queue (R390 step 5) -/
  | dead
deriving DecidableEq, Repr

/-- Where an instruction writes (R178). -/
inductive Dest where
  | g (r : Reg)
  | p (n : PReg)
deriving DecidableEq, Repr

/-- An upcall token in use: its number, and the service status once posted (R69, R70): 0 OK, 1 NOMEM. -/
structure Token where
  t : Nat
  va : Nat
  status : Option Nat
deriving DecidableEq, Repr

/-- What happens-before (R145) alone asks of a group, in the timestamps of R124: `hb`, what its loads must see; what its next acquire makes them see of its
engines and of what it has waited for (`own`), and of the releases of its own cluster (`obsC`) and of others (`obsD`) that it has read; pts after its last
release at CLU scope or wider, and at DEV scope or wider. The model's own fields: they are never above pts and mts. (DEDUCED, log 131) -/
structure Vis where
  hb : Nat := 0
  own : Nat := 0
  obsC : Nat := 0
  obsD : Nat := 0
  relC : Nat := 0
  relD : Nat := 0
deriving DecidableEq, Repr

/-- A release sequence (R143) that the bytes lo to lo + n − 1 of a line or of a local store belong to: the group whose release heads it, the scope that it
reaches, and the timestamp that it carries; `hidden`: the value there is that of a read-modify-write whose scope leaves that group out. (DEDUCED, log 131) -/
structure Rel where
  lo : Nat
  n : Nat
  owner : CtxId
  sc : Scope
  ts : Nat
  hidden : Bool := false
deriving DecidableEq, Repr

/-- What a write is to the release sequences of its bytes (R138, R143): the scope of a strong one, whether it is a read-modify-write, and the releases of
its group before it. -/
structure WKind where
  sc : Option Scope := none
  rmw : Bool := false
  relC : Nat := 0
  relD : Nat := 0
deriving DecidableEq, Repr

/-- A context with the architected state of R17. For a fused group the leader's pc and st are the group's. (DESIGN CHOICE, log 3; DESIGN CHOICE, log 127; DESIGN CHOICE, log 130) -/
structure Ctx where
  id : CtxId
  /-- TEAM number on the cluster, for a context of a team -/
  team : Option Nat := none
  st : CState := .ready
  /-- the event of the wait has come: the instruction completes when it issues again (R56) -/
  woken : Bool := false
  /-- `bar.arw` has made its arrival and waits (R222) -/
  arrived2 : Bool := false
  pc : Word := 0
  g : Vector Word 32 := Vector.replicate 32 0
  /-- p0 to p7; bit 0 is not used: p0 reads true (R17) -/
  p : BitVec 8 := 0
  mode : Word := 1
  priv : Priv := .user
  domain : BitVec 12 := 0
  tl : Nat := 0
  tvec : Word := 0
  b1 : Bank := {}
  b2 : Bank := {}
  upvec : Word := 0
  epcu : Word := 0
  ecauseu : Word := 0
  evalu : Word := 0
  uptok : BitVec 6 := 0
  notice : Word := 0
  arrived : Word := 0
  errtags : Word := 0
  /-- tags of which a copy has failed while others of the tag are outstanding (R154) -/
  tagErr : Word := 0
  /-- role mask: bit 0 C, bit 1 M, bit 2 V (R31) -/
  role : BitVec 3 := 5
  /-- vector arbiter weight (R51) -/
  weight : Nat := 1
  lane : Nat := 0
  /-- base pipe of the fused group the context is a member of -/
  grp : Option Nat := none
  rcd : Option Record := none
  pts : Nat := 0
  mts : Nat := 0
  vis : Vis := {}
  /-- barrier tickets (R222), by barrier number, as counts of phases completed, of which the 16-bit ticket is the low part; an unlisted one is 0 -/
  tickets : List (Nat × Nat) := []
  tokens : List Token := []
  /-- VRS blocks held (R20) -/
  vblocks : Nat := 0
  /-- the context's blocks came from this role's pool: 0 C, 1 M, 2 V (R53) -/
  vpool : Nat := 0
  /-- CYCLE of the cluster at the last trap entry or `eret` (R391) -/
  watch : Nat := 0
  /-- lanes beside the active ones whose long results the switch marker of a branch or a join waits for (R179) -/
  owed : List CtxId := []
  /-- the context has been restored with long results outstanding: it issues once they are written (R180) -/
  drain : Bool := false
  /-- destinations that fixed instructions of the present run have written while a long result of them was outstanding (R179) -/
  fixedW : List Dest := []
  /-- address of the instruction with S = 1 that has ended the run, if one has issued last (R179) -/
  runEnd : Option Word := none
  /-- a deferred poison trap: the poisoned VA (R384) -/
  poison : Option Word := none
  /-- the service of the page that a fused group's instruction waits for has posted NOMEM (R330): the VA -/
  pageNomem : Option Nat := none
  /-- `cl.reform` has changed the communicator and waits for its release: the new handle (R462) -/
  reformed : Option Word := none
  /-- VA of the group's first write to a far frame that failed and that no release has reported (R458) -/
  lostWrite : Option Word := none
  /-- the peer, or another number, that its report names -/
  lostTo : Nat := 0
deriving DecidableEq, Repr

/-- A fused group (R28, R42). -/
structure Group where
  cl : Nat
  base : Nat
  slot : Nat
  width : Nat
  members : BitVec 16
  lm : BitVec 16
  stack : List DivEntry := []
  armed : Option Word := none
deriving DecidableEq, Repr

/-- Where a location lies: paged memory by PA (with its VA), or an LS byte by physical cluster and offset. -/
inductive Place where
  | mem (va pa : Nat)
  | ls (cl off : Nat)
deriving DecidableEq, Repr

/-- A load whose bytes may still be read when its result returns: agent, place, bytes, sign extension (R134, R142, R178). (DEDUCED, log 11) -/
structure Late where
  agent : CtxId
  place : Place
  n : Nat
  sext : Bool
deriving DecidableEq, Repr

/-- What a `cl.abort` asks of a coordinator on another package (R318): the instance by partition, slot, generation and number, the code, the aborter's
rank. -/
structure AbortAsk where
  part : Nat
  slot : Nat
  gen : BitVec 16
  inst : Nat
  code : Nat
  rank : Nat
deriving DecidableEq, Repr

/-- Where a context has gone that a scalar SFU result is for (R273): with its team, which is swapped out, or into the switch area of its partition. -/
inductive Away where
  | team (n : Nat)
  | area (part at_ : Nat)
deriving DecidableEq, Repr

/-- An outstanding long result (R178, R179): the context whose register receives it, the destination, the value, and, for a
scalar SFU result, the queue ticket of its entry (R272). (DEDUCED, log 11) -/
structure Long where
  dst : CtxId
  dest : Dest
  val : Word
  /-- the access was poisoned: nothing is written and the poison trap is taken deferred (R384) -/
  poisoned : Option Word := none
  /-- the answer to a `cl.abort` that a coordinator on another package decides (R318) -/
  abort : Option AbortAsk := none
  late : Option Late := none
  away : Option Away := none
deriving DecidableEq, Repr

/-- Orders of strong operations (R138). -/
inductive Order where
  | rlx | acq | rel | acqrel | sc
deriving DecidableEq, Repr

/-- The read-modify-writes of R210 to R213. -/
inductive RmwOp where
  | add | and | or | xor | min | max | minn | maxn | swp | cas | fadd
  /-- minimum and maximum of R82, for scatters (R268) -/
  | fmin | fmax
deriving DecidableEq, Repr

/-- A scalar memory operation as it stands while it has not been performed. -/
inductive MemOp where
  /-- load of n bytes, sign-extended or not, into a register; hint 0 none, 1 .na, 2 .byp; the acquire's scope for `lda` -/
  | load (n : Nat) (sext : Bool) (dest : Reg) (hint : Nat) (acq : Option Scope)
  | store (n : Nat) (val : Word) (hint : Nat) (rel : Option Scope)
  | amo (op : RmwOp) (n : Nat) (val cmp : Word) (dest : Reg) (scope : Scope) (ord : Order)
  | red (op : RmwOp) (n : Nat) (val : Word) (scope : Scope) (ord : Order)
  | prefetch (kind : Nat)
deriving DecidableEq, Repr

/-- A translation: the page's class, the entry's words and the address of the entry (R415). -/
structure Xlat where
  cls : Nat
  w0 : Word
  w1 : Word
  /-- physical address of the entry in the table; none for the boot map -/
  pte : Option Nat
deriving DecidableEq, Repr

/-- How far an access has come on its way to its check point (R180, R410, R416, R419, R458, R424). -/
inductive Stage where
  | probe
  | setD (x : Xlat)
  | remote (x : Xlat)
  | check (x : Xlat)
  /-- untranslatable, and no record is free (R424); the reason of R422 -/
  | heldFault (reason : Nat)
  /-- performed, or, for a reduction or an sc atomic, let through: its place -/
  | passed (p : Option Place)
  /-- the lane traps: cause, STATUS, EVAL -/
  | trapped (cause status : Nat) (val : Word)
  /-- the lane takes an upcall: the token (R68), and 1 for the re-entry of R70 -/
  | upcall (t : Nat) (status : Nat)
deriving DecidableEq, Repr

/-- A scalar access of one lane before its check point (R180). -/
structure Access where
  /-- the issuing agent: its leader or single context -/
  agent : CtxId
  lane : CtxId
  va : Nat
  op : MemOp
  stage : Stage
  /-- the instruction carried the switch marker -/
  sm : Bool
  /-- GTIME at which the link request was made (R458), and the port of a request to a peer (R457) -/
  since : Nat := 0
  port : Option Nat := none
deriving DecidableEq, Repr

/-- A line of an L1 data bank (R18, R122 to R124, R411). -/
structure L1Line where
  cl : Nat
  pipe : Nat
  /-- VA[55:6] -/
  line : Nat
  data : List Byte
  valid : BitVec 64
  dirty : BitVec 64
  /-- the home line's wts when filled, and the lease end -/
  wts : Nat
  lease : Nat
  /-- copy of the page's KEY and of R, W, X, U in bits 0 to 3 -/
  key : BitVec 12
  perm : BitVec 4
  dset : Bool
  /-- frame of the page lies outside region 0x0 (R412) -/
  far : Bool
  pa : Nat
  /-- its data are poisoned (R384, R476) -/
  bad : Bool := false
  /-- the agent whose group's writes the dirty bytes are -/
  owner : CtxId
  /-- CYCLE of the cluster when the line was first dirtied (R123) -/
  since : Nat
  /-- the release sequences of its bytes, as its bank sees them (R143) -/
  rels : List Rel := []
  /-- tick of the cluster at the line's last renewal -/
  tick : Nat := 0
deriving DecidableEq, Repr

/-- A line of an L1 instruction bank (R18): cluster, pipe, VA[55:6], its 64 bytes. -/
structure ILine where
  cl : Nat
  pipe : Nat
  line : Nat
  data : List Byte
  x : Xlat
deriving DecidableEq, Repr

/-- Timestamps of a line at its home slice (R124), by PA[51:6]: partitions share the VA space and not the frames. (DEDUCED, log 133) -/
structure HomeLine where
  line : Nat
  wts : Nat
  rts : Nat
  /-- the release sequences of its bytes (R143) -/
  rels : List Rel := []
  /-- the VA lines, with their partitions, through which it has been reached, and whether the page was writable (R107) -/
  via : List (Nat × Nat × Bool) := []
deriving DecidableEq, Repr

/-- An entry of a slice's translation cache (R410). -/
structure TEntry where
  slice : Nat
  part : Nat
  page : Nat
  x : Xlat
deriving DecidableEq, Repr

/-- A line of a slice's data cache (R26, R121, R410): its slice, partition and VA[55:6], with the translation under which it was filled. Its bytes are those
of memory at its PA. (DEDUCED, log 25) -/
structure SLine where
  slice : Nat
  part : Nat
  line : Nat
  x : Xlat
deriving DecidableEq, Repr

/-- A write on its way to its home slice, memory or LS bank (R123, R147): the bytes whose mask bit is set, from the place on. `pipe` is the bank that it has
left. -/
structure PWrite where
  agent : CtxId
  pipe : Nat
  place : Place
  data : List Byte
  mask : BitVec 64
  /-- GTIME at which it left its bank (R126) -/
  since : Nat := 0
  /-- the link port that a request to a peer travels on (R457) -/
  port : Option Nat := none
  /-- its target never answers: it fails at LTO (R458) -/
  mute : Bool := false
  /-- what the write is to the release sequences of its bytes, and, for a line of a bank, those that the bank has seen begin -/
  kind : WKind := {}
  rels : List Rel := []
deriving DecidableEq, Repr

/-- A fire-and-forget reduction that has not been applied (R156). -/
structure PRed where
  agent : CtxId
  place : Place
  op : RmwOp
  n : Nat
  val : Word
  /-- a scatter's: unordered with every other one (R135, R269) -/
  loose : Bool := false
  kind : WKind := {}
  /-- GTIME at which it left, and the link port of a request to a peer (R457, R458) -/
  since : Nat := 0
  port : Option Nat := none
deriving DecidableEq, Repr

/-- An sc operation on Fumarole (R148, R149). `rank` is its place in the order S once its window has closed. -/
structure ScOp where
  agent : CtxId
  window : Nat
  seq : Nat
  closed : Bool
  /-- the lanes' atomics with their places, empty for `fence.sc` -/
  ops : List (CtxId × Place × MemOp)
  sm : Bool
deriving DecidableEq, Repr

/-- A shape record as a command uses it, after the slice of R189: extents and strides of four dimensions. -/
structure View where
  /-- address of the record -/
  addr : Nat
  base : Nat
  ty : Nat
  rank : Nat
  e : Vector Nat 4
  s : Vector Int 4
  /-- unsigned integer width under UNS: type code stays ty -/
  uns : Bool := false
deriving DecidableEq, Repr

/-- On whose behalf an engine accesses memory (R106, R133). -/
structure Behalf where
  ctx : CtxId
  priv : Priv
  domain : BitVec 12
  team : Option Nat
  /-- window descriptors WD0 to WD7 of the team, read at issue (R120) -/
  wds : List Word
deriving DecidableEq, Repr

/-- What an engine command does when it has completed (R55, R255, R289). -/
structure Signals where
  /-- barrier and expected count -/
  bar : Option (Nat × Nat) := none
  ring : Option (Nat × Nat) := none
deriving DecidableEq, Repr

/-- A part of a vector command (R253, R257): whether it holds a lane group, the steps it has performed, the source codes of its present row that a
reduction or a scan has read, a stall at a page, by VA and REASON (R422), with the service's answer (R256), and the reductions of its present window of 64 index elements (R129,
R268). (DEDUCED, log 145) -/
structure VPart where
  lane : Bool := false
  prog : Nat := 0
  row : List Nat := []
  stall : Option (Nat × Nat) := none
  nomem : Bool := false
  pend : List PRed := []
  /-- the window that those reductions are of -/
  win : Nat := 0
deriving DecidableEq, Repr

/-- A vector command in a queue (R242 to R257). `parts` is 0 for a command that the arbiter does not bind. (DEDUCED, log 145) -/
structure VCmd where
  pipe : Nat
  by_ : Behalf
  op : Nat
  scl : Bool
  gb : Word
  d : View
  s1 : Option View
  s2 : Option View
  s3 : Option View
  weight : Nat
  parts : Nat
  sig : Signals
  /-- ticket in OCG for `v.gat` and `v.sct` -/
  oc : Option Nat
  /-- passed on to the gather/scatter unit or the SFU queue (R269, R270) -/
  away : Bool := false
  /-- its parts; one for a command that the arbiter does not bind -/
  work : List VPart := [{}]
  /-- numbers and codes of elements of scaled blocks that are not complete (R117, R118) -/
  held : List (Nat × Nat) := []
  /-- an access error has ended it: no further step is performed (R256) -/
  ended : Bool := false
  /-- first error of the command, as its barrier phase reports it (R256) -/
  err : Option Word := none
  /-- elements that a scatter has stored (R268) -/
  seen : List Int := []
deriving DecidableEq, Repr

/-- An entry of the SFU queue (R272): a scalar request with the result that each register file will receive, where its context may have gone, or the head of
a pipe's vector queue. -/
inductive SfuEntry where
  | scalar (vals : List (CtxId × Word)) (dest : Reg) (agent : CtxId) (away : Option Away)
  | vec (pipe : Nat)
deriving DecidableEq, Repr

/-- A command in a matrix queue (R274, R345). -/
structure MCmd where
  /-- 0 cfg, 1 ld, 2 mma, 3 zero, 4 st, 5 gm.lay, 6 gm.gemv, 7 spmm -/
  op : Nat
  by_ : Behalf
  joined : Bool
  cfg : Word
  set1 : Bool := false
  opB : Bool := false
  acc : Nat := 0
  ga : Word := 0
  gb : Word := 0
  v1 : Option View := none
  v2 : Option View := none
  nowait : Bool := false
  arv : Bool := false
  sig : Signals := {}
  oc : Nat
  team : Nat := 0
  /-- the compile this command waits for has been asked for (R351) -/
  compiling : Bool := false
  /-- the compile it waited for was invalidated: it runs in stream mode (R351) -/
  spoiled : Bool := false
  /-- K blocks, rows, or steps of `gm.lay` that it has performed (R292, R356) -/
  prog : Nat := 0
  /-- elements that an `mx.ld` has read, with their metadata -/
  got : List (Nat × Nat) := []
  /-- an `mx.spmm` that has started: whether it runs expanded, and the tile's nonzeros by row, K index and value position -/
  going : Option (Bool × List (Nat × Nat × Nat)) := none
  /-- base of its value array, as the descriptor gave it at its start -/
  vals : Nat := 0
  /-- programs that were compiled for it and found no room in the cache: part and nonzeros (R352) -/
  once : List (Nat × List (Nat × Nat × Nat)) := []
  /-- ranges that have been written since its issue, as R353 names them, and those of its tile's structure (R354) -/
  written : List (Option Nat × Nat × Nat) := []
  reads : List (Option Nat × Nat × Nat) := []
deriving DecidableEq, Repr

/-- One operand buffer of a quadrant or of the joined engine (R281): rows (or columns) of elements as exact codes with metadata:
for element (row, k): its code, and for its block the scale code or affine pair; absent elements are padding. (DESIGN CHOICE, log 67) -/
structure MBuf where
  rows : Nat := 0
  k : Nat := 0
  /-- element codes, row-major -/
  codes : List Nat := []
  /-- one per row and 16-element block: scale code, or scale + 65536 * zero point -/
  meta_ : List Nat := []
deriving DecidableEq, Repr

/-- A quadrant of the matrix engine (R23, R275 to R281, R291). In joined use the buffers and configuration of quadrant 0 serve. (DESIGN CHOICE, log 3; DESIGN CHOICE, log 67) -/
structure Quad where
  queue : List MCmd := []
  /-- configuration written by the last executed `mx.cfg` -/
  cfg : Word := 0
  /-- configuration in force for checks at issue (R276) -/
  icfg : Word := 0
  a0 : MBuf := {}
  b0 : MBuf := {}
  a1 : MBuf := {}
  b1 : MBuf := {}
  err : Bool := false
  /-- first error of the phase: cause and VA -/
  errv : Word := 0
  /-- tiles a(2q), a(2q+1): integer use (R97) -/
  int0 : Bool := false
  int1 : Bool := false
deriving DecidableEq, Repr

/-- Accumulator elements other than zero: key 8192·cluster + 1024·tile + 32·row + column, the W40 code or 32-bit integer (R23, R94). -/
abbrev AccCell := Nat × Nat

/-- An outstanding copy, row gather or row scatter (R297 to R308). -/
structure Copy where
  by_ : Behalf
  /-- 0 cp.bulk, 2 ga.gath, 3 sc.scat -/
  kind : Nat
  sub : Nat
  d : View
  s : View
  ix : Option View
  tag : Nat
  ring : Option (Nat × Nat)
  oc : Nat
  chunk : Nat := 0
  err : Bool := false
  /-- elements that a scatter has stored (R188, R307) -/
  seen : List Int := []
  cancelled : Bool := false
  stall : Option (Nat × Nat) := none
  nomem : Bool := false
deriving DecidableEq, Repr

/-- An outstanding collective command of a member on this package (R309 to R318). (DEDUCED, log 79) -/
structure Coll where
  by_ : Behalf
  part : Nat
  cslot : Nat
  gen : BitVec 16
  inst : Nat
  /-- 4 ar, 5 ag, 6 rs, 7 bc, 8 send, 9 recv -/
  fn : Nat
  sub : Nat
  send : Option View
  recv : Option View
  peer : Nat
  crec : Nat
  mtch : Nat
  tag : Nat
  ring : Option (Nat × Nat)
  oc : Nat
  rank : Nat
  since : Nat
  /-- send elements' bytes, once they have been read -/
  data : List Byte
  sent : Bool := false
  /-- the receive view is written -/
  wrote : Bool := false
  etype : Nat
  count : Nat
  stall : Option (Nat × Nat) := none
  nomem : Bool := false
  /-- terminal status once decided: STATUS, CODE, RANK -/
  verdict : Option (Nat × Nat × Nat) := none
  /-- its ring slot is inverted (R314) -/
  rung : Bool := false
  /-- an abort of it has gone to the coordinator on another package (R318) -/
  asked : Bool := false
  /-- its partition is switched out to that area (R396) -/
  away : Option Nat := none
deriving DecidableEq, Repr

/-- A member on another package that has issued into an instance, with its contribution once that has come (R315, R461). -/
structure Contrib where
  part : Nat
  cslot : Nat
  msg : CollMsg
  /-- its send elements have come -/
  sent : Bool := true
  /-- the member has written its receive view -/
  wrote : Bool := false
deriving DecidableEq, Repr

/-- The terminal status of an instance (R315). -/
structure Decided where
  part : Nat
  cslot : Nat
  gen : BitVec 16
  inst : Nat
  status : Nat
  code : Nat
  rank : Nat
deriving DecidableEq, Repr

/-- A member of a communicator (R460). -/
structure Member where
  peer : Nat
  pipe : Nat
  slot : Nat
  task : Nat
  trank : Nat
deriving DecidableEq, Repr

/-- A slot of a partition's communicator table (R309, R460). -/
structure Comm where
  part : Nat
  slot : Nat
  used : Bool
  cid : BitVec 64
  tms : Nat
  gen : BitVec 16
  members : List Member
  /-- instances issued in this generation, by local rank, and by pair and side for `cl.send` and `cl.recv`: key, count -/
  issued : List (Nat × Nat)
deriving DecidableEq, Repr

/-- An outstanding command in a counter's retirement order (R153). -/
structure OcEntry where
  ticket : Nat
  ctx : CtxId
  cls : Cls
  done : Bool
deriving DecidableEq, Repr

/-- A barrier of a team (R222); `err` is the first error of the open phase. -/
structure Barrier where
  /-- phases completed: the 16-bit phase count is its low part -/
  total : Nat := 0
  arrivals : Nat := 0
  expected : Nat := 0
  status : Word := 0
  err : Option Word := none
  /-- greatest timestamp carried by an arrival (R124, R155) -/
  ts : Nat := 0
deriving DecidableEq, Repr

/-- A stage ring (R54). -/
structure Ring where
  slots : Nat
  size : Nat
  base : Nat
  phases : BitVec 8 := 0
  /-- greatest timestamp carried by an inversion (R124, R155) -/
  ts : Nat := 0
deriving DecidableEq, Repr

/-- A work-queue slot (R61, R62): what is set up and how far it has been handed out. -/
structure WQ where
  e0 : Nat := 0
  batches : Nat := 0
  menu : List (Nat × Nat) := []
  counts : List Nat := []
  b : Nat := 0
  seg : Nat := 0
  row : Nat := 0
  rem : Nat := 0
  col : Nat := 0
  /-- no `wq.init` set it, or every tile has been handed out, or the block was INVALID -/
  done : Bool := true
deriving DecidableEq, Repr

/-- The fields of a sparse descriptor that a stream keeps (R190, R326). -/
structure SDesc where
  addr : Nat
  kinds : List Nat
  nlvl : Nat
  ordered : BitVec 4
  unique : BitVec 4
  posw : BitVec 4
  crdw : BitVec 4
  vtype : Nat
  gen : Nat
  ext : List Nat
  pos : List Nat
  crd : List Nat
  val : Nat
  nnz : Nat
deriving DecidableEq, Repr

/-- A stream register (R325), with the descriptor's fields it uses (R326). (DESIGN CHOICE, log 141) -/
structure Stream where
  desc : Nat := 0
  level : Nat := 0
  pos : Word := 0
  end_ : Word := 0
  crd : BitVec 32 := 0
  kind : Nat := 0
  pa : Nat := 0
  pb : Nat := 0
  atEnd : Bool := false
  fpend : Bool := false
  bound : Bool := false
  presA : Bool := false
  presB : Bool := false
  d : Option SDesc := none
  /-- operands of a combination, which PA and PB name unless it is bound itself -/
  oa : Nat := 0
  ob : Nat := 0
  /-- blocks of the crd array that the fetcher holds: the index of the block's first entry of the fibre, and its entries (R327, R335) -/
  held : List (Nat × List Nat) := []
  /-- the group that has opened or moved it, on whose behalf the fetcher reads (R327) -/
  agent : Option Behalf := none
deriving DecidableEq, Repr

/-- A group entry of a team template (R191). -/
structure TGroup where
  base : Nat
  width : Nat
  role : BitVec 3
  weight : Nat
deriving DecidableEq, Repr

/-- A team template (R51, R191). -/
structure Template where
  groups : List TGroup
  nstrm : Nat
  nbar : Nat
  rings : List Ring
  nwq : Nat
  swap : Nat
  vrs : List Nat
  ls : List Nat
  rbsz : Nat
  rbsrc : Nat
deriving DecidableEq, Repr

/-- Identity of a sparse tile (R347). -/
structure TileId where
  desc : Nat
  tr : Nat
  tc : Nat
  gen : Nat
  t : Nat
  domain : BitVec 12
deriving DecidableEq, Repr

/-- A pinned identity (R358). -/
structure Pin where
  cl : Nat
  tile : TileId
  team : Nat
deriving DecidableEq, Repr

/-- A team resident on a cluster, or swapped out of it (R29, R53, R58, R112, R359). (DESIGN CHOICE, log 3) -/
structure Team where
  cl : Nat
  num : Nat
  part : Nat
  /-- task record; none for a context of firmware or the runtime -/
  task : Option Nat
  trank : Nat
  gsize : Nat
  domain : BitVec 12
  lsBase : Nat
  lsSize : Nat
  tmpl : Template
  bars : List Barrier
  rings : List Ring
  streams : List Stream
  wqs : List WQ
  wds : List Word
  /-- free blocks of the pools of C, M and V -/
  pool : List Nat
  /-- blocking `vb.acq` waiters in order: context, pool, blocks (R234) -/
  vwait : List (CtxId × Nat × Nat) := []
  /-- HIT, COMPILE, EXPAND, STREAM, INVAL (R359) -/
  stats : List Nat := [0, 0, 0, 0, 0]
  candidate : Bool := false
  swapped : Bool := false
  /-- its issue has stopped, and a swap waits for the commands that run to completion first (R58) -/
  swapping : Bool := false
  /-- GTIME when the team became resident, or, of a swapped one, when it was swapped out (R59) -/
  since : Nat := 0
  /-- the contexts as saved by a swap (R58) -/
  saved : List Ctx := []
  savedLs : List Host.Cell := []
  savedVrs : List Host.Cell := []
  savedAcc : List AccCell := []
  savedQuads : List Quad := []
  savedOcq : List OcEntry := []
  savedCopies : List Copy := []
  savedVq : List VCmd := []
  savedLongs : List Long := []
  savedGroups : List Group := []
  savedAccesses : List Access := []
  savedPins : List Pin := []
  killed : Bool := false
deriving DecidableEq, Repr

/-- What Sinter keeps under an identity (R347, R348): the decision to expand, to stream, or to compile some parts of the tile (the whole, 4, or
quarters 0 to 3; those not named run in stream mode); or the program of one part, as its nonzeros: row and K index in the tile, value position. -/
inductive Kept where
  | expand
  | stream
  | compile (parts : List Nat)
  | prog (part : Nat) (nz : List (Nat × Nat × Nat))
deriving DecidableEq, Repr

/-- A cached program or recorded decision of Sinter (R347 to R354). `ranges` are the watched byte ranges: LS of a cluster (some) or VA
(none), first byte and length. (DEDUCED, log 86) -/
structure SCache where
  cl : Nat
  tile : TileId
  team : Option Nat
  what : Kept
  lines : Nat
  pinned : Bool
  ranges : List (Option Nat × Nat × Nat)
deriving DecidableEq, Repr

/-- A compile of one program that Sinter has been asked for (R351). -/
structure Compile where
  cl : Nat
  tile : TileId
  team : Nat
  /-- the tile (4) or a quarter of it, its nonzeros, and the length of its program -/
  part : Nat
  nz : List (Nat × Nat × Nat)
  len : Nat
  ranges : List (Option Nat × Nat × Nat)
  spoiled : Bool
deriving DecidableEq, Repr

/-- What waits on a fault record (R401, R425). -/
inductive Waiter where
  | ctx (id : CtxId) (team : Option Nat) (tok : Nat)
  /-- `num` is the number that keys the record, for the faulter that made it -/
  | engine (id : CtxId) (team : Option Nat) (num : Option Nat)
deriving DecidableEq, Repr

/-- A pending record of a partition's fault unit (R422, R423). -/
structure FaultRec where
  part : Nat
  va : Nat
  key : Word
  gtime : Nat
  kind : BitVec 4
  reason : Nat
  domain : BitVec 12
  merge : Nat
  priv : Nat
  queued : Bool
  waiters : List Waiter
  /-- greatest timestamp of the faulters, which the pop of the record acquires (R155) -/
  ts : Nat := 0
deriving DecidableEq, Repr

/-- A kill record (R389): sixteen dwords. -/
structure KillRec where
  part : Nat
  words : List Word
deriving DecidableEq, Repr

/-- States of a task record in Geyser (R429). -/
inductive TState where
  | free | loaded | ready | placing | running
  /-- complete, with its completion record written: its grid-end release and its decrements are to come (R66, R171) -/
  | ending
deriving DecidableEq, Repr

/-- A task record that Geyser has loaded (R64 to R66, R488, R429). -/
structure Task where
  part : Nat
  idx : Nat
  st : TState
  counter : Nat
  entry : Word
  tmplVa : Nat
  args : Word
  grid : Nat
  prio : Nat
  succs : List Nat
  done : Nat
  domain : BitVec 12
  /-- submitted by the host: its COOKIE, and the function and submit queue that it came on (R453) -/
  cookie : Option (BitVec 64 × Nat × Nat)
  tmpl : Option Template := none
  placed : Nat := 0
  retired : Nat := 0
  killed : Bool := false
  invalid : Bool := false
  /-- the cluster chosen for its next team, while that changes its step for it (R430, R438) -/
  chosen : Option Nat := none
  /-- its record has been written with DEP_UNDERFLOW (R66, R67) -/
  under : Bool := false
deriving DecidableEq, Repr

/-- Pre-emption state of a partition (R394 to R398). -/
inductive RunState where
  | running
  | stopping (t area : Nat)
  /-- stopped by gang stop: the cause of R398 -/
  | stopped (cause : Nat)
  /-- switched out to the area -/
  | away (area : Nat)
  | entering (t area : Nat)
deriving DecidableEq, Repr

/-- A capture record (R398) of one cluster. (DESIGN CHOICE, log 51) -/
structure Capture where
  cl : Nat
  cycle : Nat
  gtime : Nat
  sentReq : Nat
  recvReq : Nat
  sentRsp : Nat
  recvRsp : Nat
  foReq : Nat
  foRsp : Nat
  cause : Nat
  asked : Nat
deriving DecidableEq, Repr

/-- A partition (R444, R445) with its translation and dispatch descriptors (R413, R428). (DESIGN CHOICE, log 3; DESIGN CHOICE, log 95) -/
structure Partition where
  num : Nat
  lo : Nat
  hi : Nat
  ptd : Nat
  pdd : Nat
  vbase : Word
  tva : Nat := 0
  tpa : Nat := 0
  logb : Nat := 10
  ptdValid : Bool := false
  ttab : Nat := 0
  trace : Nat := 0
  pbudget : Nat := 6000
  rbudget : Nat := 200
  floor : Nat := 0
  idlestep : Nat := 0
  overB : Bool := false
  run : RunState := .running
  release : Nat := 0
  /-- GTIME of the latest release batch (R440) -/
  releaseAt : Option Nat := none
  /-- it has been switched in or resumed: no cluster issues until what lay in the fall-out buffers has been delivered (R397) -/
  refill : Bool := false
  /-- residency slice Q in ns (R59) -/
  sliceQ : Nat := 2000000
  /-- the record whose next team waits for the first control tick, completion or swap with an eligible cluster (R430) -/
  placeWait : Option Nat := none
  /-- GTIME of the latest placement, or of the end of such a wait (R430) -/
  placeAt : Nat := 0
  /-- completion events that wait for a buffer (R453), oldest first: function, completion queue, and the event as four dwords -/
  cq : List (Nat × Nat × List Word) := []
  /-- completion events delivered to the host: function, completion queue, and the bytes of the buffer -/
  cqOut : List (Nat × Nat × List Byte) := []
  /-- frames that ALLOC took (R451): first frame PA, bytes, VA -/
  frames : List (Nat × Nat × Nat) := []
deriving DecidableEq, Repr

/-- An entry of the frequency trace (R442): SEQ, T1, and bytes 8 to 15. -/
structure TraceEnt where
  seq : Nat
  t1 : Nat
  tail : List Byte
deriving DecidableEq, Repr

/-- A cluster (R14 to R16, R24, R25, R258, R404, R434 to R443). (DESIGN CHOICE, log 3; DEDUCED, log 134) -/
structure Cluster where
  id : Nat
  released : Bool := false
  gated : Bool := false
  /-- slot of each pipe that issued last (R16); unlisted: C3 -/
  last : List (Nat × Nat) := []
  step : Nat := 0
  /-- CYCLE at the start of the present segment, and its GTIME (R443) -/
  cycBase : Nat := 0
  segT1 : Nat := 0
  /-- a change of step that is pausing the cluster or waits to: new step, reason, T0 (none: waits for voltage) (R393, R437) -/
  change : Option (Nat × Nat × Option Nat) := none
  /-- changes that fall due behind it: step, reason -/
  changes : List (Nat × Nat) := []
  seq : Nat := 0
  /-- entries of the trace for which no partition has given a trace area yet (R442) -/
  traces : List TraceEnt := []
  temp : Nat := 0
  hot : Bool := false
  /-- ticks since the last sample above 90 °C (R434) -/
  cool : Nat := 0
  emergency : Bool := false
  active : Bool := false
  /-- admission asked for: release batch, key (R440) -/
  asks : Option (Nat × Nat) := none
  /-- GTIME since when the cluster is empty of contexts (R438) -/
  emptySince : Option Nat := none
  boxes : List (Nat × List Byte) := []
  rho : Nat := 15
  credit : Nat := 0
  /-- the last value of the cluster's copy of GTIME that a program of it has read or a stamp of it has taken (R11, R441) -/
  gLast : Nat := 0
  /-- ticks of 1024 cycles that the program timestamps of the cluster have taken (R124) -/
  ticks : Nat := 0
  /-- the release sequences of the bytes of the cluster's local store (R143, R144) -/
  lsRels : List Rel := []
  /-- what the counters of request and response messages last stood at in a capture record (R398) -/
  msgs : Nat × Nat := (0, 0)
  vq : List VCmd := []
  /-- lane groups in use (R19): the pipe each is bound to -/
  lanes : List Nat := []
  sfuq : List SfuEntry := []
  /-- scalar SFU results served and not yet written, oldest first (R272) -/
  sfuOut : List Long := []
  /-- the gathers and scatters of the cluster, by their tickets in OCG, in their order of arrival at the unit: the first 16 are in flight in it (R269) -/
  gsq : List Nat := []
  quads : List Quad := [{}, {}, {}, {}]
  /-- team that holds the matrix engine (R32) -/
  mxTeam : Option Nat := none
deriving DecidableEq, Repr

/-- A voltage domain (R15, R433, R435 to R437). `code` is where the supply is, `target` the code that it moves to, one code per 50 ns, and `moved` the GTIME
of its last code. (DESIGN CHOICE, log 3) -/
structure Domain where
  id : Nat
  code : Nat := 0
  target : Nat := 0
  moved : Nat := 0
  overB : Bool := false
  droops : List Nat := []
  /-- droopy until this GTIME -/
  droopy : Option Nat := none
  /-- GTIME of the admission slot in use, and how many it has admitted (R439) -/
  slotAt : Nat := 0
  slotN : Nat := 0
deriving DecidableEq, Repr

/-- A packet that `nbr.put` has sent and that has not arrived: destination cluster, direction of arrival, 64 bytes, and the context
that waits for the answer with its destination (R404). -/
structure Packet where
  cl : Nat
  dir : Nat
  data : List Byte
  from_ : CtxId
  dest : Reg
deriving DecidableEq, Repr

/-- An event record that awaits a buffer (R455): function, KIND, the GTIME and the two data dwords. -/
structure Event where
  fn : Nat
  kind : Nat
  gtime : Nat
  d0 : Word
  d1 : Word
deriving DecidableEq, Repr

/-- A request's chain as it is returned (R448): the bytes that the device has written into its device-writable part. (DESIGN CHOICE, log 96) -/
structure Response where
  fn : Nat
  queue : Nat
  data : List Byte
deriving DecidableEq, Repr

/-- The peer table's entry (R457). -/
structure Peer where
  num : Nat
  mask : Nat
  ident : Word
deriving DecidableEq, Repr

/-- The start of the package (R463 to R475). `cxl` is the boot region's base and size once the link is up. (DESIGN CHOICE, log 3) -/
structure Boot where
  /-- the last phase of R463 that is complete -/
  phase : Nat := 0
  fails : Nat := 0
  minimal : Bool := false
  leader : Bool := false
  reason : Nat := 0
  n : Nat := 0
  silent : Nat := 0
  /-- the reset line is held (before RESET_RELEASE) -/
  inReset : Bool := true
  cxl : Option (Nat × Nat) := none
  /-- GTIME when the start began, and when phase 2 was complete -/
  t0 : Nat := 0
  t3 : Nat := 0
  /-- the lease word as last seen, and since when (R467) -/
  seen : Word := 0
  seenAt : Nat := 0
  /-- the package is in Lead, with the word it last wrote, and the renewal time -/
  lead : Option Word := none
  renewed : Nat := 0
  /-- GTIME of the next poll of the lease, or piece of the copy -/
  pollAt : Nat := 0
  /-- in Lead: the staging slot has verified, and the bytes of it copied so far -/
  checked : Bool := false
  copied : Nat := 0
  /-- boot mode (R469) -/
  mode : Bool := true
  /-- LEN of the verified image -/
  len : Nat := 0
deriving DecidableEq, Repr

/-- An entry of the error log (R477). -/
structure ErrLog where
  gtime : Nat
  unit : Nat
  kind : Nat
  place : Nat
  addr : Nat
  merged : Nat
deriving DecidableEq, Repr

/-- Who moves next: a context issues, an event happens, or nothing can (time passes). (DESIGN CHOICE, log 124) -/
inductive Actor where
  | ctx (id : CtxId)
  | event (i : Instr) (a : Subject)
  | idle
deriving DecidableEq, Repr

/-- The package. (DESIGN CHOICE, log 124) -/
structure State where
  /-- the context that issues, or that issued last: leader or single -/
  cur : CtxId
  /-- who moves at the next step: the model's own field, its choice among what may happen -/
  next : Actor
  /-- free values drawn so far: the model's own field -/
  freeCtr : Nat
  /-- events from outside the package, in order of arrival -/
  inbox : List (Instr × Subject)
  /-- the nanosecond whose requests for admission are complete (R440): the model's own field -/
  sealed : Option Nat
  /-- what the event that happens now happens to -/
  subj : Subject
  gtime : Nat
  ctxs : List Ctx
  groups : List Group
  teams : List Team
  clusters : List Cluster
  domains : List Domain
  parts : List Partition
  /-- logical numbers: physical id, logical number (R14) -/
  lmap : List (Nat × Nat)
  longs : List Long
  accesses : List Access
  l1 : List L1Line
  l1i : List ILine
  home : List HomeLine
  /-- the lines of the slices, in each set the least recently used first (R26) -/
  l2 : List SLine
  tcache : List TEntry
  writes : List PWrite
  reds : List PRed
  scops : List ScOp
  scSeq : Nat
  /-- greatest timestamp carried along the order S of the sc operations (R149) -/
  scTs : Nat
  copies : List Copy
  colls : List Coll
  contribs : List Contrib
  decided : List Decided
  comms : List Comm
  ocq : List OcEntry
  ocNext : Nat
  sinter : List SCache
  pins : List Pin
  compiles : List Compile
  faults : List FaultRec
  kills : List KillRec
  /-- kills that wait for room in their kill queue (R390 step 5) -/
  killWait : List (CtxId × KillRec)
  tasks : List Task
  captures : List Capture
  packets : List Packet
  events : List Event
  reserve : List Event
  /-- events that the unit raising them holds because the reserve is full (R455) -/
  evHeld : List Event
  lostn : List (Nat × Nat)
  /-- event records delivered to the host: the function, and the bytes written into the buffer, a dump behind a FATAL record among them (R455, R476) -/
  evOut : List (Nat × List Byte)
  responses : List Response
  features : List (Nat × Nat)
  cxl : List (Nat × Nat)
  /-- bytes of CXL memory that no range shows at present, by their host physical address (R456) -/
  cxlHidden : List Host.Cell
  lto : Nat
  peers : List Peer
  lost : List Nat
  portsDown : List Nat
  /-- the swapped teams of partitions that are switched out: partition, area, team (R58, R395) -/
  swapMem : List (Nat × Nat × Team)
  /-- collective messages that have left for members on other packages (R461) -/
  msgOut : List CollOut
  /-- answers that have left for peer packages: the peer, and the bytes read (R408) -/
  peerOut : List (Nat × List Byte)
  boot : Boot
  meas : List Word
  errlog : List ErrLog
  /-- corrected errors of the last second: GTIME, unit, place, address (R477) -/
  corrected : List (Nat × Nat × Nat × Nat)
  /-- GTIME of the next control tick (R433) -/
  tickAt : Nat
  /-- retired locations (R477): unit, place, address -/
  retired : List (Nat × Nat × Nat)
  /-- poisoned lines of 64 bytes: of physical memory, of the local stores and of the vector registers (R384, R476) -/
  poison : List Nat
  lsPoison : List Nat
  vrsPoison : List Nat
  mem : List Host.Cell
  ls : List Host.Cell
  vrs : List Host.Cell
  acc : List AccCell
deriving DecidableEq, Repr

/-- Why the model stops. -/
inductive Fault where
  /-- an instruction was asked to execute for a slot that holds no context; raised by every instruction's meaning; no slot that
  is Empty ever issues (R34), so no run stops here: safe -/
  | noContext
deriving DecidableEq, Repr

/-- Why the model refuses. -/
inductive Refusal where
  /-- the instruction has no meaning yet; raised by an arm of exec: safe -/
  | notModelled (mnemonic : String)
deriving DecidableEq, Repr

/-- The package right after reset is asserted at power-up (R441, R463, R474, R475): no cluster is released, no context is resident,
every list is empty, GTIME is 0, the start is in phase 0, and the release of reset is the next thing to happen. (DESIGN CHOICE, log 1; DESIGN CHOICE, log 3; DESIGN CHOICE, log 126) -/
def State.reset : State where
  cur := ⟨0, 0, 0⟩
  next := .event .resetRelease {}
  freeCtr := 0
  inbox := []
  sealed := none
  subj := {}
  gtime := 0
  ctxs := []
  groups := []
  teams := []
  clusters := []
  domains := []
  parts := []
  lmap := []
  longs := []
  accesses := []
  l1 := []
  l1i := []
  home := []
  l2 := []
  tcache := []
  writes := []
  reds := []
  scops := []
  scSeq := 0
  scTs := 0
  copies := []
  colls := []
  contribs := []
  decided := []
  comms := []
  ocq := []
  ocNext := 0
  sinter := []
  pins := []
  compiles := []
  faults := []
  kills := []
  killWait := []
  tasks := []
  captures := []
  packets := []
  events := []
  reserve := []
  evHeld := []
  lostn := []
  evOut := []
  responses := []
  features := []
  cxl := []
  cxlHidden := []
  lto := 1000
  peers := []
  lost := []
  portsDown := []
  swapMem := []
  msgOut := []
  peerOut := []
  boot := {}
  meas := [0, 0, 0, 0, 0, 0, 0, 0]
  errlog := []
  corrected := []
  tickAt := 10000
  retired := []
  poison := []
  lsPoison := []
  vrsPoison := []
  mem := []
  ls := []
  vrs := []
  acc := []

end Sys2Proof.Machine
end

