-- ==== Sys2Proof/Machine/Cells.lean ====
section
/-! DEFINITION. Sys2Proof/Machine/Cells.lean: sparse data by key in one canonical form: keys strictly rising, and no entry that equals
what an unlisted key reads as. A byte of memory that nothing has written reads as zero (notes/assumptions/1.md). -/

namespace Sys2Proof.Machine

/-- What key a reads as; z for one that is not listed. -/
def kvRead {α : Type} (z : α) : List (Nat × α) → Nat → α
  | [], _ => z
  | (k, v) :: r, a => if k = a then v else kvRead z r a

/-- Writing v at key a; writing z removes the entry. -/
def kvWrite {α : Type} [DecidableEq α] (z : α) : List (Nat × α) → Nat → α → List (Nat × α)
  | [], a, v => if v = z then [] else [(a, v)]
  | (k, x) :: r, a, v =>
    if a < k then (if v = z then (k, x) :: r else (a, v) :: (k, x) :: r)
    else if a = k then (if v = z then r else (a, v) :: r)
    else (k, x) :: kvWrite z r a v

/-- Every key is above b, keys rise strictly, and no value is z. -/
def kvWfFrom {α : Type} [DecidableEq α] (z : α) : Nat → List (Nat × α) → Bool
  | _, [] => true
  | b, (k, v) :: r => decide (b ≤ k) && !decide (v = z) && kvWfFrom z (k + 1) r

/-- The canonical form. -/
def kvWf {α : Type} [DecidableEq α] (z : α) (m : List (Nat × α)) : Bool := kvWfFrom z 0 m

/-- One byte of a memory. (DESIGN CHOICE, log 1) -/
def Memory.read (m : List Host.Cell) (a : Nat) : Byte := kvRead 0 m a

/-- Writing one byte of a memory. (DESIGN CHOICE, log 1) -/
def Memory.write (m : List Host.Cell) (a : Nat) (v : Byte) : List Host.Cell := kvWrite 0 m a v

/-- The canonical form of a memory. (DESIGN CHOICE, log 1) -/
def Memory.wf (m : List Host.Cell) : Bool := kvWf 0 m

/-- The n bytes from address a. -/
def Memory.readN (m : List Host.Cell) (a n : Nat) : List Byte := (List.range n).map fun i => Memory.read m (a + i)

/-- Writing the bytes from address a on, in ascending address. -/
def Memory.writeN (m : List Host.Cell) (a : Nat) : List Byte → List Host.Cell
  | [] => m
  | b :: r => Memory.writeN (Memory.write m a b) (a + 1) r

/-- The n bytes from lo on become the values of f; the other entries stay. (DESIGN CHOICE, log 13) -/
def Memory.fill (m : List Host.Cell) (lo n : Nat) (f : Nat → Byte) : List Host.Cell :=
  (m.filter fun c => decide (c.1 < lo)) ++
    ((List.range n).filterMap fun i => if f i = 0 then none else some (lo + i, f i)) ++ m.filter fun c => decide (lo + n ≤ c.1)

/-- A cell lies in the n keys from lo. -/
def inKeys {α : Type} (lo n : Nat) (c : Nat × α) : Bool := decide (lo ≤ c.1 ∧ c.1 < lo + n)

/-- The cells of a memory with the n keys from lo replaced by those of a copy. -/
def putBack {α : Type} (m saved : List (Nat × α)) (lo n : Nat) : List (Nat × α) :=
  (m.filter fun c => decide (c.1 < lo)) ++ saved ++ m.filter fun c => decide (lo + n ≤ c.1)

/-- The number that bytes hold, the lowest address first (R4). -/
def leNat : List Byte → Nat
  | [] => 0
  | b :: r => b.toNat + 256 * leNat r

/-- The n low bytes of a number, the lowest first (R4). -/
def leBytes : Nat → Nat → List Byte
  | 0, _ => []
  | n + 1, v => BitVec.ofNat 8 v :: leBytes n (v / 256)

end Sys2Proof.Machine
end

