-- ==== Sys2Proof/Machine/Base.lean ====
section
/-! DEFINITION. Sys2Proof/Machine/Base.lean: the named operations over contexts, groups, registers, clusters, teams, partitions and time
(spec/01 R12 to R17, R28, R29; spec/02 R40, R41; spec/15 R436, R443). -/

namespace Sys2Proof.Machine

/-! ### Free values -/

/-- A fresh free value (R9). (DESIGN CHOICE, log 4) -/
def State.freshFree (s : State) : Word × State := (Config.free s.freeCtr, { s with freeCtr := s.freeCtr + 1 })

/-- Bytes whose value nothing states (R9): byte i of those drawn from counter c on. (DESIGN CHOICE, log 4) -/
def freeByte (c i : Nat) : Byte := BitVec.ofNat 8 ((Config.free (c + i / 8)).toNat / 2 ^ (8 * (i % 8)))

/-! ### Enabled clusters -/

/-- How many of the n lowest physical ids are disabled by fuse. -/
def fusedOff : Nat → Nat
  | 0 => 0
  | n + 1 => if n = 0 ∨ Config.fuseEnabled n = true ∨ 24 ≤ fusedOff n then fusedOff n else fusedOff n + 1

/-- A cluster is enabled by fuse: (0,0), which every package boots on (R470), and of the others all but 24 at most, so that a package has 1000 at least
(R1). (DESIGN CHOICE, log 7) -/
def enabledByFuse (id : Nat) : Bool := decide (id = 0) || Config.fuseEnabled id || decide (24 ≤ fusedOff id)

/-! ### Contexts -/

/-- The context in a slot, if one is resident there. -/
def State.findCtx (s : State) (id : CtxId) : Option Ctx := s.ctxs.find? fun c => decide (c.id = id)

/-- The context in a slot; a context at its reset values where the slot is empty. -/
def State.ctx (s : State) (id : CtxId) : Ctx := (s.findCtx id).getD { id := id }

/-- Replacing the context of a slot; nothing where the slot is empty. -/
def State.setCtx (s : State) (c : Ctx) : State :=
  { s with ctxs := s.ctxs.map fun x => if x.id = c.id then c else x }

/-- Changing the context of a slot. -/
def State.modCtx (s : State) (id : CtxId) (f : Ctx → Ctx) : State :=
  { s with ctxs := s.ctxs.map fun x => if x.id = id then f x else x }

/-- Placing a context in an empty slot. -/
def State.addCtx (s : State) (c : Ctx) : State := { s with ctxs := s.ctxs ++ [c] }

/-- Emptying a slot. -/
def State.dropCtx (s : State) (id : CtxId) : State := { s with ctxs := s.ctxs.filter fun x => !decide (x.id = id) }

/-- The number of a context in its cluster's lists: 64·cluster + 4·pipe + slot. -/
def ctxNum (i : CtxId) : Nat := 64 * i.cl + 4 * i.pipe + i.slot

/-- Order of cluster, pipe and slot, ascending (R66, R423 and others). -/
def ctxBefore (a b : CtxId) : Bool := decide (ctxNum a < ctxNum b)

/-! ### Groups (R28, R40, R41) -/

def State.findGroup (s : State) (cl base slot : Nat) : Option Group :=
  s.groups.find? fun g => decide (g.cl = cl ∧ g.base = base ∧ g.slot = slot)

def State.setGroup (s : State) (g : Group) : State :=
  { s with groups := s.groups.map fun x => if x.cl = g.cl ∧ x.base = g.base ∧ x.slot = g.slot then g else x }

def State.dropGroup (s : State) (g : Group) : State :=
  { s with groups := s.groups.filter fun x => !decide (x.cl = g.cl ∧ x.base = g.base ∧ x.slot = g.slot) }

/-- The fused group a context is a member of. (DEDUCED, log 14) -/
def State.groupOf (s : State) (id : CtxId) : Option Group :=
  match (s.ctx id).grp with
  | some b => s.findGroup id.cl b id.slot
  | none => none

/-- The members of a mask, ascending lane. -/
def Group.ids (g : Group) (m : BitVec 16) : List CtxId :=
  ((List.range g.width).filter fun i => m.getLsbD i).map fun i => ⟨g.cl, g.base + i, g.slot⟩

/-- The bit of a lane in a mask. -/
def laneBit (n : Nat) : BitVec 16 := BitVec.ofNat 16 (2 ^ n)

/-- The leader of a context's group; the context itself when it is not fused (R28). (DEDUCED, log 14) -/
def State.leader (s : State) (id : CtxId) : CtxId :=
  match (s.ctx id).grp with
  | some b => { id with pipe := b }
  | none => id

/-- The lanes that perform an instruction of the agent: the active lanes of its fused group, or the single context (R41). -/
def State.lanes (s : State) (id : CtxId) : List CtxId :=
  match s.groupOf id with
  | some g => g.ids g.lm
  | none => [id]

/-- The members of the agent: all lanes of its fused group, or the single context. -/
def State.members (s : State) (id : CtxId) : List CtxId :=
  match s.groupOf id with
  | some g => g.ids g.members
  | none => [id]

/-- The lowest active lane (R40, R41). -/
def State.lowest (s : State) (id : CtxId) : CtxId := ((s.lanes id).head?).getD id

/-- The group is fused: its leader's grp is set. -/
def State.isFused (s : State) (id : CtxId) : Bool := (s.groupOf id).isSome

/-! ### Registers (R17, R40, R198) -/

/-- The file that register r of a lane lies in: g16 to g31 of a fused group are the leader's (R40). (DEDUCED, log 14; DEDUCED, log 16) -/
def State.fileOf (s : State) (lane : CtxId) (r : Reg) : CtxId := if 16 ≤ r.val then s.leader lane else lane

/-- Reading a scalar register: g0 reads zero (R17). -/
def State.rg (s : State) (lane : CtxId) (r : Reg) : Word :=
  if r = 0 then 0 else (s.ctx (s.fileOf lane r)).g.get r

/-- Writing a scalar register: a write to g0 is discarded (R17). -/
def State.wg (s : State) (lane : CtxId) (r : Reg) (v : Word) : State :=
  if r = 0 then s else s.modCtx (s.fileOf lane r) fun c => { c with g := c.g.set r v }

/-- Reading a predicate: p0 reads true (R17). -/
def State.rp (s : State) (lane : CtxId) (n : PReg) : Bool := n = 0 || (s.ctx lane).p.getLsbD n

/-- A predicate file with bit n set to b. -/
def setPBit (p : BitVec 8) (n : PReg) (b : Bool) : BitVec 8 :=
  if b then p ||| BitVec.ofNat 8 (2 ^ n.val) else p &&& ~~~(BitVec.ofNat 8 (2 ^ n.val))

/-- Writing a predicate: a write to p0 is discarded (R17). -/
def State.wp (s : State) (lane : CtxId) (n : PReg) (b : Bool) : State :=
  if n = 0 then s else s.modCtx lane fun c => { c with p := setPBit c.p n b }

/-- The lanes' values of a destination as they are written: a uniform destination takes the value of the lowest active lane
only (R40). -/
def uniformVals (d : Reg) (vals : List (CtxId × Word)) : List (CtxId × Word) :=
  if 16 ≤ d.val then vals.take 1 else vals

/-- Writing a destination of a fixed instruction in every active lane (R40, R178). (DEDUCED, log 16) -/
def State.wgs (s : State) (d : Reg) (vals : List (CtxId × Word)) : State :=
  (uniformVals d vals).foldl (fun s lv => s.wg lv.1 d lv.2) s

/-- Writing a predicate in every active lane. -/
def State.wps (s : State) (n : PReg) (vals : List (CtxId × Bool)) : State :=
  vals.foldl (fun s lv => s.wp lv.1 n lv.2) s

/-- The late writes of a long instruction's destination (R178, R40). A destination of g0 is discarded. (DEDUCED, log 10) -/
def State.addLongs (s : State) (d : Reg) (vals : List (CtxId × Word)) : State :=
  if d = 0 then s
  else { s with longs := s.longs ++ (uniformVals d vals).map fun lv =>
    { dst := s.fileOf lv.1 d, dest := .g d, val := lv.2 } }

/-- The late writes of a long instruction's predicate (R178). -/
def State.addLongPs (s : State) (n : PReg) (vals : List (CtxId × Bool)) : State :=
  if n = 0 then s
  else { s with longs := s.longs ++ vals.map fun lv =>
    { dst := lv.1, dest := .p n, val := if lv.2 then 1 else 0 } }

/-- Performing one late write (R179). -/
def State.writeLong (s : State) (l : Long) : State :=
  match l.dest with
  | .g r => if r = 0 then s else s.modCtx l.dst fun c => { c with g := c.g.set r l.val }
  | .p n => s.wp l.dst n (decide (l.val ≠ 0))

/-- A late write is outstanding for the agent: for an active lane or for its uniform file (R36, R179). A scalar SFU result that
waits in the SFU counts (R178), and so does the answer of `nbr.put` (R404). -/
def State.hasLongs (s : State) (id : CtxId) : Bool :=
  let ls := s.leader id :: ((s.ctx id).owed ++ s.lanes id)
  s.longs.any (fun l => ls.contains l.dst) || s.packets.any (fun p => p.dest != 0 && ls.contains p.from_) ||
    s.clusters.any fun k => decide (k.id = id.cl) && (k.sfuOut.any (fun l => l.away.isNone && ls.contains l.dst) ||
      k.sfuq.any fun e => match e with
        | .scalar vs _ _ w => w.isNone && vs.any fun v => ls.contains v.1
        | .vec _ => false)

/-- The scalar SFU results of a file that have not been written: those served first, then those still in the queue (R272). -/
def sfuLongs (k : Cluster) (f : CtxId → Bool) : List Long :=
  (k.sfuOut.filter fun l => l.away.isNone && f l.dst) ++ k.sfuq.flatMap fun e => match e with
    | .scalar vs d _ w => if w.isNone then (vs.filter fun v => f v.1).map fun v => { dst := v.1, dest := .g d, val := v.2 } else []
    | .vec _ => []

/-- A cluster's SFU without the scalar results of a file. -/
def sfuDrop (f : CtxId → Bool) (k : Cluster) : Cluster :=
  { k with
    sfuOut := k.sfuOut.filter fun l => l.away.isSome || !f l.dst
    sfuq := k.sfuq.filterMap fun e => match e with
      | .scalar vs d a w =>
        let vs' := vs.filter fun v => w.isSome || !f v.1
        if w.isNone && vs'.isEmpty && (f a || !vs.isEmpty) then none else some (.scalar vs' d a w)
      | .vec p => some (.vec p) }

/-- A cluster's SFU as a swap or a switch leaves it: the scalar requests of the contexts that go stay and are served in their turn (R273). -/
def sfuAway (f : CtxId → Bool) (w : Away) (k : Cluster) : Cluster :=
  { k with
    sfuOut := k.sfuOut.map fun (l : Long) => if (l.away.isNone && f l.dst) then { l with away := some w } else l
    sfuq := k.sfuq.map fun e => match e with
      | .scalar vs d a none => if f a then .scalar vs d a (some w) else e
      | .scalar _ _ _ (some _) => e
      | .vec _ => e }

/-- The SFU has results for contexts that have gone there (R273). -/
def Cluster.sfuFor (k : Cluster) (w : Away) : Bool :=
  k.sfuOut.any (fun l => l.away == some w) || k.sfuq.any fun e => match e with
    | .scalar _ _ _ x => x == some w
    | .vec _ => false

/-- Writing every outstanding result of a lane at once, poisoned ones apart: what is done before a trap is taken (R180, R273). -/
def State.flushLongs (s : State) (lane : CtxId) : State :=
  let f := fun i => decide (i = lane ∨ i = s.leader lane)
  let mine := (s.longs.filter fun l => f l.dst && l.poisoned.isNone) ++
    s.clusters.flatMap fun k => if k.id = lane.cl then sfuLongs k f else []
  let s := mine.foldl State.writeLong s
  { s with
    longs := s.longs.filter fun l => !(f l.dst && l.poisoned.isNone)
    clusters := s.clusters.map fun k => if k.id = lane.cl then sfuDrop f k else k }

/-- An instruction address from a register: an instruction is a word, and the two low bits are not used (notes/assumptions/12.md). (DEDUCED, log 12) -/
def instrPc (v : Word) : Word := v &&& ~~~3

/-! ### Clusters, domains, logical numbers (R12 to R15) -/

def State.cluster (s : State) (cl : Nat) : Cluster := (s.clusters.find? fun k => decide (k.id = cl)).getD { id := cl }

/-- Changing a cluster; a cluster that is not listed is listed first. -/
def State.modCluster (s : State) (cl : Nat) (f : Cluster → Cluster) : State :=
  if s.clusters.any fun k => decide (k.id = cl) then
    { s with clusters := s.clusters.map fun k => if k.id = cl then f k else k }
  else { s with clusters := s.clusters ++ [f { id := cl }] }

def State.domain (s : State) (m : Nat) : Domain := (s.domains.find? fun k => decide (k.id = m)).getD { id := m }

def State.modDomain (s : State) (m : Nat) (f : Domain → Domain) : State :=
  if s.domains.any fun k => decide (k.id = m) then
    { s with domains := s.domains.map fun k => if k.id = m then f k else k }
  else { s with domains := s.domains ++ [f { id := m }] }

/-- Column and row of a node (R12). -/
def clX (cl : Nat) : Nat := cl % 32
def clY (cl : Nat) : Nat := cl / 32

/-- Voltage domain of a cluster (R15). -/
def domainOf (cl : Nat) : Nat := 2 * clY cl + clX cl / 16

/-- Compute die of a node (R13). -/
def dieOf (cl : Nat) : Nat := 4 * (clX cl / 16) + clY cl / 8

/-- A cluster that this start can use: enabled by fuse, and in minimal mode of CD0 (R1, R475). (DEDUCED, log 117) -/
def State.usable (s : State) (cl : Nat) : Bool := enabledByFuse cl && (!s.boot.minimal || decide (dieOf cl = 0))

/-- The boot cluster: the usable cluster of lowest physical id (R470). -/
def State.bootCluster (s : State) : Option Nat := (List.range 1024).find? s.usable

/-- Number of enabled clusters as programs see it: 1024 in boot mode (R14, R469). -/
def State.nClusters (s : State) : Nat := if s.boot.mode then 1024 else s.lmap.length

/-- Logical number of a cluster; in boot mode its physical id (R14, R469). -/
def State.logical (s : State) (cl : Nat) : Nat :=
  if s.boot.mode then cl else ((s.lmap.find? fun p => decide (p.1 = cl)).map Prod.snd).getD 0xFFFF

/-- Physical id of a logical number, if it names an enabled cluster. -/
def State.physical (s : State) (l : Nat) : Option Nat :=
  if s.boot.mode then (if l < 1024 then some l else none)
  else (s.lmap.find? fun p => decide (p.2 = l)).map Prod.fst

/-- CYCLE of a cluster (R443): it does not advance in a pause. (DEDUCED, log 93) -/
def State.cycle (s : State) (cl : Nat) : Nat :=
  let k := s.cluster cl
  let t := match k.change with
    | some (_, _, some t0) => min t0 s.gtime
    | _ => s.gtime
  k.cycBase + (t - k.segT1) * 144 / (5 * (16 + k.step))

/-- A cluster's copy of GTIME as a program or a stamp of it takes it: within 2 ns of the reference, never moving backward (R441). (DEDUCED, log 94) -/
def State.readGtime (s : State) (cl : Nat) : Nat × State :=
  let (v, s) := s.freshFree
  let t := max (s.cluster cl).gLast (s.gtime + v.toNat % 5 - 2)
  (t, s.modCluster cl fun k => { k with gLast := t })

/-- The issue pause of a change of divider (R393). -/
def State.paused (s : State) (cl : Nat) : Bool := match (s.cluster cl).change with
  | some (_, _, some _) => true
  | _ => false

/-! ### Partitions (R444) -/

def State.partNo (s : State) (n : Nat) : Option Partition := s.parts.find? fun p => decide (p.num = n)

/-- The partition that owns a cluster's band. -/
def State.partOf (s : State) (cl : Nat) : Option Partition :=
  s.parts.find? fun p => decide (p.lo ≤ clY cl / 4 ∧ clY cl / 4 ≤ p.hi)

/-- Nothing of the cluster issues or runs: its partition is stopped, switched out, or past the time of its switch. -/
def State.frozen (s : State) (cl : Nat) : Bool := match s.partOf cl with
  | none => false
  | some p => match p.run with
    | .running => false
    | .stopping t _ => decide (t ≤ s.gtime)
    | .stopped _ => true
    | .away _ => true
    | .entering _ _ => true

def State.modPart (s : State) (n : Nat) (f : Partition → Partition) : State :=
  { s with parts := s.parts.map fun p => if p.num = n then f p else p }

/-- The stacks of a partition: HSb and HS(b+8) for each band b (R444). -/
def Partition.ownsStack (p : Partition) (k : Nat) : Bool := decide (p.lo ≤ k % 8 ∧ k % 8 ≤ p.hi ∧ k < 16)

/-- The stacks in use: in minimal mode HS8 and HS9 stay unused (R475). (DEDUCED, log 117) -/
def Partition.usesStack (p : Partition) (half : Bool) (k : Nat) : Bool := p.ownsStack k && (!half || decide (k < 8))

/-- The clusters of a partition, ascending physical id. -/
def State.partClusters (s : State) (p : Partition) : List Nat :=
  ((List.range 1024).filter fun c => decide (p.lo ≤ clY c / 4 ∧ clY c / 4 ≤ p.hi)).filter fun c =>
    s.lmap.any fun q => decide (q.1 = c)

/-! ### Poisoned lines (R384) -/

/-- The line of 64 bytes that holds an address is marked. -/
def markLine (l : List Nat) (a : Nat) : List Nat := if l.contains (a / 64) then l else l ++ [a / 64]

/-- One of n bytes from an address on lies in a marked line. -/
def linesBad (l : List Nat) (a n : Nat) : Bool := l.any fun x => decide (a / 64 ≤ x ∧ x ≤ (a + n - 1) / 64)

/-! ### Ports of Evoud Link (R457, R475) -/

/-- Port i carries nothing: it is down, or not powered in minimal mode. -/
def State.deadPort (s : State) (i : Nat) : Bool := s.boot.minimal || s.portsDown.contains i

/-- The port that a request to a peer travels on: the lowest live port of its mask. -/
def State.peerPort (s : State) (q : Nat) : Option Nat :=
  (s.peers.find? fun p => decide (p.num = q)).bind fun p => (List.range 8).find? fun i => p.mask.testBit i && !s.deadPort i

/-! ### Teams (R29) -/

def State.team (s : State) (cl num : Nat) : Option Team := s.teams.find? fun t => decide (t.cl = cl ∧ t.num = num)

def State.teamOf (s : State) (id : CtxId) : Option Team :=
  match (s.ctx id).team with
  | some n => s.team id.cl n
  | none => none

def State.modTeam (s : State) (cl num : Nat) (f : Team → Team) : State :=
  { s with teams := s.teams.map fun t => if t.cl = cl ∧ t.num = num then f t else t }

def State.modTeamOf (s : State) (id : CtxId) (f : Team → Team) : State :=
  match (s.ctx id).team with
  | some n => s.modTeam id.cl n f
  | none => s

/-- The contexts of a team. -/
def State.teamCtxs (s : State) (t : Team) : List Ctx :=
  s.ctxs.filter fun c => decide (c.id.cl = t.cl ∧ c.team = some t.num)

/-! ### The outstanding counters (R153) -/

/-- Value of a counter: the commands of its class that have not retired. -/
def State.count (s : State) (id : CtxId) (k : Cls) : Nat :=
  (s.ocq.filter fun e => decide (e.ctx = id ∧ e.cls = k)).length

/-- OCNT (R183). -/
def State.ocnt (s : State) (id : CtxId) : Word :=
  BitVec.ofNat 64 (s.count id .occ % 65536 + s.count id .ocm % 65536 * 2 ^ 16 +
    s.count id .ocg % 65536 * 2 ^ 32 + s.count id .ocl % 65536 * 2 ^ 48)

/-- A command of the class has issued: its ticket, and the state in which it counts. -/
def State.ocIssue (s : State) (id : CtxId) (k : Cls) : Nat × State :=
  (s.ocNext, { s with ocq := s.ocq ++ [{ ticket := s.ocNext, ctx := id, cls := k, done := false }], ocNext := s.ocNext + 1 })

/-- Retiring from the head of a class while its commands are done: strictly in issue order (R153). -/
def retireHeads : List OcEntry → List (CtxId × Cls) → List OcEntry
  | [], _ => []
  | e :: r, blocked =>
    if blocked.contains (e.ctx, e.cls) then e :: retireHeads r blocked
    else if e.done then retireHeads r blocked
    else e :: retireHeads r ((e.ctx, e.cls) :: blocked)

/-- The command with this ticket is complete: it retires when every earlier one of its counter has (R153). -/
def State.ocDone (s : State) (ticket : Nat) : State :=
  { s with ocq := retireHeads (s.ocq.map fun e => if e.ticket = ticket then { e with done := true } else e) [] }

/-- Copies, gathers and scatters in flight in the cluster (R300). -/
def State.copiesIn (s : State) (cl : Nat) : Nat := (s.copies.filter fun p => decide (p.by_.ctx.cl = cl)).length

/-- The privilege that the instruction needs is not the context's (R381). -/
def lacksPriv (machine : Bool) (c : Ctx) : Bool := c.priv == .user || (machine && c.priv != .machine)

/-! ### Ending an instruction -/

/-- An active lane has a deferred poison trap (R384). -/
def State.poisoned (s : State) (id : CtxId) : Bool := (s.lanes id).any fun i => (s.ctx i).poison.isSome

/-- A switch marker parks the agent: long results are outstanding, or a deferred trap is (R36, R179, R384). -/
def State.mustPark (s : State) (id : CtxId) : Bool := s.hasLongs id || s.poisoned id

/-- The agent's next instruction is at pc; after a switch marker it parks until its long results are written (R36, R179). -/
def State.advance (s : State) (sm : Bool) (pc : Word) : State :=
  let st := if sm && s.mustPark s.cur then CState.parked .results else CState.ready
  s.modCtx s.cur fun c => { c with pc := pc, st := st, woken := false, arrived2 := false }

/-- The agent goes on at the next word. -/
def State.retire (s : State) (sm : Bool) : State := s.advance sm ((s.ctx s.cur).pc + 4)

/-- The agent stays at the instruction in the state st: a wait or a want of room (R34, R56). (DEDUCED, log 15) -/
def State.stay (s : State) (st : CState) : State := s.modCtx s.cur fun c => { c with st := st }

/-- Beginning a wait of R56, from now on. (DEDUCED, log 15) -/
def State.waitFor (s : State) (w : Wait) : State := s.stay (.waiting w s.gtime)

/-- What an instruction does for the context that issues it. -/
abbrev Result := Host.Outcome State Fault Refusal

/-- An instruction's meaning runs for the agent that issues it; an empty slot issues nothing (R34). (DESIGN CHOICE, log 125) -/
def onCtx (s : State) (f : Ctx → State) : Result :=
  match s.findCtx s.cur with
  | some c => .next (f c)
  | none => .fault .noContext

end Sys2Proof.Machine
end

