-- ==== Sys2Proof/Machine/Num.lean ====
section
/-! DEFINITION. Sys2Proof/Machine/Num.lean: element formats, exact values and the one rounding (spec/03 R72 to R99). A floating-point
code is a natural number below two to the width of its format; a value between codes is exact: a sign and a fraction of two naturals. -/

namespace Sys2Proof.Machine

/-! ### Bits of 64-bit words -/

/-- Field of k bits whose lowest bit is lo, as a number (R3). -/
def wfld (w : Word) (lo k : Nat) : Nat := fld w.toNat lo k

/-- Bit n of a word. -/
def wb (w : Word) (n : Nat) : Bool := w.getLsbD n

/-- Low n bits of v read as a two's-complement number. -/
def signedOf (n v : Nat) : Int := if 2 ^ (n - 1) ≤ v % 2 ^ n then (v % 2 ^ n : Int) - 2 ^ n else (v % 2 ^ n : Int)

/-- The n low bits of an integer: wrapping (R90). -/
def wrapNat (n : Nat) (i : Int) : Nat := (i % (2 ^ n : Int)).toNat

/-- An integer clamped to a range (R84, R90). -/
def clampInt (lo hi i : Int) : Int := if i < lo then lo else if hi < i then hi else i

/-! ### Formats (R74, R94) -/

inductive FFmt where
  | f64 | f32 | f16 | bf16 | e4m3 | e5m2 | e2m1 | w40
deriving DecidableEq, Repr

def FFmt.width : FFmt → Nat
  | .f64 => 64 | .f32 => 32 | .f16 => 16 | .bf16 => 16 | .e4m3 => 8 | .e5m2 => 8 | .e2m1 => 4 | .w40 => 40

def FFmt.ebits : FFmt → Nat
  | .f64 => 11 | .f32 => 8 | .f16 => 5 | .bf16 => 8 | .e4m3 => 4 | .e5m2 => 5 | .e2m1 => 2 | .w40 => 8

def FFmt.mbits : FFmt → Nat
  | .f64 => 52 | .f32 => 23 | .f16 => 10 | .bf16 => 7 | .e4m3 => 3 | .e5m2 => 2 | .e2m1 => 1 | .w40 => 31

def FFmt.bias : FFmt → Nat
  | .f64 => 1023 | .f32 => 127 | .f16 => 15 | .bf16 => 127 | .e4m3 => 7 | .e5m2 => 15 | .e2m1 => 1 | .w40 => 127

/-- The all-ones exponent is infinity or NaN. -/
def FFmt.ieee : FFmt → Bool
  | .e4m3 => false | .e2m1 => false | .f64 => true | .f32 => true | .f16 => true | .bf16 => true | .e5m2 => true | .w40 => true

/-- Canonical NaN; e2m1, which has none, gives +0 (R79, R83). -/
def FFmt.nan : FFmt → Nat
  | .f64 => 0x7FF8000000000000 | .f32 => 0x7FC00000 | .f16 => 0x7E00 | .bf16 => 0x7FC0 | .e4m3 => 0x7F | .e5m2 => 0x7E | .e2m1 => 0
  | .w40 => 0x7FC0000000

/-- Exponent of the largest finite value. -/
def FFmt.emax : FFmt → Int
  | .e4m3 => 8 | .e2m1 => 2 | .f64 => 1023 | .f32 => 127 | .f16 => 15 | .bf16 => 127 | .e5m2 => 15 | .w40 => 127

/-- Significand of the largest finite value, in units of the last place. -/
def FFmt.maxSig : FFmt → Nat
  | .e4m3 => 14 | .e2m1 => 3 | .f64 => 2 ^ 53 - 1 | .f32 => 2 ^ 24 - 1 | .f16 => 2 ^ 11 - 1 | .bf16 => 255 | .e5m2 => 7
  | .w40 => 2 ^ 32 - 1

/-- Code of the largest finite value, sign 0. -/
def FFmt.maxCode (f : FFmt) : Nat := (f.emax + f.bias).toNat * 2 ^ f.mbits + (f.maxSig - 2 ^ f.mbits)

/-- Code of +∞ of a format that has one. -/
def FFmt.infCode (f : FFmt) : Nat := (2 ^ f.ebits - 1) * 2 ^ f.mbits

/-- The sign bit as a number. -/
def FFmt.sgn (f : FFmt) (neg : Bool) : Nat := if neg then 2 ^ (f.width - 1) else 0

/-- Saturation that holds without a qualifier (R78): e4m3, e5m2 and e2m1 saturate. -/
def FFmt.satDefault : FFmt → Bool
  | .e4m3 => true | .e5m2 => true | .e2m1 => true | .f64 => false | .f32 => false | .f16 => false | .bf16 => false | .w40 => false

/-! ### Exact values -/

/-- An exact result: NaN, an infinity, or sign and magnitude num/den (den is not 0); a zero keeps its sign. -/
inductive Ex where
  | nan
  | inf (neg : Bool)
  | fin (neg : Bool) (num den : Nat)
deriving DecidableEq, Repr

def Ex.zero : Ex := .fin false 0 1

def Ex.ofInt (i : Int) : Ex := .fin (decide (i < 0)) i.natAbs 1

def Ex.neg : Ex → Ex
  | .nan => .nan
  | .inf b => .inf (!b)
  | .fin b n d => .fin (!b) n d

def Ex.isNan : Ex → Bool
  | .nan => true
  | .inf _ => false
  | .fin _ _ _ => false

def Ex.isZero : Ex → Bool
  | .fin _ n _ => n == 0
  | .nan => false
  | .inf _ => false

def Ex.sign : Ex → Bool
  | .nan => false
  | .inf b => b
  | .fin b _ _ => b

/-- mag · 2^e as a fraction. -/
def scale2 (neg : Bool) (m : Nat) (e : Int) : Ex :=
  if e < 0 then .fin neg m (2 ^ (-e).toNat) else .fin neg (m * 2 ^ e.toNat) 1

/-- DecodeFloat (R75, R94). -/
def decodeFloat (f : FFmt) (code : Nat) : Ex :=
  let s := bitAt code (f.width - 1)
  let e := fld code f.mbits f.ebits
  let m := fld code 0 f.mbits
  if f.ieee && e == 2 ^ f.ebits - 1 then (if m = 0 then .inf s else .nan)
  else if f == .e4m3 && e == 15 && m == 7 then .nan
  else if e = 0 then scale2 s m (1 - (f.bias : Int) - f.mbits)
  else scale2 s (2 ^ f.mbits + m) ((e : Int) - f.bias - f.mbits)

/-! ### Rounding (R76 to R80) -/

inductive RMode where
  | rne | rtz | rdn | rup
deriving DecidableEq, Repr

/-- The RM field (R76). -/
def rmodeOf (n : Nat) : RMode := match n % 4 with
  | 0 => .rne
  | 1 => .rtz
  | 2 => .rdn
  | _ => .rup

/-- RoundInt of the magnitude n/d of a value with the given sign (R77). -/
def roundMag (m : RMode) (neg : Bool) (n d : Nat) : Nat :=
  let q := n / d
  let r := n % d
  match m with
  | .rne => if d < 2 * r || (2 * r == d && q % 2 == 1) then q + 1 else q
  | .rtz => q
  | .rdn => if neg && r != 0 then q + 1 else q
  | .rup => if !neg && r != 0 then q + 1 else q

/-- Floor of the binary logarithm of n/d, both above 0. -/
def floorLog2 (n d : Nat) : Int :=
  let e := (Nat.log2 n : Int) - Nat.log2 d
  let below := if 0 ≤ e then n < d * 2 ^ e.toNat else n * 2 ^ (-e).toNat < d
  if below then e - 1 else e

/-- Overflow (R78). -/
def overflowTo (neg : Bool) (f : FFmt) (m : RMode) (sat : Bool) : Nat :=
  let big := f.sgn neg + f.maxCode
  let top := if f.ieee then f.sgn neg + f.infCode else f.nan
  if sat || f == .e2m1 then big else match m with
    | .rne => top
    | .rtz => big
    | .rup => if neg then big else top
    | .rdn => if neg then top else big

/-- RoundToFormat (R77). -/
def roundTo (f : FFmt) (m : RMode) (sat : Bool) : Ex → Nat
  | .nan => f.nan
  | .inf neg => if f.ieee && !sat then f.sgn neg + f.infCode else overflowTo neg f m sat
  | .fin neg n d =>
    if n = 0 then f.sgn neg
    else
      let e := max (floorLog2 n d) (1 - (f.bias : Int))
      let k := e - f.mbits
      let r := if k < 0 then roundMag m neg (n * 2 ^ (-k).toNat) d else roundMag m neg n (d * 2 ^ k.toNat)
      let (r, e) := if r = 2 ^ (f.mbits + 1) then (2 ^ f.mbits, e + 1) else (r, e)
      if f.emax < e || (f.emax == e && f.maxSig < r) then overflowTo neg f m sat
      else if r < 2 ^ f.mbits then f.sgn neg + r
      else f.sgn neg + (e + f.bias).toNat * 2 ^ f.mbits + (r - 2 ^ f.mbits)

/-- A code whose exponent field is zero and fraction is not (R80). -/
def isSubnormal (f : FFmt) (code : Nat) : Bool := fld code f.mbits f.ebits == 0 && fld code 0 f.mbits != 0

/-- Under .ftz a subnormal code becomes the zero of its sign (R80). -/
def flushCode (f : FFmt) (ftz : Bool) (code : Nat) : Nat :=
  if ftz && isSubnormal f code then f.sgn (bitAt code (f.width - 1)) else code

/-- An operand of a floating-point operation (R75, R80). -/
def operand (f : FFmt) (ftz : Bool) (code : Nat) : Ex := decodeFloat f (flushCode f ftz (code % 2 ^ f.width))

/-- The result of a floating-point operation (R77, R80). -/
def result (f : FFmt) (m : RMode) (sat ftz : Bool) (x : Ex) : Nat := flushCode f ftz (roundTo f m sat x)

/-! ### Exact arithmetic (R77, R79) -/

/-- Sum; the sign of an exact zero depends on the mode. -/
def Ex.add (m : RMode) : Ex → Ex → Ex
  | .nan, _ => .nan
  | _, .nan => .nan
  | .inf a, .inf b => if a = b then .inf a else .nan
  | .inf a, .fin _ _ _ => .inf a
  | .fin _ _ _, .inf b => .inf b
  | .fin a n d, .fin b p q =>
    let x : Int := (if a then -(n : Int) else n) * q
    let y : Int := (if b then -(p : Int) else p) * d
    if x + y = 0 then .fin (if a = b then a else m == .rdn) 0 1
    else .fin (decide (x + y < 0)) (x + y).natAbs (d * q)

def Ex.mul : Ex → Ex → Ex
  | .nan, _ => .nan
  | _, .nan => .nan
  | .inf a, .inf b => .inf (a != b)
  | .inf a, .fin b n _ => if n = 0 then .nan else .inf (a != b)
  | .fin a n _, .inf b => if n = 0 then .nan else .inf (a != b)
  | .fin a n d, .fin b p q => .fin (a != b) (n * p) (d * q)

def Ex.div : Ex → Ex → Ex
  | .nan, _ => .nan
  | _, .nan => .nan
  | .inf _, .inf _ => .nan
  | .inf a, .fin b _ _ => .inf (a != b)
  | .fin a _ _, .inf b => .fin (a != b) 0 1
  | .fin a n d, .fin b p q =>
    if p = 0 then (if n = 0 then .nan else .inf (a != b)) else .fin (a != b) (n * q) (d * p)

/-- The largest r with r² ≤ n, found bit by bit from bit k − 1 down. -/
def isqrtFrom : Nat → Nat → Nat → Nat
  | 0, r, _ => r
  | k + 1, r, n => if (r + 2 ^ k) * (r + 2 ^ k) ≤ n then isqrtFrom k (r + 2 ^ k) n else isqrtFrom k r n

def isqrt (n : Nat) : Nat := isqrtFrom (Nat.log2 n / 2 + 1) 0 n

/-- Square root: exact where it is rational with a power of two below, else a value on the same side of every code and of every
midpoint of two codes: 1200 binary places and a last bit that says that it is not exact. -/
def Ex.sqrt : Ex → Ex
  | .nan => .nan
  | .inf b => if b then .nan else .inf false
  | .fin b n d =>
    if n = 0 then .fin b 0 1
    else if b then .nan
    else
      let x := n * 2 ^ 2400
      let r := isqrt (x / d)
      if r * r * d = x then .fin false r (2 ^ 1200) else .fin false (2 * r + 1) (2 ^ 1201)

/-- a < b of two values that are not NaN; −0 and +0 are equal. -/
def Ex.lt : Ex → Ex → Bool
  | .nan, _ => false
  | _, .nan => false
  | .inf a, .inf b => a && !b
  | .inf a, .fin _ _ _ => a
  | .fin _ _ _, .inf b => !b
  | .fin a n d, .fin b p q => decide ((if a then -(n : Int) else n) * q < (if b then -(p : Int) else p) * d)

/-- The magnitude. -/
def Ex.abs : Ex → Ex
  | .nan => .nan
  | .inf _ => .inf false
  | .fin _ n d => .fin false n d

/-- minimumNumber and maximumNumber, −0 below +0 (R82). -/
def Ex.minNum (a b : Ex) : Ex :=
  if a.isNan then b else if b.isNan then a
  else if a.lt b then a else if b.lt a then b else if a.sign then a else b

def Ex.maxNum (a b : Ex) : Ex :=
  if a.isNan then b else if b.isNan then a
  else if a.lt b then b else if b.lt a then a else if a.sign then b else a

/-- An infinity, NaN or number rounded to an integer and clamped (R84). -/
def Ex.toInt (m : RMode) (lo hi : Int) : Ex → Int
  | .nan => 0
  | .inf b => if b then lo else hi
  | .fin b n d => clampInt lo hi (if b then -(roundMag m b n d : Int) else roundMag m b n d)

/-- Sum of a list of exact values, from its first on; +0 of an empty one (R95). -/
def Ex.sum : List Ex → Ex
  | [] => .zero
  | a :: r => r.foldl (Ex.add .rne) a

/-! ### Block scales and affine groups (R85 to R89) -/

/-- DecodeE5M3 (R85). -/
def decodeE5M3 (c : Nat) : Ex :=
  if c = 0 then .zero
  else if c = 0xFF then .nan
  else if fld c 3 5 = 0 then scale2 false (fld c 0 3) (-17)
  else scale2 false (8 + fld c 0 3) ((fld c 3 5 : Int) - 18)

/-- Largest finite value of a block's element format. -/
def fmaxOf (f : FFmt) : Nat := match f with
  | .e4m3 => 448 | .e5m2 => 57344 | .e2m1 => 6 | _ => 0

/-- a ≤ b for magnitudes. -/
def Ex.leq (a b : Ex) : Bool := !(b.lt a)

/-- The least scale code under which the magnitude does not exceed Fmax (R87). -/
def scaleFor (f : FFmt) (mx : Ex) : Nat :=
  (((List.range 254).map (· + 1)).find? fun c => mx.leq (Ex.mul (Ex.ofInt (fmaxOf f)) (decodeE5M3 c))).getD 0xFE

/-- EncodeBlock (R87): the scale code and the sixteen element codes. -/
def encodeBlock (f : FFmt) (x : List Ex) : Nat × List Nat :=
  if x.any Ex.isNan then (0xFF, x.map fun _ => 0)
  else
    let mx := (x.map Ex.abs).foldl (fun a b => if a.lt b then b else a) .zero
    if mx.isZero then (0x00, x.map fun _ => 0)
    else
      let c := scaleFor f mx
      (c, x.map fun v => roundTo f .rne true (v.div (decodeE5M3 c)))

/-- Value of an element of a scaled block (R86): a scale of 0x00 gives +0. -/
def scaledVal (f : FFmt) (c code : Nat) : Ex :=
  if c = 0 then .zero else if c = 0xFF then .nan else Ex.mul (decodeFloat f code) (decodeE5M3 c)

/-- Value of an element of an affine group (R88): scale code of f16, zero point, code. -/
def affineVal (s z q : Nat) : Ex := Ex.mul (decodeFloat .f16 s) (Ex.ofInt ((q : Int) - z))

/-- Code of an element of an affine group (R89). (DEDUCED, log 20) -/
def affineCode (qmax s z : Nat) (x : Ex) : Nat :=
  match decodeFloat .f16 s with
  | .nan => min z qmax
  | .inf _ => min z qmax
  | .fin sb n d =>
    if n = 0 then min z qmax
    else match x.div (.fin sb n d) with
      | .nan => min z qmax
      | .inf b => if b then 0 else qmax
      | .fin b p q => (clampInt 0 qmax ((if b then -(roundMag .rne b p q : Int) else roundMag .rne b p q) + z)).toNat

/-! ### Element types (R72, R73) -/

/-- Bits of an element type code; 0 for a reserved one. -/
def tyBits (ty : Nat) : Nat := match ty with
  | 1 => 64 | 2 => 32 | 3 => 16 | 4 => 16 | 5 => 8 | 6 => 8 | 7 => 4 | 8 => 64 | 9 => 32 | 10 => 16 | 11 => 8 | 12 => 8
  | 13 => 8 | 14 => 4 | 15 => 8 | 16 => 32 | _ => 0

/-- The code names a type. -/
def tyKnown (ty : Nat) : Bool := decide (1 ≤ ty ∧ ty ≤ 16)

/-- Floating-point format of a type code. -/
def tyFmt (ty : Nat) : Option FFmt := match ty with
  | 1 => some .f64 | 2 => some .f32 | 3 => some .bf16 | 4 => some .f16 | 5 => some .e4m3 | 6 => some .e5m2 | 7 => some .e2m1
  | _ => none

/-- An integer type: i64, i32, i16, i8, n8 or n32. -/
def tyInt (ty : Nat) : Bool := decide (8 ≤ ty ∧ ty ≤ 12) || ty == 16

/-- The type is unsigned, of itself or under UNS. -/
def tyUns (ty : Nat) (uns : Bool) : Bool := ty == 12 || ty == 16 || uns

/-- Value of an integer code. -/
def intVal (bits : Nat) (uns : Bool) (code : Nat) : Int := if uns then ((code % 2 ^ bits : Nat) : Int) else signedOf bits code

/-- Least and greatest value of an integer type. -/
def intLo (bits : Nat) (uns : Bool) : Int := if uns then 0 else -(2 ^ (bits - 1) : Int)
def intHi (bits : Nat) (uns : Bool) : Int := if uns then 2 ^ bits - 1 else 2 ^ (bits - 1) - 1

/-- An integer result narrowed to a type: wrapping, or clamped under .sat (R90). -/
def narrowInt (bits : Nat) (uns sat : Bool) (i : Int) : Nat :=
  wrapNat bits (if sat then clampInt (intLo bits uns) (intHi bits uns) i else i)

end Sys2Proof.Machine
end

