-- ==== Sys2Proof/Machine/Flags.lean ====
section
/-! DEFINITION. Sys2Proof/Machine/Flags.lean: the conditions of branches, `pcmp` and `fcmp`, the class word of `fclass`, and which
operations are invalid (spec/07 R205, R206, R215, R219; spec/03 R79, R81). The K4 has no flag register: a condition is computed where it
is used. -/

namespace Sys2Proof.Machine

/-- The integer conditions of R215 and R219: 0 eq, 1 ne, 2 lt, 3 ge, 4 ltu, 5 geu. -/
def intCond (c : Nat) (a b : Word) : Bool := match c with
  | 0 => a == b
  | 1 => a != b
  | 2 => a.slt b
  | 3 => !(a.slt b)
  | 4 => a.ult b
  | _ => !(a.ult b)

/-- Equality of two values that are not NaN; −0 equals +0. -/
def Ex.eqv (a b : Ex) : Bool := !a.isNan && !b.isNan && !(a.lt b) && !(b.lt a)

/-- The conditions of `fcmp` (R205): 0 eq, 1 ne, 2 lt, 3 le, 4 gt, 5 ge, 6 un, 7 ord. -/
def fCond (c : Nat) (a b : Ex) : Bool :=
  let un := a.isNan || b.isNan
  match c with
  | 0 => a.eqv b
  | 1 => !(a.eqv b)
  | 2 => a.lt b
  | 3 => a.lt b || a.eqv b
  | 4 => b.lt a
  | 5 => b.lt a || a.eqv b
  | 6 => un
  | _ => !un

/-- The operand is finite and an integer (R206). -/
def Ex.isInt : Ex → Bool
  | .nan => false
  | .inf _ => false
  | .fin _ n d => n % d == 0

/-- Class of a code: 0 zero, 1 subnormal, 2 normal, 3 infinity, 4 NaN (R206). -/
def fClassOf (f : FFmt) (code : Nat) : Nat :=
  match decodeFloat f code with
  | .nan => 4
  | .inf _ => 3
  | .fin _ n _ => if n = 0 then 0 else if isSubnormal f code then 1 else 2

/-- The class word of `fclass` (R206). -/
def fClassWord (f : FFmt) (code : Nat) : Word :=
  BitVec.ofNat 64 (fClassOf f code + (if bitAt code (f.width - 1) then 8 else 0) + (if code = f.nan then 16 else 0) +
    (if (decodeFloat f code).isInt then 32 else 0))

/-- The operations of FP-R whose validity R81 judges. -/
inductive FpOp where
  | add | sub | mul | fma | div | sqrt
deriving DecidableEq, Repr

/-- The exact result of an FP-R operation (R204): operands a, b and, for fma, the addend c. -/
def fpExact (op : FpOp) (m : RMode) (a b c : Ex) : Ex := match op with
  | .add => a.add m b
  | .sub => a.add m b.neg
  | .mul => a.mul b
  | .fma => (a.mul b).add m c
  | .div => a.div b
  | .sqrt => a.sqrt

/-- The operation is invalid (R81): its result is NaN although no operand is; for fma also 0·∞ with a NaN addend. -/
def fpInvalid (op : FpOp) (m : RMode) (a b c : Ex) : Bool := match op with
  | .fma => !a.isNan && !b.isNan && ((a.mul b).isNan || (!c.isNan && ((a.mul b).add m c).isNan))
  | .sqrt => !a.isNan && a.sqrt.isNan
  | .add => !a.isNan && !b.isNan && (a.add m b).isNan
  | .sub => !a.isNan && !b.isNan && (a.add m b.neg).isNan
  | .mul => !a.isNan && !b.isNan && (a.mul b).isNan
  | .div => !a.isNan && !b.isNan && (a.div b).isNan

end Sys2Proof.Machine
end

