-- ==== Sys2Proof/Machine/Translate.lean ====
section
/-! DEFINITION. Sys2Proof/Machine/Translate.lean: virtual addresses, regions, local-store addresses and windows (spec/04 R102 to R117), the
boot map (spec/17 R469) and the hashed page table (spec/14 R408 to R418, R426). -/

namespace Sys2Proof.Machine

/-! ### Regions (R102 to R104) -/

inductive Region where
  | paged | lsAny | lsOwn | vreg | unassigned
deriving DecidableEq, Repr

/-- The region that VA[55:48] selects (R103). -/
def regionOf (va : Nat) : Region :=
  let r := fld va 48 8
  if r < 0x80 then .paged else if r = 0xC0 then .lsAny else if r = 0xC1 then .lsOwn else if r = 0xC2 then .vreg else .unassigned

/-- Who accesses memory: its cluster, team, privilege and domain. -/
structure Who where
  cl : Nat
  team : Option Nat
  priv : Priv
  domain : BitVec 12
deriving DecidableEq, Repr

/-- The accessor that a context is. -/
def whoOf (c : Ctx) : Who := ⟨c.id.cl, c.team, c.priv, c.domain⟩

/-- The accessor on whose behalf an engine works (R106). -/
def whoB (b : Behalf) : Who := ⟨b.ctx.cl, b.team, b.priv, b.domain⟩

/-- The context that an engine command works for, as its command keeps it. -/
def State.behalf (s : State) (c : Ctx) : Behalf where
  ctx := c.id
  priv := c.priv
  domain := c.domain
  team := c.team
  wds := match s.teamOf c.id with
    | some t => t.wds
    | none => []

/-! ### Local-store addresses (R108 to R114) -/

/-- A byte of local store as an address names it: the cluster, the physical offset, the window, the offset in the allocation, and the
allocation with its window descriptors. -/
structure LsAt where
  cl : Nat
  phys : Nat
  win : Nat
  off : Nat
  base : Nat
  size : Nat
  wds : List Word
deriving DecidableEq, Repr

/-- The resident team whose allocation holds an LS byte (R109). -/
def State.lsTeam (s : State) (cl off : Nat) : Option Team :=
  s.teams.find? fun t => decide (t.cl = cl ∧ t.lsBase ≤ off ∧ off < t.lsBase + t.lsSize) && !t.swapped

/-- The key of a page or an allocation admits the accessor (R106, R380). -/
def keyOk (w : Who) (key : BitVec 12) : Bool := w.priv != .user || key == w.domain || key == 0

/-- The LS byte that an address of region 0xC0 or 0xC1 names, or the STATUS of the PROTECTION it raises (R103, R104, R108, R109, R380,
R384). A machine access skips the allocation check. (DEDUCED, log 32) -/
def State.lsAt (s : State) (w : Who) (va : Nat) : Except Nat LsAt :=
  let win := fld va 20 3
  let off := fld va 0 20
  if regionOf va = .lsAny then
    if fld va 33 15 ≠ 0 then .error 0
    else match s.physical (fld va 23 10) with
      | none => .error 0
      | some cl =>
        match s.lsTeam cl off with
        | some t =>
          if keyOk w t.domain then .ok ⟨cl, off, win, off - t.lsBase, t.lsBase, t.lsSize, t.wds⟩ else .error 1
        | none => if w.priv = .machine then .ok ⟨cl, off, win, off, 0, 2 ^ 20, []⟩ else .error 3
  else
    if fld va 23 25 ≠ 0 then .error 0
    else match w.team.bind (s.team w.cl) with
      | some t =>
        if t.swapped then .error 3
        else if t.lsSize ≤ off && w.priv != .machine then .error 3
        else if 2 ^ 20 ≤ t.lsBase + off then .error 3
        else if keyOk w t.domain then .ok ⟨w.cl, t.lsBase + off, win, off, t.lsBase, t.lsSize, t.wds⟩ else .error 1
      | none => if w.priv = .machine then .ok ⟨w.cl, off, win, off, 0, 2 ^ 20, []⟩ else .error 3

/-- Key of an LS cell: 2^20 · cluster + offset. -/
def lsKey (cl off : Nat) : Nat := 2 ^ 20 * cl + off

/-! ### Windows (R112 to R114) -/

/-- Fields of a window descriptor (R112). -/
def wdL (wd : Word) : Nat := wfld wd 0 16
def wdMbase (wd : Word) : Nat := wfld wd 16 20
def wdMpitch (wd : Word) : Nat := wfld wd 36 16
def wdGs (wd : Word) : Nat := wfld wd 52 2
def wdGroup (wd : Word) : Nat := 32 * 2 ^ wdGs wd

/-- The descriptor of a window in a list WD0 to WD7. -/
def wdAt (wds : List Word) (win : Nat) : Word := (wds[win]?).getD 0

/-- Bits of a stored element of a window (R113); 8 for W0. -/
def winBits (win : Nat) : Nat := match win with
  | 3 => 4 | 5 => 4 | 6 => 16 | 7 => 16 | _ => 8

/-- Element format of the scaled windows and of W6, W7 (R86, R114): W1 e4m3, W2 e5m2, W3 e2m1, W6 bf16, W7 f16. -/
def winFmt (win : Nat) : FFmt := match win with
  | 1 => .e4m3 | 2 => .e5m2 | 3 => .e2m1 | 6 => .bf16 | _ => .f16

/-- The window has block scales, or affine groups, or neither. -/
def winScaled (win : Nat) : Bool := decide (1 ≤ win ∧ win ≤ 3)
def winAffine (win : Nat) : Bool := decide (win = 4 ∨ win = 5)

/-- Element index of a byte offset (R113). -/
def winElem (win off : Nat) : Nat := match win with
  | 3 => 2 * off | 5 => 2 * off | 6 => off / 2 | 7 => off / 2 | _ => off

/-- Where the metadata of element e lies, relative to the allocation (R113). -/
def winMeta (win : Nat) (wd : Word) (e : Nat) : Nat :=
  let row := e / wdL wd
  let col := e % wdL wd
  wdMbase wd + row * wdMpitch wd + (if winScaled win then col / 16 else 4 * (col / wdGroup wd))

/-- Bytes of a piece of metadata: a scale byte, or an affine record. -/
def winMetaBytes (win : Nat) : Nat := if winScaled win then 1 else 4

/-- STATUS of the PROTECTION that a window access of W1 to W5 raises for its descriptor or its metadata (R113). -/
def winBad (win : Nat) (wd : Word) (size e : Nat) : Option Nat :=
  if winScaled win || winAffine win then
    if wdL wd = 0 then some 0
    else if winAffine win && (wdGs wd == 3 || wdMbase wd % 4 != 0) then some 0
    else if size < winMeta win wd e + winMetaBytes win then some 3
    else none
  else none

/-! ### Page-table entries (R415 to R418) -/

/-- Page size class to shift (R414). -/
def pageShift (cls : Nat) : Nat := match cls with
  | 0 => 12 | 1 => 16 | 2 => 21 | _ => 30

def Xlat.r (x : Xlat) : Bool := wb x.w0 3
def Xlat.w (x : Xlat) : Bool := wb x.w0 4
def Xlat.x (x : Xlat) : Bool := wb x.w0 5
def Xlat.u (x : Xlat) : Bool := wb x.w0 6
def Xlat.a (x : Xlat) : Bool := wb x.w0 7
def Xlat.d (x : Xlat) : Bool := wb x.w0 8
def Xlat.frame (x : Xlat) : Nat := wfld x.w1 0 40
def Xlat.key (x : Xlat) : BitVec 12 := BitVec.ofNat 12 (wfld x.w1 40 12)
/-- 0 WB, 1 ST, 2 UC. -/
def Xlat.attr (x : Xlat) : Nat := wfld x.w1 52 2
def Xlat.mig (x : Xlat) : Nat := wfld x.w1 54 2
def Xlat.stripe (x : Xlat) : Bool := wb x.w1 56

/-- Physical address of a VA under a translation (R408, R409, R415). -/
def Xlat.pa (x : Xlat) (va : Nat) : Nat :=
  let o := va % 2 ^ pageShift x.cls
  let f := x.frame * 4096
  if x.stripe then
    fld f 36 4 * 2 ^ 36 + fld o 8 5 * 2 ^ 31 + fld f 0 31 + (o / 2 ^ 13) * 256 + o % 256
  else f + o

/-- The frame lies outside region 0x0 (R412). -/
def Xlat.far (x : Xlat) : Bool := decide (x.frame / 2 ^ 36 ≠ 0)

/-- The frame breaks R408 or R409 for the partition, lies beyond the CXL ranges (R456), or is not aligned to its page. -/
def badFrame (cxl : List (Nat × Nat)) (half : Bool) (p : Partition) (x : Xlat) : Bool :=
  let f := x.frame * 4096
  let n := 2 ^ pageShift x.cls
  let region := f / 2 ^ 48
  if f % n ≠ 0 && !x.stripe then true
  else if x.stripe then
    decide (x.cls = 0 ∨ 1 < x.attr ∨ region ≠ 0 ∨ fld f 40 8 ≠ 0 ∨ fld f 31 5 ≠ 0 ∨ fld f 0 31 % (n / 32) ≠ 0 ∨
      0x60000000 < fld f 0 31 + n / 32) || !p.usesStack half (fld f 36 4)
  else if region = 0 then
    decide (fld f 40 8 ≠ 0 ∨ 0x60000000 < fld f 0 31 + n) || !p.usesStack half (fld f 36 4)
  else if region = 2 then decide ((cxl.map Prod.snd).sum < f % 2 ^ 48 + n)
  else if region = 3 then decide (0x60000000 < fld f 0 31 + n)
  else decide (4 ≤ region)

/-- A matching entry that is malformed (R417). -/
def badEntry (cxl : List (Nat × Nat)) (half : Bool) (p : Partition) (x : Xlat) : Bool :=
  decide (wfld x.w0 9 3 ≠ 0 ∨ wfld x.w0 56 8 ≠ 0 ∨ wfld x.w1 57 7 ≠ 0 ∨ x.attr = 3 ∨ x.mig = 3 ∨
    x.w0.toNat % 2 ^ pageShift x.cls / 2 ^ 12 ≠ 0) || badFrame cxl half p x

/-- What a translation finds (R416, R417, R469). (DEDUCED, log 22) -/
inductive Tr where
  | ok (x : Xlat)
  | absent
  | malformed
  /-- no map covers the address: PROTECTION with STATUS 0 (R469) -/
  | noMap
deriving DecidableEq, Repr

/-- Fold of R414: the xor of consecutive m-bit fields. -/
def foldBits : Nat → Nat → Nat → Nat
  | 0, _, _ => 0
  | n + 1, m, k => (k % 2 ^ m) ^^^ foldBits n m (k / 2 ^ m)

/-- The pair of buckets that a probe of class c reads (R414): P. -/
def probePair (logb va c : Nat) : Nat :=
  let m := logb - 1
  foldBits 64 m ((va / 2 ^ pageShift c) ^^^ (c * 2 ^ 44))

/-- The eight entries of the pair, with their addresses, that match VA and class (R414, R416). (DEDUCED, log 23) -/
def State.probe (s : State) (p : Partition) (va c : Nat) : Option Xlat :=
  let base := p.tpa + 128 * probePair p.logb va c
  (List.range 8).findSome? fun i =>
    let a := base + 16 * i
    if (Memory.read s.mem a).getLsbD 0 then
      let w0 : Word := BitVec.ofNat 64 (leNat (Memory.readN s.mem a 8))
      if wfld w0 1 2 = c ∧ w0.toNat % 2 ^ 56 / 2 ^ pageShift c = va % 2 ^ 56 / 2 ^ pageShift c then
        some { cls := c, w0 := w0, w1 := BitVec.ofNat 64 (leNat (Memory.readN s.mem (a + 8) 8)), pte := some a }
      else none
    else none

/-- The four probes: the matching entry of the smallest class (R416). (DEDUCED, log 23) -/
def State.walk (s : State) (p : Partition) (va : Nat) : Tr :=
  if !p.ptdValid then .absent
  else match (List.range 4).findSome? (s.probe p va) with
    | some x => if badEntry s.cxl s.boot.minimal p x then .malformed else .ok x
    | none => .absent

/-- The boot map (R469, R464): the execute slot of the boot region, and the scratch in HBM. (DEDUCED, log 33) -/
def State.bootMap (s : State) (va : Nat) : Tr :=
  let page (flags attr pa : Nat) : Tr :=
    .ok { cls := 0, w0 := BitVec.ofNat 64 (flags + va / 4096 * 4096), w1 := BitVec.ofNat 64 (pa / 4096 + attr * 2 ^ 52), pte := none }
  if 0x10000000 ≤ va ∧ va < 0x10000000 + 4096 + s.boot.len then
    page (1 + 8 + 32 + 128) 2 (0x2000000000000 + 0x10000000 + (va - 0x10000000))
  else if 0x20000000 ≤ va ∧ va < 0x20010000 then
    page (1 + 8 + 16 + 128 + 256) (if s.boot.mode then 2 else 0) (va - 0x20000000)
  else .noMap

/-- The boot map translates for the accessor (R469): in boot mode, and afterwards for machine mode outside every partition. (DEDUCED, log 33) -/
def State.usesBootMap (s : State) (w : Who) : Bool :=
  s.boot.mode || (w.priv == .machine && (s.partOf w.cl).isNone)

/-- Translation of a paged VA for an accessor, by the slice's translation cache where it holds the page (R410). (DEDUCED, log 22) -/
def State.translate (s : State) (w : Who) (va : Nat) : Tr :=
  if s.usesBootMap w then s.bootMap va
  else match s.partOf w.cl with
    | none => .noMap
    | some p => s.walk p va

/-- The kinds of access that R418 tells apart. -/
inductive Need where
  | read | write | rmw | fetch
deriving DecidableEq, Repr

/-- What the checks of R418 find. -/
inductive Chk where
  | ok
  | prot (status : Nat)
  | migrating
deriving DecidableEq, Repr

/-- The permission an access needs. -/
def permOk (n : Need) (r w x : Bool) : Bool := match n with
  | .read => r
  | .write => w
  | .rmw => r && w
  | .fetch => x

/-- R418, in its order. The boot map checks its permissions alone (R469). -/
def checkPage (w : Who) (n : Need) (x : Xlat) : Chk :=
  if w.priv == .user && !x.u then .prot 2
  else if !keyOk w x.key then .prot 1
  else if !permOk n x.r x.w x.x then .prot 2
  else if x.mig == 2 || (x.mig == 1 && (n == .write || n == .rmw)) then .migrating
  else .ok

/-- Reasons of a fault-queue entry (R422). -/
def reasonAbsent : Nat := 0
def reasonMigrating : Nat := 1
def reasonMalformed : Nat := 2

end Sys2Proof.Machine
end

