-- ==== Sys2Proof/Machine/Store.lean ====
section
/-! DEFINITION. Sys2Proof/Machine/Store.lean: memory at its home slices and LS banks, writes and reductions on their way there, the L1 banks
and their leases, and the actions of acquire and release (spec/04 R121 to R128; spec/05 R147, R156; spec/10 R354; spec/14 R410 to R412). -/

namespace Sys2Proof.Machine

/-! ### Watched ranges (R353, R354, R359) -/

/-- Adding n to counter i of a list of counters, saturating at 2^32 − 1 (R359). -/
def bumpStat (l : List Nat) (i n : Nat) : List Nat :=
  l.mapIdx fun j v => if j = i then min (v + n) (2 ^ 32 - 1) else v

/-- Removing Sinter entries; INVAL of the teams that own them rises by one for each identity (R354, R359). -/
def State.dropSinter (s : State) (f : SCache → Bool) : State :=
  let gone := s.sinter.filter f
  { s with
    sinter := s.sinter.filter fun e => !f e
    teams := s.teams.map fun t =>
      let n := ((gone.filter fun e => decide (e.cl = t.cl ∧ e.team = some t.num)).map SCache.tile).eraseDups.length
      if n = 0 then t else { t with stats := bumpStat t.stats 4 n } }

/-- The n bytes from a, of VA space (none) or of a cluster's LS, meet a watched range. -/
def rangeHit (ls : Option Nat) (a n : Nat) (r : Option Nat × Nat × Nat) : Bool :=
  decide (r.1 = ls ∧ a < r.2.1 + r.2.2 ∧ r.2.1 < a + n)

/-- A queued command no longer has the programs of a tile's descriptor that it waited for. -/
def MCmd.forget (tiles : List TileId) (m : MCmd) : MCmd :=
  if !m.once.isEmpty && (tiles.any fun t => t.desc == m.ga.toNat % 2 ^ 56) then { m with once := [] } else m

/-- What is registered on the ranges that the test picks, for a cluster, is removed, and a compile that has read one is spoiled (R351, R354). -/
def State.invalidate (s : State) (hit : Nat → Option Nat × Nat × Nat → Bool) : State :=
  let gone := s.sinter.filter fun e => e.ranges.any (hit e.cl)
  let s := if gone.isEmpty then s else s.dropSinter fun e => e.ranges.any (hit e.cl)
  let s := if gone.isEmpty then s else { s with clusters := s.clusters.map fun (k : Cluster) =>
    { k with quads := k.quads.map fun q => { q with
      queue := q.queue.map (MCmd.forget ((gone.filter fun e => decide (e.cl = k.id)).map SCache.tile)) } } }
  { s with compiles := s.compiles.map fun c => if c.ranges.any (hit c.cl) then { c with spoiled := true } else c }

/-- A range is written while `mx.spmm` commands are on their way in the clusters that the test picks: each keeps it (R354). -/
def State.noteRace (s : State) (f : Nat → Bool) (r : Option Nat × Nat × Nat) : State :=
  if s.clusters.any fun k => f k.id && k.quads.any fun q => q.queue.any fun m => m.op == 7 && !m.written.contains r then
    { s with clusters := s.clusters.map fun (k : Cluster) => if f k.id then { k with quads := k.quads.map fun q => { q with
        queue := q.queue.map fun m => if m.op = 7 ∧ m.written.contains r = false then { m with written := m.written ++ [r] } else m } } else k }
  else s

/-- The contents of n bytes of a cluster's LS have changed: nothing that was registered on them is kept (R354). -/
def State.lsChanged (s : State) (cl a n : Nat) : State := s.invalidate fun _ => rangeHit (some cl) a n

/-- A write to the LS of a cluster (R354). (DEDUCED, log 40) -/
def State.watchWrite (s : State) (cl a n : Nat) : State := (s.lsChanged cl a n).noteRace (fun _ => true) (some cl, a, n)

/-- The PA of a VA in the address space of a cluster's partition, as the table has it now. -/
def State.paNow (s : State) (cl va : Nat) : Option Nat := match s.partOf cl with
  | none => none
  | some p => match s.walk p va with
    | .ok x => some (x.pa va)
    | .absent => none
    | .malformed => none
    | .noMap => none

/-- The n bytes from a PA on can hold a byte of m bytes of one granule, whose VA is given: VA and PA agree in their low eight bits (R408, R409). -/
def mayMeet (pa n va m : Nat) : Bool :=
  (List.range ((pa + n - 1) / 256 - pa / 256 + 1)).any fun j =>
    decide (256 * (pa / 256 + j) + va % 256 < pa + n ∧ pa < 256 * (pa / 256 + j) + va % 256 + m)

/-- A watched range of paged memory, of a cluster's address space, has a byte among the n bytes from a PA on. It is followed granule by granule: the
bytes of an aligned 256-byte granule are adjacent in PA too (R409). (DEDUCED, log 40) -/
def State.paHit (s : State) (pa n cl : Nat) (r : Option Nat × Nat × Nat) : Bool :=
  r.1.isNone && (List.range (if r.2.2 = 0 then 0 else (r.2.1 + r.2.2 - 1) / 256 - r.2.1 / 256 + 1)).any fun i =>
    let lo := max r.2.1 (256 * (r.2.1 / 256 + i))
    let hi := min (r.2.1 + r.2.2) (256 * (r.2.1 / 256 + i + 1))
    mayMeet pa n lo (hi - lo) && match s.paNow cl lo with
      | some q => decide (q < pa + n ∧ pa < q + (hi - lo))
      | none => false

/-- A write to physical memory by an agent that names no VA: a peer, the host, the machine's own engines (R354). (DEDUCED, log 40) -/
def State.watchPa (s : State) (pa n : Nat) : State := s.invalidate (s.paHit pa n)

/-- A write to paged memory: it meets a range of the writer's address space by VA, and a range of any address space by PA (R354). (DEDUCED, log 40) -/
def State.watchMem (s : State) (agent : Option CtxId) (va pa n : Nat) : State :=
  let home := agent.bind fun a => (s.partOf a.cl).map Partition.num
  (s.invalidate fun cl r =>
    (home.isSome && decide (home = (s.partOf cl).map Partition.num) && rangeHit none va n r) || s.paHit pa n cl r).noteRace
    (fun cl => home.isSome && decide (home = (s.partOf cl).map Partition.num)) (none, va, n)

/-! ### Home slices (R124, R127) -/

/-- Logical cluster whose slice is the home of an address (R127). -/
def State.homeSlice (s : State) (va : Nat) : Nat :=
  ((fld va 8 24 ^^^ fld va 32 24) * s.nClusters) / 2 ^ 24

/-- Timestamps of a line, by PA[51:6], at its home slice: wts, rts (R124). (DEDUCED, log 25) -/
def State.lineTs (s : State) (line : Nat) : Nat × Nat :=
  ((s.home.find? fun h => decide (h.line = line)).map fun h => (h.wts, h.rts)).getD (0, 0)

/-- (DEDUCED, log 25) -/
def State.modHome (s : State) (line : Nat) (f : HomeLine → HomeLine) : State :=
  if s.home.any fun h => decide (h.line = line) then { s with home := s.home.map fun h => if h.line = line then f h else h }
  else { s with home := s.home ++ [f { line := line, wts := 0, rts := 0 }] }

/-- (DEDUCED, log 25) -/
def State.setTs (s : State) (line wts rts : Nat) : State := s.modHome line fun h => { h with wts := wts, rts := rts }

/-- The bank of a pipe is one that the agent uses: a pipe of its group, or its own. -/
def State.ownsPipe (s : State) (agent : CtxId) (cl pipe : Nat) : Bool :=
  decide (agent.cl = cl) && match s.groupOf agent with
    | some g => decide (g.base ≤ pipe ∧ pipe < g.base + g.width)
    | none => decide (agent.pipe = pipe)

/-- The write has left a bank of the agent: it may be the agent's own. -/
def State.sameBank (s : State) (agent : CtxId) (w : PWrite) : Bool := s.ownsPipe agent w.agent.cl w.pipe

/-! ### Release sequences (R137 to R139, R143, R144) -/

/-- An agent lies in the scope of an operation that a group issues (R137). -/
def scopeHas (sc : Scope) (issuer a : CtxId) : Bool := match sc with
  | .grp => issuer == a
  | .clu => issuer.cl == a.cl
  | .dev => true
  | .sys => true

/-- The narrower of two scopes. -/
def minScope : Scope → Scope → Scope
  | .grp, _ => .grp
  | _, .grp => .grp
  | .clu, _ => .clu
  | _, .clu => .clu
  | .dev, _ => .dev
  | .sys, b => b

/-- The sequence has one of n bytes from lo on. -/
def Rel.meets (r : Rel) (lo n : Nat) : Bool := decide (r.lo < lo + n ∧ lo < r.lo + r.n)

/-- A sequence after a write of the group w to its bytes; none where the write breaks it (R143). -/
def Rel.after (r : Rel) (w : CtxId) (k : WKind) : Option Rel :=
  if r.owner = w then some { r with hidden := false }
  else match k.sc with
    | some sc =>
      if k.rmw && !scopeHas sc w r.owner then some { r with hidden := true }
      else if k.rmw && scopeHas r.sc r.owner w then some { r with hidden := false }
      else none
    | none => none

/-- The sequences that a strong write heads: those of its group's releases before it, where the scopes of both reach (R144). -/
def newRels (lo n : Nat) (w : CtxId) (k : WKind) : List Rel := match k.sc with
  | none => []
  | some sc => ([(minScope sc .clu, k.relC), (minScope sc .dev, k.relD)].filter fun x => x.1 != .grp && decide (0 < x.2)).map fun x =>
      { lo := lo, n := n, owner := w, sc := x.1, ts := x.2 }

/-- The sequences of a line or a local store after a write of the group w to n bytes from lo on. -/
def relsWrite (l : List Rel) (lo n : Nat) (w : CtxId) (k : WKind) : List Rel :=
  let new := newRels lo n w k
  (l.filterMap fun r => if r.meets lo n then r.after w k else some r).filter (fun r => !(new.any fun x => { x with ts := r.ts } == r)) ++ new

/-- The greatest timestamp of the sequences that a strong read of n bytes by an agent, at a scope, belongs to and that the test picks (R139, R144). -/
def relsRead (l : List Rel) (lo n : Nat) (a : CtxId) (sc : Scope) (f : CtxId → Bool) : Nat :=
  ((l.filter fun r => r.meets lo n && !r.hidden && scopeHas r.sc r.owner a && scopeHas sc a r.owner && f r.owner).map Rel.ts).foldl max 0

/-- The sequences of a line of a bank whose bytes a mask has. -/
def relsIn (l : List Rel) (m : BitVec 64) : List Rel := l.filter fun r => BitVec.ofNat 64 ((2 ^ r.n - 1) * 2 ^ r.lo) &&& m != 0

def relsOut (l : List Rel) (m : BitVec 64) : List Rel := l.filter fun r => BitVec.ofNat 64 ((2 ^ r.n - 1) * 2 ^ r.lo) &&& m == 0

/-- The sequences of a line at its home (R143). -/
def State.homeRels (s : State) (line : Nat) : List Rel := ((s.home.find? fun h => decide (h.line = line)).map HomeLine.rels).getD []

/-- The group has read something written at a timestamp (R124). -/
def State.hasRead (s : State) (agent : CtxId) (wts : Nat) : State :=
  s.modCtx (s.leader agent) fun c => { c with mts := max c.mts wts }

/-- A strong read of n bytes at a scope: what it takes from the release sequences there (R139, R143, R144). -/
def State.takeRels (s : State) (agent : CtxId) (sc : Scope) (l : List Rel) (lo n : Nat) : State :=
  let a := s.leader agent
  let near := relsRead l lo n a sc fun o => o.cl == a.cl
  let far := relsRead l lo n a sc fun o => o.cl != a.cl
  if near = 0 ∧ far = 0 then s
  else s.modCtx a fun c => { c with
    mts := max c.mts (max near far), vis := { c.vis with obsC := max c.vis.obsC near, obsD := max c.vis.obsD far } }

/-- What a write of the agent is to release sequences: of a strong one the scope, and whether it is a read-modify-write (R138). -/
def State.wkind (s : State) (agent : CtxId) (sc : Option Scope) (rmw : Bool) : WKind :=
  let v := (s.ctx (s.leader agent)).vis
  { sc := sc, rmw := rmw, relC := v.relC, relD := v.relD }

/-- A read at the home slice: the lease it grants and the writes it has observed (R124). Answers wts and the lease end. (DEDUCED, log 25) -/
def State.renew (s : State) (agent : CtxId) (pa : Nat) : (Nat × Nat) × State :=
  let (wts, rts) := s.lineTs (pa / 64)
  let lease := (s.ctx (s.leader agent)).pts + 64
  let s := s.setTs (pa / 64) wts (max rts lease)
  ((wts, lease), s.hasRead agent wts)

/-- The timestamps and the release sequences of a line after a write performed at its home slice (R124, R143); of a writer that is no group, none of its own.
The bytes may be those of any context of the bank that they left: each of them has observed the write. The writer's pts is that of the context that its slot
holds now. `rels` gives the sequences of the line's bytes after the write. (DEDUCED, log 25; DESIGN CHOICE, log 132) -/
def State.stampWrite (s : State) (agent : Option CtxId) (pipe : Nat) (pa : Nat) (rels : List Rel → List Rel) : State :=
  let line := pa / 64
  match agent with
  | none =>
    let ts := (s.lineTs line).2 + 1
    s.modHome line fun h => { h with wts := ts, rts := ts, rels := rels h.rels }
  | some a =>
    let ts := max (s.ctx (s.leader a)).pts ((s.lineTs line).2 + 1)
    let s := s.modHome line fun h => { h with wts := ts, rts := ts, rels := rels h.rels }
    { s with ctxs := s.ctxs.map fun (c : Ctx) => if s.ownsPipe c.id a.cl pipe then { c with mts := max c.mts ts } else c }

/-! ### Pages that are mapped twice (R107) -/

/-- A page, writable or not, reaches a line of physical memory through a VA of a partition. (DEDUCED, log 133) -/
def State.noteVia (s : State) (part va pa : Nat) (w : Bool) : State :=
  if s.home.any fun h => decide (h.line = pa / 64) && h.via.contains (part, va / 64, w) then s
  else s.modHome (pa / 64) fun h => { h with via := h.via ++ [(part, va / 64, w)] }

/-- The same for an access of an agent. -/
def State.noteAgent (s : State) (agent : Option CtxId) (va pa : Nat) (w : Bool) : State := match agent.bind fun a => s.partOf a.cl with
  | some p => s.noteVia p.num va pa w
  | none => s

/-- The line is reached through two VAs of the partition, this one among them, of which one is writable: its loads return unpredictable bytes (R107). (DEDUCED, log 133) -/
def State.aliased (s : State) (part va pa : Nat) : Bool :=
  s.home.any fun h => decide (h.line = pa / 64) && (h.via.any fun v => decide (v.1 = part ∧ v.2.1 ≠ va / 64)) &&
    h.via.any fun v => decide (v.1 = part) && v.2.2

/-- Forgetting the VAs of a partition that the test picks, by VA[55:6]: their translations are removed (R402). -/
def State.forgetVia (s : State) (part : Nat) (f : Nat → Bool) : State :=
  { s with home := s.home.map fun (h : HomeLine) => { h with via := h.via.filter fun v => !(decide (v.1 = part) && f v.2.1) } }

/-! ### Bytes at their places -/

/-- Place i bytes further on. -/
def Place.add (p : Place) (i : Nat) : Place := match p with
  | .mem va pa => .mem (va + i) (pa + i)
  | .ls cl off => .ls cl (off + i)

/-- The n bytes at a place, as the home slice or the LS bank holds them. -/
def State.placeRead (s : State) (p : Place) (n : Nat) : List Byte := match p with
  | .mem _ pa => Memory.readN s.mem pa n
  | .ls cl off => Memory.readN s.ls (lsKey cl off) n

/-- The bytes of the data whose mask bit is set replace those before. -/
def maskBytes (old data : List Byte) (mask : BitVec 64) : List Byte :=
  old.mapIdx fun i b => if mask.getLsbD i then (data[i]?).getD b else b

/-- The release sequences of a cluster's local store after a write. (DEDUCED, log 134) -/
def State.lsWrite (s : State) (cl off n : Nat) (agent : Option CtxId) (k : WKind) : State :=
  let l := (s.cluster cl).lsRels
  let new := match agent with
    | some a => relsWrite l off n (s.leader a) k
    | none => l.filter fun r => !r.meets off n
  if new = l then s else s.modCluster cl fun c => { c with lsRels := new }

/-- Performing a write of whole bytes, of a kind, that leaves a bank, at its home slice or LS bank (R124, R140, R354). (DESIGN CHOICE, log 24) -/
def State.placeWriteAs (s : State) (agent : Option CtxId) (pipe : Nat) (k : WKind) (p : Place) (data : List Byte) : State := match p with
  | .mem va pa =>
    let rels := fun (l : List Rel) => match agent with
      | some a => relsWrite l (pa % 64) data.length (s.leader a) k
      | none => l.filter fun r => !r.meets (pa % 64) data.length
    let s := (s.stampWrite agent pipe pa rels).noteAgent agent va pa true
    { s.watchMem agent va pa data.length with mem := Memory.writeN s.mem pa data }
  | .ls cl off => (({ s with ls := Memory.writeN s.ls (lsKey cl off) data }).lsWrite cl off data.length agent k).watchWrite cl off data.length

/-- Performing a weak write of whole bytes by an agent, an engine or the system (R124, R140): the group of an engine sees it with its next acquire (R153,
R154). -/
def State.placeWrite (s : State) (agent : Option CtxId) (p : Place) (data : List Byte) : State :=
  match agent, p with
  | some a, .mem _ pa =>
    let s := s.placeWriteAs agent a.pipe {} p data
    let ts := (s.lineTs (pa / 64)).1
    s.modCtx (s.leader a) fun c => { c with mts := max c.mts ts, vis := { c.vis with own := max c.vis.own ts } }
  | some a, .ls _ _ => s.placeWriteAs agent a.pipe {} p data
  | none, _ => s.placeWriteAs none 0 {} p data

/-- Two places of n and m bytes share a byte. -/
def placesMeet (p : Place) (n : Nat) (q : Place) (m : Nat) : Bool := match p, q with
  | .mem va _, .mem vb _ => decide (va < vb + m ∧ vb < va + n)
  | .ls c o, .ls d q => decide (c = d ∧ o < q + m ∧ q < o + n)
  | .mem _ _, .ls _ _ => false
  | .ls _ _, .mem _ _ => false

/-! ### Read-modify-writes (R210 to R213) -/

/-- The new memory value, none where a compare fails (R211); n is 4 or 8. -/
def rmwNew (op : RmwOp) (n : Nat) (m b cmp : Nat) : Option Nat :=
  let w := 8 * n
  let fmt : FFmt := if n = 4 then .f32 else .f64
  let b := b % 2 ^ w
  match op with
  | .add => some ((m + b) % 2 ^ w)
  | .and => some (m &&& b)
  | .or => some (m ||| b)
  | .xor => some (m ^^^ b)
  | .min => some (if signedOf w m ≤ signedOf w b then m else b)
  | .max => some (if signedOf w m ≤ signedOf w b then b else m)
  | .minn => some (if m ≤ b then m else b)
  | .maxn => some (if m ≤ b then b else m)
  | .swp => some b
  | .cas => if m = cmp % 2 ^ w then some b else none
  | .fadd => some (roundTo fmt .rne false (Ex.add .rne (decodeFloat fmt m) (decodeFloat fmt b)))
  | .fmin => some (roundTo fmt .rne false (Ex.minNum (decodeFloat fmt m) (decodeFloat fmt b)))
  | .fmax => some (roundTo fmt .rne false (Ex.maxNum (decodeFloat fmt m) (decodeFloat fmt b)))

/-- The old value as gD receives it (R210): sign-extended from 32 bits, zero-extended for fadd. -/
def rmwOld (op : RmwOp) (n m : Nat) : Word :=
  if n = 4 && op != .fadd then BitVec.ofInt 64 (signedOf 32 m) else BitVec.ofNat 64 m

/-- The pipe whose bank holds a line for the agent (R18). -/
def State.bankPipe (s : State) (agent : CtxId) (line : Nat) : Nat := match s.groupOf agent with
  | some g => g.base + line % g.width
  | none => agent.pipe

/-- The bank that a write of the agent to a place leaves. -/
def State.bankOf (s : State) (agent : CtxId) (p : Place) : Nat := match p with
  | .mem va _ => s.bankPipe agent (va / 64)
  | .ls _ _ => agent.pipe

/-- A read-modify-write performed at its place: its old value (R128). -/
def State.placeRmw (s : State) (agent : CtxId) (k : WKind) (p : Place) (op : RmwOp) (n b cmp : Nat) : Nat × State :=
  let m := leNat (s.placeRead p n)
  match rmwNew op n m b cmp with
  | some v => (m, s.placeWriteAs (some agent) (s.bankOf agent p) k p (leBytes n v))
  | none => (m, s)

/-- A loaded value extended (R208). -/
def extend (n : Nat) (sext : Bool) (v : Nat) : Word :=
  if sext then BitVec.ofInt 64 (signedOf (8 * n) v) else BitVec.ofNat 64 v

/-! ### Writes, reductions and late loads of a group that are on their way (R147, R156, R142) -/

/-- The peer whose memory a PA names is lost (R459): requests to it fail at once. -/
def State.lostPeer (s : State) (pa : Nat) : Bool := decide (pa / 2 ^ 48 = 3) && s.lost.contains (fld pa 40 8)

/-- The port that a request to a PA travels on: the lowest live port of its peer's mask (R457). -/
def State.portTo (s : State) (pa : Nat) : Option Nat :=
  if pa / 2 ^ 48 = 3 then s.peerPort (fld pa 40 8) else none

/-- A place in the memory of a lost peer: what is on its way there is not performed; it fails when its event comes (R458). -/
def State.placeLost (s : State) : Place → Bool
  | .mem _ pa => s.lostPeer pa
  | .ls _ _ => false

/-- The release sequences of a line after a write of the masked bytes of a bank's line: a sequence of the writer's own goes on, and those that the bank has
seen begin or go on stand there too (R143). -/
def relsBack (old : List Rel) (w : CtxId) (mask : BitVec 64) (bank : List Rel) : List Rel :=
  let kept := relsOut old mask ++ (relsIn old mask).filter fun r => r.owner == w
  kept.filter (fun r => !bank.contains r) ++ bank

/-- Performing one write on its way: that of a line of a bank, or that of one instruction. -/
def State.performWrite (s : State) (w : PWrite) : State := match w.place with
  | .mem va pa =>
    let data := maskBytes (s.placeRead w.place w.data.length) w.data w.mask
    let lead := s.leader w.agent
    let s := (s.stampWrite (some w.agent) w.pipe pa fun l =>
      if pa % 64 = 0 ∧ w.data.length = 64 then relsBack l lead w.mask w.rels else relsWrite l (pa % 64) w.data.length lead w.kind).noteAgent
        (some w.agent) va pa true
    { s.watchMem (some w.agent) va pa data.length with mem := Memory.writeN s.mem pa data }
  | .ls _ _ => s.placeWriteAs (some w.agent) w.pipe w.kind w.place (maskBytes (s.placeRead w.place w.data.length) w.data w.mask)

/-- Performing, in their order, the writes on their way that meet the bytes: what a group's own later access needs (R126, R142). -/
def State.drainWrites (s : State) (f : PWrite → Bool) : State :=
  let g := fun (w : PWrite) => f w && !s.placeLost w.place && !w.mute
  let s' := (s.writes.filter g).foldl State.performWrite s
  { s' with writes := s.writes.filter fun w => !g w }

/-- Applying one reduction (R156, R212). -/
def State.applyRed (s : State) (r : PRed) : State := (s.placeRmw r.agent r.kind r.place r.op r.n r.val.toNat 0).2

def State.drainReds (s : State) (f : PRed → Bool) : State :=
  let g := fun (r : PRed) => f r && !s.placeLost r.place
  let s' := (s.reds.filter g).foldl State.applyRed s
  { s' with reds := s.reds.filter fun r => !g r }

/-- The reductions of a list, shuffled, with those that have an order of their own put back into it (R156). -/
def inTurn : List PRed → List PRed → List PRed
  | [], _ => []
  | r :: l, ks => if r.loose then r :: inTurn l ks else match ks with
    | [] => inTurn l []
    | k :: ks => k :: inTurn l ks

/-- A list in an order that nothing fixes. -/
def State.shuffle {α : Type} (s : State) : List α → List α × State
  | [] => ([], s)
  | [a] => ([a], s)
  | a :: b :: r =>
    let (f, s) := s.freshFree
    let (l, s) := s.shuffle (b :: r)
    let k := f.toNat % (l.length + 1)
    (l.take k ++ a :: l.drop k, s)

/-- The reductions of an agent are applied: its own in their order, those of its scatters in one that nothing fixes (R156, R269). -/
def State.applyReds (s : State) (agent : CtxId) : State :=
  let mine := s.reds.filter fun r => decide (r.agent = agent)
  let (l, s) := s.shuffle mine
  let s := (inTurn l (mine.filter fun r => !r.loose)).foldl State.applyRed s
  { s with reds := s.reds.filter fun r => !decide (r.agent = agent) }

def State.findLine (s : State) (agent : CtxId) (line : Nat) : Option L1Line :=
  s.l1.find? fun l => decide (l.cl = agent.cl ∧ l.pipe = s.bankPipe agent line ∧ l.line = line)

/-- Mask of n bytes from byte i on. -/
def byteMask (i n : Nat) : BitVec 64 := BitVec.ofNat 64 ((2 ^ n - 1) * 2 ^ i)

/-- Bytes i to i + n − 1 of a line are all in a mask. -/
def maskHas (m : BitVec 64) (i n : Nat) : Bool := decide (byteMask i n &&& m = byteMask i n)

/-- Value of n bytes of a line. -/
def lineVal (l : L1Line) (va n : Nat) : Nat := leNat ((l.data.drop (va % 64)).take n)

/-- The group has read a line of its bank (R124). -/
def State.sawLine (s : State) (agent : CtxId) (l : L1Line) : State := s.hasRead agent l.wts

/-- The line of its group's bank that a late load finds its bytes in. -/
def State.lateLine (s : State) (l : Late) : Option L1Line := match l.place with
  | .mem va _ => match s.findLine l.agent (va / 64) with
    | some x => if maskHas x.valid (va % 64) l.n then some x else none
    | none => none
  | .ls _ _ => none

/-- The value that a late load reads now: in its group's bank, where another load has put the line since it issued, or at its place (R142). (DEDUCED, log 11) -/
def State.readLate (s : State) (l : Late) : Word := extend l.n l.sext (match s.lateLine l, l.place with
  | some x, .mem va _ => lineVal x va l.n
  | _, p => leNat (s.placeRead p l.n))

/-- A late load has read its bytes: its group has observed their writes (R124). -/
def State.lateSeen (s : State) (l : Late) : State := match l.place with
  | .mem _ pa => match s.lateLine l with
    | some x => s.sawLine l.agent x
    | none => s.hasRead l.agent (s.lineTs (pa / 64)).1
  | .ls _ _ => s

/-- The late loads that the test picks read their bytes now. -/
def State.settleLate (s : State) (f : Late → Bool) : State :=
  let now := (s.longs.filterMap Long.late).filter f
  let s := { s with longs := s.longs.map fun l => match l.late with
      | some t => if f t then { l with val := s.readLate t, late := none } else l
      | none => l }
  now.foldl State.lateSeen s

/-- What an access of the agent to n bytes of a place needs first: its own earlier writes, reductions and loads there (R142, R156). (DEDUCED, log 35) -/
def State.orderOwn (s : State) (agent : CtxId) (p : Place) (n : Nat) : State :=
  let s := s.settleLate fun t => decide (t.agent = agent) && placesMeet t.place t.n p n
  let s := s.drainWrites fun w => s.sameBank agent w && placesMeet w.place w.data.length p n
  s.drainReds fun r => decide (r.agent = agent) && placesMeet r.place r.n p n

/-! ### Answers of `cl.abort` from another package (R318) -/

/-- The status of an instance that is decided. -/
def State.decidedAs (s : State) (part slot : Nat) (gen : BitVec 16) (inst : Nat) : Option (Nat × Nat × Nat) :=
  (s.decided.find? fun d => decide (d.part = part ∧ d.cslot = slot ∧ d.gen = gen ∧ d.inst = inst)).map fun d => (d.status, d.code, d.rank)

/-- The coordinator's answer to a `cl.abort` has come: the instance is decided, or the member's command on it has its status. -/
def State.abortKnown (s : State) (a : AbortAsk) : Bool := (s.decidedAs a.part a.slot a.gen a.inst).isSome ||
  !(s.colls.any fun c => decide (c.part = a.part ∧ c.cslot = a.slot ∧ c.gen = a.gen ∧ c.inst = a.inst ∧ c.rank = a.rank) && c.verdict.isNone)

/-- What `cl.abort` answers then: 0 where the abort is what the coordinator recorded, 2 where something came before it (R318). -/
def State.abortAnswer (s : State) (a : AbortAsk) : Word :=
  if s.decidedAs a.part a.slot a.gen a.inst = some (1, a.code, a.rank) then 0 else 2

/-- A long result whose value is not known yet does not return. -/
def State.mayReturn (s : State) (l : Long) : Bool := match l.abort with
  | some a => s.abortKnown a
  | none => true

/-! ### L1 data banks (R18, R121 to R125) -/

/-- The line's key in a list of lines. -/
def sameLine (a b : L1Line) : Bool := decide (a.cl = b.cl ∧ a.pipe = b.pipe ∧ a.line = b.line)

/-- Putting a line into its bank, in place of the one held for the same address. -/
def State.putLine (s : State) (l : L1Line) : State := { s with l1 := s.l1.filter (fun x => !sameLine x l) ++ [l] }

def State.dropLine (s : State) (l : L1Line) : State := { s with l1 := s.l1.filter fun x => !sameLine x l }

/-- Writing a line's dirty bytes back: a write on its way to the home slice, of the group whose bytes they are; the line stays, clean (R123). -/
def State.writeBack (s : State) (l : L1Line) : State :=
  if l.dirty = 0 then s
  else
    let s := s.putLine { l with dirty := 0 }
    { s with
      poison := if l.bad then markLine s.poison l.pa else s.poison
      writes := s.writes ++ [({
        agent := l.owner, pipe := l.pipe, place := .mem (l.line * 64) l.pa, data := l.data, mask := l.dirty, since := s.gtime
        port := s.portTo l.pa, rels := relsIn l.rels l.dirty } : PWrite)] }

/-- Writing back and dropping the lines that the test picks. -/
def State.flushLines (s : State) (keep : Bool) (f : L1Line → Bool) : State :=
  let s := (s.l1.filter f).foldl State.writeBack s
  if keep then s else { s with l1 := s.l1.filter fun l => !f l }

/-- The set of a line in its bank. -/
def lineSet (line : Nat) : Nat := (line + line / 16) % 128

/-- A fifth line of a set needs room: the line of the set that was put there first is written back and dropped (R18, R123). A bank of 32 KiB with four ways
has 128 sets. (DESIGN CHOICE, log 31) -/
def State.makeRoom (s : State) (agent : CtxId) (line : Nat) : State :=
  let set := s.l1.filter fun l => decide (l.cl = agent.cl ∧ l.pipe = s.bankPipe agent line ∧ lineSet l.line = lineSet line)
  match set with
  | l :: _ => if set.length < 4 then s else (s.writeBack l).dropLine l
  | [] => s

/-- The lines of the agent's banks. -/
def State.bankLine (s : State) (agent : CtxId) (l : L1Line) : Bool := s.ownsPipe agent l.cl l.pipe

/-- The writes and the reductions of the agent's bank to a line are performed, before the bank is given the line's bytes (R142). -/
def State.orderLine (s : State) (agent : CtxId) (va pa : Nat) : State :=
  let s := s.drainWrites fun w => s.sameBank agent w && placesMeet w.place w.data.length (.mem va pa) 64
  s.drainReds fun r => s.ownsPipe agent r.agent.cl r.agent.pipe && placesMeet r.place r.n (.mem va pa) 64

/-- The permissions that a line copies (R411). A page that is being copied admits no store: its W is not copied, so a store goes to the home slice, which
finds the page migrating (R426). -/
def permBits (x : Xlat) : BitVec 4 :=
  BitVec.ofNat 4 ((if x.r then 1 else 0) + (if x.w && x.mig == 0 then 2 else 0) + (if x.x then 4 else 0) + (if x.u then 8 else 0))

/-- The instruction lines of the agent's banks. -/
def State.bankILine (s : State) (agent : CtxId) (l : ILine) : Bool := s.ownsPipe agent l.cl l.pipe

/-- A line of the page filled from the home slice, under the dirty bytes of the line that the bank holds (R122, R124). -/
def State.fillLine (s : State) (agent : CtxId) (va : Nat) (x : Xlat) : L1Line × State :=
  let line := va / 64
  let pa := x.pa (line * 64)
  let s := s.orderLine agent (line * 64) pa
  let ((wts, lease), s) := s.renew agent pa
  let fresh := Memory.readN s.mem pa 64
  let s := if (s.findLine agent line).isNone then s.makeRoom agent line else s
  let old := s.findLine agent line
  let dirty := (old.map L1Line.dirty).getD 0
  let l : L1Line := {
    cl := agent.cl, pipe := s.bankPipe agent line, line := line
    data := maskBytes fresh ((old.map L1Line.data).getD []) dirty
    valid := BitVec.allOnes 64, dirty := dirty, wts := wts, lease := lease, key := x.key
    perm := permBits x, dset := x.d, far := x.far, pa := pa, bad := (old.map L1Line.bad).getD false && dirty != 0
    owner := (old.map L1Line.owner).getD (s.leader agent), since := (old.map L1Line.since).getD 0
    rels := relsOut (s.homeRels (pa / 64)) dirty ++ relsIn ((old.map L1Line.rels).getD []) dirty
    tick := (s.cluster agent.cl).ticks }
  (l, s.putLine l)

/-- Writing bytes into a line and marking them dirty (R122, R123, R143). -/
def storeLine (l : L1Line) (agent : CtxId) (k : WKind) (cycle : Nat) (i : Nat) (data : List Byte) : L1Line :=
  let m := byteMask i data.length
  { l with
    data := l.data.mapIdx fun j b => if i ≤ j then (data[j - i]?).getD b else b
    valid := l.valid ||| m, dirty := l.dirty ||| m
    owner := if l.dirty = 0 then agent else l.owner
    since := if l.dirty = 0 then cycle else l.since
    rels := relsWrite l.rels i data.length agent k }

/-- R418 on the copy of KEY and permissions that a line carries (R411). -/
def checkLine (w : Who) (n : Need) (l : L1Line) : Chk :=
  if w.priv == .user && !l.perm.getLsbD 3 then .prot 2
  else if !keyOk w l.key then .prot 1
  else if !permOk n (l.perm.getLsbD 0) (l.perm.getLsbD 1) (l.perm.getLsbD 2) then .prot 2
  else .ok

/-! ### Acquire and release (R124, R147, R412) -/

/-- What an acquire at a scope makes the group's loads see (R144, R147). -/
def Vis.acquired (v : Vis) (sc : Scope) : Vis :=
  let h := max v.hb v.own
  { v with hb := match sc with
    | .grp => h
    | .clu => max h v.obsC
    | .dev => max h (max v.obsC v.obsD)
    | .sys => max h (max v.obsC v.obsD) }

/-- pts := Max(pts, mts) of the agent's group, for an acquire at a scope (R124). -/
def State.raisePts (s : State) (agent : CtxId) (sc : Scope) : State :=
  s.modCtx (s.leader agent) fun c => { c with pts := max c.pts c.mts, vis := c.vis.acquired sc }

/-- pts at a release (R124): what the group writes from now on carries it. -/
def State.releasePts (s : State) (agent : CtxId) (sc : Scope) : State :=
  s.modCtx (s.leader agent) fun c =>
    let p := max c.pts c.mts
    { c with pts := p, vis := { c.vis with relC := p, relD := if sc = .clu then c.vis.relD else p } }

/-- An acquire at a scope: at CLU, DEV and SYS it raises pts; at SYS it also drops the lines of frames outside region 0x0 (R412). Every
earlier load of the agent has its bytes (R147). -/
def State.acquire (s : State) (agent : CtxId) (sc : Scope) : State :=
  let s := s.settleLate fun t => decide (t.agent = agent)
  match sc with
  | .grp => s
  | .clu => s.raisePts agent .clu
  | .dev => s.raisePts agent .dev
  | .sys =>
    let s := (s.raisePts agent .sys).flushLines false fun l => s.bankLine agent l && l.far
    { s with l1i := s.l1i.filter fun l => !(s.bankILine agent l && l.x.far) }

/-- A GRP-scope acquire that R124 lists (`wait.cnt`, tag waits, `fence.acq` and the like): it raises pts too. -/
def State.acquireLocal (s : State) (agent : CtxId) : State :=
  (s.settleLate fun t => decide (t.agent = agent)).raisePts agent .grp

/-- A reducing `v.sct` or `sc.scat` of the group has not retired: reductions of it are still to be applied (R156, R268, R307). -/
def State.scattering (s : State) (agent : CtxId) : Bool :=
  let mine := fun (b : Behalf) => decide (b.ctx = s.leader agent)
  (s.clusters.any fun k => decide (k.id = agent.cl) && k.vq.any fun v => mine v.by_ && decide (v.op = 0x1B ∧ wfld v.gb 40 3 ≠ 0)) ||
    s.copies.any fun c => mine c.by_ && decide (c.kind = 3 ∧ c.sub ≠ 0)

/-- The group has writes or reductions that are not performed (R147, R156). (DEDUCED, log 26) -/
def State.unperformed (s : State) (agent : CtxId) : Bool :=
  s.writes.any (fun w => s.sameBank agent w) || s.reds.any (fun r => decide (r.agent = s.leader agent ∨ r.agent = agent)) ||
    s.scattering agent

/-- The first part of a release at CLU, DEV or SYS scope: earlier loads have their bytes, dirty lines are written back (R123). (DEDUCED, log 26) -/
def State.releaseStart (s : State) (agent : CtxId) : State :=
  let s := s.settleLate fun t => decide (t.agent = agent)
  s.flushLines true (s.bankLine agent)

/-- A release at a scope, before its own write: the state after its actions, and whether it is done; where it is not, the agent waits until
the earlier writes and reductions are performed and the instruction issues again (R147). (DEDUCED, log 26) -/
def State.release (s : State) (agent : CtxId) (sc : Scope) : Bool × State :=
  if sc = .grp then (true, s.settleLate fun t => decide (t.agent = agent))
  else
    let s := s.releaseStart agent
    if s.unperformed agent then (false, s) else (true, s.releasePts agent sc)

/-- The timestamp that a release of the agent's group carries to whoever observes it (R124, R155). -/
def State.relTs (s : State) (agent : CtxId) : Nat :=
  let c := s.ctx (s.leader agent)
  max c.pts c.mts

/-- Observing a release that carries a timestamp: the group's next acquire raises pts to it (R124). -/
def State.observe (s : State) (agent : CtxId) (ts : Nat) : State :=
  s.modCtx (s.leader agent) fun c => { c with mts := max c.mts ts, vis := { c.vis with own := max c.vis.own ts } }

/-- The scope field (R137). -/
def scopeOf (n : Nat) : Scope := match n % 4 with
  | 0 => .grp
  | 1 => .clu
  | 2 => .dev
  | _ => .sys

/-- The order field (R138). -/
def orderOf (n : Nat) : Order := match n with
  | 0 => .rlx
  | 1 => .acq
  | 2 => .rel
  | 3 => .acqrel
  | _ => .sc

def orderAcquires (o : Order) : Bool := o == .acq || o == .acqrel || o == .sc
def orderReleases (o : Order) : Bool := o == .rel || o == .acqrel || o == .sc

/-- Everything that an engine of the group must observe is at its home: dirty lines, writes and reductions (R152, R345). (DEDUCED, log 35; DEDUCED, log 36) -/
def State.drainGroup (s : State) (agent : CtxId) : State :=
  let s := s.releaseStart agent
  let s := s.drainWrites fun w => s.sameBank agent w
  s.drainReds fun r => decide (r.agent = s.leader agent ∨ r.agent = agent)

end Sys2Proof.Machine
end

