-- ==== Sys2Proof/Machine/Units.lean ====
section
/-! DEFINITION. Sys2Proof/Machine/Units.lean: barriers, stage rings, arrival tags, upcall tokens, the event queue and the completion queue
(spec/02 R54, R55, R69; spec/05 R154; spec/07 R222, R224; spec/16 R453, R455). -/

namespace Sys2Proof.Machine

/-! ### Barriers (R222, R390) -/

/-- The 16-bit phase count (R222). -/
def Barrier.phase (b : Barrier) : BitVec 16 := BitVec.ofNat 16 b.total

/-- Completing phases while the arrivals reach the expected count; `carry` is the count that the carried-over arrival gives. -/
def barrierRun : Nat → Nat → Barrier → Barrier
  | 0, _, b => b
  | n + 1, carry, b =>
    if b.expected ≤ b.arrivals then
      barrierRun n carry { b with
        status := b.err.getD 0, err := none, total := b.total + 1, arrivals := b.arrivals - b.expected
        expected := if b.arrivals - b.expected = 0 then b.expected else carry }
    else b

/-- k arrivals with the expected count `exp` (R222); `err` is the status word of a failed command (R289, R291). -/
def barrierArrive (b : Barrier) (k exp : Nat) (err : Option Word) : Barrier :=
  let b := if b.arrivals = 0 then { b with expected := exp } else b
  let b := { b with arrivals := b.arrivals + k, err := if b.err.isSome then b.err else err }
  barrierRun b.arrivals exp b

/-- Ending the open phase at once as an error phase, where it has arrivals (R390 step 4). -/
def barrierBreak (status : Word) (b : Barrier) : Barrier :=
  if b.arrivals = 0 then b else { b with status := status, err := none, total := b.total + 1, arrivals := 0 }

/-- Arrivals at barrier n of a team, which carry the timestamp of the release that they are. -/
def State.arriveAt (s : State) (cl team n k exp : Nat) (err : Option Word) (ts : Nat) : State :=
  s.modTeam cl team fun t => { t with
    bars := t.bars.mapIdx fun i b => if i = n then { barrierArrive b k exp err with ts := max b.ts ts } else b }

/-- Barrier n of a team. -/
def Team.bar (t : Team) (n : Nat) : Barrier := (t.bars[n]?).getD {}

/-! ### Stage rings (R54, R55) -/

/-- Inverting the phase bit of a ring slot: a release, with its timestamp. -/
def State.invertSlot (s : State) (cl team ring slot ts : Nat) : State :=
  s.modTeam cl team fun t => { t with rings := t.rings.mapIdx fun i r =>
    if i = ring then { r with phases := r.phases ^^^ BitVec.ofNat 8 (2 ^ slot), ts := max r.ts ts } else r }

/-- A completion's ring release, for a command of a context of a team (R55). -/
def State.ringRelease (s : State) (b : Behalf) (r : Option (Nat × Nat)) : State := match b.team, r with
  | some t, some (ring, slot) => s.invertSlot b.ctx.cl t ring slot (s.relTs b.ctx)
  | _, _ => s

/-! ### Upcall tokens, NOTICE (R69, R70) -/

/-- Changing a context that is resident, or saved with a swapped team (R58). -/
def State.modHeld (s : State) (id : CtxId) (team : Option Nat) (f : Ctx → Ctx) : State :=
  if s.ctxs.any fun c => decide (c.id = id ∧ c.team = team) then s.modCtx id f
  else { s with teams := s.teams.map fun t =>
    if t.cl = id.cl ∧ some t.num = team ∧ t.swapped then
      { t with saved := t.saved.map fun c => if c.id = id then f c else c } else t }

/-- The service has ended for token t: its NOTICE bit and its status (R69, R401). -/
def postToken (t status : Nat) (c : Ctx) : Ctx :=
  { c with
    notice := c.notice ||| BitVec.ofNat 64 (2 ^ t)
    tokens := c.tokens.map fun k => if k.t = t then { k with status := some status } else k }

/-- The lowest free token of a context (R68). -/
def freeToken (c : Ctx) : Option Nat := (List.range 64).find? fun t => !(c.tokens.any fun k => decide (k.t = t))

def dropToken (t : Nat) (c : Ctx) : Ctx := { c with tokens := c.tokens.filter fun k => decide (k.t ≠ t) }

/-! ### Events of the host interface (R455) -/

/-- Kinds of events that may be dropped: LINK_DOWN, LINK_UP, WRITE_LOST. -/
def droppable (k : Nat) : Bool := decide (3 ≤ k ∧ k ≤ 5)

def State.addLost (s : State) (fn : Nat) : State :=
  if s.lostn.any fun p => decide (p.1 = fn) then
    { s with lostn := s.lostn.map fun p => if p.1 = fn then (fn, min 255 (p.2 + 1)) else p }
  else { s with lostn := s.lostn ++ [(fn, 1)] }

/-- Removing the first element that the test picks. -/
def dropFirst {α : Type} (f : α → Bool) : List α → List α
  | [] => []
  | a :: r => if f a then r else a :: dropFirst f r

/-- A record of the function's queue has room for a further event of this kind (R455). -/
def State.eventRoom (s : State) (e : Event) : Bool :=
  let held := s.events.filter fun x => decide (x.fn = e.fn)
  decide (held.length < 256) || droppable e.kind || held.any (fun x => droppable x.kind) ||
    (decide (e.kind = 2 ∨ e.kind = 6 ∨ e.kind = 7) && held.any fun x => decide (x.kind = e.kind ∧ x.d0 = e.d0 ∧ x.d1 = e.d1)) ||
    decide ((s.reserve.filter fun x => decide (x.fn = e.fn)).length < 32)

/-- Raising an event: held, dropped, in the reserve, or held by the unit that raises it (R455). -/
def State.raiseEvent (s : State) (e : Event) : State :=
  let held := s.events.filter fun x => decide (x.fn = e.fn)
  if held.length < 256 then { s with events := s.events ++ [e] }
  else if droppable e.kind then s.addLost e.fn
  else if held.any fun x => droppable x.kind then
    ({ s with events := dropFirst (fun x : Event => decide (x.fn = e.fn) && droppable x.kind) s.events ++ [e] }).addLost e.fn
  else if decide (e.kind = 2 ∨ e.kind = 6 ∨ e.kind = 7) && held.any fun x => decide (x.kind = e.kind ∧ x.d0 = e.d0 ∧ x.d1 = e.d1) then s
  else if (s.reserve.filter fun x => decide (x.fn = e.fn)).length < 32 then { s with reserve := s.reserve ++ [e] }
  else { s with evHeld := s.evHeld ++ [e] }

/-- An event that concerns every partition: one record of the management function, and one of each function 1 to 4 whose partition is configured (R455,
R446). (DESIGN CHOICE, log 111) -/
def State.raiseAll (s : State) (kind : Nat) (d0 d1 : Word) : State :=
  (0 :: s.parts.map fun p => p.num + 1).foldl (fun s f => s.raiseEvent { fn := f, kind := kind, gtime := s.gtime, d0 := d0, d1 := d1 }) s

/-! ### Completion events (R453) -/

/-- A completion event waits for a buffer of the completion queue that is paired with a submit queue (R447, R453). -/
def State.pushCompletion (s : State) (part fn submit : Nat) (ev : List Word) : State :=
  s.modPart part fun p => { p with cq := p.cq ++ [(fn, submit + 1, ev)] }

end Sys2Proof.Machine
end

