-- ==== Sys2Proof/Machine/Comm.lean ====
section
/-! DEFINITION. Sys2Proof/Machine/Comm.lean: communicators, the instances of their commands, and how an instance's terminal status is decided (spec/09
R309, R311, R315, R317, R318; spec/16 R460, R461). -/

namespace Sys2Proof.Machine

/-! ### Communicators and instances (R309, R311, R317, R460) -/

/-- The slot of a partition's table, if it is in use. -/
def State.comm (s : State) (part slot : Nat) : Option Comm :=
  s.comms.find? fun k => decide (k.part = part ∧ k.slot = slot) && k.used

def State.modComm (s : State) (part slot : Nat) (f : Comm → Comm) : State :=
  { s with comms := s.comms.map fun k => if k.part = part ∧ k.slot = slot then f k else k }

/-- Rank of a context of this package in a communicator: the context is bound to the slot (R460). -/
def Comm.rankOf (k : Comm) (id : CtxId) (t : Team) : Option Nat :=
  k.members.findIdx? fun m => decide (m.peer = 0xFF ∧ m.pipe = id.pipe ∧ m.slot = id.slot ∧ some m.task = t.task ∧ m.trank = t.trank)

/-- The number of the k-th pair of a sender and a receiver with one MATCH (R317). (DEDUCED, log 79) -/
def pairInst (sender receiver mt k : Nat) : Nat := ((mt * 4096 + sender) * 4096 + receiver + 1) * 2 ^ 64 + k

/-- Key of a count of issues: the rank for collectives; pair and side for `cl.send` (0) and `cl.recv` (1). (DEDUCED, log 79) -/
def pairKey (sender receiver mt side : Nat) : Nat := 4096 + 2 * ((mt * 4096 + sender) * 4096 + receiver) + side

/-- Ranks that take part in an instance, ascending. -/
def instRanks (n inst : Nat) : List Nat :=
  if inst < 2 ^ 64 then List.range n
  else
    let q := inst / 2 ^ 64 - 1
    let a := q / 4096 % 4096
    let b := q % 4096
    if a = b then [a] else [min a b, max a b]

/-- The sides of an instance, ascending rank: every member once, or the sender (`cl.send`, 8) and the receiver (`cl.recv`, 9) of a pair, which may be one
member (R317). -/
def instSides (n inst : Nat) : List (Nat × Option Nat) :=
  if inst < 2 ^ 64 then (List.range n).map fun r => (r, none)
  else
    let q := inst / 2 ^ 64 - 1
    let a := q / 4096 % 4096
    let b := q % 4096
    if a ≤ b then [(a, some 8), (b, some 9)] else [(b, some 9), (a, some 8)]

/-- How often a key has issued. -/
def Comm.count (k : Comm) (key : Nat) : Nat := ((k.issued.find? fun p => decide (p.1 = key)).map Prod.snd).getD 0

def Comm.bump (k : Comm) (key : Nat) : Comm :=
  { k with issued := k.issued.filter (fun p => !decide (p.1 = key)) ++ [(key, k.count key + 1)] }

/-- A member's package can be reached. -/
def State.reaches (s : State) (m : Member) : Bool := decide (m.peer = 0xFF) || !s.lost.contains m.peer

/-- The coordinator of an instance: its lowest rank that is reachable (R315). -/
def State.coordinator (s : State) (k : Comm) (inst : Nat) : Option Nat :=
  (instRanks k.members.length inst).find? fun r => match k.members[r]? with
    | some m => s.reaches m
    | none => false

/-- The coordinator is a member of this package. -/
def State.coordLocal (s : State) (k : Comm) (inst : Nat) : Bool := match (s.coordinator k inst).bind fun r => k.members[r]? with
  | some m => decide (m.peer = 0xFF)
  | none => true

/-- The command belongs to an instance. -/
def Coll.inInst (c : Coll) (part slot : Nat) (gen : BitVec 16) (inst : Nat) : Bool :=
  decide (c.part = part ∧ c.cslot = slot ∧ c.gen = gen ∧ c.inst = inst)

/-- A member's contribution to an instance. -/
structure Share where
  rank : Nat
  fn : Nat
  sub : Nat
  etype : Nat
  count : Nat
  data : List Byte
  sent : Bool
  wrote : Bool
  since : Nat
deriving DecidableEq, Repr

/-- The contributions to an instance that this package knows of. -/
def State.shares (s : State) (part slot : Nat) (gen : BitVec 16) (inst : Nat) : List Share :=
  ((s.colls.filter fun c => c.inInst part slot gen inst).map fun c =>
    ({ rank := c.rank, fn := c.fn, sub := c.sub, etype := c.etype, count := c.count, data := c.data, sent := c.sent, wrote := c.wrote,
       since := c.since } : Share)) ++
  ((s.contribs.filter fun c => decide (c.part = part ∧ c.cslot = slot ∧ c.msg.gen = gen ∧ c.msg.inst = inst)).map fun c =>
    ({ rank := c.msg.rank, fn := c.msg.fn, sub := c.msg.sub, etype := c.msg.etype, count := c.msg.count, data := c.msg.data, sent := c.sent
       wrote := c.wrote, since := c.msg.since } : Share))

def shareOf (l : List Share) (r : Nat) : Option Share := l.find? fun x => decide (x.rank = r)

/-- The contribution of a side. -/
def sideOf (l : List Share) (x : Nat × Option Nat) : Option Share := l.find? fun y => decide (y.rank = x.1 ∧ (x.2 = none ∨ x.2 = some y.fn))

/-! ### The terminal status (R311, R315, R317) -/

/-- The status that a command ends with, once it is known. -/
def State.verdictOf (s : State) (c : Coll) : Option (Nat × Nat × Nat) := match c.verdict with
  | some v => some v
  | none => s.decidedAs c.part c.cslot c.gen c.inst

/-- Recording the first event of R315 for an instance. -/
def State.decideAs (s : State) (part slot : Nat) (gen : BitVec 16) (inst status code rank : Nat) : State :=
  if (s.decidedAs part slot gen inst).isSome then s
  else { s with decided := s.decided ++ [{ part := part, cslot := slot, gen := gen, inst := inst, status := status, code := code, rank := rank }] }

/-- The packages other than this one that hold members of an instance, and that can be reached. -/
def State.instPeers (s : State) (k : Comm) (inst : Nat) : List Nat :=
  (((instRanks k.members.length inst).filterMap fun r => (k.members[r]?).map Member.peer).filter fun p => decide (p ≠ 0xFF) && !s.lost.contains p).eraseDups

/-- A message with no data of its own about an instance. -/
def bareMsg (k : Comm) (rank inst : Nat) : CollMsg :=
  { cid := k.cid, gen := k.gen, rank := rank, inst := inst, fn := 0, sub := 0, etype := 0, count := 0, mtch := 0, since := 0, data := [] }

/-- A message leaves for every other package of the instance (R461). (DESIGN CHOICE, log 80) -/
def State.tell (s : State) (k : Comm) (kind lo hi : Nat) (m : CollMsg) : State :=
  { s with msgOut := s.msgOut ++ (s.instPeers k m.inst).map fun p => ({ peer := p, kind := kind, lo := lo, hi := hi, msg := m, port := s.peerPort p } : CollOut) }

/-- The collective unit of this package, whose member coordinates the instance, decides it and says so to the other packages. -/
def State.decideHere (s : State) (part slot : Nat) (gen : BitVec 16) (inst status code rank : Nat) : State :=
  if (s.decidedAs part slot gen inst).isSome then s
  else
    let s := s.decideAs part slot gen inst status code rank
    match s.comm part slot with
    | none => s
    | some k => s.tell k 1 status (code % 256 + 256 * rank) (bareMsg k rank inst)

/-- Aborting the instance of a member's command (R318, R390): where it is coordinated here it is decided; a coordinator on another package is asked, once. -/
def State.abortInst (s : State) (c : Coll) (code : Nat) : State :=
  if (s.verdictOf c).isSome || c.asked then s
  else match s.comm c.part c.cslot with
    | none => s
    | some k =>
      if s.coordLocal k c.inst then s.decideHere c.part c.cslot c.gen c.inst 1 code c.rank
      else
        let mine := fun (x : Coll) => x.inInst c.part c.cslot c.gen c.inst && decide (x.rank = c.rank)
        { s with colls := s.colls.map fun x => if mine x then { x with asked := true } else x }.tell k 2 code 0 (bareMsg k c.rank c.inst)

/-- The lowest rank whose function, SUB, type or count differs from that of the lowest rank that has issued; of a pair, whose byte count does. (DEDUCED, log 76) -/
def mismatch (inst : Nat) (sides : List (Nat × Option Nat)) (l : List Share) : Option Nat :=
  match sides.filterMap (sideOf l) with
  | [] => none
  | h :: r => (r.find? fun x => if inst < 2 ^ 64 then !decide (x.fn = h.fn ∧ x.sub = h.sub ∧ x.etype = h.etype ∧ x.count = h.count)
      else x.count != h.count).map Share.rank

/-- What the coordinator on this package records of an instance as it stands: a mismatch, or a lost member. (DEDUCED, log 76) -/
def State.judge (s : State) (part slot inst : Nat) : State := match s.comm part slot with
  | none => s
  | some k =>
    let ranks := instRanks k.members.length inst
    if s.coordLocal k inst then match mismatch inst (instSides k.members.length inst) (s.shares part slot k.gen inst) with
      | some r => s.decideHere part slot k.gen inst 1 0x10 r
      | none => match ranks.find? fun r => match k.members[r]? with
          | some m => !s.reaches m
          | none => false with
        | some r => s.decideHere part slot k.gen inst 3 0 r
        | none => s
    else s

/-- A lost peer is declared to the collective unit (R459): the instances that have begun and that it is a member of. -/
def State.collLost (s : State) : State :=
  let a := s.colls.foldl (fun (s : State) c => s.judge c.part c.cslot c.inst) s
  s.contribs.foldl (fun (s : State) c => s.judge c.part c.cslot c.msg.inst) a

/-- The coordinator on this package records the change of generation for an instance of a slot (R315, R316). -/
def State.judgeStale (s : State) (part slot inst : Nat) : State := match s.comm part slot with
  | some k => if s.coordLocal k inst then s.decideHere part slot k.gen inst 4 0 0xFFFF else s
  | none => s

/-- Every outstanding instance of a slot ends STALE (R316): those coordinated here are decided so, and this package's members of the others end so. (DEDUCED, log 53) -/
def State.collStale (s : State) (part slot : Nat) : State :=
  let s := (s.colls.filter fun c => decide (c.part = part ∧ c.cslot = slot)).foldl (fun (s : State) c => s.judgeStale part slot c.inst) s
  let s := (s.contribs.filter fun c => decide (c.part = part ∧ c.cslot = slot)).foldl (fun (s : State) c => s.judgeStale part slot c.msg.inst) s
  { s with colls := s.colls.map fun c => if c.part = part ∧ c.cslot = slot ∧ (s.verdictOf c).isNone then { c with verdict := some (4, 0, 0xFFFF) }
      else { c with verdict := s.verdictOf c } }

end Sys2Proof.Machine
end

