-- ==== Sys2Proof/Machine/Faulting.lean ====
section
/-! DEFINITION. Sys2Proof/Machine/Faulting.lean: the fault unit and the kill queue (spec/13 R401; spec/14 R422 to R425), the slices'
translation caches with their A and D bits (R410, R419), and the accesses of engines and of the system to memory (spec/04 R132). -/

namespace Sys2Proof.Machine

/-! ### Cause codes (R184) -/

def cILLEGAL : Nat := 0x01
def cPRIV : Nat := 0x02
def cROLE : Nat := 0x03
def cMISALIGN : Nat := 0x04
def cPAGE_FAULT : Nat := 0x05
def cPROTECTION : Nat := 0x06
def cINT_DIV0 : Nat := 0x07
def cVREG : Nat := 0x08
def cSYSCALL_DIVERGENT : Nat := 0x09
def cSPARSE : Nat := 0x0A
def cTASK_UNDERFLOW : Nat := 0x0B
def cHANDLE_STALE : Nat := 0x0C
def cFP : Nat := 0x0D
def cBREAK : Nat := 0x0E
def cECALL : Nat := 0x0F
def cENGINE_ERR : Nat := 0x10
def cWINDOW_PARTIAL : Nat := 0x11
def cWATCHDOG : Nat := 0x13
def cKILL : Nat := 0x14
def cFUSE : Nat := 0x15

/-! ### The translation caches of the slices (R410, R416, R419) -/

/-- The cached translation of a page at the home slice of the address. -/
def State.tlookup (s : State) (part va : Nat) : Option Xlat :=
  let slice := s.homeSlice va
  (s.tcache.find? fun e => decide (e.slice = slice ∧ e.part = part ∧ va / 2 ^ pageShift e.x.cls = e.page)).map TEntry.x

/-- An `xlat.inv` of the page, or of all pages, waits: a probe that is in flight is not kept (R421). -/
def State.invWaits (s : State) (part va : Nat) : Bool := s.ctxs.any fun c => match c.st with
  | .waiting (.inval lo n) _ => decide ((s.partOf c.id.cl).map Partition.num = some part ∧ lo ≤ va ∧ va < lo + n)
  | _ => false

/-- A translation in the slice's cache, as the one used last: an entry beyond the 2048 of a slice takes the place of the one used least recently (R410). -/
def State.tput (s : State) (part va : Nat) (x : Xlat) : State :=
  let e : TEntry := { slice := s.homeSlice va, part := part, page := va / 2 ^ pageShift x.cls, x := x }
  let l := s.tcache.filter fun y => !decide (y.slice = e.slice ∧ y.part = e.part ∧ y.page = e.page ∧ y.x.cls = x.cls)
  let l := if (l.filter fun y => decide (y.slice = e.slice)).length < 2048 then l else l.eraseP fun y => decide (y.slice = e.slice)
  { s with tcache := l ++ [e] }

/-- Keeping a translation in the slice's cache (R410, R416), unless its page is being invalidated (R421). -/
def State.tkeep (s : State) (part va : Nat) (x : Xlat) : State := if s.invWaits part va then s else s.tput part va x

/-- Two lines of one set of a slice, whose 1 MiB in 16 ways are 1024 sets (R26). (DEDUCED, log 25) -/
def SLine.sameSet (a b : SLine) : Bool := decide (a.slice = b.slice ∧ a.line % 1024 = b.line % 1024)

/-- The line of a partition's VA in its slice is this one. -/
def SLine.holds (l : SLine) (slice part va : Nat) : Bool := decide (l.slice = slice ∧ l.part = part ∧ l.line = va / 64)

/-- The slice that homes a VA has used its line: it is the set's most recently used, but a streaming line that comes in is its least recently used; a 17th
line of a set takes the place of the one used least recently (R26, R121). An uncached line, and one whose frame is outside region 0x0, is not kept (R121,
R412). -/
def State.sput (s : State) (part va : Nat) (x : Xlat) : State :=
  if x.attr = 2 ∨ x.far = true ∨ s.invWaits part va = true then s
  else
    let e : SLine := { slice := s.homeSlice va, part := part, line := va / 64, x := x }
    let l := s.l2.filter fun y => !y.holds e.slice part va
    let isNew := decide (l.length = s.l2.length)
    let l := if (l.filter e.sameSet).length < 16 then l else l.eraseP e.sameSet
    { s with l2 := if x.attr = 1 && isNew then e :: l else l ++ [e] }

/-- The translation that a slice has for an address: that of the line that it holds, or, on a miss, that of its translation cache (R26, R410). -/
def State.sliceHit (s : State) (part va : Nat) : Option (Xlat × State) :=
  match s.l2.find? fun l => l.holds (s.homeSlice va) part va with
  | some l => some (l.x, s.sput part va l.x)
  | none => (s.tlookup part va).map fun x => (x, s.tput part va x)

/-- The access is performed at the slice: its line is in the slice then (R26, R121). -/
def State.fillSlice (s : State) (w : Who) (va : Nat) (x : Xlat) : State :=
  if s.usesBootMap w then s
  else match s.partOf w.cl with
    | some p => s.sput p.num va x
    | none => s

/-- Setting bits of W0 in the table, by the agent's compare-and-swap at the table's home slice (R419): false where the entry has
changed. -/
def State.setEntryBits (s : State) (p : Partition) (x : Xlat) (bits : Nat) : Option (Xlat × State) :=
  match x.pte with
  | none => some (x, s)
  | some a =>
    let cur := BitVec.ofNat 64 (leNat (Memory.readN s.mem a 8))
    if cur ≠ x.w0 then none
    else
      let w := x.w0 ||| BitVec.ofNat 64 bits
      some ({ x with w0 := w }, if w = x.w0 then s
        else s.placeWrite none (.mem (p.tva + (a - p.tpa)) a) (leBytes 8 w.toNat))

/-- A fresh probe of the table, with A set in the entry it finds, kept by the slice (R416, R419). -/
def State.probeSet (s : State) (w : Who) (va : Nat) : Tr × State :=
  match s.translate w va with
  | .ok x =>
    if s.usesBootMap w then (.ok x, s)
    else match s.partOf w.cl with
      | none => (.noMap, s)
      | some p => match s.setEntryBits p x 128 with
        | some (x', s') => (.ok x', s'.tkeep p.num va x')
        | none => (.absent, s)
  | r => (r, s)

/-- Translation through the slice's cache (R410). -/
def State.lookup (s : State) (w : Who) (va : Nat) : Tr × State :=
  if s.usesBootMap w then (s.bootMap va, s)
  else match (s.partOf w.cl).bind fun p => s.sliceHit p.num va with
    | some (x, s) => (.ok x, s)
    | none => s.probeSet w va

/-- An entry with new A and D bits, in the slice's translation cache and in the lines of the page that the slice holds (R419). -/
def State.keepEntry (s : State) (part va : Nat) (x : Xlat) : State :=
  { s.tkeep part va x with l2 := s.l2.map fun (l : SLine) =>
      if l.slice = s.homeSlice va ∧ l.part = part ∧ l.x.pte = x.pte ∧ 64 * l.line / 2 ^ pageShift x.cls = va / 2 ^ pageShift x.cls then
        { l with x := x } else l }

/-- Setting D before the first write through an entry (R419). -/
def State.dirtySet (s : State) (w : Who) (va : Nat) (x : Xlat) : Option (Xlat × State) :=
  if x.d || s.usesBootMap w then some (x, s)
  else match s.partOf w.cl with
    | none => some (x, s)
    | some p => match s.setEntryBits p x 256 with
      | some (x', s') => some (x', s'.keepEntry p.num va x')
      | none => none

/-! ### Poisoned data (R384) -/

/-- A line of memory that the error-correcting logic has marked, by PA[51:6]. (DESIGN CHOICE, log 39) -/
def State.poisonedAt (s : State) (pa n : Nat) : Bool := linesBad s.poison pa n

/-- The same of the local store of a cluster. -/
def State.lsPoisoned (s : State) (cl off n : Nat) : Bool := linesBad s.lsPoison (lsKey cl off) n

/-! ### Fault records (R401, R422 to R425) -/

/-- Completion key (R401). -/
def faultKey (tok : Nat) (eng : Bool) (logical pipe slot : Nat) : Word :=
  BitVec.ofNat 64 (tok + (if eng then 64 else 0) + slot * 2 ^ 7 + pipe * 2 ^ 9 + logical * 2 ^ 13)

def privNum : Priv → Nat
  | .user => 0
  | .supervisor => 1
  | .machine => 2

/-- The pending record that a fault merges into (R423). -/
def State.faultMatch (s : State) (part va reason : Nat) : Option FaultRec :=
  s.faults.find? fun f => decide (f.part = part ∧ f.va / 4096 = va / 4096 ∧ f.reason = reason)

def sameRec (a b : FaultRec) : Bool := decide (a.part = b.part ∧ a.va / 4096 = b.va / 4096 ∧ a.reason = b.reason)

def waiterIs (id : CtxId) (team : Option Nat) : Waiter → Bool
  | .ctx i t _ => decide (i = id ∧ t = team)
  | .engine _ _ _ => false

def engineIs (id : CtxId) (team : Option Nat) : Waiter → Bool
  | .ctx _ _ _ => false
  | .engine i t _ => decide (i = id ∧ t = team)

/-- The token under which a context already waits for a page (R70, R423). -/
def State.heldToken (s : State) (part va reason : Nat) (c : Ctx) : Option Nat :=
  (s.faultMatch part va reason).bind fun f => (f.waiters.find? (waiterIs c.id c.team)).bind fun w => match w with
    | .ctx _ _ t => some t
    | .engine _ _ _ => none

/-- Merging a faulter into a pending record: kind bits and MERGE only while it is queued (R423). -/
def mergeFault (f : FaultRec) (kind : BitVec 4) (already : Bool) (w : Waiter) (ts : Nat) : FaultRec :=
  { f with
    kind := if f.queued then f.kind ||| kind else f.kind
    merge := if f.queued && !already then min 65535 (f.merge + 1) else f.merge
    waiters := if already then f.waiters else f.waiters ++ [w]
    ts := max f.ts ts }

/-- A context's fault enters the fault unit with its token; none when no record is free (R422 to R424). -/
def State.ctxFault (s : State) (part va reason : Nat) (kind : BitVec 4) (c : Ctx) (tok : Nat) : Option State :=
  match s.faultMatch part va reason with
  | some f =>
    let already := f.waiters.any (waiterIs c.id c.team)
    some { s with faults := s.faults.map fun x => if sameRec x f then mergeFault x kind already (.ctx c.id c.team tok) (s.relTs c.id) else x }
  | none =>
    if (s.faults.filter fun f => decide (f.part = part)).length < 4096 then
      let (t, s) := s.readGtime c.id.cl
      some { s with faults := s.faults ++ [{
        part := part, va := va, key := faultKey tok false (s.logical c.id.cl) c.id.pipe c.id.slot, gtime := t
        kind := kind, reason := reason, domain := c.domain, merge := 0, priv := privNum c.priv, queued := true
        waiters := [.ctx c.id c.team tok], ts := s.relTs c.id }] }
    else none

/-- Numbers that pending records hold for the engines of a context (R401). -/
def State.engineNums (s : State) (part : Nat) (id : CtxId) (team : Option Nat) : List Nat :=
  (s.faults.filter fun f => decide (f.part = part)).flatMap fun f => f.waiters.filterMap fun w => match w with
    | .engine i t n => if i = id ∧ t = team then n else none
    | .ctx _ _ _ => none

/-- A partition's number of records leaves room for one more (R424). -/
def State.recordRoomIn (s : State) (part : Nat) : Bool := decide ((s.faults.filter fun f => decide (f.part = part)).length < 4096)

/-- An engine's fault enters the fault unit on behalf of its group; unchanged when there is no room or in a pause of the cluster, and the engine stays
stalled (R393, R401, R424). A faulter that merges holds no number (R401). (DEDUCED, log 88) -/
def State.engineFault (s : State) (part va reason : Nat) (write : Bool) (b : Behalf) : State :=
  let kind : BitVec 4 := if write then 10 else 9
  if s.paused b.ctx.cl then s
  else match s.faultMatch part va reason with
  | some f => { s with faults := s.faults.map fun x =>
      if (sameRec x f) then mergeFault x kind false (.engine b.ctx b.team none) (s.relTs b.ctx) else x }
  | none =>
    match (List.range 64).find? fun n => !(s.engineNums part b.ctx b.team).contains n with
    | none => s
    | some n =>
      if s.recordRoomIn part then
        let (t, s) := s.readGtime b.ctx.cl
        { s with faults := s.faults ++ [{
          part := part, va := va, key := faultKey n true (s.logical b.ctx.cl) b.ctx.pipe b.ctx.slot, gtime := t
          kind := kind, reason := reason, domain := b.domain, merge := 0, priv := privNum b.priv, queued := true
          waiters := [.engine b.ctx b.team (some n)], ts := s.relTs b.ctx }] }
      else s

/-- An engine of the context waits on the record that a fault at a VA with a REASON has entered (R423). (DEDUCED, log 88) -/
def State.engineWaits (s : State) (b : Behalf) (at_ : Nat × Nat) : Bool :=
  s.faults.any fun f => decide (f.va / 4096 = at_.1 / 4096 ∧ f.reason = at_.2) && f.waiters.any (engineIs b.ctx b.team)

/-! ### Accesses by engines and by the system (R106, R132, R256) -/

/-- Why such an access is not performed: it stalls at a page, with the reason of R422, or it fails with cause, STATUS and VA. -/
inductive Fail where
  | stall (va reason : Nat) (write : Bool)
  | err (cause status va : Nat)
  /-- malformed structure of a sparse tensor: kind of R324, level, index of the entry, and its VA -/
  | sparse (kind level idx va : Nat)
deriving DecidableEq, Repr

/-- An accessor reaches a line of physical memory through a page, writable or not (R107). -/
def State.noteWho (s : State) (w : Who) (va pa : Nat) (wr : Bool) : State := match s.partOf w.cl with
  | some p => s.noteVia p.num va pa wr
  | none => s

/-- The place of a paged access once its translation is known; `again` runs where the entry has changed in the table since (R419). -/
def pagedPlace (w : Who) (need : Need) (va n : Nat) (again : State → Except Fail Place × State) :
    Tr × State → Except Fail Place × State
  | (.absent, s) => (.error (.stall va reasonAbsent (need != .read)), s)
  | (.malformed, s) => (.error (.stall va reasonMalformed (need != .read)), s)
  | (.noMap, s) => (.error (.err cPROTECTION 0 va), s)
  | (.ok x, s) =>
    match checkPage w need x with
    | .prot st => (.error (.err cPROTECTION st va), s)
    | .migrating => (.error (.stall va reasonMigrating (need != .read)), s)
    | .ok =>
      let pa := x.pa va
      if s.poisonedAt pa n && need != .write then (.error (.err cPROTECTION 4 va), s)
      else if s.lostPeer pa then (.error (.err cPROTECTION 4 va), s)
      else if need = .read then (.ok (.mem va pa), (s.fillSlice w va x).noteWho w va pa x.w)
      else match s.dirtySet w va x with
        | some (x, s) => (.ok (.mem va pa), (s.fillSlice w va x).noteWho w va pa x.w)
        | none => again s

/-- The physical place of one element: translated and checked (R104, R106, R109, R418). A window other than W0 is the caller's matter:
the place is that of the addressed byte. -/
def State.engPlace (s : State) (w : Who) (need : Need) (va n : Nat) : Except Fail Place × State :=
  match regionOf va with
  | .paged =>
    pagedPlace w need va n (fun s => pagedPlace w need va n (fun s => (.error (.stall va reasonAbsent true), s)) (s.probeSet w va))
      (s.lookup w va)
  | .lsAny | .lsOwn =>
    match s.lsAt w va with
    | .error st => (.error (.err cPROTECTION st va), s)
    | .ok l =>
      if w.priv != .machine && l.size < l.off + n then (.error (.err cPROTECTION 3 va), s)
      else if s.lsPoisoned l.cl l.phys n && need != .write then (.error (.err cPROTECTION 4 va), s)
      else (.ok (.ls l.cl l.phys), s)
  | .vreg => (.error (.err cPROTECTION 0 va), s)
  | .unassigned => (.error (.err cPROTECTION 0 va), s)

/-- The bytes that an engine's read of a place finds: unpredictable where the line is mapped twice (R107). -/
def State.placeSees (s : State) (w : Who) (p : Place) (n : Nat) : List Byte × State := match p, s.partOf w.cl with
  | .mem va pa, some q =>
    if s.aliased q.num va pa then ((List.range n).map (freeByte s.freeCtr), { s with freeCtr := s.freeCtr + n }) else (s.placeRead p n, s)
  | _, _ => (s.placeRead p n, s)

/-- Reading n bytes that lie in one page (R132). (DEDUCED, log 37) -/
def State.engRead (s : State) (w : Who) (va n : Nat) : Except Fail (List Byte) × State :=
  match s.engPlace w .read va n with
  | (.ok p, s) => let (b, s) := s.placeSees w p n
    (.ok b, s)
  | (.error e, s) => (.error e, s)

/-- Writing bytes that lie in one page, on behalf of an agent. (DEDUCED, log 37) -/
def State.engWrite (s : State) (w : Who) (agent : Option CtxId) (va : Nat) (data : List Byte) : Except Fail Unit × State :=
  match s.engPlace w .write va data.length with
  | (.ok p, s) => (.ok (), s.placeWrite agent p data)
  | (.error e, s) => (.error e, s)

/-- A write of the system that is a release at SYS scope and carries a timestamp (R155). -/
def State.engRelease (s : State) (w : Who) (agent : CtxId) (va : Nat) (data : List Byte) (ts : Nat) : Except Fail Unit × State :=
  match s.engPlace w .write va data.length with
  | (.ok p, s) => (.ok (), s.placeWriteAs (some agent) agent.pipe { sc := some .sys, relC := ts, relD := ts } p data)
  | (.error e, s) => (.error e, s)

/-- Reading k units of n bytes each, from va on; the first failure ends it. -/
def State.engReads (s : State) (w : Who) (va n : Nat) : Nat → Except Fail (List Byte) × State
  | 0 => (.ok [], s)
  | k + 1 =>
    match s.engRead w va n with
    | (.error e, s) => (.error e, s)
    | (.ok bs, s) => match s.engReads w (va + n) n k with
      | (.error e, s) => (.error e, s)
      | (.ok r, s) => (.ok (bs ++ r), s)

/-- Writing bytes in units of n from va on; the first failure ends it, and what was written stays. -/
def State.engWrites (s : State) (w : Who) (agent : Option CtxId) (va n : Nat) : Nat → List Byte → Except Fail Unit × State
  | 0, _ => (.ok (), s)
  | k + 1, data =>
    match s.engWrite w agent va (data.take n) with
    | (.error e, s) => (.error e, s)
    | (.ok _, s) => s.engWrites w agent (va + n) n k (data.drop n)

/-- The accessor that Geyser and the host functions are in a partition: supervisor (R428). -/
def sysWho (p : Partition) : Who := ⟨128 * p.lo, none, .supervisor, 0⟩

end Sys2Proof.Machine
end

