-- ==== Sys2Proof/Machine/Release.lean ====
section
/-! DEFINITION. Sys2Proof/Machine/Release.lean: the frequency trace (spec/15 R442), the release of a cluster (spec/13 R404; spec/15 R438, R443; spec/17
R470, R471), and the arrival of the packets of `nbr.put` (R404). -/

namespace Sys2Proof.Machine

/-! ### The frequency trace (R442) -/

/-- Bytes 8 to 15 of a trace entry. -/
def traceTail (seq old new reason vcode pause : Nat) : List Byte :=
  leBytes 2 seq ++ leBytes 1 old ++ leBytes 1 new ++ leBytes 1 reason ++ leBytes 1 vcode ++ leBytes 2 pause

/-- Writing a trace entry: bytes 0 to 7 as 0, bytes 8 to 15, then bytes 0 to 7. -/
def State.putTrace (s : State) (p : Partition) (cl : Nat) (e : TraceEnt) : State :=
  let va := p.trace + 4096 * s.logical cl + 16 * (e.seq % 256)
  let w := sysWho p
  let s := (s.engWrite w none va (leBytes 8 0)).2
  let s := (s.engWrite w none (va + 8) e.tail).2
  (s.engWrite w none va (leBytes 8 e.t1)).2

/-- A trace entry of a cluster: T1 is of its own copy of GTIME (R441). A cluster that no partition has keeps it until one gives it a trace area. (DEDUCED, log 93) -/
def State.traceEntry (s : State) (cl old new reason pause : Nat) : State :=
  let seq := (s.cluster cl).seq
  let (t1, s) := s.readGtime cl
  let e : TraceEnt := { seq := seq, t1 := t1, tail := traceTail seq old new reason (s.domain (domainOf cl)).code pause }
  let s := s.modCluster cl fun k => { k with seq := k.seq + 1 }
  match s.partOf cl with
  | none => s.modCluster cl fun k => { k with traces := k.traces ++ [e] }
  | some p => s.putTrace p cl e

/-- The clusters of a partition that has been given its trace area write the entries that they have kept. (DEDUCED, log 93) -/
def State.putTraces (s : State) (p : Partition) : State :=
  (s.partClusters p).foldl (fun (s : State) cl =>
    ((s.cluster cl).traces.foldl (fun (s : State) e => s.putTrace p cl e) s).modCluster cl fun k => { k with traces := [] }) s

/-! ### Release of a cluster -/

/-- A cluster is released: its cycle count starts, and its trace entry has reason BOOT with its step, the partition's FLOOR (R438, R442, R443). The
supply is at the code that the step needs. -/
def State.releaseCluster (s : State) (cl : Nat) : State :=
  let floor := ((s.partOf cl).map Partition.floor).getD 0
  let s := s.modCluster cl fun k => { k with
    released := true, step := floor, cycBase := 0, segT1 := s.gtime, seq := 0, ticks := 0, change := none, changes := []
    emptySince := some s.gtime }
  let m := domainOf cl
  let s := s.modDomain m fun d => { d with code := max d.code (Config.vmin m floor), target := max d.target (Config.vmin m floor) }
  s.traceEntry cl floor floor 0 0

/-- A cluster's release: slot C0 of P0 in machine mode at an address, with g5 and every other register zero (R404, R470, R471). -/
def State.releaseAt (s : State) (cl : Nat) (pc : Word) (g5 : Nat) : State :=
  let id : CtxId := ⟨cl, 0, 0⟩
  let c : Ctx := { id := id, priv := .machine, pc := pc, g := (Vector.replicate 32 (0 : Word)).set 5 (BitVec.ofNat 64 g5) }
  (((s.releaseCluster cl).dropCtx id).addCtx c).modCluster cl fun k => { k with emptySince := none }

/-! ### Packets to neighbours (R404) -/

/-- The cluster answers on the mesh: enabled by fuse, not silent, not gated off, and powered (R404, R472, R475). -/
def State.answers (s : State) (cl : Nat) : Bool :=
  enabledByFuse cl && !Config.silent cl && !(s.cluster cl).gated && (!s.boot.minimal || decide (dieOf cl = 0))

/-- The answer to `nbr.put`. -/
def State.putAnswer (s : State) (p : Packet) (v : Nat) : State :=
  if p.dest = 0 then s else { s with longs := s.longs ++ [({ dst := p.from_, dest := .g p.dest, val := BitVec.ofNat 64 v } : Long)] }

/-- A packet fills a mailbox, or finds it full. -/
def State.fillBox (s : State) (p : Packet) : State :=
  if (s.cluster p.cl).boxes.any fun b => decide (b.1 = p.dir) then s.putAnswer p 2
  else (s.modCluster p.cl fun k => { k with boxes := (k.boxes ++ [(p.dir, p.data)]).mergeSort fun a b => decide (a.1 ≤ b.1) }).putAnswer p 0

/-- The packets that reach the cluster of packet i in its cycle, from other directions, one from each that f picks; `f` is a free value. (DESIGN CHOICE, log 130) -/
def State.besides (s : State) (i : Nat) (p : Packet) (f : Word) : List (Packet × Nat) :=
  (List.range 4).filterMap fun d => if d = p.dir ∨ f.getLsbD d = false then none
    else s.packets.zipIdx.find? fun (x : Packet × Nat) => decide (x.1.cl = p.cl ∧ x.1.dir = d ∧ x.2 ≠ i) && !s.frozen x.1.from_.cl

/-- The packets that reach an unreleased cluster in one cycle: that of the lowest direction releases it, and every other one fills its mailbox (R404, R471). -/
def State.releasePackets (s : State) (p : Packet) (l : List Packet) : State :=
  let lead := l.foldl (fun (a : Packet) x => if x.dir < a.dir then x else a) p
  let s := (s.releaseAt p.cl (instrPc (BitVec.ofNat 64 (leNat (lead.data.take 8)))) lead.dir).putAnswer lead 0
  ((p :: l).filter fun x => decide (x.dir ≠ lead.dir)).foldl State.fillBox s

/-- Packet i arrives: it releases a cluster that is not released, or fills a mailbox, or finds it full. -/
def State.deliverPacket (s : State) (i : Nat) : State := match s.packets[i]? with
  | none => s
  | some p =>
    if s.answers p.cl = false then { s with packets := s.packets.eraseIdx i }.putAnswer p 3
    else if (s.cluster p.cl).released then { s with packets := s.packets.eraseIdx i }.fillBox p
    else
      let (f, s) := s.freshFree
      let l := s.besides i p f
      { s with packets := (s.packets.zipIdx.filter fun (x : Packet × Nat) => decide (x.2 ≠ i) && !l.any fun (y : Packet × Nat) => decide (y.2 = x.2)).map Prod.fst }.releasePackets p
        (l.map Prod.fst)

/-- The cluster has been released in this nanosecond: a packet that comes now comes in a later cycle (R471). (DESIGN CHOICE, log 130) -/
def State.freshlyReleased (s : State) (cl : Nat) : Bool :=
  let k := s.cluster cl
  k.released && decide (k.segT1 = s.gtime ∧ k.cycBase = 0)

/-- The packets that a register file waits for an answer to arrive now: a trap comes after every result (R180). -/
def State.deliverFor (s : State) (lane : CtxId) : State :=
  let f := fun (p : Packet) => decide (p.dest ≠ 0 ∧ (p.from_ = lane ∨ p.from_ = s.leader lane))
  (List.range (s.packets.filter f).length).foldl (fun (s : State) _ => match s.packets.findIdx? f with
    | some i => s.deliverPacket i
    | none => s) s

end Sys2Proof.Machine
end

