-- ==== Sys2Proof/Machine/Ops.lean ====
section
/-! DEFINITION. Sys2Proof/Machine/Ops.lean: the shared operations on running contexts: the end of contexts, teams and tasks (spec/02 R44,
R66, R67; spec/05 R157), split and re-fuse (R43 to R49), taking a trap or an upcall and returning (spec/13 R385; spec/02 R68), and the
kill (R390). -/

namespace Sys2Proof.Machine

/-! ### Arrivals and ring releases of a command (R55, R255, R289) -/

/-- Status word of an error phase (R222). -/
def errWord (cause va : Nat) : Word := BitVec.ofNat 64 (cause % 256 * 2 ^ 56 + va % 2 ^ 56)

/-- The ring release and the barrier arrival of a command that has ended, normally or in error. (DEDUCED, log 66) -/
def State.signalDone (s : State) (b : Behalf) (g : Signals) (err : Option Word) : State :=
  let s := s.ringRelease b g.ring
  match b.team, g.bar with
  | some t, some (n, e) => s.arriveAt b.ctx.cl t n 1 e err (s.relTs b.ctx)
  | _, _ => s

/-! ### Tasks (R65 to R67, R157, R453) -/

def State.task (s : State) (part idx : Nat) : Option Task := s.tasks.find? fun t => decide (t.part = part ∧ t.idx = idx)

def State.modTask (s : State) (part idx : Nat) (f : Task → Task) : State :=
  { s with tasks := s.tasks.map fun t => if t.part = part ∧ t.idx = idx then f t else t }

/-- Decrementing a record's counter: false where it finds zero; a record that reaches zero becomes Ready (R66, R67). -/
def decTask (ts : List Task) (part idx : Nat) : Bool × List Task :=
  match ts.find? fun t => decide (t.part = part ∧ t.idx = idx) with
  | some t =>
    if t.st = .loaded ∧ 0 < t.counter then
      (true, ts.map fun u => if u.part = part ∧ u.idx = idx then
        { u with counter := u.counter - 1, st := if u.counter = 1 then .ready else .loaded } else u)
    else (false, ts)
  | none => (false, ts)

/-- One record stands before another: by priority, then begun before not begun, then by index. -/
def taskBefore (a b : Task) : Bool :=
  if a.prio ≠ b.prio then decide (b.prio < a.prio)
  else if (a.placed == 0) != (b.placed == 0) then b.placed == 0
  else decide (a.idx < b.idx)

/-- The record whose next team Geyser places. -/
def State.queueHead (s : State) (part : Nat) : Option Task :=
  (s.tasks.filter fun t => decide (t.part = part ∧ (t.st = .ready ∨ t.st = .placing)) && !t.invalid).foldl
    (fun b t => match b with
      | none => some t
      | some x => if taskBefore t x then some t else some x) none

/-- The state with the task records `ts`: a record that finds the ready queue empty enters it now (R65, R430). (DEDUCED, log 147) -/
def State.putTasks (s : State) (part : Nat) (ts : List Task) : State :=
  let fresh := (s.queueHead part).isNone
  { s with tasks := ts }.modPart part fun p => if fresh then { p with placeAt := s.gtime } else p

/-- The decrements of a completing task in list order: whether one found zero (R66, R67). -/
def decAll (part : Nat) : List Nat → List Task → Bool × List Task
  | [], ts => (false, ts)
  | i :: r, ts =>
    let (ok, ts) := decTask ts part i
    let (u, ts) := decAll part r ts
    (!ok || u, ts)

/-- A control tick, a completion or a swap: Geyser looks anew for a cluster for the team that waits for one (R430). (DEDUCED, log 147) -/
def State.placeAgain (s : State) (part : Nat) : State :=
  s.modPart part fun p => if p.placeWait.isSome then { p with placeWait := none, placeAt := s.gtime } else p

/-- The clusters of a partition's bands. -/
def inPart (p : Partition) (cl : Nat) : Bool := decide (p.lo ≤ clY cl / 4 ∧ clY cl / 4 ≤ p.hi)

/-- The grid-end release: every L1 bank of the partition is written back and emptied, and every write of it performed (R157). -/
def State.gridEnd (s : State) (p : Partition) : State :=
  let s := s.settleLate fun t => inPart p t.agent.cl
  let s := s.flushLines false fun l => inPart p l.cl
  let s := s.drainWrites fun w => inPart p w.agent.cl
  let s := s.drainReds fun r => inPart p r.agent.cl
  { s with l1i := s.l1i.filter fun l => !inPart p l.cl }

/-- The status of a completing task, and its flag DEP_UNDERFLOW as its successors' counters stand (R66, R67). -/
def State.taskStatus (s : State) (t : Task) : Nat × Nat :=
  (if t.invalid then 2 else if t.killed then 1 else 0, if (decAll t.part t.succs s.tasks).1 then 1 else 0)

/-- The first step of a task's completion: its record is written (R66). The others follow as a move of their own: who reads the record is not ordered with
them (R158, R171). (DEDUCED, log 128) -/
def State.completeTask (s : State) (part idx : Nat) : State :=
  match s.task part idx, s.partNo part with
  | some t, some p =>
    let (status, flags) := s.taskStatus t
    let s := if t.done = 0 then s
      else (s.engWrite (sysWho p) none t.done (leBytes 8 (status + flags * 256 + t.retired * 2 ^ 32))).2
    s.modTask part idx fun k => { k with st := .ending, under := decide (flags = 1) }
  | _, _ => s

/-- The other steps: the grid-end release, the decrements of the successors, and the host's event (R66, R157, R453). Where the decrements find their
counters otherwise than they stood at the first step, the flag of the record follows them (R67). (DEDUCED, log 128) -/
def State.endTask (s : State) (part idx : Nat) : State :=
  match s.task part idx, s.partNo part with
  | some t, some p =>
    let (status, flags) := s.taskStatus t
    let s := s.gridEnd p
    let s := s.putTasks part ((decAll part t.succs s.tasks).2.filter fun u => !decide (u.part = part ∧ u.idx = idx))
    let s := if t.done = 0 ∨ t.under = decide (flags = 1) then s else (s.engWrite (sysWho p) none (t.done + 1) (leBytes 1 flags)).2
    match t.cookie with
    | some (k, fn, q) => s.pushCompletion part fn q
        [k, BitVec.ofNat 64 (idx + status * 2 ^ 16 + flags * 2 ^ 24 + t.retired * 2 ^ 32), BitVec.ofNat 64 s.gtime, 0]
    | none => s
  | _, _ => s

/-- A task completes when its last team has retired; an invalid one when no team of it is left (R66, R186). -/
def State.taskCheck (s : State) (part idx : Nat) : State :=
  match s.task part idx with
  | some t =>
    let left := s.teams.any fun m => decide (m.part = part ∧ m.task = some idx)
    if !left && t.st != .ending && (t.invalid || (t.st == .running && t.retired == t.grid)) then s.completeTask part idx else s
  | none => s

/-! ### The end of contexts and teams (R44, R66, R218) -/

/-- A cluster without contexts is empty from now on (R438). -/
def State.noteEmpty (s : State) (cl : Nat) : State :=
  if s.ctxs.any fun c => decide (c.id.cl = cl) then s else s.modCluster cl fun k => { k with emptySince := some s.gtime }

/-- Pins end: programs of identities that no team pins any more are not pinned (R352, R358). -/
def State.dropPins (s : State) (f : Pin → Bool) : State :=
  let left := s.pins.filter fun p => !f p
  { s with
    pins := left
    sinter := s.sinter.map fun (e : SCache) => { e with pinned := e.pinned && left.any fun p => decide (p.cl = e.cl ∧ p.tile = e.tile) } }

/-- A team retires: its resources are free, its pins end, and its task learns of it (R66, R358). (DEDUCED, log 19; DEDUCED, log 60) -/
def State.retireTeam (s : State) (t : Team) : State :=
  let s := { s with
    teams := s.teams.filter fun x => !decide (x.cl = t.cl ∧ x.num = t.num)
    colls := s.colls.filter fun c => !decide (c.by_.ctx.cl = t.cl ∧ c.by_.team = some t.num)
    sinter := s.sinter.map fun (e : SCache) => if e.cl = t.cl ∧ e.team = some t.num then { e with team := none } else e
    compiles := s.compiles.filter fun c => !decide (c.cl = t.cl ∧ c.team = t.num) }
  let s := s.dropPins fun p => decide (p.cl = t.cl ∧ p.team = t.num)
  let s := s.modCluster t.cl fun k => if k.mxTeam = some t.num then { k with mxTeam := none } else k
  let s := s.placeAgain t.part
  match t.task with
  | some i =>
    let s := s.modTask t.part i fun k => { k with retired := k.retired + 1, killed := k.killed || t.killed }
    s.taskCheck t.part i
  | none => s

/-- VRS blocks of a context going back to its team's pool (R20, R53). -/
def State.giveBlocks (s : State) (id : CtxId) (n : Nat) : State :=
  let c := s.ctx id
  let s := s.modTeamOf id fun t => { t with pool := t.pool.mapIdx fun i b => if i = c.vpool then b + n else b }
  s.modCtx id fun c => { c with vblocks := c.vblocks - n }

/-- A context no longer waits for VRS blocks (R234). -/
def State.leaveBlocks (s : State) (id : CtxId) : State :=
  s.modTeamOf id fun t => { t with vwait := t.vwait.filter fun w => !decide (w.1 = id) }

/-- Releasing a context's slot: blocks, tokens and late results go with it; the team retires with its last context (R44, R66, R69, R218). -/
def State.freeSlot (s : State) (id : CtxId) : State :=
  let c := s.ctx id
  let team := s.teamOf id
  let s := s.giveBlocks id c.vblocks
  let s := s.leaveBlocks id
  let s := { s.dropCtx id with
    longs := s.longs.filter fun l => !decide (l.dst = id)
    accesses := s.accesses.filter fun a => !decide (a.agent = id)
    faults := s.faults.map fun (f : FaultRec) => { f with waiters := f.waiters.filter fun w => !waiterIs id c.team w } }
  let s := s.noteEmpty id.cl
  match team with
  | some t => if (s.teamCtxs t).isEmpty then s.retireTeam ((s.team t.cl t.num).getD t) else s
  | none => s

/-! ### Groups: masks, join, split, re-fuse (R42 to R48) -/

/-- Writing back and emptying the L1 banks of pipes base to base + w − 1 (R39, R46). The writes and the reductions that have left the banks are performed:
whoever uses them next comes after them (R136, R142). (DESIGN CHOICE, log 59) -/
def State.emptyBanks (s : State) (cl base w : Nat) : State :=
  let s := s.flushLines false fun l => decide (l.cl = cl ∧ base ≤ l.pipe ∧ l.pipe < base + w)
  let s := s.drainWrites fun x => decide (x.agent.cl = cl ∧ base ≤ x.pipe ∧ x.pipe < base + w)
  let s := s.drainReds fun x => decide (x.agent.cl = cl ∧ base ≤ x.agent.pipe ∧ x.agent.pipe < base + w)
  { s with l1i := s.l1i.filter fun l => !decide (l.cl = cl ∧ base ≤ l.pipe ∧ l.pipe < base + w) }

/-- The contexts of a group's slot that belong to the group. -/
def inGroup (g : Group) (c : Ctx) : Bool := decide (c.id.cl = g.cl ∧ c.id.slot = g.slot ∧ c.grp = some g.base)

/-- Setting the active mask of a group: members outside it are Held (R34, R40). -/
def State.setMask (s : State) (g : Group) (lm : BitVec 16) : State :=
  let s := s.setGroup { g with lm := lm }
  { s with ctxs := s.ctxs.map fun (c : Ctx) =>
      if inGroup g c && decide (c.id.pipe ≠ g.base) && g.members.getLsbD (c.id.pipe - g.base) then
        { c with st := if lm.getLsbD (c.id.pipe - g.base) then .ready else .held }
      else c }

/-- The end of a group: every slot of it is released (R44). (DEDUCED, log 14) -/
def State.endGroup (s : State) (g : Group) : State :=
  let ids := (s.ctxs.filter (inGroup g)).map Ctx.id
  let s := s.dropGroup g
  let s := { s with ctxs := s.ctxs.map fun (c : Ctx) => if ids.contains c.id then { c with grp := none } else c }
  ids.foldl State.freeSlot s

/-- `join` at the top entry, and what follows while the mask is empty (R43, R44): the group, and its next pc, none where it ends. -/
def joinTop : Nat → Group → Group × Option Word
  | 0, g => (g, none)
  | n + 1, g => match g.stack with
    | [] => (g, none)
    | e :: r =>
      if e.phaseN then
        let g := { g with lm := e.taken ||| e.pend, stack := r }
        if g.lm = 0 then joinTop n g else (g, some (e.j + 4))
      else
        let g := { g with lm := e.pend, stack := { e with phaseN := true } :: r }
        if g.lm = 0 then joinTop n g else (g, some e.pendPc)

/-- The group passes the join of its top entry; a reconvergence point is a `fence.full` of the group (R43, R124, R136). -/
def State.passJoin (s : State) (g : Group) : State :=
  match joinTop 10 g with
  | (g', some pc) =>
    let s := s.setMask g' g'.lm
    let s := s.settleLate fun t => decide (t.agent.cl = g.cl ∧ t.agent.slot = g.slot)
    let s := s.raisePts ⟨g.cl, g.base, g.slot⟩ .grp
    s.modCtx ⟨g.cl, g.base, g.slot⟩ fun c => { c with pc := pc, st := .ready, woken := false, arrived2 := false }
  | (_, none) => s.endGroup g

/-- Where the stack will next run a held lane (R46). -/
def heldPc (dflt : Word) (lane : Nat) : List DivEntry → Word
  | [] => dflt
  | e :: r =>
    if !e.phaseN && e.pend.getLsbD lane then e.pendPc
    else if e.phaseN && e.taken.getLsbD lane then e.j + 4
    else heldPc dflt lane r

/-- Split (R46): the lanes of the active mask run alone from the pcs given, the others are Held; all get the record. A `fence.full` of the group comes before it,
and every lane takes the group's timestamps (R125, R136). (DEDUCED, log 17) -/
def State.split (s : State) (g : Group) (pcs : CtxId → Word) : State :=
  let lead : CtxId := ⟨g.cl, g.base, g.slot⟩
  let s := s.settleLate fun t => decide (t.agent = lead)
  let s := ((s.emptyBanks g.cl g.base g.width).raisePts lead .grp).leaveBlocks lead
  let l := s.ctx lead
  let uni := s.longs.filter fun x => decide (x.dst = lead) && match x.dest with
    | .g r => decide (16 ≤ r.val)
    | .p _ => false
  let others := (g.ids g.members).filter fun i => decide (i ≠ lead)
  let s := { s with longs := s.longs ++ others.flatMap fun i => uni.map fun (x : Long) => { x with dst := i } }
  let rec_ : Record := { stack := g.stack, base := g.base, width := g.width, members := g.members, a := g.lm }
  { s.dropGroup g with ctxs := s.ctxs.map fun (c : Ctx) =>
      if (inGroup g c) then
        let k := c.id.pipe - g.base
        let act := g.lm.getLsbD k
        { c with
          grp := none, rcd := some rec_, woken := false, arrived2 := false
          g := Vector.ofFn fun i => (if 16 ≤ i.val then l.g[i] else c.g[i])
          pc := if act then pcs c.id else heldPc l.pc k g.stack
          st := if act then .ready else if g.members.getLsbD k then .held else .exited
          pts := l.pts, mts := l.mts, vis := l.vis, fixedW := l.fixedW }
      else c }

/-- The contexts that hold a record of the same group. -/
def inRecord (cl slot base : Nat) (c : Ctx) : Bool :=
  decide (c.id.cl = cl ∧ c.id.slot = slot) && match c.rcd with
    | some r => decide (r.base = base)
    | none => false

/-- Greatest of a number over contexts. -/
def maxOf (f : Ctx → Nat) (l : List Ctx) : Nat := (l.map f).foldl max 0

/-- The greatest timestamps of contexts, for the group that they form (R125). -/
def visMax (l : List Ctx) : Vis where
  hb := maxOf (fun c => c.vis.hb) l
  own := maxOf (fun c => c.vis.own) l
  obsC := maxOf (fun c => c.vis.obsC) l
  obsD := maxOf (fun c => c.vis.obsD) l
  relC := maxOf (fun c => c.vis.relC) l
  relD := maxOf (fun c => c.vis.relD) l

/-- Re-fuse (R48): the group of the record, with the waiting lanes active, passes the join. -/
def State.refuse (s : State) (cl slot : Nat) (r : Record) : State :=
  let lead : CtxId := ⟨cl, r.base, slot⟩
  let g : Group := { cl := cl, base := r.base, slot := slot, width := r.width, members := r.members, lm := r.a, stack := r.stack }
  let mine := s.ctxs.filter (inRecord cl slot r.base)
  let src := ((g.ids r.a).head?).getD lead
  let uni := (s.ctx src).g
  let s := s.settleLate fun t => decide (t.agent.cl = cl ∧ t.agent.slot = slot ∧ r.base ≤ t.agent.pipe ∧ t.agent.pipe < r.base + r.width)
  let s := s.emptyBanks cl r.base r.width
  let mine := s.ctxs.filter (inRecord cl slot r.base)
  let s := { s with
    groups := s.groups ++ [g]
    ctxs := s.ctxs.map fun (c : Ctx) => if inRecord cl slot r.base c then
      { c with
        grp := some r.base, rcd := none
        g := if c.id = lead then Vector.ofFn fun i => if 16 ≤ i.val then uni[i] else c.g[i] else c.g
        pts := max (maxOf Ctx.pts mine) (maxOf Ctx.mts mine), mts := maxOf Ctx.mts mine, vis := (visMax mine).acquired .grp }
      else c }
  s.passJoin g

/-- The record's group re-fuses when every lane of A that is left waits at the join; with no member left it ends (R48, R44). -/
def State.checkRefuse (s : State) (cl slot base : Nat) : State :=
  let mine := s.ctxs.filter (inRecord cl slot base)
  match mine.findSome? Ctx.rcd with
  | none => s
  | some r =>
    if r.members = 0 then (mine.map Ctx.id).foldl State.freeSlot s
    else if r.stack.isEmpty then s
    else
      let waits := fun (c : Ctx) => match c.st with
        | .waiting .joinAt _ => true
        | _ => false
      if (mine.filter fun c => r.a.getLsbD (c.id.pipe - base)).all waits then s.refuse cl slot r else s

/-- A lane leaves every mask of its record (R44, R48). -/
def leaveRecord (bit : BitVec 16) (r : Record) : Record :=
  { r with
    members := r.members &&& ~~~bit, a := r.a &&& ~~~bit
    stack := r.stack.map fun e => { e with pend := e.pend &&& ~~~bit, taken := e.taken &&& ~~~bit } }

/-- The active lanes of a fused group end (R44). (DEDUCED, log 14; DEDUCED, log 17) -/
def State.endLanes (s : State) (g : Group) : State :=
  let gone := g.lm
  let g' := { g with
    members := g.members &&& ~~~gone, lm := 0
    stack := g.stack.map fun e => { e with pend := e.pend &&& ~~~gone, taken := e.taken &&& ~~~gone } }
  let s := { s with ctxs := s.ctxs.map fun (c : Ctx) =>
      if (inGroup g c) && decide (c.id.pipe ≠ g.base) && gone.getLsbD (c.id.pipe - g.base) then { c with st := .exited } else c }
  (s.setGroup g').passJoin g'

/-- A context ends, by `exit` or by a kill: it leaves its record, and its slot is released unless it leads the record (R44, R48, R218). The
leader of a group that handles the group's ECALL (R50) leaves the group as its one active lane. -/
def State.endContext (s : State) (id : CtxId) : State :=
  match s.groupOf id, (s.ctx id).rcd with
  | some g, _ => s.endLanes { g with lm := laneBit (id.pipe - g.base) }
  | none, none => s.freeSlot id
  | none, some r =>
    let bit := laneBit (id.pipe - r.base)
    let s := { s with ctxs := s.ctxs.map fun (c : Ctx) => if inRecord id.cl id.slot r.base c then { c with rcd := c.rcd.map (leaveRecord bit) } else c }
    let s := if id.pipe = r.base then s.modCtx id fun c => { c with st := .exited } else s.freeSlot id
    s.checkRefuse id.cl id.slot r.base

/-! ### Failure of a start (R463, R469, R474) -/

/-- A start fails: every die but IOD-S is reset and a new start begins; the failure counter and REASON are kept (R463, R474), and what IOD-S holds: the
host functions with their events, the CXL link, the peer table, the error log. The measurement stays
until the next phase 4, but a start that fails before its own leaves zeros (R466). (DESIGN CHOICE, log 113) -/
def State.failStart (s : State) (reason : Nat) : State :=
  { State.reset with
    freeCtr := s.freeCtr, inbox := s.inbox, gtime := s.gtime, mem := s.mem, errlog := s.errlog, corrected := s.corrected, retired := s.retired
    events := s.events, reserve := s.reserve, evHeld := s.evHeld, lostn := s.lostn, evOut := s.evOut, responses := s.responses, features := s.features
    cxl := s.cxl, cxlHidden := s.cxlHidden, lto := s.lto, peers := s.peers, lost := s.lost, msgOut := s.msgOut, peerOut := s.peerOut
    poison := s.poison
    meas := if s.boot.phase < 4 then State.reset.meas else s.meas
    boot := { fails := s.boot.fails, reason := reason, cxl := s.boot.cxl } }

/-! ### Kill (R389, R390) -/

/-- A cluster without the vector commands that the test picks: the lane groups bound to a head that goes are free, and an entry of the SFU queue
goes with its head (R257, R273). -/
def dropVq (f : VCmd → Bool) (k : Cluster) : Cluster :=
  let heads := (List.range 16).filter fun p => match k.vq.find? fun v => decide (v.pipe = p) with
    | some v => f v
    | none => false
  { k with
    vq := k.vq.filter fun v => !f v
    lanes := k.lanes.filter fun p => !heads.contains p
    sfuq := k.sfuq.filter fun e => match e with
      | .scalar _ _ _ _ => true
      | .vec p => !heads.contains p }

/-- The commands of a context stop, with their arrivals and ring releases; the phase carries KILL and VA 0 (R257, R273, R292, R390). (DEDUCED, log 63) -/
def State.killEngines (s : State) (id : CtxId) (team : Option Nat) : State :=
  let mineB := fun (b : Behalf) => decide (b.ctx = id ∧ b.team = team)
  let err := some (errWord cKILL 0)
  let s := { s with faults := s.faults.map fun (f : FaultRec) => { f with waiters := f.waiters.filter fun w => !engineIs id team w } }
  let k := s.cluster id.cl
  let vs := k.vq.filter fun v => mineB v.by_
  let ms := (k.quads.flatMap Quad.queue).filter fun m => mineB m.by_
  let cs := s.copies.filter fun c => mineB c.by_
  let s := s.modCluster id.cl fun k => { dropVq (fun v => mineB v.by_) k with
    quads := k.quads.map fun q => { q with queue := q.queue.filter fun m => !mineB m.by_ } }
  let s := s.modCluster id.cl (sfuDrop fun i => decide (i = id))
  let s := { s with copies := s.copies.filter (fun c => !mineB c.by_), reds := s.reds ++ vs.flatMap fun (v : VCmd) => v.work.flatMap VPart.pend }
  let s := if s.reds.any fun r => decide (r.agent = id) && r.loose then s.applyReds id else s
  let s := vs.foldl (fun s v => match v.oc with
    | some o => (s.signalDone v.by_ v.sig err).ocDone o
    | none => s.signalDone v.by_ v.sig err) s
  let s := ms.foldl (fun s m => (s.signalDone m.by_ (if m.arv then m.sig else { m.sig with bar := none }) err).ocDone m.oc) s
  let s := cs.foldl (fun s c => (s.ringRelease c.by_ c.ring).ocDone c.oc) s
  (s.colls.filter fun (c : Coll) => mineB c.by_).foldl (fun (s : State) c => s.abortInst c 0x14) s

/-- The kill record of a context (R389). -/
def State.killWords (s : State) (stamp : Nat) (c : Ctx) (cause status : Nat) (val pc : Word) : List Word :=
  let t := s.teamOf c.id
  let teamNo := (c.team).getD 0xFF
  let task := (t.bind Team.task).getD 0xFFFF
  [BitVec.ofNat 64 stamp,
   BitVec.ofNat 64 (s.logical c.id.cl + c.id.pipe * 2 ^ 16 + c.id.slot * 2 ^ 24 + teamNo * 2 ^ 32 + cKILL * 2 ^ 40 + task * 2 ^ 48),
   BitVec.ofNat 64 (cause + status * 256), val, pc, c.domain.setWidth 64,
   c.b1.epc, c.b1.ecause, c.b1.eval, c.b1.estat, c.b2.epc, c.b2.ecause, c.b2.eval, c.b2.estat, 0, 0]

/-- The event of a kill (R455). -/
def State.killEvent (s : State) (part : Nat) (r : KillRec) : Event :=
  let w := (r.words[1]?).getD 0
  { fn := part + 1, kind := 1, gtime := s.gtime
    d0 := BitVec.ofNat 64 (wfld w 48 16 + wfld w 0 16 * 2 ^ 16 + wfld w 16 8 * 2 ^ 32 + wfld w 24 8 * 2 ^ 40), d1 := 0 }

/-- The kill queue and the event queue have room for the record (R390 step 5, R455). -/
def State.killRoom (s : State) (r : KillRec) : Bool :=
  decide ((s.kills.filter fun k => decide (k.part = r.part)).length < 256) && s.eventRoom (s.killEvent r.part r)

/-- The last step of a kill: the record joins the kill queue, and the slot is released (R390). (DEDUCED, log 63) -/
def State.appendKill (s : State) (id : CtxId) (r : KillRec) : State :=
  ({ s with kills := s.kills ++ [r] }.raiseEvent (s.killEvent r.part r)).endContext id

/-- Kill (R390). (DEDUCED, log 63) -/
def State.kill (s : State) (id : CtxId) (cause status : Nat) (val pc : Word) : State :=
  let c := s.ctx id
  let (t, s) := s.readGtime c.id.cl
  let words := s.killWords t c cause status val pc
  let s := { s with
    longs := s.longs.filter fun l => !decide (l.dst = id)
    accesses := s.accesses.filter fun a => !decide (a.agent = id)
    scops := s.scops.filter fun o => !decide (o.agent = id) }
  let s := s.killEngines id c.team
  let s := s.modCtx id fun c => { c with st := .dead, tokens := [], poison := none }
  let s := s.giveBlocks id c.vblocks
  let status := errWord cKILL (s.logical id.cl * 256 + id.pipe * 4 + id.slot)
  let s := s.modTeamOf id fun t => { t with bars := t.bars.map (barrierBreak status), killed := true }
  match s.partOf id.cl with
  | none => s.endContext id
  | some p =>
    let r : KillRec := { part := p.num, words := words }
    if s.killRoom r then s.appendKill id r else { s with killWait := s.killWait ++ [(id, r)] }

/-! ### Traps (R182, R382 to R385) -/

/-- The banked registers of a level (R182). -/
def Ctx.bank (c : Ctx) (l : Nat) : Bank := if l = 1 then c.b1 else c.b2
def Ctx.setBank (c : Ctx) (l : Nat) (b : Bank) : Ctx := if l = 1 then { c with b1 := b } else { c with b2 := b }

/-- Address of the handler of level L (R382). -/
def handlerPc (tvec : Word) (l : Nat) : Word := BitVec.ofNat 64 (wfld tvec 16 40 * 2 ^ 16 + (if l = 1 then 0 else 0x100))

/-- log2 of the width of the context's group (R182, R383). -/
def State.wlog (s : State) (id : CtxId) : Nat := match s.groupOf id with
  | some g => Nat.log2 g.width
  | none => 0

/-- ESTAT at a trap (R383). -/
def estatOf (c : Ctx) (grp fdefer : Bool) (wlog : Nat) : Word :=
  BitVec.ofNat 64 (privNum c.priv + (if grp then 4 else 0) + (if c.rcd.isSome then 8 else 0) + c.lane % 16 * 16 + wlog % 8 * 256 +
    (if fdefer then 2048 else 0))

/-- The context as a trap leaves it (R385): banked state of level TL + 1, the handler's pc, privilege at least supervisor. -/
def trapCtx (c : Ctx) (cause status : Nat) (val pc estat : Word) (cycle : Nat) : Ctx :=
  let l := c.tl + 1
  let c' := c.setBank l { epc := pc, ecause := BitVec.ofNat 64 (cause + status * 256), eval := val, estat := estat }
  { c' with
    tl := l, priv := if c.priv = .user then .supervisor else c.priv, pc := handlerPc c.tvec l, st := .ready
    watch := cycle, woken := false, arrived2 := false, reformed := none }

/-- The deferred poison trap of a context: the poisoned VA of the earliest access (R384). -/
def State.poisonOf (s : State) (id : CtxId) : Option Word :=
  match (s.ctx id).poison with
  | some v => some v
  | none => (s.longs.find? fun l => decide (l.dst = id) && l.poisoned.isSome).bind Long.poisoned

/-- TakeTrap (R385): outstanding long results are written first (R180); a poison trap is taken in place of another (R384); a trap at
TL 2 kills (R390); in boot mode a trap stops the context and fails the start (R469). -/
def State.takeTrap (s : State) (id : CtxId) (cause status : Nat) (val pc : Word) (grp fdefer : Bool) : State :=
  if s.boot.mode then s.failStart 7
  else
    let (cause, status, val) := match s.poisonOf id with
      | some v => (cPROTECTION, 5, v)
      | none => (cause, status, val)
    let s := (s.deliverFor id).flushLongs id
    let s := { s with longs := s.longs.filter fun l => !decide (l.dst = id) }
    let s := (s.leaveBlocks id).modCtx id fun c => { c with poison := none }
    let c := s.ctx id
    if 2 ≤ c.tl then s.kill id cause status val pc
    else s.setCtx (trapCtx c cause status val pc (estatOf c grp fdefer (s.wlog id)) (s.cycle id.cl))

/-- MODE.UPB (R183). -/
def modeUpb (m : Word) : Bool := wb m 2

/-- An upcall (R68 steps 3 and 4): status 0, or 1 for the re-entry of R70. -/
def upcallCtx (c : Ctx) (tok status : Nat) (va pc : Word) : Ctx :=
  { c with
    epcu := pc, ecauseu := BitVec.ofNat 64 (cPAGE_FAULT + status * 256), evalu := va, uptok := BitVec.ofNat 6 tok
    mode := c.mode ||| 4, pc := instrPc c.upvec, st := .ready, woken := false, arrived2 := false, reformed := none }

/-- Taking an upcall; outstanding long results are written first, and a poison trap is taken in its place (R180, R384). -/
def State.takeUpcall (s : State) (id : CtxId) (tok status : Nat) (va pc : Word) (fdefer : Bool) : State :=
  match s.poisonOf id with
  | some _ => s.takeTrap id cPAGE_FAULT 0 va pc false fdefer
  | none =>
    let s := ((s.deliverFor id).flushLongs id).leaveBlocks id
    s.modCtx id fun c => upcallCtx c tok status va pc

/-- What a lane takes instead of the instruction's effect. -/
inductive Hit where
  | trap (cause status : Nat) (val : Word)
  | upcall (tok status : Nat) (va : Word)
deriving DecidableEq, Repr

/-- One context takes what hit it, at pc. -/
def State.takeHit (s : State) (id : CtxId) (h : Hit) (pc : Word) (fdefer : Bool) : State := match h with
  | .trap cause status val => s.takeTrap id cause status val pc false fdefer
  | .upcall tok status va => s.takeUpcall id tok status va pc fdefer

/-- After a switch marker, the contexts that have long results outstanding park until they are written (R36, R179). -/
def State.parkMarked (s : State) (sm : Bool) (ids : List CtxId) : State :=
  if sm then ids.foldl (fun s i => if s.mustPark i then s.modCtx i fun c => { c with st := .parked .results } else s) s else s

/-- The same for an agent whose active mask the instruction has changed: it waits for the lanes that were active, too (R179). -/
def State.parkOwed (s : State) (sm : Bool) (id : CtxId) (were : List CtxId) : State :=
  if sm then
    let s' := s.modCtx id fun c => { c with owed := were }
    if s'.mustPark id then s'.modCtx id fun c => { c with st := .parked .results } else s
  else s

/-- R49: the instruction at pc of the agent hit some lanes; the other active lanes have its effect and go on at their next pcs. (DESIGN CHOICE, log 44) -/
def State.hitLanes (s : State) (agent : CtxId) (hits : List (CtxId × Hit)) (nexts : CtxId → Word) (fdefer sm : Bool) : State :=
  let pc := (s.ctx agent).pc
  match s.groupOf agent with
  | none => hits.foldl (fun s h => s.takeHit h.1 h.2 pc fdefer) s
  | some g =>
    let good := (g.ids g.lm).filter fun i => !hits.any fun h => decide (h.1 = i)
    let s := s.split g fun i => if hits.any fun h => decide (h.1 = i) then pc else nexts i
    let s := hits.foldl (fun s h => s.takeHit h.1 h.2 pc fdefer) s
    s.parkMarked sm good

/-- The deferred poison traps of the active lanes (R384). -/
def State.poisonHits (s : State) (agent : CtxId) : List (CtxId × Hit) :=
  (s.lanes agent).filterMap fun i => (s.poisonOf i).map fun v => (i, Hit.trap cPROTECTION 5 v)

/-- Free values for lanes: what a trap banks in EVAL where the manual states nothing for its cause. -/
def State.freeHits (s : State) (cause : Nat) : List CtxId → List (CtxId × Hit) × State
  | [] => ([], s)
  | i :: r =>
    let (v, s) := s.freshFree
    let (l, s) := s.freeHits cause r
    ((i, .trap cause 0 v) :: l, s)

/-- The hits of lanes with a cause of their own each, EVAL open. (DESIGN CHOICE, log 44) -/
def State.causeHits (s : State) (f : CtxId → Option Nat) : List CtxId → List (CtxId × Hit) × State
  | [] => ([], s)
  | i :: r => match f i with
    | none => s.causeHits f r
    | some cause =>
      let (v, s) := s.freshFree
      let (l, s) := s.causeHits f r
      ((i, .trap cause 0 v) :: l, s)

/-- The same trap in every active lane of the issuing agent (R41, R49). -/
def State.trapAll (s : State) (cause status : Nat) (val : Word) : State :=
  s.hitLanes s.cur ((s.lanes s.cur).map fun i => (i, .trap cause status val)) (fun _ => 0) false false

/-- A trap of every active lane whose cause has no EVAL of its own (R49): EVAL is open. (DESIGN CHOICE, log 44) -/
def State.trapOpen (s : State) (cause : Nat) : State :=
  let (h, s) := s.freeHits cause (s.lanes s.cur)
  s.hitLanes s.cur h (fun _ => 0) false false

/-- A trap in every active lane, with a cause of its own each (R49). (DESIGN CHOICE, log 44) -/
def State.trapEachOpen (s : State) (f : CtxId → Nat) : State :=
  let (h, s) := s.causeHits (fun i => some (f i)) (s.lanes s.cur)
  s.hitLanes s.cur h (fun _ => 0) false false

/-- Traps in some lanes of the issuing agent; the others go on at the next word. (DESIGN CHOICE, log 44) -/
def State.trapSome (s : State) (hits : List (CtxId × Hit)) (sm : Bool) : State :=
  s.hitLanes s.cur hits (fun _ => (s.ctx s.cur).pc + 4) false sm

/-- How a page fault of a context is delivered (R68, R479): an upcall with its token, or a trap. (DEDUCED, log 42) -/
def State.faultDelivery (s : State) (id : CtxId) (part va reason : Nat) : Option Nat :=
  let c := s.ctx id
  if c.priv = .user ∧ c.tl = 0 ∧ c.upvec ≠ 0 ∧ modeUpb c.mode = false then
    match s.heldToken part va reason c with
    | some t => some t
    | none => freeToken c
  else none

/-- The token is in use from now on (R68, R69). (DEDUCED, log 42) -/
def useToken (t va : Nat) (c : Ctx) : Ctx :=
  { c with tokens := c.tokens.filter (fun k => decide (k.t ≠ t)) ++ [{ t := t, va := va, status := none }] }

/-! ### Return from a trap (R385) -/

def privOf (n : Nat) : Option Priv := match n with
  | 0 => some .user
  | 1 => some .supervisor
  | 2 => some .machine
  | _ => none

/-- The state that `eret` restores, where it raises no trap (R385). (DEDUCED, log 12) -/
def eretCtx (c : Ctx) (pp : Priv) (cycle : Nat) : Ctx :=
  let b := c.bank c.tl
  { c with
    pc := instrPc b.epc + (if wfld b.ecause 0 8 = cECALL then 4 else 0), priv := pp, tl := c.tl - 1, watch := cycle
    st := .ready, woken := false, arrived2 := false }

end Sys2Proof.Machine
end

