-- ==== Sys2Proof/Machine/Operands.lean ====
section
/-! DEFINITION. Sys2Proof/Machine/Operands.lean: the operand forms of instruction words (spec/06 R173, R174; spec/07 R198, R201, R203) and
the shapes that scalar instructions share: a fixed or a long result in every active lane, and what a trap of some lanes leaves of it. -/

namespace Sys2Proof.Machine

/-- IMM15 (R173). -/
def immI (i : BitVec 15) : Word := i.signExtend 64

/-- The immediate of CMPI (R201). -/
def immC (i : BitVec 14) : Word := i.signExtend 64

/-- Target of a branch or jump: the address of the branch plus four times the offset (R173). -/
def targetPc {n : Nat} (pc : Word) (o : BitVec n) : Word := pc + 4 * o.signExtend 64

/-- The value of `lih` (R201). -/
def lihVal (h : Fin 16) (v : BitVec 16) : Word := v.setWidth 64 <<< (4 * h.val)

/-- The value of `adpc` (R201). -/
def adpcVal (pc : Word) (i : BitVec 20) : Word := pc + (i.signExtend 64) <<< 14

/-- Bytes of an access by W (R174). -/
def accBytes (w : Nat) : Nat := match w / 2 with
  | 0 => 1
  | 1 => 2
  | 2 => 4
  | _ => 8

/-- The width sign-extends: b, h and w (R174). -/
def accSigned (w : Nat) : Bool := w % 2 == 0

/-- The address of format M (R173). -/
def memAddr (a : Word) (w : Nat) (o : BitVec 10) : Word := a + BitVec.ofNat 64 (accBytes w) * o.signExtend 64

/-- f32 or f64, by the t field (R204). -/
def fpFmt (t : Bool) : FFmt := if t then .f64 else .f32

/-- The operand code of a register (R203). -/
def fpCode (f : FFmt) (w : Word) : Nat := w.toNat % 2 ^ f.width

/-! ### Results in every active lane -/

/-- The value of every active lane. -/
def State.laneVals (s : State) (f : CtxId → Word) : List (CtxId × Word) := (s.lanes s.cur).map fun i => (i, f i)

/-- A fixed instruction (R178): its destination is written at issue. (DEDUCED, log 10) -/
def State.fixedR (s : State) (sm : Bool) (d : Reg) (f : CtxId → Word) : State := (s.wgs d (s.laneVals f)).retire sm

/-- A fixed instruction with a predicate destination. -/
def State.fixedP (s : State) (sm : Bool) (n : PReg) (f : CtxId → Bool) : State :=
  (s.wps n ((s.lanes s.cur).map fun i => (i, f i))).retire sm

/-- A long instruction (R178): its destination is written later. (DEDUCED, log 10; DEDUCED, log 16) -/
def State.longR (s : State) (sm : Bool) (d : Reg) (f : CtxId → Word) : State := (s.addLongs d (s.laneVals f)).retire sm

/-- A long instruction with a predicate destination. -/
def State.longP (s : State) (sm : Bool) (n : PReg) (f : CtxId → Bool) : State :=
  (s.addLongPs n ((s.lanes s.cur).map fun i => (i, f i))).retire sm

/-- A long instruction that some lanes trap on with the EVAL given: the others have their results (R49). (DESIGN CHOICE, log 136) -/
def State.longTrap (s : State) (sm : Bool) (d : Reg) (cause : Nat) (bad : CtxId → Option Word) (f : CtxId → Word) : State :=
  let ls := s.lanes s.cur
  let hits := ls.filterMap fun i => (bad i).map fun v => (i, Hit.trap cause 0 v)
  if hits.isEmpty then s.longR sm d f
  else (s.addLongs d ((ls.filter fun i => (bad i).isNone).map fun i => (i, f i))).trapSome hits sm

/-- A long instruction that some lanes trap on with a cause that has no EVAL of its own (R49). (DESIGN CHOICE, log 136) -/
def State.longTrapOpen (s : State) (sm : Bool) (d : Reg) (cause : Nat) (bad : CtxId → Bool) (f : CtxId → Word) : State :=
  let ls := s.lanes s.cur
  if ls.any bad then
    let (h, s) := s.freeHits cause (ls.filter bad)
    (s.addLongs d ((ls.filter fun i => !bad i).map fun i => (i, f i))).trapSome h sm
  else s.longR sm d f

/-- A result that the group's instruction gives once, in every active lane's destination (R41). -/
def State.longOnce (s : State) (sm : Bool) (d : Reg) (v : Word) : State := s.longR sm d fun _ => v

/-! ### Pages that are not translated (R68, R330, R422 to R424) -/

/-- The fault records and the hits of lanes whose access of a kind cannot be translated; none where no record is free. -/
def State.pageHits (s : State) (p : Partition) (va reason : Nat) (kind : BitVec 4) : List CtxId → Option (List (CtxId × Hit) × State)
  | [] => some ([], s)
  | i :: r =>
    let v := BitVec.ofNat 64 va
    match (if (s.poisonOf i).isSome then none else s.faultDelivery i p.num va reason) with
    | none => (s.pageHits p va reason kind r).map fun q => ((i, .trap cPAGE_FAULT 0 v) :: q.1, q.2)
    | some t => match s.ctxFault p.num va reason kind (s.ctx i) t with
      | none => none
      | some s => ((s.modCtx i (useToken t va)).pageHits p va reason kind r).map fun q => ((i, .upcall t 0 v) :: q.1, q.2)

/-- An instruction's own access to a page that is not translated: the trap or the upcall in every active lane; with no record free the group waits
at the instruction (R68, R424). -/
def State.pageTrap (s : State) (va reason : Nat) (kind : BitVec 4) : State := match s.partOf s.cur.cl with
  | none => s.trapAll cPROTECTION 0 (BitVec.ofNat 64 va)
  | some p => match s.pageHits p va reason kind (s.lanes s.cur) with
    | none => s.stay (.parked (.room .record))
    | some (hits, s) => s.hitLanes s.cur hits (fun _ => 0) false false

/-- A unit's fetch for an instruction: in a fused group the unit enters the fault and the group waits for the page; a single context takes its
trap or upcall (R330). -/
def State.unitFault (s : State) (va reason : Nat) (write : Bool) : State :=
  if s.isFused s.cur then
    (s.engineFault (((s.partOf s.cur.cl).map Partition.num).getD 0) va reason write (s.behalf (s.ctx s.cur))).waitFor (.page va reason)
  else s.pageTrap va reason (if write then 2 else 1)

/-- The instruction whose page's service posted NOMEM: PAGE_FAULT with STATUS 1 in every active lane (R330). -/
def State.pageNomemTrap (s : State) (va : Nat) : State :=
  (s.modCtx s.cur fun c => { c with pageNomem := none }).trapAll cPAGE_FAULT 1 (BitVec.ofNat 64 va)

end Sys2Proof.Machine
end

