-- ==== Sys2Proof/Machine/Access.lean ====
section
/-! DEFINITION. Sys2Proof/Machine/Access.lean: scalar loads, stores, atomics, reductions and prefetches on their way from issue to their check
point (spec/04 R102 to R115, R121, R122, R128 to R130; spec/05 R142, R147, R156; spec/06 R180; spec/07 R209; spec/14 R410, R411, R418,
R419, R422 to R424). -/

namespace Sys2Proof.Machine

/-! ### What an operation asks -/

def MemOp.bytes : MemOp → Nat
  | .load n _ _ _ _ => n
  | .store n _ _ _ => n
  | .amo _ n _ _ _ _ _ => n
  | .red _ n _ _ _ => n
  | .prefetch _ => 1

def MemOp.need : MemOp → Need
  | .load _ _ _ _ _ => .read
  | .store _ _ _ _ => .write
  | .amo _ _ _ _ _ _ _ => .rmw
  | .red _ _ _ _ _ => .write
  | .prefetch _ => .read

def MemOp.isPf : MemOp → Bool
  | .prefetch _ => true
  | .load _ _ _ _ _ => false
  | .store _ _ _ _ => false
  | .amo _ _ _ _ _ _ _ => false
  | .red _ _ _ _ _ => false

/-- The operation reads what it accesses, for the context. -/
def MemOp.reads : MemOp → Bool
  | .load _ _ _ _ _ => true
  | .amo _ _ _ _ _ _ _ => true
  | .store _ _ _ _ => false
  | .red _ _ _ _ _ => false
  | .prefetch _ => false

def MemOp.isSc : MemOp → Bool
  | .amo _ _ _ _ _ _ o => o == .sc
  | .load _ _ _ _ _ => false
  | .store _ _ _ _ => false
  | .red _ _ _ _ _ => false
  | .prefetch _ => false

/-- An atomic or a reduction: through W0 alone (R115). -/
def MemOp.isRmw : MemOp → Bool
  | .amo _ _ _ _ _ _ _ => true
  | .red _ _ _ _ _ => true
  | .load _ _ _ _ _ => false
  | .store _ _ _ _ => false
  | .prefetch _ => false

def MemOp.isAmo : MemOp → Bool
  | .amo _ _ _ _ _ _ _ => true
  | .load _ _ _ _ _ => false
  | .store _ _ _ _ => false
  | .red _ _ _ _ _ => false
  | .prefetch _ => false

/-- KIND bits of a fault record (R422): read 1, write 2. -/
def MemOp.kind : MemOp → BitVec 4
  | .load _ _ _ _ _ => 1
  | .store _ _ _ _ => 2
  | .amo _ _ _ _ _ _ _ => 3
  | .red _ _ _ _ _ => 2
  | .prefetch _ => 1

/-- The acquire that follows the operation, with its scope. -/
def MemOp.acq : MemOp → Option Scope
  | .load _ _ _ _ a => a
  | .amo _ _ _ _ _ sc o => if orderAcquires o then some sc else none
  | .store _ _ _ _ => none
  | .red _ _ _ _ _ => none
  | .prefetch _ => none

/-- The release that precedes the operation, with its scope. That of a compare-and-swap takes effect only where it writes (R211): `MemOp.casRel`. -/
def MemOp.rel : MemOp → Option Scope
  | .store _ _ _ r => r
  | .amo _ _ _ _ _ sc o => if orderReleases o then some sc else none
  | .red _ _ _ sc o => if orderReleases o then some sc else none
  | .load _ _ _ _ _ => none
  | .prefetch _ => none

/-- The scope of the release of a compare-and-swap. -/
def MemOp.casRel : MemOp → Option Scope
  | .amo .cas _ _ _ _ sc o => if orderReleases o then some sc else none
  | _ => none

/-- The scope of a strong operation (R138). -/
def MemOp.strong : MemOp → Option Scope
  | .load _ _ _ _ a => a
  | .store _ _ _ r => r
  | .amo _ _ _ _ _ sc _ => some sc
  | .red _ _ _ sc _ => some sc
  | .prefetch _ => none

/-! ### Late writes of one lane -/

/-- The lane's result reaches the destination: a uniform one only from the lowest active lane (R40, R210). (DESIGN CHOICE, log 136) -/
def State.laneLong (s : State) (agent lane : CtxId) (d : Reg) (v : Word) (late : Option Late) : State :=
  if d = 0 then s
  else if 16 ≤ d.val ∧ lane ≠ s.lowest agent then s
  else { s with longs := s.longs ++ [{ dst := s.fileOf lane d, dest := .g d, val := v, late := late }] }

/-- A result whose data arrived poisoned: nothing is written, and the trap is deferred (R384). -/
def State.poisonLong (s : State) (lane : CtxId) (d : Reg) (va : Nat) : State :=
  { s with longs := s.longs ++ [{ dst := lane, dest := .g d, val := 0, poisoned := some (BitVec.ofNat 64 va) }] }

/-- A load or atomic meets poisoned data: before its check point it traps, after it the trap is deferred; which it is nothing says (R180, R384). -/
def State.meetPoison (s : State) (lane : CtxId) (va : Nat) (op : MemOp) : Stage × State :=
  let (f, s) := s.freshFree
  if f.getLsbD 0 then (.trapped cPROTECTION 4 (BitVec.ofNat 64 va), s)
  else match op with
    | .load _ _ d _ _ => (.passed none, s.poisonLong lane d va)
    | .amo _ _ _ _ d _ _ => (.passed none, s.poisonLong lane d va)
    | .store _ _ _ _ => (.passed none, s)
    | .red _ _ _ _ _ => (.passed none, s)
    | .prefetch _ => (.passed none, s)

/-! ### Local store and its windows (R110 to R115) -/

/-- Code of element e of a window, in the allocation that starts at `base` of the cluster's LS (R73, R113). -/
def State.winCode (s : State) (cl base win e : Nat) : Nat :=
  let rd := fun o => (Memory.read s.ls (lsKey cl (base + o))).toNat
  if winBits win = 4 then fld (rd (e / 2)) (4 * (e % 2)) 4
  else if winBits win = 16 then rd (2 * e) + 256 * rd (2 * e + 1)
  else rd e

/-- The metadata of element e: the scale byte, or the affine record as scale + 65536 · zero point (R113). -/
def State.winMetaAt (s : State) (cl base win : Nat) (wd : Word) (e : Nat) : Nat :=
  let m := winMeta win wd e
  let rd := fun o => (Memory.read s.ls (lsKey cl (base + o))).toNat
  if winScaled win then rd m else rd m + 256 * rd (m + 1) + 65536 * rd (m + 2)

/-- Exact value of element e of a window W1 to W7 (R86, R88). -/
def State.winVal (s : State) (cl base win : Nat) (wd : Word) (e : Nat) : Ex :=
  let code := s.winCode cl base win e
  if winScaled win then scaledVal (winFmt win) (s.winMetaAt cl base win wd e) code
  else if winAffine win then
    let m := s.winMetaAt cl base win wd e
    affineVal (m % 65536) (m / 65536) code
  else decodeFloat (winFmt win) code

/-- The largest code of an affine window (R89). -/
def winQmax (win : Nat) : Nat := if win = 5 then 15 else 255

/-- Code that a store of a value through W4 to W7 writes (R89, R114). -/
def State.winEnc (s : State) (cl base win : Nat) (wd : Word) (e : Nat) (x : Ex) : Nat :=
  if winAffine win then
    let m := s.winMetaAt cl base win wd e
    affineCode (winQmax win) (m % 65536) (m / 65536) x
  else roundTo (winFmt win) .rne false x

/-- Writing the code of element e of a window. -/
def State.winPut (s : State) (agent : CtxId) (cl base win e code : Nat) : State :=
  if winBits win = 4 then
    let o := base + e / 2
    let b := (Memory.read s.ls (lsKey cl o)).toNat
    let b' := if e % 2 = 0 then b / 16 * 16 + code % 16 else b % 16 + code % 16 * 16
    s.placeWrite (some agent) (.ls cl o) (leBytes 1 b')
  else if winBits win = 16 then s.placeWrite (some agent) (.ls cl (base + 2 * e)) (leBytes 2 code)
  else s.placeWrite (some agent) (.ls cl (base + e)) (leBytes 1 code)

/-- f32 code of element e. -/
def State.winF32 (s : State) (l : LsAt) (e : Nat) : Nat :=
  roundTo .f32 .rne false (s.winVal l.cl l.base l.win (wdAt l.wds l.win) e)

/-- The access goes through a window to elements of 1, 2, 4 or 8 bytes that the table of R114 does not serve. -/
def winPartial (win n : Nat) (store : Bool) : Bool :=
  if win = 0 then false
  else if win ≤ 3 then store || decide (n < 4)
  else if win ≤ 5 then decide (n < 4)
  else decide (n = 1)

/-- Stored size that a window access is aligned to (R114, R130). -/
def winAlign (win n : Nat) : Nat := if win = 0 then n else if 6 ≤ win then 2 else 1

/-- LS bytes that an access of n bytes through a window touches from its offset on. -/
def winSpan (win n : Nat) : Nat :=
  if win = 0 ∨ n < 4 then n
  else if winBits win = 4 then 1
  else (if n = 8 then 2 else 1) * (if 6 ≤ win then 2 else 1)

/-- The last element a window access of n bytes touches. -/
def winLast (win off n : Nat) : Nat := winElem win off + (if n = 8 then 1 else 0)

/-- The first byte of local store that an access through a window touches. -/
def lsFrom (l : LsAt) : Nat := if l.win = 0 then l.phys else l.base + winElem l.win l.off * winBits l.win / 8

/-- What stops an access to an LS byte that is found: a span beyond the allocation, or a window that is not configured (R109, R113). (DEDUCED, log 29) -/
def lsBad (w : Who) (l : LsAt) (n : Nat) : Option Nat :=
  if w.priv != .machine && l.size < l.off + winSpan l.win n then some 3
  else if l.win = 0 ∨ 6 ≤ l.win then none
  else match winBad l.win (wdAt l.wds l.win) l.size (winElem l.win l.off) with
    | some st => some st
    | none => winBad l.win (wdAt l.wds l.win) l.size (winLast l.win l.off n)

/-- A load through W1 to W7 (R114). -/
def State.winLoad (s : State) (l : LsAt) (n : Nat) (sext : Bool) : Word :=
  let e := winElem l.win l.off
  if n = 2 then extend 2 sext (s.winCode l.cl l.base l.win e)
  else if n = 4 then extend 4 sext (s.winF32 l e)
  else BitVec.ofNat 64 (s.winF32 l e + 2 ^ 32 * s.winF32 l (e + 1))

/-- A store through W4 to W7 (R114). -/
def State.winStore (s : State) (agent : CtxId) (l : LsAt) (n : Nat) (v : Nat) : State :=
  let e := winElem l.win l.off
  let wd := wdAt l.wds l.win
  let one := fun (s : State) (e x : Nat) =>
    s.winPut agent l.cl l.base l.win e (s.winEnc l.cl l.base l.win wd e (decodeFloat .f32 (x % 2 ^ 32)))
  if n = 2 then s.winPut agent l.cl l.base l.win e (v % 2 ^ 16)
  else if n = 4 then one s e v
  else one (one s e v) (e + 1) (v / 2 ^ 32)

/-- A write of the agent leaves for its place (R123, R147). -/
def State.sendWrite (s : State) (agent : CtxId) (p : Place) (data : List Byte) (k : WKind) : State :=
  let port := match p with
    | .mem _ pa => s.portTo pa
    | .ls _ _ => none
  { s with writes := s.writes ++ [({
      agent := agent, pipe := s.bankOf agent p, place := p, data := data, mask := byteMask 0 data.length, since := s.gtime, port := port
      kind := k } : PWrite)] }

/-- The release sequences of the bytes at a place, with the number of its first byte among them (R143). -/
def State.relsAt (s : State) : Place → List Rel × Nat
  | .mem _ pa => (s.homeRels (pa / 64), pa % 64)
  | .ls cl off => ((s.cluster cl).lsRels, off)

/-- The release of an atomic that writes: that of a compare-and-swap is left until its compare has succeeded (R211). -/
def State.relWhere (s : State) (agent : CtxId) (op : RmwOp) (rel : Option Scope) (writes : Bool) : State := match op, rel with
  | .cas, some sc => if writes && sc != .grp then s.releasePts agent sc else s
  | _, _ => s

/-- The VA of a far write of the group that has failed, where a compare-and-swap that is a release at SYS scope succeeds: it traps instead (R211, R458). -/
def State.casLost (s : State) (agent : CtxId) (op : RmwOp) (rel : Option Scope) (writes : Bool) : Option Word := match op, rel with
  | .cas, some .sys => if writes then (s.ctx (s.leader agent)).lostWrite else none
  | _, _ => none

/-- The WRITE_LOST event of a far write that has failed (R455, R458). -/
def State.lostEvent (s : State) (agent : CtxId) (va : Word) (peer : Nat) : State := match s.partOf agent.cl with
  | some p => s.raiseEvent { fn := p.num + 1, kind := 5, gtime := s.gtime, d0 := va, d1 := BitVec.ofNat 64 peer }
  | none => s

/-- A compare-and-swap at SYS scope that does not write is no release: the far write that has failed while it waited is reported as one for which no release
waits (R211, R458). -/
def State.casReport (s : State) (agent : CtxId) (op : RmwOp) (rel : Option Scope) (writes : Bool) : State :=
  let c := s.ctx (s.leader agent)
  match op, rel, writes, c.lostWrite with
  | .cas, some .sys, false, some v => (s.modCtx c.id fun c => { c with lostWrite := none }).lostEvent agent v c.lostTo
  | _, _, _, _ => s

/-- Writing the group's own line of an address back, performing the write, and dropping the line. -/
def State.evictOwn (s : State) (agent : CtxId) (va : Nat) : State :=
  match s.findLine agent (va / 64) with
  | none => s
  | some l => ((s.writeBack l).dropLine l).orderLine agent (l.line * 64) l.pa

/-- An atomic at the home slice or the LS bank (R128), after the group's dirty bytes of the line are written back. Its read takes the release sequence that it
finds (R144). (DEDUCED, log 27) -/
def State.homeRmw (s : State) (agent lane : CtxId) (p : Place) (op : RmwOp) (n : Nat) (v cmp : Word) (d : Reg) (sc : Scope)
    (rel : Option Scope) : Stage × State :=
  let s := match p with
    | .mem va _ => s.evictOwn agent va
    | .ls _ _ => s
  let s := s.orderOwn agent p n
  let writes := (rmwNew op n (leNat (s.placeRead p n)) v.toNat cmp.toNat).isSome
  match s.casLost agent op rel writes with
  | some w => (.trapped cPROTECTION 4 w, s.modCtx (s.leader agent) fun c => { c with lostWrite := none })
  | none =>
    let s := match p with
      | .mem _ pa => (s.renew agent pa).2
      | .ls _ _ => s
    let (l, lo) := s.relsAt p
    let s := ((s.takeRels agent sc l lo n).relWhere agent op rel writes).casReport agent op rel writes
    let (old, s) := s.placeRmw agent (s.wkind agent (some sc) true) p op n v.toNat cmp.toNat
    (.passed none, s.laneLong agent lane d (rmwOld op n old) none)

/-- Performing an access to LS that has passed its checks (R110, R128). -/
def State.lsPerform (s : State) (agent lane : CtxId) (l : LsAt) (op : MemOp) : Stage × State :=
  let p : Place := .ls l.cl l.phys
  let s := s.orderOwn agent p op.bytes
  match op with
  | .load n sext d _ acq =>
    let s := match acq with
      | some sc => s.takeRels agent sc (s.relsAt p).1 (s.relsAt p).2 n
      | none => s
    if l.win ≠ 0 then (.passed none, s.laneLong agent lane d (s.winLoad l n sext) none)
    else
      let v := extend n sext (leNat (s.placeRead p n))
      if acq.isSome then (.passed none, s.laneLong agent lane d v none)
      else
        let (f, s) := s.freshFree
        (.passed none, s.laneLong agent lane d v (if f.getLsbD 0 then some ⟨agent, p, n, sext⟩ else none))
  | .store n v _ rel =>
    let k := s.wkind agent rel false
    if l.win ≠ 0 then (.passed none, s.winStore agent l n v.toNat)
    else if l.cl = agent.cl then (.passed none, s.placeWriteAs (some agent) agent.pipe k p (leBytes n v.toNat))
    else (.passed none, s.sendWrite agent p (leBytes n v.toNat) k)
  | .amo op n v cmp d sc o =>
    if o = .sc then (.passed (some p), s)
    else s.homeRmw agent lane p op n v cmp d sc (if orderReleases o then some sc else none)
  | .red _ _ _ _ _ => (.passed (some p), s)
  | .prefetch _ => (.passed none, s)

/-! ### Paged memory: the L1 banks (R122, R124, R411) -/

/-- A line younger than the age that R126 lets it have. -/
def State.lineYoung (s : State) (l : L1Line) : Bool := decide ((s.cluster l.cl).ticks ≤ l.tick + 64)

/-- The lease of a line has ended, and the group may still use the line: R142 admits what the line holds, because no later write that the line has missed
is hb-before the load. R162, R163, R165 and R168 call outcomes allowed that need it. (DEDUCED, log 131) -/
def State.staleOk (s : State) (agent : CtxId) (l : L1Line) : Bool :=
  decide ((s.ctx (s.leader agent)).vis.hb ≤ l.lease) && !l.far

/-- A renewal of a line at its home slice (R124). A line that is not wholly valid takes the bytes that it lacks (R122). -/
def State.renewNow (s : State) (agent : CtxId) (l : L1Line) : L1Line × State :=
  let s := s.orderLine agent (l.line * 64) l.pa
  let ((wts, lease), s) := s.renew agent l.pa
  let l := { l with lease := lease, tick := (s.cluster agent.cl).ticks, rels := relsOut (s.homeRels (l.pa / 64)) l.dirty ++ relsIn l.rels l.dirty }
  let l' := if wts = l.wts ∧ l.far = false ∧ l.valid = BitVec.allOnes 64 then l
    else { l with data := maskBytes (Memory.readN s.mem l.pa 64) l.data l.dirty, valid := BitVec.allOnes 64, wts := wts }
  (l', s.putLine l')

/-- A hit on a line under R124: a renewal first where the lease has ended, or the line is older than R126 lets it be used, unless every byte is the bank's
own. A load of bytes of a dirty line that are not dirty renews it like those of a clean one. (DEDUCED, log 135) -/
def State.renewLine (s : State) (agent : CtxId) (l : L1Line) (va n : Nat) : L1Line × State :=
  if maskHas l.dirty (va % 64) n then (l, s.sawLine agent l)
  else if s.lineYoung l = false then s.renewNow agent l
  else if (s.ctx (s.leader agent)).pts ≤ l.lease then (l, s.sawLine agent l)
  else if s.staleOk agent l then
    let (f, s) := s.freshFree
    if f.getLsbD 0 then (l, s.sawLine agent l) else s.renewNow agent l
  else s.renewNow agent l

/-- Merging bytes into a line that is allocated or held (R122). (DESIGN CHOICE, log 24) -/
def State.mergeLine (s : State) (agent : CtxId) (va : Nat) (x : Xlat) (k : WKind) (data : List Byte) : State :=
  let line := va / 64
  let s := if (s.findLine agent line).isNone then s.makeRoom agent line else s
  let base : L1Line := match s.findLine agent line with
    | some l => l
    | none => {
        cl := agent.cl, pipe := s.bankPipe agent line, line := line, data := List.replicate 64 0, valid := 0, dirty := 0
        wts := 0, lease := 0, key := x.key, perm := permBits x, dset := true, far := x.far, pa := x.pa (line * 64)
        owner := s.leader agent, since := 0 }
  let base := { base with key := x.key, perm := permBits x, dset := true }
  s.putLine (storeLine base (s.leader agent) k (s.cycle agent.cl) (va % 64) data)

/-- Copies of the line in the other banks of the cluster are written back and invalidated, and what any of the cluster's banks has written back of it is
performed (R128, R141). -/
def State.evictOthers (s : State) (agent : CtxId) (line pa : Nat) : State :=
  let s := s.flushLines false fun l => decide (l.cl = agent.cl ∧ l.line = line) && !(s.bankLine agent l)
  s.drainWrites fun w => decide (w.agent.cl = agent.cl) && placesMeet w.place w.data.length (.mem (line * 64) pa) 64

/-- An atomic in the group's L1 (R128): the line is complete in the bank, and left dirty. At CLU scope it works on what the home slice holds under the bank's
own dirty bytes, since another bank of the cluster may have changed it. (DEDUCED, log 27) -/
def State.l1Rmw (s : State) (agent lane : CtxId) (va : Nat) (x : Xlat) (op : RmwOp) (n : Nat) (v cmp : Word) (d : Reg) (sc : Scope)
    (rel : Option Scope) : State :=
  let s := if sc = .clu then s.evictOthers agent (va / 64) (x.pa (va / 64 * 64)) else s
  let (l, s) := match s.findLine agent (va / 64) with
    | some l => if maskHas l.valid (va % 64) n && sc != Scope.clu then s.renewLine agent l va n else s.fillLine agent va x
    | none => s.fillLine agent va x
  let old := lineVal l va n
  let s := s.takeRels agent sc l.rels (va % 64) n
  let s := match rmwNew op n old v.toNat cmp.toNat with
    | some m =>
      let s := s.relWhere agent op rel true
      s.mergeLine agent va x (s.wkind agent (some sc) true) (leBytes n m)
    | none => s
  s.laneLong agent lane d (rmwOld op n old) none

/-- Bytes that the home slice returns, under the group's own dirty bytes (R122, `.byp`). -/
def State.homeUnderDirty (s : State) (agent : CtxId) (va pa n : Nat) : List Byte :=
  let home := Memory.readN s.mem pa n
  match s.findLine agent (va / 64) with
  | some l => home.mapIdx fun i b => if l.dirty.getLsbD (va % 64 + i) then (l.data[va % 64 + i]?).getD b else b
  | none => home

/-- The accessor's partition reaches the line through another VA too (R107). -/
def State.isAliased (s : State) (agent : CtxId) (va pa : Nat) : Bool := match s.partOf agent.cl with
  | some p => s.aliased p.num va pa
  | none => false

/-- A load of bytes whose value nothing states. -/
def State.freeLoad (s : State) (agent lane : CtxId) (d : Reg) (n : Nat) (sext : Bool) : Stage × State :=
  let (f, s) := s.freshFree
  (.passed none, s.laneLong agent lane d (extend n sext (f.toNat % 2 ^ (8 * n))) none)

/-- Performing an access whose translation is known and checked (R121, R122, R128). (DESIGN CHOICE, log 24; DEDUCED, log 27) -/
def State.pagedPerform (s : State) (agent lane : CtxId) (va : Nat) (op : MemOp) (x : Xlat) : Stage × State :=
  let pa := x.pa va
  let p : Place := .mem va pa
  let s := s.orderOwn agent p op.bytes
  let s := s.noteAgent (some agent) va pa x.w
  match op with
  | .load n sext d hint acq =>
    -- what an acquire takes from the release sequence of the bytes that it reads (R144)
    let takes := fun (s : State) (l : List Rel) => match acq with
      | some sc => s.takeRels agent sc l (va % 64) n
      | none => s
    let fromLine := fun (r : L1Line × State) =>
      let s := takes r.2 r.1.rels
      (Stage.passed none, s.laneLong agent lane d (extend n sext (lineVal r.1 va n)) none)
    let fromHome := fun (s : State) (bytes : List Byte) (late : Option Late) =>
      let s := (s.renew agent pa).2
      let s := takes s (s.homeRels (pa / 64))
      (Stage.passed none, s.laneLong agent lane d (extend n sext (leNat bytes)) late)
    if s.isAliased agent va pa then s.freeLoad agent lane d n sext
    else match s.findLine agent (va / 64) with
    | some _ =>
      if hint = 2 ∨ x.attr = 2 then fromHome s (s.homeUnderDirty agent va pa n) none else fromLine (s.fillLine agent va x)
    | none =>
      let (f, s) := s.freshFree
      if acq.isNone && f.getLsbD 0 then fromHome s (Memory.readN s.mem pa n) (some ⟨agent, p, n, sext⟩)
      else if x.attr = 0 ∧ hint = 0 then fromLine (s.fillLine agent va x)
      else fromHome s (Memory.readN s.mem pa n) none
  | .store n v hint rel =>
    let data := leBytes n v.toNat
    let k := s.wkind agent rel false
    if (s.findLine agent (va / 64)).isSome && x.attr != 2 then
      let s := s.mergeLine agent va x k data
      if hint = 2 then
        match s.findLine agent (va / 64) with
        | some l => (.passed none, (s.writeBack l).dropLine l)
        | none => (.passed none, s)
      else (.passed none, s)
    else if x.attr = 0 ∧ hint = 0 then (.passed none, s.mergeLine agent va x k data)
    else (.passed none, s.sendWrite agent p data k)
  | .amo op n v cmp d sc o =>
    let rel := if orderReleases o then some sc else none
    if o = .sc then (.passed (some p), s)
    else if x.attr ≠ 2 ∧ (sc = .grp ∨ sc = .clu) then (.passed none, s.l1Rmw agent lane va x op n v cmp d sc rel)
    else s.homeRmw agent lane p op n v cmp d sc rel
  | .red _ _ _ _ _ => (.passed (some p), s.evictOwn agent va)
  | .prefetch k => (.passed none, if k < 2 ∧ x.attr = 0 then (s.fillLine agent va x).2 else s)

/-! ### Stages (R180, R410, R416, R418, R419, R424, R458) -/

/-- An untranslatable access: in a pause of the cluster it is held (R393); a prefetch does nothing; a context takes an upcall with a fault record, or traps without one; with no record
free it is held (R68, R214, R424, R479). A lane with a deferred poison trap takes that trap, and makes no record (R384). (DEDUCED, log 34) -/
def State.faultStage (s : State) (lane : CtxId) (va : Nat) (op : MemOp) (reason : Nat) : Stage × State :=
  if op.isPf then (.passed none, s)
  else if (s.poisonOf lane).isSome then (.trapped cPAGE_FAULT 0 (BitVec.ofNat 64 va), s)
  else if s.paused lane.cl then (.heldFault reason, s)
  else match s.partOf lane.cl with
    | none => (.trapped cPROTECTION 0 (BitVec.ofNat 64 va), s)
    | some p => match s.faultDelivery lane p.num va reason with
      | none => (.trapped cPAGE_FAULT 0 (BitVec.ofNat 64 va), s)
      | some t =>
        let s := s.drainGroup (s.leader lane)
        match s.ctxFault p.num va reason op.kind (s.ctx lane) t with
        | some s => (.upcall t 0, s.modCtx lane (useToken t va))
        | none => (.heldFault reason, s)

/-- A check that fails: a trap, which a prefetch does not raise. -/
def trapStage (op : MemOp) (cause status va : Nat) : Stage :=
  if op.isPf then .passed none else .trapped cause status (BitVec.ofNat 64 va)

/-- What an access waits for once its page is found: the check point, or, outside region 0x0, the target's answer, which fails at once from a lost peer
(R458, R459). -/
def State.targetStage (s : State) (va : Nat) (op : MemOp) (x : Xlat) : Stage :=
  if x.far && op.reads then (if s.lostPeer (x.pa va) then trapStage op cPROTECTION 4 va else .remote x) else .check x

/-- What follows a translation (R418, R419, R458). (DEDUCED, log 22) -/
def afterXlat (lane : CtxId) (va : Nat) (op : MemOp) : Tr × State → Stage × State
  | (.noMap, s) => (trapStage op cPROTECTION 0 va, s)
  | (.absent, s) => s.faultStage lane va op reasonAbsent
  | (.malformed, s) => s.faultStage lane va op reasonMalformed
  | (.ok x, s) => match checkPage (whoOf (s.ctx lane)) op.need x with
    | .prot st => (trapStage op cPROTECTION st va, s)
    | .migrating => s.faultStage lane va op reasonMigrating
    | .ok =>
      if op.need ≠ .read ∧ x.d = false then (.setD x, s)
      else (s.targetStage va op x, s)

/-- The agent has set D, or has found the entry changed and probes again (R419). -/
def State.setDStage (s : State) (lane : CtxId) (va : Nat) (op : MemOp) (x : Xlat) : Stage × State :=
  match s.dirtySet (whoOf (s.ctx lane)) va x with
  | some (x', s) => (s.targetStage va op x', s)
  | none => (.probe, s)

/-- Passing the check point at the home slice: the access is performed, unless its data are found poisoned, before the check point or after it,
or its target is lost (R180, R384, R458). -/
def State.checkStage (s : State) (agent lane : CtxId) (va : Nat) (op : MemOp) (x : Xlat) : Stage × State :=
  let pa := x.pa va
  if s.lostPeer pa && op.reads then (.trapped cPROTECTION 4 (BitVec.ofNat 64 va), s)
  else if (s.poisonedAt pa op.bytes || (op.isRmw && ((s.findLine agent (va / 64)).map L1Line.bad).getD false)) && op.reads then s.meetPoison lane va op
  else (s.fillSlice (whoOf (s.ctx lane)) va x).pagedPerform agent lane va op x

/-- The access at the home slice: with the page in the slice's translation cache, or under the boot map, its translation is known at once
(R410, R469). -/
def State.homeStage (s : State) (lane : CtxId) (va : Nat) (op : MemOp) : Stage × State :=
  let w := whoOf (s.ctx lane)
  if s.usesBootMap w then
    match afterXlat lane va op (s.bootMap va, s) with
    | (.check x, s) => s.checkStage (s.leader lane) lane va op x
    | (.setD x, s) => s.checkStage (s.leader lane) lane va op x
    | r => r
  else match (s.partOf w.cl).bind fun p => s.sliceHit p.num va with
    | some (x, s) => afterXlat lane va op (.ok x, s)
    | none => if (s.partOf w.cl).isNone then (trapStage op cPROTECTION 0 va, s) else (.probe, s)

/-- A load, store or atomic that hits the group's L1 (R122, R411); none where it goes to the home slice. -/
def State.l1Stage (s : State) (agent lane : CtxId) (va : Nat) (op : MemOp) : Option (Stage × State) :=
  let w := whoOf (s.ctx lane)
  match s.findLine agent (va / 64) with
  | none => none
  | some l =>
    let prot := fun n => match checkLine w n l with
      | .prot st => some st
      | .ok => none
      | .migrating => none
    match op with
    | .load n sext d hint acq =>
      if hint = 2 ∨ maskHas l.valid (va % 64) n = false then none
      else match prot .read with
        | some st => some (.trapped cPROTECTION st (BitVec.ofNat 64 va), s)
        | none =>
          let s := s.orderOwn agent (.mem va (l.pa + va % 64)) n
          if s.isAliased agent va l.pa then some (s.freeLoad agent lane d n sext)
          else let (l, s) := s.renewLine agent l va n
          let s := match acq with
            | some sc => s.takeRels agent sc l.rels (va % 64) n
            | none => s
          if l.bad || (s.poisonedAt (l.pa + va % 64) n && !maskHas l.dirty (va % 64) n) then some (s.meetPoison lane va op)
          else some (.passed none, s.laneLong agent lane d (extend n sext (lineVal l va n)) none)
    | .store n v hint rel =>
      if (w.priv == .user && !l.perm.getLsbD 3) then some (.trapped cPROTECTION 2 (BitVec.ofNat 64 va), s)
      else if keyOk w l.key = false then some (.trapped cPROTECTION 1 (BitVec.ofNat 64 va), s)
      else if l.perm.getLsbD 1 = false ∨ l.dset = false then none
      else
        let s := s.orderOwn agent (.mem va (l.pa + va % 64)) n
        let l := storeLine l (s.leader agent) (s.wkind agent rel false) (s.cycle agent.cl) (va % 64) (leBytes n v.toNat)
        let s := s.putLine l
        some (.passed none, if hint = 2 then (s.writeBack l).dropLine l else s)
    | .amo _ _ _ _ _ _ _ => none
    | .red _ _ _ _ _ => none
    | .prefetch _ => some (.passed none, s)

/-- The checks of R209 in their order, and the stage that an access of a lane begins at. -/
def State.startStage (s : State) (agent lane : CtxId) (va : Word) (op : MemOp) : Stage × State :=
  let a := va.toNat
  let n := op.bytes
  let w := whoOf (s.ctx lane)
  let prot := fun st => trapStage op cPROTECTION st a
  if 2 ^ 56 ≤ a then (prot 0, s)
  else match regionOf a with
    | .unassigned => (prot 0, s)
    | .vreg => (prot 0, s)
    | .paged =>
      if op.isPf = false ∧ a % n ≠ 0 then (trapStage op cMISALIGN 0 a, s)
      else match s.l1Stage agent lane a op with
        | some r => r
        | none => s.homeStage lane a op
    | .lsAny | .lsOwn =>
      if op.isPf then (.passed none, s)
      else match s.lsAt w a with
        | .error 0 => (prot 0, s)
        | .error st =>
          if fld a 0 20 % winAlign (fld a 20 3) n ≠ 0 then (trapStage op cMISALIGN 0 a, s)
          else if op.isRmw && fld a 20 3 != 0 then (prot 0, s)
          else if !op.isRmw && winPartial (fld a 20 3) n (op.need == .write) then (trapStage op cWINDOW_PARTIAL 0 a, s)
          else (prot st, s)
        | .ok l =>
          if fld a 0 20 % winAlign (fld a 20 3) n ≠ 0 then (trapStage op cMISALIGN 0 a, s)
          else if op.isRmw && l.win != 0 then (prot 0, s)
          else if !op.isRmw && winPartial l.win n (op.need == .write) then (trapStage op cWINDOW_PARTIAL 0 a, s)
          else match lsBad w l n with
            | some st => (prot st, s)
            | none =>
              if s.lsPoisoned l.cl (lsFrom l) (winSpan l.win n) && op.reads then s.meetPoison lane a op
              else s.lsPerform agent lane l op

/-! ### All lanes of an instruction -/

/-- The lane's access is decided. -/
def Stage.resolved : Stage → Bool
  | .passed _ => true
  | .trapped _ _ _ => true
  | .upcall _ _ => true
  | .probe => false
  | .setD _ => false
  | .remote _ => false
  | .check _ => false
  | .heldFault _ => false

/-- What hit a lane, if anything did. -/
def Access.hit (a : Access) : Option (CtxId × Hit) := match a.stage with
  | .trapped c st v => some (a.lane, .trap c st v)
  | .upcall t st => some (a.lane, .upcall t st (BitVec.ofNat 64 a.va))
  | .passed _ => none
  | .probe => none
  | .setD _ => none
  | .remote _ => none
  | .check _ => none
  | .heldFault _ => none

/-- The group combiner on the reductions of one instruction (R129): those of one address are combined into the first, in ascending lane. -/
def combine (out : List PRed) (r : PRed) : List PRed :=
  if out.any fun o => decide (o.place = r.place) then
    out.map fun (o : PRed) => if o.place = r.place then
      { o with val := BitVec.ofNat 64 ((rmwNew o.op o.n (o.val.toNat % 2 ^ (8 * o.n)) r.val.toNat 0).getD 0) } else o
  else out ++ [r]

/-- The reductions that an instruction's lanes have let through, in ascending lane. -/
def State.redsOf (s : State) (agent : CtxId) (accs : List Access) : List PRed :=
  (accs.mergeSort fun a b => decide (a.lane.pipe ≤ b.lane.pipe)).filterMap fun a => match a.stage, a.op with
    | .passed (some p), .red op n v sc _ => some {
        agent := agent, place := p, op := op, n := n, val := v, kind := s.wkind agent (some sc) true, since := s.gtime
        port := match p with
          | .mem _ pa => s.portTo pa
          | .ls _ _ => none }
    | _, _ => none

/-- The sc atomics that the lanes have let through, in ascending lane. -/
def scOf (accs : List Access) : List (CtxId × Place × MemOp) :=
  (accs.mergeSort fun a b => decide (a.lane.pipe ≤ b.lane.pipe)).filterMap fun a => match a.stage, a.op with
    | .passed (some p), .amo op n v c d sc o => some (a.lane, p, .amo op n v c d sc o)
    | _, _ => none

/-- Announcing an sc operation of an agent, which waits at the instruction until the announcement has arrived (R148, R149): the first window
from now on that has room for the cluster. (DEDUCED, log 28; DESIGN CHOICE, log 143) -/
def State.announce (s : State) (agent : CtxId) (ops : List (CtxId × Place × MemOp)) (sm : Bool) : State :=
  let (t, s) := s.readGtime agent.cl
  let now := t / 16
  let used := fun w => (s.scops.filter fun o => decide (o.agent.cl = agent.cl ∧ o.window = w)).length
  let w := ((List.range (s.scops.length + 1)).map (now + ·)).find? fun w => decide (used w < 4)
  let s := { s with
    scops := s.scops ++ [({ agent := agent, window := w.getD now, seq := s.scSeq, closed := false, ops := ops, sm := sm } : ScOp)]
    scSeq := s.scSeq + 1 }
  s.modCtx agent fun c => { c with st := .waiting .scDone s.gtime, woken := false }

/-- The lanes that were hit take their traps and upcalls; the others go on (R49). -/
def State.finishHits (s : State) (agent : CtxId) (fdefer : Bool) : State :=
  let accs := s.accesses.filter fun a => decide (a.agent = agent)
  let s := { s with accesses := s.accesses.filter fun a => !decide (a.agent = agent), cur := agent }
  let pc := (s.ctx agent).pc
  s.hitLanes agent (accs.filterMap Access.hit) (fun _ => pc + 4) fdefer (accs.any Access.sm)

/-- Ending the instruction whose accesses are all decided: its reductions leave, its acquire takes effect, its sc atomics are announced, and it
retires or is stopped in the lanes that were hit. The instruction completes in the other lanes first (R49). -/
def State.finishAccess (s : State) (agent : CtxId) (fdefer : Bool) : State :=
  let accs := s.accesses.filter fun a => decide (a.agent = agent)
  let hit := accs.any fun a => a.hit.isSome
  let sm := accs.any Access.sm
  let s := { s with reds := s.reds ++ (s.redsOf agent accs).foldl combine [], cur := agent }
  let s := match accs.findSome? fun a => a.op.acq with
    | some sc => if accs.any fun a => a.hit.isNone then s.acquire agent sc else s
    | none => s
  let scs := scOf accs
  let s := { s with accesses := s.accesses.filter fun a => !(decide (a.agent = agent) && (!hit || a.hit.isNone)) }
  if !scs.isEmpty then s.announce agent scs sm
  else if hit then s.finishHits agent fdefer
  else s.retire sm

/-- After an access of the agent has gone on: the instruction ends once all are decided, but a trap or upcall of a pause of the cluster is
held until its end (R393). -/
def State.accessCheck (s : State) (agent : CtxId) : State :=
  let accs := s.accesses.filter fun a => decide (a.agent = agent)
  if (s.ctx agent).st != .parked .check then s
  else if accs.all fun a => a.stage.resolved then
    if (accs.any fun a => a.hit.isSome) && s.paused agent.cl then s else s.finishAccess agent false
  else s

/-- The accesses of the lanes at issue, one after the other. -/
def State.startLanes (s : State) (agent : CtxId) (sm : Bool) : List (CtxId × Word × MemOp) → State
  | [] => s
  | (lane, va, op) :: r =>
    let (st, s) := s.startStage agent lane va op
    let a : Access := { agent := agent, lane := lane, va := va.toNat, op := op, stage := st, sm := sm, since := s.gtime }
    { s with accesses := s.accesses ++ [a] }.startLanes agent sm r

/-- A release at a scope by the issuing agent, and then k: while the group's writes are not performed the agent waits, and the instruction
issues again (R147, R156). A write to a far frame that failed while the agent waited raises PROTECTION at a SYS release (R412, R458). (DEDUCED, log 26) -/
def State.releaseThen (s : State) (sc : Scope) (k : State → State) : State :=
  match (s.ctx s.cur).lostWrite, sc with
  | some v, .sys => (s.modCtx s.cur fun c => { c with lostWrite := none }).trapAll cPROTECTION 4 v
  | _, _ =>
    match s.release s.cur sc with
    | (false, s) => s.waitFor (.performed sc)
    | (true, s) => k s

/-- What a compare-and-swap with a release does before its compare: the group's writes are performed, as they may be at any time (R123). Whether it
releases is seen where it is performed (R211). -/
def State.writesThen (s : State) (sc : Scope) (k : State → State) : State :=
  if sc = .grp then k (s.settleLate fun t => decide (t.agent = s.cur))
  else
    let s := s.releaseStart s.cur
    if s.unperformed s.cur then s.waitFor (.performed sc) else k s

/-- A memory instruction of the issuing agent; a release comes before its accesses. -/
def State.issueMem (s : State) (sm : Bool) (ops : List (CtxId × Word × MemOp)) : State :=
  let go := fun (s : State) =>
    -- the lanes of one instruction are unordered (R135)
    let (ops, s) := s.shuffle ops
    ((s.startLanes s.cur sm ops).stay (.parked .check)).accessCheck s.cur
  match ops.findSome? fun o => o.2.2.casRel, ops.findSome? fun o => o.2.2.rel with
  | some sc, _ => s.writesThen sc go
  | none, some sc => s.releaseThen sc go
  | none, none => go s

end Sys2Proof.Machine
end

