-- ==== Sys2Proof/Machine/Atomics.lean ====
section
/-! DEFINITION. Sys2Proof/Machine/Atomics.lean: the AMO major: atomics, reductions and prefetches (spec/07 R210 to R214). -/

namespace Sys2Proof.Machine

/-- Bytes of an atomic by F[0]. -/
def amoBytes (w : Bool) : Nat := if w then 8 else 4

/-- An atomic of every active lane, at gA, with operand gB and compare value gD. -/
def amoOp (s : State) (sm : Bool) (op : RmwOp) (d a b : Reg) (c : Fin 4) (o : Fin 8) (w : Bool) : Result :=
  onCtx s fun _ => s.issueMem sm ((s.lanes s.cur).map fun i =>
    (i, s.rg i a, .amo op (amoBytes w) (s.rg i b) (s.rg i d) d (scopeOf c.val) (orderOf o.val)))

/-- A reduction of every active lane. -/
def redOp (s : State) (sm : Bool) (op : RmwOp) (a b : Reg) (c : Fin 4) (o : Fin 8) (w : Bool) : Result :=
  onCtx s fun _ => s.issueMem sm ((s.lanes s.cur).map fun i =>
    (i, s.rg i a, .red op (amoBytes w) (s.rg i b) (scopeOf c.val) (orderOf o.val)))

def execAmoAdd (sm : Bool) (d a b : Reg) (c : Fin 4) (o : Fin 8) (w : Bool) (s : State) : Result := amoOp s sm .add d a b c o w
def execAmoAnd (sm : Bool) (d a b : Reg) (c : Fin 4) (o : Fin 8) (w : Bool) (s : State) : Result := amoOp s sm .and d a b c o w
def execAmoOr (sm : Bool) (d a b : Reg) (c : Fin 4) (o : Fin 8) (w : Bool) (s : State) : Result := amoOp s sm .or d a b c o w
def execAmoXor (sm : Bool) (d a b : Reg) (c : Fin 4) (o : Fin 8) (w : Bool) (s : State) : Result := amoOp s sm .xor d a b c o w
def execAmoMin (sm : Bool) (d a b : Reg) (c : Fin 4) (o : Fin 8) (w : Bool) (s : State) : Result := amoOp s sm .min d a b c o w
def execAmoMax (sm : Bool) (d a b : Reg) (c : Fin 4) (o : Fin 8) (w : Bool) (s : State) : Result := amoOp s sm .max d a b c o w
def execAmoMinn (sm : Bool) (d a b : Reg) (c : Fin 4) (o : Fin 8) (w : Bool) (s : State) : Result := amoOp s sm .minn d a b c o w
def execAmoMaxn (sm : Bool) (d a b : Reg) (c : Fin 4) (o : Fin 8) (w : Bool) (s : State) : Result := amoOp s sm .maxn d a b c o w
def execAmoSwp (sm : Bool) (d a b : Reg) (c : Fin 4) (o : Fin 8) (w : Bool) (s : State) : Result := amoOp s sm .swp d a b c o w
def execAmoCas (sm : Bool) (d a b : Reg) (c : Fin 4) (o : Fin 8) (w : Bool) (s : State) : Result := amoOp s sm .cas d a b c o w
def execAmoFadd (sm : Bool) (d a b : Reg) (c : Fin 4) (o : Fin 8) (w : Bool) (s : State) : Result := amoOp s sm .fadd d a b c o w
def execRedAdd (sm : Bool) (a b : Reg) (c : Fin 4) (o : Fin 8) (w : Bool) (s : State) : Result := redOp s sm .add a b c o w
def execRedFadd (sm : Bool) (a b : Reg) (c : Fin 4) (o : Fin 8) (w : Bool) (s : State) : Result := redOp s sm .fadd a b c o w
def execRedMin (sm : Bool) (a b : Reg) (c : Fin 4) (o : Fin 8) (w : Bool) (s : State) : Result := redOp s sm .min a b c o w
def execRedMax (sm : Bool) (a b : Reg) (c : Fin 4) (o : Fin 8) (w : Bool) (s : State) : Result := redOp s sm .max a b c o w
def execRedOr (sm : Bool) (a b : Reg) (c : Fin 4) (o : Fin 8) (w : Bool) (s : State) : Result := redOp s sm .or a b c o w

/-- `pf` has no architectural effect and never traps (R214). -/
def execPf (sm : Bool) (a : Reg) (k : Fin 16) (s : State) : Result :=
  onCtx s fun _ => s.issueMem sm ((s.lanes s.cur).map fun i => (i, s.rg i a, .prefetch k.val))

end Sys2Proof.Machine
end

