-- ==== Sys2Proof/Machine/Codec.lean ====
section
/-! DEFINITION. Sys2Proof/Machine/Codec.lean: the state of a cluster as bytes, for the switch area (spec/13 R395, R397). The manual gives the image of a
context its layout (R387) and nothing else; this order of fields is the model's (notes/assumptions/48.md). -/

namespace Sys2Proof.Machine

/-! ### Codes -/

/-- A value as numbers, and back, with what follows. -/
structure Codec (α : Type) where
  put : α → List Nat
  get : List Nat → Option (α × List Nat)

def cNat : Codec Nat where
  put n := [n]
  get := fun
    | n :: r => some (n, r)
    | [] => none

def cMap {α β : Type} (c : Codec α) (f : α → β) (g : β → α) : Codec β where
  put x := c.put (g x)
  get l := (c.get l).map fun x => (f x.1, x.2)

def Codec.pair {α β : Type} (c : Codec α) (d : Codec β) : Codec (α × β) where
  put x := c.put x.1 ++ d.put x.2
  get l := (c.get l).bind fun x => (d.get x.2).map fun y => ((x.1, y.1), y.2)

/-- The next n values. -/
def getN {α : Type} (c : Codec α) : Nat → List Nat → Option (List α × List Nat)
  | 0, l => some ([], l)
  | n + 1, l => (c.get l).bind fun x => (getN c n x.2).map fun y => (x.1 :: y.1, y.2)

def cList {α : Type} (c : Codec α) : Codec (List α) where
  put l := l.length :: l.flatMap c.put
  get := fun
    | n :: r => getN c n r
    | [] => none

def cOpt {α : Type} (c : Codec α) : Codec (Option α) := cMap (cList c) List.head? Option.toList

def cBool : Codec Bool := cMap cNat (fun n => decide (n ≠ 0)) Bool.toNat
def cInt : Codec Int := cMap (cNat.pair cNat) (fun x => (x.1 : Int) - x.2) fun i => (i.toNat, (-i).toNat)
def cBV (w : Nat) : Codec (BitVec w) := cMap cNat (BitVec.ofNat w) BitVec.toNat
def cFin (n : Nat) [NeZero n] : Codec (Fin n) := cMap cNat (Fin.ofNat n) Fin.val

/-- The names of a list by their places in it; d where there is none. -/
def cEnum {α : Type} [DecidableEq α] (d : α) (l : List α) : Codec α := cMap cNat (fun n => (l[n]?).getD d) l.idxOf

/-- A vector by its elements. -/
def cVec {α : Type} (c : Codec α) (n : Nat) [Inhabited α] : Codec (Vector α n) :=
  cMap (cList c) (fun l => Vector.ofFn fun i => (l[i.val]?).getD default) fun v => v.toList

/-! ### Numbers as bytes -/

/-- A number: how many bytes it takes, and those. -/
def natBytes (n : Nat) : List Byte := let k := Nat.log2 n / 8 + 1; BitVec.ofNat 8 k :: leBytes k n

/-- The numbers that up to k bytes hold. -/
def bytesNats : Nat → List Byte → List Nat
  | 0, _ => []
  | _, [] => []
  | k + 1, b :: r => if b = 0 then [] else leNat (r.take b.toNat) :: bytesNats k (r.drop b.toNat)

/-- A value as bytes, with their number before them. -/
def Codec.bytes {α : Type} (c : Codec α) (x : α) : List Byte :=
  let b := (c.put x).flatMap natBytes
  leBytes 8 b.length ++ b

/-- The value that bytes hold; none where they hold none. -/
def Codec.ofBytes {α : Type} (c : Codec α) (b : List Byte) : Option α :=
  let n := leNat (b.take 8)
  (c.get (bytesNats n ((b.drop 8).take n))).map Prod.fst

/-! ### The state of a cluster (R58, R395) -/

/-- What a switch out writes for a cluster beside the contexts' images, its local store and its vector registers: its contexts with what has no place in an
image, the groups, the resident teams, results, accesses and messages on their way, commands, accumulators, pins, and the queues. -/
structure Blob where
  ctxs : List Ctx
  groups : List Group
  teams : List Team
  longs : List Long
  accesses : List Access
  writes : List PWrite
  reds : List PRed
  scops : List ScOp
  copies : List Copy
  ocq : List OcEntry
  acc : List AccCell
  pins : List Pin
  packets : List Packet
  vq : List VCmd
  quads : List Quad
  mxTeam : Option Nat
  gsq : List Nat
  lsRels : List Rel
deriving DecidableEq, Repr

/-- CtxId, field by field. -/
def CtxId.codec : Codec CtxId := cMap (cNat.pair (cNat.pair cNat))
  (fun (x0, x1, x2) => ⟨x0, x1, x2⟩)
  fun x => (x.cl, x.pipe, x.slot)

/-- Room: the number of the alternative, and what it carries. -/
def Room.codec : Codec Room where
  put := fun
    | .vector => [0]
    | .sfu => [1]
    | .quad a0 => 2 :: cNat.put a0
    | .copies => [3]
    | .comm a0 a1 a2 => 4 :: (cNat.pair (cNat.pair (cBV 16))).put (a0, a1, a2)
    | .record => [5]
  get := fun
    | 0 :: r => some (.vector, r)
    | 1 :: r => some (.sfu, r)
    | 2 :: r => (cNat.get r).map fun (a0, r) => (.quad a0, r)
    | 3 :: r => some (.copies, r)
    | 4 :: r => ((cNat.pair (cNat.pair (cBV 16))).get r).map fun ((a0, a1, a2), r) => (.comm a0 a1 a2, r)
    | 5 :: r => some (.record, r)
    | _ => none

/-- Park: the number of the alternative, and what it carries. -/
def Park.codec : Codec Park where
  put := fun
    | .results => [0]
    | .check => [1]
    | .room a0 => 2 :: Room.codec.put a0
  get := fun
    | 0 :: r => some (.results, r)
    | 1 :: r => some (.check, r)
    | 2 :: r => (Room.codec.get r).map fun (a0, r) => (.room a0, r)
    | _ => none

/-- Cls, by number. -/
def Cls.codec : Codec Cls := cEnum .occ [.occ, .ocm, .ocg, .ocl]

/-- Scope, by number. -/
def Scope.codec : Codec Scope := cEnum .grp [.grp, .clu, .dev, .sys]

/-- Wait: the number of the alternative, and what it carries. -/
def Wait.codec : Codec Wait where
  put := fun
    | .fuse a0 => 0 :: cNat.put a0
    | .bar a0 => 1 :: cNat.put a0
    | .ring a0 a1 a2 => 2 :: (cNat.pair (cNat.pair cBool)).put (a0, a1, a2)
    | .tagAny a0 => 3 :: (cBV 64).put a0
    | .tagAll a0 => 4 :: (cBV 64).put a0
    | .cnt a0 a1 => 5 :: (Cls.codec.pair cNat).put (a0, a1)
    | .notice a0 => 6 :: (cBV 64).put a0
    | .joinAt => [7]
    | .blocks a0 => 8 :: cNat.put a0
    | .blockUse a0 => 9 :: cNat.put a0
    | .drained => [10]
    | .performed a0 => 11 :: Scope.codec.put a0
    | .scDone => [12]
    | .queueEntry a0 => 13 :: cBool.put a0
    | .page a0 a1 => 14 :: (cNat.pair cNat).put (a0, a1)
    | .pass a0 => 15 :: cNat.put a0
    | .reform => [16]
    | .inval a0 a1 => 17 :: (cNat.pair cNat).put (a0, a1)
  get := fun
    | 0 :: r => (cNat.get r).map fun (a0, r) => (.fuse a0, r)
    | 1 :: r => (cNat.get r).map fun (a0, r) => (.bar a0, r)
    | 2 :: r => ((cNat.pair (cNat.pair cBool)).get r).map fun ((a0, a1, a2), r) => (.ring a0 a1 a2, r)
    | 3 :: r => ((cBV 64).get r).map fun (a0, r) => (.tagAny a0, r)
    | 4 :: r => ((cBV 64).get r).map fun (a0, r) => (.tagAll a0, r)
    | 5 :: r => ((Cls.codec.pair cNat).get r).map fun ((a0, a1), r) => (.cnt a0 a1, r)
    | 6 :: r => ((cBV 64).get r).map fun (a0, r) => (.notice a0, r)
    | 7 :: r => some (.joinAt, r)
    | 8 :: r => (cNat.get r).map fun (a0, r) => (.blocks a0, r)
    | 9 :: r => (cNat.get r).map fun (a0, r) => (.blockUse a0, r)
    | 10 :: r => some (.drained, r)
    | 11 :: r => (Scope.codec.get r).map fun (a0, r) => (.performed a0, r)
    | 12 :: r => some (.scDone, r)
    | 13 :: r => (cBool.get r).map fun (a0, r) => (.queueEntry a0, r)
    | 14 :: r => ((cNat.pair cNat).get r).map fun ((a0, a1), r) => (.page a0 a1, r)
    | 15 :: r => (cNat.get r).map fun (a0, r) => (.pass a0, r)
    | 16 :: r => some (.reform, r)
    | 17 :: r => ((cNat.pair cNat).get r).map fun ((a0, a1), r) => (.inval a0 a1, r)
    | _ => none

/-- CState: the number of the alternative, and what it carries. -/
def CState.codec : Codec CState where
  put := fun
    | .ready => [0]
    | .parked a0 => 1 :: Park.codec.put a0
    | .waiting a0 a1 => 2 :: (Wait.codec.pair cNat).put (a0, a1)
    | .held => [3]
    | .exited => [4]
    | .dead => [5]
  get := fun
    | 0 :: r => some (.ready, r)
    | 1 :: r => (Park.codec.get r).map fun (a0, r) => (.parked a0, r)
    | 2 :: r => ((Wait.codec.pair cNat).get r).map fun ((a0, a1), r) => (.waiting a0 a1, r)
    | 3 :: r => some (.held, r)
    | 4 :: r => some (.exited, r)
    | 5 :: r => some (.dead, r)
    | _ => none

/-- Priv, by number. -/
def Priv.codec : Codec Priv := cEnum .user [.user, .supervisor, .machine]

/-- Bank, field by field. -/
def Bank.codec : Codec Bank := cMap ((cBV 64).pair ((cBV 64).pair ((cBV 64).pair (cBV 64))))
  (fun (x0, x1, x2, x3) => ⟨x0, x1, x2, x3⟩)
  fun x => (x.epc, x.ecause, x.eval, x.estat)

/-- DivEntry, field by field. -/
def DivEntry.codec : Codec DivEntry := cMap ((cBV 64).pair ((cBV 64).pair ((cBV 16).pair ((cBV 16).pair cBool))))
  (fun (x0, x1, x2, x3, x4) => ⟨x0, x1, x2, x3, x4⟩)
  fun x => (x.j, x.pendPc, x.pend, x.taken, x.phaseN)

/-- Record, field by field. -/
def Record.codec : Codec Record := cMap ((cList DivEntry.codec).pair (cNat.pair (cNat.pair ((cBV 16).pair (cBV 16)))))
  (fun (x0, x1, x2, x3, x4) => ⟨x0, x1, x2, x3, x4⟩)
  fun x => (x.stack, x.base, x.width, x.members, x.a)

/-- Vis, field by field. -/
def Vis.codec : Codec Vis := cMap (cNat.pair (cNat.pair (cNat.pair (cNat.pair (cNat.pair cNat)))))
  (fun (x0, x1, x2, x3, x4, x5) => ⟨x0, x1, x2, x3, x4, x5⟩)
  fun x => (x.hb, x.own, x.obsC, x.obsD, x.relC, x.relD)

/-- Token, field by field. -/
def Token.codec : Codec Token := cMap (cNat.pair (cNat.pair (cOpt cNat)))
  (fun (x0, x1, x2) => ⟨x0, x1, x2⟩)
  fun x => (x.t, x.va, x.status)

/-- Dest: the number of the alternative, and what it carries. -/
def Dest.codec : Codec Dest where
  put := fun
    | .g a0 => 0 :: (cFin 32).put a0
    | .p a0 => 1 :: (cFin 8).put a0
  get := fun
    | 0 :: r => ((cFin 32).get r).map fun (a0, r) => (.g a0, r)
    | 1 :: r => ((cFin 8).get r).map fun (a0, r) => (.p a0, r)
    | _ => none

/-- Ctx, field by field. -/
def Ctx.codec : Codec Ctx := cMap (CtxId.codec.pair ((cOpt cNat).pair (CState.codec.pair (cBool.pair (cBool.pair ((cBV 64).pair ((cVec (cBV 64)
    32).pair ((cBV 8).pair ((cBV 64).pair (Priv.codec.pair ((cBV 12).pair (cNat.pair ((cBV 64).pair (Bank.codec.pair (Bank.codec.pair ((cBV 64).pair
    ((cBV 64).pair ((cBV 64).pair ((cBV 64).pair ((cBV 6).pair ((cBV 64).pair ((cBV 64).pair ((cBV 64).pair ((cBV 64).pair ((cBV 3).pair (cNat.pair
    (cNat.pair ((cOpt cNat).pair ((cOpt Record.codec).pair (cNat.pair (cNat.pair (Vis.codec.pair ((cList (cNat.pair cNat)).pair ((cList
    Token.codec).pair (cNat.pair (cNat.pair (cNat.pair ((cList CtxId.codec).pair (cBool.pair ((cList Dest.codec).pair ((cOpt (cBV 64)).pair ((cOpt
    (cBV 64)).pair ((cOpt cNat).pair ((cOpt (cBV 64)).pair ((cOpt (cBV 64)).pair cNat)))))))))))))))))))))))))))))))))))))))))))))
  (fun (x0, x1, x2, x3, x4, x5, x6, x7, x8, x9, x10, x11, x12, x13, x14, x15, x16, x17, x18, x19, x20, x21, x22, x23, x24, x25, x26, x27, x28, x29,
    x30, x31, x32, x33, x34, x35, x36, x37, x38, x39, x40, x41, x42, x43, x44, x45) => ⟨x0, x1, x2, x3, x4, x5, x6, x7, x8, x9, x10, x11, x12, x13,
    x14, x15, x16, x17, x18, x19, x20, x21, x22, x23, x24, x25, x26, x27, x28, x29, x30, x31, x32, x33, x34, x35, x36, x37, x38, x39, x40, x41, x42,
    x43, x44, x45⟩)
  fun x => (x.id, x.team, x.st, x.woken, x.arrived2, x.pc, x.g, x.p, x.mode, x.priv, x.domain, x.tl, x.tvec, x.b1, x.b2, x.upvec, x.epcu, x.ecauseu,
    x.evalu, x.uptok, x.notice, x.arrived, x.errtags, x.tagErr, x.role, x.weight, x.lane, x.grp, x.rcd, x.pts, x.mts, x.vis, x.tickets, x.tokens,
    x.vblocks, x.vpool, x.watch, x.owed, x.drain, x.fixedW, x.runEnd, x.poison, x.pageNomem, x.reformed, x.lostWrite, x.lostTo)

/-- Group, field by field. -/
def Group.codec : Codec Group := cMap (cNat.pair (cNat.pair (cNat.pair (cNat.pair ((cBV 16).pair ((cBV 16).pair ((cList DivEntry.codec).pair (cOpt
    (cBV 64)))))))))
  (fun (x0, x1, x2, x3, x4, x5, x6, x7) => ⟨x0, x1, x2, x3, x4, x5, x6, x7⟩)
  fun x => (x.cl, x.base, x.slot, x.width, x.members, x.lm, x.stack, x.armed)

/-- TGroup, field by field. -/
def TGroup.codec : Codec TGroup := cMap (cNat.pair (cNat.pair ((cBV 3).pair cNat)))
  (fun (x0, x1, x2, x3) => ⟨x0, x1, x2, x3⟩)
  fun x => (x.base, x.width, x.role, x.weight)

/-- Ring, field by field. -/
def Ring.codec : Codec Ring := cMap (cNat.pair (cNat.pair (cNat.pair ((cBV 8).pair cNat))))
  (fun (x0, x1, x2, x3, x4) => ⟨x0, x1, x2, x3, x4⟩)
  fun x => (x.slots, x.size, x.base, x.phases, x.ts)

/-- Template, field by field. -/
def Template.codec : Codec Template := cMap ((cList TGroup.codec).pair (cNat.pair (cNat.pair ((cList Ring.codec).pair (cNat.pair (cNat.pair ((cList
    cNat).pair ((cList cNat).pair (cNat.pair cNat)))))))))
  (fun (x0, x1, x2, x3, x4, x5, x6, x7, x8, x9) => ⟨x0, x1, x2, x3, x4, x5, x6, x7, x8, x9⟩)
  fun x => (x.groups, x.nstrm, x.nbar, x.rings, x.nwq, x.swap, x.vrs, x.ls, x.rbsz, x.rbsrc)

/-- Barrier, field by field. -/
def Barrier.codec : Codec Barrier := cMap (cNat.pair (cNat.pair (cNat.pair ((cBV 64).pair ((cOpt (cBV 64)).pair cNat)))))
  (fun (x0, x1, x2, x3, x4, x5) => ⟨x0, x1, x2, x3, x4, x5⟩)
  fun x => (x.total, x.arrivals, x.expected, x.status, x.err, x.ts)

/-- SDesc, field by field. -/
def SDesc.codec : Codec SDesc := cMap (cNat.pair ((cList cNat).pair (cNat.pair ((cBV 4).pair ((cBV 4).pair ((cBV 4).pair ((cBV 4).pair (cNat.pair
    (cNat.pair ((cList cNat).pair ((cList cNat).pair ((cList cNat).pair (cNat.pair cNat)))))))))))))
  (fun (x0, x1, x2, x3, x4, x5, x6, x7, x8, x9, x10, x11, x12, x13) => ⟨x0, x1, x2, x3, x4, x5, x6, x7, x8, x9, x10, x11, x12, x13⟩)
  fun x => (x.addr, x.kinds, x.nlvl, x.ordered, x.unique, x.posw, x.crdw, x.vtype, x.gen, x.ext, x.pos, x.crd, x.val, x.nnz)

/-- Behalf, field by field. -/
def Behalf.codec : Codec Behalf := cMap (CtxId.codec.pair (Priv.codec.pair ((cBV 12).pair ((cOpt cNat).pair (cList (cBV 64))))))
  (fun (x0, x1, x2, x3, x4) => ⟨x0, x1, x2, x3, x4⟩)
  fun x => (x.ctx, x.priv, x.domain, x.team, x.wds)

/-- Stream, field by field. -/
def Stream.codec : Codec Stream := cMap (cNat.pair (cNat.pair ((cBV 64).pair ((cBV 64).pair ((cBV 32).pair (cNat.pair (cNat.pair (cNat.pair
    (cBool.pair (cBool.pair (cBool.pair (cBool.pair (cBool.pair ((cOpt SDesc.codec).pair (cNat.pair (cNat.pair ((cList (cNat.pair (cList cNat))).pair
    (cOpt Behalf.codec))))))))))))))))))
  (fun (x0, x1, x2, x3, x4, x5, x6, x7, x8, x9, x10, x11, x12, x13, x14, x15, x16, x17) => ⟨x0, x1, x2, x3, x4, x5, x6, x7, x8, x9, x10, x11, x12,
    x13, x14, x15, x16, x17⟩)
  fun x => (x.desc, x.level, x.pos, x.end_, x.crd, x.kind, x.pa, x.pb, x.atEnd, x.fpend, x.bound, x.presA, x.presB, x.d, x.oa, x.ob, x.held, x.agent)

/-- WQ, field by field. -/
def WQ.codec : Codec WQ := cMap (cNat.pair (cNat.pair ((cList (cNat.pair cNat)).pair ((cList cNat).pair (cNat.pair (cNat.pair (cNat.pair (cNat.pair
    (cNat.pair cBool)))))))))
  (fun (x0, x1, x2, x3, x4, x5, x6, x7, x8, x9) => ⟨x0, x1, x2, x3, x4, x5, x6, x7, x8, x9⟩)
  fun x => (x.e0, x.batches, x.menu, x.counts, x.b, x.seg, x.row, x.rem, x.col, x.done)

/-- Team, field by field. -/
def Team.codec : Codec Team := cMap (cNat.pair (cNat.pair (cNat.pair ((cOpt cNat).pair (cNat.pair (cNat.pair ((cBV 12).pair (cNat.pair (cNat.pair
    (Template.codec.pair ((cList Barrier.codec).pair ((cList Ring.codec).pair ((cList Stream.codec).pair ((cList WQ.codec).pair ((cList (cBV 64)).pair
    ((cList cNat).pair ((cList (CtxId.codec.pair (cNat.pair cNat))).pair ((cList cNat).pair (cBool.pair (cBool.pair (cBool.pair (cNat.pair
    cBool))))))))))))))))))))))
  (fun (x0, x1, x2, x3, x4, x5, x6, x7, x8, x9, x10, x11, x12, x13, x14, x15, x16, x17, x18, x19, x20, x21, x22) => {
    cl := x0, num := x1, part := x2, task := x3, trank := x4, gsize := x5, domain := x6, lsBase := x7, lsSize := x8, tmpl := x9, bars := x10,
    rings := x11, streams := x12, wqs := x13, wds := x14, pool := x15, vwait := x16, stats := x17, candidate := x18, swapped := x19,
    swapping := x20, since := x21, killed := x22 })
  fun x => (x.cl, x.num, x.part, x.task, x.trank, x.gsize, x.domain, x.lsBase, x.lsSize, x.tmpl, x.bars, x.rings, x.streams, x.wqs, x.wds, x.pool,
    x.vwait, x.stats, x.candidate, x.swapped, x.swapping, x.since, x.killed)

/-- AbortAsk, field by field. -/
def AbortAsk.codec : Codec AbortAsk := cMap (cNat.pair (cNat.pair ((cBV 16).pair (cNat.pair (cNat.pair cNat)))))
  (fun (x0, x1, x2, x3, x4, x5) => ⟨x0, x1, x2, x3, x4, x5⟩)
  fun x => (x.part, x.slot, x.gen, x.inst, x.code, x.rank)

/-- Place: the number of the alternative, and what it carries. -/
def Place.codec : Codec Place where
  put := fun
    | .mem a0 a1 => 0 :: (cNat.pair cNat).put (a0, a1)
    | .ls a0 a1 => 1 :: (cNat.pair cNat).put (a0, a1)
  get := fun
    | 0 :: r => ((cNat.pair cNat).get r).map fun ((a0, a1), r) => (.mem a0 a1, r)
    | 1 :: r => ((cNat.pair cNat).get r).map fun ((a0, a1), r) => (.ls a0 a1, r)
    | _ => none

/-- Late, field by field. -/
def Late.codec : Codec Late := cMap (CtxId.codec.pair (Place.codec.pair (cNat.pair cBool)))
  (fun (x0, x1, x2, x3) => ⟨x0, x1, x2, x3⟩)
  fun x => (x.agent, x.place, x.n, x.sext)

/-- Away: the number of the alternative, and what it carries. -/
def Away.codec : Codec Away where
  put := fun
    | .team a0 => 0 :: cNat.put a0
    | .area a0 a1 => 1 :: (cNat.pair cNat).put (a0, a1)
  get := fun
    | 0 :: r => (cNat.get r).map fun (a0, r) => (.team a0, r)
    | 1 :: r => ((cNat.pair cNat).get r).map fun ((a0, a1), r) => (.area a0 a1, r)
    | _ => none

/-- Long, field by field. -/
def Long.codec : Codec Long := cMap (CtxId.codec.pair (Dest.codec.pair ((cBV 64).pair ((cOpt (cBV 64)).pair ((cOpt AbortAsk.codec).pair ((cOpt
    Late.codec).pair (cOpt Away.codec)))))))
  (fun (x0, x1, x2, x3, x4, x5, x6) => ⟨x0, x1, x2, x3, x4, x5, x6⟩)
  fun x => (x.dst, x.dest, x.val, x.poisoned, x.abort, x.late, x.away)

/-- RmwOp, by number. -/
def RmwOp.codec : Codec RmwOp := cEnum .add [.add, .and, .or, .xor, .min, .max, .minn, .maxn, .swp, .cas, .fadd, .fmin,
    .fmax]

/-- Order, by number. -/
def Order.codec : Codec Order := cEnum .rlx [.rlx, .acq, .rel, .acqrel, .sc]

/-- MemOp: the number of the alternative, and what it carries. -/
def MemOp.codec : Codec MemOp where
  put := fun
    | .load a0 a1 a2 a3 a4 => 0 :: (cNat.pair (cBool.pair ((cFin 32).pair (cNat.pair (cOpt Scope.codec))))).put (a0, a1, a2, a3, a4)
    | .store a0 a1 a2 a3 => 1 :: (cNat.pair ((cBV 64).pair (cNat.pair (cOpt Scope.codec)))).put (a0, a1, a2, a3)
    | .amo a0 a1 a2 a3 a4 a5 a6 => 2 :: (RmwOp.codec.pair (cNat.pair ((cBV 64).pair ((cBV 64).pair ((cFin 32).pair (Scope.codec.pair
      Order.codec)))))).put (a0, a1, a2, a3, a4, a5, a6)
    | .red a0 a1 a2 a3 a4 => 3 :: (RmwOp.codec.pair (cNat.pair ((cBV 64).pair (Scope.codec.pair Order.codec)))).put (a0, a1, a2, a3, a4)
    | .prefetch a0 => 4 :: cNat.put a0
  get := fun
    | 0 :: r => ((cNat.pair (cBool.pair ((cFin 32).pair (cNat.pair (cOpt Scope.codec))))).get r).map fun ((a0, a1, a2, a3, a4), r) => (.load a0 a1 a2
      a3 a4, r)
    | 1 :: r => ((cNat.pair ((cBV 64).pair (cNat.pair (cOpt Scope.codec)))).get r).map fun ((a0, a1, a2, a3), r) => (.store a0 a1 a2 a3, r)
    | 2 :: r => ((RmwOp.codec.pair (cNat.pair ((cBV 64).pair ((cBV 64).pair ((cFin 32).pair (Scope.codec.pair Order.codec)))))).get r).map fun ((a0,
      a1, a2, a3, a4, a5, a6), r) => (.amo a0 a1 a2 a3 a4 a5 a6, r)
    | 3 :: r => ((RmwOp.codec.pair (cNat.pair ((cBV 64).pair (Scope.codec.pair Order.codec)))).get r).map fun ((a0, a1, a2, a3, a4), r) => (.red a0 a1
      a2 a3 a4, r)
    | 4 :: r => (cNat.get r).map fun (a0, r) => (.prefetch a0, r)
    | _ => none

/-- Xlat, field by field. -/
def Xlat.codec : Codec Xlat := cMap (cNat.pair ((cBV 64).pair ((cBV 64).pair (cOpt cNat))))
  (fun (x0, x1, x2, x3) => ⟨x0, x1, x2, x3⟩)
  fun x => (x.cls, x.w0, x.w1, x.pte)

/-- Stage: the number of the alternative, and what it carries. -/
def Stage.codec : Codec Stage where
  put := fun
    | .probe => [0]
    | .setD a0 => 1 :: Xlat.codec.put a0
    | .remote a0 => 2 :: Xlat.codec.put a0
    | .check a0 => 3 :: Xlat.codec.put a0
    | .heldFault a0 => 4 :: cNat.put a0
    | .passed a0 => 5 :: (cOpt Place.codec).put a0
    | .trapped a0 a1 a2 => 6 :: (cNat.pair (cNat.pair (cBV 64))).put (a0, a1, a2)
    | .upcall a0 a1 => 7 :: (cNat.pair cNat).put (a0, a1)
  get := fun
    | 0 :: r => some (.probe, r)
    | 1 :: r => (Xlat.codec.get r).map fun (a0, r) => (.setD a0, r)
    | 2 :: r => (Xlat.codec.get r).map fun (a0, r) => (.remote a0, r)
    | 3 :: r => (Xlat.codec.get r).map fun (a0, r) => (.check a0, r)
    | 4 :: r => (cNat.get r).map fun (a0, r) => (.heldFault a0, r)
    | 5 :: r => ((cOpt Place.codec).get r).map fun (a0, r) => (.passed a0, r)
    | 6 :: r => ((cNat.pair (cNat.pair (cBV 64))).get r).map fun ((a0, a1, a2), r) => (.trapped a0 a1 a2, r)
    | 7 :: r => ((cNat.pair cNat).get r).map fun ((a0, a1), r) => (.upcall a0 a1, r)
    | _ => none

/-- Access, field by field. -/
def Access.codec : Codec Access := cMap (CtxId.codec.pair (CtxId.codec.pair (cNat.pair (MemOp.codec.pair (Stage.codec.pair (cBool.pair (cNat.pair
    (cOpt cNat))))))))
  (fun (x0, x1, x2, x3, x4, x5, x6, x7) => ⟨x0, x1, x2, x3, x4, x5, x6, x7⟩)
  fun x => (x.agent, x.lane, x.va, x.op, x.stage, x.sm, x.since, x.port)

/-- WKind, field by field. -/
def WKind.codec : Codec WKind := cMap ((cOpt Scope.codec).pair (cBool.pair (cNat.pair cNat)))
  (fun (x0, x1, x2, x3) => ⟨x0, x1, x2, x3⟩)
  fun x => (x.sc, x.rmw, x.relC, x.relD)

/-- Rel, field by field. -/
def Rel.codec : Codec Rel := cMap (cNat.pair (cNat.pair (CtxId.codec.pair (Scope.codec.pair (cNat.pair cBool)))))
  (fun (x0, x1, x2, x3, x4, x5) => ⟨x0, x1, x2, x3, x4, x5⟩)
  fun x => (x.lo, x.n, x.owner, x.sc, x.ts, x.hidden)

/-- PWrite, field by field. -/
def PWrite.codec : Codec PWrite := cMap (CtxId.codec.pair (cNat.pair (Place.codec.pair ((cList (cBV 8)).pair ((cBV 64).pair (cNat.pair ((cOpt
    cNat).pair (cBool.pair (WKind.codec.pair (cList Rel.codec))))))))))
  (fun (x0, x1, x2, x3, x4, x5, x6, x7, x8, x9) => ⟨x0, x1, x2, x3, x4, x5, x6, x7, x8, x9⟩)
  fun x => (x.agent, x.pipe, x.place, x.data, x.mask, x.since, x.port, x.mute, x.kind, x.rels)

/-- PRed, field by field. -/
def PRed.codec : Codec PRed := cMap (CtxId.codec.pair (Place.codec.pair (RmwOp.codec.pair (cNat.pair ((cBV 64).pair (cBool.pair (WKind.codec.pair
    (cNat.pair (cOpt cNat)))))))))
  (fun (x0, x1, x2, x3, x4, x5, x6, x7, x8) => ⟨x0, x1, x2, x3, x4, x5, x6, x7, x8⟩)
  fun x => (x.agent, x.place, x.op, x.n, x.val, x.loose, x.kind, x.since, x.port)

/-- ScOp, field by field. -/
def ScOp.codec : Codec ScOp := cMap (CtxId.codec.pair (cNat.pair (cNat.pair (cBool.pair ((cList (CtxId.codec.pair (Place.codec.pair
    MemOp.codec))).pair cBool)))))
  (fun (x0, x1, x2, x3, x4, x5) => ⟨x0, x1, x2, x3, x4, x5⟩)
  fun x => (x.agent, x.window, x.seq, x.closed, x.ops, x.sm)

/-- View, field by field. -/
def View.codec : Codec View := cMap (cNat.pair (cNat.pair (cNat.pair (cNat.pair ((cVec cNat 4).pair ((cVec cInt 4).pair cBool))))))
  (fun (x0, x1, x2, x3, x4, x5, x6) => ⟨x0, x1, x2, x3, x4, x5, x6⟩)
  fun x => (x.addr, x.base, x.ty, x.rank, x.e, x.s, x.uns)

/-- Copy, field by field. -/
def Copy.codec : Codec Copy := cMap (Behalf.codec.pair (cNat.pair (cNat.pair (View.codec.pair (View.codec.pair ((cOpt View.codec).pair (cNat.pair
    ((cOpt (cNat.pair cNat)).pair (cNat.pair (cNat.pair (cBool.pair ((cList cInt).pair (cBool.pair ((cOpt (cNat.pair cNat)).pair cBool))))))))))))))
  (fun (x0, x1, x2, x3, x4, x5, x6, x7, x8, x9, x10, x11, x12, x13, x14) => ⟨x0, x1, x2, x3, x4, x5, x6, x7, x8, x9, x10, x11, x12, x13, x14⟩)
  fun x => (x.by_, x.kind, x.sub, x.d, x.s, x.ix, x.tag, x.ring, x.oc, x.chunk, x.err, x.seen, x.cancelled, x.stall, x.nomem)

/-- OcEntry, field by field. -/
def OcEntry.codec : Codec OcEntry := cMap (cNat.pair (CtxId.codec.pair (Cls.codec.pair cBool)))
  (fun (x0, x1, x2, x3) => ⟨x0, x1, x2, x3⟩)
  fun x => (x.ticket, x.ctx, x.cls, x.done)

/-- TileId, field by field. -/
def TileId.codec : Codec TileId := cMap (cNat.pair (cNat.pair (cNat.pair (cNat.pair (cNat.pair (cBV 12))))))
  (fun (x0, x1, x2, x3, x4, x5) => ⟨x0, x1, x2, x3, x4, x5⟩)
  fun x => (x.desc, x.tr, x.tc, x.gen, x.t, x.domain)

/-- Pin, field by field. -/
def Pin.codec : Codec Pin := cMap (cNat.pair (TileId.codec.pair cNat))
  (fun (x0, x1, x2) => ⟨x0, x1, x2⟩)
  fun x => (x.cl, x.tile, x.team)

/-- Packet, field by field. -/
def Packet.codec : Codec Packet := cMap (cNat.pair (cNat.pair ((cList (cBV 8)).pair (CtxId.codec.pair (cFin 32)))))
  (fun (x0, x1, x2, x3, x4) => ⟨x0, x1, x2, x3, x4⟩)
  fun x => (x.cl, x.dir, x.data, x.from_, x.dest)

/-- Signals, field by field. -/
def Signals.codec : Codec Signals := cMap ((cOpt (cNat.pair cNat)).pair (cOpt (cNat.pair cNat)))
  (fun (x0, x1) => ⟨x0, x1⟩)
  fun x => (x.bar, x.ring)

/-- VPart, field by field. -/
def VPart.codec : Codec VPart := cMap (cBool.pair (cNat.pair ((cList cNat).pair ((cOpt (cNat.pair cNat)).pair (cBool.pair ((cList PRed.codec).pair
    cNat))))))
  (fun (x0, x1, x2, x3, x4, x5, x6) => ⟨x0, x1, x2, x3, x4, x5, x6⟩)
  fun x => (x.lane, x.prog, x.row, x.stall, x.nomem, x.pend, x.win)

/-- VCmd, field by field. -/
def VCmd.codec : Codec VCmd := cMap (cNat.pair (Behalf.codec.pair (cNat.pair (cBool.pair ((cBV 64).pair (View.codec.pair ((cOpt View.codec).pair
    ((cOpt View.codec).pair ((cOpt View.codec).pair (cNat.pair (cNat.pair (Signals.codec.pair ((cOpt cNat).pair (cBool.pair ((cList VPart.codec).pair
    ((cList (cNat.pair cNat)).pair (cBool.pair ((cOpt (cBV 64)).pair (cList cInt)))))))))))))))))))
  (fun (x0, x1, x2, x3, x4, x5, x6, x7, x8, x9, x10, x11, x12, x13, x14, x15, x16, x17, x18) => ⟨x0, x1, x2, x3, x4, x5, x6, x7, x8, x9, x10, x11,
    x12, x13, x14, x15, x16, x17, x18⟩)
  fun x => (x.pipe, x.by_, x.op, x.scl, x.gb, x.d, x.s1, x.s2, x.s3, x.weight, x.parts, x.sig, x.oc, x.away, x.work, x.held, x.ended, x.err, x.seen)

/-- MCmd, field by field. -/
def MCmd.codec : Codec MCmd := cMap (cNat.pair (Behalf.codec.pair (cBool.pair ((cBV 64).pair (cBool.pair (cBool.pair (cNat.pair ((cBV 64).pair ((cBV
    64).pair ((cOpt View.codec).pair ((cOpt View.codec).pair (cBool.pair (cBool.pair (Signals.codec.pair (cNat.pair (cNat.pair (cBool.pair (cBool.pair
    (cNat.pair ((cList (cNat.pair cNat)).pair ((cOpt (cBool.pair (cList (cNat.pair (cNat.pair cNat))))).pair (cNat.pair ((cList (cNat.pair (cList
    (cNat.pair (cNat.pair cNat))))).pair ((cList ((cOpt cNat).pair (cNat.pair cNat))).pair (cList ((cOpt cNat).pair (cNat.pair
    cNat)))))))))))))))))))))))))))
  (fun (x0, x1, x2, x3, x4, x5, x6, x7, x8, x9, x10, x11, x12, x13, x14, x15, x16, x17, x18, x19, x20, x21, x22, x23, x24) => ⟨x0, x1, x2, x3, x4, x5,
    x6, x7, x8, x9, x10, x11, x12, x13, x14, x15, x16, x17, x18, x19, x20, x21, x22, x23, x24⟩)
  fun x => (x.op, x.by_, x.joined, x.cfg, x.set1, x.opB, x.acc, x.ga, x.gb, x.v1, x.v2, x.nowait, x.arv, x.sig, x.oc, x.team, x.compiling, x.spoiled,
    x.prog, x.got, x.going, x.vals, x.once, x.written, x.reads)

/-- MBuf, field by field. -/
def MBuf.codec : Codec MBuf := cMap (cNat.pair (cNat.pair ((cList cNat).pair (cList cNat))))
  (fun (x0, x1, x2, x3) => ⟨x0, x1, x2, x3⟩)
  fun x => (x.rows, x.k, x.codes, x.meta_)

/-- Quad, field by field. -/
def Quad.codec : Codec Quad := cMap ((cList MCmd.codec).pair ((cBV 64).pair ((cBV 64).pair (MBuf.codec.pair (MBuf.codec.pair (MBuf.codec.pair
    (MBuf.codec.pair (cBool.pair ((cBV 64).pair (cBool.pair cBool))))))))))
  (fun (x0, x1, x2, x3, x4, x5, x6, x7, x8, x9, x10) => ⟨x0, x1, x2, x3, x4, x5, x6, x7, x8, x9, x10⟩)
  fun x => (x.queue, x.cfg, x.icfg, x.a0, x.b0, x.a1, x.b1, x.err, x.errv, x.int0, x.int1)

/-- Blob, field by field. -/
def Blob.codec : Codec Blob := cMap ((cList Ctx.codec).pair ((cList Group.codec).pair ((cList Team.codec).pair ((cList Long.codec).pair ((cList
    Access.codec).pair ((cList PWrite.codec).pair ((cList PRed.codec).pair ((cList ScOp.codec).pair ((cList Copy.codec).pair ((cList
    OcEntry.codec).pair ((cList (cNat.pair cNat)).pair ((cList Pin.codec).pair ((cList Packet.codec).pair ((cList VCmd.codec).pair ((cList
    Quad.codec).pair ((cOpt cNat).pair ((cList cNat).pair (cList Rel.codec))))))))))))))))))
  (fun (x0, x1, x2, x3, x4, x5, x6, x7, x8, x9, x10, x11, x12, x13, x14, x15, x16, x17) => ⟨x0, x1, x2, x3, x4, x5, x6, x7, x8, x9, x10, x11, x12,
    x13, x14, x15, x16, x17⟩)
  fun x => (x.ctxs, x.groups, x.teams, x.longs, x.accesses, x.writes, x.reds, x.scops, x.copies, x.ocq, x.acc, x.pins, x.packets, x.vq, x.quads,
    x.mxTeam, x.gsq, x.lsRels)

end Sys2Proof.Machine
end

