-- ==== Sys2Proof/Machine/Area.lean ====
section
/-! DEFINITION. Sys2Proof/Machine/Area.lean: the bytes of a switch area (spec/13 R394, R395, R397): 1.5 MiB for each cluster of the partition and 1 MiB. In a
cluster's part the model puts its local store, its vector registers, the images of its contexts and the rest of its state, turned round by an amount that
nothing states (notes/assumptions/48.md). -/

namespace Sys2Proof.Machine

/-- Bytes of a cluster's part of an area. -/
def partLen : Nat := 0x180000

/-- Where its vector registers, the images of its contexts and the rest of its state begin. -/
def vrsOff : Nat := 0x100000
def imagesOff : Nat := 0x140000
def blobOff : Nat := 0x148000

/-- The image of a context in it. (DESIGN CHOICE, log 48) -/
def imageOff (id : CtxId) : Nat := imagesOff + 512 * (4 * id.pipe + id.slot)

/-- How far the bytes of a part are turned round. (DESIGN CHOICE, log 48) -/
def areaTurn (o : Nat) : Nat := (o + 4096 * (Config.areaTurn % 384)) % partLen

/-- The physical address of a byte of a switch area, where its page is translated. -/
def State.areaPa (s : State) (p : Partition) (va : Nat) : Option Nat :=
  if 2 ^ 56 ≤ va ∨ regionOf va ≠ .paged then none
  else match s.translate (sysWho p) va with
    | .ok x => some (x.pa va)
    | .absent => none
    | .malformed => none
    | .noMap => none

/-- The physical address of byte o of the part of cluster k of the partition. -/
def State.partPa (s : State) (p : Partition) (area k o : Nat) : Option Nat := s.areaPa p (area + partLen * k + areaTurn o)

/-- Writing bytes of one page of a part. -/
def State.areaWrite (s : State) (p : Partition) (area o k : Nat) (b : List Byte) : State := match s.partPa p area k o with
  | some pa => { s.watchPa pa b.length with mem := Memory.writeN s.mem pa b }
  | none => s

/-- Writing a part, page by page: its cells by their place in it (R395). -/
def State.putPart (s : State) (p : Partition) (area k : Nat) (cells : List Host.Cell) : State :=
  (List.range (partLen / 4096)).foldl (fun (s : State) i => match s.partPa p area k (4096 * i) with
    | some pa =>
      { s.watchPa pa 4096 with
        mem := putBack s.mem ((cells.filter (inKeys (4096 * i) 4096)).map fun c => (pa + (c.1 - 4096 * i), c.2)) pa 4096 }
    | none => s) s

/-- The cells of a part, by their place in it; none where a page of it is not translated (R397). -/
def State.getPart (s : State) (p : Partition) (area k : Nat) : Option (List Host.Cell) :=
  (List.range (partLen / 4096)).foldr (fun i l => match s.partPa p area k (4096 * i), l with
    | some pa, some l => some (((s.mem.filter (inKeys pa 4096)).map fun c => (4096 * i + (c.1 - pa), c.2)) ++ l)
    | _, _ => none) (some [])

/-- Bytes as cells from lo on. -/
def cellsOf (lo : Nat) (b : List Byte) : List Host.Cell := b.zipIdx.filterMap fun x => if x.1 = 0 then none else some (lo + x.2, x.1)

/-- The n bytes from lo on of cells that begin there or above. -/
def denseFrom (lo : Nat) : Nat → List Host.Cell → List Byte
  | 0, _ => []
  | n + 1, [] => 0 :: denseFrom (lo + 1) n []
  | n + 1, (k, v) :: r => if k = lo then v :: denseFrom (lo + 1) n r else 0 :: denseFrom (lo + 1) n ((k, v) :: r)

/-- The n bytes from lo on. -/
def dense (lo n : Nat) (cells : List Host.Cell) : List Byte := denseFrom lo n (cells.filter (inKeys lo n))

/-- Bytes of an area whose value nothing states, as cells. (DESIGN CHOICE, log 48) -/
def freeCells (c lo n : Nat) : List Host.Cell := cellsOf lo ((List.range n).map (freeByte c))

end Sys2Proof.Machine
end

