-- ==== Sys2Proof/Machine/Clock.lean ====
section
/-! DEFINITION. Sys2Proof/Machine/Clock.lean: the clocks and voltages of clusters (spec/15 R436 to R438) and the end of a pause (R393,
R443). -/

namespace Sys2Proof.Machine

/-! ### Voltage (R436, R437) -/

/-- The least code at which the clusters of a domain run at their steps, those of changes under way among them (R436). (DEDUCED, log 129) -/
def State.vNeed (s : State) (m : Nat) : Nat :=
  ((s.clusters.filter fun k => decide (domainOf k.id = m) && k.released && !k.gated).map fun k =>
    max (Config.vmin m k.step) (match k.change with
      | some (n, _, _) => Config.vmin m n
      | none => 0)).foldl max 0

/-- The supply of a domain moves to the code that its clusters need, one code per 50 ns (R437): one that moves already goes on from where it is. (DEDUCED, log 129) -/
def State.moveVoltage (s : State) (m : Nat) : State :=
  let need := s.vNeed m
  s.modDomain m fun d => { d with target := need, moved := if d.code = d.target then s.gtime else d.moved }

/-! ### Changes of step (R393, R437, R438) -/

/-- A change begins: the pause from now on, or, where a higher voltage is needed, once the supply has settled. (DEDUCED, log 129) -/
def State.startChange (s : State) (cl new reason : Nat) : State :=
  let m := domainOf cl
  let t0 := if (s.domain m).code < Config.vmin m new then none else some s.gtime
  (s.modCluster cl fun k => { k with change := some (new, reason, t0) }).moveVoltage m

/-- The step that a cluster will have when every change of it has taken effect. -/
def Cluster.lastStep (k : Cluster) : Nat := match k.changes.getLast?, k.change with
  | some c, _ => c.1
  | none, some c => c.1
  | none, none => k.step

/-- A change that is only for a cluster without contexts is under way or waits (R438). -/
def Cluster.forEmpty (k : Cluster) : Bool := (k.change.any fun c => decide (c.2.1 ≤ 2)) || k.changes.any fun c => decide (c.2 ≤ 2)

/-- No change of the cluster's step is under way or waits. -/
def Cluster.steady (k : Cluster) : Bool := k.change.isNone && k.changes.isEmpty

/-- The changes behind one that has taken effect: those to the step that the cluster has are none (R438). -/
def dropSame (step : Nat) : List (Nat × Nat) → List (Nat × Nat)
  | [] => []
  | c :: r => if c.1 = step then dropSame step r else c :: r

/-- A change of step falls due; behind another one of the cluster it waits (R438). -/
def State.requestStep (s : State) (cl new reason : Nat) : State :=
  let k := s.cluster cl
  if k.change.isSome || !k.changes.isEmpty then s.modCluster cl fun k => { k with changes := k.changes ++ [(new, reason)] }
  else if k.step = new then s
  else s.startChange cl new reason

/-! ### The end of a pause (R393, R443) -/

/-- The agents whose accesses are all decided and whose traps or upcalls the pause has held, in ascending pipe and then slot. -/
def State.heldAgents (s : State) (cl : Nat) : List CtxId :=
  let ids := ((s.accesses.filter fun a => decide (a.agent.cl = cl)).map Access.agent).eraseDups
  (ids.filter fun i => (s.ctx i).st == .parked .check && (s.accesses.filter fun a => decide (a.agent = i)).all fun a => a.stage.resolved).mergeSort fun a b =>
    decide (ctxNum a ≤ ctxNum b)

/-- The faults that the pause has held enter the fault unit, in ascending pipe and then slot of their lanes (R393). -/
def State.admitHeld (s : State) (cl : Nat) : State :=
  let held := ((s.accesses.filter fun a => decide (a.agent.cl = cl) && match a.stage with
    | .heldFault _ => true
    | _ => false).mergeSort fun a b => decide (ctxNum a.lane ≤ ctxNum b.lane))
  held.foldl (fun (s : State) b =>
    match s.accesses.findIdx? fun a => decide (a.agent = b.agent ∧ a.lane = b.lane), b.stage with
    | some i, .heldFault reason =>
      let (st, s) := s.faultStage b.lane b.va b.op reason
      { s with accesses := s.accesses.set i { b with stage := st } }
    | _, _ => s) s

/-- T1: the new step takes effect, the entry is written, the held traps are delivered, the voltage follows, and the next change begins. -/
def State.pauseEnd (s : State) (cl : Nat) : State :=
  let k := s.cluster cl
  match k.change with
  | some (new, reason, some t0) =>
    let s := s.modCluster cl fun k => { k with
      cycBase := k.cycBase + (t0 - k.segT1) * 144 / (5 * (16 + k.step)), segT1 := s.gtime, step := new, change := none }
    let s := s.traceEntry cl k.step new reason (s.gtime - t0)
    let s := s.admitHeld cl
    let s := (s.heldAgents cl).foldl (fun s i => s.finishAccess i true) s
    let s := s.moveVoltage (domainOf cl)
    match dropSame new k.changes with
    | [] => s.modCluster cl fun k => { k with changes := [] }
    | (n, r) :: rest => (s.modCluster cl fun k => { k with changes := rest }).startChange cl n r
  | _ => s

/-- The supply of a domain has moved by one code; where it has settled at its target, the changes that waited for it begin (R437). -/
def State.voltageSettled (s : State) (m : Nat) : State :=
  let d := s.domain m
  if d.code ≠ d.target ∧ d.moved + 50 ≤ s.gtime then
    let v := if d.code < d.target then d.code + 1 else d.code - 1
    let s := s.modDomain m fun d => { d with code := v, moved := d.moved + 50 }
    if v = d.target then
      { s with clusters := s.clusters.map fun (k : Cluster) => match k.change with
        | some (n, r, none) => if domainOf k.id = m then { k with change := some (n, r, some s.gtime) } else k
        | _ => k }
    else s
  else s

end Sys2Proof.Machine
end

