-- ==== Sys2Proof/Machine/Events.lean ====
section
/-! DEFINITION. Sys2Proof/Machine/Events.lean: what happens to accesses, results, writes and sc operations between issues (spec/04 R123, R124;
spec/05 R147 to R149, R156; spec/06 R179, R180; spec/13 R384; spec/14 R416, R419, R424; spec/16 R458). The subject of an event is a place in the
list that it concerns. -/

namespace Sys2Proof.Machine

/-! ### Results (R179, R384) -/

/-- A long result returns: its destination is written. Where a fixed instruction has written it meanwhile, either value stays (R179). Poisoned data write nothing; the lane keeps the earliest poisoned access of its run. (DEDUCED, log 11; DEDUCED, log 146) -/
def State.returnLong (s : State) (i : Nat) : State := match s.longs[i]? with
  | none => s
  | some l =>
    match l.poisoned with
    | some _ =>
      let v := s.poisonOf l.dst
      { s.modCtx l.dst (fun c => { c with poison := v }) with longs := s.longs.eraseIdx i }
    | none =>
      let (l', s') := match l.late, l.abort with
        | some t, _ => ({ l with val := s.readLate t }, s.lateSeen t)
        | none, some a => ({ l with val := s.abortAnswer a }, s)
        | none, none => (l, s)
      let s' := { s' with longs := s'.longs.eraseIdx i }
      if (s.ctx (s.leader l.dst)).fixedW.contains l.dest then
        let (f, s') := s'.freshFree
        if f.getLsbD 0 then s' else s'.writeLong l'
      else s'.writeLong l'

/-- (DEDUCED, log 10) -/
def execLongResultReturn (s : State) : Result := .next (s.returnLong s.subj.n)

/-! ### Accesses on their way to the check point (R180, R416, R419, R424, R458) -/

/-- The access at a place of the list goes on to the stage given, and the instruction ends if it was the last. -/
def State.setStage (s : State) (i : Nat) (a : Access) (st : Stage) : State :=
  let port := match st with
    | .remote x => s.portTo (x.pa a.va)
    | _ => a.port
  { s with accesses := s.accesses.set i { a with stage := st, since := s.gtime, port := port } }.accessCheck a.agent

/-- What an access does when the event comes that its stage waits for; none where the event is not for its stage. -/
def State.stageStep (s : State) (i : Nat) (f : Access → Option (Stage × State)) : State := match s.accesses[i]? with
  | none => s
  | some a => match f a with
    | some (st, s) => s.setStage i a st
    | none => s

def execCheckPointPass (s : State) : Result := .next (s.stageStep s.subj.n fun a => match a.stage with
  | .check x => some (s.checkStage a.agent a.lane a.va a.op x)
  | _ => none)

/-- The place in the list of the access of a lane. -/
def State.accessIdx (s : State) (agent lane : CtxId) : Option Nat := s.accesses.findIdx? fun a => decide (a.agent = agent ∧ a.lane = lane)

/-- Two accesses whose probes one slice sends for one page: a later miss is merged into the probe that is outstanding (R410). The page is the one that the
probes find, or the smallest where they find none. -/
def State.sameProbe (s : State) (a : Access) (r : Tr) (b : Access) : Bool :=
  let shift := match r with
    | .ok x => pageShift x.cls
    | _ => 12
  (b.stage == .probe) && decide (s.homeSlice a.va = s.homeSlice b.va ∧ a.va / 2 ^ shift = b.va / 2 ^ shift ∧
    (s.partOf a.lane.cl).map Partition.num = (s.partOf b.lane.cl).map Partition.num)

/-- The result of a probe reaches the accesses that were merged into it. -/
def State.probeShare (s : State) (r : Tr) : List Access → State
  | [] => s
  | b :: l => match s.accessIdx b.agent b.lane with
    | none => s.probeShare r l
    | some i => (s.stageStep i fun a => match a.stage with
        | .probe => some (afterXlat a.lane a.va a.op (r, s))
        | _ => none).probeShare r l

/-- The probes of an access have returned, for it and for the accesses merged into them (R410, R416). -/
def execTranslationProbeResult (s : State) : Result := .next (match s.accesses[s.subj.n]? with
  | none => s
  | some a => match a.stage with
    | .probe =>
      let (r, s') := s.probeSet (whoOf (s.ctx a.lane)) a.va
      let shared := (s.accesses.eraseIdx s.subj.n).filter (s.sameProbe a r)
      (s'.stageStep s.subj.n fun a => some (afterXlat a.lane a.va a.op (r, s'))).probeShare r shared
    | _ => s)

def execDirtyBitSet (s : State) : Result := .next (s.stageStep s.subj.n fun a => match a.stage with
  | .setD x => some (s.setDStage a.lane a.va a.op x)
  | _ => none)

/-- (DEDUCED, log 34) -/
def execFaultRecordAdmit (s : State) : Result := .next (s.stageStep s.subj.n fun a => match a.stage with
  | .heldFault reason => some (s.faultStage a.lane a.va a.op reason)
  | _ => none)

/-- The target's response to an access outside region 0x0: with it the check point is passed, or the access has failed (R458). (DESIGN CHOICE, log 122; DEDUCED, log 123) -/
def execRemoteResponse (s : State) : Result := .next (s.stageStep s.subj.n fun a => match a.stage with
  | .remote x => some (if s.subj.ok then s.checkStage a.agent a.lane a.va a.op x else (trapStage a.op cPROTECTION 4 a.va, s))
  | _ => none)

/-! ### Writes and reductions (R123, R147, R156, R412, R458) -/

/-- The two writes have left one bank. -/
def PWrite.follows (w q : PWrite) : Bool := decide (q.agent.cl = w.agent.cl ∧ q.pipe = w.pipe)

/-- The oldest of the writes that a write of the same bank must follow, because they share bytes. -/
def State.oldestWrite (s : State) : Nat → Nat → Nat
  | 0, i => i
  | n + 1, i => match s.writes[i]? with
    | none => i
    | some w => match (s.writes.take i).findIdx? fun q => w.follows q && placesMeet q.place q.data.length w.place w.data.length with
      | some j => s.oldestWrite n j
      | none => i

/-- The VA of a write's first byte, and its PA; none in local store. -/
def PWrite.target (w : PWrite) : Option (Nat × Nat) := match w.place with
  | .mem va pa =>
    let k := ((List.range 64).find? fun i => w.mask.getLsbD i).getD 0
    some (va + k, pa + k)
  | .ls _ _ => none

/-- A write to a frame outside region 0x0 has failed: nothing is written; a release at SYS scope that waits for it will raise PROTECTION, and where none waits
a WRITE_LOST event reports it (R412, R455, R458). (DESIGN CHOICE, log 38) -/
def State.loseWrite (s : State) (agent : CtxId) (va pa : Nat) : State :=
  let lead := s.leader agent
  let waits := match (s.ctx lead).st with
    | .waiting (.performed .sys) _ => true
    | _ => false
  let (f, s) := s.freshFree
  let peer := if pa / 2 ^ 48 = 3 then fld pa 40 8 else f.toNat % 256
  if waits && (s.ctx lead).lostWrite.isNone then s.modCtx lead fun c => { c with lostWrite := some (BitVec.ofNat 64 va), lostTo := peer }
  else if waits then s
  else s.lostEvent agent (BitVec.ofNat 64 va) peer

/-- A write is performed, or, outside region 0x0, fails where the event says so or its peer is lost. -/
def State.writeEvent (s : State) (i : Nat) (ok : Bool) : State :=
  let j := s.oldestWrite s.writes.length i
  match s.writes[j]? with
  | none => s
  | some w =>
    let rest := { s with writes := s.writes.eraseIdx j }
    match w.target with
    | some (va, pa) =>
      if pa / 2 ^ 48 ≠ 0 ∧ (ok = false ∨ w.mute = true ∨ s.lostPeer pa = true) then rest.loseWrite w.agent va pa else rest.performWrite w
    | none => rest.performWrite w

/-- A write is performed or fails; or the target of its request will never answer (R458). -/
def execWritePerformed (s : State) : Result := .next (
  if s.subj.hi = 1 then { s with writes := s.writes.mapIdx fun i w => if i = s.subj.n then { w with mute := true } else w }
  else s.writeEvent s.subj.n s.subj.ok)

/-- A reduction of one group before another at its location, neither a scatter's (R156). -/
def PRed.before (q r : PRed) : Bool := decide (q.agent = r.agent) && !q.loose && !r.loose && placesMeet q.place q.n r.place r.n

/-- One reduction is applied: the oldest of its group at its location (R156); outside region 0x0 it fails as a write does. -/
def State.applyOldest (s : State) (i : Nat) (ok : Bool) : State := match s.reds[i]? with
  | none => s
  | some r =>
    let j := if r.loose then i else (s.reds.findIdx? fun q => q.before r).getD i
    match s.reds[j]? with
    | some q =>
      let rest := { s with reds := s.reds.eraseIdx j }
      match q.place with
      | .mem va pa => if pa / 2 ^ 48 ≠ 0 ∧ (ok = false ∨ s.lostPeer pa = true) then rest.loseWrite q.agent va pa else rest.applyRed q
      | .ls _ _ => rest.applyRed q
    | none => s

def execReductionApply (s : State) : Result := .next (s.applyOldest s.subj.n s.subj.ok)

/-- A dirty line is written back; it stays in the bank, clean (R123). (DESIGN CHOICE, log 31) -/
def execL1WritebackDeadline (s : State) : Result := .next (match s.l1[s.subj.n]? with
  | some l => s.writeBack l
  | none => s)

/-- Every 1024 cycles of a cluster, the pts of each of its groups rises by one (R124). -/
def execPtsTick (s : State) : Result := .next (
  let cl := s.subj.cl
  if ((s.cluster cl).ticks + 1) * 1024 ≤ s.cycle cl then
    { s.modCluster cl (fun k => { k with ticks := k.ticks + 1 }) with
      ctxs := s.ctxs.map fun (c : Ctx) => if c.id.cl = cl then { c with pts := c.pts + 1 } else c }
  else s)

/-! ### Fumarole (R148, R149) -/

/-- The end of a window, in ns. -/
def windowEnd (w : Nat) : Nat := 16 * (w + 1)

def execFumaroleWindowClose (s : State) : Result := .next (
  if windowEnd s.subj.num ≤ s.gtime then
    { s with scops := s.scops.map fun (o : ScOp) => if o.window ≤ s.subj.num then { o with closed := true } else o }
  else s)

/-- The order S (R148). -/
def State.scBefore (s : State) (a b : ScOp) : Bool :=
  let key := fun (o : ScOp) => ((((o.window * 65536 + s.logical o.agent.cl) * 16 + o.agent.pipe) * 4 + o.agent.slot) * 2 ^ 64) + o.seq
  decide (key a ≤ key b)

/-- One lane's sc atomic, applied at its location's home (R149). A compare-and-swap that succeeds after a far write of its group has failed traps (R458). (DEDUCED, log 28) -/
def State.scAtomic (s : State) (agent : CtxId) (sm : Bool) (o : CtxId × Place × MemOp) : State := match o.2.2 with
  | .amo op n v cmp d sc _ =>
    let (va, bad) := match o.2.1 with
      | .mem va pa => (va, s.poisonedAt pa n)
      | .ls _ _ => (0, false)
    if bad then s.poisonLong o.1 d va
    else match s.homeRmw agent o.1 o.2.1 op n v cmp d sc (some sc) with
      | (.trapped c st w, s) => { s with accesses := s.accesses ++
          [({ agent := agent, lane := o.1, va := va, op := o.2.2, stage := .trapped c st w, sm := sm } : Access)] }
      | (_, s) => s
  | .load _ _ _ _ _ => s
  | .store _ _ _ _ => s
  | .red _ _ _ _ _ => s
  | .prefetch _ => s

/-- The late writes from place k of the list on are made now: the operation that made them completes when its values return (R149). -/
def State.writeFrom (s : State) (k : Nat) : State :=
  (s.longs.drop k).foldl (fun (s : State) l => if l.poisoned.isSome then { s with longs := s.longs ++ [l] } else s.writeLong l)
    { s with longs := s.longs.take k }

/-- An sc operation completes: it observes every earlier one of S, its atomics are applied, and its group goes on (R149), at the admission of its cluster where
that is idle (R439). -/
def State.scComplete (s : State) (o : ScOp) : State :=
  let ids := s.members o.agent
  let s := s.observe o.agent s.scTs
  let k := s.longs.length
  let s := o.ops.foldl (fun (s : State) x => s.scAtomic o.agent o.sm x) s
  let s := s.writeFrom k
  let s := match o.ops.findSome? fun x => x.2.2.acq with
    | some .sys => s.acquire o.agent .sys
    | _ => s.acquireLocal o.agent
  let s := { s with scTs := max s.scTs (s.relTs o.agent), cur := o.agent }
  let s := if s.accesses.any fun a => decide (a.agent = o.agent) then s.finishHits o.agent false else s.retire o.sm
  if (s.cluster o.agent.cl).active then s
  else { s with ctxs := s.ctxs.map fun (c : Ctx) =>
      if (ids.contains c.id && c.st == .ready) then { c with st := .waiting .scDone s.gtime, woken := true } else c }

/-- The announcements of a window, and of those before it, arrive 96 ns after its end: their operations complete in the order S. -/
def execFumaroleArrival (s : State) : Result := .next (
  if windowEnd s.subj.num + 96 ≤ s.gtime then
    let due := (s.scops.filter fun o => o.closed && decide (o.window ≤ s.subj.num)).mergeSort s.scBefore
    let s := { s with scops := s.scops.filter fun o => !(o.closed && decide (o.window ≤ s.subj.num)) }
    due.foldl State.scComplete s
  else s)

end Sys2Proof.Machine
end

