-- ==== Sys2Proof/Machine/SfuMath.lean ====
section
/-! DEFINITION. Sys2Proof/Machine/SfuMath.lean: the special functions (spec/03 R101). Where the manual fixes the result it is computed; where it
bounds the error, the result is one of the codes within the bound, which one Config.sfu says for function and operand
(notes/assumptions/9.md). The exact value is compared through an approximation whose relative error is below 2^−90. -/

namespace Sys2Proof.Machine

/-! ### Fixed-point series, in units of 2^−256 -/

def fpOne : Nat := 2 ^ 256

/-- Sum of x^(2k+1)/(2k+1), or with alternating signs, for k below n; t holds the power. -/
def oddSeries (alt : Bool) (x2 : Nat) : Nat → Nat → Nat → Int
  | 0, _, _ => 0
  | n + 1, k, t =>
    let v : Int := (t / (2 * k + 1) : Nat)
    (if alt && k % 2 == 1 then -v else v) + oddSeries alt x2 n (k + 1) (t * x2 / fpOne)

/-- arctan(1/m). -/
def atanInv (m : Nat) : Int := oddSeries true (fpOne / (m * m)) 120 0 (fpOne / m)

/-- π. -/
def fpPi : Nat := (16 * atanInv 5 - 4 * atanInv 239).toNat

/-- ln m = 2·artanh((m − 1)/(m + 1)) of n/d at or above 1 and below 2. -/
def fpLn (n d : Nat) : Nat :=
  let z := (n - d) * fpOne / (n + d)
  2 * (oddSeries false (z * z / fpOne) 170 0 z).toNat

/-- ln 2. -/
def fpLn2 : Nat := 2 * (oddSeries false (fpOne / 9) 170 0 (fpOne / 3)).toNat

/-- Sum of y^k/k! for k from i on. -/
def expSeries (y : Nat) : Nat → Nat → Nat → Nat
  | 0, _, _ => 0
  | n + 1, i, t => t + expSeries y n (i + 1) (t * y / fpOne / (i + 1))

/-- e^y for y below 1. -/
def fpExp (y : Nat) : Nat := expSeries y 60 0 fpOne

/-- Sum of (−1)^k·y^(2k+j)/(2k+j)! from i on, alternating. -/
def trigSeries (y2 : Nat) : Nat → Nat → Nat → Int
  | 0, _, _ => 0
  | n + 1, i, t => (t : Int) - trigSeries y2 n (i + 2) (t * y2 / fpOne / ((i + 1) * (i + 2)))

/-- sin and cos of an angle between 0 and π/2. -/
def fpSin (y : Nat) : Nat := (trigSeries (y * y / fpOne) 60 1 y).toNat
def fpCos (y : Nat) : Nat := (trigSeries (y * y / fpOne) 60 0 fpOne).toNat

/-! ### Values of the functions at a finite operand ±n/d that no special case takes -/

/-- 2^(n/d) with sign. -/
def exp2Val (neg : Bool) (n d : Nat) : Ex :=
  let q := n / d
  let f := (n % d) * fpOne / d
  let (k, f) : Int × Nat := if neg then (if f = 0 then (-(q : Int), 0) else (-(q : Int) - 1, fpOne - f)) else (q, f)
  let m := fpExp (f * fpLn2 / fpOne)
  if 1100 < k then .fin false (2 ^ 1100) 1 else if k < -1100 then .fin false 1 (2 ^ 1100)
  else if 0 ≤ k then .fin false (m * 2 ^ k.toNat) fpOne else .fin false m (fpOne * 2 ^ (-k).toNat)

/-- log2(n/d). -/
def log2Val (n d : Nat) : Ex :=
  let e := floorLog2 n d
  let (a, b) := if 0 ≤ e then (n, d * 2 ^ e.toNat) else (n * 2 ^ (-e).toNat, d)
  let v : Int := e * fpOne + (fpLn a b * fpOne / fpLn2 : Nat)
  .fin (decide (v < 0)) v.natAbs fpOne

/-- |sin(π·n/d)| and whether it is negative, for n/d at or above 0. -/
def sinPiVal (n d : Nat) : Bool × Nat :=
  let r := n % (2 * d)
  let neg := d < r
  let r := if neg then r - d else r
  let r := if d < 2 * r then d - r else r
  (neg, if 4 * r ≤ d then fpSin (fpPi * r / d) else fpCos (fpPi * (d - 2 * r) / (2 * d)))

/-- tanh of n/d above 0. -/
def tanhVal (n d : Nat) : Ex :=
  if 32 * d ≤ n then .fin false (2 ^ 90 - 1) (2 ^ 90)
  else
    let y := 2 * n * fpOne / d
    let k := y / fpLn2
    let e := fpExp (y - k * fpLn2) * 2 ^ k
    .fin false (e - fpOne) (e + fpOne)

/-! ### The codes within the bound -/

/-- |a − b| ≤ n/d·ulp32(b), or at most 2^−22 where abs22 is set. (DESIGN CHOICE, log 9) -/
def withinUlp (k : Nat) (abs22 : Bool) (a b : Ex) : Bool := match a.add .rne b.neg, b with
  | .fin _ n d, .fin _ p q =>
    let e := max (floorLog2 p q) (-126) - 23
    (if 0 ≤ e then decide (n ≤ k * 2 ^ e.toNat * d) else decide (n * 2 ^ (-e).toNat ≤ k * d)) ||
      (abs22 && decide (n * 2 ^ 22 ≤ d))
  | _, _ => false

/-- The f32 codes near the value that lie within k ulp of it. (DESIGN CHOICE, log 9) -/
def nearCodes (k span : Nat) (abs22 : Bool) (x : Ex) : List Nat :=
  let c := roundTo .f32 .rne false x
  let s := c / 2 ^ 31 * 2 ^ 31
  let m := c % 2 ^ 31
  ((List.range (2 * span + 1)).filterMap fun i => if m + i < span then none else some (s + (m + i - span))).filter fun c =>
    decide (c % 2 ^ 31 ≤ 0x7F800000) && (withinUlp k abs22 (decodeFloat .f32 c) x)

/-- A result that the manual bounds: one of the codes within k ulp of the value. (DESIGN CHOICE, log 9) -/
def bounded (fn code k : Nat) (abs22 : Bool) (x : Ex) : Nat :=
  let near := roundTo .f32 .rne false x
  let l := nearCodes k (if abs22 then 64 else k) abs22 x
  if near % 2 ^ 31 = 0x7F800000 ∨ l.length = 0 then near
  else (l[(Config.sfu fn (BitVec.ofNat 32 code)).toNat % l.length]?).getD near

/-- n/d is a power of two. -/
def isPow2 (n d : Nat) : Bool :=
  let e := floorLog2 n d
  if 0 ≤ e then n == d * 2 ^ e.toNat else n * 2 ^ (-e).toNat == d

/-- The function on an operand that is finite and not zero. (DESIGN CHOICE, log 9) -/
def sfuFinite (fn : Nat) (rm : RMode) (code : Nat) (neg : Bool) (n d : Nat) : Nat :=
  let f : FFmt := .f32
  match fn with
  | 0 => if isPow2 n d then roundTo f .rne false (.fin neg d n) else bounded 0 code 1 false (.fin neg d n)
  | 1 =>
    if neg then f.nan
    else if isPow2 n d && floorLog2 n d % 2 == 0 then roundTo f .rne false (Ex.sqrt (.fin false d n))
    else bounded 1 code 1 false (Ex.sqrt (.fin false d n))
  | 2 => if neg then f.nan else roundTo f rm false (Ex.sqrt (.fin false n d))
  | 3 => if n % d = 0 then roundTo f .rne false (exp2Val neg n d) else bounded 3 code 2 false (exp2Val neg n d)
  | 4 =>
    if neg then f.nan
    else if isPow2 n d then roundTo f .rne false (Ex.ofInt (floorLog2 n d))
    else bounded 4 code 2 (decide (d ≤ 2 * n ∧ n ≤ 2 * d)) (log2Val n d)
  | 5 =>
    if n % d = 0 then f.sgn neg
    else
      let (g, m) := sinPiVal n d
      bounded 5 code 2 false (.fin (neg != g) m fpOne)
  | 6 =>
    if n % d = 0 ∧ n / d % 2 = 0 then 0x3F800000
    else if 2 * n % d = 0 ∧ 2 * n / d % 2 = 1 then 0
    else
      let (g, m) := sinPiVal (2 * n + d) (2 * d)
      bounded 6 code 2 false (.fin g m fpOne)
  | _ => match tanhVal n d with
    | .fin _ p q => bounded 7 code 2 false (.fin neg p q)
    | .inf _ => f.nan
    | .nan => f.nan

/-- The function on an f32 code, with .ftz and the mode of `.sqrt` (R101, R270). (DESIGN CHOICE, log 9) -/
def sfuEval (fn : Nat) (ftz : Bool) (rm : RMode) (code : Nat) : Nat :=
  let f : FFmt := .f32
  let code := flushCode f ftz (code % 2 ^ 32)
  flushCode f ftz (match decodeFloat f code with
    | .nan => f.nan
    | .inf neg => match fn with
      | 0 => f.sgn neg
      | 1 => if neg then f.nan else 0
      | 2 => if neg then f.nan else f.infCode
      | 3 => if neg then 0 else f.infCode
      | 4 => if neg then f.nan else f.infCode
      | 5 => f.nan
      | 6 => f.nan
      | _ => f.sgn neg + 0x3F800000
    | .fin neg n d =>
      if n = 0 then match fn with
        | 0 => f.sgn neg + f.infCode
        | 1 => f.sgn neg + f.infCode
        | 2 => f.sgn neg
        | 3 => 0x3F800000
        | 4 => f.sgn true + f.infCode
        | 5 => f.sgn neg
        | 6 => 0x3F800000
        | _ => f.sgn neg
      else sfuFinite fn rm code neg n d)

end Sys2Proof.Machine
end

