-- ==== Sys2Proof/Machine/Desc.lean ====
section
/-! DEFINITION. Sys2Proof/Machine/Desc.lean: engine work that may fail (spec/04 R132), sparse descriptors and the reading of their arrays
(spec/06 R190; spec/10 R319 to R324), and the equal-share rule (R340). -/

namespace Sys2Proof.Machine

/-- Work of an engine: it may fail, and what it did before a failure stays. -/
abbrev Eng (α : Type) := State → Except Fail α × State

/-- Work that ends with a value. -/
def Eng.ret {α : Type} (a : α) : Eng α := fun s => (.ok a, s)

/-- Work that fails. -/
def Eng.fail {α : Type} (e : Fail) : Eng α := fun s => (.error e, s)

/-- Going on where the work did not fail. -/
def Eng.andThen {α β : Type} (m : Eng α) (k : α → Eng β) : Eng β := fun s => match m s with
  | (.ok a, s) => k a s
  | (.error e, s) => (.error e, s)

/-- Changing the state. -/
def Eng.act (f : State → State) : Eng Unit := fun s => (.ok (), f s)

/-- The same work for every element of a list, in order. -/
def Eng.each {α β : Type} (f : α → Eng β) : List α → Eng (List β)
  | [] => Eng.ret []
  | a :: r => (f a).andThen fun b => (Eng.each f r).andThen fun bs => Eng.ret (b :: bs)

/-- The same work for every element of a list, in order, for its effect. -/
def Eng.forAll {α : Type} (f : α → Eng Unit) : List α → Eng Unit
  | [] => Eng.ret ()
  | a :: r => (f a).andThen fun _ => Eng.forAll f r

/-- A test that fails with e. -/
def Eng.need (b : Bool) (e : Fail) : Eng Unit := if b then Eng.ret () else Eng.fail e

/-! ### Bytes (R104, R106, R109, R115, R322) -/

/-- The address lies in LS behind a window other than W0. -/
def behindWindow (va : Nat) : Bool := (regionOf va == .lsAny || regionOf va == .lsOwn) && fld va 20 3 != 0

/-- Reading n bytes, each aligned granule of 256 by itself: the bytes of one are adjacent in PA on every page (R409). -/
def readParts (w : Who) : Nat → Nat → Nat → Eng (List Byte)
  | 0, _, _ => Eng.ret []
  | k + 1, va, n =>
    if n = 0 then Eng.ret []
    else
      let m := min n (256 - va % 256)
      Eng.andThen (fun s => s.engRead w va m) fun x => (readParts w k (va + m) (n - m)).andThen fun y => Eng.ret (x ++ y)

/-- Granules of 256 bytes that n bytes meet. -/
def granules (va n : Nat) : Nat := (va % 256 + n + 255) / 256

/-- Reading n bytes from paged memory or LS through W0. -/
def readBytes (w : Who) (va n : Nat) : Eng (List Byte) :=
  if 2 ^ 56 ≤ va ∨ behindWindow va = true then Eng.fail (.err cPROTECTION 0 va) else readParts w (granules va n) va n

/-- Reading a little-endian number of n bytes. -/
def readNum (w : Who) (va n : Nat) : Eng Nat := (readBytes w va n).andThen fun b => Eng.ret (leNat b)

/-- Writing bytes, each aligned granule of 256 by itself. -/
def writeParts (w : Who) (agent : Option CtxId) : Nat → Nat → List Byte → Eng Unit
  | 0, _, _ => Eng.ret ()
  | k + 1, va, data =>
    if data.isEmpty then Eng.ret ()
    else
      let m := 256 - va % 256
      Eng.andThen (fun s => s.engWrite w agent va (data.take m)) fun _ => writeParts w agent k (va + m) (data.drop m)

/-- Writing bytes to paged memory or LS through W0 for an agent. -/
def writeBytes (w : Who) (agent : Option CtxId) (va : Nat) (data : List Byte) : Eng Unit :=
  if 2 ^ 56 ≤ va ∨ behindWindow va = true then Eng.fail (.err cPROTECTION 0 va) else writeParts w agent (granules va data.length) va data

/-! ### Descriptors (R190) -/

/-- The n-byte number at offset i of a block. -/
def blkNum (b : List Byte) (i n : Nat) : Nat := leNat ((b.drop i).take n)

/-- The descriptor is malformed, VALID apart. -/
def descBad (b : List Byte) : Bool :=
  let nlvl := blkNum b 1 1 % 8
  let vt := blkNum b 4 1
  decide (nlvl = 0 ∨ 4 < nlvl ∨ blkNum b 0 1 % 4 = 3 ∨ vt = 15 ∨ blkNum b 1 1 / 16 ≠ 0 ∨ blkNum b 5 3 ≠ 0 ∨ blkNum b 12 4 ≠ 0 ∨
    blkNum b 112 16 ≠ 0) || !tyKnown vt

/-- VALID is set. -/
def descValid (b : List Byte) : Bool := bitAt (blkNum b 1 1) 3

/-- The fields of a descriptor. -/
def parseDesc (addr : Nat) (b : List Byte) : SDesc where
  addr := addr
  kinds := (List.range 4).map fun l => blkNum b 0 1 / 4 ^ l % 4
  nlvl := blkNum b 1 1 % 8
  ordered := BitVec.ofNat 4 (blkNum b 2 1)
  unique := BitVec.ofNat 4 (blkNum b 2 1 / 16)
  posw := BitVec.ofNat 4 (blkNum b 3 1)
  crdw := BitVec.ofNat 4 (blkNum b 3 1 / 16)
  vtype := blkNum b 4 1
  gen := blkNum b 8 4
  ext := (List.range 4).map fun l => blkNum b (16 + 4 * l) 4
  pos := (List.range 4).map fun l => blkNum b (32 + 8 * l) 8
  crd := (List.range 4).map fun l => blkNum b (64 + 8 * l) 8
  val := blkNum b 96 8
  nnz := blkNum b 104 8

/-- Reading a descriptor; a malformed one is of kind 5 (R324). -/
def readDesc (w : Who) (va : Nat) : Eng SDesc :=
  (readBytes w va 128).andThen fun b =>
    if descBad b || !descValid b then Eng.fail (.sparse 5 0 0 va) else Eng.ret (parseDesc va b)

def SDesc.kind (d : SDesc) (l : Nat) : Nat := (d.kinds[l]?).getD 0
def SDesc.extent (d : SDesc) (l : Nat) : Nat := (d.ext[l]?).getD 0
def SDesc.posBytes (d : SDesc) (l : Nat) : Nat := if d.posw.getLsbD l then 8 else 4
def SDesc.crdBytes (d : SDesc) (l : Nat) : Nat := if d.crdw.getLsbD l then 4 else 2
/-- D and B levels are always ordered and unique (R323); an S level is unique within its fibre. -/
def SDesc.isOrdered (d : SDesc) (l : Nat) : Bool := d.kind l == 0 || d.kind l == 2 || d.ordered.getLsbD l
def SDesc.isUnique (d : SDesc) (l : Nat) : Bool := d.kind l == 0 || d.kind l == 2 || d.kind l == 3 || d.unique.getLsbD l

/-- Address of entry i of the pos or prefix array, of the crd array, of word i of the bit array (R319, R320). -/
def SDesc.posVa (d : SDesc) (l i : Nat) : Nat := (d.pos[l]?).getD 0 + i * d.posBytes l
def SDesc.crdVa (d : SDesc) (l i : Nat) : Nat := (d.crd[l]?).getD 0 + i * d.crdBytes l
def SDesc.wordVa (d : SDesc) (l i : Nat) : Nat := (d.crd[l]?).getD 0 + 8 * i

def readPos (w : Who) (d : SDesc) (l i : Nat) : Eng Nat := readNum w (d.posVa l i) (d.posBytes l)
def readCrd (w : Who) (d : SDesc) (l i : Nat) : Eng Nat := readNum w (d.crdVa l i) (d.crdBytes l)
def readBits (w : Who) (d : SDesc) (l i : Nat) : Eng Nat := readNum w (d.wordVa l i) 8

/-- pos[p] and pos[p + 1], in order (R324 kind 2). -/
def readPosPair (w : Who) (d : SDesc) (l p : Nat) : Eng (Nat × Nat) :=
  (readPos w d l p).andThen fun a => (readPos w d l (p + 1)).andThen fun b =>
    if b < a then Eng.fail (.sparse 2 l (p + 1) (d.posVa l (p + 1))) else Eng.ret (a, b)

/-! ### Equal shares (R340) -/

/-- Rows of a level: the product of the extents above it. -/
def SDesc.rows (d : SDesc) (l : Nat) : Nat := ((List.range l).map d.extent).foldl (· * ·) 1

/-- The least i with pos[i] ≥ t, between lo and hi, by binary search; pairs that it reads out of order are of kind 2. `lv` and `hv` are the
last entries read below lo and at hi. -/
def shareSearch (w : Who) (d : SDesc) (l t : Nat) : Nat → Nat → Nat → Nat → Nat → Eng Nat
  | 0, _, hi, _, _ => Eng.ret hi
  | n + 1, lo, hi, lv, hv =>
    if hi ≤ lo then Eng.ret hi
    else
      let mid := (lo + hi) / 2
      (readPos w d l mid).andThen fun v =>
        if v < lv then Eng.fail (.sparse 2 l mid (d.posVa l mid))
        else if hv < v then Eng.fail (.sparse 2 l hi (d.posVa l hi))
        else if t ≤ v then shareSearch w d l t n lo mid lv v
        else shareSearch w d l t n (mid + 1) hi v hv

/-- ShareBound: b_r of n parts of level l. -/
def shareBound (w : Who) (d : SDesc) (l r n : Nat) : Eng Nat :=
  let p := d.rows l
  (readPos w d l 0).andThen fun a => (readPos w d l p).andThen fun z =>
    if z < a then Eng.fail (.sparse 2 l p (d.posVa l p))
    else shareSearch w d l (a + (r * (z - a) + n - 1) / n) 160 0 p a z

end Sys2Proof.Machine
end

