-- ==== Sys2Proof/Machine/Views.lean ====
section
/-! DEFINITION. Sys2Proof/Machine/Views.lean: shape records, the views that they name, and their elements as engines read and write them
(spec/06 R187 to R189; spec/04 R111, R113, R116 to R119, R131, R132; spec/05 R188 of spec/06 on elements reached twice). -/

namespace Sys2Proof.Machine

/-! ### Records (R187, R188) -/

/-- A signed 64-bit number. -/
def sgn64 (v : Nat) : Int := signedOf 64 v

/-- The record breaks a rule of R188 that its own bytes show. -/
def recordBad (b : List Byte) : Bool :=
  let rank := blkNum b 9 1 % 8
  let nopart := bitAt (blkNum b 9 1) 3
  let pmode := blkNum b 10 1 % 4
  let pdim := blkNum b 11 1 % 4
  !tyKnown (blkNum b 8 1) || decide (rank = 0 ∨ 4 < rank ∨ blkNum b 9 1 / 16 ≠ 0 ∨ blkNum b 10 1 / 4 ≠ 0 ∨ blkNum b 11 1 / 4 ≠ 0 ∨
    blkNum b 7 1 ≠ 0) ||
    (!nopart && (pmode == 3 || (pmode != 0 && decide (rank ≤ pdim)) || (pmode == 0 && blkNum b 12 4 != 0)))

/-- The view of a record; dimensions at or above RANK have extent 1 and stride 0. -/
def parseView (addr : Nat) (b : List Byte) : View :=
  let rank := blkNum b 9 1 % 8
  { addr := addr, base := blkNum b 0 8, ty := blkNum b 8 1, rank := rank
    e := Vector.ofFn fun k => if k.val < rank then blkNum b (16 + 4 * k.val) 4 else 1
    s := Vector.ofFn fun k => if k.val < rank then sgn64 (blkNum b (32 + 8 * k.val) 8) else 0 }

/-- Extent and stride of a dimension. -/
def View.ext (v : View) (k : Nat) : Nat := (v.e.toList[k]?).getD 1
def View.str (v : View) (k : Nat) : Int := (v.s.toList[k]?).getD 0

/-- Number of elements. -/
def View.count (v : View) : Nat := v.ext 0 * v.ext 1 * v.ext 2 * v.ext 3

/-- Window that the base names: 0 outside LS. -/
def View.win (v : View) : Nat :=
  if regionOf v.base = .lsAny ∨ regionOf v.base = .lsOwn then fld v.base 20 3 else 0

def View.isVreg (v : View) : Bool := regionOf v.base == .vreg

/-- LS bytes from a window's base to the element k elements on, whose half of the byte `winNib` names (R113). -/
def winStep (win : Nat) (k : Int) : Int := if winBits win = 4 then k / 2 else if winBits win = 16 then 2 * k else k

/-- The element k elements after a window's base lies in the high half of its byte. -/
def winNib (win : Nat) (k : Int) : Nat := if winBits win = 4 then (k % 2).toNat else 0

/-- A view's elements are half-bytes: of a 4-bit type, or behind W3 or W5. -/
def View.nibbles (v : View) : Bool := if v.win = 0 then tyBits v.ty == 4 else winBits v.win == 4

/-- The view with dimension d cut to [lo, hi) (R189); none for an odd offset in half-bytes. -/
def View.slice (v : View) (d lo hi : Nat) : Option View :=
  let off : Int := lo * v.str d
  let base : Int := v.base + if v.win = 0 then off * tyBits v.ty / 8 else winStep v.win off
  if v.nibbles && off % 2 != 0 then none
  else some { v with
    base := wrapNat 64 base
    e := Vector.ofFn fun k => if k.val = d then hi - lo else v.ext k.val }

/-- TeamSlice under PMODE 1 (R189). -/
def evenSlice (e g r n : Nat) : Nat × Nat :=
  let g := max g 1
  let c := g * (((e + n - 1) / n + g - 1) / g)
  let lo := min (r * c) e
  (lo, min (lo + c) e)

/-! ### Alignment and types (R116, R131) -/

/-- The base is aligned (R131). -/
def View.aligned (v : View) : Bool :=
  let w := v.win
  if w = 0 then (if tyBits v.ty < 16 then true else v.base % (tyBits v.ty / 8) == 0)
  else if 6 ≤ w then v.base % 2 == 0 else true

/-- The type suits the window (R116). -/
def View.winTypeOk (v : View) : Bool :=
  let w := v.win
  if w = 0 then true
  else if w ≤ 6 then v.ty == 2 || v.ty == 3
  else v.ty == 2 || v.ty == 4

/-- Why a record cannot be used: it reaches beyond the allocation, it is invalid or misaligned, or the structure that shares it out is malformed: kind of
R324, level, index of the entry (R340). -/
inductive BadRec where
  | beyond | invalid
  | sparse (kind level idx : Nat)
deriving DecidableEq, Repr

/-- EVAL of SPARSE_MALFORMED (R331). -/
def sparseVal (q level idx : Nat) : Word := BitVec.ofNat 64 (q % 16 * 2 ^ 60 + level % 4 * 2 ^ 58 + idx % 2 ^ 58)

/-- The bytes of record i of the issuing context's team (R186); none beyond the allocation. -/
def State.recordBytes (s : State) (t : Option Team) (i : Nat) : Option (Nat × List Byte) :=
  t.bind fun t =>
    if t.lsSize < 64 * i + 64 then none
    else some (0xC1000000000000 + 64 * i, Memory.readN s.ls (lsKey t.cl (t.lsBase + 64 * i)) 64)

/-- The slice of a record split by nonzeros (R189): by its descriptor in the allocation, at level 1. -/
def nnzSlice (w : Who) (t : Team) (b : List Byte) (v : View) : Eng (Option View) :=
  let d := blkNum b 11 1 % 4
  let va := 0xC1000000000000 + 64 * blkNum b 12 4
  (readDesc w va).andThen fun sd =>
    if sd.kind 0 ≠ 0 ∨ sd.kind 1 ≠ 1 ∨ sd.nlvl < 2 ∨ sd.extent 0 ≠ v.ext d then Eng.ret none
    else (shareBound w sd 1 t.trank (max t.gsize 1)).andThen fun lo =>
      (shareBound w sd 1 (t.trank + 1) (max t.gsize 1)).andThen fun hi => Eng.ret (v.slice d lo hi)

/-- A type whose codes have values: not q8, q4 or e5m3. -/
def valued (ty : Nat) : Bool := (tyFmt ty).isSome || tyInt ty

/-- A slice, or an invalid record (R189). -/
def orInvalid : Option View → Except BadRec View
  | some v => .ok v
  | none => .error .invalid

/-- Record i as a view for the issuing team (R187 to R189). One split by nonzeros whose descriptor or pos entries are not accessible is invalid; of a
malformed one the error is that of ShareBound (R340). A copy judges the raw types that it finds at a window itself (R301). (DEDUCED, log 68; DESIGN CHOICE, log 157) -/
def State.recordFor (copy : Bool) (s : State) (c : Ctx) (i : Nat) : Except (BadRec × Nat) View × State :=
  let t := s.teamOf c.id
  match s.recordBytes t i, t with
  | some (addr, b), some t =>
    if recordBad b then (.error (.invalid, addr), s)
    else
      let v := parseView addr b
      let pmode := if bitAt (blkNum b 9 1) 3 then 0 else blkNum b 10 1 % 4
      let d := blkNum b 11 1 % 4
      let (o, s) : Except BadRec View × State := match pmode with
        | 0 => (.ok v, s)
        | 1 =>
          let (lo, hi) := evenSlice (v.ext d) (blkNum b 12 4) t.trank (max t.gsize 1)
          (orInvalid (v.slice d lo hi), s)
        | _ => match nnzSlice (whoOf c) t b v s with
          | (.ok o, s) => (orInvalid o, s)
          | (.error (.sparse k l i _), s) => (.error (.sparse k l i), s)
          | (.error (.stall _ _ _), s) => (.error .invalid, s)
          | (.error (.err _ _ _), s) => (.error .invalid, s)
      match o with
      | .ok v => if (v.winTypeOk || (copy && !valued v.ty)) && v.aligned then (.ok v, s) else (.error (.invalid, addr), s)
      | .error e => (.error (e, addr), s)
  | _, _ => (.error (.beyond, 0), s)

/-- The type byte of a record as it stands. -/
def State.rawType (s : State) (t : Option Team) (i : Nat) : Nat := match s.recordBytes t i with
  | some (_, b) => blkNum b 8 1
  | none => 0

/-- Record i for a command that takes no raw type at a window (R116). -/
def State.record (s : State) (c : Ctx) (i : Nat) : Except (BadRec × Nat) View × State := s.recordFor false c i

/-! ### Index tuples (R252) -/

/-- An index tuple (i0, i1, i2, i3). -/
abbrev Tup := Nat × Nat × Nat × Nat

/-- Element offset of a tuple: Σ ik·Sk. -/
def View.off (v : View) (i : Tup) : Int := i.1 * v.str 0 + i.2.1 * v.str 1 + i.2.2.1 * v.str 2 + i.2.2.2 * v.str 3

/-- The tuple of number f in the order of R252. -/
def View.tup (v : View) (f : Nat) : Tup :=
  let r0 := f / max (v.ext 0) 1
  let r1 := r0 / max (v.ext 1) 1
  (f % max (v.ext 0) 1, r0 % max (v.ext 1) 1, r1 % max (v.ext 2) 1, r1 / max (v.ext 2) 1)

/-- Broadcast (R248): index 0 where the source's extent is 1. -/
def View.bcast (v : View) (i : Tup) : Tup :=
  let f := fun (k n : Nat) => if v.ext k = 1 then 0 else n
  (f 0 i.1, f 1 i.2.1, f 2 i.2.2.1, f 3 i.2.2.2)

/-- Lowest and highest element offset that the extents and strides reach. -/
def View.span (v : View) : Int × Int :=
  (List.range 4).foldl (fun a k =>
    let d := ((v.ext k : Int) - 1) * v.str k
    if d < 0 then (a.1 + d, a.2) else (a.1, a.2 + d)) (0, 0)

/-- The highest byte of the register space that a view reaches, plus one; 0 for an empty one (R111). -/
def View.vrTop (v : View) : Nat :=
  if v.count = 0 then 0
  else
    let o := v.span.2.toNat
    v.base % 2 ^ 48 + (if tyBits v.ty = 4 then o / 2 + 1 else (o + 1) * (tyBits v.ty / 8))

/-- A VRS view reaches beyond the registers of n blocks (R111). -/
def View.beyondVrs (v : View) (n : Nat) : Bool := v.isVreg && decide (1024 * n < v.vrTop)

/-! ### Elements at their places -/

/-- Where an element lies. -/
inductive Target where
  | bytes (p : Place) (n : Nat)
  | nib (p : Place) (hi : Bool)
  | win (l : LsAt) (wd : Word) (e : Nat)
  | vr (key n : Nat)
  | vrNib (key : Nat) (hi : Bool)
deriving DecidableEq, Repr

/-- Key of byte o of a context's vector registers. -/
def vrsKey (id : CtxId) (o : Nat) : Nat := 2 ^ 18 * ctxNum id + o

/-- The window descriptor that an engine's access uses: as read at issue for the issuing team's own allocation, and as in force for another's
(R120). -/
def State.wdFor (s : State) (b : Behalf) (l : LsAt) : Word :=
  match b.team.bind (s.team b.ctx.cl) with
  | some t => if l.cl = b.ctx.cl ∧ l.base = t.lsBase then wdAt b.wds l.win else wdAt l.wds l.win
  | none => wdAt l.wds l.win

/-- The element k elements after a window's base (R113, R116): the byte that holds it is found first, and its index counts from its allocation. -/
def State.winTarget (s : State) (b : Behalf) (base : Nat) (k : Int) : Except Fail Target × State :=
  let w := fld base 20 3
  let o : Int := fld base 0 20 + winStep w k
  if 2 ^ 56 ≤ base ∨ o < 0 ∨ 2 ^ 20 ≤ o then
    -- no VA names the element: what the error reports is open
    let (f, s) := s.freshFree
    (.error (.err cPROTECTION 3 (f.toNat % 2 ^ 56)), s)
  else
    let va := base - fld base 0 20 + o.toNat
    match s.lsAt (whoB b) va with
    | .error st => (.error (.err cPROTECTION st va), s)
    | .ok l =>
      let wd := s.wdFor b l
      let e := winElem w l.off + winNib w k
      if b.priv != .machine && l.size < l.off + (if winBits w = 16 then 2 else 1) then (.error (.err cPROTECTION 3 va), s)
      else match winBad w wd l.size e with
        | some st => (.error (.err cPROTECTION st va), s)
        | none => (.ok (.win l wd e), s)

/-- An element that a window names lies in poisoned data (R384). -/
def State.badTarget (s : State) : Target → Bool
  | .win l _ e => s.lsPoisoned l.cl (l.base + e * winBits l.win / 8) (if winBits l.win = 16 then 2 else 1)
  | .bytes _ _ => false
  | .nib _ _ => false
  | .vr _ _ => false
  | .vrNib _ _ => false

/-- Where element offset k of a view lies: translated and checked for the access (R104, R106, R109, R113, R418). -/
def View.target (v : View) (b : Behalf) (need : Need) (k : Int) : Eng Target := fun s =>
  let bits := tyBits v.ty
  if v.win ≠ 0 then match s.winTarget b v.base k with
    | (.ok t, s) => if s.badTarget t && need != .write then (.error (.err cPROTECTION 4 v.base), s) else (.ok t, s)
    | e => e
  else
    let a : Int := (v.base : Int) + (if bits = 4 then k / 2 else k * (bits / 8 : Nat))
    let hi := bits == 4 && k % 2 != 0
    if a < 0 ∨ 2 ^ 56 ≤ a then (.error (.err cPROTECTION 0 v.base), s)
    else
      let va := a.toNat
      if regionOf va ≠ regionOf v.base ∨ behindWindow va = true then (.error (.err cPROTECTION 3 va), s)
      else if v.isVreg then
        let o := va % 2 ^ 48
        if 2 ^ 18 ≤ o then (.error (.err cPROTECTION 0 va), s)
        else if linesBad s.vrsPoison (vrsKey b.ctx o) (if bits = 4 then 1 else bits / 8) && need != .write then (.error (.err cPROTECTION 4 va), s)
        else (.ok (if bits = 4 then .vrNib (vrsKey b.ctx o) hi else .vr (vrsKey b.ctx o) (bits / 8)), s)
      else
        let n := if bits = 4 then 1 else bits / 8
        match s.engPlace (whoB b) need va n with
        | (.ok p, s) => (.ok (if bits = 4 then .nib p hi else .bytes p n), s)
        | (.error e, s) => (.error e, s)

/-- Element format of a record read or written through a window: its type's. -/
def recFmt (ty : Nat) : FFmt := (tyFmt ty).getD .f32

/-- W6 as bf16 and W7 as f16 move stored bits (R116). -/
def winRaw (win ty : Nat) : Bool := (win == 6 && ty == 3) || (win == 7 && ty == 4)

/-- The nibble of a byte. -/
def nibOf (b : Nat) (hi : Bool) : Nat := if hi then b / 16 else b % 16
def setNib (b : Nat) (hi : Bool) (v : Nat) : Nat := if hi then b % 16 + v % 16 * 16 else b / 16 * 16 + v % 16

/-- Exact value of an element through a window, with the descriptor that its command uses. -/
def State.winExact (s : State) (l : LsAt) (wd : Word) (e : Nat) : Ex := s.winVal l.cl l.base l.win wd e

/-- Code of an element, of its record's type (R116). -/
def State.readTarget (s : State) (ty : Nat) : Target → Nat
  | .bytes p n => leNat (s.placeRead p n)
  | .nib p hi => nibOf (leNat (s.placeRead p 1)) hi
  | .win l wd e =>
    if winRaw l.win ty then s.winCode l.cl l.base l.win e else roundTo (recFmt ty) .rne false (s.winExact l wd e)
  | .vr k n => leNat (Memory.readN s.vrs k n)
  | .vrNib k hi => nibOf (Memory.read s.vrs k).toNat hi

/-- An engine's read of an element: an unpredictable code where its line is mapped twice (R107). -/
def State.seesTarget (s : State) (b : Behalf) (ty : Nat) (t : Target) : Nat × State :=
  let see := fun (p : Place) (n : Nat) => let r := s.placeSees (whoB b) p n
    (leNat r.1, r.2)
  match t with
  | .bytes p n => see p n
  | .nib p hi => let r := see p 1
    (nibOf r.1 hi, r.2)
  | .win l wd e => (s.readTarget ty (.win l wd e), s)
  | .vr k n => (s.readTarget ty (.vr k n), s)
  | .vrNib k hi => (s.readTarget ty (.vrNib k hi), s)

/-- Writing an element's code, of its record's type; a scaled window is written by blocks instead (R89, R116, R117). -/
def State.writeTarget (s : State) (agent : CtxId) (ty code : Nat) : Target → State
  | .bytes p n => s.placeWrite (some agent) p (leBytes n code)
  | .nib p hi => s.placeWrite (some agent) p (leBytes 1 (setNib (leNat (s.placeRead p 1)) hi code))
  | .win l wd e =>
    if winRaw l.win ty then s.winPut agent l.cl l.base l.win e code
    else s.winPut agent l.cl l.base l.win e (s.winEnc l.cl l.base l.win wd e (decodeFloat (recFmt ty) code))
  | .vr k n => { s with vrs := Memory.writeN s.vrs k (leBytes n code) }
  | .vrNib k hi => { s with vrs := Memory.write s.vrs k (BitVec.ofNat 8 (setNib (Memory.read s.vrs k).toNat hi code)) }

/-- Writing a whole block of a scaled window: its codes and its scale code (R87, R117, R118). -/
def State.writeBlock (s : State) (agent : CtxId) (l : LsAt) (wd : Word) (e : Nat) (x : List Ex) : State :=
  let (c, codes) := encodeBlock (winFmt l.win) x
  let s := (codes.mapIdx fun i q => (e + i, q)).foldl (fun s q => s.winPut agent l.cl l.base l.win q.1 q.2) s
  s.placeWrite (some agent) (.ls l.cl (l.base + winMeta l.win wd e)) (leBytes 1 c)

/-- Reading the element of a view at an offset. -/
def View.read (v : View) (b : Behalf) (k : Int) : Eng Nat :=
  (v.target b .read k).andThen fun t s => let r := s.seesTarget b v.ty t
    (.ok r.1, r.2)

/-- The view is written through a scaled window. -/
def View.scaled (v : View) : Bool := winScaled v.win

/-- Reading elements at their places, one after the other. -/
def State.seeAll (s : State) (b : Behalf) (ty : Nat) : List Target → List Nat × State
  | [] => ([], s)
  | t :: l =>
    let (x, s) := s.seesTarget b ty t
    let (r, s) := s.seeAll b ty l
    (x :: r, s)

/-- Places of the elements at some offsets of a view, checked for the access. -/
def View.targets (v : View) (b : Behalf) (need : Need) (ks : List Int) : Eng (List Target) := Eng.each (v.target b need) ks

/-! ### Whole blocks (R117) -/

/-- Window descriptor of a view's base as the command reads it at issue, and the element index of the base (R113). -/
def State.viewWd (s : State) (b : Behalf) (v : View) : Word × Nat := match s.lsAt (whoB b) v.base with
  | .ok l => (s.wdFor b l, winElem v.win l.off)
  | .error _ => (0, 0)

/-- Rows of a view: tuples of dimensions 1 to 3, as their first element's offset. -/
def View.rowOffs (v : View) : List Int :=
  (List.range (v.ext 1 * v.ext 2 * v.ext 3)).map fun f => v.off (0, f % v.ext 1, f / v.ext 1 % v.ext 2, f / v.ext 1 / v.ext 2)

/-- Column of a view's element offset in the data row of its window. -/
def winCol (wd : Word × Nat) (o : Int) : Nat := ((wd.2 + o) % wdL wd.1).toNat

/-- A write through W1 to W3 covers whole blocks. A window that is not configured fails later (R113). -/
def View.wholeBlocks (v : View) (wd : Word × Nat) : Bool :=
  if !v.scaled || v.count == 0 then true
  else
    let l := wdL wd.1
    if l = 0 then true
    else v.str 0 == 1 && v.rowOffs.all fun o =>
      let last := winCol wd (o + v.ext 0 - 1) + 1
      winCol wd o % 16 == 0 && (last % 16 == 0 || last == l)

/-- Elements that end a scaled block: the last of its sixteen columns, or of its data row. -/
def blockLast (wd : Word × Nat) (o : Int) : Bool := winCol wd o % 16 == 15 || winCol wd o + 1 == wdL wd.1

/-! ### Elements reached twice, and overlap (R188, R251) -/

/-- Insertion in order of the strides' magnitude. -/
def insStride (x : Nat × Nat) : List (Nat × Nat) → List (Nat × Nat)
  | [] => [x]
  | y :: r => if x.1 ≤ y.1 then x :: y :: r else y :: insStride x r

/-- No two tuples of the view reach one element: each stride passes everything the smaller ones reach. -/
def View.oneToOne (v : View) : Bool :=
  let ds := ((List.range 4).filter fun k => decide (1 < v.ext k)).map fun k => ((v.str k).natAbs, v.ext k)
  ((ds.foldl (fun l d => insStride d l) []).foldl (fun (a : Bool × Nat) d => (a.1 && decide (a.2 < d.1), a.2 + (d.2 - 1) * d.1))
    (true, 0)).1

/-- Space and half-byte range that the bytes of an element occupy: 0 paged, 1 + cluster LS, 2000 the registers; none where it has no place. -/
def State.spot (s : State) (b : Behalf) (v : View) (k : Int) : Option (Nat × Nat × Nat) :=
  if v.win ≠ 0 then match (s.winTarget b v.base k).1 with
    | .ok (.win l _ e) =>
      let n := winBits l.win / 4
      some (1 + l.cl, 2 * l.base + n * e, 2 * l.base + n * (e + 1))
    | _ => none
  else
    let bits := tyBits v.ty
    let a : Int := 2 * (v.base : Int) + k * (bits / 4 : Nat)
    if a < 0 ∨ 2 ^ 57 ≤ a then none
    else
      let lo := a.toNat
      let n := bits / 4
      match regionOf (lo / 2) with
      | .paged => some (0, lo, lo + n)
      | .vreg => some (2000, lo, lo + n)
      | .unassigned => none
      | .lsAny | .lsOwn => match s.lsAt (whoB b) (lo / 2) with
        | .ok l => some (1 + l.cl, 2 * l.phys + lo % 2, 2 * l.phys + lo % 2 + n)
        | .error _ => none

/-- Two ranges of one space meet. -/
def spotsMeet (a b : Option (Nat × Nat × Nat)) : Bool := match a, b with
  | some x, some y => decide (x.1 = y.1 ∧ x.2.1 < y.2.2 ∧ y.2.1 < x.2.2)
  | _, _ => false

/-- The range that a whole view spans. -/
def State.spanSpot (s : State) (b : Behalf) (v : View) : Option (Nat × Nat × Nat) :=
  match s.spot b v v.span.1, s.spot b v v.span.2 with
  | some x, some y => if x.1 = y.1 then some (x.1, min x.2.1 y.2.1, max x.2.2 y.2.2) else none
  | _, _ => none

/-- Views of the same elements: equal base, width, extents and strides. -/
def sameView (a b : View) : Bool := decide (a.base = b.base ∧ tyBits a.ty = tyBits b.ty ∧ a.e = b.e ∧ a.s = b.s)

/-- Some element of the destination lies in a source at another tuple (R251): found element by element, once the ranges meet. (DESIGN CHOICE, log 21) -/
def State.clash (s : State) (b : Behalf) (d v : View) (same : Tup → Tup → Bool) : Bool :=
  if d.count = 0 ∨ v.count = 0 then false
  else if sameView d v && d.oneToOne then false
  else
    let near := match s.spanSpot b d, s.spanSpot b v with
      | some x, some y => spotsMeet (some x) (some y)
      | none, _ => true
      | _, none => true
    near && (List.range d.count).any fun f =>
      let i := d.tup f
      let p := s.spot b d (d.off i)
      p.isSome && (List.range v.count).any fun g =>
        let j := v.tup g
        !(same i j) && spotsMeet p (s.spot b v (v.off j))

/-- The element of tuple number f has been reached by an earlier tuple of the view. -/
def View.reached (v : View) (f : Nat) : Bool :=
  !v.oneToOne && (List.range f).any fun g => v.off (v.tup g) == v.off (v.tup f)

/-- Free values in place of codes. (DESIGN CHOICE, log 4; DESIGN CHOICE, log 21; DESIGN CHOICE, log 89) -/
def State.freeCodes (s : State) (bits : Nat) : Nat → List Nat × State
  | 0 => ([], s)
  | n + 1 =>
    let (f, s) := s.freshFree
    let (r, s) := s.freeCodes bits n
    (f.toNat % 2 ^ bits :: r, s)

/-! ### Writing elements -/

/-- What an element of a view receives: a code of its record's type, or an exact value for a window to encode (R119). -/
inductive Val where
  | code (c : Nat)
  | exact (x : Ex)
deriving DecidableEq, Repr

def Val.ex (ty : Nat) : Val → Ex
  | .code c => decodeFloat (recFmt ty) c
  | .exact x => x

/-- Writing one element. -/
def State.writeVal (s : State) (agent : CtxId) (ty : Nat) (t : Target) : Val → State
  | .code c => s.writeTarget agent ty c t
  | .exact x => match t with
    | .win l wd e => s.winPut agent l.cl l.base l.win e (s.winEnc l.cl l.base l.win wd e x)
    | .bytes _ _ => s
    | .nib _ _ => s
    | .vr _ _ => s
    | .vrNib _ _ => s

/-- The scaled block that begins at a target: its length, within its data row (R117). -/
def Target.block : Target → Option (LsAt × Word × Nat × Nat)
  | .win l wd e =>
    if winScaled l.win then some (l, wd, e, min (16 - e % wdL wd % 16) (wdL wd - e % wdL wd)) else none
  | .bytes _ _ => none
  | .nib _ _ => none
  | .vr _ _ => none
  | .vrNib _ _ => none

/-- Writing elements of a view at their places, by their numbers in the order of R252: through W1 to W3 whole blocks, each in one update (R118). Of two
tuples that reach one element either may give its value (R188), unless the command writes in order. (DESIGN CHOICE, log 89) -/
def View.putVals (v : View) (agent : CtxId) (inOrder : Bool) : Nat → List (Nat × Target × Val) → State → State
  | 0, _, s => s
  | _ + 1, [], s => s
  | n + 1, (f, t, x) :: r, s =>
    let (keep, s) := if !inOrder && v.reached f then (s.freshFree.1.getLsbD 0, s.freshFree.2) else (true, s)
    match t.block with
    | some (l, wd, e, len) =>
      v.putVals agent inOrder n (r.drop (len - 1))
        (if keep then s.writeBlock agent l wd e ((x :: (r.take (len - 1)).map fun p => p.2.2).map (Val.ex v.ty)) else s)
    | none => v.putVals agent inOrder n r (if keep then s.writeVal agent v.ty t x else s)

/-- Writing the codes of the elements with these numbers at their places. -/
def State.putCodes (s : State) (v : View) (agent : CtxId) (inOrder : Bool) (l : List (Nat × Target × Nat)) : State :=
  v.putVals agent inOrder l.length (l.map fun p => (p.1, p.2.1, .code p.2.2)) s

/-! ### What an engine command reports (R256, R291, R303) -/

/-- Status word of a failure, for a barrier phase. -/
def failWord : Fail → Word
  | .err c _ va => errWord c va
  | .stall va _ _ => errWord cPAGE_FAULT va
  | .sparse _ _ _ va => errWord cSPARSE va

/-- The elements of a view from number `lo` on take free values where they can be written (R9, R296, R361). (DESIGN CHOICE, log 89) -/
def scribbleFrom (b : Behalf) (v : View) (lo : Nat) (s : State) : State :=
  ((List.range v.count).drop lo).foldl (fun s f => match v.target b .write (v.off (v.tup f)) s with
    | (.ok t, s) =>
      let (x, s) := s.freshFree
      s.writeTarget b.ctx v.ty (x.toNat % 2 ^ tyBits v.ty) t
    | (.error _, s) => s) s

/-- The whole view takes free values. -/
def scribbleView (b : Behalf) (v : View) (s : State) : State := scribbleFrom b v 0 s

end Sys2Proof.Machine
end

