-- ==== Sys2Proof/Machine/Vrb.lean ====
section
/-! DEFINITION. Sys2Proof/Machine/Vrb.lean: the VRB major: acquiring and releasing blocks of vector registers (spec/02 R53; spec/07 R233 to
R236; spec/01 R20). -/

namespace Sys2Proof.Machine

/-- The pool that a role mask draws from: that of its first role in the order C, M, V (R53). -/
def poolOf (role : BitVec 3) : Nat := if role.getLsbD 0 then 0 else if role.getLsbD 1 then 1 else 2

/-- Blocks that a pool of a team holds free, and its size with every block free. -/
def Team.poolFree (t : Team) (p : Nat) : Nat := (t.pool[p]?).getD 0
def Team.poolSize (t : Team) (p : Nat) : Nat := (t.tmpl.vrs[p]?).getD 0

/-- The block count of gA, from the lowest active lane (R233). -/
def State.blockCount (s : State) (a : Reg) : Nat := wfld (s.rg (s.lowest s.cur) a) 0 9

/-- Waiters of a pool ahead of the context (R234). -/
def Team.waitersAhead (t : Team) (p : Nat) (id : CtxId) : Bool :=
  ((t.vwait.filter fun w => decide (w.2.1 = p)).takeWhile fun w => !decide (w.1 = id)).any fun _ => true

/-- The registers of k more blocks, at the contents that nothing states (R9). (DESIGN CHOICE, log 13) -/
def State.freshBlocks (s : State) (id : CtxId) (held k : Nat) : State :=
  let c := s.freeCtr
  { s with vrs := Memory.fill s.vrs (vrsKey id (1024 * held)) (1024 * k) (freeByte c), freeCtr := c + 128 * k }

/-- Taking k blocks for the leader. -/
def State.takeBlocks (s : State) (t : Team) (p k : Nat) : State :=
  let held := (s.ctx s.cur).vblocks
  let s := s.modTeam t.cl t.num fun t => { t with
    pool := t.pool.mapIdx fun i b => if i = p then b - k else b
    vwait := t.vwait.filter fun w => !decide (w.1 = s.cur) }
  (s.freshBlocks s.cur held k).modCtx s.cur fun c => { c with vblocks := held + k, vpool := p }

/-- k is read at each issue. The form acquires nothing for k = 0, and writes D at once, whoever waits on the pool. (DESIGN CHOICE, log 150) -/
def execVbAcq (sm : Bool) (a d : Reg) (s : State) : Result :=
  onCtx s fun c =>
    let k := s.blockCount a
    if k = 0 then (s.leaveBlocks s.cur).longOnce sm d (BitVec.ofNat 64 c.vblocks)
    else match s.teamOf s.cur with
      | none => s.trapOpen cVREG
      | some t =>
        let p := poolOf c.role
        if t.poolSize p < k then (s.leaveBlocks s.cur).trapOpen cVREG
        else if t.waitersAhead p s.cur || decide (t.poolFree p < k) then
          let s := s.modTeam t.cl t.num fun t => { t with
            vwait := if t.vwait.any fun w => decide (w.1 = s.cur) then t.vwait.map fun w => if w.1 = s.cur then (s.cur, p, k) else w
              else t.vwait ++ [(s.cur, p, k)] }
          s.waitFor (.blocks k)
        else (s.takeBlocks t p k).longOnce sm d (BitVec.ofNat 64 (c.vblocks + k))

/-- The predicate of `.try` in every active lane. -/
def State.tryDone (s : State) (sm : Bool) (d : Reg) (p : PReg) (ok : Bool) : State :=
  (s.addLongPs p ((s.lanes s.cur).map fun i => (i, ok))).longOnce sm d (BitVec.ofNat 64 (s.ctx s.cur).vblocks)

/-- With k = 0 it acquires nothing and pN is true, whoever waits on the pool. (DESIGN CHOICE, log 150) -/
def execVbAcqTry (sm : Bool) (a d : Reg) (p : PReg) (s : State) : Result :=
  onCtx s fun c =>
    let k := s.blockCount a
    if k = 0 then s.tryDone sm d p true
    else match s.teamOf s.cur with
      | none => s.trapOpen cVREG
      | some t =>
        let q := poolOf c.role
        if t.poolSize q < k then s.trapOpen cVREG
        else if t.waitersAhead q s.cur || decide (t.poolFree q < k) then s.tryDone sm d p false
        else (s.takeBlocks t q k).tryDone sm d p true

/-- A view names a register at or above block n. -/
def namesAbove (n : Nat) (v : View) : Bool := v.isVreg && decide (1024 * n < v.vrTop)

/-- A command of the context that has not completed names a register in its k highest blocks (R235). -/
def State.blocksUsed (s : State) (id : CtxId) (k : Nat) : Bool :=
  let c := s.ctx id
  let n := c.vblocks - k
  let mine := fun (b : Behalf) => decide (b.ctx = id ∧ b.team = c.team)
  let cl := s.cluster id.cl
  let named := fun (o : Option View) => (o.map (namesAbove n)).getD false
  cl.vq.any (fun v => mine v.by_ && (namesAbove n v.d || named v.s1 || named v.s2 || named v.s3)) ||
    cl.quads.any (fun q => q.queue.any fun m => mine m.by_ && (named m.v1 || named m.v2)) ||
    s.copies.any fun p => mine p.by_ && (namesAbove n p.d || namesAbove n p.s || named p.ix)

/-- The hold of R235 is a wait. -/
def execVbRel (sm : Bool) (a d : Reg) (s : State) : Result :=
  onCtx s fun c =>
    let k := s.blockCount a
    if c.vblocks < k then s.trapOpen cVREG
    else if s.blocksUsed s.cur k then s.waitFor (.blockUse k)
    else (s.giveBlocks s.cur k).longOnce sm d (BitVec.ofNat 64 (c.vblocks - k))

end Sys2Proof.Machine
end

