-- ==== Sys2Proof/Machine/VecExec.lean ====
section
/-! DEFINITION. Sys2Proof/Machine/VecExec.lean: what vector commands compute and how they run, step by step (spec/08 R250 to R257, R259 to R270;
spec/03 R91 to R93). -/

namespace Sys2Proof.Machine

/-! ### The qualifier word (R244) -/

def vqRm (g : Word) : RMode := rmodeOf (wfld g 32 2)
def vqFtz (g : Word) : Bool := wb g 34
def vqSat (g : Word) : Bool := wb g 35
def vqNosat (g : Word) : Bool := wb g 36
def vqUns (g : Word) : Bool := wb g 37
def vqNw (g : Word) : Nat := wfld g 38 2
def vqSub (g : Word) : Nat := wfld g 40 3
def vqScalar (g : Word) : Nat := wfld g 0 32

/-- An i-type of width NW is unsigned under UNS (R249). -/
def unsUnder (g : Word) (ty : Nat) : Bool := vqUns g && decide (8 ≤ ty ∧ ty ≤ 11) && tyBits ty == 8 * 2 ^ vqNw g

/-- Saturation of a destination (R260). -/
def satOf (g : Word) (ty : Nat) : Bool := match tyFmt ty with
  | some .e2m1 => true
  | some .e4m3 => !vqNosat g
  | some .e5m2 => !vqNosat g
  | _ => vqSat g

/-! ### Elements -/

/-- A source element: type, signedness, code. -/
structure Src where
  ty : Nat
  uns : Bool
  code : Nat
deriving DecidableEq, Repr

/-- As a floating-point operand (R75, R80). -/
def Src.ex (ftz : Bool) (x : Src) : Ex := match tyFmt x.ty with
  | some f => operand f ftz x.code
  | none => .nan

/-- As a mathematical integer. -/
def Src.int (x : Src) : Int := intVal (tyBits x.ty) (tyUns x.ty x.uns) x.code

/-- The scalar operand (R250): its reference is the destination, or source 1 of `v.cmp`. -/
def scalarSrc (op : Nat) (g : Word) (ref : Nat) (uns : Bool) : Src :=
  if op = 0x0F then { ty := ref, uns := uns, code := vqScalar g % 2 ^ tyBits ref }
  else if (tyFmt ref).isSome then { ty := 2, uns := false, code := vqScalar g }
  else { ty := if tyUns ref uns then 16 else 9, uns := false, code := vqScalar g }

/-- A floating-point result in the destination (R260). -/
def putF (g : Word) (f : FFmt) (ty : Nat) (x : Ex) : Nat := result f (vqRm g) (satOf g ty) (vqFtz g) x

/-- An integer result in the destination (R260). -/
def putI (g : Word) (ty : Nat) (uns : Bool) (i : Int) : Nat := narrowInt (tyBits ty) (tyUns ty uns) (vqSat g) i

/-- The float operations of R259. -/
def vecF (op : Nat) (m : RMode) (a b c : Ex) : Ex := match op with
  | 0x00 => a.add m b
  | 0x01 => a.add m b.neg
  | 0x02 => a.mul b
  | 0x03 => (a.mul b).add m c
  | 0x04 => (a.mul b).add m c.neg
  | 0x05 => a.minNum b
  | 0x06 => a.maxNum b
  | 0x18 => (a.maxNum b).minNum c
  | _ => a

/-- The integer operations of R259 that are computed exactly. -/
def vecI (op : Nat) (a b c : Int) : Int := match op with
  | 0x00 => a + b
  | 0x01 => a - b
  | 0x02 => a * b
  | 0x03 => a * b + c
  | 0x04 => a * b - c
  | 0x05 => min a b
  | 0x06 => max a b
  | 0x07 => if a < 0 then -a else a
  | 0x08 => -a
  | 0x18 => min (max a b) c
  | _ => a

/-- The bit operations at the destination's width w, but for the left shift, which is exact (R90, R260). -/
def vecBits (op sub w a b : Nat) : Nat :=
  let n := b % w
  match op with
  | 0x09 => a &&& b
  | 0x0A => a ||| b
  | 0x0B => a ^^^ b
  | _ => if sub = 0 then a / 2 ^ n else wrapNat w (signedOf w a / 2 ^ n)

/-- The conditions of `v.cmp` on integers (R261). -/
def intCmp (c : Nat) (a b : Int) : Bool := match c with
  | 0 => a == b
  | 1 => a != b
  | 2 => decide (a < b)
  | 3 => decide (a ≤ b)
  | 4 => decide (b < a)
  | _ => decide (b ≤ a)

/-- The destination code of an elementwise operation (R259 to R264, R270): destination type and signedness, the sources, and the flat index for
`v.iota`. `v.shl` is the exact product of the extended source and the power of two, wrapped or clamped (R90, R244, R260). (DEDUCED, log 159) -/
def vecElem (op : Nat) (g : Word) (dty : Nat) (duns : Bool) (x1 x2 x3 : Src) (flat : Nat) : Nat :=
  let ftz := vqFtz g
  let w := tyBits dty
  match op with
  | 0x0E =>
    let t := if (tyFmt x1.ty).isSome then fCond (vqSub g) (x1.ex ftz) (x2.ex ftz) else intCmp (vqSub g) x1.int x2.int
    if t then 1 else 0
  | 0x0F => if x3.code % 2 ^ tyBits x3.ty ≠ 0 then x1.code else x2.code
  | 0x11 => x1.code
  | 0x10 => match tyFmt dty, tyFmt x1.ty with
    | some f, some _ => putF g f dty (x1.ex ftz)
    | some f, none => putF g f dty (Ex.ofInt x1.int)
    | none, some _ => wrapNat w (Ex.toInt (vqRm g) (intLo w (tyUns dty duns)) (intHi w (tyUns dty duns)) (x1.ex ftz))
    | none, none => putI g dty duns x1.int
  | 0x17 => match tyFmt dty with
    | some f => putF g f dty ((x1.ex ftz).add (vqRm g) (Ex.ofInt flat))
    | none => putI g dty duns (x1.int + flat)
  | 0x19 => match tyFmt dty, tyFmt x1.ty with
    | some f, some h =>
      putF g f dty (decodeFloat .f32 (sfuEval (vqSub g) ftz (vqRm g) (roundTo .f32 .rne false (decodeFloat h x1.code))))
    | _, _ => 0
  | _ => match tyFmt dty with
    | some f =>
      if op = 0x07 then x1.code % 2 ^ (w - 1)
      else if op = 0x08 then x1.code ^^^ 2 ^ (w - 1)
      else putF g f dty (vecF op (vqRm g) (x1.ex ftz) (x2.ex ftz) (x3.ex ftz))
    | none =>
      let a := wrapNat w x1.int
      let n := wrapNat w x2.int
      if op = 0x0C then putI g dty duns (intVal w (tyUns dty duns) a * 2 ^ (n % w))
      else if 0x09 ≤ op ∧ op ≤ 0x0D then vecBits op (vqSub g) w a n
      else putI g dty duns (vecI op x1.int x2.int x3.int)

/-! ### Reductions and scans (R92, R93, R265, R266) -/

/-- Format of the partial values. -/
def partFmt (f : FFmt) : FFmt := if f = .f64 then .f64 else .f32

/-- Combining two partial values: 0 sum, 1 maximum, 2 minimum, rounded to the partial format with the command's mode. SAT saturates only the final
rounding into the destination type (R92, R265, R266). (DESIGN CHOICE, log 154) -/
def combineF (k : Nat) (f : FFmt) (m : RMode) (ftz : Bool) (a b : Ex) : Ex :=
  decodeFloat f (result f m false ftz (match k with
    | 0 => a.add m b
    | 1 => a.maxNum b
    | _ => a.minNum b))

/-- Lane l of the sixteen partial lanes: none where it has no element. -/
def laneOf (c : Ex → Ex → Ex) (xs : List Ex) (l : Nat) : Option Ex :=
  match (xs.mapIdx fun i x => (i, x)).filterMap fun p => if p.1 % 16 = l then some p.2 else none with
  | [] => none
  | a :: r => some (r.foldl c a)

/-- One level of the fixed tree: lane l takes lane l + d in. -/
def treeStep (c : Ex → Ex → Ex) (p : List (Option Ex)) (d : Nat) : List (Option Ex) :=
  p.mapIdx fun l x => if d ≤ l then x else match x, (p[l + d]?).join with
    | some a, some b => some (c a b)
    | none, y => y
    | x, none => x

/-- The reduction of R92 over at least one element, before its last rounding. -/
def reduceF (c : Ex → Ex → Ex) (xs : List Ex) : Ex :=
  let p := (List.range 16).map (laneOf c xs)
  (([8, 4, 2, 1].foldl (treeStep c) p)[0]?).join.getD .zero

/-- Result of `v.rsum` (0), `v.rmax` (1) and `v.rmin` (2) over a row of codes (R265). -/
def reduceElem (k : Nat) (g : Word) (dty : Nat) (duns : Bool) (sty : Nat) (suns : Bool) (row : List Nat) : Nat :=
  match tyFmt dty, tyFmt sty with
  | some f, some h =>
    if row.isEmpty then (match k with
      | 0 => 0
      | 1 => putF g f dty (.inf true)
      | _ => putF g f dty (.inf false))
    else putF g f dty (reduceF (combineF k (partFmt h) (vqRm g) (vqFtz g)) (row.map fun c => operand h (vqFtz g) c))
  | _, _ =>
    let w := tyBits dty
    let xs := row.map fun c => intVal (tyBits sty) (tyUns sty suns) c
    match k, xs with
    | 0, _ => putI g dty duns xs.sum
    | 1, [] => wrapNat w (intLo w (tyUns dty duns))
    | 1, a :: r => putI g dty duns (r.foldl max a)
    | _, [] => wrapNat w (intHi w (tyUns dty duns))
    | _, a :: r => putI g dty duns (r.foldl min a)

/-- Prefixes from an accumulated value on. -/
def prefixes {α : Type} (c : α → α → α) : α → List α → List α
  | a, [] => [a]
  | a, b :: r => a :: prefixes c (c a b) r

/-- The outputs of `v.scan` over a row of codes (R266): SUB 0 sum, 1 maximum, 2 minimum. -/
def scanRow (g : Word) (dty : Nat) (duns : Bool) (sty : Nat) (suns : Bool) (row : List Nat) : List Nat :=
  let k := vqSub g
  match tyFmt dty, tyFmt sty with
  | some f, some h => match row.map fun c => operand h (vqFtz g) c with
    | [] => []
    | a :: r => (prefixes (combineF k (partFmt h) (vqRm g) (vqFtz g)) a r).map (putF g f dty)
  | _, _ => match row.map fun c => intVal (tyBits sty) (tyUns sty suns) c with
    | [] => []
    | a :: r => (prefixes (fun (x y : Int) => match k with
        | 0 => x + y
        | 1 => max x y
        | _ => min x y) a r).map (putI g dty duns)

/-! ### Steps and parts (R252, R253) -/

/-- Element width in bits as P counts it. -/
def stepBits (v : View) : Nat := max 8 (tyBits v.ty)

/-- P: elements of a step. -/
def VCmd.stepLen (c : VCmd) : Nat :=
  512 / [c.s1, c.s2, c.s3].foldl (fun w o => match o with
    | some v => max w (stepBits v)
    | none => w) (stepBits c.d)

/-- The command reduces each row of source 1 to an element. -/
def VCmd.reduces (c : VCmd) : Bool := decide (0x12 ≤ c.op ∧ c.op ≤ 0x14)

/-- The view whose elements the steps of the command walk: a scatter's index elements, a reduction's source, else the destination. -/
def VCmd.walked (c : VCmd) : View := if c.op = 0x1B then c.s2.getD c.d else if c.reduces then c.s1.getD c.d else c.d

/-- The elements of part k, by number: of the destination, or of a scatter's index view. Part k has an even share of dimension RANK − 1. -/
def VCmd.partElems (c : VCmd) (k : Nat) : Nat × Nat :=
  if c.op = 0x1B then (0, c.walked.count)
  else if c.parts ≤ 1 then (0, c.d.count)
  else
    let e := c.d.ext (c.d.rank - 1)
    let n := c.d.count / max e 1
    (n * (k * e / c.parts), n * ((k + 1) * e / c.parts))

/-- Elements of a row that part k walks along dimension 0: of a destination of one dimension, the part itself. A `v.sfu` does not keep to rows. -/
def VCmd.rowLen (c : VCmd) (k : Nat) : Nat :=
  let r := c.partElems k
  if c.op = 0x19 ∨ (c.d.rank = 1 ∧ c.reduces = false ∧ c.op ≠ 0x1B) then r.2 - r.1 else c.walked.ext 0

/-- Elements of a step along a row: the SFU takes 8 at a time (R272, R273). -/
def VCmd.stride (c : VCmd) : Nat := if c.op = 0x19 then 8 else c.stepLen

/-- Steps of a row of part k; a reduction makes one of an empty row. -/
def VCmd.rowSteps (c : VCmd) (k : Nat) : Nat :=
  let n := (c.rowLen k + c.stride - 1) / c.stride
  if c.reduces then max 1 n else n

/-- Number of steps of part k. -/
def VCmd.steps (c : VCmd) (k : Nat) : Nat :=
  let r := c.partElems k
  if c.reduces then (r.2 - r.1) * c.rowSteps k
  else if c.rowLen k = 0 then 0
  else (r.2 - r.1) / c.rowLen k * c.rowSteps k

/-- The row of step u of part k, and the positions along it that the step covers. -/
def VCmd.stepCols (c : VCmd) (k u : Nat) : Nat × Nat × Nat :=
  let at_ := u % c.rowSteps k * c.stride
  (u / c.rowSteps k, at_, min c.stride (c.rowLen k - at_))

/-- Step u is the last of its row. -/
def VCmd.rowEnds (c : VCmd) (k u : Nat) : Bool := u % c.rowSteps k + 1 == c.rowSteps k

/-- Numbers of the elements that step u of part k walks, in the order of R252. -/
def VCmd.stepElems (c : VCmd) (k u : Nat) : List Nat :=
  let p := c.stepCols k u
  (List.range p.2.2).map fun i => (c.partElems k).1 + p.1 * c.rowLen k + p.2.1 + i

/-- Part k of a command. -/
def VCmd.part (c : VCmd) (k : Nat) : VPart := (c.work[k]?).getD {}

def VCmd.setPart (c : VCmd) (k : Nat) (p : VPart) : VCmd := { c with work := c.work.set k p }

/-- Part k has performed its steps. -/
def VCmd.partDone (c : VCmd) (k : Nat) : Bool := decide (c.steps k ≤ (c.part k).prog)

/-- Every part has, or an access error has ended the command. -/
def VCmd.finished (c : VCmd) : Bool := c.ended || (List.range c.work.length).all c.partDone

/-- The part that the arbiter binds next. -/
def VCmd.nextPart (c : VCmd) : Option Nat :=
  if c.parts = 0 ∨ c.ended = true then none else (List.range c.parts).find? fun k => !(c.part k).lane && !c.partDone k

/-! ### Reading and writing elements -/

/-- The signedness of a view's integers under the command. -/
def VCmd.unsOf (c : VCmd) (ty : Nat) : Bool := unsUnder c.gb ty

/-- Reading one source at a destination tuple. -/
def VCmd.readSrc (c : VCmd) (o : Option View) (i : Tup) : Eng Src := match o with
  | some v => (v.read c.by_ (v.off (if c.op = 0x16 then (0, 0, 0, 0) else v.bcast i))).andThen fun x =>
      Eng.ret { ty := v.ty, uns := c.unsOf v.ty, code := x }
  | none => Eng.ret { ty := 0, uns := false, code := 0 }

/-- The scalar of the command, for the source that it replaces. -/
def VCmd.scalar (c : VCmd) : Src :=
  let ref := if c.op = 0x0E then (c.s1.map View.ty).getD c.d.ty else c.d.ty
  scalarSrc c.op c.gb ref (c.unsOf ref)

/-- The source tuples that a destination tuple may coincide with (R251). -/
def sameTup (d s : Tup) : Bool := d == s

/-- The command's destination lies in a source at another tuple: its values are unpredictable (R251). -/
def VCmd.clashes (c : VCmd) (s : State) : Bool :=
  [c.s1, c.s2, c.s3].any fun o => match o with
    | some v => s.clash c.by_ c.d v sameTup
    | none => false

/-- The scaled block that element f of the destination lies in: its first element's number, and its length (R117). -/
def VCmd.blockOf (c : VCmd) (wd : Word × Nat) (f : Nat) : Nat × Nat :=
  let col := winCol wd (c.d.off (c.d.tup f))
  (f - col % 16, min 16 (wdL wd.1 - (col - col % 16)))

/-- Writing a block that is complete: its elements leave those held. -/
def VCmd.putBlock (c : VCmd) (b : Nat × Nat) : Eng VCmd :=
  let codes := (List.range b.2).filterMap fun i => (c.held.find? fun p => decide (p.1 = b.1 + i)).map Prod.snd
  if codes.length < b.2 then Eng.ret c
  else (c.d.target c.by_ .write (c.d.off (c.d.tup b.1))).andThen fun t =>
    (Eng.act fun s => s.putCodes c.d c.by_.ctx false (codes.map fun x => (b.1, t, x))).andThen fun _ =>
      Eng.ret { c with held := c.held.filter fun p => !decide (b.1 ≤ p.1 ∧ p.1 < b.1 + b.2) }

/-- The same for each of some blocks. (DEDUCED, log 145) -/
def VCmd.putBlocks (c : VCmd) : List (Nat × Nat) → Eng VCmd
  | [] => Eng.ret c
  | b :: r => (c.putBlock b).andThen fun c => c.putBlocks r

/-- Writing the codes of the elements with these numbers; those of a scaled block are held until all of it is known (R118). (DESIGN CHOICE, log 21) -/
def VCmd.put (c : VCmd) (clash : Bool) (fs : List Nat) (codes : List Nat) : Eng VCmd :=
  (c.d.targets c.by_ .write (fs.map fun f => c.d.off (c.d.tup f))).andThen fun ts s =>
    let (codes, s) := if clash then s.freeCodes (tyBits c.d.ty) codes.length else (codes, s)
    if c.d.scaled then
      let wd := s.viewWd c.by_ c.d
      ({ c with held := c.held ++ fs.zip codes }.putBlocks ((fs.map (c.blockOf wd)).eraseDups)) s
    else (.ok c, s.putCodes c.d c.by_.ctx false ((fs.zip (ts.zip codes)).map fun x => (x.1, x.2.1, x.2.2)))

/-! ### One step -/

/-- A step of an elementwise command. -/
def VCmd.runElems (c : VCmd) (clash : Bool) (fs : List Nat) : Eng VCmd :=
  (Eng.each (fun f =>
    let i := c.d.tup f
    (if c.scl && (c.op = 0x16 || c.op = 0x17) then Eng.ret c.scalar else c.readSrc c.s1 i).andThen fun a =>
      (if c.scl && c.op != 0x16 then Eng.ret c.scalar else c.readSrc c.s2 i).andThen fun b =>
        (c.readSrc c.s3 i).andThen fun x => Eng.ret (vecElem c.op c.gb c.d.ty (c.unsOf c.d.ty) a b x f)) fs).andThen
    (c.put clash fs)

/-- A step of a reduction: more of its row's elements; the last one writes the result (R265). -/
def VCmd.runReduce (c : VCmd) (clash : Bool) (k u : Nat) : Eng VCmd := match c.s1 with
  | some v =>
    let p := c.stepCols k u
    let f := (c.partElems k).1 + p.1
    let i := c.d.tup f
    (Eng.each (fun x => v.read c.by_ (v.off (p.2.1 + x, i.2.1, i.2.2.1, i.2.2.2))) (List.range p.2.2)).andThen fun codes =>
      let row := (c.part k).row ++ codes
      if c.rowEnds k u then
        (c.put clash [f] [reduceElem (c.op - 0x12) c.gb c.d.ty (c.unsOf c.d.ty) v.ty (c.unsOf v.ty) row]).andThen fun c =>
          Eng.ret (c.setPart k { c.part k with row := [] })
      else Eng.ret (c.setPart k { c.part k with row := row })
  | none => Eng.ret c

/-- A step of a scan: the prefixes of its elements, behind those of its row (R266). -/
def VCmd.runScan (c : VCmd) (clash : Bool) (k u : Nat) : Eng VCmd := match c.s1 with
  | some v =>
    let fs := c.stepElems k u
    (Eng.each (fun f => v.read c.by_ (v.off (v.tup f))) fs).andThen fun codes =>
      let row := (c.part k).row ++ codes
      let outs := scanRow c.gb c.d.ty (c.unsOf c.d.ty) v.ty (c.unsOf v.ty) row
      (c.put clash fs (outs.drop (c.part k).row.length)).andThen fun c =>
        Eng.ret (c.setPart k { c.part k with row := if c.rowEnds k u then [] else row })
  | none => Eng.ret c

/-- The index elements with these numbers: their values. -/
def VCmd.readIdx (c : VCmd) (v : View) (fs : List Nat) : Eng (List Int) :=
  Eng.each (fun f => (v.read c.by_ (v.off (v.tup f))).andThen fun x =>
    Eng.ret (intVal (tyBits v.ty) (tyUns v.ty (c.unsOf v.ty)) x)) fs

/-- VA of an element for an error report. -/
def View.vaOf (v : View) (k : Int) : Nat :=
  wrapNat 56 (v.base + if v.win = 0 then k * tyBits v.ty / 8 else winStep v.win k)

/-- The error of the first index out of range (R267, R268). -/
def idxErr (v : View) (n : Nat) (fs : List Nat) (js : List Int) : Option Word :=
  ((fs.zip js).find? fun p => decide (p.2 < 0 ∨ (n : Int) ≤ p.2)).map fun p => errWord cENGINE_ERR (v.vaOf (v.off (v.tup p.1)))

/-- The command's first error stands. -/
def VCmd.note (c : VCmd) (e : Option Word) : VCmd := { c with err := if c.err.isSome then c.err else e }

/-- A step of `v.gat` (R267). -/
def VCmd.runGather (c : VCmd) (clash : Bool) (fs : List Nat) : Eng VCmd := match c.s1, c.s2 with
  | some v, some x =>
    (c.readIdx x fs).andThen fun js =>
      (Eng.each (fun (j : Int) => if j < 0 ∨ (v.count : Int) ≤ j then Eng.ret 0 else v.read c.by_ (v.off (v.tup j.toNat))) js).andThen fun codes =>
        (c.put clash fs codes).andThen fun c => Eng.ret (c.note (idxErr x v.count fs js))
  | _, _ => Eng.ret c

/-- The read-modify-write of a reducing scatter (R268): SUB 1 add, 2 min, 3 max, 4 or. -/
def sctRmw (sub ty : Nat) (uns : Bool) : RmwOp :=
  let fl := (tyFmt ty).isSome
  let u := tyUns ty uns
  match sub with
  | 1 => if fl then .fadd else .add
  | 2 => if fl then .fmin else if u then .minn else .min
  | 3 => if fl then .fmax else if u then .maxn else .max
  | _ => .or

/-- The place of a target of whole bytes. -/
def Target.place : Target → Option Place
  | .bytes p _ => some p
  | .nib _ _ => none
  | .win _ _ _ => none
  | .vr _ _ => none
  | .vrNib _ _ => none

/-- A scatter's reduction at a target. -/
def redAt (agent : CtxId) (op : RmwOp) (n : Nat) (t : Target) (code : Nat) : Option PRed :=
  t.place.map fun p => { agent := agent, place := p, op := op, n := n, val := BitVec.ofNat 64 code, loose := true }

/-- The reductions of a window and those behind it: the window's number, those of it so far, those of windows that have passed. -/
abbrev RedWin := Nat × List PRed × List PRed

/-- One more reduction, of index element f: it joins its window, where it is combined with those it meets (R129). -/
def winRed (a : RedWin) (f : Nat) (r : Option PRed) : RedWin := match r with
  | none => a
  | some r => if f / 64 = a.1 then (a.1, combine a.2.1 r, a.2.2) else (f / 64, [r], a.2.2 ++ a.2.1)

/-- The reductions of some index elements, behind those of a window before them. -/
def winReds (win : Nat) (pend : List PRed) (rs : List (Nat × Option PRed)) : RedWin :=
  rs.foldl (fun a r => winRed a r.1 r.2) (win, pend, [])

/-- Stores of a scatter in index order; of two stores to one element either may stay (R188, R268). Answers the elements stored. -/
def State.scatterStores (s : State) (v : View) (agent : CtxId) : List Int → List (Int × Target × Nat) → List Int × State
  | seen, [] => (seen, s)
  | seen, (j, t, c) :: r =>
    if seen.contains j then
      let (f, s) := s.freshFree
      (if f.getLsbD 0 then s.writeTarget agent v.ty c t else s).scatterStores v agent seen r
    else (s.writeTarget agent v.ty c t).scatterStores v agent (j :: seen) r

/-- Indices that nothing determines, below n (R251). -/
def State.freeIdx (s : State) (clash : Bool) (n : Nat) (js : List Int) : List Int × State :=
  if clash then
    let (l, s) := s.freeCodes 32 js.length
    (l.map fun x => ((x % max n 1 : Nat) : Int), s)
  else (js, s)

/-- A step of `v.sct` (R268). -/
def VCmd.runScatter (c : VCmd) (clash : Bool) (k : Nat) (fs : List Nat) : Eng VCmd := match c.s1, c.s2 with
  | some v, some x =>
    let n := c.d.count
    (c.readIdx x fs).andThen fun js =>
      (Eng.each (fun f => v.read c.by_ (v.off (v.tup f))) fs).andThen fun codes s =>
        let err := idxErr x n fs js
        let good := (fs.zip (js.zip codes)).filter fun p => !decide (p.2.1 < 0 ∨ (n : Int) ≤ p.2.1)
        let (js, s) := s.freeIdx clash n (good.map fun p => p.2.1)
        let (codes, s) := if clash then s.freeCodes (tyBits c.d.ty) good.length else (good.map fun p => p.2.2, s)
        let sub := vqSub c.gb
        ((c.d.targets c.by_ .write (js.map fun j => c.d.off (c.d.tup j.toNat))).andThen fun ts s =>
          if sub = 0 then
            let (seen, s) := s.scatterStores c.d c.by_.ctx c.seen ((js.map fun j => c.d.off (c.d.tup j.toNat)).zip (ts.zip codes))
            (.ok ({ c with seen := seen }.note err), s)
          else
            let w := winReds (c.part k).win (c.part k).pend ((good.map Prod.fst).zip ((ts.zip codes).map fun p =>
              redAt c.by_.ctx (sctRmw sub c.d.ty (c.unsOf c.d.ty)) (tyBits c.d.ty / 8) p.1 p.2))
            (.ok ((c.setPart k { c.part k with pend := w.2.1, win := w.1 }).note err), { s with reds := s.reds ++ w.2.2 })) s
  | _, _ => Eng.ret c

/-- Step u of part k: the command after it. (DEDUCED, log 37) -/
def VCmd.runStep (c : VCmd) (clash : Bool) (k u : Nat) : Eng VCmd :=
  (if c.op = 0x1A then c.runGather clash (c.stepElems k u)
  else if c.op = 0x1B then c.runScatter clash k (c.stepElems k u)
  else if c.op = 0x15 then c.runScan clash k u
  else if c.reduces then c.runReduce clash k u
  else c.runElems clash (c.stepElems k u)).andThen fun c => Eng.ret (c.setPart k { c.part k with prog := u + 1 })

/-- The number of the partition that a cluster belongs to. -/
def State.partNum (s : State) (cl : Nat) : Nat := ((s.partOf cl).map Partition.num).getD 0

/-- An access error ends the command (R256). -/
def VCmd.fail (c : VCmd) (e : Word) : VCmd := { c.note (some e) with ended := true }

/-- Running up to n steps of part k from where it stands (R252, R256): a page that is not translated stalls the part there with a fault record, an access
error ends the command. -/
def VCmd.run (clash : Bool) (k : Nat) : Nat → VCmd → State → VCmd × State
  | 0, c, s => (c, s)
  | n + 1, c, s =>
    if c.partDone k then (c, s)
    else match c.runStep clash k (c.part k).prog s with
      | (.ok c, s) => VCmd.run clash k n c s
      | (.error (.stall va reason w), s) =>
        (c.setPart k { c.part k with stall := some (va, reason) }, s.engineFault (s.partNum c.by_.ctx.cl) va reason w c.by_)
      | (.error e, s) => (c.fail (failWord e), s)

/-- Running part k as far as the event says: n steps, or all that are left for 0. Where its page's service posted NOMEM the command ends with an access
error (R256). (DEDUCED, log 88) -/
def VCmd.advance (c : VCmd) (k n : Nat) (s : State) : VCmd × State :=
  if (c.part k).nomem then (c.fail (errWord cPAGE_FAULT (((c.part k).stall.map Prod.fst).getD 0)), s)
  else VCmd.run (c.clashes s) k (if n = 0 then c.steps k - (c.part k).prog else n) (c.setPart k { c.part k with stall := none }) s

/-- The reductions of a scatter that have not left its windows. -/
def VCmd.pending (c : VCmd) : List PRed := c.work.flatMap VPart.pend

end Sys2Proof.Machine
end

