-- ==== Sys2Proof/Machine/Vector.lean ====
section
/-! DEFINITION. Sys2Proof/Machine/Vector.lean: the VEC and SFU majors, the arbiter, and the ends of vector commands (spec/08 R242 to R258, R267 to
R273). -/

namespace Sys2Proof.Machine

/-! ### Issue (R242 to R250) -/

/-- Sources that an operation names (R259). -/
def vecUses (op k : Nat) : Bool := match k with
  | 1 => op != 0x17
  | 2 => decide (op ≤ 0x06) || decide (0x09 ≤ op ∧ op ≤ 0x0F) || op == 0x18 || op == 0x1A || op == 0x1B
  | _ => op == 0x03 || op == 0x04 || op == 0x0F || op == 0x18

/-- The source that the scalar replaces (R250). -/
def sclSource (op : Nat) : Nat := if op = 0x16 then 1 else 2

/-- Record index k of gA. -/
def vecIndex (ga : Word) (k : Nat) : Nat := wfld ga (16 * k) 16

/-- Index k is used by the command. -/
def vecIdxUsed (op : Nat) (scl : Bool) (k : Nat) : Bool := k == 0 || (vecUses op k && !(scl && k == sclSource op))

/-- The SUB values of an operation (R259). -/
def subOk (op sub : Nat) : Bool := match op with
  | 0x0D => decide (sub ≤ 1)
  | 0x0E => true
  | 0x15 => decide (sub ≤ 2)
  | 0x19 => true
  | 0x1B => decide (sub ≤ 4)
  | _ => sub == 0

/-- A barrier number beyond the team's barriers. -/
def barBad (t : Option Team) (n : Nat) : Bool := match t with
  | some t => decide (t.bars.length ≤ n)
  | none => true

/-- A ring or slot beyond the team's (R54). -/
def ringBad (t : Option Team) (r slot : Nat) : Bool := match t.bind fun t => t.rings[r]? with
  | some g => decide (g.slots ≤ slot)
  | none => true

/-- The context's ROLE mask lacks a role (R31): 0 C, 1 M, 2 V. -/
def lacks (c : Ctx) (role : Nat) : Bool := !(c.role.getLsbD role)

/-- Type codes by kind (R249). -/
def isF (ty : Nat) : Bool := (tyFmt ty).isSome
def isI (ty : Nat) : Bool := tyInt ty

/-- Two types are of one kind, float or integer. -/
def sameKind (a b : Nat) : Bool := (isF a && isF b) || (isI a && isI b)

/-- gB breaks R245 or the last sentence of R261, given the types that its records name. -/
def vecGbBad (op : Nat) (scl : Bool) (gb : Word) (dty sty : Nat) : Bool :=
  wfld gb 56 8 != 0 || (vqSat gb && vqNosat gb) || (vqNosat gb && !(dty == 5 || dty == 6)) || (vqSat gb && dty == 7) ||
    (!vqUns gb && vqNw gb != 0) || !subOk op (vqSub gb) || (!scl && op != 0x17 && vqScalar gb != 0) ||
    (op == 0x0E && decide (6 ≤ vqSub gb) && isI sty)

/-- The destination record breaks a rule that concerns it alone (R249, R261, R262, R265, R268). -/
def vecDstBad (op : Nat) (scl : Bool) (gb : Word) (d : View) : Bool :=
  let ty := d.ty
  let known := isF ty || isI ty
  let reduced := op == 0x1B && vqSub gb != 0
  (!known && !(op == 0x11 || op == 0x1A || (op == 0x1B && !reduced))) ||
    ((decide (0x09 ≤ op ∧ op ≤ 0x0E)) && !isI ty) || (op == 0x19 && (!isF ty || ty == 1)) ||
    (op == 0x0F && scl && tyBits ty == 64) || (decide (0x12 ≤ op ∧ op ≤ 0x14) && d.ext 0 != 1) ||
    (reduced && (d.win != 0 || d.isVreg || !(if vqSub gb = 4 then ty == 8 || ty == 9 || ty == 16
      else ty == 1 || ty == 2 || ty == 8 || ty == 9 || ty == 16)))

/-- The type of source k does not suit (R249, R261 to R263, R267, R268, R270). -/
def vecTyBad (op k dty s1ty ty : Nat) : Bool :=
  if op = 0x1A ∨ op = 0x1B then (if k = 1 then ty != dty else !isI ty)
  else if op = 0x11 then ty != dty
  else if op = 0x0F then (if k < 3 then ty != dty else !isI ty)
  else if (op = 0x07 ∨ op = 0x08) ∧ isF dty = true then ty != dty
  else if op = 0x10 then !(isF ty || isI ty)
  else if op = 0x0E then (if k = 1 then !(isF ty || isI ty) else !sameKind ty s1ty)
  else if op = 0x19 then !isF ty || ty == 1
  else !sameKind ty dty

/-- Extents of two views agree. -/
def sameExt (a b : View) : Bool := (List.range 4).all fun k => a.ext k == b.ext k

/-- The shape of source k does not suit (R248, R264 to R268, R270). -/
def vecShapeBad (op k : Nat) (d s1 v : View) : Bool :=
  if op = 0x1A then k == 2 && !sameExt v d
  else if op = 0x1B then k == 2 && !sameExt v s1
  else if 0x12 ≤ op ∧ op ≤ 0x14 then d.rank != v.rank || !((List.range 3).all fun k => v.ext (k + 1) == d.ext (k + 1))
  else if op = 0x15 ∨ op = 0x19 then !sameExt v d
  else if op = 0x16 then d.count != 0 && v.count == 0
  else decide (d.rank < v.rank) || !((List.range 4).all fun k => v.ext k == 1 || v.ext k == d.ext k)

/-- Reading the records of a command in their order: the views so far, and the address of the first that offends. (DEDUCED, log 68) -/
def State.vecRecords (s : State) (c : Ctx) (op : Nat) (scl : Bool) (ga gb : Word) :
    List Nat → List (Option View) → Except (BadRec × Nat) (List (Option View)) × State
  | [], vs => (.ok vs, s)
  | k :: r, vs =>
    if vecIdxUsed op scl k = false then s.vecRecords c op scl ga gb r (vs ++ [none])
    else match s.record c (vecIndex ga k) with
      | (.error e, s) => (.error e, s)
      | (.ok v, s) =>
        let d := ((vs[0]?).join).getD v
        let s1 := ((vs[1]?).join).getD v
        let bad := if k = 0 then vecDstBad op scl gb v
          else vecTyBad op k d.ty s1.ty v.ty || vecShapeBad op k d s1 v
        if bad then (.error (.invalid, v.addr), s) else s.vecRecords c op scl ga gb r (vs ++ [some v])

/-- Parts of a command (R253): 0 where the arbiter does not bind it. -/
def vecParts (op width : Nat) (d : View) : Nat :=
  if op = 0x19 ∨ op = 0x1A ∨ op = 0x1B then 0
  else if width < 4 ∨ (0x12 ≤ op ∧ op ≤ 0x15 ∧ d.rank = 1) then 1
  else max 1 (min (width / 2) (d.ext (d.rank - 1)))

/-- A command that has passed its checks enters the queue of its pipe; D receives the entries that stay free (R246). -/
def State.vecEnter (s : State) (sm : Bool) (c : Ctx) (op : Nat) (scl : Bool) (gb : Word) (d : Reg) (dv : View) (vs : List (Option View)) : State :=
  let n := ((s.cluster s.cur.cl).vq.filter fun v => decide (v.pipe = s.cur.pipe)).length
  let parts := vecParts op (match s.groupOf s.cur with
    | some g => g.width
    | none => 1) dv
  let (oc, s) := if op = 0x1A ∨ op = 0x1B then
      let (o, s) := s.ocIssue s.cur .ocg
      (some o, s)
    else (none, s)
  let cmd : VCmd := {
    pipe := s.cur.pipe, by_ := s.behalf c, op := op, scl := scl, gb := gb, d := dv, s1 := (vs[1]?).join, s2 := (vs[2]?).join
    s3 := (vs[3]?).join, weight := c.weight, parts := parts, work := List.replicate (max parts 1) {}
    sig := { bar := if wb gb 43 then some (wfld gb 44 5, 1) else none
             ring := if wb gb 49 then some (wfld gb 50 3, wfld gb 53 3) else none }
    oc := oc }
  (s.modCluster s.cur.cl fun k => { k with vq := k.vq ++ [cmd] }).longOnce sm d (BitVec.ofNat 64 (15 - n))

/-- The destination breaks R117 or R268: WINDOW_PARTIAL. -/
def State.vecPartial (s : State) (c : Ctx) (op : Nat) (gb : Word) (dv : View) : Bool :=
  if op = 0x1B then dv.scaled && vqSub gb == 0 else !dv.wholeBlocks (s.viewWd (s.behalf c) dv)

/-- Issue of a vector command: room in the queue of the pipe first (R246), then the checks of R247 in their order. The group's earlier writes and
reductions reach the records before they are read (R152). -/
def State.vecIssue (s : State) (sm : Bool) (c : Ctx) (op : Nat) (scl : Bool) (ga gb : Word) (d : Reg) : State :=
  let t := s.teamOf s.cur
  let used := (List.range 4).filter (vecIdxUsed op scl)
  if 16 ≤ ((s.cluster s.cur.cl).vq.filter fun v => decide (v.pipe = s.cur.pipe)).length then s.stay (.parked (.room .vector))
  else if (wb gb 43 && barBad t (wfld gb 44 5)) || (wb gb 49 && ringBad t (wfld gb 50 3) (wfld gb 53 3)) then s.trapOpen cILLEGAL
  else if lacks c 2 then s.trapOpen cROLE
  else if (List.range 4).any fun k => vecIdxUsed op scl k == (vecIndex ga k == 0xFFFF) then s.trapAll cENGINE_ERR 0 ga
  else if used.any fun k => (s.recordBytes t (vecIndex ga k)).isNone then s.trapAll cENGINE_ERR 0 ga
  else
    let s := s.drainGroup s.cur
    if vecGbBad op scl gb (s.rawType t (vecIndex ga 0)) (s.rawType t (vecIndex ga 1)) then s.trapAll cENGINE_ERR 0 gb
    else match s.vecRecords c op scl ga gb [0, 1, 2, 3] [] with
      | (.error (.sparse k l i, _), s) => s.trapAll cSPARSE k (sparseVal 0 l i)
      | (.error (.invalid, addr), s) => s.trapAll cENGINE_ERR 0 (BitVec.ofNat 64 addr)
      | (.error (.beyond, addr), s) => s.trapAll cENGINE_ERR 0 (BitVec.ofNat 64 addr)
      | (.ok vs, s) => match (vs.filterMap id).find? fun v => v.beyondVrs c.vblocks with
        | some v => s.trapAll cVREG 0 (BitVec.ofNat 64 v.addr)
        | none => match (vs[0]?).join with
          | none => s
          | some dv => if s.vecPartial c op gb dv then s.trapOpen cWINDOW_PARTIAL else s.vecEnter sm c op scl gb d dv vs

/-- A vector command of the issuing agent: it issues once per group, with the operands of the lowest active lane (R246). -/
def vecOp (s : State) (sm : Bool) (op : Nat) (scl : Bool) (a b d : Reg) : Result :=
  onCtx s fun c => s.vecIssue sm c op scl (s.rg (s.lowest s.cur) a) (s.rg (s.lowest s.cur) b) d

def execVAdd (sm : Bool) (a b d : Reg) (c : Bool) (s : State) : Result := vecOp s sm 0x00 c a b d
def execVSub (sm : Bool) (a b d : Reg) (c : Bool) (s : State) : Result := vecOp s sm 0x01 c a b d
def execVMul (sm : Bool) (a b d : Reg) (c : Bool) (s : State) : Result := vecOp s sm 0x02 c a b d
def execVFma (sm : Bool) (a b d : Reg) (c : Bool) (s : State) : Result := vecOp s sm 0x03 c a b d
def execVFms (sm : Bool) (a b d : Reg) (c : Bool) (s : State) : Result := vecOp s sm 0x04 c a b d
def execVMin (sm : Bool) (a b d : Reg) (c : Bool) (s : State) : Result := vecOp s sm 0x05 c a b d
def execVMax (sm : Bool) (a b d : Reg) (c : Bool) (s : State) : Result := vecOp s sm 0x06 c a b d
def execVAbs (sm : Bool) (a b d : Reg) (s : State) : Result := vecOp s sm 0x07 false a b d
def execVNeg (sm : Bool) (a b d : Reg) (s : State) : Result := vecOp s sm 0x08 false a b d
def execVAnd (sm : Bool) (a b d : Reg) (c : Bool) (s : State) : Result := vecOp s sm 0x09 c a b d
def execVOr (sm : Bool) (a b d : Reg) (c : Bool) (s : State) : Result := vecOp s sm 0x0A c a b d
def execVXor (sm : Bool) (a b d : Reg) (c : Bool) (s : State) : Result := vecOp s sm 0x0B c a b d
def execVShl (sm : Bool) (a b d : Reg) (c : Bool) (s : State) : Result := vecOp s sm 0x0C c a b d
def execVShr (sm : Bool) (a b d : Reg) (c : Bool) (s : State) : Result := vecOp s sm 0x0D c a b d
def execVCmp (sm : Bool) (a b d : Reg) (c : Bool) (s : State) : Result := vecOp s sm 0x0E c a b d
def execVSel (sm : Bool) (a b d : Reg) (c : Bool) (s : State) : Result := vecOp s sm 0x0F c a b d
def execVCvt (sm : Bool) (a b d : Reg) (s : State) : Result := vecOp s sm 0x10 false a b d
def execVMov (sm : Bool) (a b d : Reg) (s : State) : Result := vecOp s sm 0x11 false a b d
def execVRsum (sm : Bool) (a b d : Reg) (s : State) : Result := vecOp s sm 0x12 false a b d
def execVRmax (sm : Bool) (a b d : Reg) (s : State) : Result := vecOp s sm 0x13 false a b d
def execVRmin (sm : Bool) (a b d : Reg) (s : State) : Result := vecOp s sm 0x14 false a b d
def execVScan (sm : Bool) (a b d : Reg) (s : State) : Result := vecOp s sm 0x15 false a b d
def execVBcast (sm : Bool) (a b d : Reg) (c : Bool) (s : State) : Result := vecOp s sm 0x16 c a b d
/-- `v.iota` has its scalar always. -/
def execVIota (sm : Bool) (a b d : Reg) (s : State) : Result := vecOp s sm 0x17 true a b d
def execVClamp (sm : Bool) (a b d : Reg) (c : Bool) (s : State) : Result := vecOp s sm 0x18 c a b d
def execVSfu (sm : Bool) (a b d : Reg) (s : State) : Result := vecOp s sm 0x19 false a b d
def execVGat (sm : Bool) (a b d : Reg) (s : State) : Result := vecOp s sm 0x1A false a b d
def execVSct (sm : Bool) (a b d : Reg) (s : State) : Result := vecOp s sm 0x1B false a b d

/-! ### The scalar SFU instruction (R271, R272) -/

/-- The result of a scalar request reaches each active lane, or the uniform file once (R40, R271). -/
def State.sfuDests (s : State) (d : Reg) (v : Word) : List (CtxId × Word) :=
  (uniformVals d (s.laneVals fun _ => v)).map fun l => (s.fileOf l.1 d, l.2)

def execSfu (sm : Bool) (d a : Reg) (r : Fin 4) (z : Bool) (f : Fin 8) (s : State) : Result :=
  onCtx s fun c =>
    if 32 ≤ (s.cluster s.cur.cl).sfuq.length then s.stay (.parked (.room .sfu))
    else if lacks c 2 then s.trapOpen cROLE
    else
      let v := BitVec.ofNat 64 (sfuEval f.val z (rmodeOf r.val) (wfld (s.rg (s.lowest s.cur) a) 0 32))
      (s.modCluster s.cur.cl fun k => { k with
        sfuq := k.sfuq ++ [.scalar (if d = 0 then [] else s.sfuDests d v) d s.cur none] }).retire sm

/-! ### The arbiter (R253, R254, R258) -/

/-- The head of a pipe's queue. -/
def Cluster.head (k : Cluster) (pipe : Nat) : Option VCmd := k.vq.find? fun v => decide (v.pipe = pipe)

/-- The head is waiting: some part of it is not bound. -/
def Cluster.waits (k : Cluster) (pipe : Nat) : Bool := ((k.head pipe).bind VCmd.nextPart).isSome

/-- Changing the head of a pipe's queue. -/
def modHead (pipe : Nat) (f : VCmd → VCmd) : List VCmd → List VCmd
  | [] => []
  | v :: r => if v.pipe = pipe then f v :: r else v :: modHead pipe f r

/-- The pipe whose head gets the next free lane group, with the credit before it is spent; none where no head waits. -/
def Cluster.nextPipe (k : Cluster) : Option (Nat × Nat) :=
  if k.waits k.rho && decide (0 < k.credit) then some (k.rho, k.credit)
  else (((List.range 16).map fun i => (k.rho + 1 + i) % 16).find? k.waits).map fun p =>
    (p, ((k.head p).map VCmd.weight).getD 1)

/-- The next part of a command takes a lane group. -/
def VCmd.bindNext (v : VCmd) : VCmd := match v.nextPart with
  | some k => v.setPart k { v.part k with lane := true }
  | none => v

/-- One binding (R258): a free lane group takes the next part of a waiting head. -/
def bindPart (k : Cluster) : Cluster := match k.nextPipe with
  | some (p, c) =>
    if k.lanes.length < 8 then { k with rho := p, credit := c - 1, lanes := k.lanes ++ [p], vq := modHead p VCmd.bindNext k.vq } else k
  | none => k

def execVectorPartBind (s : State) : Result := .next (s.modCluster s.subj.cl bindPart)

/-! ### The ends of commands (R254 to R257, R269, R270) -/

/-- A command that has run to its end leaves its queue, its reductions are applied, and it arrives and releases (R255, R256, R269). A gather or scatter
that has passed to its unit holds its entry until then. (DESIGN CHOICE, log 158) -/
def State.vecEnd (s : State) (cl : Nat) (c : VCmd) : State :=
  let s := if c.op = 0x1B ∧ vqSub c.gb ≠ 0 then { s with reds := s.reds ++ c.pending }.applyReds c.by_.ctx else s
  let s := s.modCluster cl fun k => { k with
    vq := dropFirst (fun v : VCmd => decide (v.pipe = c.pipe)) k.vq
    lanes := k.lanes.filter fun p => !decide (p = c.pipe) }
  let s := s.signalDone c.by_ c.sig c.err
  match c.oc with
  | some o => s.ocDone o
  | none => s

/-- Part k gives its lane group back once it is done (R253). -/
def VCmd.unbind (c : VCmd) (k : Nat) : VCmd := if c.partDone k then c.setPart k { c.part k with lane := false } else c

/-- Running part k of the head of a pipe's queue on, and its end and the command's. -/
def State.vecRun (s : State) (cl pipe k n : Nat) (c : VCmd) : State :=
  let (c, s) := c.advance k n s
  if c.finished then s.vecEnd cl c
  else s.modCluster cl fun x => { x with
    vq := modHead pipe (fun _ => c.unbind k) x.vq
    lanes := if c.partDone k && (c.part k).lane then dropFirst (fun p => decide (p = pipe)) x.lanes else x.lanes }

/-- Part subj.lo of the command at the head of a pipe's queue runs, subj.num steps or all, once it holds a lane group; the command completes when all its
parts are done, or when the SFU has served a `v.sfu`. -/
def execVectorCommandComplete (s : State) : Result := .next (match (s.cluster s.subj.cl).head s.subj.pipe with
  | none => s
  | some c =>
    if c.op = 0x1A ∨ c.op = 0x1B then s
    else if c.finished then (if c.op = 0x19 ∧ c.away = false then s else s.vecEnd s.subj.cl c)
    else if (c.part s.subj.lo).lane then s.vecRun s.subj.cl s.subj.pipe s.subj.lo s.subj.num c
    else s)

/-- `v.gat` or `v.sct` in the gather/scatter unit, in the same way (R269). -/
def State.vecGsRun (s : State) : State := match (s.cluster s.subj.cl).head s.subj.pipe with
  | none => s
  | some c => if c.op = 0x1A ∨ c.op = 0x1B then s.vecRun s.subj.cl s.subj.pipe 0 s.subj.num c else s

/-! ### The SFU queue (R272, R273) -/

/-- The heads of the vector queues that are `v.sfu` enter the SFU queue, in ascending pipe, while it has room (R270, R272). -/
def sfuEnter (k : Cluster) : Cluster :=
  (List.range 16).foldl (fun (k : Cluster) p => match k.head p with
    | some c => if c.op = 0x19 ∧ c.away = false ∧ k.sfuq.length < 32 then
        { k with sfuq := k.sfuq ++ [.vec p], vq := modHead p (fun v => { v with away := true }) k.vq } else k
    | none => k) k

/-- The gather/scatter unit's commands: those that have gone leave, and the heads of vector queues, in ascending pipe, and the row gathers and scatters that
have come join behind the others (R269). -/
def State.gsEnter (s : State) (k : Cluster) : Cluster :=
  let heads := (List.range 16).filterMap fun p => (k.head p).bind fun v => if v.op = 0x1A ∨ v.op = 0x1B then v.oc else none
  let rows := (s.copies.filter fun c => decide (c.by_.ctx.cl = k.id ∧ c.kind ≠ 0)).map Copy.oc
  let l := k.gsq.filter fun o => heads.contains o || rows.contains o
  let new := (heads ++ rows).filter fun o => !l.contains o
  if new.isEmpty && l.length == k.gsq.length then k else { k with gsq := l ++ new }

/-- The unit has accepted the command with a ticket (R269). -/
def Cluster.inUnit (k : Cluster) (o : Nat) : Bool := (k.gsq.take 16).contains o

/-- The SFU serves the entry at its queue's head: a scalar result goes to its write 12 cycles later, a `v.sfu` runs its elements. -/
def execSfuEntryServe (s : State) : Result := .next (match (s.cluster s.subj.cl).sfuq with
  | [] => s
  | .scalar vs d _ w :: r => s.modCluster s.subj.cl fun k => { k with
      sfuq := r, sfuOut := k.sfuOut ++ vs.map fun v => ({ dst := v.1, dest := .g d, val := v.2, away := w } : Long) }
  | .vec p :: r => match (s.cluster s.subj.cl).head p with
    | none => s.modCluster s.subj.cl fun k => { k with sfuq := r }
    | some c =>
      let (c, s) := c.advance 0 s.subj.num s
      s.modCluster s.subj.cl fun k => { k with
        sfuq := if c.finished then r else k.sfuq
        vq := modHead p (fun _ => c) k.vq })

/-- Writing a result into a saved register file. -/
def putSaved (l : Long) (c : Ctx) : Ctx := match l.dest with
  | .g r => if c.id = l.dst ∧ r ≠ 0 then { c with g := c.g.set r l.val } else c
  | .p _ => c

/-- A scalar result is written, into the saved registers where its context has gone with its team, or into its image in the switch area (R273, R387). -/
def State.writeSaved (s : State) (l : Long) : State := match l.away with
  | none => s.writeLong l
  | some (.team n) => s.modTeam l.dst.cl n fun t => { t with saved := t.saved.map (putSaved l) }
  | some (.area part area) => match s.partNo part, l.dest with
    | some p, .g r => if r = 0 then s else s.areaWrite p area (imageOff l.dst + 8 * r.val) ((s.partClusters p).idxOf l.dst.cl) (leBytes 8 l.val.toNat)
    | _, _ => s

/-- The oldest scalar result that has been served is written (R272); one of a context that a swap has taken out of its slot goes to the register's
saved image (R273). -/
def execSfuResultWrite (s : State) : Result := .next (match (s.cluster s.subj.cl).sfuOut with
  | [] => s
  | l :: r => (s.modCluster s.subj.cl fun k => { k with sfuOut := r }).writeSaved l)

end Sys2Proof.Machine
end

