-- ==== Sys2Proof/Machine/MatExec.lean ====
section
/-! DEFINITION. Sys2Proof/Machine/MatExec.lean: what matrix commands do when they execute: operand buffers, block terms, accumulators, drains, Gnobin
(spec/03 R94 to R99; spec/09 R277 to R296). -/

namespace Sys2Proof.Machine

/-! ### The configuration word (R277, R278) -/

def mcA (c : Word) : Nat := wfld c 0 8
def mcAs (c : Word) : Bool := wb c 8
def mcB (c : Word) : Nat := wfld c 16 8
def mcBs (c : Word) : Bool := wb c 24
def mcJoin (c : Word) : Bool := wb c 32
def mcBar (c : Word) : Nat := wfld c 33 5
def mcExp (c : Word) : Nat := if wfld c 38 8 = 0 then 1 else wfld c 38 8

/-- The kinds of operand pairs, by their block terms (R95, R278). -/
inductive Pair where
  | plain | scaled | affB | affScl | affAff | int
deriving DecidableEq, Repr

/-- The pair of a configuration word; none for one that is not accepted. -/
def pairOf (c : Word) : Option Pair :=
  let a := mcA c
  let b := mcB c
  let s8 := a == 5 || a == 6 || a == 7
  if a = b ∧ (a = 3 ∨ a = 4) ∧ mcAs c = false ∧ mcBs c = false then some .plain
  else if a = b ∧ s8 = true ∧ mcAs c = false ∧ mcBs c = false then some .plain
  else if a = b ∧ s8 = true ∧ mcAs c = true ∧ mcBs c = true then some .scaled
  else if (a = 13 ∨ a = 14) ∧ b = 3 ∧ mcAs c = false ∧ mcBs c = false then some .affB
  else if a = 14 ∧ (b = 5 ∨ b = 6) ∧ mcAs c = false ∧ mcBs c = true then some .affScl
  else if a = b ∧ (a = 13 ∨ a = 14) ∧ mcAs c = false ∧ mcBs c = false then some .affAff
  else if (a = 11 ∨ a = 12) ∧ b = 11 ∧ mcAs c = false ∧ mcBs c = false then some .int
  else none

/-- Tiles of the pair hold integers (R97). -/
def Pair.isInt (p : Pair) : Bool := p == .int

/-! ### Block terms (R95) -/

/-- An element of an operand: its code, and the metadata of its block. -/
abbrev MEl := Nat × Nat

/-- Scale and zero point of an affine piece of metadata. -/
def metaScale (m : Nat) : Ex := decodeFloat .f16 (m % 65536)
def metaZero (m : Nat) : Int := (m / 65536 : Nat)

/-- Value of an element of a floating-point operand, scaled or not. -/
def elVal (ty : Nat) (scl : Bool) (x : MEl) : Ex := if scl then scaledVal (recFmt ty) x.2 x.1 else decodeFloat (recFmt ty) x.1

/-- An element of an affine group is NaN: by its scale, or for an infinite scale where the code is the zero point (R88). -/
def affNan (x : MEl) : Bool := (affineVal (x.2 % 65536) (x.2 / 65536) x.1).isNan

/-- The exact block term over the products that are present (R95, R284). An affine operand takes the table's factored form, also where a scale or
an element of the other operand is infinite. (DEDUCED, log 155) -/
def blockTerm (c : Word) (p : Pair) (xs : List (MEl × MEl)) : Ex :=
  let val := fun (x : MEl) => elVal (mcB c) (mcBs c) x
  let aff := fun (l : List (MEl × MEl)) => match l with
    | [] => Ex.zero
    | x :: _ =>
      if l.any fun y => affNan y.1 then Ex.nan else
      let qb := Ex.sum (l.map fun y => (Ex.ofInt y.1.1).mul (val y.2))
      let zb := (Ex.ofInt (metaZero x.1.2)).mul (Ex.sum (l.map fun y => val y.2))
      (metaScale x.1.2).mul (qb.add .rne zb.neg)
  match xs, p with
  | [], _ => .zero
  | _, .plain => Ex.sum (xs.map fun y => (elVal (mcA c) false y.1).mul (elVal (mcB c) false y.2))
  | _, .scaled => Ex.sum (xs.map fun y => (elVal (mcA c) true y.1).mul (elVal (mcB c) true y.2))
  | _, .affB => aff xs
  | _, .affScl => aff xs
  | x :: _, .affAff => if xs.any fun y => affNan y.1 || affNan y.2 then .nan else ((metaScale x.1.2).mul (metaScale x.2.2)).mul
      (Ex.ofInt (xs.map fun y => ((y.1.1 : Int) - metaZero y.1.2) * ((y.2.1 : Int) - metaZero y.2.2)).sum)
  | _, .int => .zero

/-- The integer block term (R97). -/
def intTerm (c : Word) (xs : List (MEl × MEl)) : Int :=
  (xs.map fun y => intVal 8 (mcA c == 12) y.1.1 * intVal 8 false y.2.1).sum

/-! ### Accumulators (R23, R94, R97, R99) -/

/-- The tile that an accumulator element lies in, and its row and column there: joined accumulators are built of quadrant tiles. -/
def accTile (joined : Bool) (acc i j : Nat) : Nat × Nat × Nat :=
  if joined then (2 * (2 * (i / 32) + j / 32) + acc, i % 32, j % 32) else (acc, i, j)

def accKey (cl tile i j : Nat) : Nat := 8192 * cl + 1024 * tile + 32 * i + j

def State.accRead (s : State) (cl : Nat) (joined : Bool) (acc i j : Nat) : Nat :=
  let (t, r, c) := accTile joined acc i j
  kvRead 0 s.acc (accKey cl t r c)

/-- The elements of a tile become the values of f. -/
def accFill (m : List AccCell) (cl tile : Nat) (f : Nat → Nat → Nat) : List AccCell :=
  let lo := accKey cl tile 0 0
  (m.filter fun c => decide (c.1 < lo)) ++
    ((List.range 1024).filterMap fun k => if f (k / 32) (k % 32) = 0 then none else some (lo + k, f (k / 32) (k % 32))) ++
    m.filter fun c => decide (lo + 1024 ≤ c.1)

/-- The quadrant tiles of an accumulator, each with the row and column at which it begins. -/
def accParts (joined : Bool) (acc : Nat) : List (Nat × Nat × Nat) :=
  if joined then [(acc, 0, 0), (2 + acc, 0, 32), (4 + acc, 32, 0), (6 + acc, 32, 32)] else [(acc, 0, 0)]

/-- Integer use of a tile. -/
def tileInt (k : Cluster) (tile : Nat) : Bool := match k.quads[tile / 2]? with
  | some q => if tile % 2 = 0 then q.int0 else q.int1
  | none => false

def setTileInt (tile : Nat) (b : Bool) (k : Cluster) : Cluster :=
  { k with quads := k.quads.mapIdx fun i q => if i = tile / 2 then (if tile % 2 = 0 then { q with int0 := b } else { q with int1 := b }) else q }

/-- An element in the other use (R97). -/
def convUse (toInt : Bool) (v : Nat) : Nat :=
  if toInt then wrapNat 32 (Ex.toInt .rtz (-(2 ^ 31)) (2 ^ 31 - 1) (decodeFloat .w40 v))
  else roundTo .w40 .rne false (Ex.ofInt (signedOf 32 v))

/-- Bringing a tile into a use. -/
def State.tileUse (s : State) (cl tile : Nat) (toInt : Bool) : State :=
  if tileInt (s.cluster cl) tile = toInt then s
  else
    let old := s.acc
    { s.modCluster cl (setTileInt tile toInt) with
      acc := accFill old cl tile fun i j => convUse toInt (kvRead 0 old (accKey cl tile i j)) }

/-- Spilling and reloading a W40 element (R99). -/
def spillVal (v : Nat) : Nat := roundTo .w40 .rne false (decodeFloat .f32 (roundTo .f32 .rne true (decodeFloat .w40 v)))

/-- Spill and reload of the W40 tiles of the quadrants given (R99, R291). -/
def State.spill (s : State) (cl : Nat) (quads : List Nat) : State :=
  { s with acc := s.acc.filterMap fun c =>
      let tile := (c.1 - 8192 * cl) / 1024
      if c.1 / 8192 = cl ∧ quads.contains (tile / 2) = true ∧ tileInt (s.cluster cl) tile = false then
        (if spillVal c.2 = 0 then none else some (c.1, spillVal c.2))
      else some c }

/-! ### Multiply-accumulate (R284) -/

/-- Adding the block terms of the products of A and B in some K blocks, in their order, to an accumulator: the elements as functions of row or column and
K index, none for padding. -/
def State.mma (s : State) (cl : Nat) (joined : Bool) (acc : Nat) (c : Word) (p : Pair) (blks : List Nat) (a b : Nat → Nat → Option MEl) : State :=
  let s := (accParts joined acc).foldl (fun s t => s.tileUse cl t.1 p.isInt) s
  (accParts joined acc).foldl (fun (s : State) t =>
    let old := s.acc
    { s with acc := accFill old cl t.1 fun r q =>
        let terms := blks.map fun blk => (List.range 16).filterMap fun d =>
          match a (t.2.1 + r) (16 * blk + d), b (t.2.2 + q) (16 * blk + d) with
          | some x, some y => some (x, y)
          | _, _ => none
        let v := kvRead 0 old (accKey cl t.1 r q)
        if p.isInt then terms.foldl (fun v xs => wrapNat 32 ((v : Int) + intTerm c xs)) v
        else terms.foldl (fun v xs => roundTo .w40 .rne false ((decodeFloat .w40 v).add .rne (blockTerm c p xs))) v }) s

/-- The element of a buffer. -/
def MBuf.el (m : MBuf) (codes metas : Array Nat) (r k : Nat) : Option MEl :=
  if r < m.rows ∧ k < m.k then
    some ((codes[r * m.k + k]?).getD 0, (metas[r * ((m.k + 15) / 16) + k / 16]?).getD 0)
  else none

/-- A buffer of a set. -/
def Quad.buf (q : Quad) (set1 opB : Bool) : MBuf := match set1, opB with
  | false, false => q.a0
  | false, true => q.b0
  | true, false => q.a1
  | true, true => q.b1

def Quad.setBuf (q : Quad) (set1 opB : Bool) (m : MBuf) : Quad := match set1, opB with
  | false, false => { q with a0 := m }
  | false, true => { q with b0 := m }
  | true, false => { q with a1 := m }
  | true, true => { q with b1 := m }

/-- The queue that a command entered, and the quadrants that it acts on. -/
def mxQuads (joined : Bool) (q : Nat) : List Nat := if joined then [0, 1, 2, 3] else [q]

def State.quad (s : State) (cl q : Nat) : Quad := ((s.cluster cl).quads[q]?).getD {}

def State.modQuads (s : State) (cl : Nat) (qs : List Nat) (f : Quad → Quad) : State :=
  s.modCluster cl fun k => { k with quads := k.quads.mapIdx fun i q => if qs.contains i then f q else q }

/-! ### Loading and draining (R283, R287, R288, R98) -/

/-- Reading an operand's stored element and its block's metadata: through W1 to W5 the stored codes (R282). -/
def State.readStored (s : State) (b : Behalf) (v : View) (t : Target) : MEl × State :=
  let (x, s') := s.seesTarget b v.ty t
  match t with
  | .win l wd e => if l.win ≤ 5 then ((s.winCode l.cl l.base l.win e, s.winMetaAt l.cl l.base l.win wd e), s) else ((x, 0), s')
  | .bytes _ _ => ((x, 0), s')
  | .nib _ _ => ((x, 0), s')
  | .vr _ _ => ((x, 0), s')
  | .vrNib _ _ => ((x, 0), s')

/-- A step of `mx.ld`: row i of A or column i of B, from view elements (k, i) (R283). -/
def mxLoadRow (c : MCmd) (v : View) (i : Nat) : Eng MCmd :=
  (Eng.each (fun k => (v.target c.by_ .read (v.off (k, i, 0, 0))).andThen fun t s => let r := s.readStored c.by_ v t
    (.ok r.1, r.2)) (List.range (v.ext 0))).andThen fun els =>
    Eng.ret { c with got := c.got ++ els }

/-- The buffer that the rows fill: the metadata of a block is that of its first element. -/
def mxLoaded (c : MCmd) (v : View) : MBuf :=
  let kn := v.ext 0
  let els := c.got.toArray
  { rows := v.ext 1, k := kn, codes := c.got.map Prod.fst
    meta_ := (List.range (v.ext 1)).flatMap fun r => (List.range ((kn + 15) / 16)).map fun b => (els.getD (r * kn + 16 * b) (0, 0)).2 }

/-- Drain word fields (R288). -/
def dwRm (g : Word) : RMode := rmodeOf (wfld g 0 2)
def dwSat (g : Word) : Bool := wb g 2
def dwNosat (g : Word) : Bool := wb g 3

/-- The destination suits a tile's use (R288). -/
def drainSuits (isInt : Bool) (v : View) : Bool :=
  if isInt then v.win == 0 && (v.ty == 9 || v.ty == 10 || v.ty == 11)
  else decide (2 ≤ v.ty ∧ v.ty ≤ 7)

/-- Saturation of a drain (R98). -/
def drainSat (g : Word) (f : FFmt) : Bool := match f with
  | .e2m1 => true
  | .e4m3 => !dwNosat g
  | .e5m2 => !dwNosat g
  | _ => dwSat g

/-- The code that a drain writes (R98). -/
def drainCode (g : Word) (isInt : Bool) (ty v : Nat) : Nat :=
  if isInt then narrowInt (tyBits ty) false (!dwNosat g) (signedOf 32 v)
  else match tyFmt ty with
    | some f => roundTo f (dwRm g) (drainSat g f) (decodeFloat .w40 v)
    | none => 0

/-- The tiles of the accumulator are in one use, which the destination suits (R288). -/
def mxSuits (c : MCmd) (v : View) (s : State) : Bool :=
  let uses := (accParts c.joined c.acc).map fun t => tileInt (s.cluster c.by_.ctx.cl) t.1
  let isInt := (uses[0]?).getD false
  uses.all (fun u => u == isInt) && drainSuits isInt v

/-- The numbers cut behind those that the test picks. -/
def cutBehind (f : Nat → Bool) : List Nat → List (List Nat)
  | [] => []
  | a :: r =>
    if f a then [a] :: cutBehind f r
    else match cutBehind f r with
      | [] => [[a]]
      | l :: ls => (a :: l) :: ls

/-- A step of `mx.st`: row i of the accumulator, element by element in ascending order, or block by block of a scaled window (R287, R291). -/
def mxStoreRow (c : MCmd) (v : View) (i : Nat) : Eng Unit := fun s =>
  let cl := c.by_.ctx.cl
  let isInt := ((accParts c.joined c.acc)[0]?).elim false fun t => tileInt (s.cluster cl) t.1
  let wd := s.viewWd c.by_ v
  -- W6 and W7 take the stored type at once: W1 to W5 alone are rounded to the record's type first (R98, R288)
  let v := if v.win = 6 then { v with ty := 3 } else if v.win = 7 then { v with ty := 4 } else v
  let put := fun (js : List Nat) => (v.targets c.by_ .write (js.map fun j => v.off (j, i, 0, 0))).andThen fun ts =>
    Eng.act fun s => s.putCodes v c.by_.ctx true ((js.zip ts).map fun x =>
      (i * v.ext 0 + x.1, x.2, drainCode c.gb isInt v.ty (s.accRead cl c.joined c.acc i x.1)))
  Eng.forAll put (cutBehind (fun j => !v.scaled || blockLast wd (v.off (j, i, 0, 0))) (List.range (v.ext 0))) s

/-! ### Gnobin (R293 to R296) -/

/-- A Gnobin matrix descriptor. -/
structure Gmd where
  region : Nat
  rows : Nat
  kcols : Nat
  wtype : Nat
  valid : Bool
  ns : Nat
  nb : Nat
deriving DecidableEq, Repr

def parseGmd (b : List Byte) : Gmd where
  region := blkNum b 0 8
  rows := blkNum b 8 4
  kcols := blkNum b 12 4
  wtype := blkNum b 16 1
  valid := bitAt (blkNum b 17 1) 0
  ns := blkNum b 20 4
  nb := blkNum b 24 4

/-- The descriptor is within R293; its reserved bits and bytes are ignored (R7). -/
def gmdOk (g : Gmd) : Bool :=
  decide (g.region % 2 ^ 21 = 0 ∧ 1 ≤ g.rows ∧ g.rows ≤ 2 ^ 24 ∧ 1 ≤ g.kcols ∧ g.kcols ≤ 2 ^ 20 ∧ 3 ≤ g.wtype ∧ g.wtype ≤ 6)

/-- A GMD condition that fails in execution; its VA is a free value (R291, R296, `failReport`). -/
def gmBad : Fail := .err cENGINE_ERR 0 0

/-- Reading the descriptor: 64 bytes, aligned, in paged memory. -/
def readGmd (w : Who) (va : Nat) : Eng (List Byte) :=
  if va % 64 ≠ 0 ∨ regionOf va ≠ .paged then Eng.fail (.err cENGINE_ERR 0 va) else readBytes w va 64

/-- K indices of a tile. -/
def gmKt (g : Gmd) : Nat := if tyBits g.wtype = 8 then 8192 else 4096

/-- Address of tile (j, s) (R294). -/
def gmTile (g : Gmd) (ns j sl : Nat) : Nat := g.region + (j * ns + sl) * 2 ^ 21

/-- The page of a tile meets R294: 2 MiB, UC, channel-local, of the context's key. -/
def gmPage (b : Behalf) (va : Nat) : Eng Unit := fun s =>
  match s.lookup (whoB b) va with
  | (.ok x, s) =>
    if x.cls = 2 ∧ x.attr = 2 ∧ x.stripe = false ∧ x.far = false ∧ (x.key = b.domain ∨ keyOk (whoB b) x.key = true) then (.ok (), s)
    else (.error (.err cENGINE_ERR 0 va), s)
  | (.absent, s) => (.error (.stall va reasonAbsent false), s)
  | (.malformed, s) => (.error (.stall va reasonMalformed false), s)
  | (.noMap, s) => (.error (.err cPROTECTION 0 va), s)

/-- The row of a tile as it lies in memory, padded with zeros. (DESIGN CHOICE, log 90) -/
def gmRow (g : Gmd) (c : MCmd) (v : View) (i sl : Nat) : Eng (List Byte) :=
  let kt := gmKt g
  let n := tyBits g.wtype / 8
  (Eng.each (fun k => if i < g.rows ∧ sl * kt + k < g.kcols then v.read c.by_ (v.off (sl * kt + k, i, 0, 0)) else Eng.ret 0)
    (List.range kt)).andThen fun cs => Eng.ret (cs.flatMap fun x => leBytes n x)

/-- `gm.lay` (R295): VALID is clear from the moment at which the descriptor has been read. (DESIGN CHOICE, log 90) -/
def gmLayRun (c : MCmd) (v : View) : Eng Unit :=
  let w := whoB c.by_
  let va := c.gb.toNat
  (readGmd w va).andThen fun b =>
    let g := parseGmd b
    let flags := blkNum b 17 1
    let agent := some c.by_.ctx
    (writeBytes w agent (va + 17) (leBytes 1 (flags / 2 * 2))).andThen fun _ =>
    if gmdOk g = false ∨ v.rank ≠ 2 ∨ v.ext 0 ≠ g.kcols ∨ v.ext 1 ≠ g.rows ∨ v.ty ≠ g.wtype ∨ v.win ≠ 0 then Eng.fail gmBad
    else
      let ns := (g.kcols + gmKt g - 1) / gmKt g
      let nb := (g.rows + 255) / 256
      (writeBytes w agent (va + 20) (leBytes 4 ns ++ leBytes 4 nb)).andThen fun _ =>
      (Eng.forAll (fun t =>
        let j := t / ns
        let sl := t % ns
        (gmPage c.by_ (gmTile g ns j sl)).andThen fun _ =>
          Eng.forAll (fun r => (gmRow g c v (256 * j + r) sl).andThen fun bytes =>
            writeBytes w agent (gmTile g ns j sl + 8192 * r) bytes) (List.range 256)) (List.range (nb * ns))).andThen fun _ =>
      writeBytes w agent (va + 17) (leBytes 1 (flags / 2 * 2 + 1))

/-- One partial sum of `gm.gemv`: weights and activations by K index of the slab. (DESIGN CHOICE, log 90) -/
def gmPartial (fw fx : FFmt) (ws xs : List Nat) : Nat :=
  let n := (ws.length + 15) / 16
  let acc := (List.range n).foldl (fun acc blk =>
    let t := Ex.sum ((((ws.drop (16 * blk)).take 16).zip ((xs.drop (16 * blk)).take 16)).map fun p =>
      (decodeFloat fw p.1).mul (decodeFloat fx p.2))
    roundTo .w40 .rne false ((decodeFloat .w40 acc).add .rne t)) 0
  roundTo .f32 .rne false (decodeFloat .w40 acc)

/-- Numbers of n bytes each. -/
def splitNums (n : Nat) (b : List Byte) : List Nat := (List.range (b.length / n)).map fun i => blkNum b (n * i) n

/-- `gm.gemv` (R296): d the destination, x the activations. (DESIGN CHOICE, log 89; DESIGN CHOICE, log 90) -/
def gmGemvRun (c : MCmd) (d x : View) : Eng Unit :=
  let w := whoB c.by_
  (readGmd w c.gb.toNat).andThen fun b =>
    let g := parseGmd b
    let act := if g.wtype = 4 then 4 else 3
    let ns := g.ns
    let nb := (g.rows + 255) / 256
    if gmdOk g = false ∨ g.valid = false ∨ d.ext 0 ≠ g.rows ∨ x.ext 0 ≠ g.kcols ∨ x.ty ≠ act then Eng.fail gmBad
    else
      let n := tyBits g.wtype / 8
      (Eng.forAll (fun t => gmPage c.by_ (g.region + t * 2 ^ 21)) (List.range (nb * ns))).andThen fun _ =>
      (Eng.each (fun v => Eng.each (fun k => x.read c.by_ (x.off (k, v, 0, 0))) (List.range g.kcols)) (List.range (d.ext 1))).andThen fun xs =>
      Eng.forAll (fun i =>
        (Eng.each (fun sl =>
          let len := min (gmKt g) (g.kcols - sl * gmKt g)
          (readBytes w (gmTile g ns (i / 256) sl + 8192 * (i % 256)) (n * len)).andThen fun bs => Eng.ret (splitNums n bs)) (List.range ns)).andThen fun ws =>
        Eng.forAll (fun v =>
          let xv := (xs[v]?).getD []
          let ps := ws.mapIdx fun sl wl => gmPartial (recFmt g.wtype) (recFmt act) wl ((xv.drop (sl * gmKt g)).take (gmKt g))
          (d.target c.by_ .write (d.off (i, v, 0, 0))).andThen fun t => Eng.act fun s =>
            -- of no slab at all no sum is stated
            let (y, s) : Nat × State := match ps with
              | [] => (s.freshFree.1.toNat % 2 ^ 32, s.freshFree.2)
              | a :: r => (r.foldl (fun y p => roundTo .f32 .rne false ((decodeFloat .f32 y).add .rne (decodeFloat .f32 p))) a, s)
            s.putCodes d c.by_.ctx false [(v * d.ext 0 + i, t, y)])
          (List.range (d.ext 1))) (List.range g.rows)

end Sys2Proof.Machine
end

