-- ==== Sys2Proof/Machine/Tasks.lean ====
section
/-! DEFINITION. Sys2Proof/Machine/Tasks.lean: work queues (spec/02 R61 to R63), the loading of task records (R64, R65, R488), and decrements
(R66, R67). -/

namespace Sys2Proof.Machine

/-! ### Work queues -/

/-- The highest menu index whose height is at most rem, else 0 (R62). -/
def wqShape (menu : List (Nat × Nat)) (rem : Nat) : Nat :=
  (((List.range menu.length).filter fun i => decide (((menu[i]?).getD (0, 0)).1 ≤ rem)).getLast?).getD 0

/-- Going to the next segment with rows, and to the next batch behind the last (R62). -/
def wqSeek (q : WQ) : WQ :=
  if 0 < q.rem then q
  else match (List.range q.counts.length).find? fun i => decide (q.seg < i) && decide (0 < (q.counts[i]?).getD 0) with
    | some i => { q with seg := i, row := (q.counts.take i).sum, rem := (q.counts[i]?).getD 0, col := 0 }
    | none =>
      if q.b + 1 < q.batches then match (List.range q.counts.length).find? fun i => decide (0 < (q.counts[i]?).getD 0) with
        | some i => { q with b := q.b + 1, seg := i, row := (q.counts.take i).sum,
                             rem := (q.counts[i]?).getD 0, col := 0 }
        | none => { q with done := true }
      else { q with done := true }

/-- A queue at its first tile. -/
def wqStart (e0 batches : Nat) (menu : List (Nat × Nat)) (counts : List Nat) : WQ :=
  match (List.range counts.length).find? fun i => decide (0 < (counts[i]?).getD 0) with
  | some i => { e0 := e0, batches := batches, menu := menu, counts := counts, b := 0, seg := i, row := 0,
                rem := (counts[i]?).getD 0, col := 0, done := false }
  | none => { e0 := e0, batches := batches, menu := menu, counts := counts, done := true }

/-- The next tile's handout word, and the queue behind it; none at the end (R62, R63). -/
def wqTake (q : WQ) : Option (Word × WQ) :=
  if q.done then none
  else
    let k := wqShape q.menu q.rem
    let (h, w) := (q.menu[k]?).getD (1, 1)
    let rows := min h q.rem
    let cols := min w (q.e0 - q.col)
    let word := BitVec.ofNat 64 (q.row % 2 ^ 20 + q.col % 2 ^ 16 * 2 ^ 20 + (rows - 1) % 256 * 2 ^ 36 + (cols - 1) % 256 * 2 ^ 44 +
      k % 4 * 2 ^ 52 + q.b % 1024 * 2 ^ 54)
    let q' := if q.col + w < q.e0 then { q with col := q.col + w }
      else wqSeek { q with col := 0, row := q.row + rows, rem := q.rem - rows }
    some (word, q')

/-- Shapes sorted by height, and by width among equal heights (R61). -/
def wqSorted : List (Nat × Nat) → Bool
  | [] => true
  | [_] => true
  | (h, w) :: (h', w') :: r => decide (h < h' ∨ (h = h' ∧ w ≤ w')) && wqSorted ((h', w') :: r)

/-- The queue that a parameter block and a count vector set up; none for a block that breaks a limit (R61, R229). -/
def wqParse (blk : List Byte) (counts : Option (List Nat)) : Option WQ :=
  let half := fun i => leNat ((blk.drop i).take 2)
  let word := fun i => leNat ((blk.drop i).take 4)
  let e0 := word 0
  let e2 := half 8
  let e3 := half 10
  let ns := leNat ((blk.drop 12).take 1)
  let menu := (List.range (min ns 4)).map fun k => (half (16 + 4 * k), half (18 + 4 * k))
  let cs := counts.getD [word 4]
  if 1 ≤ e0 ∧ e0 ≤ 65535 ∧ 1 ≤ e2 ∧ 1 ≤ e3 ∧ e2 * e3 ≤ 1024 ∧ 1 ≤ ns ∧ ns ≤ 4 ∧ leNat ((blk.drop 13).take 1) = 0 ∧
      (menu.all fun m => decide (1 ≤ m.1 ∧ m.1 ≤ 256 ∧ 1 ≤ m.2 ∧ m.2 ≤ 256)) = true ∧ wqSorted menu = true ∧ cs.sum < 2 ^ 20 ∧
      (counts.isSome = true ∨ word 4 < 2 ^ 20) then
    some (wqStart e0 (e2 * e3) menu cs)
  else none

/-! ### Task records -/

/-- A task record as it lies in memory (R64). -/
structure TaskRec where
  entry : Nat
  tmpl : Nat
  args : Nat
  grid : Nat
  prio : Nat
  chained : Bool
  deps : Nat
  succs : List Nat
  chain : Nat
  done : Nat
deriving DecidableEq, Repr

/-- Sixteen-bit numbers of a block of bytes. -/
def halves (b : List Byte) (i n : Nat) : List Nat := (List.range n).map fun k => leNat ((b.drop (i + 2 * k)).take 2)

def parseTask (b : List Byte) : TaskRec :=
  let at_ := fun i n => leNat ((b.drop i).take n)
  { entry := at_ 0 8, tmpl := at_ 8 8, args := at_ 16 8, grid := at_ 24 4, prio := at_ 28 1 % 8, chained := at_ 29 1 % 2 = 1
    deps := at_ 30 2, succs := halves b 32 4, chain := at_ 40 8, done := at_ 48 8 }

/-- A word below zero or above 56 bits is no address; reading 64 bytes of VA space for the system (R428). -/
def State.sysRead (s : State) (p : Partition) (va n : Nat) : Option (List Byte) × State :=
  if 2 ^ 56 ≤ va then (none, s)
  else match s.engRead (sysWho p) va n with
    | (.ok b, s) => (some b, s)
    | (.error _, s) => (none, s)

/-- What reading a chain finds (R488). -/
inductive Chain where
  | ok (idx : List Nat)
  | fault
  | bad
deriving DecidableEq, Repr

/-- The successor indices of a chain of at most n blocks. -/
def State.readChain (s : State) (p : Partition) : Nat → Nat → List Nat → Chain × State
  | 0, _, _ => (.bad, s)
  | n + 1, va, acc =>
    if va % 64 ≠ 0 then (.bad, s)
    else match s.sysRead p va 64 with
      | (none, s) => (.fault, s)
      | (some b, s) =>
        let acc := acc ++ halves b 0 24
        let next := leNat ((b.drop 48).take 8)
        if next = 0 then (.ok acc, s) else s.readChain p n next acc

/-- An index of a successor list is below 4096 or the unused mark. -/
def succOk (i : Nat) : Bool := decide (i < 4096 ∨ i = 0xFFFF)

/-- Loading record idx into Geyser (R65, R231, R488): the status of `tsk.submit`. -/
def State.loadTask (s : State) (p : Partition) (idx : Nat) (domain : BitVec 12) (cookie : Option (BitVec 64 × Nat × Nat)) : Nat × State :=
  if (s.task p.num idx).isSome then (2, s)
  else match s.sysRead p (p.ttab + 64 * idx) 64 with
    | (none, s) => (3, s)
    | (some b, s) =>
      let r := parseTask b
      let (ch, s) := if r.chained then s.readChain p 171 r.chain [] else (.ok [], s)
      match ch with
      | .fault => (3, s)
      | .bad => (4, s)
      | .ok more =>
        let all := r.succs ++ more
        if 1 ≤ r.grid ∧ r.grid ≤ 2 ^ 20 ∧ all.all succOk = true then
          let t : Task := {
            part := p.num, idx := idx, st := if r.deps = 0 then .ready else .loaded, counter := r.deps
            entry := BitVec.ofNat 64 r.entry, tmplVa := r.tmpl, args := BitVec.ofNat 64 r.args, grid := r.grid, prio := r.prio
            succs := all.filter fun i => decide (i < 4096), done := r.done, domain := domain, cookie := cookie }
          (0, s.putTasks p.num (s.tasks ++ [t]))
        else (4, s)

end Sys2Proof.Machine
end

