-- ==== Sys2Proof/Machine/Geyser.lean ====
section
/-! DEFINITION. Sys2Proof/Machine/Geyser.lean: the placement of teams (spec/02 R51, R52, R65; spec/06 R185, R186, R191; spec/15 R430 to R432), their
swapping (spec/02 R57 to R59), the watchdog (spec/13 R391) and the kill queue (R390). -/

namespace Sys2Proof.Machine

/-! ### Team templates (R52, R191) -/

/-- Little-endian number of a block. -/
def blkAt (b : List Byte) (i n : Nat) : Nat := leNat ((b.drop i).take n)

/-- Contexts with role M of a group entry. -/
def TGroup.isM (g : TGroup) : Bool := g.role.getLsbD 1

/-- A group entry of 8 bytes; none where it breaks a limit (R51, R52, R191). -/
def parseGroup (b : List Byte) (i : Nat) : Option TGroup :=
  let base := blkAt b (8 * i) 1
  let w := blkAt b (8 * i + 1) 1
  let role := blkAt b (8 * i + 2) 1
  let weight := blkAt b (8 * i + 3) 1
  if (w = 1 ∨ w = 2 ∨ w = 4 ∨ w = 8 ∨ w = 16) ∧ base % w = 0 ∧ base + w ≤ 16 ∧ role < 8 ∧ 1 ≤ weight ∧ weight ≤ 15 ∧ blkAt b (8 * i + 4) 4 = 0 then
    some { base := base, width := w, role := if role = 0 then 5 else BitVec.ofNat 3 role, weight := weight }
  else none

/-- A ring entry of 8 bytes (R54, R191). -/
def parseRing (b : List Byte) (i : Nat) : Option Ring :=
  let n := blkAt b (8 * i) 1
  let off := blkAt b (8 * i + 4) 4
  if 2 ≤ n ∧ n ≤ 8 ∧ blkAt b (8 * i + 1) 1 = 0 ∧ off % 64 = 0 then some { slots := n, size := 64 * blkAt b (8 * i + 2) 2, base := off } else none

/-- The pipes that a group covers. -/
def TGroup.covers (g : TGroup) (p : Nat) : Bool := decide (g.base ≤ p ∧ p < g.base + g.width)

/-- The limits on M groups (R32, R52). -/
def mGroupsOk (gs : List TGroup) : Bool :=
  let ms := gs.filter TGroup.isM
  let n := (ms.map TGroup.width).sum
  decide (n ≤ 4) && ms.all (fun g => decide (g.width = 1 ∨ (g.width = 4 ∧ n = 4 ∧ ms.length = 1))) &&
    decide (((ms.filter fun g => decide (g.width = 1)).map fun g => g.base % 4).Nodup)

/-- Two ranges of bytes share one. -/
def rangesMeet (a b : Nat × Nat) : Bool := decide (a.1 < b.1 + b.2 ∧ b.1 < a.1 + a.2 ∧ 0 < a.2 ∧ 0 < b.2)

/-- No two of the ranges meet. -/
def rangesApart : List (Nat × Nat) → Bool
  | [] => true
  | a :: r => !r.any (rangesMeet a) && rangesApart r

/-- A template from its header of 128 bytes and its group entries; none where Geyser refuses it. -/
def parseTemplate (h g : List Byte) : Option Template :=
  let ngrp := blkAt h 0 2
  let nring := blkAt h 4 1
  let vrs := [blkAt h 8 2, blkAt h 10 2, blkAt h 12 2]
  let ls := [blkAt h 16 2, blkAt h 18 2, blkAt h 20 2]
  let size := 4096 * ls.sum
  let rbsz := blkAt h 22 2
  match (List.range ngrp).mapM (parseGroup g), (List.range (min nring 8)).mapM (parseRing (h.drop 64)) with
  | some gs, some rs =>
    let ranges := (0, 64 * rbsz) :: rs.map fun r => (r.base, r.slots * r.size)
    if 1 ≤ ngrp ∧ ngrp ≤ 64 ∧ blkAt h 2 1 ≤ 16 ∧ blkAt h 3 1 ≤ 32 ∧ nring ≤ 8 ∧ blkAt h 5 1 ≤ 4 ∧
        (vrs.all fun v => decide (v ≤ 256)) = true ∧ vrs.sum ≤ 256 ∧ size ≤ 2 ^ 20 ∧ blkAt h 14 2 = 0 ∧ blkAt h 32 32 = 0 ∧
        (gs.map TGroup.width).sum ≤ 64 ∧ mGroupsOk gs = true ∧
        ((List.range 16).all fun p => decide ((gs.filter fun g => g.covers p).length ≤ 4)) = true ∧
        (ranges.all fun r => decide (r.1 + r.2 ≤ size)) = true ∧ rangesApart ranges = true then
      some {
        groups := gs, nstrm := blkAt h 2 1, nbar := blkAt h 3 1, rings := rs, nwq := blkAt h 5 1
        swap := if blkAt h 6 2 = 0 then 200 else blkAt h 6 2, vrs := vrs, ls := ls, rbsz := rbsz, rbsrc := blkAt h 24 8 }
    else none
  | _, _ => none

/-- Reading a template as the supervisor (R191, R428); none where it cannot be read or is refused. -/
def State.readTemplate (s : State) (p : Partition) (va : Nat) : Option Template × State :=
  if va % 64 ≠ 0 then (none, s)
  else match s.sysRead p va 64 with
    | (none, s) => (none, s)
    | (some a, s) => match s.sysRead p (va + 64) 64 with
      | (none, s) => (none, s)
      | (some b, s) =>
        let n := min (blkAt a 0 2) 64
        match s.engReads (sysWho p) (va + 128) 8 n with
        | (.error _, s) => (none, s)
        | (.ok g, s) => (parseTemplate (a ++ b) g, s)

/-! ### Resources of a cluster (R20, R25, R51, R52) -/

/-- The teams that are resident on a cluster. -/
def State.residents (s : State) (cl : Nat) : List Team := s.teams.filter fun t => decide (t.cl = cl) && !t.swapped

def Template.holdsM (t : Template) : Bool := t.groups.any TGroup.isM
def Template.lsBytes (t : Template) : Nat := 4096 * t.ls.sum

/-- The lowest slot index that is free in all pipes of a group, given the slots in use. -/
def freeSlotOf (used : List (Nat × Nat)) (g : TGroup) : Option Nat :=
  (List.range 4).find? fun k => (List.range 16).all fun p => !(g.covers p) || !used.contains (p, k)

/-- The slots of the groups in template order (R51); none where one has none. -/
def chooseSlots : List (Nat × Nat) → List TGroup → Option (List (TGroup × Nat))
  | _, [] => some []
  | used, g :: r => match freeSlotOf used g with
    | none => none
    | some k => (chooseSlots (used ++ ((List.range 16).filter g.covers).map fun p => (p, k)) r).map fun l => (g, k) :: l

/-- The lowest LS offset at which an allocation fits among those that stand: at 0 or behind one of them (R51). -/
def chooseLs (taken : List (Nat × Nat)) (n : Nat) : Option Nat :=
  ((0 :: taken.map fun r => r.1 + r.2).mergeSort fun a b => decide (a ≤ b)).find? fun o =>
    decide (o + n ≤ 2 ^ 20) && taken.all fun r => !(rangesMeet (o, n) r)

/-- The slots of a cluster that hold a context. -/
def State.usedSlots (s : State) (cl : Nat) : List (Nat × Nat) :=
  (s.ctxs.filter fun c => decide (c.id.cl = cl)).map fun c => (c.id.pipe, c.id.slot)

/-- The allocations of LS that stand on a cluster. -/
def State.usedLs (s : State) (cl : Nat) : List (Nat × Nat) := (s.residents cl).map fun t => (t.lsBase, t.lsSize)

/-- The shared units and totals of the cluster suffice for a template beside the resident teams. -/
def State.totalsFit (s : State) (cl : Nat) (t : Template) : Bool :=
  let rs := (s.residents cl).map Team.tmpl
  decide ((rs.map Template.nstrm).sum + t.nstrm ≤ 16 ∧ (rs.map Template.nbar).sum + t.nbar ≤ 32 ∧ (rs.map Template.nwq).sum + t.nwq ≤ 4 ∧
    (rs.map fun r => r.vrs.sum).sum + t.vrs.sum ≤ 256) && !(t.holdsM && rs.any Template.holdsM)

/-- Where a team of a template would stand on a cluster: its number, its groups' slots and its LS offset; none where it has no room (R51). -/
def State.roomFor (s : State) (cl : Nat) (t : Template) : Option (Nat × List (TGroup × Nat) × Nat) :=
  if s.totalsFit cl t then
    match (List.range 64).find? fun n => !(s.teams.any fun x => decide (x.cl = cl ∧ x.num = n)), chooseSlots (s.usedSlots cl) t.groups,
        chooseLs (s.usedLs cl) t.lsBytes with
    | some n, some g, some o => some (n, g, o)
    | _, _, _ => none
  else none

/-! ### Eligibility and score (R431 to R435) -/

/-- A domain is droopy now (R435). -/
def State.droopy (s : State) (m : Nat) : Bool := match (s.domain m).droopy with
  | some t => decide (s.gtime < t)
  | none => false

/-- Work is not withheld from a cluster of the partition (R431). -/
def State.notWithheld (s : State) (p : Partition) (cl : Nat) : Bool :=
  !(s.cluster cl).hot && !(s.cluster cl).gated && !s.droopy (domainOf cl) && !(s.domain (domainOf cl)).overB && !p.overB

/-- S(c) (R432). -/
def State.score (s : State) (cl : Nat) : Nat :=
  let m := domainOf cl
  (s.cluster cl).temp + 4 * (s.clusters.filter fun k => decide (domainOf k.id = m) && k.active).length +
    8 * ((s.domain m).droops.filter fun t => decide (s.gtime < t + 100000)).length

/-- The best of the clusters, the lowest score first and ascending logical number among equals (R430). -/
def State.bestOf (s : State) : List Nat → Option Nat
  | [] => none
  | c :: r => match s.bestOf r with
    | none => some c
    | some d => if s.score c ≤ s.score d then some c else some d

/-- The eligible clusters of a partition for a template. -/
def State.eligible (s : State) (p : Partition) (t : Template) : List Nat :=
  (s.partClusters p).filter fun c => s.notWithheld p c && (s.roomFor c t).isSome

/-! ### Placement (R51, R185, R186, R430, R438) -/

/-- A context of a newly placed team (R185). (DEDUCED, log 12; DESIGN CHOICE, log 127) -/
def newCtx (p : Partition) (t : Task) (cl num slot : Nat) (g : TGroup) (pipe : Nat) : Ctx :=
  { id := ⟨cl, pipe, slot⟩, team := some num, pc := instrPc t.entry, domain := t.domain
    g := ((Vector.replicate 32 0).set 3 t.args).set 4 0x00C1000000000000
    tvec := p.vbase &&& 0x00FFFFFFFFFF0000, role := g.role, weight := g.weight }

/-- The contexts of a team, group by group. -/
def newCtxs (p : Partition) (t : Task) (cl num : Nat) (gs : List (TGroup × Nat)) : List Ctx :=
  gs.flatMap fun x => (List.range x.1.width).map fun i => newCtx p t cl num x.2 x.1 (x.1.base + i)

/-- The record block as it stands now (R186). -/
def State.readBlock (s : State) (p : Partition) (t : Template) : Option (List Byte) × State :=
  if t.rbsz = 0 then (some [], s)
  else match (if t.rbsrc % 64 = 0 then s.engReads (sysWho p) t.rbsrc 64 t.rbsz else s.engReads (sysWho p) t.rbsrc 1 (64 * t.rbsz)) with
    | (.ok b, s) => (some b, s)
    | (.error _, s) => (none, s)

/-- Placing a team on a cluster where it has room. (DESIGN CHOICE, log 13; DESIGN CHOICE, log 59; DESIGN CHOICE, log 67) -/
def State.putTeam (s : State) (p : Partition) (k : Task) (tm : Template) (cl num : Nat) (gs : List (TGroup × Nat)) (off : Nat) (blk : List Byte) :
    State :=
  let s := gs.foldl (fun (s : State) x => s.emptyBanks cl x.1.base x.1.width) s
  let c := s.freeCtr
  let team : Team := {
    cl := cl, num := num, part := p.num, task := some k.idx, trank := k.placed, gsize := k.grid, domain := k.domain
    lsBase := off, lsSize := tm.lsBytes, tmpl := tm, bars := List.replicate tm.nbar {}, rings := tm.rings, streams := List.replicate tm.nstrm {}
    wqs := List.replicate tm.nwq {}, wds := List.replicate 8 0, pool := tm.vrs, since := s.gtime }
  let s := { s with
    freeCtr := c + tm.lsBytes / 8 + 1
    ls := Memory.fill s.ls (lsKey cl off) tm.lsBytes (freeByte c)
    teams := s.teams ++ [team], ctxs := s.ctxs ++ newCtxs p k cl num gs }
  let s := (s.lsChanged cl off tm.lsBytes).placeWrite none (.ls cl off) blk
  let s := s.modCluster cl fun q => { q with
    emptySince := none
    mxTeam := if tm.holdsM then some num else q.mxTeam
    quads := if tm.holdsM then [{}, {}, {}, {}] else q.quads }
  let s := s.modPart p.num fun p => { p with placeAt := s.gtime }
  s.modTask p.num k.idx fun t => { t with placed := t.placed + 1, st := if t.placed + 1 = t.grid then .running else .placing, chosen := none }

/-- The cluster chosen for a team: one that is empty of contexts has to be at the FLOOR of the partition, with no change of its step under way (R431, R438). (DEDUCED, log 147) -/
def State.atFloor (s : State) (p : Partition) (cl : Nat) : Bool :=
  (s.ctxs.any fun c => decide (c.id.cl = cl)) || ((s.cluster cl).steady && decide ((s.cluster cl).step = p.floor))

/-- The step of an empty cluster that has been chosen for a team changes to FLOOR, with reason PLACE, before the team is placed (R438). (DEDUCED, log 147) -/
def State.choosePlace (s : State) (p : Partition) (k : Task) (cl : Nat) : State :=
  let s := if (s.cluster cl).lastStep = p.floor then s else s.requestStep cl p.floor 2
  s.modTask p.num k.idx fun t => { t with chosen := some cl }

/-- The cluster for the next team of a record: the one that has been chosen, while it is still eligible, else the best offer (R430). -/
def State.nextPlace (s : State) (p : Partition) (k : Task) (tm : Template) : Option Nat :=
  let l := s.eligible p tm
  match k.chosen with
  | some c => if l.contains c then some c else s.bestOf l
  | none => s.bestOf l

/-- The head record of a partition: its template is read when it first reaches the head, and its next team is placed on the best eligible cluster; where
there is none, it waits (R430). A record whose template is refused, or whose record block cannot be read, is INVALID (R66, R186, R191). -/
def State.placeNext (s : State) (p : Partition) : State := match s.queueHead p.num with
  | none => s
  | some k =>
    let (tm, s) := match k.tmpl with
      | some t => (some t, s)
      | none => s.readTemplate p k.tmplVa
    match tm with
    | none => (s.modTask p.num k.idx fun t => { t with invalid := true }).taskCheck p.num k.idx
    | some tm =>
      let s := s.modTask p.num k.idx fun t => { t with tmpl := some tm }
      match s.nextPlace p k tm with
      | none => s.modPart p.num fun p => { p with placeWait := some k.idx }
      | some cl => if s.atFloor p cl = false then s.choosePlace p k cl else match s.roomFor cl tm with
        | none => s
        | some (num, gs, off) => match s.readBlock p tm with
          | (none, s) => (s.modTask p.num k.idx fun t => { t with invalid := true }).taskCheck p.num k.idx
          | (some blk, s) => s.putTeam p k tm cl num gs off blk

/-- Geyser goes on in partition subj.part: it places a team, or, for subj.num 1, ends task subj.n, whose record is written (R66). -/
def execTeamPlacement (s : State) : Result := .next (match s.partNo s.subj.part with
  | some p =>
    if p.run ≠ .running then s
    else if s.subj.num = 0 then s.placeNext p
    else match s.task p.num s.subj.n with
      | some k => if k.st = .ending then s.endTask p.num s.subj.n else s
      | none => s
  | none => s)

/-! ### Swapping (R57 to R59, R99, R257, R292, R343, R356) -/

/-- GTIME since which a context waits. -/
def Ctx.waitSince (c : Ctx) : Option Nat := match c.st with
  | .waiting _ t => some t
  | _ => none

/-- The longest current wait of a team's groups, in ns. -/
def State.longestWait (s : State) (t : Team) : Nat :=
  ((s.teamCtxs t).filterMap fun c => c.waitSince.map fun a => s.gtime - a).foldl max 0

/-- A group of the team has waited for longer than its swap threshold (R57). -/
def State.overThreshold (s : State) (t : Team) : Bool := decide (1000 * t.tmpl.swap < s.longestWait t)

def execSwapThresholdExpiry (s : State) : Result := .next (
  s.modTeam s.subj.cl s.subj.team fun t => { t with candidate := s.overThreshold t })

/-- Commands that a swap lets run to completion first, and what it cannot take out of its place: collectives, `gm.*`, sc operations on Fumarole, and a
kill that has not ended (R58, R149, R390). (DESIGN CHOICE, log 47) -/
def State.swapWaits (s : State) (t : Team) : Bool :=
  let mine := fun (b : Behalf) => decide (b.ctx.cl = t.cl ∧ b.team = some t.num)
  let ids := (s.teamCtxs t).map Ctx.id
  (s.colls.any fun c => mine c.by_) ||
    ((s.cluster t.cl).quads.any fun q => q.queue.any fun m => mine m.by_ && (m.op == 5 || m.op == 6)) ||
    (s.scops.any fun o => ids.contains o.agent) || ((s.teamCtxs t).any fun c => c.st == .dead)

/-- Cells of a memory that the ids' VRS holds. (DESIGN CHOICE, log 48) -/
def vrsOf (ids : List CtxId) (c : Host.Cell) : Bool := ids.any fun i => inKeys (vrsKey i 0) (2 ^ 18) c

/-- A matrix command as it is taken up again: an `mx.spmm` chooses its path anew, and no compile is waited for (R356). -/
def MCmd.toStart (m : MCmd) : MCmd := { m with compiling := false, spoiled := false, going := none, once := [] }

/-- A vector command as it is taken up again: its parts have to be bound once more. -/
def VCmd.toQueue (v : VCmd) : VCmd := { v with away := false, work := v.work.map fun p => { p with lane := false } }

/-- A team as a swap or a switch keeps it: its streams hold no blocks (R343). -/
def Team.still (t : Team) : Team := { t with streams := t.streams.map fun (q : Stream) => { q with held := [] } }

/-- Writing a team's state out of its cluster (R58): its scalar SFU requests stay, for the saved registers (R273), its dirty lines are written back (R123),
its accumulators spill (R99), its Sinter entries go and its compiles are discarded (R356). (DESIGN CHOICE, log 47) -/
def State.swapOut (s : State) (t : Team) : State :=
  let cl := t.cl
  let ids := (s.teamCtxs t).map Ctx.id
  let own := fun (i : CtxId) => ids.contains i
  let mine := fun (b : Behalf) => decide (b.ctx.cl = cl ∧ b.team = some t.num)
  let s := s.modCluster cl (sfuAway own (.team t.num))
  let s := s.settleLate fun x => own x.agent
  let s := ids.foldl (fun (s : State) i => s.emptyBanks cl i.pipe 1) s
  let s := s.drainWrites fun w => own w.agent
  let s := s.drainReds fun r => own r.agent
  let holdsM := decide ((s.cluster cl).mxTeam = some t.num)
  let s := if holdsM then s.spill cl [0, 1, 2, 3] else s
  let s := s.dropSinter fun e => decide (e.cl = cl ∧ e.team = some t.num)
  let pins := s.pins.filter fun p => decide (p.cl = cl ∧ p.team = t.num)
  let s := s.dropPins fun p => decide (p.cl = cl ∧ p.team = t.num)
  let s := { s with compiles := s.compiles.filter fun c => !decide (c.cl = cl ∧ c.team = t.num) }
  let k := s.cluster cl
  let gs := s.groups.filter fun g => own ⟨g.cl, g.base, g.slot⟩
  let quads := k.quads.map fun q => { q with queue := q.queue.map fun m => m.toStart }
  let s := s.modTeam cl t.num fun x => { x with
    swapped := true, swapping := false, candidate := false, since := s.gtime, saved := s.teamCtxs t, savedGroups := gs, savedPins := pins
    streams := x.still.streams
    savedAccesses := s.accesses.filter fun a => own a.agent
    savedLs := s.ls.filter (inKeys (lsKey cl t.lsBase) t.lsSize), savedVrs := s.vrs.filter (vrsOf ids)
    savedAcc := if holdsM then s.acc.filter fun c => decide (8192 * cl ≤ c.1 ∧ c.1 < 8192 * (cl + 1)) else []
    savedQuads := if holdsM then quads else [], savedOcq := s.ocq.filter fun e => own e.ctx, savedCopies := s.copies.filter fun c => mine c.by_
    savedVq := (k.vq.filter fun v => mine v.by_).map VCmd.toQueue
    savedLongs := s.longs.filter fun l => own l.dst }
  let s := { s with
    ctxs := s.ctxs.filter fun c => !own c.id, groups := s.groups.filter fun g => !own ⟨g.cl, g.base, g.slot⟩
    accesses := s.accesses.filter fun a => !own a.agent, vrs := s.vrs.filter fun c => !vrsOf ids c
    ocq := s.ocq.filter fun e => !own e.ctx, copies := s.copies.filter fun c => !mine c.by_, longs := s.longs.filter fun l => !own l.dst }
  let s := s.modCluster cl fun k => { dropVq (fun v => mine v.by_) k with
    mxTeam := if holdsM then none else k.mxTeam, quads := if holdsM then [{}, {}, {}, {}] else k.quads }
  (s.noteEmpty cl).placeAgain t.part

/-- The state without a team: what stands on its cluster beside it. (DEDUCED, log 60) -/
def State.without (s : State) (t : Team) : State :=
  { s with
    teams := s.teams.filter fun x => !decide (x.cl = t.cl ∧ x.num = t.num)
    ctxs := s.ctxs.filter fun c => !decide (c.id.cl = t.cl ∧ c.team = some t.num) }

/-- The head record would have room on the team's cluster without the team (R57). (DEDUCED, log 138) -/
def State.blocksHead (s : State) (t : Team) : Bool := match s.queueHead t.part, s.partNo t.part with
  | some k, some p => match k.tmpl with
    | some tm => (s.eligible p tm).isEmpty && ((s.without t).roomFor t.cl tm).isSome
    | none => false
  | _, _ => false

/-- A candidate that a queued team needs the resources of. -/
def State.swapWanted (s : State) (t : Team) (x : Team) : Bool :=
  x.candidate && !x.swapped && !x.swapping && s.overThreshold x && decide (x.part = t.part) && s.blocksHead x

/-- The team is the one that a swap takes out now: of several candidates the one with the longest wait (R57), while no other swap of the partition is under
way. -/
def State.swapDue (s : State) (t : Team) : Bool :=
  s.swapWanted t t && !(s.teams.any fun x => s.swapWanted t x && decide (s.longestWait t < s.longestWait x)) &&
    !(s.teams.any fun x => x.swapping && decide (x.part = t.part))

/-- A swap begins: the team issues no more (R58). -/
def State.stopTeam (s : State) (t : Team) : State := s.modTeam t.cl t.num fun x => { x with swapping := true }

/-- What a swap waits for has run to completion (R58). -/
def State.swapReady (s : State) (t : Team) : Bool := t.swapping && !s.swapWaits t

/-- Team subj.team of cluster subj.cl, a candidate that a queued team needs the resources of, stops issuing; once what runs to completion first has done so,
it is written out (R57, R58). (DESIGN CHOICE, log 47) -/
def execTeamSwapOut (s : State) : Result := .next (match s.team s.subj.cl s.subj.team with
  | none => s
  | some t => if s.swapReady t then s.swapOut t else if s.swapDue t then s.stopTeam t else s)

/-- The vector queues of the cluster and its copy engine have room for a swapped team's commands (R19, R25). (DESIGN CHOICE, log 139) -/
def State.queuesFit (s : State) (t : Team) : Bool :=
  let vq := (s.cluster t.cl).vq
  ((List.range 16).all fun p => decide ((vq.filter fun v => decide (v.pipe = p)).length + (t.savedVq.filter fun v => decide (v.pipe = p)).length ≤ 16)) &&
    decide (s.copiesIn t.cl + t.savedCopies.length ≤ 512)

/-- A swapped team has its cluster's resources free and is not withheld, and every scalar SFU result has reached its saved registers (R58, R273, R431). -/
def State.fitsBack (s : State) (t : Team) : Bool := match s.partNo t.part with
  | none => false
  | some p =>
    p.run == .running && t.swapped && s.notWithheld p t.cl && !(s.cluster t.cl).forEmpty && s.totalsFit t.cl t.tmpl &&
      (t.saved.all fun c => !(s.usedSlots t.cl).contains (c.id.pipe, c.id.slot)) &&
      !((s.usedLs t.cl).any fun r => rangesMeet (t.lsBase, t.lsSize) r) && !(s.cluster t.cl).sfuFor (.team t.num) && s.queuesFit t

/-- Two teams of one grid on one cluster. -/
def Team.mates (t x : Team) : Bool := decide (x.cl = t.cl ∧ x.part = t.part ∧ x.task = t.task)

/-- A team of t's grid that has not been placed, on the clusters given. -/
def State.unplacedMate (s : State) (t : Team) (f : Partition → Template → Bool) : Bool :=
  match t.task.bind (s.task t.part), s.partNo t.part with
  | some k, some p => decide (k.placed < k.grid) && match k.tmpl with
    | some tm => f p tm
    | none => false
  | _, _ => false

/-- A team of the grid is queued for what t holds: it has no place while t is resident, and has one without it (R59). -/
def State.queuedMates (s : State) (t : Team) : Bool :=
  (s.unplacedMate t fun p tm => (s.eligible p tm).isEmpty && ((s.without t).roomFor t.cl tm).isSome) ||
    s.teams.any fun x => x.swapped && t.mates x && !s.fitsBack x && (s.without t).fitsBack x

/-- The residency slice of x, a team of t's grid, has ended while others of the grid are queued (R59). (DESIGN CHOICE, log 95) -/
def State.sliceOver (s : State) (p : Partition) (t x : Team) : Bool :=
  decide (x.part = t.part ∧ x.task = t.task ∧ x.since + p.sliceQ ≤ s.gtime) && !x.swapped && !x.swapping && s.queuedMates x

/-- The team is the next of its grid to be swapped, in ascending TRANK. (DESIGN CHOICE, log 95) -/
def State.sliceDue (s : State) (p : Partition) (t : Team) : Bool :=
  s.sliceOver p t t && !(s.teams.any fun x => s.sliceOver p t x && decide (x.trank < t.trank)) && !(s.teams.any fun x => x.swapping && t.mates x)

/-- The residency slice of a team ends: it stops issuing, to be swapped for a queued team of its grid (R58, R59). -/
def execResidencySliceEnd (s : State) : Result := .next (match s.team s.subj.cl s.subj.team, s.partOf s.subj.cl with
  | some t, some p => if s.sliceDue p t then s.stopTeam t else s
  | _, _ => s)

/-- A swapped team may return: it fits, and of its grid no team that has not been placed yet has room on the cluster, nor does one fit that was swapped
out before it, or with it and with a lower TRANK (R58, R59). (DESIGN CHOICE, log 95) -/
def State.canRestore (s : State) (t : Team) : Bool :=
  s.fitsBack t && !(s.unplacedMate t fun p tm => (s.eligible p tm).contains t.cl) &&
    !(s.teams.any fun x => t.mates x && s.fitsBack x && decide (x.since < t.since ∨ (x.since = t.since ∧ x.trank < t.trank)))

/-- A swapped team returns to its cluster, pipes, slots and LS offsets; its commands and waits go on (R58). (DESIGN CHOICE, log 139) -/
def State.restore (s : State) (t : Team) : State :=
  let cl := t.cl
  let ids := t.saved.map Ctx.id
  let s := ids.foldl (fun (s : State) i => s.emptyBanks cl i.pipe 1) s
  let holdsM := !t.savedQuads.isEmpty
  let s := { s with
    ctxs := s.ctxs ++ t.saved.map (fun (c : Ctx) => { c with drain := true }), pins := s.pins ++ t.savedPins
    groups := s.groups ++ t.savedGroups, accesses := s.accesses ++ t.savedAccesses
    ls := putBack s.ls t.savedLs (lsKey cl t.lsBase) t.lsSize
    vrs := ids.foldl (fun m i => putBack m (t.savedVrs.filter (inKeys (vrsKey i 0) (2 ^ 18))) (vrsKey i 0) (2 ^ 18)) s.vrs
    acc := if holdsM then putBack s.acc t.savedAcc (8192 * cl) 8192 else s.acc
    ocq := s.ocq ++ t.savedOcq, copies := s.copies ++ t.savedCopies, longs := s.longs ++ t.savedLongs }
  let s := s.modCluster cl fun k => { k with
    vq := k.vq ++ t.savedVq, emptySince := none
    mxTeam := if holdsM then some t.num else k.mxTeam, quads := if holdsM then t.savedQuads else k.quads }
  let s := (s.placeAgain t.part).lsChanged cl t.lsBase t.lsSize
  s.modTeam cl t.num fun x => { x with
    swapped := false, since := s.gtime, saved := [], savedGroups := [], savedAccesses := [], savedLs := [], savedVrs := [], savedAcc := []
    savedPins := [], savedQuads := [], savedOcq := [], savedCopies := [], savedVq := [], savedLongs := [] }

/-- (DESIGN CHOICE, log 47) -/
def execTeamRestore (s : State) : Result := .next (match s.team s.subj.cl s.subj.team with
  | some t => if s.canRestore t then s.restore t else s
  | none => s)

/-! ### Watchdog and kill queue (R390, R391) -/

/-- The limit of R391. -/
def watchLimit : Nat := 2 ^ 26

/-- The context at trap level 1 or 2 and supervisor level has reached the limit. -/
def State.watchDue (s : State) (c : Ctx) : Bool :=
  decide (1 ≤ c.tl ∧ c.priv = .supervisor ∧ c.watch + watchLimit ≤ s.cycle c.id.cl) && c.st != .dead && c.st != .exited

/-- A WATCHDOG trap at the instruction that the context would execute, whose accesses end without effect; at trap level 2 a kill. -/
def State.watchTrap (s : State) (c : Ctx) : State :=
  let agent := s.leader c.id
  let s := { s with
    accesses := s.accesses.filter fun a => !decide (a.agent = agent), scops := s.scops.filter fun o => !decide (o.agent = agent) }
  s.hitLanes agent [(c.id, .trap cWATCHDOG c.tl 0)] (fun _ => (s.ctx agent).pc) false false

/-- The context in slot subj.slot of pipe subj.pipe of cluster subj.cl. -/
def execWatchdogExpiry (s : State) : Result := .next (match s.findCtx ⟨s.subj.cl, s.subj.pipe, s.subj.slot⟩ with
  | some c => if s.watchDue c then s.watchTrap c else s
  | none => s)

/-- A kill record that waited for room joins its queue, and the slot is released (R390 step 5). -/
def execKillRecordAppend (s : State) : Result := .next (match s.killWait[s.subj.n]? with
  | some (id, r) => if s.killRoom r then { s with killWait := s.killWait.eraseIdx s.subj.n }.appendKill id r else s
  | none => s)

end Sys2Proof.Machine
end

