-- ==== Sys2Proof/Machine/Copy.lean ====
section
/-! DEFINITION. Sys2Proof/Machine/Copy.lean: bulk copies, row gathers and row scatters (spec/09 R297 to R308; spec/05 R154). -/

namespace Sys2Proof.Machine

/-! ### Tags (R154, R224) -/

/-- A copy, gather or scatter of the context with this tag is outstanding. -/
def State.tagBusy (s : State) (b : Behalf) (tag : Nat) : Bool :=
  s.copies.any fun c => decide (c.by_.ctx = b.ctx ∧ c.by_.team = b.team ∧ c.tag = tag)

/-- A copy with a tag has completed. Its bit is set with the last outstanding one, in ERRTAGS too when any of them failed. (DEDUCED, log 69) -/
def tagMark (tag : Nat) (last err : Bool) (c : Ctx) : Ctx :=
  let bit := BitVec.ofNat 64 (2 ^ tag)
  let e := if err then c.tagErr ||| bit else c.tagErr
  if last then { c with arrived := c.arrived ||| bit, errtags := c.errtags ||| (e &&& bit), tagErr := e &&& ~~~bit }
  else { c with tagErr := e }

/-- Setting the tag of a copy that has left the lists of outstanding ones. (DEDUCED, log 69) -/
def State.tagDone (s : State) (b : Behalf) (tag : Nat) (err : Bool) : State :=
  s.modHeld b.ctx b.team (tagMark tag (!(s.tagBusy b tag)) err)

/-- The end of a copy: ring slot, tag, counter, in this order (R304). (DEDUCED, log 69) -/
def State.copyEnd (s : State) (b : Behalf) (ring : Option (Nat × Nat)) (tag : Nat) (err : Bool) (oc : Nat) : State :=
  ((s.ringRelease b ring).tagDone b tag err).ocDone oc

/-! ### The completion word (R298) -/

def cwTag (gb : Word) : Nat := wfld gb 0 6
def cwRe (gb : Word) : Bool := wb gb 6
def cwRing (gb : Word) : Option (Nat × Nat) := if cwRe gb then some (wfld gb 7 3, wfld gb 10 3) else none

/-- The ring of the completion word is not one of the team's (R299 step 1). -/
def State.cwRingBad (s : State) (gb : Word) : Bool := match cwRing gb with
  | some (r, i) => ringBad (s.teamOf s.cur) r i
  | none => false

/-! ### What a copy accepts (R301, R306, R307) -/

/-- Types of the two ends: equal, or with values where one end is a window. (DEDUCED, log 71) -/
def pairOk (d s : View) : Bool := if d.win ≠ 0 ∨ s.win ≠ 0 then valued d.ty && valued s.ty else d.ty == s.ty

/-- Extents (a, b) in two dimensions. (DEDUCED, log 73) -/
def flatExt (v : View) (a b : Nat) : Bool := v.ext 0 == a && v.ext 1 == b && v.ext 2 == 1 && v.ext 3 == 1

/-- Shapes and types of a command: 0 `cp.bulk`, 2 `ga.gath`, 3 `sc.scat`. (DEDUCED, log 72; DEDUCED, log 73) -/
def copyFits (kind sub : Nat) (d s : View) (ix : Option View) : Bool := match kind, ix with
  | 0, _ => d.count == s.count && pairOk d s
  | 2, some x => s.rank == 2 && x.rank == 1 && isI x.ty && flatExt d (s.ext 0) (x.ext 0) && pairOk d s
  | 3, some x => isI x.ty && flatExt s (d.ext 0) x.count && d.ext 2 == 1 && d.ext 3 == 1 && d.ty == s.ty &&
      (if sub = 0 then !d.scaled
        else d.win == 0 && !d.isVreg && (if sub = 4 then d.ty == 8 || d.ty == 9 || d.ty == 16
          else d.ty == 1 || d.ty == 2 || d.ty == 8 || d.ty == 9 || d.ty == 16))
  | _, _ => false

/-! ### Issue (R299, R300) -/

/-- The index of record k of gA. -/
def copyIndex (ga : Word) (k : Nat) : Nat := wfld ga (16 * k) 16

/-- Reading the n records of gA in their order; `raw` lets the raw types at a window through. (DEDUCED, log 68) -/
def State.copyRecords (raw : Bool) (s : State) (c : Ctx) (ga : Word) : List Nat → List (Except (BadRec × Nat) View) × State
  | [] => ([], s)
  | k :: r =>
    let (v, s) := s.recordFor raw c (copyIndex ga k)
    let (l, s) := State.copyRecords raw s c ga r
    (v :: l, s)

/-- A record that names memory beyond the allocation. -/
def recBeyond : Except (BadRec × Nat) View → Bool
  | .error (.beyond, _) => true
  | .error (.invalid, _) => false
  | .error (.sparse _ _ _, _) => false
  | .ok _ => false

def recView : Except (BadRec × Nat) View → Option View
  | .ok v => some v
  | .error _ => none

/-- A command that completes at issue with a status, and moves no data (R299 step 4). (DEDUCED, log 71) -/
def State.copyRefused (s : State) (sm : Bool) (c : Ctx) (k : Cls) (gb : Word) (d : Reg) (st : Nat) : State :=
  let (o, s) := s.ocIssue s.cur k
  (s.copyEnd (s.behalf c) (cwRing gb) (cwTag gb) true o).longOnce sm d (BitVec.ofNat 64 st)

/-- The counter of a command: OCC for bulk copies, OCG for gathers and scatters (R300). -/
def copyCls (kind : Nat) : Cls := if kind = 0 then .occ else .ocg

/-- ROLE of a COPY-major command: EVAL is the value of one of its two registers, of which the rule names none (R299). (DESIGN CHOICE, log 44) -/
def State.trapRole (s : State) (ga gb : Word) : State :=
  let (f, s) := s.freshFree
  s.trapAll cROLE 0 (if f.getLsbD 0 then ga else gb)

/-- Issue of `cp.bulk`, `ga.gath` or `sc.scat`: room in the cluster first (R300), then the checks of R299. The group's earlier writes and reductions reach
the records before they are read (R152). -/
def State.copyIssue (s : State) (sm : Bool) (c : Ctx) (kind sub : Nat) (ga gb : Word) (d : Reg) : State :=
  let n := if kind = 0 then 2 else 3
  if 512 ≤ s.copiesIn s.cur.cl then s.stay (.parked (.room .copies))
  else if s.cwRingBad gb then s.trapAll cILLEGAL 0 gb
  else if lacks c 0 then s.trapRole ga gb
  else if wfld ga (16 * n) (64 - 16 * n) ≠ 0 then s.trapAll cENGINE_ERR 0 ga
  else if wfld gb 13 51 ≠ 0 then s.trapAll cENGINE_ERR 0 gb
  else
    let (rs, s) := State.copyRecords (decide (kind ≠ 3)) (s.drainGroup s.cur) c ga (List.range n)
    if rs.any recBeyond then s.trapAll cENGINE_ERR 0 ga
    else if (rs.filterMap recView).any fun v => v.beyondVrs c.vblocks then s.trapAll cVREG 0 ga
    else match rs.map recView with
      | some dv :: some sv :: r =>
        let ix := (r.head?).join
        if (r.any Option.isNone) then s.copyRefused sm c (copyCls kind) gb d 1
        else if !(copyFits kind sub dv sv ix) || !(dv.wholeBlocks (s.viewWd (s.behalf c) dv)) then
          s.copyRefused sm c (copyCls kind) gb d 2
        else
          let (o, s) := s.ocIssue s.cur (copyCls kind)
          let cmd : Copy := {
            by_ := s.behalf c, kind := kind, sub := sub, d := dv, s := sv, ix := ix, tag := cwTag gb, ring := cwRing gb, oc := o }
          { s with copies := s.copies ++ [cmd] }.longOnce sm d 0
      | _ => s.copyRefused sm c (copyCls kind) gb d 1

/-- A command of the copy unit issues once per group, with the operands of the lowest active lane (R41). -/
def copyOp (s : State) (sm : Bool) (kind sub : Nat) (a b d : Reg) : Result :=
  onCtx s fun c => s.copyIssue sm c kind sub (s.rg (s.lowest s.cur) a) (s.rg (s.lowest s.cur) b) d

def execCpBulk (sm : Bool) (a b d : Reg) (s : State) : Result := copyOp s sm 0 0 a b d
def execGaGath (sm : Bool) (a b d : Reg) (s : State) : Result := copyOp s sm 2 0 a b d
/-- (DEDUCED, log 72) -/
def execScScat (sm : Bool) (a b d : Reg) (u : Fin 8) (s : State) : Result := copyOp s sm 3 u.val a b d

/-! ### Chunks (R302, R308) -/

/-- Size in half-bytes of a destination element as it is stored. -/
def storedNibs (v : View) : Nat := if v.win = 0 then tyBits v.ty / 4 else winBits v.win / 4

/-- Elements of a chunk of `cp.bulk`: C; index elements of a chunk of the others. -/
def Copy.chunkLen (c : Copy) : Nat := if c.kind = 0 then 8192 / max (storedNibs c.d) 1 else 64

/-- What the command counts its chunks over: destination elements, or index elements. -/
def Copy.total (c : Copy) : Nat := match c.kind, c.ix with
  | 0, _ => c.d.count
  | _, some x => if c.d.count = 0 ∨ c.s.count = 0 then 0 else x.count
  | _, none => 0

def Copy.chunks (c : Copy) : Nat := (c.total + c.chunkLen - 1) / c.chunkLen

/-- Numbers of chunk k. -/
def Copy.chunkElems (c : Copy) (k : Nat) : List Nat :=
  ((List.range c.chunkLen).map (k * c.chunkLen + ·)).filter (· < c.total)

/-! ### Values on their way (R116, R119, R301) -/

/-- A code of type t as a code of type u, where the ends differ; the formats of 8 and 4 bits saturate (R78, R83). (DEDUCED, log 70) -/
def convCode (t u code : Nat) : Nat :=
  let sat := decide (5 ≤ u ∧ u ≤ 7)
  if t = u then code
  else match tyFmt u, tyFmt t with
    | some f, some g => roundTo f .rne sat (decodeFloat g code)
    | some f, none => roundTo f .rne sat (Ex.ofInt (intVal (tyBits t) (tyUns t false) code))
    | none, some g => wrapNat (tyBits u) (Ex.toInt .rne (intLo (tyBits u) (tyUns u false)) (intHi (tyBits u) (tyUns u false)) (decodeFloat g code))
    | none, none => wrapNat (tyBits u) (intVal (tyBits t) (tyUns t false) code)

/-- Exact value of an element that lies behind a window. -/
def State.exactAt (s : State) : Option Target → Ex
  | some (.win l wd e) => s.winExact l wd e
  | some (.bytes _ _) => .zero
  | some (.nib _ _) => .zero
  | some (.vr _ _) => .zero
  | some (.vrNib _ _) => .zero
  | none => .zero

/-- Some element of the two views shares a byte (R302). -/
def State.overlap (s : State) (b : Behalf) (d v : View) : Bool :=
  let near := match s.spanSpot b d, s.spanSpot b v with
    | some x, some y => spotsMeet (some x) (some y)
    | none, _ => true
    | _, none => true
  decide (d.count ≠ 0 ∧ v.count ≠ 0) && near && (List.range d.count).any fun f =>
    let p := s.spot b d (d.off (d.tup f))
    p.isSome && (List.range v.count).any fun g => spotsMeet p (s.spot b v (v.off (v.tup g)))

/-- A move of one element: destination number, source element offset or none for zero bits. -/
abbrev Move := Nat × Option Int

/-- The places that moves read. -/
def Copy.sources (c : Copy) (ms : List Move) : Eng (List (Option Target)) :=
  Eng.each (fun (m : Move) => match m.2 with
    | some k => (c.s.target c.by_ .read k).andThen fun t => Eng.ret (some t)
    | none => Eng.ret none) ms

/-- The places that moves write. -/
def Copy.dests (c : Copy) (ms : List Move) : Eng (List Target) := c.d.targets c.by_ .write (ms.map fun m => c.d.off (c.d.tup m.1))

/-- The codes that the moves' sources have; none for padding. -/
def State.seeMoves (s : State) (b : Behalf) (ty : Nat) : List (Option Target) → List (Option Nat) × State
  | [] => ([], s)
  | none :: l =>
    let (r, s) := s.seeMoves b ty l
    (none :: r, s)
  | some t :: l =>
    let (x, s) := s.seesTarget b ty t
    let (r, s) := s.seeMoves b ty l
    (some x :: r, s)

/-- Moving elements: every place is checked, then all are written. Between two windows exact values move (R119), those of stored bits that R116 would keep
among them. (DEDUCED, log 70; DEDUCED, log 137) -/
def Copy.move (c : Copy) (clash : Bool) (ms : List Move) : Eng Unit :=
  (c.sources ms).andThen fun st => (c.dests ms).andThen fun dt s =>
    let (vals, s) := if clash then
        let (l, s) := s.freeCodes (tyBits c.d.ty) ms.length
        (l.map Val.code, s)
      else if c.s.win ≠ 0 ∧ c.d.win ≠ 0 then (st.map fun t => .exact (s.exactAt t), s)
      else
        let (l, s) := s.seeMoves c.by_ c.s.ty st
        (l.map fun t => .code ((t.map (convCode c.s.ty c.d.ty)).getD 0), s)
    (.ok (), c.d.putVals c.by_.ctx false ms.length ((ms.map Prod.fst).zip (dt.zip vals)) s)

/-! ### `cp.bulk` (R301 to R303) -/

/-- The element of the destination that ends the scaled block of element f; f itself where blocks do not matter. -/
def Copy.blockEnd (c : Copy) (wd : Word × Nat) (f : Nat) : Nat :=
  if c.d.scaled ∧ wdL wd.1 ≠ 0 then
    let col := winCol wd (c.d.off (c.d.tup f))
    f + min (15 - col % 16) (wdL wd.1 - 1 - col)
  else f

/-- Numbers of the elements that chunk k writes: of a scaled block, all with its last element. (DESIGN CHOICE, log 21) -/
def Copy.written (c : Copy) (wd : Word × Nat) (k : Nat) : List Nat :=
  let lo := k * c.chunkLen
  let hi := min (lo + c.chunkLen) c.total
  ((List.range (hi - (lo - 15))).map (lo - 15 + ·)).filter fun f =>
    decide (lo ≤ c.blockEnd wd f ∧ c.blockEnd wd f < hi)

/-- The moves of a bulk copy. -/
def Copy.bulkMoves (c : Copy) (fs : List Nat) : List Move := fs.map fun f => (f, some (c.s.off (c.s.tup f)))

/-- One chunk of a bulk copy. -/
def Copy.runBulk (c : Copy) (clash : Bool) : Eng Bool := fun s =>
  let ms := c.bulkMoves (c.chunkElems c.chunk)
  let ws := c.bulkMoves (c.written (s.viewWd c.by_ c.d) c.chunk)
  ((c.sources ms).andThen fun _ => (c.dests ms).andThen fun _ => (c.move clash ws).andThen fun _ => Eng.ret false) s

/-! ### `ga.gath` and `sc.scat` (R306, R307) -/

/-- The index values of the elements with these numbers. -/
def Copy.indices (c : Copy) (js : List Nat) : Eng (List Int) := match c.ix with
  | some x => Eng.each (fun j => (x.read c.by_ (x.off (x.tup j))).andThen fun v =>
      Eng.ret (intVal (tyBits x.ty) (tyUns x.ty false) v)) js
  | none => Eng.ret []

/-- An index names a row below n. -/
def inRows (n : Nat) (x : Int) : Bool := decide (0 ≤ x ∧ x < n)

/-- One window of a gather: whether an index was out of range. -/
def Copy.runGather (c : Copy) (clash : Bool) : Eng Bool :=
  let js := c.chunkElems c.chunk
  let l := c.s.ext 0
  (c.indices js).andThen fun xs =>
    let ms := (js.zip xs).flatMap fun p => (List.range l).map fun i =>
      (p.1 * l + i, if inRows (c.s.ext 1) p.2 then some (c.s.off (i, p.2.toNat, 0, 0)) else none)
    (c.move clash ms).andThen fun _ => Eng.ret (xs.any fun x => !inRows (c.s.ext 1) x)

/-- One window of a scatter: the command with the elements that it has stored, and whether an index was out of range. A reduction needs W alone (R418). -/
def Copy.runScatter (c : Copy) (clash : Bool) : Eng (Bool × List Int) :=
  let js := c.chunkElems c.chunk
  let l := c.d.ext 0
  (c.indices js).andThen fun xs s =>
    let good := (js.zip xs).filter fun p => inRows (c.d.ext 1) p.2
    let (rows, s) := s.freeIdx clash (c.d.ext 1) (good.map Prod.snd)
    let ups := ((good.map Prod.fst).zip rows).flatMap fun p => (List.range l).map fun i => (c.s.off (i, p.1, 0, 0), c.d.off (i, p.2.toNat, 0, 0))
    ((c.s.targets c.by_ .read (ups.map Prod.fst)).andThen fun st =>
      (c.d.targets c.by_ .write (ups.map Prod.snd)).andThen fun dt s =>
        let (codes, s) := if clash then s.freeCodes (tyBits c.d.ty) st.length else s.seeAll c.by_ c.s.ty st
        let bad := xs.any fun x => !inRows (c.d.ext 1) x
        if c.sub = 0 then
          let (seen, s) := s.scatterStores c.d c.by_.ctx c.seen ((ups.map Prod.snd).zip (dt.zip codes))
          (.ok (bad, seen), s)
        else
          let reds := ((dt.zip codes).filterMap fun p => redAt c.by_.ctx (sctRmw c.sub c.d.ty false) (tyBits c.d.ty / 8) p.1 p.2).foldl combine []
          (.ok (bad, c.seen), { s with reds := s.reds ++ reds })) s

/-! ### Running and ending -/

/-- One chunk of a command. (DEDUCED, log 37) -/
def Copy.runChunk (c : Copy) (clash : Bool) : Eng (Bool × List Int) :=
  if c.kind = 3 then c.runScatter clash
  else (if c.kind = 0 then c.runBulk clash else c.runGather clash).andThen fun e => Eng.ret (e, c.seen)

/-- Up to n chunks: a page that is not translated stalls the command at the start of its chunk with a fault record, an access error ends it
(R302, R303). -/
def Copy.run (clash : Bool) : Nat → Copy → State → Copy × State
  | 0, c, s => (c, s)
  | n + 1, c, s =>
    if c.chunks ≤ c.chunk then (c, s)
    else match c.runChunk clash s with
      | (.ok e, s) => Copy.run clash n { c with chunk := c.chunk + 1, err := c.err || e.1, seen := e.2 } s
      | (.error (.stall va reason w), s) =>
        ({ c with stall := some (va, reason) }, s.engineFault (s.partNum c.by_.ctx.cl) va reason w c.by_)
      | (.error (.err _ _ _), s) => ({ c with chunk := c.chunks, err := true }, s)
      | (.error (.sparse _ _ _ _), s) => ({ c with chunk := c.chunks, err := true }, s)

/-- Running the command as far as the event says: n chunks, or all that are left for 0. A cancelled one, or one whose service posted NOMEM, ends with
an error (R303, R305). (DEDUCED, log 88) -/
def Copy.advance (c : Copy) (n : Nat) (s : State) : Copy × State :=
  if c.cancelled || c.nomem then ({ c with chunk := c.chunks, err := true, stall := none }, s)
  else Copy.run (s.overlap c.by_ c.d c.s || (c.ix.map (s.overlap c.by_ c.d)).getD false) (if n = 0 then c.chunks - c.chunk else n) { c with stall := none } s

/-- Every chunk has been performed. -/
def Copy.finished (c : Copy) : Bool := c.stall.isNone && decide (c.chunks ≤ c.chunk)

/-- The end of a command that has left the list: its reductions are applied before it retires (R153, R304, R308). -/
def State.copyOver (s : State) (c : Copy) : State :=
  (if c.kind = 3 ∧ c.sub ≠ 0 then s.applyReds c.by_.ctx else s).copyEnd c.by_ c.ring c.tag c.err c.oc

/-- Running the command at place i of the list on, and its end. -/
def State.copyRun (s : State) (i : Nat) (c : Copy) : State :=
  let (c', s) := c.advance s.subj.num s
  if c'.finished then { s with copies := s.copies.eraseIdx i }.copyOver c'
  else { s with copies := s.copies.set i c' }

/-- The bulk copy at place subj.n runs, and completes after its last chunk (R304). -/
def execCopyComplete (s : State) : Result := .next (match s.copies[s.subj.n]? with
  | some c => if c.kind = 0 then s.copyRun s.subj.n c else s
  | none => s)

/-- The gather/scatter unit: a command of the copy list at place subj.n, or the head of a vector queue (R269, R308). -/
def execGatherScatterComplete (s : State) : Result := .next (
  if s.subj.ok then match s.copies[s.subj.n]? with
    | some c => if c.kind = 0 then s else s.copyRun s.subj.n c
    | none => s
  else s.vecGsRun)

/-! ### `cp.cancel` (R305) -/

/-- The command is cancelled by a mask of the context's tags. -/
def Copy.cancels (c : Copy) (id : CtxId) (team : Option Nat) (mask : Word) : Bool :=
  decide (c.by_.ctx = id ∧ c.by_.team = team) && mask.getLsbD c.tag && !c.cancelled && decide (c.chunk < c.chunks)

/-- Ending the stalled commands that are cancelled, at once. -/
def endCancelled : Nat → State → State
  | 0, s => s
  | n + 1, s => match s.copies.find? fun c => c.cancelled && c.stall.isSome with
    | some c =>
      endCancelled n ({ s with copies := dropFirst (fun x : Copy => x.cancelled && x.stall.isSome) s.copies }.copyOver { c with err := true })
    | none => s

def execCpCancel (sm : Bool) (a d : Reg) (s : State) : Result :=
  onCtx s fun c =>
    if lacks c 0 then s.trapAll cROLE 0 (s.rg (s.lowest s.cur) a)
    else
      let mask := s.rg (s.lowest s.cur) a
      let hit := fun (p : Copy) => p.cancels s.cur c.team mask
      let n := (s.copies.filter hit).length
      let s := { s with copies := s.copies.map fun (p : Copy) => if hit p then { p with cancelled := true } else p }
      (endCancelled n s).longOnce sm d (BitVec.ofNat 64 n)

end Sys2Proof.Machine
end

