-- ==== Sys2Proof/Machine/Collective.lean ====
section
/-! DEFINITION. Sys2Proof/Machine/Collective.lean: collectives, sends and receives of communicators (spec/09 R309 to R318; spec/16 R460, R461). The
members on this package are its own contexts; what members on other packages contribute and decide comes in messages. -/

namespace Sys2Proof.Machine

/-! ### Issue (R298, R299, R309 to R312, R316) -/

def cwHandle (gb : Word) : Nat := wfld gb 16 32

/-- A block of n bytes, aligned to `al`, lies in the team's own allocation through W0 (R310). -/
def State.inOwnLs (s : State) (c : Ctx) (va n al : Nat) : Bool :=
  va % al == 0 && decide (va < 2 ^ 56) && (regionOf va == .lsOwn || regionOf va == .lsAny) && fld va 20 3 == 0 && match s.lsAt (whoOf c) va, s.teamOf c.id with
    | .ok l, some t => decide (l.cl = t.cl ∧ l.base = t.lsBase ∧ l.off + n ≤ t.lsSize ∧ l.size = t.lsSize)
    | _, _ => false

/-- A view named by an index of the block; none where the index is 0xFFFF. -/
def State.collView (s : State) (c : Ctx) (i : Nat) : Except Nat (Option View) × State :=
  if i = 0xFFFF then (.ok none, s)
  else match s.record c i with
    | (.ok v, s) => (.ok (some v), s)
    | (.error _, s) => (.error 1, s)

/-- Types that a reduction takes: .sum, .min and .max; .or. -/
def redType (sub ty : Nat) : Bool :=
  if sub = 3 then ty == 8 || ty == 9 || ty == 16
  else ty == 1 || ty == 2 || ty == 3 || ty == 4 || ty == 8 || ty == 9 || ty == 16

/-- Bytes of a view's elements. -/
def View.bytes (v : View) (n : Nat) : Nat := (n * tyBits v.ty + 7) / 8

/-- Views of a command on n members (R312, R317): whether they suit it, with element type and element count of the instance, in bytes for a pair. -/
def collShape (fn sub n rank peer : Nat) (send recv : Option View) : Option (Nat × Nat) := match fn, send, recv with
  | 4, some a, some b => if a.ty = b.ty ∧ redType sub a.ty = true ∧ a.count = b.count then some (a.ty, a.count) else none
  | 5, some a, some b => if a.ty = b.ty ∧ b.count = n * a.count then some (a.ty, a.count) else none
  | 6, some a, some b => if a.ty = b.ty ∧ redType sub a.ty = true ∧ a.count = n * b.count then some (a.ty, b.count) else none
  | 7, some a, some b => if rank = peer ∧ peer < n ∧ a.ty = b.ty ∧ a.count = b.count then some (a.ty, a.count) else none
  | 7, some a, none => if rank = peer ∧ peer < n then some (a.ty, a.count) else none
  | 7, none, some b => if rank ≠ peer ∧ peer < n then some (b.ty, b.count) else none
  | 8, some a, _ => if peer < n then some (a.ty, a.bytes a.count) else none
  | 9, _, some b => if peer < n then some (b.ty, b.bytes b.count) else none
  | _, _, _ => none

/-- Bytes of a completion record (R314). -/
def crecBytes (status code rank count : Nat) : List Byte := leBytes 16 (status + code % 256 * 2 ^ 8 + rank % 65536 * 2 ^ 16 + count * 2 ^ 64)

/-- Greatest timestamp of the members of this package: those of every write that they have made are not above it. -/
def State.commTs (s : State) (k : Comm) : Nat :=
  maxOf (fun c => s.relTs c.id) (s.ctxs.filter fun c => match s.teamOf c.id with
    | some t => (k.rankOf c.id t).isSome
    | none => false)

/-- Writing a completion record: a release at SYS scope of every write that the collective made on every member (R155, R314). -/
def State.writeCrec (s : State) (b : Behalf) (part slot va status code rank count : Nat) : State :=
  let ts := max (s.relTs b.ctx) (((s.comm part slot).map s.commTs).getD 0)
  let s := s.observe b.ctx ts
  (s.engRelease (whoB b) b.ctx va (crecBytes status code rank count) ts).2

/-- Setting the tag of a collective, and retiring it (R314). -/
def State.collTag (s : State) (b : Behalf) (tag : Nat) (err : Bool) (oc : Nat) : State :=
  (s.modHeld b.ctx b.team fun c =>
    let bit := BitVec.ofNat 64 (2 ^ tag)
    { c with arrived := c.arrived ||| bit, errtags := if err then c.errtags ||| bit else c.errtags }).ocDone oc

/-- Writing elements lo to lo + n − 1 of a receive view: a value that nothing determines is free. -/
def recvWrite (b : Behalf) (v : View) (lo n : Nat) (val : Nat → Option Nat) : Eng Unit :=
  let fs := (List.range n).map (lo + ·)
  (v.targets b .write (fs.map fun f => v.off (v.tup f))).andThen fun ts s =>
    let (fr, s) := s.freeCodes (tyBits v.ty) n
    let codes := (fs.zip fr).map fun p => (val p.1).getD p.2
    (.ok (), s.putCodes v b.ctx false (fs.zip (ts.zip codes)))

/-- A command that ends at issue: with its record, where it has one to write; of an instance that has failed the receive view is unpredictable (R314,
R315, R316). (DEDUCED, log 75) -/
def State.collAtOnce (s : State) (sm : Bool) (c : Ctx) (gb : Word) (d : Reg) (rec_ : Option (Comm × Nat × Nat × Nat × Nat)) (recv : Option View)
    (st : Nat) : State :=
  let (o, s) := s.ocIssue s.cur .ocl
  let b := s.behalf c
  let bad := match rec_ with
    | some (_, _, status, _, _) => status != 0
    | none => true
  let s := match recv with
    | some v => if bad then scribbleView b v s else s
    | none => s
  let s := match rec_ with
    | some (k, crec, status, code, rank) => s.writeCrec b k.part k.slot crec status code rank 0
    | none => s
  ((s.ringRelease b (cwRing gb)).collTag b (cwTag gb) bad o).longOnce sm d (BitVec.ofNat 64 st)

/-- The context's outstanding command on a communicator of one generation (R311). -/
def State.collOf (s : State) (c : Ctx) (part slot gen : Nat) : Option Coll :=
  s.colls.find? fun x => decide (x.by_.ctx = c.id ∧ x.by_.team = c.team ∧ x.part = part ∧ x.cslot = slot ∧ x.gen.toNat = gen)

/-- The communicator and rank that a handle names for the context; none raises HANDLE_STALE (R309). -/
def State.handleOf (s : State) (c : Ctx) (h : Nat) : Option (Comm × Nat) := match s.partOf c.id.cl, s.teamOf c.id with
  | some p, some t => (s.comm p.num (h % 65536)).bind fun k => (k.rankOf c.id t).map fun r => (k, r)
  | _, _ => none

/-- The room that a command waits for: the end of the context's command on the same handle (R311). -/
def State.collRoom (s : State) (c : Ctx) (gb : Word) : Option Room := match s.handleOf c (cwHandle gb) with
  | some (k, _) =>
    if (s.collOf c k.part k.slot (cwHandle gb / 65536)).isSome then some (.comm k.part k.slot (BitVec.ofNat 16 (cwHandle gb / 65536))) else none
  | none => none

/-- The command's contribution, or a notice of it, leaves for the other packages of its instance. -/
def State.tellOf (s : State) (c : Coll) (kind : Nat) (data : List Byte) : State := match s.comm c.part c.cslot with
  | some k => s.tell k kind 0 0 { cid := k.cid, gen := c.gen, rank := c.rank, inst := c.inst, fn := c.fn, sub := c.sub, etype := c.etype
                                  count := c.count, mtch := c.mtch, since := c.since, data := data }
  | none => s

/-- The command's instance is decided already, or the command is outstanding from now on, and the other packages learn that the member has issued. -/
def State.collEnter (s : State) (sm : Bool) (c : Ctx) (gb : Word) (d : Reg) (k : Comm) (mk : Nat → Coll) : State :=
  let x := mk 0
  match s.decidedAs k.part k.slot k.gen x.inst with
  | some (st, code, r) => s.collAtOnce sm c gb d (some (k, x.crec, st, code, r)) x.recv 0
  | none =>
    let (o, s) := s.ocIssue s.cur .ocl
    (({ s with colls := s.colls ++ [mk o] }.tellOf x 4 []).judge k.part k.slot x.inst).longOnce sm d 0

/-- What step 4 of R299 and R316 find, by the views; none where the command is accepted, with element type and count. -/
def State.collJudge (s : State) (c : Ctx) (fn sub n rank peer : Nat) (send recv : Except Nat (Option View)) :
    Except Nat (Option View × Option View × Nat × Nat) := match send, recv with
  | .error st, _ => .error st
  | _, .error st => .error st
  | .ok a, .ok b => match collShape fn sub n rank peer a b with
    | none => .error 2
    | some (ty, cnt) =>
      if (match b with
        | some v => v.wholeBlocks (s.viewWd (s.behalf c) v)
        | none => true) then .ok (a, if fn = 8 then none else b, ty, cnt) else .error 2

/-- The view of a record index lies in the VRS beyond the allotment. -/
def collVreg (c : Ctx) : Except Nat (Option View) → Bool
  | .ok (some v) => v.beyondVrs c.vblocks
  | .ok none => false
  | .error _ => false

/-- The command with its block, once the handle is known: a block outside the allocation, VREG, the record's place, a stale handle, the views (R299, R310,
R316). The group's earlier writes and reductions reach the block and the records before they are read (R152). (DEDUCED, log 75) -/
def State.collBlock (s : State) (sm : Bool) (c : Ctx) (fn sub : Nat) (ga gb : Word) (d : Reg) (k : Comm) (rank : Nat) : State :=
  if !(s.inOwnLs c ga.toNat 64 64) then s.collAtOnce sm c gb d none none 4
  else
    let s := s.drainGroup s.cur
    let blk := s.placeRead (match s.lsAt (whoOf c) ga.toNat with
      | .ok l => .ls l.cl l.phys
      | .error _ => .ls 0 0) 64
    let crec := blkNum blk 8 8
    let peer := blkNum blk 4 2
    let mt := blkNum blk 16 4
    let (send, s) := s.collView c (blkNum blk 0 2)
    let (recv, s) := s.collView c (blkNum blk 2 2)
    if collVreg c send || collVreg c recv then s.trapAll cVREG 0 ga
    else if !(s.inOwnLs c crec 16 16) then s.collAtOnce sm c gb d none none 4
    else if cwHandle gb / 65536 ≠ k.gen.toNat then s.collAtOnce sm c gb d (some (k, crec, 4, 0, 0xFFFF)) none 3
    else match s.collJudge c fn sub k.members.length rank peer send recv with
      | .error st => s.collAtOnce sm c gb d none none st
      | .ok (send, recv, ty, cnt) =>
        let (snd, rcv) := if fn = 8 then (rank, peer) else (peer, rank)
        let key := if fn < 8 then rank else pairKey snd rcv mt (fn - 8)
        let inst := if fn < 8 then k.count rank + 1 else pairInst snd rcv mt (k.count key + 1)
        let s := s.modComm k.part k.slot fun k => k.bump key
        s.collEnter sm c gb d k fun o => {
          by_ := s.behalf c, part := k.part, cslot := k.slot, gen := k.gen, inst := inst, fn := fn, sub := sub, send := send, recv := recv
          peer := peer, crec := crec, mtch := mt, tag := cwTag gb, ring := cwRing gb, oc := o, rank := rank, since := s.gtime, data := []
          etype := ty, count := cnt }

/-- Issue of a collective, a send or a receive: room first (R311), then the checks of R299 in their order. (DEDUCED, log 75) -/
def State.collIssue (s : State) (sm : Bool) (c : Ctx) (fn sub : Nat) (ga gb : Word) (d : Reg) : State :=
  match s.collRoom c gb with
  | some r => s.stay (.parked (.room r))
  | none =>
    if s.cwRingBad gb then s.trapAll cILLEGAL 0 gb
    else if lacks c 0 then s.trapRole ga gb
    else if wfld gb 13 3 ≠ 0 ∨ wfld gb 48 16 ≠ 0 then s.trapAll cENGINE_ERR 0 gb
    else match s.handleOf c (cwHandle gb) with
      | none => s.trapOpen cHANDLE_STALE
      | some (k, rank) => s.collBlock sm c fn sub ga gb d k rank

/-- A collective command issues once per group. -/
def collOp (s : State) (sm : Bool) (fn sub : Nat) (a b d : Reg) : Result :=
  onCtx s fun c => s.collIssue sm c fn sub (s.rg (s.lowest s.cur) a) (s.rg (s.lowest s.cur) b) d

def execClAr (sm : Bool) (a b d : Reg) (u : Fin 8) (s : State) : Result := collOp s sm 4 u.val a b d
def execClAg (sm : Bool) (a b d : Reg) (s : State) : Result := collOp s sm 5 0 a b d
def execClRs (sm : Bool) (a b d : Reg) (u : Fin 8) (s : State) : Result := collOp s sm 6 u.val a b d
def execClBc (sm : Bool) (a b d : Reg) (s : State) : Result := collOp s sm 7 0 a b d
def execClSend (sm : Bool) (a b d : Reg) (s : State) : Result := collOp s sm 8 0 a b d
def execClRecv (sm : Bool) (a b d : Reg) (s : State) : Result := collOp s sm 9 0 a b d

/-- The answer that a coordinator on another package gives, once it has decided (R318): until then either is possible. (DESIGN CHOICE, log 80) -/
def State.askedLong (s : State) (sm : Bool) (d : Reg) (a : AbortAsk) : State :=
  let n := s.longs.length
  let (f, s) := s.freshFree
  let s := s.longOnce sm d (if f.getLsbD 0 then 0 else 2)
  { s with longs := s.longs.take n ++ (s.longs.drop n).map fun (l : Long) => { l with abort := some a } }

/-- `cl.abort` (R318). Where the coordinator is on another package, the abort goes to it, and what it records is the answer. -/
def State.collAbort (s : State) (sm : Bool) (c : Ctx) (ga gb : Word) (d : Reg) : State :=
  if lacks c 0 then s.trapRole ga gb
  else if wfld ga 8 56 ≠ 0 then s.trapAll cENGINE_ERR 0 ga
  else if wfld gb 0 16 ≠ 0 ∨ wfld gb 48 16 ≠ 0 then s.trapAll cENGINE_ERR 0 gb
  else match s.handleOf c (cwHandle gb) with
    | none => s.trapOpen cHANDLE_STALE
    | some (k, rank) =>
      if cwHandle gb / 65536 ≠ k.gen.toNat then s.longOnce sm d 3
      else match s.collOf c k.part k.slot k.gen.toNat with
        | none => s.longOnce sm d 2
        | some x =>
          if (s.verdictOf x).isSome || x.asked then s.longOnce sm d 2
          else if s.coordLocal k x.inst then (s.abortInst x (wfld ga 0 8)).longOnce sm d 0
          else (s.abortInst x (wfld ga 0 8)).askedLong sm d
            { part := k.part, slot := k.slot, gen := k.gen, inst := x.inst, code := wfld ga 0 8, rank := rank }

def execClAbort (sm : Bool) (a b d : Reg) (s : State) : Result :=
  onCtx s fun c => s.collAbort sm c (s.rg (s.lowest s.cur) a) (s.rg (s.lowest s.cur) b) d

/-! ### Data (R312, R313) -/

/-- Codes as bytes, two 4-bit codes to a byte, the first in the low half (R73). -/
def packNibs : List Nat → List Byte
  | [] => []
  | [a] => [BitVec.ofNat 8 a]
  | a :: b :: r => BitVec.ofNat 8 (a + 16 * b) :: packNibs r

def packCodes (bits : Nat) (codes : List Nat) : List Byte := if bits = 4 then packNibs codes else codes.flatMap (leBytes (bits / 8))

/-- Code i of packed bytes. -/
def packedAt (bits : Nat) (b : List Byte) (i : Nat) : Option Nat :=
  if bits = 4 then (b[i / 2]?).map fun x => nibOf x.toNat (i % 2 == 1)
  else if (i + 1) * (bits / 8) ≤ b.length then some (blkNum b (i * (bits / 8)) (bits / 8)) else none

/-- Reduce over ranks in ascending order (R313): 0 sum, 1 minimum, 2 maximum, 3 or. -/
def collReduce (sub ty : Nat) (xs : List Nat) : Nat := match tyFmt ty, xs with
  | _, [] => 0
  | some f, a :: r =>
    let p : FFmt := if f = .f64 then .f64 else .f32
    let step := fun (x y : Ex) => match sub with
      | 0 => decodeFloat p (roundTo p .rne false (x.add .rne y))
      | 1 => x.minNum y
      | _ => x.maxNum y
    roundTo f .rne false ((r.map (decodeFloat f)).foldl step (decodeFloat f a))
  | none, a :: r =>
    let v := fun c => intVal (tyBits ty) (tyUns ty false) c
    match sub with
    | 0 => wrapNat (tyBits ty) ((a :: r).map v).sum
    | 1 => r.foldl (fun x y => if v x ≤ v y then x else y) a
    | 2 => r.foldl (fun x y => if v x ≤ v y then y else x) a
    | _ => r.foldl (· ||| ·) a

/-- Element f of a member's receive view, where the contributions determine it. -/
def collElem (l : List Share) (ranks : List Nat) (c : Coll) (bits f : Nat) : Option Nat :=
  let at_ := fun (r i : Nat) => (shareOf l r).bind fun x => packedAt bits x.data i
  match c.fn with
  | 4 => (ranks.mapM fun r => at_ r f).map (collReduce c.sub c.etype)
  | 5 => if c.count = 0 then none else at_ (f / c.count) (f % c.count)
  | 6 => (ranks.mapM fun r => at_ r (c.rank * c.count + f)).map (collReduce c.sub c.etype)
  | 7 => at_ c.peer f
  | _ => (sideOf l (c.peer, some 8)).bind fun x => packedAt bits x.data f

/-- Reading the send elements. -/
def collRead (c : Coll) (v : View) : Eng (List Byte) :=
  (Eng.each (fun f => v.read c.by_ (v.off (v.tup f))) (List.range v.count)).andThen fun codes => Eng.ret (packCodes (tyBits v.ty) codes)

/-! ### Progress (R314 to R316) -/

/-- Every member of the instance has contributed. -/
def State.allIn (s : State) (c : Coll) : Bool := match s.comm c.part c.cslot with
  | some k => k.gen == c.gen && (instSides k.members.length c.inst).all fun r => match sideOf (s.shares c.part c.cslot c.gen c.inst) r with
    | some x => x.sent
    | none => false
  | none => false

/-- Every receive view of the instance is written. -/
def State.allWrote (s : State) (c : Coll) : Bool := match s.comm c.part c.cslot with
  | some k => (instSides k.members.length c.inst).all fun r => match sideOf (s.shares c.part c.cslot c.gen c.inst) r with
    | some x => x.wrote
    | none => false
  | none => false

/-- The command at place i of the list stalls at a page, or its data cannot be accessed: the manual gives no status for that, and the instance ends
ABORTED with the member's rank; CODE is 0 but for `cl.abort` and a mismatch (R314). (DESIGN CHOICE, log 77) -/
def State.collFail (s : State) (i : Nat) (c : Coll) : Fail → State
  | .stall va reason w =>
    { s.engineFault (s.partNum c.by_.ctx.cl) va reason w c.by_ with colls := s.colls.set i { c with stall := some (va, reason) } }
  | .err _ _ _ => s.abortInst c 0
  | .sparse _ _ _ _ => s.abortInst c 0

/-- Values of the receive view's elements. -/
def State.collVals (s : State) (c : Coll) (v : View) (f : Nat) : Option Nat := match s.comm c.part c.cslot with
  | some k => collElem (s.shares c.part c.cslot c.gen c.inst) (instRanks k.members.length c.inst) c (tyBits v.ty) f
  | none => none

/-- The receive view of a command whose instance has ended otherwise than OK: a prefix of whole 4 KiB chunks holds results, where all contributed; the
rest is unpredictable (R314, R316). Answers COUNT. (DESIGN CHOICE, log 78) -/
def State.collPrefix (s : State) (c : Coll) : Nat × State := match c.recv with
  | none => (0, s)
  | some v =>
    if c.wrote then (v.bytes v.count, s)
    else
      let (f, s) := s.freshFree
      let m := if s.allIn c then min v.count (f.toNat % (v.count * tyBits v.ty / 32768 + 2) * (32768 / tyBits v.ty)) else 0
      match recvWrite c.by_ v 0 m (s.collVals c v) s with
      | (.ok (), s) => (v.bytes m, scribbleFrom c.by_ v m s)
      | (.error _, s) => (0, scribbleView c.by_ v s)

/-- The receive view's writes are performed: the ring slot is inverted, once (R314). -/
def State.collRing (s : State) (c : Coll) : State := if c.rung then s else s.ringRelease c.by_ c.ring

/-- The end of a command with its terminal status: record, ring slot, tag, counter (R314). (DESIGN CHOICE, log 78) -/
def State.collEnd (s : State) (i : Nat) (c : Coll) (v : Nat × Nat × Nat) : State :=
  let (n, s) := if v.1 = 0 then ((c.recv.map fun v => v.bytes v.count).getD 0, s) else s.collPrefix c
  let s := { s with colls := s.colls.eraseIdx i }
  let s := s.writeCrec c.by_ c.part c.cslot c.crec v.1 v.2.1 v.2.2 n
  let s := (s.collRing c).collTag c.by_ c.tag (v.1 != 0) c.oc
  if s.colls.any fun x => x.inInst c.part c.cslot c.gen c.inst then s
  else { s with contribs := s.contribs.filter fun x => !decide (x.part = c.part ∧ x.cslot = c.cslot ∧ x.msg.gen = c.gen ∧ x.msg.inst = c.inst) }

/-- The command at place i has written its receive view: its ring slot is inverted, and the other packages learn of it. -/
def State.collWrote (s : State) (i : Nat) (c : Coll) : State :=
  (({ s with colls := s.colls.set i { c with wrote := true, stall := none, rung := true } }).collRing c).tellOf c 3 []

/-- The next thing that the command at place i does: it reads its send elements; it writes its receive view when every member has contributed; the
coordinator decides OK when every receive view is written; it ends with its status. -/
def State.collStep (s : State) (i : Nat) (c : Coll) : State := match s.verdictOf c with
  | some v => s.collEnd i c v
  | none =>
    if c.nomem then s.collFail i c (.err cPAGE_FAULT 0 0)
    else if !c.sent then
      match c.send with
      | none => ({ s with colls := s.colls.set i { c with sent := true, stall := none } }).tellOf c 0 []
      | some v => match collRead c v s with
        | (.ok b, s) => ({ s with colls := s.colls.set i { c with sent := true, data := b, stall := none } }).tellOf c 0 b
        | (.error e, s) => s.collFail i c e
    else if !c.wrote then
      if s.allIn c then
        match c.recv with
        | none => s.collWrote i c
        | some v => match recvWrite c.by_ v 0 v.count (s.collVals c v) s with
          | (.ok (), s) => s.collWrote i c
          | (.error e, s) => s.collFail i c e
      else s
    else match s.comm c.part c.cslot with
      | some k => if s.coordLocal k c.inst && s.allWrote c then s.decideHere c.part c.cslot c.gen c.inst 0 0 0xFFFF else s
      | none => s

/-- The collective unit goes on with the command at place subj.n. -/
def execCollectiveComplete (s : State) : Result := .next (match s.colls[s.subj.n]? with
  | some c => s.collStep s.subj.n c
  | none => s)

/-! ### Messages and time (R315, R461) -/

/-- A member on another package has issued, and, where `sent` says so, has sent its elements: its entry among those of the instance. -/
def State.noteContrib (s : State) (k : Comm) (m : CollMsg) (sent : Bool) : State :=
  let mine := fun (c : Contrib) => decide (c.part = k.part ∧ c.cslot = k.slot ∧ c.msg.gen = m.gen ∧ c.msg.inst = m.inst ∧ c.msg.rank = m.rank ∧ c.msg.fn = m.fn)
  let s := if s.contribs.any mine then
      { s with contribs := s.contribs.map fun c => if mine c && sent && !c.sent then { c with msg := m, sent := true } else c }
    else { s with contribs := s.contribs ++ [({ part := k.part, cslot := k.slot, msg := m, sent := sent } : Contrib)] }
  s.judge k.part k.slot m.inst

/-- The partition has stopped or is switched out (R396, R398). -/
def State.standsStill (s : State) (part : Nat) : Bool := match (s.partNo part).map Partition.run with
  | some (.stopping t _) => decide (t ≤ s.gtime)
  | some (.stopped _) => true
  | some (.away _) => true
  | some (.entering _ _) => true
  | some .running => false
  | none => false

/-- A message from a member on another package: subj.num 0 its contribution, 1 the coordinator's decision (STATUS in lo, CODE and RANK in hi), 2 its
`cl.abort` (code in lo), 3 its receive view is written, 4 it has issued. One of another generation is refused (R461), and so is one for a partition that does
not run (R396). (DESIGN CHOICE, log 80) -/
def execCollectiveMessage (s : State) : Result := .next (match s.subj.msg with
  | none => s
  | some m => match s.comms.find? fun k => k.used && decide (k.part = s.subj.part ∧ k.cid = m.cid ∧ k.gen = m.gen) with
    | none => s
    | some k =>
      if (s.decidedAs k.part k.slot k.gen m.inst).isSome || s.standsStill k.part then s
      else match s.subj.num with
        | 0 => s.noteContrib k m true
        | 1 => s.decideAs k.part k.slot k.gen m.inst s.subj.lo (s.subj.hi % 256) (s.subj.hi / 256)
        | 2 => if s.coordLocal k m.inst then s.decideHere k.part k.slot k.gen m.inst 1 s.subj.lo m.rank else s
        | 3 => { s with contribs := s.contribs.map fun (c : Contrib) =>
            if c.part = k.part ∧ c.cslot = k.slot ∧ c.msg.gen = m.gen ∧ c.msg.inst = m.inst ∧ c.msg.rank = m.rank ∧ c.msg.fn = m.fn then { c with wrote := true } else c }
        | _ => s.noteContrib k m false)

/-- GTIME of the first issue of an instance. -/
def firstIssue : List Share → Option Nat
  | [] => none
  | x :: r => some (r.foldl (fun a y => min a y.since) x.since)

/-- T has passed since the first issue of instance subj.n of slot subj.num of partition subj.part: the coordinator decides TIMEOUT. -/
def execCollectiveTimeout (s : State) : Result := .next (match s.comm s.subj.part s.subj.num with
  | none => s
  | some k =>
    let sh := s.shares k.part k.slot k.gen s.subj.n
    match firstIssue sh with
    | none => s
    | some t =>
      if s.coordLocal k s.subj.n && decide (t + k.tms * 1000000 ≤ s.gtime) then
        let missing := (instSides k.members.length s.subj.n).find? fun r => (sideOf sh r).isNone
        s.decideHere k.part k.slot k.gen s.subj.n 2 0 ((missing.map Prod.fst).getD 0xFFFF)
      else s)

/-- 2T has passed since the command at place subj.n issued, and its coordinator is on another package: PEER_LOST with the coordinator's rank. -/
def execCoordinatorContactLost (s : State) : Result := .next (match s.colls[s.subj.n]? with
  | none => s
  | some c => match s.comm c.part c.cslot with
    | none => s
    | some k =>
      if (s.verdictOf c).isNone && !(s.coordLocal k c.inst) && decide (c.since + 2 * k.tms * 1000000 ≤ s.gtime) then
        { s with colls := s.colls.set s.subj.n { c with verdict := some (3, 0, (s.coordinator k c.inst).getD 0xFFFF) } }
      else s)

end Sys2Proof.Machine
end

