-- ==== Sys2Proof/Machine/SinterExec.lean ====
section
/-! DEFINITION. Sys2Proof/Machine/SinterExec.lean: `mx.spmm` as it executes, and Sinter's cache (spec/10 R345 to R356). -/

namespace Sys2Proof.Machine

/-! ### The tile's structure (R319 to R324, R346) -/

/-- A nonzero of a tile: row and K index within it, and its value position. -/
abbrev NZ := Nat × Nat × Nat

/-- A tile as it is read: the nonzeros, and the byte ranges that were read. -/
structure TileRead where
  nz : List NZ
  ranges : List (Nat × Nat)
deriving DecidableEq, Repr

/-- The fibre of a C level from entry i up to hi: coordinates below `top` with their positions; order and range are checked on every entry read. -/
def walkC (w : Who) (d : SDesc) (l hi top : Nat) : Nat → Nat → Option Nat → Eng (List (Nat × Nat) × Nat)
  | 0, i, _ => Eng.ret ([], i)
  | n + 1, i, last =>
    if hi ≤ i then Eng.ret ([], i)
    else (readCrd w d l i).andThen fun c =>
      if d.extent l ≤ c then Eng.fail (.sparse 3 l i (d.crdVa l i))
      else if (match last with
        | some p => d.isOrdered l && (decide (c < p) || (d.isUnique l && c == p))
        | none => false) then Eng.fail (.sparse 1 l i (d.crdVa l i))
      else if top ≤ c then Eng.ret ([], i + 1)
      else (walkC w d l hi top n (i + 1) (some c)).andThen fun r => Eng.ret ((c, i) :: r.1, r.2)

/-- Set bits of a word. -/
def popcount (v n : Nat) : Nat := ((List.range n).filter fun i => bitAt v i).length

/-- The word of a B row that covers coordinates from c0 on, checked (R320, R324). -/
def readBWord (w : Who) (d : SDesc) (l p wi : Nat) : Eng (Nat × Nat) :=
  let words := (d.extent l + 63) / 64
  let i := p * words + wi
  (readBits w d l i).andThen fun v => (readPos w d l i).andThen fun a => (readPos w d l (i + 1)).andThen fun b =>
    if wi + 1 = words ∧ d.extent l % 64 ≠ 0 ∧ 2 ^ (d.extent l % 64) ≤ v then Eng.fail (.sparse 3 l i (d.wordVa l i))
    else if b ≠ a + popcount v 64 then Eng.fail (.sparse 4 l i (d.posVa l i))
    else Eng.ret (v, a)

/-- The nonzeros of one row, whose position on level 0 is p, among K indices k0 … k0 + t − 1. -/
def readTileRow (w : Who) (d : SDesc) (t k0 row p : Nat) : Eng TileRead :=
  if d.kind 1 = 2 then
    let words := (d.extent 1 + 63) / 64
    let i := p * words + k0 / 64
    (readBWord w d 1 p (k0 / 64)).andThen fun (v, base) =>
      let ks := (List.range t).filter fun k => bitAt v (k0 % 64 + k)
      Eng.ret { nz := ks.map fun k => (row, k, base + popcount v (k0 % 64 + k))
                ranges := [(d.wordVa 1 i, 8), (d.posVa 1 i, 2 * d.posBytes 1)] }
  else
    (readPosPair w d 1 p).andThen fun (lo, hi) =>
      (walkC w d 1 hi (k0 + t) (hi - lo) lo none).andThen fun (es, last) =>
        Eng.ret { nz := (es.filter fun e => decide (k0 ≤ e.1)).map fun e => (row, e.1 - k0, e.2)
                  ranges := [(d.posVa 1 p, 2 * d.posBytes 1)] ++
                    if last = lo then [] else [(d.crdVa 1 lo, (last - lo) * d.crdBytes 1)] }

/-- The rows of the tile with their positions on level 0, and what was read for them. -/
def tileRows (w : Who) (d : SDesc) (t r0 : Nat) : Eng (List (Nat × Nat) × List (Nat × Nat)) :=
  if d.kind 0 = 0 then Eng.ret ((List.range (min t (d.extent 0 - r0))).map fun r => (r, r0 + r), [])
  else
    (readPosPair w d 0 0).andThen fun (lo, hi) =>
      (walkC w d 0 hi (r0 + t) (hi - lo) lo none).andThen fun (es, last) =>
        Eng.ret ((es.filter fun e => decide (r0 ≤ e.1)).map fun e => (e.1 - r0, e.2),
          [(d.posVa 0 0, 2 * d.posBytes 0)] ++ if last = lo then [] else [(d.crdVa 0 lo, (last - lo) * d.crdBytes 0)])

/-- Reading a tile's structure. -/
def readTile (w : Who) (d : SDesc) (t tr tc : Nat) : Eng TileRead :=
  (tileRows w d t (tr * t)).andThen fun (rows, ranges) =>
    (Eng.each (fun (r : Nat × Nat) => readTileRow w d t (tc * t) r.1 r.2) rows).andThen fun parts =>
      Eng.ret { nz := parts.flatMap TileRead.nz, ranges := [(d.addr, 128)] ++ ranges ++ parts.flatMap TileRead.ranges }

/-- Code of a stored value of a type, of the array at an address (R321). -/
def readValue (w : Who) (val ty q : Nat) : Eng Nat :=
  if tyBits ty = 4 then (readNum w (val + q / 2) 1).andThen fun b => Eng.ret (nibOf b (q % 2 == 1))
  else readNum w (val + q * (tyBits ty / 8)) (tyBits ty / 8)

/-! ### Programs and paths (R348 to R350) -/

/-- Length of the program of some nonzeros of a T tile (R350); a quarter's micro-ops cover the B rows of its tile. (DEDUCED, log 87) -/
def progLen (t : Nat) (nz : List NZ) : Nat :=
  let ks := (nz.map fun e => e.2.1).eraseDups
  ks.length + t / 16 * nz.length + (ks.map (· / 16)).eraseDups.length + 1

def progLines (len : Nat) : Nat := (len + 7) / 8 + 1

/-- Quarter q of a tile of 64. (DEDUCED, log 87) -/
def quarterOf (q : Nat) (nz : List NZ) : List NZ := nz.filter fun e => decide (e.1 / 32 = q / 2 ∧ e.2.1 / 32 = q % 2)

/-- What Sinter decides for a tile at its first use (R348): to expand it, to stream it, or to compile it whole or by quarters, with each program's
nonzeros and length. (DEDUCED, log 87) -/
def choosePath (t : Nat) (nz : List NZ) : Kept × List (Nat × List NZ × Nat) :=
  let z := nz.length
  let ps := nz.map fun e => e.2.2
  let wide := match ps with
    | [] => false
    | a :: r => decide (2 ^ 32 ≤ r.foldl max a - r.foldl min a)
  if wide then (.stream, [])
  else if t * t ≤ 4 * z then (.expand, [])
  else if 64 * z < t * t then (.stream, [])
  else
    let parts := if progLen t nz ≤ 2048 then [(4, nz, progLen t nz)]
      else (((List.range 4).map fun q => (q, quarterOf q nz)).filter fun q => decide (progLen t q.2 ≤ 2048)).map fun q => (q.1, q.2, progLen t q.2)
    (.compile (parts.map Prod.fst), parts)

/-- The parts of a tile of size t that are not among those of a decision: the quarters that run in stream mode. -/
def restParts (parts : List Nat) : List Nat := if parts.contains 4 then [] else (List.range 4).filter fun q => !parts.contains q

/-- Reading the structure of a part of a tile: of the whole, or of a quarter of a tile of 64, by row and K index in the tile. -/
def readPart (w : Who) (d : SDesc) (t tr tc part : Nat) : Eng (List NZ) :=
  if part = 4 then (readTile w d t tr tc).andThen fun r => Eng.ret r.nz
  else (readTile w d 32 (2 * tr + part / 2) (2 * tc + part % 2)).andThen fun r =>
    Eng.ret (r.nz.map fun e => (e.1 + 32 * (part / 2), e.2.1 + 32 * (part % 2), e.2.2))

/-! ### The cache (R347, R352 to R355, R359) -/

/-- A byte range as the watch filters hold it: LS by cluster and physical offset, paged memory by VA (R353). -/
def State.watchRange (s : State) (w : Who) (r : Nat × Nat) : Option Nat × Nat × Nat :=
  if regionOf r.1 = .lsAny ∨ regionOf r.1 = .lsOwn then match s.lsAt w r.1 with
    | .ok l => (some l.cl, l.phys, r.2)
    | .error _ => (none, r.1, r.2)
  else (none, r.1, r.2)

/-- What is kept for a tile is a decision (none), or the program of a part. -/
def Kept.part? : Kept → Option Nat
  | .expand => none
  | .stream => none
  | .compile _ => none
  | .prog p _ => some p

/-- The entry of a cluster for a tile's decision (none) or for the program of a part. -/
def State.sinterFind (s : State) (cl : Nat) (t : TileId) (part : Option Nat) : Option SCache :=
  s.sinter.find? fun e => decide (e.cl = cl ∧ e.tile = t ∧ e.what.part? = part)

/-- The entry is the most recently used one. -/
def State.sinterUse (s : State) (e : SCache) : State := { s with sinter := s.sinter.filter (fun x => !decide (x = e)) ++ [e] }

/-- A counter of a team (R359). -/
def State.bump (s : State) (cl team i n : Nat) : State := s.modTeam cl team fun t => { t with stats := bumpStat t.stats i n }

/-- The first of some programs that together free n lines. -/
def victims : Nat → List SCache → List SCache
  | _, [] => []
  | n, e :: r => if n = 0 then [] else e :: victims (n - e.lines) r

/-- Keeping a decision, or a program: unpinned programs make room for it, least recently used first; one that finds no room is not cached, and it is
pinned with its identity while pinned programs hold no more than 1024 lines (R352). (DEDUCED, log 86) -/
def State.sinterKeep (s : State) (e : SCache) : State :=
  let mine := s.sinter.filter fun x => decide (x.cl = e.cl)
  let held := ((mine.filter SCache.pinned).map SCache.lines).sum
  if 2048 < e.lines + held then s
  else
    let out := victims ((mine.map SCache.lines).sum + e.lines - 2048) (mine.filter fun x => decide (0 < x.lines) && !x.pinned)
    let s := if out.isEmpty then s else s.dropSinter fun x => out.contains x
    let pin := (s.pins.any fun p => decide (p.cl = e.cl ∧ p.tile = e.tile)) && decide (held + e.lines ≤ 1024)
    { s with sinter := s.sinter ++ [{ e with pinned := pin && decide (0 < e.lines) }] }

/-! ### Execution (R345, R346, R351, R359) -/

/-- T of a command (R345). -/
def tileT (joined : Bool) : Nat := if joined then 64 else 32

def spTr (gb : Word) : Nat := wfld gb 0 24
def spTc (gb : Word) : Nat := wfld gb 24 24

/-- What the descriptor must meet (R345). -/
def spDescOk (c : MCmd) (d : SDesc) (t : Nat) (b : View) : Bool :=
  d.nlvl == 2 && ((d.kind 0 == 0 && (d.kind 1 == 1 || d.kind 1 == 2)) || (d.kind 0 == 1 && d.kind 1 == 1)) &&
    d.isOrdered 0 && d.isUnique 0 && d.isOrdered 1 && d.isUnique 1 && d.vtype == mcA c.cfg &&
    decide (spTr c.gb * t < d.extent 0 ∧ spTc c.gb * t < d.extent 1 ∧ b.ext 1 = min t (d.extent 1 - spTc c.gb * t))

/-- The command starts, on the nonzeros given; it counts once (R359). HIT 0, COMPILE 1, EXPAND 2, STREAM 3. -/
def MCmd.spGo (c : MCmd) (stat : Nat) (expanded : Bool) (nz : List NZ) (s : State) : MCmd × State :=
  ({ c with going := some (expanded, nz), once := [] }, match c.by_.team with
    | some n => s.bump c.by_.ctx.cl n stat 1
    | none => s)

/-- Asking Sinter for the programs of some parts of a tile, in their order, but for those that it compiles already (R351). -/
def State.askCompiles (s : State) (c : MCmd) (t : TileId) (ranges : List (Option Nat × Nat × Nat)) (parts : List (Nat × List NZ × Nat)) : State :=
  parts.foldl (fun (s : State) p =>
    if s.compiles.any fun k => decide (k.cl = c.by_.ctx.cl ∧ k.tile = t ∧ k.part = p.1) then s
    else { s with compiles := s.compiles ++ [{
      cl := c.by_.ctx.cl, tile := t, team := c.team, part := p.1, nz := p.2.1, len := p.2.2, ranges := ranges, spoiled := false }] }) s

/-- A tile that is compiled, whole or by parts: the command runs with the programs that there are, or asks for the others and waits, or streams them
(R348, R351). `tile` is the structure, where it has been read for the decision. (DEDUCED, log 86) -/
def spParts (c : MCmd) (d : SDesc) (t : TileId) (parts : List Nat) : Eng MCmd := fun s =>
  let w := whoB c.by_
  let cl := c.by_.ctx.cl
  let found := parts.map fun p => (p, match s.sinterFind cl t (some p) with
    | some e => match e.what with
      | .prog _ nz => some (nz, some e)
      | .expand => none
      | .stream => none
      | .compile _ => none
    | none => (c.once.find? fun o => decide (o.1 = p)).map fun o => (o.2, none))
  let have_ := found.filterMap fun f => f.2
  let missing := (found.filter fun f => f.2.isNone).map Prod.fst
  let use := fun (s : State) => (have_.filterMap Prod.snd).foldl State.sinterUse s
  let run := fun (stat : Nat) (streamed : List Nat) => (Eng.each (readPart w d t.t t.tr t.tc) streamed).andThen fun (ls : List (List NZ)) (s : State) =>
    let r := c.spGo stat false ((have_.map Prod.fst).flatten ++ ls.flatten) (use s)
    (.ok r.1, r.2)
  if missing.isEmpty then run (if parts.isEmpty then 3 else if c.compiling then 1 else 0) (restParts parts) s
  else if c.spoiled then run (if have_.isEmpty then 3 else 1) (missing ++ restParts parts) s
  else
    ((readTile w d t.t t.tr t.tc).andThen fun tile s =>
      let ask := (choosePath t.t tile.nz).2.filter fun p => missing.contains p.1
      let s := s.askCompiles c t (tile.ranges.map (s.watchRange w)) ask
      if c.nowait then run (if have_.isEmpty then 3 else 0) (missing ++ restParts parts) s
      else (.ok { c with compiling := true }, s)) s

/-- The choice of a path at the start of a command: the one recorded under its identity, or a new one (R348). -/
def spDecide (c : MCmd) (d : SDesc) (t : TileId) : Eng MCmd := fun s =>
  let w := whoB c.by_
  let cl := c.by_.ctx.cl
  let go := fun (stat : Nat) (expanded : Bool) (nz : List NZ) (s : State) =>
    let r := c.spGo stat expanded nz s
    ((.ok r.1, r.2) : Except Fail MCmd × State)
  let follow : MCmd → Kept → Eng (List NZ) → Eng MCmd := fun c k tile => match k with
    | .expand => tile.andThen (go 2 true)
    | .stream => tile.andThen (go 3 false)
    | .compile parts => spParts c d t parts
    | .prog _ _ => Eng.ret c
  match s.sinterFind cl t none with
  | some e => follow c e.what (readPart w d t.t t.tr t.tc 4) (s.sinterUse e)
  | none =>
    let c := { c with once := [] }
    ((readTile w d t.t t.tr t.tc).andThen fun tile s =>
      if c.spoiled then go 3 false tile.nz s
      else
        let k := (choosePath t.t tile.nz).1
        let s := s.sinterKeep { cl := cl, tile := t, team := c.by_.team, what := k, lines := 0, pinned := false
                                ranges := tile.ranges.map (s.watchRange w) }
        follow c k (Eng.ret tile.nz) s) s

/-- `mx.spmm` starts, or continues after a swap: it reads the descriptor and goes on by the path of its tile, or waits for its compile (R345, R348,
R356). -/
def spBegin (c : MCmd) (b : View) : Eng MCmd :=
  let t := tileT c.joined
  (readDesc (whoB c.by_) (c.ga.toNat % 2 ^ 56)).andThen fun d =>
    if spDescOk c d t b = false then Eng.fail (.err cENGINE_ERR 0 d.addr)
    else fun s =>
      -- the ranges of the structure, for the check of R354
      let reads := match (readTile (whoB c.by_) d t (spTr c.gb) (spTc c.gb) s).1 with
        | .ok r => r.ranges.map (s.watchRange (whoB c.by_))
        | .error _ => []
      spDecide { c with vals := d.val, reads := reads } d { desc := d.addr, tr := spTr c.gb, tc := spTc c.gb, gen := d.gen, t := t, domain := c.by_.domain } s

/-- A step of `mx.spmm`: the products of one K block, with the values and the rows of B read now, the rows of B first; without expansion of B the rows that a nonzero needs
(R346, R349). -/
def spBlock (c : MCmd) (b : View) (expanded : Bool) (nz : List NZ) (blk : Nat) : Eng Unit :=
  let t := tileT c.joined
  let here := nz.filter fun e => e.2.1 / 16 == blk
  let ks := ((List.range 16).map fun i => 16 * blk + i).filter fun k => decide (k < b.ext 1) && (expanded || here.any fun e => e.2.1 == k)
  (Eng.each (fun k => Eng.each (fun j => b.read c.by_ (b.off (j, k, 0, 0))) (List.range (b.ext 0))) ks).andThen fun rows =>
    (Eng.each (fun (e : NZ) => (readValue (whoB c.by_) c.vals (mcA c.cfg) e.2.2).andThen fun v => Eng.ret (e.1 * t + e.2.1, v)) here).andThen fun vals =>
      let table := vals.foldl (fun (a : Array (Option MEl)) e => a.setIfInBounds e.1 (some (e.2, 0))) (Array.replicate (t * t) none)
      let brows := ks.zip (rows.map List.toArray)
      match pairOf c.cfg with
      | none => Eng.ret ()
      | some p => Eng.act fun s => s.mma c.by_.ctx.cl c.joined c.acc c.cfg p [blk]
          (fun i k => if i < t ∧ k < t then (table[i * t + k]?).join else none)
          (fun j k => (brows.find? fun r => r.1 == k).bind fun r => (r.2[j]?).map fun x => (x, 0))

/-- The tile's structure has been written since the command issued, or its descriptor: the result is unpredictable (R354). -/
def MCmd.raced (c : MCmd) (s : State) : Bool :=
  let hit := fun (a b : Option Nat × Nat × Nat) => rangeHit a.1 a.2.1 a.2.2 b
  c.op == 7 && c.written.any fun r => (s.watchRange (whoB c.by_) (c.ga.toNat % 2 ^ 56, 128) :: c.reads).any (hit r)

/-- The accumulator takes free values (R354). -/
def State.freeAcc (s : State) (cl : Nat) (c : MCmd) : State :=
  (accParts c.joined c.acc).foldl (fun (s : State) (t : Nat × Nat × Nat) =>
    let bits := if tileInt (s.cluster cl) t.1 then 32 else 40
    { s with acc := accFill s.acc cl t.1 fun i j => (Config.free (s.freeCtr + 32 * i + j)).toNat % 2 ^ bits, freeCtr := s.freeCtr + 1024 }) s

/-- The commands that wait for a compile of a tile. -/
def waitsFor (id : TileId) (m : MCmd) : Bool :=
  m.op == 7 && m.compiling && decide (m.ga.toNat % 2 ^ 56 = id.desc ∧ spTr m.gb = id.tr ∧ spTc m.gb = id.tc ∧ tileT m.joined = id.t ∧ m.by_.domain = id.domain)

/-- The cluster's oldest compile finishes (R351): its program is cached, and the commands that waited have it; one that a write has invalidated leaves
nothing, and the commands that waited run its part in stream mode. -/
def execSinterCompileComplete (s : State) : Result := .next (match s.compiles.find? fun c => decide (c.cl = s.subj.cl) with
  | none => s
  | some k =>
    let s := { s with compiles := dropFirst (fun c : Compile => decide (c.cl = k.cl)) s.compiles }
    let tell := fun (f : MCmd → MCmd) (s : State) => s.modCluster k.cl fun cl => { cl with quads := cl.quads.map fun q => { q with
        queue := q.queue.map fun m => if waitsFor k.tile m then f m else m } }
    if k.spoiled then tell (fun m => { m with spoiled := true }) s
    else tell (fun m => { m with once := m.once ++ [(k.part, k.nz)] }) (s.sinterKeep {
      cl := k.cl, tile := k.tile, team := some k.team, what := .prog k.part k.nz, lines := progLines k.len, pinned := false, ranges := k.ranges }))

end Sys2Proof.Machine
end

