-- ==== Sys2Proof/Machine/Task.lean ====
section
/-! DEFINITION. Sys2Proof/Machine/Task.lean: the TASK major (spec/07 R228 to R232; spec/02 R54, R61 to R67; spec/05 R158). -/

namespace Sys2Proof.Machine

/-! ### Work queue -/

/-- The team of the issuing agent, where it holds work-queue slot k (R228). -/
def State.wqTeam (s : State) (k : Nat) : Option Team := (s.teamOf s.cur).filter fun t => decide (k < t.wqs.length)

def State.setWq (s : State) (t : Team) (k : Nat) (q : WQ) : State :=
  s.modTeam t.cl t.num fun t => { t with wqs := t.wqs.mapIdx fun i x => if i = k then q else x }

/-- A 4-byte unit of the team's own allocation through W0: its bytes, or the STATUS of PROTECTION (R229). -/
def State.ownWord (s : State) (w : Who) (t : Team) (va : Nat) : Except Nat (List Byte) :=
  if 2 ^ 56 ≤ va then .error 0
  else if regionOf va ≠ .lsAny ∧ regionOf va ≠ .lsOwn then .error 0
  else match s.lsAt w va with
    | .error st => .error st
    | .ok l =>
      if l.win ≠ 0 then .error 0
      else if l.cl ≠ t.cl ∨ l.base ≠ t.lsBase ∨ t.lsSize < l.off + 4 then .error 3
      else .ok (Memory.readN s.ls (lsKey l.cl l.phys) 4)

/-- n such units from va on; the first failing one's STATUS and address. -/
def State.ownWords (s : State) (w : Who) (t : Team) (va : Nat) : Nat → Except (Nat × Nat) (List Byte)
  | 0 => .ok []
  | n + 1 => match s.ownWord w t va with
    | .error st => .error (st, va)
    | .ok b => match s.ownWords w t (va + 4) n with
      | .error e => .error e
      | .ok r => .ok (b ++ r)

/-- The words of a little-endian vector of 32-bit counts. -/
def counts32 (b : List Byte) (n : Nat) : List Nat := (List.range n).map fun i => leNat ((b.drop (4 * i)).take 4)

/-- What `wq.init` reads: a queue, nothing for a block that breaks a limit, or a trap of cause, STATUS and VA. -/
def State.wqRead (s : State) (w : Who) (t : Team) (a b : Nat) : Except (Nat × Nat × Nat) (Option WQ) :=
  match s.ownWord w t a with
  | .error st => .error (cPROTECTION, st, a)
  | .ok _ =>
    if a % 4 ≠ 0 then .error (cMISALIGN, 0, a)
    else match s.ownWords w t a 8 with
      | .error (st, v) => .error (cPROTECTION, st, v)
      | .ok blk =>
        if b = 0 then .ok (wqParse blk none)
        else match s.ownWord w t b with
          | .error st => .error (cPROTECTION, st, b)
          | .ok _ =>
            if b % 4 ≠ 0 then .error (cMISALIGN, 0, b)
            else
              let n := leNat ((blk.drop 14).take 2)
              if n = 0 ∨ 4096 < n then .ok none
              else match s.ownWords w t b n with
                | .error (st, v) => .error (cPROTECTION, st, v)
                | .ok v => .ok (wqParse blk (some (counts32 v n)))

/-- The group's own writes and reductions to its local store come first (R142). -/
def State.settleOwnLs (s : State) (agent : CtxId) : State :=
  let mine := fun (p : Place) => match p with
    | .ls cl _ => cl == agent.cl
    | .mem _ _ => false
  let s := s.drainWrites fun w => s.sameBank agent w && mine w.place
  s.drainReds fun r => decide (r.agent = agent) && mine r.place

def execWqInit (sm : Bool) (a b d : Reg) (k : Fin 4) (s : State) : Result :=
  onCtx s fun _ => match s.wqTeam k.val with
    | none => s.trapOpen cILLEGAL
    | some t =>
      let i := s.lowest s.cur
      let s := s.settleOwnLs s.cur
      match s.wqRead (whoOf (s.ctx i)) t (s.rg i a).toNat (s.rg i b).toNat with
      | .error (c, st, v) => s.trapAll c st (BitVec.ofNat 64 v)
      | .ok (some q) => (s.setWq t k.val q).longOnce sm d 0
      | .ok none => (s.setWq t k.val {}).longOnce sm d 1

/-- The handout word and the predicate are both long (R178, R230). -/
def execWqNext (sm : Bool) (d : Reg) (n : PReg) (k : Fin 4) (s : State) : Result :=
  onCtx s fun _ => match s.wqTeam k.val with
    | none => s.trapOpen cILLEGAL
    | some t => match wqTake ((t.wqs[k.val]?).getD {}) with
      | none => (s.addLongPs n ((s.lanes s.cur).map fun i => (i, false))).longOnce sm d 0
      | some (w, q) => ((s.setWq t k.val q).addLongPs n ((s.lanes s.cur).map fun i => (i, true))).longOnce sm d w

/-! ### Tasks -/

/-- The release comes first; then the decrement, which traps where the counter is zero (R67, R158, R231). -/
def execTskDone (sm : Bool) (a d : Reg) (s : State) : Result :=
  onCtx s fun _ =>
    let i := (s.rg (s.lowest s.cur) a).toNat
    if 4096 ≤ i then s.longOnce sm d 1
    else s.releaseThen .dev fun s => match s.partOf s.cur.cl with
      | none => s.trapOpen cTASK_UNDERFLOW
      | some p => match decTask s.tasks p.num i with
        | (true, ts) => (s.putTasks p.num ts).longOnce sm d 0
        | (false, _) => s.trapOpen cTASK_UNDERFLOW

/-- The record is read after the release at DEV scope (R158, R231). A context of no partition has no task table: its record cannot be read. -/
def execTskSubmit (sm : Bool) (a d : Reg) (s : State) : Result :=
  onCtx s fun _ =>
    let i := (s.rg (s.lowest s.cur) a).toNat
    if 4096 ≤ i then s.longOnce sm d 1
    else s.releaseThen .dev fun s => match s.partOf s.cur.cl with
      | none => s.longOnce sm d 3
      | some p =>
        let (st, s) := s.loadTask p i (s.ctx (s.lowest s.cur)).domain none
        s.longOnce sm d (BitVec.ofNat 64 st)

/-! ### Stage rings (R54, R232) -/

/-- The ring of the issuing agent's team. -/
def State.ringOf (s : State) (r : Nat) : Option Ring := (s.teamOf s.cur).bind fun t => t.rings[r]?

/-- The slot that gA names: a ring or slot out of range raises ILLEGAL. -/
def State.slotOf (s : State) (a : Reg) : Nat := wfld (s.rg (s.lowest s.cur) a) 0 3

def execStgAcq (sm : Bool) (a : Reg) (r : Fin 8) (p : Bool) (s : State) : Result :=
  onCtx s fun c => match s.ringOf r.val with
    | none => s.trapOpen cILLEGAL
    | some g =>
      let i := s.slotOf a
      if g.slots ≤ i then s.trapOpen cILLEGAL
      else if g.phases.getLsbD i = p ∨ c.woken = true then ((s.observe s.cur g.ts).acquire s.cur .clu).retire sm
      else s.waitFor (.ring r.val i p)

def execStgRel (sm : Bool) (a : Reg) (r : Fin 8) (s : State) : Result :=
  onCtx s fun c => match s.ringOf r.val with
    | none => s.trapOpen cILLEGAL
    | some g =>
      let i := s.slotOf a
      if g.slots ≤ i then s.trapOpen cILLEGAL
      else s.releaseThen .clu fun s => match c.team with
        | some t => (s.invertSlot s.cur.cl t r.val i (s.relTs s.cur)).retire sm
        | none => s.retire sm

def execStgPeek (sm : Bool) (d : Reg) (r : Fin 8) (s : State) : Result :=
  onCtx s fun _ => match s.ringOf r.val with
    | none => s.trapOpen cILLEGAL
    | some g => s.longOnce sm d (g.phases.setWidth 64)

end Sys2Proof.Machine
end

