-- ==== Sys2Proof/Machine/Stream.lean ====
section
/-! DEFINITION. Sys2Proof/Machine/Stream.lean: stream registers and the STRM major (spec/10 R325 to R343). An instruction works on a copy of the team's
registers, which takes their place when it succeeds (R329). -/

namespace Sys2Proof.Machine

/-! ### Work on stream registers -/

/-- Work of a stream instruction: a failure carries the stream whose entry was being read. -/
abbrev SqE (α : Type) := State → Except (Nat × Fail) α × State

def SqE.ret {α : Type} (a : α) : SqE α := fun s => (.ok a, s)

def SqE.andThen {α β : Type} (m : SqE α) (k : α → SqE β) : SqE β := fun s => match m s with
  | (.ok a, s) => k a s
  | (.error e, s) => (.error e, s)

/-- Engine work for stream q. (DEDUCED, log 84) -/
def onStream {α : Type} (q : Nat) (m : Eng α) : SqE α := fun s => match m s with
  | (.ok a, s) => (.ok a, s)
  | (.error e, s) => (.error (q, e), s)

/-- The team's registers. -/
abbrev Streams := List Stream

def sAt (st : Streams) (q : Nat) : Stream := (st[q]?).getD {}

/-- The stream is a combination. (DEDUCED, log 82) -/
def Stream.comb (s : Stream) : Bool := decide (5 ≤ s.kind)

/-- Extent of the level walked. -/
def Stream.e (s : Stream) : Nat := match s.d with
  | some d => d.extent s.level
  | none => 0

/-- The level is ordered, and ordered and unique. -/
def Stream.ordered (s : Stream) : Bool := s.comb || match s.d with
  | some d => d.isOrdered s.level
  | none => false

def Stream.ordUnq (s : Stream) : Bool := s.comb || match s.d with
  | some d => d.isOrdered s.level && d.isUnique s.level
  | none => false

/-- The stream at its end: what POS holds there is not stated. (DESIGN CHOICE, log 81) -/
def Stream.toEnd (s : Stream) : Eng Stream := fun t =>
  let (f, t) := t.freshFree
  (.ok { s with atEnd := true, crd := 0xFFFFFFFF, pos := f, fpend := false, held := [] }, t)

/-! ### One level (R319, R320, R332 to R334) -/

/-- Entry i of the crd array, in range. -/
def crdAt (w : Who) (d : SDesc) (l i : Nat) : Eng Nat :=
  (readCrd w d l i).andThen fun c => if d.extent l ≤ c then Eng.fail (.sparse 3 l i (d.crdVa l i)) else Eng.ret c

/-- Entry i follows coordinate p in its fibre. (DEDUCED, log 83) -/
def crdAfter (d : SDesc) (l i p c : Nat) : Eng Unit :=
  Eng.need (!(d.isOrdered l && (decide (c < p) || (d.isUnique l && c == p)))) (.sparse 1 l i (d.crdVa l i))

/-- Word i of a B level whose row ends at bit index `top`, with its prefix entry. -/
def bWord (w : Who) (d : SDesc) (l top i : Nat) : Eng (Nat × Nat) :=
  (readBits w d l i).andThen fun v => (readPos w d l i).andThen fun a => (readPos w d l (i + 1)).andThen fun b =>
    if top < 64 * (i + 1) ∧ 64 * i < top ∧ 2 ^ (top - 64 * i) ≤ v then Eng.fail (.sparse 3 l i (d.wordVa l i))
    else if b ≠ a + popcount v 64 then Eng.fail (.sparse 4 l i (d.posVa l i))
    else Eng.ret (v, a)

/-- The first set bit from bit index b on, at most n words further. -/
def bScan (w : Who) (d : SDesc) (s : Stream) : Nat → Nat → Eng Stream
  | 0, _ => s.toEnd
  | n + 1, b =>
    let top := s.end_.toNat
    if top ≤ b then s.toEnd
    else (bWord w d s.level top (b / 64)).andThen fun (v, a) =>
      match ((List.range 64).find? fun k => decide (b % 64 ≤ k) && bitAt v k) with
      | some k => Eng.ret { s with
          crd := BitVec.ofNat 32 (b / 64 * 64 + k - (top - s.e)), pos := BitVec.ofNat 64 (a + popcount v k), fpend := false }
      | none => bScan w d s n ((b / 64 + 1) * 64)

/-- Bit index of a coordinate of a B row. -/
def Stream.bitOf (s : Stream) (c : Nat) : Nat := s.end_.toNat - s.e + c

/-- Block of crd entry i, 64-byte-aligned: that of its first byte. -/
def crdBlk (d : SDesc) (l i : Nat) : Nat := d.crdVa l i / 64

/-- The last fibre entry that begins in block k. -/
def crdLast (d : SDesc) (s : Stream) (k : Nat) : Nat :=
  min (s.end_.toNat - 1) ((64 * k + 63 - d.crdVa s.level 0) / d.crdBytes s.level)

/-- The first entry of the fibre in block k, at or after the stream's. -/
def crdFirst (d : SDesc) (s : Stream) (k : Nat) : Nat :=
  let n := d.crdBytes s.level
  max s.pos.toNat ((64 * k - d.crdVa s.level 0 + n - 1) / n)

/-- Entry i of the fibre, of a block that the fetcher holds. -/
def Stream.heldAt (s : Stream) (i : Nat) : Option Nat := s.held.findSome? fun b => if b.1 ≤ i then b.2[i - b.1]? else none

/-- Entry i of the fibre, in range: from a block that the fetcher holds, or its block is read (R334, R335). -/
def crdGet (w : Who) (d : SDesc) (s : Stream) (i : Nat) : Eng (Nat × Stream) :=
  let l := s.level
  let lo := crdFirst d s (crdBlk d l i)
  let hi := crdLast d s (crdBlk d l i)
  (match s.heldAt i with
    | some c => Eng.ret (c, s)
    | none =>
      if i < lo ∨ hi < i then (readCrd w d l i).andThen fun c => Eng.ret (c, s)
      else (readBytes w (d.crdVa l lo) ((hi + 1 - lo) * d.crdBytes l)).andThen fun b =>
        let es := splitNums (d.crdBytes l) b
        Eng.ret (es.getD (i - lo) 0, { s with held := s.held ++ [(lo, es)] })).andThen fun r =>
    if d.extent l ≤ r.1 then Eng.fail (.sparse 3 l i (d.crdVa l i)) else Eng.ret r

/-- The stream at entry i with coordinate c: the fetcher holds its block and the one behind it. -/
def Stream.moveTo (s : Stream) (d : SDesc) (i c : Nat) : Stream :=
  let k := crdBlk d s.level i
  { s with
    pos := BitVec.ofNat 64 i, crd := BitVec.ofNat 32 c, fpend := false
    held := s.held.filter fun b => crdBlk d s.level b.1 == k || crdBlk d s.level b.1 == k + 1 }

/-- Opening level l of a descriptor for a parent position (R332): the stream and the fibre's length. -/
def lvOpen (w : Who) (d : SDesc) (l p : Nat) : Eng (Stream × Nat) :=
  let e := d.extent l
  let s : Stream := { desc := d.addr, level := l, kind := d.kind l + 1, d := some d }
  let empty := fun (s : Stream) => ({ s with atEnd := true, crd := 0xFFFFFFFF } : Stream)
  match d.kind l with
  | 0 =>
    let s := { s with pos := BitVec.ofNat 64 (p * e), end_ := BitVec.ofNat 64 (p * e + e) }
    Eng.ret (if e = 0 then empty s else s, e)
  | 1 => (readPosPair w d l p).andThen fun (a, b) =>
    let s := { s with pos := BitVec.ofNat 64 a, end_ := BitVec.ofNat 64 b }
    if a = b then Eng.ret (empty s, 0)
    else (crdGet w d s a).andThen fun r => Eng.ret (r.2.moveTo d a r.1, b - a)
  | 2 =>
    let n := (e + 63) / 64
    (readPos w d l (p * n)).andThen fun a => (readPos w d l ((p + 1) * n)).andThen fun b =>
      let s := { s with pos := BitVec.ofNat 64 a, end_ := BitVec.ofNat 64 (p * n * 64 + e) }
      let len := (b + 2 ^ 64 - a) % 2 ^ 64
      if len = 0 then Eng.ret (empty s, 0)
      else (bScan w d s (n + 1) (p * n * 64)).andThen fun s => Eng.ret (s, len)
  | _ => (crdAt w d l p).andThen fun c =>
    Eng.ret ({ s with pos := BitVec.ofNat 64 p, end_ := BitVec.ofNat 64 (p + 1), crd := BitVec.ofNat 32 c }, 1)

/-- The next entry of a level stream, or its end (R333). -/
def lvNext (w : Who) (s : Stream) : Eng Stream := match s.d with
  | none => Eng.ret s
  | some d => match s.kind with
    | 1 => if s.end_.toNat ≤ s.pos.toNat + 1 then s.toEnd else Eng.ret { s with pos := s.pos + 1, crd := s.crd + 1 }
    | 2 =>
      let i := s.pos.toNat + 1
      if s.end_.toNat ≤ i then s.toEnd
      else (crdGet w d s i).andThen fun r => (crdAfter d s.level i s.crd.toNat r.1).andThen fun _ => Eng.ret (r.2.moveTo d i r.1)
    | 3 => bScan w d s ((s.e + 63) / 64 + 1) (s.bitOf (s.crd.toNat + 1))
    | _ => s.toEnd

/-- Gallop: the last block below and the block probed whose Last is at least t, or the fibre's last block (R334). -/
def gallop (w : Who) (d : SDesc) (k top t : Nat) : Nat → Nat → Nat → Stream → Eng ((Nat × Nat) × Stream)
  | 0, lo, _, s => Eng.ret ((lo, top), s)
  | n + 1, lo, step, s =>
    let hi := min (k + step) top
    (crdGet w d s (crdLast d s hi)).andThen fun r =>
      if t ≤ r.1 ∨ hi = top then Eng.ret ((lo, hi), r.2) else gallop w d k top t n hi (2 * step) r.2

/-- The first block in lo … hi with Last at least t, by binary search; that of hi is known to be. -/
def blockFind (w : Who) (d : SDesc) (t : Nat) : Nat → Nat → Nat → Stream → Eng (Nat × Stream)
  | 0, _, hi, s => Eng.ret (hi, s)
  | n + 1, lo, hi, s =>
    if hi ≤ lo then Eng.ret (hi, s)
    else
      let m := (lo + hi) / 2
      (crdGet w d s (crdLast d s m)).andThen fun r =>
        if t ≤ r.1 then blockFind w d t n lo m r.2 else blockFind w d t n (m + 1) hi r.2

/-- ScanWithin: from entry i to entry `last`, each checked against the one before it that the seek has read. (DEDUCED, log 83) -/
def scanWithin (w : Who) (d : SDesc) (t last : Nat) : Nat → Nat → Option Nat → Stream → Eng Stream
  | 0, _, _, s => s.toEnd
  | n + 1, i, prev, s =>
    if last < i then s.toEnd
    else (crdGet w d s i).andThen fun r =>
      (match prev with
        | some p => crdAfter d s.level i p r.1
        | none => Eng.ret ()).andThen fun _ =>
        if t ≤ r.1 then Eng.ret (r.2.moveTo d i r.1) else scanWithin w d t last n (i + 1) (some r.1) r.2

/-- SeekC (R334). Of a block behind the current one the search has read the last entry of the block before it. -/
def seekC (w : Who) (d : SDesc) (s : Stream) (t : Nat) : Eng Stream :=
  let k := crdBlk d s.level s.pos.toNat
  let top := crdBlk d s.level (s.end_.toNat - 1)
  let scan := fun (b : Nat) (s : Stream) =>
    let i := crdFirst d s b
    scanWithin w d t (crdLast d s b) 65 i (if b = k then none else s.heldAt (i - 1)) s
  (crdGet w d s (crdLast d s k)).andThen fun c =>
    if t ≤ c.1 then scan k c.2
    else (gallop w d k top t 64 k 1 c.2).andThen fun g =>
      (crdGet w d g.2 (crdLast d g.2 g.1.2)).andThen fun z =>
        if z.1 < t then s.toEnd else (blockFind w d t 64 (g.1.1 + 1) g.1.2 z.2).andThen fun f => scan f.1 f.2

/-- The words of a B row from word i to word n more, each checked. -/
def bWords (w : Who) (d : SDesc) (s : Stream) (i n : Nat) : Eng Unit :=
  Eng.forAll (fun k => (bWord w d s.level s.end_.toNat (i + k)).andThen fun _ => Eng.ret ()) (List.range n)

/-- Moving a level stream forward to the first coordinate at or above t (R334). -/
def lvSeek (w : Who) (s : Stream) (t : Nat) : Eng Stream := match s.d with
  | none => Eng.ret s
  | some d => match s.kind with
    | 1 => if s.e ≤ t then s.toEnd else Eng.ret { s with pos := s.pos + BitVec.ofNat 64 (t - s.crd.toNat), crd := BitVec.ofNat 32 t }
    | 2 => seekC w d s t
    | 3 =>
      let b := s.bitOf s.crd.toNat
      let z := s.bitOf (min t s.e)
      (bWords w d s (b / 64) (z / 64 - b / 64)).andThen fun _ =>
        if s.e ≤ t then s.toEnd else bScan w d s ((s.e + 63) / 64 + 1) z
    | _ => s.toEnd

/-! ### Combinations and closing (R336 to R338) -/

/-- The loop of an intersection: the operand with the lower coordinate seeks the other's. -/
def isectLoop (seek : Nat → Nat → Streams → SqE Streams) (a b : Nat) : Nat → Streams → SqE Streams
  | 0, st => SqE.ret st
  | n + 1, st =>
    let x := sAt st a
    let y := sAt st b
    if x.atEnd || y.atEnd || x.crd == y.crd then SqE.ret st
    else if x.crd < y.crd then (seek a y.crd.toNat st).andThen (isectLoop seek a b n)
    else (seek b x.crd.toNat st).andThen (isectLoop seek a b n)

/-- Settle, once the operands of an intersection agree. -/
def settled (q : Nat) (st : Streams) : Streams :=
  let s := sAt st q
  let a := sAt st s.oa
  let b := sAt st s.ob
  if s.kind = 5 then
    let e := a.atEnd || b.atEnd
    st.set q { s with atEnd := e, crd := if e then 0xFFFFFFFF else a.crd, presA := !e, presB := !e }
  else
    let ca := if a.atEnd then 0xFFFFFFFF else a.crd
    let cb := if b.atEnd then 0xFFFFFFFF else b.crd
    let c := if ca ≤ cb then ca else cb
    st.set q { s with crd := c, atEnd := a.atEnd && b.atEnd, presA := !a.atEnd && ca == c, presB := !b.atEnd && cb == c }

/-- Settle (R337). -/
def settleSq (seek : Nat → Nat → Streams → SqE Streams) (q : Nat) (st : Streams) : SqE Streams :=
  let s := sAt st q
  if s.kind = 5 then (isectLoop seek s.oa s.ob (2 ^ 33) st).andThen fun st => SqE.ret (settled q st)
  else SqE.ret (settled q st)

/-- Seek of a stream or a combination, whose operands are at most n deep. -/
def seekSq (w : Who) : Nat → Nat → Nat → Streams → SqE Streams
  | 0, _, _, st => SqE.ret st
  | n + 1, q, t, st =>
    let s := sAt st q
    if s.atEnd || decide (t ≤ s.crd.toNat) then SqE.ret st
    else if s.comb then
      (seekSq w n s.oa t st).andThen fun st => (seekSq w n s.ob t st).andThen fun st => settleSq (seekSq w n) q st
    else (onStream q (lvSeek w s t)).andThen fun s => SqE.ret (st.set q s)

/-- The next entry of a stream or a combination. -/
def nextSq (w : Who) : Nat → Nat → Streams → SqE Streams
  | 0, _, st => SqE.ret st
  | n + 1, q, st =>
    let s := sAt st q
    if s.atEnd then SqE.ret st
    else if s.comb then
      (if s.kind = 5 ∨ s.presA = true then nextSq w n s.oa st else SqE.ret st).andThen fun st =>
        (if s.kind = 5 ∨ s.presB = true then nextSq w n s.ob st else SqE.ret st).andThen fun st => settleSq (seekSq w n) q st
    else (onStream q (lvNext w s)).andThen fun s => SqE.ret (st.set q s)

/-- Depth that no nest of combinations of sixteen streams reaches. -/
def sqDepth : Nat := 17

/-- An operand that its combination lets go. (DEDUCED, log 82) -/
def unbindSq (q : Nat) (st : Streams) : Streams :=
  let s := sAt st q
  if s.kind = 0 then st else st.set q { s with bound := false, pa := if s.comb then s.oa else s.pa, pb := if s.comb then s.ob else s.pb }

/-- Closing a stream (R336), at most n combinations upwards. -/
def closeSq : Nat → Nat → Streams → Streams
  | 0, _, st => st
  | n + 1, q, st =>
    let s := sAt st q
    if s.kind = 0 then st.set q {}
    else
      let st := st.set q {}
      let st := if s.comb then unbindSq s.oa (unbindSq s.ob st) else st
      let m := sAt st s.pa
      if s.bound && m.comb && (m.oa == q || m.ob == q) then closeSq n s.pa st else st

/-- Position of a stream's side (R333): all ones where it has none. -/
def posSq (st : Streams) : Nat → Nat → Bool → Word
  | 0, _, _ => -1
  | n + 1, q, b =>
    let s := sAt st q
    if s.kind = 0 ∨ s.atEnd = true then -1
    else if s.comb then (if (if b then s.presB else s.presA) then posSq st n (if b then s.ob else s.oa) false else -1)
    else if b then -1 else s.pos

/-! ### Issue (R328 to R331) -/

/-- Why a stream instruction does not end normally: an entry of a stream, or a trap. -/
inductive SqBad where
  | entry (q : Nat) (f : Fail)
  | trap (cause status : Nat) (val : Word)
  /-- the instruction's own access to memory, outside the level arrays -/
  | own (f : Fail) (kind : BitVec 4)
deriving DecidableEq, Repr

/-- A stream instruction's work: its streams and its results, for the registers or the predicate. -/
abbrev SqWork := Streams → State → Except SqBad (Streams × Word) × State

/-- (DEDUCED, log 84) -/
def sqLift {α : Type} (m : SqE α) (k : α → State → Except SqBad (Streams × Word) × State) (s : State) : Except SqBad (Streams × Word) × State :=
  match m s with
  | (.ok a, s) => k a s
  | (.error (q, f), s) => (.error (.entry q f), s)

/-- An access that is not performed, for the issuing agent: trap, upcall, or the wait of a fused group. -/
def State.failTrap (s : State) (q : Nat) : Fail → State
  | .stall va reason w => s.unitFault va reason w
  | .err cause status va => s.trapAll cause status (BitVec.ofNat 64 va)
  | .sparse kind level idx _ => s.trapAll cSPARSE kind (sparseVal q level idx)

/-- FPEND of an open stream. -/
def setFpend (q : Nat) (b : Bool) (t : Team) : Team :=
  { t with streams := t.streams.mapIdx fun i s => if i = q ∧ s.kind ≠ 0 then { s with fpend := b } else s }

/-- The fetcher of a stream holds nothing: an entry that was malformed is read again. -/
def dropHeld (q : Nat) (t : Team) : Team :=
  { t with streams := t.streams.mapIdx fun i (s : Stream) => if i = q then { s with held := [] } else s }

/-- The blocks that a stream's fetcher has read ahead. -/
def takeHeld (q : Nat) (h : List (Nat × List Nat)) (t : Team) : Team :=
  { t with streams := t.streams.mapIdx fun i (s : Stream) => if i = q then { s with held := h } else s }

/-- A failed fetch sets FPEND of the stream that it was for, where the instruction does not open it (R330). -/
def State.fetchFailed (s : State) (t : Team) (q : Nat) (opens : Option Nat) : Fail → State
  | .stall _ _ _ => if opens = some q then s else s.modTeam t.cl t.num (setFpend q true)
  | .err _ _ _ => if opens = some q then s else s.modTeam t.cl t.num (setFpend q true)
  | .sparse _ _ _ _ => s.modTeam t.cl t.num (dropHeld q)

/-- The descriptor at an address as it stands, where it can be read. -/
def State.descNow (s : State) (w : Who) (va : Nat) : Option SDesc := match (readBytes w va 128 s).1 with
  | .ok b => some (parseDesc va b)
  | .error _ => none

/-- The fields that a stream needs (R326). -/
def SDesc.streamFields (d : SDesc) : SDesc := { d with vtype := 0, gen := 0, val := 0, nnz := 0 }

/-- The descriptor of stream q, or of an operand of it, has been changed while it is open: its results are unpredictable (R10, R326). (DESIGN CHOICE, log 141) -/
def State.changed (s : State) (w : Who) (st : Streams) : Nat → Nat → Bool
  | 0, _ => false
  | n + 1, q =>
    let x := sAt st q
    if x.comb then s.changed w st n x.oa || s.changed w st n x.ob
    else match x.d.bind fun d => (s.descNow w d.addr).map fun e => d.streamFields != e.streamFields with
      | some b => b && x.kind != 0
      | none => false

/-- A result of stream q: a free value of its width where the stream's descriptor has been changed (R326). -/
def State.orFree (s : State) (c : Ctx) (st : Streams) (q bits : Nat) (v : Word) : Word × State :=
  if s.changed (whoOf c) st sqDepth q then
    let (f, s) := s.freshFree
    (BitVec.ofNat 64 (f.toNat % 2 ^ bits), s)
  else (v, s)

/-- The streams that an instruction has opened or moved are its group's from now on (R327). -/
def Streams.ofGroup (b : Behalf) (old new : Streams) : Streams :=
  new.mapIdx fun i x => if x = sAt old i ∨ x.kind = 0 then x else { x with agent := some b }

/-- A stream instruction of the issuing agent, which has passed the checks of the encoding: ROLE, then its work on the team's registers. (DEDUCED, log 83) -/
def State.sqRun (s : State) (c : Ctx) (t : Team) (opens : Option Nat) (work : SqWork) (done : Word → State → State) : State :=
  if lacks c 0 then s.trapOpen cROLE
  else match c.pageNomem with
    | some va => s.pageNomemTrap va
    | none => match work t.streams (s.drainGroup s.cur) with
      | (.ok (st, v), s) => done v (s.modTeam t.cl t.num fun x => { x with streams := Streams.ofGroup (s.behalf c) t.streams st })
      | (.error (.trap cause status val), s) => s.trapAll cause status val
      | (.error (.entry q f), s) => (s.fetchFailed t q opens f).failTrap q f
      | (.error (.own (.stall va reason _) kind), s) => s.pageTrap va reason kind
      | (.error (.own (.err cause status va) _), s) => s.trapAll cause status (BitVec.ofNat 64 va)
      | (.error (.own (.sparse kind level idx _) _), s) => s.trapAll cSPARSE kind (sparseVal 0 level idx)

/-- A stream instruction on qN: a number at or beyond the team's count raises ILLEGAL (R181, R329). -/
def sqOp (s : State) (n : Nat) (opens : Option Nat) (work : Ctx → SqWork) (done : Word → State → State) : Result :=
  onCtx s fun c => match (s.teamOf s.cur).filter fun t => decide (n < t.streams.length) with
    | none => s.trapOpen cILLEGAL
    | some t => s.sqRun c t opens (work c) done

/-- A trap of step 3. -/
def sqErr (v : Word) : Except SqBad (Streams × Word) := .error (.trap cENGINE_ERR 0 v)

/-- The stream may be moved: open, and no operand of a combination (R333). -/
def sqMovable (st : Streams) (n : Nat) : Bool := (sAt st n).kind != 0 && !(sAt st n).bound

/-- The operand of the lowest active lane. -/
def State.opnd (s : State) (r : Reg) : Word := s.rg (s.lowest s.cur) r

/-- Reading the descriptor that an instruction names, for stream q and level l. -/
def sqDesc (w : Who) (q l va : Nat) (k : SDesc → State → Except SqBad (Streams × Word) × State) : State → Except SqBad (Streams × Word) × State :=
  fun s => match readDesc w va s with
    | (.ok d, s) => k d s
    | (.error (.sparse kind _ i va), s) => (.error (.entry q (.sparse kind l i va)), s)
    | (.error (.stall va r w), s) => (.error (.entry q (.stall va r w)), s)
    | (.error (.err c st va), s) => (.error (.entry q (.err c st va)), s)

def execSqOpen (sm : Bool) (a b d : Reg) (n : Fin 16) (s : State) : Result :=
  sqOp s n.val (some n.val) (fun c st s =>
    let ga := s.opnd a
    let gb := s.opnd b
    let l := wfld ga 56 2
    let w := whoOf c
    if wfld ga 0 6 ≠ 0 ∨ wfld ga 58 6 ≠ 0 then (sqErr ga, s)
    else sqDesc w n.val l (wfld ga 0 56) (fun x s =>
      if x.nlvl ≤ l then (sqErr ga, s)
      else if l = 0 ∧ gb ≠ 0 then (sqErr gb, s)
      else sqLift (onStream n.val (lvOpen w x l gb.toNat)) (fun r s =>
        (.ok ((closeSq sqDepth n.val st).set n.val r.1, BitVec.ofNat 64 r.2), s)) s) s)
    fun v s => s.longOnce sm d v

def execSqNext (sm : Bool) (n : Fin 16) (s : State) : Result :=
  sqOp s n.val none (fun c st s =>
    if sqMovable st n.val then sqLift (nextSq (whoOf c) sqDepth n.val st) (fun st s => (.ok (st, 0), s)) s
    else (sqErr (BitVec.ofNat 64 n.val), s))
    fun _ s => s.retire sm

def execSqEnd (sm : Bool) (m : PReg) (n : Fin 16) (s : State) : Result :=
  sqOp s n.val none (fun c st s =>
    let q := sAt st n.val
    let (v, s) := s.orFree c st n.val 1 (if q.kind = 0 ∨ q.atEnd = true then 1 else 0)
    (.ok (st, v), s))
    fun v s => s.longP sm m fun _ => decide (v ≠ 0)

def execSqCrd (sm : Bool) (d : Reg) (n : Fin 16) (s : State) : Result :=
  sqOp s n.val none (fun c st s =>
    let q := sAt st n.val
    let (v, s) := s.orFree c st n.val 32 (if q.kind = 0 then 0xFFFFFFFF else q.crd.setWidth 64)
    (.ok (st, v), s))
    fun v s => s.longOnce sm d v

/-- `sq.pos.b` is ILLEGAL on a level stream. -/
def execSqPos (sm : Bool) (d : Reg) (n : Fin 16) (p : Bool) (s : State) : Result :=
  onCtx s fun c => match (s.teamOf s.cur).filter fun t => decide (n.val < t.streams.length) with
    | none => s.trapOpen cILLEGAL
    | some t =>
      let q := sAt t.streams n.val
      if p && q.kind != 0 && !q.comb then s.trapOpen cILLEGAL
      else s.sqRun c t none (fun st s =>
        let (v, s) := s.orFree c st n.val 64 (posSq st sqDepth n.val p)
        (.ok (st, v), s)) fun v s => s.longOnce sm d v

def execSqSeek (sm : Bool) (a : Reg) (n : Fin 16) (s : State) : Result :=
  sqOp s n.val none (fun c st s =>
    let ga := s.opnd a
    if wfld ga 32 32 ≠ 0 then (sqErr ga, s)
    else if !(sqMovable st n.val) || !(sAt st n.val).ordered then (sqErr (BitVec.ofNat 64 n.val), s)
    else sqLift (seekSq (whoOf c) sqDepth n.val ga.toNat st) (fun st s => (.ok (st, 0), s)) s)
    fun _ s => s.retire sm

/-- Operand o of a combination conflicts: closed, bound, or not over an ordered unique level (R337). -/
def sqConflict (st : Streams) (o : Nat) : Bool := !(sqMovable st o) || !(sAt st o).ordUnq

/-- Binding two streams into qN, and settling it. (DEDUCED, log 82) -/
def sqBind (w : Who) (kind n a b : Nat) (st : Streams) (s : State) : Except SqBad (Streams × Word) × State :=
  let num := fun (k : Nat) => BitVec.ofNat 64 k
  if n = a ∨ n = b ∨ a = b then (sqErr (num n), s)
  else if sqConflict st a then (sqErr (num a), s)
  else if sqConflict st b then (sqErr (num b), s)
  else
    let st := closeSq sqDepth n st
    if (sAt st a).kind = 0 then (sqErr (num a), s)
    else if (sAt st b).kind = 0 then (sqErr (num b), s)
    else
      let st := st.set n { kind := kind, pa := a, pb := b, oa := a, ob := b }
      let st := st.set a { sAt st a with bound := true, pa := n, pb := b }
      let st := st.set b { sAt st b with bound := true, pa := n, pb := a }
      sqLift (settleSq (seekSq w sqDepth) n st) (fun st s => (.ok (st, 0), s)) s

/-- `sq.isect` and `sq.union`: all three numbers are the team's (R329). -/
def sqCombine (s : State) (sm : Bool) (kind : Nat) (x y n : Fin 16) : Result :=
  sqOp s (max n.val (max x.val y.val)) none (fun c st s => sqBind (whoOf c) kind n.val x.val y.val st s) fun _ s => s.retire sm

def execSqIsect (sm : Bool) (x y n : Fin 16) (s : State) : Result := sqCombine s sm 5 x y n
def execSqUnion (sm : Bool) (x y n : Fin 16) (s : State) : Result := sqCombine s sm 6 x y n

def execSqClose (sm : Bool) (n : Fin 16) (s : State) : Result :=
  sqOp s n.val none (fun _ st s => (.ok (closeSq sqDepth n.val st, 0), s)) fun _ s => s.retire sm

/-! ### Draining (R339) -/

/-- An entry that is drained: coordinate and the two positions. -/
abbrev SqEntry := BitVec 32 × Word × Word

/-- Up to n entries, each together with the advance past it; a failed fetch ends the drain where an entry has been written. -/
def drainSq (w : Who) (q : Nat) (wide : Bool) : Nat → Bool → Streams → SqE (List SqEntry × Streams × Option (Nat × Fail))
  | 0, _, st => SqE.ret ([], st, none)
  | n + 1, some_, st =>
    let s := sAt st q
    let a := posSq st sqDepth q false
    let b := posSq st sqDepth q true
    let big := fun (v : Word) => v != -1 && decide (2 ^ 32 ≤ v.toNat)
    if s.atEnd || (!wide && (big a || big b)) then SqE.ret ([], st, none)
    else fun t => match nextSq w sqDepth q st t with
      | (.ok st', t) => (drainSq w q wide n true st').andThen (fun r => SqE.ret ((s.crd, a, b) :: r.1, r.2)) t
      | (.error (k, .sparse x y z v), t) => (.error (k, .sparse x y z v), t)
      | (.error (k, f), t) => if some_ then (.ok ([], st, some (k, f)), t) else (.error (k, f), t)

/-- STATUS of the PROTECTION that an array address raises; none where its n bytes lie in the team's own allocation through W0. -/
def State.ownBad (s : State) (c : Ctx) (t : Team) (va n : Nat) : Option Nat :=
  if 2 ^ 56 ≤ va then some 0
  else match regionOf va with
    | .paged => some 0
    | .vreg => some 0
    | .unassigned => some 0
    | .lsAny | .lsOwn => match s.lsAt (whoOf c) va with
      | .error st => some st
      | .ok l => if l.win ≠ 0 then some 0 else if l.cl ≠ t.cl ∨ l.base ≠ t.lsBase ∨ t.lsSize < l.off + n then some 3 else none

/-- Writing bytes of the team's own allocation, at a VA that has been checked. -/
def State.ownPut (s : State) (c : Ctx) (va : Nat) (b : List Byte) : State := match s.lsAt (whoOf c) va with
  | .ok l => s.placeWrite (some s.cur) (.ls l.cl l.phys) b
  | .error _ => s

/-- What an `sq.drain` writes: up to k entries of free values where the stream's descriptor has been changed (R326). -/
def State.drainedEntries (s : State) (c : Ctx) (st : Streams) (q k : Nat) (es : List SqEntry) : List SqEntry × State :=
  if s.changed (whoOf c) st sqDepth q then
    let (f, s) := s.freshFree
    let m := f.toNat % (k + 1)
    let (l, s) := s.freeCodes 64 (3 * m)
    ((List.range m).map fun i => (BitVec.ofNat 32 (l.getD (3 * i) 0), BitVec.ofNat 64 (l.getD (3 * i + 1) 0), BitVec.ofNat 64 (l.getD (3 * i + 2) 0)), s)
  else (es, s)

def execSqDrain (sm : Bool) (a b d : Reg) (n : Fin 16) (w : Bool) (s : State) : Result :=
  sqOp s n.val none (fun c st s =>
    let ga := s.opnd a
    let gb := s.opnd b
    let k := wfld gb 0 13
    let va := ga.toNat
    let pw := if w then 8 else 4
    if wfld gb 13 51 ≠ 0 ∨ 4096 < k then (sqErr gb, s)
    else if !(sqMovable st n.val) then (sqErr (BitVec.ofNat 64 n.val), s)
    else match (match s.teamOf s.cur with
        | some t => s.ownBad c t va ((4 + 2 * pw + (if w then 4 else 0)) * k)
        | none => some 3) with
      | some x => (.error (.trap cPROTECTION x ga), s)
      | none =>
        if va % 8 ≠ 0 then (.error (.trap cMISALIGN 0 ga), s)
        else sqLift (drainSq (whoOf c) n.val w k false st) (fun r s =>
          let (es, s) := s.drainedEntries c st n.val k r.1
          let st := match r.2.2 with
            | some (q, _) => r.2.1.mapIdx fun i (x : Stream) => if i = q ∧ x.kind ≠ 0 then { x with fpend := true } else x
            | none => r.2.1
          let s := s.settleOwnLs s.cur
          let s := s.ownPut c va (es.flatMap fun e => leBytes 4 e.1.toNat)
          let s := s.ownPut c (va + pw * k) (es.flatMap fun e => leBytes pw e.2.1.toNat)
          let s := s.ownPut c (va + 2 * pw * k) (es.flatMap fun e => leBytes pw e.2.2.toNat)
          (.ok (st, BitVec.ofNat 64 es.length), s)) s)
    fun v s => s.longOnce sm d v

/-! ### Partitioning, saving and restoring (R340 to R342) -/

def execSqPart (sm : Bool) (a b d : Reg) (s : State) : Result :=
  onCtx s fun c =>
    let ga := s.opnd a
    let gb := s.opnd b
    let l := wfld ga 56 2
    let n := wfld gb 0 16
    let r := wfld gb 16 16
    if lacks c 0 then s.trapOpen cROLE
    else match c.pageNomem with
      | some va => s.pageNomemTrap va
      | none =>
        if wfld ga 0 6 ≠ 0 ∨ wfld ga 58 6 ≠ 0 then s.trapAll cENGINE_ERR 0 ga
        else if wfld gb 32 32 ≠ 0 ∨ n = 0 ∨ n < r then s.trapAll cENGINE_ERR 0 gb
        else match readDesc (whoOf c) (wfld ga 0 56) (s.drainGroup s.cur) with
          | (.error (.sparse k _ i va), s) => s.failTrap 0 (.sparse k l i va)
          | (.error (.stall va x y), s) => s.failTrap 0 (.stall va x y)
          | (.error (.err x y va), s) => s.failTrap 0 (.err x y va)
          | (.ok x, s) =>
            if x.nlvl ≤ l ∨ x.kind l ≠ 1 ∨ (List.range l).any (fun k => x.kind k != 0) = true then s.trapAll cENGINE_ERR 0 ga
            else match shareBound (whoOf c) x l r n s with
              | (.ok v, s) => s.longOnce sm d (BitVec.ofNat 64 v)
              | (.error f, s) => s.failTrap 0 f

/-- Words of a stream's image (R325). -/
def streamWords (s : Stream) : List Nat :=
  let b := fun (x : Bool) (k : Nat) => if x then 2 ^ k else 0
  [s.desc % 2 ^ 56 + s.level % 4 * 2 ^ 56, s.pos.toNat, s.end_.toNat,
   s.crd.toNat + s.kind % 8 * 2 ^ 32 + s.pa % 16 * 2 ^ 40 + s.pb % 16 * 2 ^ 44 + b s.atEnd 48 + b s.fpend 49 + b s.bound 50 + b s.presA 51 +
     b s.presB 52]

/-- The stream of an image. -/
def imageStream (i : List Byte) : Stream :=
  let z := blkNum i 24 8
  { desc := blkNum i 0 8 % 2 ^ 56, level := blkNum i 0 8 / 2 ^ 56 % 4, pos := BitVec.ofNat 64 (blkNum i 8 8), end_ := BitVec.ofNat 64 (blkNum i 16 8)
    crd := BitVec.ofNat 32 z, kind := fld z 32 3, pa := fld z 40 4, pb := fld z 44 4, oa := fld z 40 4, ob := fld z 44 4, atEnd := bitAt z 48
    fpend := bitAt z 49, bound := bitAt z 50, presA := bitAt z 51, presB := bitAt z 52 }

/-- A reserved bit of an image, or KIND 7. -/
def imageBad (i : List Byte) : Bool :=
  let z := blkNum i 24 8
  blkNum i 0 8 / 2 ^ 58 != 0 || fld z 35 5 != 0 || z / 2 ^ 53 != 0 || fld z 32 3 == 7

/-- The address of an image: paged memory or LS through W0, a multiple of 32 (R341). -/
def imageAddr (va : Nat) : Option SqBad :=
  let v := BitVec.ofNat 64 va
  if 2 ^ 56 ≤ va ∨ regionOf va = .vreg ∨ regionOf va = .unassigned then some (.trap cPROTECTION 0 v)
  else if va % 32 ≠ 0 then some (.trap cMISALIGN 0 v)
  else if behindWindow va then some (.trap cPROTECTION 0 v)
  else none

/-- Bytes that the group writes itself: its banks keep no other copy of them. -/
def State.dropOwn (s : State) (agent : CtxId) (va n : Nat) : State :=
  { s with l1 := s.l1.filter fun l => !(s.bankLine agent l && decide (va < 64 * l.line + 64 ∧ 64 * l.line < va + n)) }

def execSqSave (sm : Bool) (a : Reg) (n : Fin 16) (s : State) : Result :=
  sqOp s n.val none (fun c st s =>
    let va := (s.opnd a).toNat
    match imageAddr va with
    | some e => (.error e, s)
    | none =>
      let x := sAt st n.val
      let (p, s) := s.orFree c st n.val 64 x.pos
      let (q, s) := s.orFree c st n.val 32 (x.crd.setWidth 64)
      match s.engWrite (whoOf c) (some s.cur) va ((streamWords { x with pos := p, crd := q.setWidth 32 }).flatMap (leBytes 8)) with
      | (.ok _, s) => (.ok (st, 0), s.dropOwn s.cur va 32)
      | (.error f, s) => (.error (.own f 2), s))
    fun _ s => s.retire sm

/-- The image refuses: its descriptor's level and kind, its coordinate, or its operands (R342). -/
def restRefused (st : Streams) (n : Nat) (x : Stream) : Bool :=
  if x.comb then [x.pa, x.pb].any fun o =>
    let y := sAt st o
    y.kind == 0 || !y.bound || y.pa != n
  else match x.d with
    | some d => decide (d.nlvl ≤ x.level) || d.kind x.level + 1 != x.kind || (!x.atEnd && decide (d.extent x.level ≤ x.crd.toNat))
    | none => false

/-- Taking an image: closed as opening afresh, then the image's state. -/
def restTake (st : Streams) (n : Nat) (x : Stream) (ga : Word) : Except SqBad (Streams × Word) :=
  if restRefused st n x then sqErr ga else .ok ((closeSq sqDepth n st).set n x, 0)

def execSqRest (sm : Bool) (a : Reg) (n : Fin 16) (s : State) : Result :=
  sqOp s n.val (some n.val) (fun c st s =>
    let ga := s.opnd a
    let va := ga.toNat
    match imageAddr va with
    | some e => (.error e, s)
    | none => match s.engRead (whoOf c) va 32 with
      | (.error f, s) => (.error (.own f 1), s)
      | (.ok i, s) =>
        let x := imageStream i
        if imageBad i then (sqErr ga, s)
        else if x.kind = 0 ∨ x.comb = true then (restTake st n.val x ga, s)
        else sqDesc (whoOf c) n.val x.level x.desc (fun d s => (restTake st n.val { x with d := some d } ga, s)) s)
    fun _ s => s.retire sm

/-! ### Read-ahead (R327, R330) -/

/-- Reading ahead of the current entry: the blocks that are held then. -/
def sqAhead (w : Who) (q : Stream) : Eng (List (Nat × List Nat)) :=
  match q.d, q.kind with
  | some d, 2 =>
    if q.end_.toNat ≤ q.pos.toNat + 1 then Eng.ret q.held
    else (crdGet w d q (q.pos.toNat + 1)).andThen fun r => Eng.ret r.2.held
  | _, _ => (lvNext w q).andThen fun _ => Eng.ret q.held

/-- The fetcher of stream subj.num of team subj.team has read the entry after the current one, or has failed: FPEND. -/
def execStreamFetchComplete (s : State) : Result := .next (match s.team s.subj.cl s.subj.team with
  | none => s
  | some t => match t.streams[s.subj.num]?, (t.streams[s.subj.num]?).bind Stream.agent with
    | some q, some b =>
      if q.kind = 0 ∨ q.comb = true ∨ q.atEnd = true then s
      else match sqAhead (whoB b) q s with
        | (.ok h, s) => s.modTeam t.cl t.num fun t => takeHeld s.subj.num h (setFpend s.subj.num false t)
        | (.error (.sparse _ _ _ _), s) => s.modTeam t.cl t.num (setFpend s.subj.num false)
        | (.error (.stall _ _ _), s) => s.modTeam t.cl t.num (setFpend s.subj.num true)
        | (.error (.err _ _ _), s) => s.modTeam t.cl t.num (setFpend s.subj.num true)
    | _, _ => s)

end Sys2Proof.Machine
end

