-- ==== Sys2Proof/Machine/Sys.lean ====
section
/-! DEFINITION. Sys2Proof/Machine/Sys.lean: system registers (spec/06 R182, R183; spec/07 R237), window descriptors (R239), system calls and
breakpoints (R240; spec/02 R50, R71), and the return from an upcall (R241; spec/02 R69, R70). -/

namespace Sys2Proof.Machine

/-! ### Access to system registers (R182, R183) -/

/-- Access codes of R5 as R182 uses them. -/
inductive SysAcc where
  | none | ro | rw | w1c
deriving DecidableEq, Repr

/-- The registers of R182: access at user level, and at supervisor and machine level. -/
def sysAccess (n : Nat) : Option (SysAcc × SysAcc) :=
  if n ≤ 0x008 ∨ (0x010 ≤ n ∧ n ≤ 0x012) then some (.ro, .ro)
  else if n = 0x020 then some (.rw, .rw)
  else if n = 0x021 then some (.ro, .ro)
  else if n = 0x022 ∨ n = 0x023 then some (.ro, .rw)
  else if (0x030 ≤ n ∧ n ≤ 0x034) ∨ (0x039 ≤ n ∧ n ≤ 0x03C) then some (.none, .rw)
  else if 0x040 ≤ n ∧ n ≤ 0x044 then some (.rw, .rw)
  else if n = 0x045 ∨ n = 0x051 then some (.w1c, .w1c)
  else if n = 0x050 ∨ n = 0x052 ∨ (0x060 ≤ n ∧ n ≤ 0x067) ∨ n = 0x070 ∨ (0x078 ≤ n ∧ n ≤ 0x07F) then some (.ro, .ro)
  else none

/-- The access of a context to a register. -/
def sysAccOf (c : Ctx) (n : Nat) : Option SysAcc :=
  (sysAccess n).map fun a => if c.priv = .user then a.1 else a.2

/-- BOOTSTAT (R474). -/
def bootstat (b : Boot) : Word :=
  BitVec.ofNat 64 (b.phase % 16 + b.fails % 4 * 2 ^ 4 + (if b.minimal then 2 ^ 6 else 0) + (if b.leader then 2 ^ 7 else 0) +
    b.reason % 256 * 2 ^ 8 + b.n % 2048 * 2 ^ 16 + b.silent % 32 * 2 ^ 27)

/-- The banked register of a number from its bank's first: EPC, ECAUSE, EVAL, ESTAT. -/
def Bank.reg (b : Bank) (i : Nat) : Word := match i with
  | 0 => b.epc
  | 1 => b.ecause
  | 2 => b.eval
  | _ => b.estat

/-- Writing it: CAUSE and STATUS of ECAUSE, and PPRIV and GRPTRAP of ESTAT, take what is written; RO fields keep theirs and RSV read as
zero (R183, R383). -/
def Bank.put (b : Bank) (i : Nat) (v : Word) : Bank := match i with
  | 0 => { b with epc := v }
  | 1 => { b with ecause := v &&& 0xFFF }
  | 2 => { b with eval := v }
  | _ => { b with estat := (b.estat &&& 0xFF8) ||| (v &&& 7) }

/-- LM of the context's group (R182). -/
def State.lmOf (s : State) (id : CtxId) : BitVec 16 := match s.groupOf id with
  | some g => g.lm
  | none => laneBit (s.ctx id).lane

/-- The value that `rdsys` of register n gives a lane at issue (R182, R183); `f` is what a register of the team reads in a context that has no
team, for which nothing is stated, and `t` the cluster's copy of GTIME. (DEDUCED, log 18) -/
def State.sysVal (s : State) (lane : CtxId) (n : Nat) (f : Word) (t : Nat) : Word :=
  let c := s.ctx lane
  let l := s.ctx (s.leader lane)
  let team := fun (g : Team → Nat) => match s.teamOf lane with
    | some t => BitVec.ofNat 64 (g t)
    | none => f
  match n with
  | 0x000 => BitVec.ofNat 64 c.lane
  | 0x001 => BitVec.ofNat 64 (2 ^ s.wlog lane)
  | 0x002 => BitVec.ofNat 64 lane.pipe
  | 0x003 => BitVec.ofNat 64 lane.slot
  | 0x004 => BitVec.ofNat 64 (s.logical lane.cl)
  | 0x005 => team Team.num
  | 0x006 => team Team.trank
  | 0x007 => team Team.gsize
  | 0x008 => (s.lmOf lane).setWidth 64
  | 0x010 => BitVec.ofNat 64 t
  | 0x011 => BitVec.ofNat 64 (s.cycle lane.cl)
  | 0x012 => BitVec.ofNat 64 (s.cluster lane.cl).step
  | 0x020 => c.mode
  | 0x021 => BitVec.ofNat 64 (privNum c.priv)
  | 0x022 => c.domain.setWidth 64
  | 0x023 => BitVec.ofNat 64 c.tl
  | 0x030 => c.tvec
  | 0x040 => c.upvec
  | 0x041 => c.epcu
  | 0x042 => c.ecauseu
  | 0x043 => c.evalu
  | 0x044 => c.uptok.setWidth 64
  | 0x045 => c.notice
  | 0x050 => l.arrived
  | 0x051 => l.errtags
  | 0x052 => s.ocnt (s.leader lane)
  | 0x070 => bootstat s.boot
  | n =>
    if 0x031 ≤ n ∧ n ≤ 0x034 then c.b1.reg (n - 0x031)
    else if 0x039 ≤ n ∧ n ≤ 0x03C then c.b2.reg (n - 0x039)
    else if 0x060 ≤ n ∧ n ≤ 0x067 then match s.teamOf lane with
      | some t => wdAt t.wds (n - 0x060)
      | none => f
    else (s.meas[n - 0x078]?).getD 0

/-- Writing register n of a lane, where the access is allowed (R183). ERRTAGS is the leader's. -/
def State.sysPut (s : State) (lane : CtxId) (n : Nat) (v : Word) : State :=
  if n = 0x051 then s.modCtx (s.leader lane) fun c => { c with errtags := c.errtags &&& ~~~v }
  else s.modCtx lane fun c => match n with
    | 0x020 => { c with mode := v &&& 7 }
    | 0x022 => { c with domain := v.setWidth 12 }
    | 0x023 => { c with tl := v.toNat }
    | 0x030 => { c with tvec := v &&& 0x00FFFFFFFFFF0000 }
    | 0x040 => { c with upvec := v }
    | 0x041 => { c with epcu := v }
    | 0x042 => { c with ecauseu := v &&& 0xFFF }
    | 0x043 => { c with evalu := v }
    | 0x044 => { c with uptok := v.setWidth 6 }
    | 0x045 => { c with notice := c.notice &&& ~~~v }
    | n => if 0x031 ≤ n ∧ n ≤ 0x034 then { c with b1 := c.b1.put (n - 0x031) v }
      else if 0x039 ≤ n ∧ n ≤ 0x03C then { c with b2 := c.b2.put (n - 0x039) v }
      else c

/-- The cause that a read of register n raises in a context (R183). -/
def sysReadTrap (c : Ctx) (n : Nat) : Option Nat := match sysAccOf c n with
  | none => some cILLEGAL
  | some .none => some cPRIV
  | some .ro => none
  | some .rw => none
  | some .w1c => none

/-- The cause that a write of v raises (R183). A register that is RO is one that a higher level may write, or one that none may. The level is looked
at before TL's value. (DESIGN CHOICE, log 156) -/
def sysWriteTrap (c : Ctx) (n : Nat) (v : Word) : Option Nat := match sysAccOf c n with
  | none => some cILLEGAL
  | some .none => some cPRIV
  | some .ro => if (sysAccess n).map Prod.snd = some .rw then some cPRIV else some cILLEGAL
  | some .rw => if n = 0x023 ∧ 2 < v.toNat then some cILLEGAL else none
  | some .w1c => none

def execRdsys (sm : Bool) (d : Reg) (r : BitVec 12) (s : State) : Result :=
  onCtx s fun _ =>
    let n := r.toNat
    let ls := s.lanes s.cur
    let bad := fun i => sysReadTrap (s.ctx i) n
    let (f, s) := s.freshFree
    let (t, s) := if n = 0x010 then s.readGtime s.cur.cl else (0, s)
    let vals := (ls.filter fun i => (bad i).isNone).map fun i => (i, s.sysVal i n f t)
    if ls.all fun i => (bad i).isNone then (s.addLongs d vals).retire sm
    else
      let (hits, s) := s.causeHits bad ls
      (s.addLongs d vals).trapSome hits sm

def execWrsys (sm : Bool) (a : Reg) (r : BitVec 12) (s : State) : Result :=
  onCtx s fun _ =>
    let n := r.toNat
    let ls := s.lanes s.cur
    let v := fun i => s.rg i a
    let bad := fun i => sysWriteTrap (s.ctx i) n (v i)
    let done := (ls.filter fun i => (bad i).isNone).foldl (fun (s : State) i => s.sysPut i n (v i)) s
    if ls.all fun i => (bad i).isNone then done.retire sm
    else
      let (hits, s) := done.causeHits bad ls
      s.trapSome hits sm

/-! ### System calls and breakpoints (R50, R71, R240) -/

/-- `ecall` (R50, R71): a single lane traps; a fused group with every member active and no entry on its stack traps in its leader alone, the
other lanes Held, also where the base lane has exited, whose slot keeps the group's state (R44); every other active mask is SYSCALL_DIVERGENT. Where a
deferred poison trap of a lane is taken in its place, the group splits, and the other lanes stay at the `ecall` (R49, R384). (DEDUCED, log 43; DESIGN CHOICE, log 149) -/
def execEcall (_sm : Bool) (s : State) : Result :=
  onCtx s fun c => match s.groupOf s.cur with
    | none => s.trapOpen cECALL
    | some g =>
      if g.lm = g.members ∧ g.stack.isEmpty then
        if !(s.poisonHits s.cur).isEmpty then s.hitLanes s.cur (s.poisonHits s.cur) (fun _ => c.pc) false false else
        let (v, s) := (s.setMask g (laneBit 0)).freshFree
        s.takeTrap s.cur cECALL 0 v c.pc true false
      else s.trapOpen cSYSCALL_DIVERGENT

def execEbreak (_sm : Bool) (s : State) : Result := onCtx s fun _ => s.trapOpen cBREAK

/-! ### Return from an upcall (R69, R70, R241) -/

/-- `upret`: UPB is cleared and the instruction at EPCU runs again; the token whose service has ended is free from then on, and after NOMEM the
instruction performs nothing: UPVEC is entered again, or the fault is an ordinary trap where the context takes no upcalls (R68). (DEDUCED, log 12) -/
def execUpret (sm : Bool) (s : State) : Result :=
  onCtx s fun c =>
    if s.isFused s.cur then s.trapOpen cFUSE
    else
      let t := c.uptok.toNat
      let c' := { c with mode := c.mode &&& ~~~4 }
      let pc := instrPc c.epcu
      match c.tokens.find? fun k => decide (k.t = t) with
      | none => (s.setCtx c').advance sm pc
      | some k => match k.status with
        | none => (s.setCtx c').advance sm pc
        | some 0 => (s.setCtx (dropToken t c')).advance sm pc
        | some _ =>
          let s := s.setCtx (dropToken t c')
          let va := BitVec.ofNat 64 k.va
          if c.priv = .user ∧ c.tl = 0 ∧ c.upvec ≠ 0 then s.takeUpcall s.cur t 1 va pc false
          else s.takeTrap s.cur cPAGE_FAULT 1 va pc false false

/-! ### Window descriptors (R112, R120, R239) -/

/-- `wcfg`: once per group, with gA of the lowest active lane; reserved bits read as zero. -/
def execWcfg (sm : Bool) (n : Fin 8) (a : Reg) (s : State) : Result :=
  onCtx s fun _ => match s.teamOf s.cur with
    | none => s.trapOpen cILLEGAL
    | some t =>
      let v := s.rg (s.lowest s.cur) a &&& 0x003FFFFFFFFFFFFF
      (s.modTeam t.cl t.num fun t => { t with wds := t.wds.mapIdx fun i w => if i = n.val then v else w }).retire sm

end Sys2Proof.Machine
end

