-- ==== Sys2Proof/Machine/Privileged.lean ====
section
/-! DEFINITION. Sys2Proof/Machine/Privileged.lean: the privileged instructions (spec/13 R381, R385 to R388, R394, R399 to R407; spec/14 R413, R421 to
R425; spec/16 R462). -/

namespace Sys2Proof.Machine

/-! ### The checks of R407 -/

/-- A privileged instruction of the issuing agent: PRIV in each lane that lacks the privilege, then ILLEGAL for a fused group with several active lanes or where
its fields break its form, then the rest for the one lane that executes it (R381, R407). -/
def privOp (s : State) (machine : Bool) (legal : State → Bool) (k : Ctx → State → State) : Result :=
  onCtx s fun _ =>
    let c := s.ctx (s.lowest s.cur)
    let lacks := fun (i : CtxId) => lacksPriv machine (s.ctx i)
    if (s.lanes s.cur).any lacks then s.trapEachOpen fun i => if lacks i then cPRIV else cILLEGAL
    else if 1 < (s.lanes s.cur).length ∨ legal s = false then s.trapOpen cILLEGAL
    else k c s

/-- MISALIGN at a register's value. -/
def State.misalign (s : State) (v : Word) : State := s.trapAll cMISALIGN 0 v

/-! ### Accesses of a privileged instruction (R388, R400, R484) -/

/-- What a failed access of the instruction does to it. -/
def State.privFail (s : State) (write : Bool) : Fail → State
  | .stall va reason _ => s.pageTrap va reason (if write then 2 else 1)
  | .err cause status va => s.trapAll cause status (BitVec.ofNat 64 va)
  | .sparse _ _ _ va => s.trapAll cPROTECTION 0 (BitVec.ofNat 64 va)

/-- A store of 8 bytes of the instruction's own: to paged memory at its home slice, or to local store as any store goes (R108 to R114). -/
def State.own8 (s : State) (c : Ctx) (va : Nat) (b : List Byte) : Except Fail Unit × State :=
  match regionOf va with
  | .paged => s.engWrite (whoOf c) (some s.cur) va b
  | .lsAny | .lsOwn | .vreg | .unassigned =>
    match s.startStage s.cur c.id (BitVec.ofNat 64 va) (.store 8 (BitVec.ofNat 64 (leNat b)) 0 none) with
    | (.trapped cause st _, s) => (.error (.err cause st va), s)
    | (_, s) => (.ok (), s)

/-- k such stores in ascending address; the first failure ends them, and what was written stays. -/
def State.own8s (s : State) (c : Ctx) (va : Nat) : Nat → List Byte → Except Fail Unit × State
  | 0, _ => (.ok (), s)
  | k + 1, b => match s.own8 c va (b.take 8) with
    | (.error e, s) => (.error e, s)
    | (.ok _, s) => s.own8s c (va + 8) k (b.drop 8)

/-- The instruction's stores: the group's earlier writes come first, the bytes are performed when it ends, in another cluster's local store too, and its L1
keeps no older copy (R142, R400, R484). (DEDUCED, log 46) -/
def State.ownStore (s : State) (c : Ctx) (va : Nat) (b : List Byte) : Except Fail Unit × State :=
  match (s.drainGroup s.cur).own8s c va ((b.length + 7) / 8) b with
  | (r, s) => (r, (s.drainGroup s.cur).dropOwn s.cur va b.length)

/-! ### Return from a trap (R385, R50) -/

def execEret (sm : Bool) (s : State) : Result :=
  privOp s false (fun s => (s.ctx (s.lowest s.cur)).tl != 0) fun c s =>
    let st := (c.bank c.tl).estat
    match privOf (wfld st 0 2) with
    | none => s.trapOpen cPRIV
    | some pp =>
      if privNum c.priv < privNum pp then s.trapOpen cPRIV
      else
        let c' := eretCtx c pp (s.cycle c.id.cl)
        let s := s.setCtx c'
        let s := match s.groupOf s.cur with
          | some g => if wb st 2 ∧ c.id = s.cur ∧ g.lm ≠ g.members then s.setMask { g with stack := [] } g.members else s
          | none => s
        s.advance sm c'.pc

/-! ### The fault and kill queues (R400, R401, R422, R425) -/

/-- The 32 bytes of a fault-queue entry (R422). -/
def faultEntry (f : FaultRec) : List Byte :=
  leBytes 8 (f.va % 2 ^ 56) ++ leBytes 8 f.key.toNat ++ leBytes 8 f.gtime ++ leBytes 1 f.kind.toNat ++ leBytes 1 f.reason ++
    leBytes 2 f.domain.toNat ++ leBytes 2 f.merge ++ leBytes 1 f.priv ++ leBytes 1 0

/-- The 128 bytes of a kill record (R389). -/
def killEntry (k : KillRec) : List Byte := k.words.flatMap fun w => leBytes 8 w.toNat

/-- The oldest entry of a partition's fault queue. -/
def State.faultHead (s : State) (part : Nat) : Option FaultRec := s.faults.find? fun f => decide (f.part = part) && f.queued

/-- The oldest entry of a partition's kill queue. -/
def State.killHead (s : State) (part : Nat) : Option KillRec := s.kills.find? fun k => decide (k.part = part)

/-- The address of a queue's entry names local store through a window other than W0. (DESIGN CHOICE, log 57) -/
def notW0 (va : Nat) : Bool := (regionOf va == .lsAny || regionOf va == .lsOwn) && fld va 20 3 != 0

/-- (DESIGN CHOICE, log 57) -/
def execFqPop (sm : Bool) (d a b : Reg) (s : State) : Result :=
  privOp s false (fun s => decide (wfld (s.opnd b) 2 62 = 0)) fun c s =>
    let va := (s.opnd a).toNat
    let kq := wb (s.opnd b) 0
    let part := (s.partOf s.cur.cl).map Partition.num
    let entry : Option (List Byte) := if kq then (part.bind s.killHead).map killEntry else (part.bind s.faultHead).map faultEntry
    if va % (if kq then 128 else 32) ≠ 0 then s.misalign (s.opnd a)
    else match entry with
      | none => if wb (s.opnd b) 1 then s.waitFor (.queueEntry kq) else s.longOnce sm d 1
      | some bytes =>
        if 2 ^ 56 ≤ va ∨ notW0 va = true then s.trapAll cPROTECTION 0 (s.opnd a)
        else match s.ownStore c va bytes with
          | (.error e, s) => s.privFail true e
          | (.ok _, s) =>
            let ts := match part.bind s.faultHead with
              | some f => if kq then 0 else f.ts
              | none => 0
            let s := if kq then { s with kills := dropFirst (fun k : KillRec => decide (some k.part = part)) s.kills }
              else match part.bind s.faultHead with
                | some f => { s with faults := s.faults.map fun (x : FaultRec) => if sameRec x f then { x with queued := false } else x }
                | none => s
            ((s.observe s.cur ts).acquire s.cur .dev).longOnce sm d 0

/-- The service of a record posts NOMEM to the engine commands of a context that stall at its page for its REASON (R256, R302, R303, R330, R425). -/
def State.nomemEngines (s : State) (id : CtxId) (team : Option Nat) (va reason : Nat) : State :=
  let hit := fun (b : Behalf) (st : Option (Nat × Nat)) => decide (b.ctx = id ∧ b.team = team) && match st with
    | some v => decide (v.1 / 4096 = va / 4096 ∧ v.2 = reason)
    | none => false
  let vc := fun (v : VCmd) => { v with work := v.work.map fun (p : VPart) => if (hit v.by_ p.stall) then { p with nomem := true } else p }
  let cp := fun (c : Copy) => if (hit c.by_ c.stall) then { c with nomem := true } else c
  let s := s.modCluster id.cl fun k => { k with vq := k.vq.map vc }
  let s := { s with
    copies := s.copies.map cp
    colls := s.colls.map fun (c : Coll) => if (hit c.by_ c.stall) then { c with nomem := true } else c
    teams := s.teams.map fun (t : Team) => { t with savedVq := t.savedVq.map vc, savedCopies := t.savedCopies.map cp } }
  s.modHeld id team fun c => match c.st with
    | .waiting (.page v r) _ => if v / 4096 = va / 4096 ∧ r = reason then { c with pageNomem := some v } else c
    | _ => c

/-- Completing one waiter (R401, R425). An engine's command goes on once no record holds it; a NOMEM marks it first. -/
def State.completeWaiter (s : State) (va reason status : Nat) : Waiter → State
  | .ctx id team tok => s.modHeld id team (postToken tok status)
  | .engine id team _ => if status = 1 then s.nomemEngines id team va reason else s

/-- Completing the record of a key: whether it had a waiter (R401, R425). (DEDUCED, log 58) -/
def State.serviceDone (s : State) (part : Nat) (key : Word) (status : Nat) : Bool × State :=
  match s.faults.find? fun f => decide (f.part = part ∧ f.key = key) with
  | none => (false, s)
  | some f =>
    let s := { s with faults := s.faults.filter fun x => !(sameRec x f) }
    (!f.waiters.isEmpty, f.waiters.foldl (fun s w => s.completeWaiter f.va f.reason status w) s)

/-- (DEDUCED, log 58) -/
def execSvcDone (sm : Bool) (d a b : Reg) (s : State) : Result :=
  privOp s false (fun s => decide ((s.opnd b).toNat ≤ 1)) fun _ s =>
    let key := s.opnd a
    let status := (s.opnd b).toNat
    s.releaseThen .dev fun s => match s.partOf s.cur.cl with
      | none => s.longOnce sm d 1
      | some p =>
        let (hit, s) := s.serviceDone p.num key status
        s.longOnce sm d (if hit then 0 else 1)

/-! ### Translations and caches (R402, R403, R413, R421) -/

/-- Two clusters belong to one partition, or to none. -/
def State.samePart (s : State) (a b : Nat) : Bool := (s.partOf a).map Partition.num == (s.partOf b).map Partition.num

/-- Reading the partition translation descriptor (R413). -/
def State.readPtd (s : State) (p : Partition) : Partition :=
  let at_ := fun i n => leNat (Memory.readN s.mem (p.ptd + i) n)
  { p with tva := at_ 0 8, tpa := at_ 8 8, logb := at_ 16 1, ptdValid := at_ 17 1 % 2 = 1 }

/-- A place lies in the n bytes of VA space from lo. -/
def placeIn (lo n : Nat) : Place → Bool
  | .mem va _ => decide (lo ≤ va ∧ va < lo + n)
  | .ls _ _ => false

/-- Accesses of the cluster's partition are in flight to the n bytes from lo: probing, translated, or let through and not performed (R402, R421). (DEDUCED, log 54) -/
def State.inFlight (s : State) (cl lo n : Nat) : Bool :=
  (s.accesses.any fun a => s.samePart a.agent.cl cl && decide (lo ≤ a.va ∧ a.va < lo + n) && match a.stage with
    | .probe => true
    | .setD _ => true
    | .remote _ => true
    | .check _ => true
    | .passed (some _) => true
    | .passed none => false
    | .heldFault _ => false
    | .trapped _ _ _ => false
    | .upcall _ _ => false) ||
  s.scops.any fun o => s.samePart o.agent.cl cl && o.ops.any fun x => placeIn lo n x.2.1

/-- The reductions that scatters of the cluster's partition hold in their windows, of those that the test picks, are applied now. -/
def State.flushPend (s : State) (cl : Nat) (f : PRed → Bool) : State :=
  let cut := fun (v : VCmd) => { v with work := v.work.map fun (p : VPart) => { p with pend := p.pend.filter fun r => !f r } }
  let mine := fun (l : List VCmd) => (l.flatMap VCmd.pending).filter f
  let out := ((s.clusters.filter fun k => s.samePart k.id cl).flatMap fun k => mine k.vq) ++
    (s.teams.filter fun t => s.samePart t.cl cl).flatMap fun t => mine t.savedVq
  if out.isEmpty then s
  else out.foldl State.applyRed { s with
    clusters := s.clusters.map fun (k : Cluster) => if s.samePart k.id cl then { k with vq := k.vq.map cut } else k
    teams := s.teams.map fun (t : Team) => if s.samePart t.cl cl then { t with savedVq := t.savedVq.map cut } else t }

/-- The lines of the n bytes from lo in every L1 bank of the cluster's partition are written back, and invalidated, in the home slices too, unless they are kept; every write,
reduction and load on its way to those bytes is performed (R402, R403). -/
def State.flushRange (s : State) (cl lo n : Nat) (keep : Bool) : State :=
  let meets := fun (line : Nat) => decide (lo < 64 * line + 64 ∧ 64 * line < lo + n)
  let s := s.settleLate fun t => s.samePart t.agent.cl cl && placeIn lo n t.place
  let s := s.flushLines keep fun l => s.samePart l.cl cl && meets l.line
  let s := if keep then s else { s with
    l1i := s.l1i.filter fun l => !(s.samePart l.cl cl && meets l.line)
    l2 := s.l2.filter fun l => !(decide (some l.part = (s.partOf cl).map Partition.num) && meets l.line) }
  let s := s.drainWrites fun w => s.samePart w.agent.cl cl && match w.place with
    | .mem va _ => decide (lo < va + w.data.length ∧ va < lo + n)
    | .ls _ _ => false
  (s.drainReds fun r => s.samePart r.agent.cl cl && placeIn lo n r.place).flushPend cl fun r => placeIn lo n r.place

/-- Dropping a page's entry from every slice, or every entry under ALL, with the page's lines (R402). (DEDUCED, log 54) -/
def State.dropXlat (s : State) (part cl va cls : Nat) (all : Bool) : State :=
  let s := { s with
    tcache := s.tcache.filter fun e =>
    !(decide (e.part = part) && (all || decide (e.x.cls = cls ∧ e.page = va / 2 ^ pageShift cls)))
    l2 := s.l2.filter fun l => !(decide (l.part = part) && (all || decide (64 * l.line / 2 ^ pageShift cls = va / 2 ^ pageShift cls))) }
  let lo := if all then 0 else va
  let n := if all then 2 ^ 56 else 2 ^ pageShift cls
  (s.flushRange cl lo n false).forgetVia part fun l => decide (lo ≤ 64 * l ∧ 64 * l < lo + n)

/-- (DEDUCED, log 54) -/
def execXlatInv (sm : Bool) (d a b : Reg) (s : State) : Result :=
  privOp s false (fun s => decide (wfld (s.opnd b) 3 61 = 0)) fun _ s =>
    let va := (s.opnd a).toNat
    let cls := wfld (s.opnd b) 0 2
    let all := wb (s.opnd b) 2
    if va % 2 ^ pageShift cls ≠ 0 ∨ (all = true ∧ va ≠ 0) then s.misalign (s.opnd a)
    else
      let cl := s.cur.cl
      let lo := if all then 0 else va
      let n := if all then 2 ^ 56 else 2 ^ pageShift cls
      let part := s.partOf cl
      let s := s.dropXlat ((part.map Partition.num).getD 0) cl va cls all
      let s := match part with
        | some p => if all then s.modPart p.num s.readPtd else s
        | none => s
      if s.inFlight cl lo n then s.waitFor (.inval lo n)
      else s.longOnce sm d 0

/-- The pages of [va, hi) in ascending order, each handled as it is found: `k` pages at most (R403). (DEDUCED, log 55) -/
def State.cachePages (s : State) (c : Ctx) (keep : Bool) (hi : Nat) : Nat → Nat → Except Fail Unit × State
  | 0, _ => (.ok (), s)
  | k + 1, va =>
    if hi ≤ va then (.ok (), s)
    else if 2 ^ 56 ≤ va ∨ regionOf va ≠ .paged then (.error (.err cPROTECTION 0 va), s)
    else match s.translate (whoOf c) va with
      | .absent => (.error (.stall va reasonAbsent false), s)
      | .malformed => (.error (.stall va reasonMalformed false), s)
      | .noMap => (.error (.err cPROTECTION 0 va), s)
      | .ok x =>
        let next := min hi ((va / 2 ^ pageShift x.cls + 1) * 2 ^ pageShift x.cls)
        (s.flushRange c.id.cl va (next - va) keep).cachePages c keep hi k next

/-- `cache.wb` keeps the lines, `cache.inv` invalidates them (R403). -/
def cacheOp (s : State) (sm : Bool) (keep : Bool) (d a b : Reg) : Result :=
  privOp s false (fun s => decide ((s.opnd b).toNat ≤ 2 ^ 30)) fun c s =>
    let va := (s.opnd a).toNat
    let n := (s.opnd b).toNat
    if va % 64 ≠ 0 then s.misalign (s.opnd a)
    else if n % 64 ≠ 0 then s.misalign (s.opnd b)
    else match s.cachePages c keep (va + n) (n / 4096 + 2) va with
      | (.error e, s) => s.privFail false e
      | (.ok _, s) => s.longOnce sm d 0

/-- (DEDUCED, log 55) -/
def execCacheWb (sm : Bool) (d a b : Reg) (s : State) : Result := cacheOp s sm true d a b
/-- (DEDUCED, log 55) -/
def execCacheInv (sm : Bool) (d a b : Reg) (s : State) : Result := cacheOp s sm false d a b

/-! ### Context images (R386 to R388) -/

/-- Address of a save area (R386). -/
def saveArea (tvec : Word) (logical pipe slot l : Nat) : Nat :=
  wfld tvec 16 40 * 2 ^ 16 + 0x10000 + 512 * (2 * (64 * logical + 4 * pipe + slot) + l - 1)

/-- The entries of a record in an image: 20 bytes each. (DEDUCED, log 45) -/
def entryBytes (e : DivEntry) : List Byte := leBytes 8 e.j.toNat ++ leBytes 8 e.pendPc.toNat ++ leBytes 2 e.pend.toNat ++ leBytes 2 e.taken.toNat

/-- The record's header (R387). Entry 1 is the entry that was pushed first. (DEDUCED, log 45) -/
def recordHead (r : Record) : Nat :=
  1 + r.stack.length % 8 * 2 + (((List.range 4).map fun i => match r.stack.reverse[i]? with
    | some e => if e.phaseN then 2 ^ (4 + i) else 0
    | none => 0).sum) + r.base % 16 * 2 ^ 8 + Nat.log2 r.width % 8 * 2 ^ 12 + r.members.toNat * 2 ^ 16 + r.a.toNat * 2 ^ 32

/-- The image of a context at level L with the PC given (R387). (DEDUCED, log 45) -/
def State.ctxImage (s : State) (id : CtxId) (l : Nat) (pc : Word) : List Byte :=
  let c := s.ctx id
  let lead := s.leader id
  let o := s.ctx lead
  let b := c.bank l
  let w8 := fun (v : Word) => leBytes 8 v.toNat
  ((List.finRange 32).flatMap fun r => w8 (s.rg id r)) ++
  w8 pc ++ leBytes 8 (c.p.toNat / 2 * 2 + 1) ++ w8 b.ecause ++ w8 b.eval ++ w8 b.estat ++ w8 c.mode ++ leBytes 8 c.domain.toNat ++
  w8 c.upvec ++ w8 c.epcu ++ w8 c.ecauseu ++ w8 c.evalu ++ leBytes 8 c.uptok.toNat ++ w8 c.notice ++ w8 o.arrived ++ w8 o.errtags ++
  w8 (s.ocnt lead) ++ leBytes 8 o.pts ++ leBytes 8 o.mts ++
  leBytes 8 ((s.lmOf id).toNat + s.wlog id * 2 ^ 16 + c.lane % 16 * 2 ^ 19 + c.vblocks % 512 * 2 ^ 23) ++ w8 c.tvec ++
  (match c.rcd with
   | some r => leBytes 8 (recordHead r) ++ leBytes 8 0 ++ ((r.stack.reverse.take 4).flatMap entryBytes ++ List.replicate 80 0).take 80
   | none => List.replicate 96 0)

/-- The address of `ctx.save` or `ctx.rest`: none where A = 0 at TL 0 (R388). -/
def State.imageAt (s : State) (c : Ctx) (a : Reg) : Option Word :=
  if a ≠ 0 then some (s.opnd a)
  else if c.tl = 0 then none
  else some (BitVec.ofNat 64 (saveArea c.tvec (s.logical c.id.cl) c.id.pipe c.id.slot c.tl))

/-- The level whose bank an image holds (R388). -/
def imageLevel (c : Ctx) : Nat := max c.tl 1

/-- (DEDUCED, log 46) -/
def execCtxSave (sm : Bool) (a : Reg) (s : State) : Result :=
  privOp s false (fun s => (s.imageAt (s.ctx (s.lowest s.cur)) a).isSome) fun c s => match s.imageAt c a with
    | none => s
    | some va =>
      if va.toNat % 512 ≠ 0 then s.misalign va
      else if 2 ^ 56 ≤ va.toNat then s.trapAll cPROTECTION 0 va
      else match s.ownStore c va.toNat (s.ctxImage c.id (imageLevel c) (c.bank (imageLevel c)).epc) with
        | (.error e, s) => s.privFail true e
        | (.ok _, s) => s.retire sm

/-- The registers that `ctx.rest` sets at once: the banked level, MODE, DOMAIN and the upcall registers (R387). -/
def restCtx (l : Nat) (w : Nat → Word) (c : Ctx) : Ctx :=
  let b := c.bank l
  let c := c.setBank l (((({ b with epc := w 32 }).put 1 (w 34)).put 2 (w 35)).put 3 (w 36))
  { c with
    mode := w 37 &&& 7, domain := (w 38).setWidth 12, upvec := w 39, epcu := w 40, ecauseu := w 41 &&& 0xFFF, evalu := w 42
    uptok := (w 43).setWidth 6 }

/-- `ctx.rest`: the general registers and predicates are long (R388). -/
def execCtxRest (sm : Bool) (a : Reg) (s : State) : Result :=
  privOp s false (fun s => (s.imageAt (s.ctx (s.lowest s.cur)) a).isSome) fun c s => match s.imageAt c a with
    | none => s
    | some va =>
      if va.toNat % 512 ≠ 0 then s.misalign va
      else if 2 ^ 56 ≤ va.toNat then s.trapAll cPROTECTION 0 va
      else if notW0 va.toNat then s.trapAll cPROTECTION 0 va
      else match (s.drainGroup s.cur).engReads (whoOf c) va.toNat 8 64 with
        | (.error e, s) => s.privFail false e
        | (.ok img, s) =>
          let w := fun i => BitVec.ofNat 64 (leNat ((img.drop (8 * i)).take 8))
          let s := s.modCtx c.id (restCtx (imageLevel c) w)
          let s := { s with longs := s.longs ++
            (((List.finRange 32).filter fun r => r ≠ 0).map fun r => ({ dst := s.fileOf c.id r, dest := .g r, val := w r.val } : Long)) ++
            (((List.finRange 8).filter fun n => n ≠ 0).map fun n => ({ dst := c.id, dest := .p n, val := BitVec.ofNat 64 (fld (w 33).toNat n.val 1) } : Long)) }
          s.retire sm

/-! ### Gang stop and switch (R394, R398) -/

/-- A message of a cluster may be in the mesh: an access, a write, a reduction, a result, a packet or a command that reads or writes. -/
def State.meshBusy (s : State) (cl : Nat) : Bool :=
  (s.accesses.any fun a => decide (a.agent.cl = cl)) || (s.writes.any fun w => decide (w.agent.cl = cl)) || (s.reds.any fun r => decide (r.agent.cl = cl)) ||
    (s.longs.any fun l => decide (l.dst.cl = cl)) || (s.packets.any fun p => decide (p.from_.cl = cl)) || (s.copies.any fun c => decide (c.by_.ctx.cl = cl)) ||
    (s.colls.any fun c => decide (c.by_.ctx.cl = cl)) || !(s.cluster cl).vq.isEmpty || (s.cluster cl).quads.any fun q => !q.queue.isEmpty

/-- The capture records of some clusters at a gang stop (R398). How many messages each has sent and received, and how many lie in its fall-out buffers, is
free: which messages an access makes is not stated. No counter falls, on each plane the clusters' sums agree with what the buffers hold, and these hold
nothing where no cluster has anything under way (`busy`). (DEDUCED, log 50; DESIGN CHOICE, log 51) -/
def State.capturesOf (s : State) (busy : Bool) (cause asked : Nat) : List Nat → List Capture × State
  | [] => ([], s)
  | cl :: r =>
    let (a, s) := s.freshFree
    let (b, s) := s.freshFree
    let (f, s) := s.freshFree
    let fq := if busy then f.toNat % 65 else 0
    let fp := if busy then f.toNat / 65 % 65 else 0
    let (t, s) := s.readGtime cl
    let (q, p) := (s.cluster cl).msgs
    let q := q + a.toNat
    let p := p + b.toNat
    let s := s.modCluster cl fun k => { k with msgs := (q + fq, p + fp) }
    let (l, s) := s.capturesOf busy cause asked r
    ({ cl := cl, cycle := s.cycle cl, gtime := t, sentReq := q + fq, recvReq := q, sentRsp := p + fp, recvRsp := p
       foReq := fq, foRsp := fp, cause := cause, asked := asked } :: l, s)

/-- A gang stop of a partition that runs: issue stops, every engine freezes, and each cluster holds a capture record (R398), and the
function raises STOPPED (R455). -/
def State.gangStop (s : State) (p : Partition) (cause : Nat) : State :=
  let cls := s.partClusters p
  let (l, s) := s.capturesOf (cls.any s.meshBusy) cause s.gtime cls
  let s := { s with captures := s.captures.filter (fun (r : Capture) => !cls.contains r.cl) ++ l }
  let s := s.modPart p.num fun p => { p with run := .stopped cause }
  s.raiseEvent { fn := p.num + 1, kind := 7, gtime := s.gtime, d0 := BitVec.ofNat 64 cause, d1 := 0 }

/-- The answer to `halt` with the fields given, and what it sets going (R394). (DEDUCED, log 41) -/
def State.haltAnswer (s : State) (ga gb : Word) : Nat × State :=
  let kind := wfld ga 2 2
  let area := wfld ga 12 44 * 4096
  let t := gb.toNat
  if kind = 3 ∨ wfld ga 4 8 ≠ 0 ∨ wfld ga 56 8 ≠ 0 ∨ (kind = 0 ∧ gb ≠ 0) then (3, s)
  else if kind ≠ 0 ∧ t < s.gtime + 4000 then (1, s)
  else match s.partNo (wfld ga 0 2) with
    | none => (2, s)
    | some p => match kind, p.run with
      | 0, .running => (0, s.gangStop p 0)
      | 0, .stopped _ => (0, s)
      | 0, .away _ => (0, s)
      | 1, .running => (0, s.modPart p.num fun p => { p with run := .stopping t area })
      | 2, .stopped _ => (0, s.modPart p.num fun p => { p with run := .entering t area })
      | 2, .away _ => (0, s.modPart p.num fun p => { p with run := .entering t area })
      | _, _ => (2, s)

/-- (DEDUCED, log 41) -/
def execHalt (sm : Bool) (d a b : Reg) (s : State) : Result :=
  privOp s true (fun _ => true) fun _ s =>
    let (r, s) := s.haltAnswer (s.opnd a) (s.opnd b)
    s.longOnce sm d (BitVec.ofNat 64 r)

/-! ### Mesh primitives of firmware (R404 to R406) -/

/-- The physical neighbour of a cluster in a direction: +x, +y, −x, −y (R12, R404). -/
def neighbour (cl dir : Nat) : Option Nat := match dir with
  | 0 => if clX cl < 31 then some (cl + 1) else none
  | 1 => if clY cl < 31 then some (cl + 32) else none
  | 2 => if 0 < clX cl then some (cl - 1) else none
  | _ => if 0 < clY cl then some (cl - 32) else none

/-- `nbr.put`: the packet leaves, and its answer comes with its arrival; where there is no neighbour, or none that answers, D has its code. -/
def execNbrPut (sm : Bool) (d a b : Reg) (s : State) : Result :=
  privOp s true (fun s => decide (wfld (s.opnd a) 20 44 = 0 ∧ wfld (s.opnd b) 2 62 = 0)) fun c s =>
    let off := (s.opnd a).toNat
    let dir := wfld (s.opnd b) 0 2
    if off % 64 ≠ 0 then s.misalign (s.opnd a)
    else match neighbour c.id.cl dir with
      | none => s.longOnce sm d 1
      | some n =>
        if s.answers n then
          let s := s.drainGroup s.cur
          let data := Memory.readN s.ls (lsKey c.id.cl off) 64
          ({ s with packets := s.packets ++ [({ cl := n, dir := (dir + 2) % 4, data := data, from_ := s.fileOf c.id d, dest := d } : Packet)] }).retire sm
        else s.longOnce sm d 3

/-- `nbr.get` empties a mailbox into local store. -/
def execNbrGet (sm : Bool) (d a b : Reg) (s : State) : Result :=
  privOp s true (fun s => decide (wfld (s.opnd a) 20 44 = 0 ∧ wfld (s.opnd b) 3 61 = 0)) fun c s =>
    let off := (s.opnd a).toNat
    let gb := s.opnd b
    if off % 64 ≠ 0 then s.misalign (s.opnd a)
    else
      let boxes := (s.cluster c.id.cl).boxes
      let dirs := if wb gb 2 then [0, 1, 2, 3] else [wfld gb 0 2]
      match dirs.findSome? fun dr => boxes.find? fun x => decide (x.1 = dr) with
      | none => s.longOnce sm d 0
      | some x =>
        let s := s.drainGroup s.cur
        let s := s.placeWrite (some s.cur) (.ls c.id.cl off) x.2
        let s := s.modCluster c.id.cl fun k => { k with boxes := k.boxes.filter fun y => decide (y.1 ≠ x.1) }
        s.longOnce sm d (BitVec.ofNat 64 (x.1 + 1))

/-- `mcast`: the bytes reach every other released cluster, and D counts them; that of the boot cluster in phase 7 completes phase 8 (R463). Bytes beyond the end of local store have no address. (DESIGN CHOICE, log 56) -/
def execMcast (sm : Bool) (d a b : Reg) (s : State) : Result :=
  privOp s true (fun s => decide (wfld (s.opnd a) 20 44 = 0 ∧ wfld (s.opnd b) 29 35 = 0)) fun c s =>
    let src := (s.opnd a).toNat
    let dst := wfld (s.opnd b) 0 20
    let n := 64 * (wfld (s.opnd b) 20 9 + 1)
    if src % 64 ≠ 0 then s.misalign (s.opnd a)
    else if dst % 64 ≠ 0 then s.misalign (s.opnd b)
    else if 2 ^ 20 < src + n then s.trapAll cPROTECTION 0 (s.opnd a)
    else if 2 ^ 20 < dst + n then s.trapAll cPROTECTION 0 (s.opnd b)
    else
      let s := s.drainGroup s.cur
      let data := Memory.readN s.ls (lsKey c.id.cl src) n
      let dests := (s.clusters.filter fun k => k.released && !k.gated && decide (k.id ≠ c.id.cl)).map Cluster.id
      let s := dests.foldl (fun (s : State) cl => s.placeWrite (some s.cur) (.ls cl dst) data) s
      let s := if s.boot.phase = 7 ∧ some c.id.cl = s.bootCluster then { s with boot := { s.boot with phase := 8 } } else s
      s.longOnce sm d (BitVec.ofNat 64 dests.length)

/-! ### Re-forming a communicator (R462) -/

/-- The handle of a slot (R309). -/
def Comm.handle (k : Comm) : Nat := k.slot + k.gen.toNat * 2 ^ 16

/-- The slot that a handle names in a partition's table: in use and of the handle's generation. -/
def State.handleSlot (s : State) (part h : Nat) : Option Comm :=
  (s.comm part (h % 65536)).filter fun k => decide (k.slot < 1024 ∧ h / 65536 = k.gen.toNat)

/-- Old ranks in strictly ascending order below n. -/
def ranksOk (n : Nat) : List Nat → Bool
  | [] => true
  | [a] => decide (a < n)
  | a :: b :: r => decide (a < b) && ranksOk n (b :: r)

/-- A re-form block: the ranks kept and the new T; none where it is invalid. (DESIGN CHOICE, log 52) -/
def reformBlock (k : Comm) (b : List Byte) : Option (Nat × List Nat) :=
  let n := leNat (b.take 2)
  let tms := leNat ((b.drop 4).take 4)
  let ranks := halves b 8 n
  if 2 ≤ n ∧ n ≤ k.members.length ∧ leNat ((b.drop 2).take 2) = 0 ∧ tms ≤ 60000 ∧ 8 + 2 * n ≤ b.length ∧ ranksOk k.members.length ranks = true then
    some (tms, ranks)
  else none

/-- Steps 2 and 3 of R462: what was decided when the generation last had that number is past (R461). -/
def State.reformComm (s : State) (k : Comm) (tms : Nat) (ranks : List Nat) : State :=
  let s := { s with
    contribs := s.contribs.filter fun c => !decide (c.part = k.part ∧ c.cslot = k.slot ∧ c.msg.gen = k.gen)
    decided := s.decided.filter fun d => !decide (d.part = k.part ∧ d.cslot = k.slot ∧ d.gen = k.gen + 1) }
  s.modComm k.part k.slot fun k => { k with
    gen := k.gen + 1, tms := if tms = 0 then k.tms else tms, members := ranks.filterMap fun r => k.members[r]?, issued := [] }

/-- Commands of a slot that have not been written to their records. -/
def State.slotBusy (s : State) (part slot : Nat) : Bool := s.colls.any fun c => decide (c.part = part ∧ c.cslot = slot ∧ c.away = none)

/-- Bit 63 with a code (R462). -/
def reformErr (code : Nat) : Word := BitVec.ofNat 64 (2 ^ 63 + code)

/-- Step 4 of R462: the release at SYS scope, for which the context may have to wait, and the new handle. -/
def State.reformEnd (s : State) (sm : Bool) (d : Reg) (h : Word) : State :=
  let done := fun (s : State) => s.modCtx s.cur fun c => { c with reformed := none }
  (if (s.ctx s.cur).lostWrite.isSome then done s else s.modCtx s.cur fun c => { c with reformed := some h }).releaseThen .sys fun s => (done s).longOnce sm d h

/-- (DESIGN CHOICE, log 52; DEDUCED, log 53) -/
def execClReform (sm : Bool) (d a b : Reg) (s : State) : Result :=
  privOp s false (fun s => decide (wfld (s.opnd a) 32 32 = 0)) fun c s =>
    let h := (s.opnd a).toNat
    let va := (s.opnd b).toNat
    if c.reformed.isSome then s.reformEnd sm d (c.reformed.getD 0)
    else if va % 8 ≠ 0 then s.misalign (s.opnd b)
    else if 2 ^ 56 ≤ va then s.trapAll cPROTECTION 0 (s.opnd b)
    else match (s.partOf s.cur.cl).bind fun p => s.handleSlot p.num h with
      | none => s.longOnce sm d (reformErr 1)
      | some k => match (s.drainGroup s.cur).engReads (whoOf c) va 8 1 with
        | (.error e, s) => s.privFail false e
        | (.ok head, s) => match s.engReads (whoOf c) (va + 8) 2 (min (leNat (head.take 2)) 4096) with
          | (.error e, s) => s.privFail false e
          | (.ok rest, s) => match reformBlock k (head ++ rest) with
            | none => s.longOnce sm d (reformErr 2)
            | some (tms, ranks) =>
              let s := s.collStale k.part k.slot
              if s.slotBusy k.part k.slot then s.waitFor .reform
              else (s.reformComm k tms ranks).reformEnd sm d (BitVec.ofNat 64 (k.slot + (k.gen + 1).toNat * 2 ^ 16))

end Sys2Proof.Machine
end

