-- ==== Sys2Proof/Machine/Power.lean ====
section
/-! DEFINITION. Sys2Proof/Machine/Power.lean: the control tick, droop, idle steps and admission (spec/15 R428, R433 to R440), the ends of voltage and
clock changes (R393, R437), and gang switches (spec/13 R395 to R397). -/

namespace Sys2Proof.Machine

/-! ### The partition dispatch descriptor (R428) -/

/-- Bytes 16 to 31 of a PDD: budgets and steps; none where one is out of its range. -/
def parsePddTail (b : List Byte) : Option (Nat × Nat × Nat × Nat) :=
  let pb := blkAt b 0 2
  let rb := blkAt b 2 2
  let fl := blkAt b 4 1
  let idle := blkAt b 5 1
  if 1 ≤ pb ∧ pb ≤ 6000 ∧ 1 ≤ rb ∧ rb ≤ 200 ∧ fl ≤ 15 ∧ fl ≤ idle ∧ idle ≤ 15 ∧ blkAt b 6 2 = 0 ∧ blkAt b 8 8 = 0 then some (pb, rb, fl, idle)
  else none

/-- Bytes 16 to 31 as a tick finds them take effect, and a FLOOR that has been raised moves every lower cluster up (R428, R438). (DESIGN CHOICE, log 99) -/
def State.readPdd (s : State) (p : Partition) : State := match parsePddTail (Memory.readN s.mem (p.pdd + 16) 16) with
  | none => s
  | some (pb, rb, fl, idle) =>
    let s := s.modPart p.num fun p => { p with pbudget := pb, rbudget := rb, floor := fl, idlestep := idle }
    if p.floor < fl then
      (s.partClusters p).foldl (fun (s : State) c =>
        let k := s.cluster c
        if k.released && decide (k.step < fl ∨ k.lastStep < fl) then s.requestStep c fl 3 else s) s
    else s

/-! ### Temperature (R434, R438) -/

/-- A cluster's hot state after a sample. -/
def heatOf (k : Cluster) (t : Nat) : Cluster :=
  let cool := if t ≤ 90 then k.cool + 1 else 0
  let hot := if 95 ≤ t then true else k.hot && decide (cool < 100)
  { k with temp := t, cool := cool, hot := hot }

/-- A cluster's sample: its hot state, and step 15 from 105 °C on until 95 °C. (DESIGN CHOICE, log 92) -/
def State.sample (s : State) (cl : Nat) : State :=
  let t := Config.temperature s.gtime cl
  let s := s.modCluster cl fun k => heatOf k t
  let k := s.cluster cl
  if 105 ≤ t ∧ k.emergency = false then (s.modCluster cl fun k => { k with emergency := true }).requestStep cl 15 4
  else if t ≤ 95 ∧ k.emergency = true then
    (s.modCluster cl fun k => { k with emergency := false }).requestStep cl (((s.partOf cl).map Partition.floor).getD 0) 4
  else s

/-! ### Power (R433) -/

/-- Over budget after a tick's estimate in units of 10 mW, against a budget in W. -/
def overAfter (was : Bool) (est budget : Nat) : Bool := if 100 * budget ≤ est then true else was && decide (95 * budget ≤ est)

/-- The estimate of a list of clusters. -/
def State.estimate (s : State) (cls : List Nat) : Nat := (cls.map (Config.power s.gtime)).sum

/-- The partition and its voltage domains against their budgets. (DESIGN CHOICE, log 92) -/
def State.budgets (s : State) (p : Partition) : State :=
  let cls := s.partClusters p
  let doms := (cls.map domainOf).eraseDups
  let s := doms.foldl (fun (s : State) m =>
    s.modDomain m fun d => { d with overB := overAfter d.overB (s.estimate (cls.filter fun c => decide (domainOf c = m))) p.rbudget }) s
  s.modPart p.num fun p => { p with overB := overAfter p.overB (s.estimate cls) p.pbudget }

/-- A control tick: descriptors, temperatures, estimates (R428, R433, R434). (DESIGN CHOICE, log 92) -/
def execControlTick (s : State) : Result := .next (
  let s := { s with tickAt := s.gtime / 10000 * 10000 + 10000 }
  let s := s.parts.foldl State.readPdd s
  let s := ((s.clusters.filter fun (k : Cluster) => k.released && !k.gated).map Cluster.id).foldl State.sample s
  let s := s.parts.foldl (fun (s : State) p => s.placeAgain p.num) s
  s.parts.foldl (fun (s : State) p => match s.partNo p.num with
    | some p => s.budgets p
    | none => s) s)

/-! ### Droop (R435) -/

/-- A droop event of a domain: at most one is recorded in 20 ns, and the fourth in 100 µs makes the domain droopy for 500 µs. -/
def droopOf (t : Nat) (d : Domain) : Domain :=
  if d.droops.any fun e => decide (t < e + 20) then d
  else
    let l := (d.droops.filter fun e => decide (t < e + 100000)) ++ [t]
    { d with droops := l, droopy := if 4 ≤ l.length then some (t + 500000) else d.droopy }

/-- (DESIGN CHOICE, log 92) -/
def execDroopEvent (s : State) : Result := .next (s.modDomain s.subj.num (droopOf s.gtime))

def execDroopyEnd (s : State) : Result := .next (s.modDomain s.subj.num fun d => { d with droopy := match d.droopy with
  | some t => if t ≤ s.gtime then none else some t
  | none => none })

/-! ### Steps and admission (R437 to R440) -/

/-- A team is to be placed on the cluster (R430). -/
def State.isChosen (s : State) (cl : Nat) : Bool := s.tasks.any fun t => decide (t.chosen = some cl)

/-- The cluster has been empty of contexts for 100 µs, no change of its step is under way, and no team is to be placed on it (R438). -/
def State.idleDue (s : State) (k : Cluster) : Bool := !s.isChosen k.id && k.released && !k.gated && !k.emergency && k.steady && match k.emptySince with
  | some t => decide (t + 100000 ≤ s.gtime)
  | none => false

def execIdleTimeout (s : State) : Result := .next (match s.partOf s.subj.cl with
  | some p => if s.idleDue (s.cluster s.subj.cl) then s.requestStep s.subj.cl p.idlestep 1 else s
  | none => s)

/-- The clusters of a domain that wait for admission and are not paused, in order: earlier batches first, then ascending key (R440). (DESIGN CHOICE, log 91) -/
def State.admissible (s : State) (m : Nat) : List Nat :=
  (((s.clusters.filter fun k => decide (domainOf k.id = m) && k.asks.isSome && !s.paused k.id).map fun k => (k.asks.getD (0, 0), k.id)).mergeSort
    fun a b => decide (a.1.1 < b.1.1 ∨ (a.1.1 = b.1.1 ∧ a.1.2 ≤ b.1.2))).map Prod.snd

/-- A slot of domain subj.num: at most two clusters become active in 50 ns (R439, R440). (DESIGN CHOICE, log 91) -/
def execAdmissionSlot (s : State) : Result := .next (
  let m := s.subj.num
  let d := s.domain m
  let d := if d.slotN = 0 ∨ d.slotAt + 50 ≤ s.gtime then { d with slotAt := s.gtime, slotN := 0 } else d
  let go := (s.admissible m).take (2 - d.slotN)
  let s := s.modDomain m fun x => { x with slotAt := d.slotAt, slotN := d.slotN + go.length }
  { s with clusters := s.clusters.map fun (k : Cluster) => if go.contains k.id then { k with active := true, asks := none } else k })

def execVoltageSettled (s : State) : Result := .next (s.voltageSettled s.subj.num)

def execFreqPauseEnd (s : State) : Result := .next (s.pauseEnd s.subj.cl)

/-! ### Gang switches (R395 to R397) -/

/-- A cluster as a switch leaves it: its engines and queues are empty; its SFU keeps the scalar requests of the contexts that have gone (R273, R395). What the
arbiter's pointer and credit become is the model's choice. (DESIGN CHOICE, log 148) -/
def idleCluster (k : Cluster) : Cluster :=
  { k with
    vq := [], lanes := [], quads := [{}, {}, {}, {}], mxTeam := none, active := false, asks := none, rho := 15, credit := 0, gsq := [], lsRels := []
    sfuOut := k.sfuOut.filter fun l => l.away.isSome
    sfuq := k.sfuq.filter fun e => match e with
      | .scalar _ _ _ w => w.isSome
      | .vec _ => false }

/-- The record of R46 in an image: entry i of it, and the whole; none where it is not valid (R387). (DEDUCED, log 45) -/
def imageEntry (img : List Byte) (i : Nat) : DivEntry :=
  let f := fun (o n : Nat) => leNat ((img.drop (432 + 20 * i + o)).take n)
  { j := BitVec.ofNat 64 (f 0 8), pendPc := BitVec.ofNat 64 (f 8 8), pend := BitVec.ofNat 16 (f 16 2), taken := BitVec.ofNat 16 (f 18 2)
    phaseN := (leNat ((img.drop 416).take 8)).testBit (4 + i) }

def imageRecord (img : List Byte) : Option Record :=
  let h := leNat ((img.drop 416).take 8)
  if h % 2 = 0 then none
  else some {
    stack := ((List.range (fld h 1 3)).map (imageEntry img)).reverse, base := fld h 8 4, width := 2 ^ fld h 12 3
    members := BitVec.ofNat 16 (fld h 16 16), a := BitVec.ofNat 16 (fld h 32 16) }

/-- Dword i of an image. -/
def imageWord (img : List Byte) (i : Nat) : Word := BitVec.ofNat 64 (leNat ((img.drop (8 * i)).take 8))

/-- A context with the fields of its image (R387); `leads`: it is single or leads its group, whose pc, uniform registers, tags and timestamps its image
holds. OCNT counts the commands in the area. (DESIGN CHOICE, log 48) -/
def Ctx.ofImage (img : List Byte) (leads : Bool) (c : Ctx) : Ctx :=
  let w := imageWord img
  let c := c.setBank (imageLevel c) { c.bank (imageLevel c) with ecause := w 34, eval := w 35, estat := w 36 }
  { c with
    g := Vector.ofFn fun (r : Fin 32) => if r.val = 0 ∨ (16 ≤ r.val ∧ leads = false) then c.g.get r else w r.val
    p := (c.p &&& 1) ||| ((w 33).setWidth 8 &&& 0xFE), mode := w 37 &&& 7, domain := (w 38).setWidth 12
    upvec := w 39, epcu := w 40, ecauseu := w 41, evalu := w 42, uptok := (w 43).setWidth 6, notice := w 44
    pc := if leads then instrPc (w 32) else c.pc
    arrived := if leads then w 45 else c.arrived, errtags := if leads then w 46 else c.errtags
    pts := if leads then (w 48).toNat else c.pts, mts := if leads then (w 49).toNat else c.mts, tvec := w 51
    lane := fld (w 50).toNat 19 4, vblocks := fld (w 50).toNat 23 9, rcd := imageRecord img }

/-- A group with LM and WLOG of its leader's image (R387). -/
def Group.ofImage (img : List Byte) (g : Group) : Group :=
  { g with lm := (imageWord img 50).setWidth 16, width := 2 ^ fld (imageWord img 50).toNat 16 3 }

/-- What a switch out writes for a cluster beside images, local store and vector registers: the teams that are swapped out lie where their swap has put
them (R58). -/
def State.blobOf (s : State) (cl : Nat) : Blob :=
  let k := s.cluster cl
  { ctxs := s.ctxs.filter fun c => decide (c.id.cl = cl), groups := s.groups.filter fun g => decide (g.cl = cl)
    teams := (s.residents cl).map Team.still, longs := s.longs.filter fun l => decide (l.dst.cl = cl)
    accesses := s.accesses.filter fun a => decide (a.agent.cl = cl), writes := s.writes.filter fun w => decide (w.agent.cl = cl)
    reds := s.reds.filter fun r => decide (r.agent.cl = cl), scops := s.scops.filter fun o => decide (o.agent.cl = cl)
    copies := s.copies.filter fun c => decide (c.by_.ctx.cl = cl), ocq := s.ocq.filter fun e => decide (e.ctx.cl = cl)
    acc := s.acc.filter (inKeys (8192 * cl) 8192), pins := s.pins.filter fun p => decide (p.cl = cl)
    packets := s.packets.filter fun p => decide (p.from_.cl = cl), vq := k.vq.map VCmd.toQueue
    quads := k.quads.map fun (q : Quad) => { q with queue := q.queue.map MCmd.toStart }, mxTeam := k.mxTeam, gsq := k.gsq, lsRels := k.lsRels }

/-- The bytes of contexts' vector registers, one context after the other, from o on; and the place behind them. -/
def State.vrsCells (s : State) : List Ctx → Nat → List Host.Cell × Nat
  | [], o => ([], o)
  | c :: r, o =>
    let n := 1024 * c.vblocks
    let (l, e) := s.vrsCells r (o + n)
    (((s.vrs.filter (inKeys (vrsKey c.id 0) n)).map fun x => (o + (x.1 - vrsKey c.id 0), x.2)) ++ l, e)

/-- A cluster's part of a switch area (R395); bytes c of the free values on stand where it holds nothing. (DESIGN CHOICE, log 48) -/
def State.partCells (s : State) (cl c : Nat) : List Host.Cell :=
  let blob := Blob.codec.bytes (s.blobOf cl)
  let cs := s.ctxs.filter fun x => decide (x.id.cl = cl)
  let (vrs, e) := s.vrsCells cs vrsOff
  let image := fun (i : Nat) =>
    let id : CtxId := ⟨cl, i / 4, i % 4⟩
    match s.findCtx id with
    | some x => cellsOf (imageOff id) (s.ctxImage id (imageLevel x) (s.ctx (s.leader id)).pc)
    | none => freeCells (c + 64 * i) (imageOff id) 512
  List.flatten [
    (s.ls.filter (inKeys (lsKey cl 0) vrsOff)).map fun x => (x.1 - lsKey cl 0, x.2),
    vrs, freeCells (c + 4096) e (imagesOff - e), (List.range 64).flatMap image,
    cellsOf blobOff blob, freeCells (c + 40000) (blobOff + blob.length) (partLen - blobOff - blob.length)]

/-- The last MiB of an area: nothing states what a switch writes there. (DESIGN CHOICE, log 48; DEDUCED, log 49) -/
def State.scribbleLast (s : State) (p : Partition) (at_ : Nat) : State :=
  (List.range 256).foldl (fun (s : State) i => match s.areaPa p (at_ + 4096 * i) with
    | some pa => { s.watchPa pa 4096 with mem := Memory.fill s.mem pa 4096 (freeByte s.freeCtr), freeCtr := s.freeCtr + 512 }
    | none => s) s

/-- Writing the parts of the clusters. -/
def State.putParts (s : State) (p : Partition) (area : Nat) : State :=
  let cls := s.partClusters p
  let s := cls.zipIdx.foldl (fun (s : State) x =>
    let c := s.freeCtr
    { s.putPart p area x.2 (s.partCells x.1 c) with freeCtr := c + 80000 }) s
  s.scribbleLast p (area + partLen * cls.length)

/-- The clusters of a partition without what a switch has taken from them; their collectives wait, and their swapped teams stay where they lie (R395, R396). (DEDUCED, log 50) -/
def State.emptyPart (s : State) (p : Partition) (area : Nat) : State :=
  let own := fun (i : CtxId) => inPart p i.cl
  let ids := (s.ctxs.filter fun (c : Ctx) => own c.id).map Ctx.id
  { s with
    ctxs := s.ctxs.filter fun c => !own c.id, groups := s.groups.filter fun g => !inPart p g.cl
    swapMem := s.swapMem ++ (s.teams.filter fun t => inPart p t.cl && t.swapped).map fun t => (p.num, area, t)
    teams := s.teams.filter fun t => !inPart p t.cl, longs := s.longs.filter fun l => !own l.dst
    accesses := s.accesses.filter fun a => !own a.agent, writes := s.writes.filter fun w => !own w.agent
    reds := s.reds.filter fun r => !own r.agent, scops := s.scops.filter fun o => !own o.agent
    copies := s.copies.filter fun c => !own c.by_.ctx, ocq := s.ocq.filter fun e => !own e.ctx, packets := s.packets.filter fun p => !own p.from_
    pins := s.pins.filter fun x => !inPart p x.cl, acc := s.acc.filter fun c => !inPart p (c.1 / 8192)
    ls := s.ls.filter fun c => !inPart p (c.1 / 2 ^ 20), vrs := s.vrs.filter fun c => !vrsOf ids c
    colls := s.colls.map fun (c : Coll) => if (own c.by_.ctx && c.away.isNone) then { c with away := some area } else c
    clusters := s.clusters.map fun (k : Cluster) => if inPart p k.id then idleCluster k else k }

/-- Switch out of a partition (R395, R396): sc operations whose window has closed complete, writes and reductions on their way and dirty lines are
performed, accumulators spill, Sinter entries are invalidated, the SFU keeps its scalar requests (R273), and all that the clusters hold goes to the area. (DESIGN CHOICE, log 48; DEDUCED, log 49; DEDUCED, log 50) -/
def State.switchOut (s : State) (p : Partition) (t area : Nat) : State :=
  let inP := fun (cl : Nat) => inPart p cl
  let due := (s.scops.filter fun o => inP o.agent.cl && decide (windowEnd o.window ≤ t)).mergeSort s.scBefore
  let s := { s with scops := s.scops.filter fun o => !(inP o.agent.cl && decide (windowEnd o.window ≤ t)) }
  let s := due.foldl State.scComplete s
  let s := (s.clusters.filter fun (k : Cluster) => inP k.id).foldl (fun (s : State) (k : Cluster) =>
    (s.modCluster k.id (sfuAway (fun _ => true) (.area p.num area))).spill k.id [0, 1, 2, 3]) s
  let s := s.gridEnd p
  let s := s.dropSinter fun e => inP e.cl
  let s := { s with compiles := s.compiles.filter fun c => !inP c.cl }
  let s := s.putParts p area
  (s.emptyPart p area).modPart p.num fun p => { p with run := .away area }

/-- A `gm.gemv` or `gm.lay` of the cluster has not run to completion (R395, R396). (DEDUCED, log 49) -/
def Cluster.gmLeft (k : Cluster) : Bool := k.quads.any fun q => q.queue.any fun m => m.op == 5 || m.op == 6

/-- Some cluster of the partition has one. -/
def State.gmLeft (s : State) (p : Partition) : Bool := s.clusters.any fun k => inPart p k.id && k.gmLeft

def execGangSwitchOut (s : State) : Result := .next (match s.partNo s.subj.part with
  | some p => match p.run with
    | .stopping t area => if t ≤ s.gtime ∧ s.gmLeft p = false then s.switchOut p t area else s
    | .running => s
    | .stopped _ => s
    | .away _ => s
    | .entering _ _ => s
  | none => s)

/-- The vector registers of contexts from a part, in their order. -/
def State.putVrs (s : State) (cells : List Host.Cell) : List Ctx → Nat → State
  | [], _ => s
  | c :: r, o =>
    let n := 1024 * c.vblocks
    { s with vrs := putBack s.vrs ((cells.filter (inKeys o n)).map fun (x : Host.Cell) => (vrsKey c.id 0 + (x.1 - o), x.2)) (vrsKey c.id 0) (2 ^ 18) }.putVrs
      cells r (o + n)

/-- A cluster takes up what its part of an area holds: nothing where that is not the state of a cluster (R397). (DESIGN CHOICE, log 48) -/
def State.loadPart (s : State) (p : Partition) (area k cl : Nat) : State :=
  match s.getPart p area k with
  | none => s
  | some cells => match Blob.codec.ofBytes (dense blobOff (partLen - blobOff) cells) with
    | none => s
    | some b =>
      let image := fun (i : CtxId) => dense (imageOff i) 512 cells
      let leads := fun (c : Ctx) => ((b.groups.find? fun g => decide (g.slot = c.id.slot ∧ c.grp = some g.base)).map fun g => decide (g.base = c.id.pipe)).getD true
      let cs := b.ctxs.map fun (c : Ctx) => c.ofImage (image c.id) (leads c)
      let gs := b.groups.map fun (g : Group) => g.ofImage (image ⟨cl, g.base, g.slot⟩)
      let s := { s with
        ctxs := s.ctxs ++ cs, groups := s.groups ++ gs, teams := s.teams ++ b.teams, longs := s.longs ++ b.longs, accesses := s.accesses ++ b.accesses
        writes := s.writes ++ b.writes, reds := s.reds ++ b.reds, scops := s.scops ++ b.scops, copies := s.copies ++ b.copies, ocq := s.ocq ++ b.ocq
        packets := s.packets ++ b.packets, pins := s.pins ++ b.pins, acc := putBack s.acc b.acc (8192 * cl) 8192
        ls := putBack s.ls ((cells.filter (inKeys 0 vrsOff)).map fun (x : Host.Cell) => (lsKey cl 0 + x.1, x.2)) (lsKey cl 0) vrsOff }
      ((s.putVrs cells cs vrsOff).lsChanged cl 0 vrsOff).modCluster cl fun k => { k with vq := b.vq, quads := b.quads, mxTeam := b.mxTeam, gsq := b.gsq, lsRels := b.lsRels }

/-- The clusters of a partition take up what an area holds for them, its collectives go on, its swapped teams are its own again, and its requests for
activity begin afresh (R396, R397, R440). (DESIGN CHOICE, log 48) -/
def State.switchIn (s : State) (p : Partition) (area : Nat) : State :=
  let s := (s.partClusters p).zipIdx.foldl (fun (s : State) x => s.loadPart p area x.2 x.1) s
  let mine := fun (x : Nat × Nat × Team) => decide (x.1 = p.num ∧ x.2.1 = area)
  { s with
    colls := s.colls.map fun (c : Coll) => if c.part = p.num ∧ c.away = some area then { c with away := none } else c
    teams := s.teams ++ (s.swapMem.filter mine).map fun x => x.2.2, swapMem := s.swapMem.filter fun x => !mine x }

/-- Scalar SFU results for contexts of the area have not been written (R273). -/
def State.sfuLeft (s : State) (p : Partition) (area : Nat) : Bool := s.clusters.any fun k => inPart p k.id && k.sfuFor (.area p.num area)

/-- The partition starts again (R397): from its area, or in place where that is 0. -/
def execGangSwitchIn (s : State) : Result := .next (match s.partNo s.subj.part with
  | some p => match p.run with
    | .entering t area =>
      if t ≤ s.gtime ∧ s.sfuLeft p area = false then
        let s := { s with clusters := s.clusters.map fun (k : Cluster) => if inPart p k.id then { k with active := false, asks := none } else k }
        let s := if area = 0 then s else s.switchIn p area
        s.modPart p.num fun p => { p with run := .running, refill := true }
      else s
    | .running => s
    | .stopping _ _ => s
    | .stopped _ => s
    | .away _ => s
  | none => s)

end Sys2Proof.Machine
end

