-- ==== Sys2Proof/Machine/Links.lean ====
section
/-! DEFINITION. Sys2Proof/Machine/Links.lean: Evoud Link and the loss of peers (spec/16 R408, R455, R458, R459), and errors with the state dump
(spec/17 R463, R476, R477). -/

namespace Sys2Proof.Machine

/-! ### Loss of a peer (R458, R459) -/

/-- The PA that an access waiting for a response has asked for. -/
def Access.remotePa (a : Access) : Option Nat := match a.stage with
  | .remote x => some (x.pa a.va)
  | _ => none

/-- The accesses that the test picks by their PA fail at once with PROTECTION, STATUS 4. -/
def State.failRemote (s : State) (f : Nat → Bool) : State :=
  let hit := fun (a : Access) => (a.remotePa.map f).getD false
  let agents := ((s.accesses.filter hit).map Access.agent).eraseDups
  let s := { s with accesses := s.accesses.map fun (a : Access) => if hit a then { a with stage := trapStage a.op cPROTECTION 4 a.va } else a }
  agents.foldl State.accessCheck s

/-- The writes and reductions on their way to PAs that the test picks fail. (DESIGN CHOICE, log 38) -/
def State.failWrites (s : State) (f : Nat → Bool) : State :=
  let hit := fun (p : Place) => match p with
    | .mem _ pa => f pa
    | .ls _ _ => false
  let gone := (s.writes.filter fun w => hit w.place).filterMap fun w => w.target.map fun t => (w.agent, t.1, t.2)
  let goneR := (s.reds.filter fun r => hit r.place).filterMap fun r => match r.place with
    | .mem va pa => some (r.agent, va, pa)
    | .ls _ _ => none
  let s := { s with writes := s.writes.filter fun w => !hit w.place, reds := s.reds.filter fun r => !hit r.place }
  (gone ++ goneR).foldl (fun (s : State) x => s.loseWrite x.1 x.2.1 x.2.2) s

/-- A peer is lost: PEER_LOST, every outstanding request to it fails, and the collective unit learns of it. -/
def State.losePeer (s : State) (q : Nat) : State :=
  if s.lost.contains q then s
  else
    let s := { s with lost := s.lost ++ [q] }
    let s := s.raiseAll 2 (BitVec.ofNat 64 q) 0
    let mine := fun (pa : Nat) => decide (pa / 2 ^ 48 = 3 ∧ fld pa 40 8 = q)
    ((s.failRemote mine).failWrites mine).collLost

/-- No request to a peer has a live port. -/
def State.portsOff (s : State) (p : Peer) : Bool := (List.range 8).all fun i => !p.mask.testBit i || s.deadPort i

/-- The peer that a request for a PA has gone to is lost (R459). -/
def State.loseTarget (s : State) (pa : Nat) : State := if pa / 2 ^ 48 = 3 then s.losePeer (fld pa 40 8) else s

/-- A link request of this time has exceeded LTO (R458). -/
def State.overLto (s : State) (since : Nat) : Bool := decide (since + 1000 * s.lto ≤ s.gtime)

/-- A link request has exceeded LTO: that of access subj.n, of write subj.n (subj.num 1) or of reduction subj.n (2): it fails, and its peer is lost (R458,
R459). -/
def execLinkRequestTimeout (s : State) : Result := .next (match s.subj.num with
  | 0 => match s.accesses[s.subj.n]? with
    | none => s
    | some a => match a.remotePa with
      | none => s
      | some pa => if s.overLto a.since then (s.setStage s.subj.n a (trapStage a.op cPROTECTION 4 a.va)).loseTarget pa else s
  | 1 => match s.writes[s.subj.n]? with
    | none => s
    | some w => match w.target with
      | none => s
      | some (va, pa) =>
        if s.overLto w.since then ({ s with writes := s.writes.eraseIdx s.subj.n }.loseWrite w.agent va pa).loseTarget pa else s
  | _ => match s.reds[s.subj.n]? with
    | none => s
    | some r => match r.place with
      | .ls _ _ => s
      | .mem va pa =>
        if s.overLto r.since then ({ s with reds := s.reds.eraseIdx s.subj.n }.loseWrite r.agent va pa).loseTarget pa else s)

/-- The requests that travel on a port fail with it (R458: a link loss). (DEDUCED, log 123) -/
def State.failPort (s : State) (i : Nat) : State :=
  let hit := fun (a : Access) => a.remotePa.isSome && a.port == some i
  let agents := ((s.accesses.filter hit).map Access.agent).eraseDups
  let gone := (s.writes.filter fun w => w.port == some i).filterMap fun w => w.target.map fun t => (w.agent, t.1, t.2)
  let goneR := (s.reds.filter fun r => r.port == some i).filterMap fun r => match r.place with
    | .mem va pa => some (r.agent, va, pa)
    | .ls _ _ => none
  let s := { s with
    accesses := s.accesses.map fun (a : Access) => if hit a then { a with stage := trapStage a.op cPROTECTION 4 a.va } else a
    writes := s.writes.filter fun w => w.port != some i
    reds := s.reds.filter fun r => r.port != some i }
  agents.foldl State.accessCheck ((gone ++ goneR).foldl (fun (s : State) x => s.loseWrite x.1 x.2.1 x.2.2) s)

/-- The retries of port subj.num have failed for 100 µs: LINK_DOWN, and the peers without a live port are lost. -/
def execPortRetryTimeout (s : State) : Result := .next (
  let i := s.subj.num
  if 8 ≤ i ∨ s.deadPort i = true then s
  else
    let s := { s with portsDown := s.portsDown ++ [i] }
    let s := s.raiseAll 3 (BitVec.ofNat 64 i) 0
    (s.peers.filter fun p => p.mask.testBit i && s.portsOff p).foldl (fun (s : State) p => s.losePeer p.num) (s.failPort i))

/-- Port subj.num comes up: LINK_UP. A lost peer stays lost until a LINK_SET names it (R459). -/
def execLinkUp (s : State) : Result := .next (
  if 8 ≤ s.subj.num ∨ s.boot.minimal = true then s
  else { s with portsDown := s.portsDown.filter fun i => decide (i ≠ s.subj.num) }.raiseAll 4 (BitVec.ofNat 64 s.subj.num) 0)

/-! ### Requests of peers (R408) -/

/-- A PA of region 0x0 that exists. -/
def hbmPa (pa n : Nat) : Bool := decide (pa + n ≤ 2 ^ 40 ∧ pa % 2 ^ 31 + n ≤ 0x60000000)

/-- The lines of n bytes from a PA on are written by somebody who is no group of this package (R124). -/
def State.stampLines (s : State) (pa n : Nat) : State :=
  if n = 0 then s
  else ((List.range ((pa + n - 1) / 64 - pa / 64 + 1)).map fun i => 64 * (pa / 64 + i)).foldl (fun (s : State) a =>
    s.stampWrite none 0 a fun l => l.filter fun r => !r.meets (max pa a - a) (min (pa + n) (a + 64) - max pa a)) s

/-- A PA of memory outside the package, of regions 0x1 to 0x3 (R408). -/
def outsidePa (pa n : Nat) : Bool := decide (2 ^ 48 ≤ pa ∧ pa / 2 ^ 48 = (pa + n - 1) / 2 ^ 48 ∧ pa + n ≤ 2 ^ 50)

/-- Another package, the host or a CXL device acts on memory (R133, R408): it reads or writes HBM of this package, or writes memory of its own, which
this package reaches in regions 0x1 to 0x3. (DEDUCED, log 40; DEDUCED, log 123) -/
def execPeerRequest (s : State) : Result := .next (match s.subj.peer with
  | none => s
  | some r => match r.op with
    | .read n => if hbmPa r.pa n then { s with peerOut := s.peerOut ++ [(r.peer, Memory.readN s.mem r.pa n)] } else s
    | .write d => if hbmPa r.pa d.length || outsidePa r.pa d.length then
        { (s.watchPa r.pa d.length).stampLines r.pa d.length with mem := Memory.writeN s.mem r.pa d } else s)

/-! ### Errors (R384, R476, R477) -/

/-- An error joins the error log: it merges into an entry of its location that is less than 1 ms old; the ring keeps 256 entries. (DESIGN CHOICE, log 120) -/
def State.logError (s : State) (e : EccInfo) : State :=
  let same := fun (x : ErrLog) => decide (x.unit = e.unit ∧ x.kind = e.kind ∧ x.place = e.place ∧ x.addr = e.addr ∧ s.gtime < x.gtime + 1000000)
  if s.errlog.any same then { s with errlog := s.errlog.map fun (x : ErrLog) => if (same x) then { x with merged := x.merged + 1 } else x }
  else
    let l := s.errlog ++ [({ gtime := s.gtime, unit := e.unit, kind := e.kind, place := e.place, addr := e.addr, merged := 0 } : ErrLog)]
    { s with errlog := l.drop (l.length - 256) }

/-- A corrected error: the sixteenth at a location within 1 s retires it; an HBM page is then reported with kind 1. -/
def State.corrected16 (s : State) (e : EccInfo) (hbm : Bool) : State :=
  let k := (e.unit, e.place, e.addr)
  let l := (s.corrected.filter fun x => decide (s.gtime < x.1 + 1000000000)) ++ [(s.gtime, k)]
  if 16 ≤ (l.filter fun x => decide (x.2 = k)).length then
    let s := { s with corrected := l.filter fun x => !decide (x.2 = k), retired := s.retired.filter (fun x => !decide (x = k)) ++ [k] }
    if hbm then s.logError { e with kind := 1 } else s
  else { s with corrected := l }

/-- Uncorrectable program data are poisoned (R384, R476): a line of HBM (`array` 1, by its PA), of a cluster's local store (2, by its offset) or of its vector
registers (3, by the index in its array), or of an L1 data bank (4, of the pipe given, by its VA). (DESIGN CHOICE, log 120) -/
def State.poisonData (s : State) (array pipe : Nat) (e : EccInfo) : State := match array with
  | 1 => { s with poison := markLine s.poison e.addr }
  | 2 => { s with lsPoison := markLine s.lsPoison (lsKey e.place e.addr) }
  | 3 => { s with vrsPoison := markLine s.vrsPoison (vrsKey ⟨e.place, 0, 0⟩ e.addr) }
  | 4 => { s with l1 := s.l1.map fun (l : L1Line) => if l.cl = e.place ∧ l.pipe = pipe ∧ l.line = e.addr / 64 then { l with bad := true } else l }
  | _ => s

/-- An error of subj.ecc; subj.num says what array its location is of: 1 to 4 as State.poisonData has them, another number for every other array. (DESIGN CHOICE, log 39; DESIGN CHOICE, log 120) -/
def execEccError (s : State) : Result := .next (match s.subj.ecc with
  | none => s
  | some e =>
    let hbm := decide (s.subj.num = 1)
    if e.kind = 0 then (s.logError e).corrected16 e hbm
    else if e.kind = 1 then (s.logError e).poisonData s.subj.num s.subj.pipe e
    else s)

/-- The 64 bytes of a capture record (R398). -/
def captureBytes (c : Capture) : List Byte :=
  leBytes 8 c.cycle ++ leBytes 8 c.gtime ++ leBytes 8 c.sentReq ++ leBytes 8 c.recvReq ++ leBytes 8 c.sentRsp ++ leBytes 8 c.recvRsp ++
    leBytes 1 c.foReq ++ leBytes 1 c.foRsp ++ leBytes 1 c.cause ++ leBytes 5 0 ++ leBytes 8 c.asked

/-- The 32 bytes of an error-log entry (R477). -/
def errBytes (e : ErrLog) : List Byte :=
  leBytes 8 e.gtime ++ leBytes 1 e.unit ++ leBytes 1 e.kind ++ leBytes 2 e.place ++ leBytes 4 0 ++ leBytes 8 e.addr ++ leBytes 4 e.merged ++ leBytes 4 0

/-- A list of entries over n bytes, the rest zero. -/
def padTo (n : Nat) (b : List Byte) : List Byte := (b ++ List.replicate n 0).take n

def dumpPa : Nat := 0x50000000
def dumpLen : Nat := 241664

/-- The state dump of the partitions given; `part` is 0xFF where the error lies outside a partition. (DEDUCED, log 121) -/
def State.dumpBytes (s : State) (ps : List Partition) (unit part : Nat) : List Byte :=
  let mine := fun (n : Nat) => ps.any fun p => decide (p.num = n)
  padTo 4096 (leBytes 8 0x4B344455 ++ leBytes 8 s.gtime ++ leBytes 1 unit ++ leBytes 1 part ++ leBytes 2 0 ++
    leBytes 4 ((bootstat s.boot).toNat % 2 ^ 32) ++ leBytes 4 s.boot.n) ++
  padTo 65536 ((List.range 1024).flatMap fun i => match s.captures.find? fun c => decide (c.cl = i) && ps.any fun p => inPart p i with
    | some c => captureBytes c
    | none => List.replicate 64 0) ++
  padTo 8192 (s.errlog.flatMap errBytes) ++
  padTo 32768 ((s.kills.filter fun k => mine k.part).flatMap killEntry) ++
  padTo 131072 ((s.faults.filter fun f => mine f.part).flatMap faultEntry)

/-- Writing the dump to its reserved range (R476). (DEDUCED, log 112; DEDUCED, log 121) -/
def State.writeDump (s : State) (d : List Byte) : State :=
  let a := d.toArray
  { (s.watchPa dumpPa dumpLen).stampLines dumpPa dumpLen with mem := Memory.fill s.mem dumpPa dumpLen fun i => a.getD i 0 }

/-- A fatal error of unit subj.num in partition subj.part, or outside every partition, at address subj.lo of physical cluster or stack subj.cl: gang stop with
cause 1, dump, FATAL; before phase 9 the start fails. The function of the partition raises FATAL; where the error lies outside every partition, the
management function and the function of each do. (DESIGN CHOICE, log 111) -/
def execFatalError (s : State) : Result := .next (
  let one := s.partNo s.subj.part
  let ps := match one with
    | some p => [p]
    | none => s.parts
  let part := (one.map Partition.num).getD 0xFF
  let unit := s.subj.num % 256
  let s := s.logError { unit := unit, kind := 2, place := s.subj.cl, addr := s.subj.lo }
  let s := (ps.filter fun p => match p.run with
    | .running => true
    | .stopping _ _ => true
    | .entering _ _ => true
    | .stopped _ => false
    | .away _ => false).foldl (fun (s : State) p => s.gangStop p 1) s
  let s := s.writeDump (s.dumpBytes ps unit part)
  let d0 := BitVec.ofNat 64 (unit + part * 2 ^ 8 + dumpLen * 2 ^ 32)
  let fns := match one with
    | some p => [p.num + 1]
    | none => 0 :: s.parts.map fun (p : Partition) => p.num + 1
  let s : State := fns.foldl (fun (s : State) f => s.raiseEvent { fn := f, kind := 6, gtime := s.gtime, d0 := d0, d1 := BitVec.ofNat 64 dumpPa }) s
  if s.boot.phase < 9 then s.failStart 9 else s)

end Sys2Proof.Machine
end

