-- ==== Sys2Proof/Machine/Boot.lean ====
section
/-! DEFINITION. Sys2Proof/Machine/Boot.lean: the start of the package (spec/17 R463 to R475) and the arrival of mesh packets (spec/13 R404). The
management complex and the boot ROM act in events. -/

namespace Sys2Proof.Machine

/-! ### Reset and power (R463, R475) -/

/-- Reset is released (phase 0): GTIME starts at 0, and phase 1 counts the start, or chooses minimal mode where the counter is at 3. (DESIGN CHOICE, log 2; DESIGN CHOICE, log 113) -/
def execResetRelease (s : State) : Result := .next (
  if s.boot.inReset then
    let b := s.boot
    { s with gtime := 0, boot := { b with
        inReset := false, phase := 1, fails := if b.fails < 3 then b.fails + 1 else b.fails, minimal := decide (3 ≤ b.fails), t0 := 0 } }
  else s)

/-- The package loses power: everything but memory outside it is lost. (DEDUCED, log 114) -/
def execPowerLoss (s : State) : Result := .next
  { State.reset with freeCtr := s.freeCtr, inbox := s.inbox, mem := s.mem.filter fun c => decide (2 ^ 48 ≤ c.1) }

/-- 10 s after phase 0 the start has not reached phase 9 (R463). -/
def execStartTimeout (s : State) : Result := .next (
  if s.boot.inReset = false ∧ s.boot.phase < 9 ∧ s.boot.t0 + 10 ^ 10 ≤ s.gtime then s.failStart 8 else s)

/-! ### The boot region (R464 to R466) -/

/-- The boot region in region 0x2, its execute slot and its staging slot. -/
def regionPa : Nat := 2 * 2 ^ 48
def execSlot : Nat := regionPa + 0x10000000
def stageSlot : Nat := regionPa + 0x20000000

/-- Phase 2: the CXL link of host interface 0 is up with its first range at subj.lo, subj.hi bytes long. (DESIGN CHOICE, log 2) -/
def execCxlLinkUp (s : State) : Result := .next (
  if s.boot.phase = 1 ∧ s.boot.inReset = false then
    if s.subj.hi < 0x30000000 then s.failStart 4
    else { s with
      cxl := if s.cxl.isEmpty then [(s.subj.lo, s.subj.hi)] else s.cxl
      boot := { s.boot with phase := 2, t3 := s.gtime, cxl := some (s.subj.lo, s.subj.hi), pollAt := s.gtime, seen := 0, seenAt := s.gtime } }
  else s)

/-- LEN, ENTRY and LSBLK of a header, where it is well formed (R464, R465). (DEDUCED, log 115) -/
def headerOk (h : List Byte) : Option (Nat × Nat × Nat) :=
  let len := blkAt h 8 8
  let entry := blkAt h 16 8
  let ls := blkAt h 24 8
  if blkAt h 0 4 = 0x4B344248 ∧ blkAt h 4 2 = 1 ∧ blkAt h 6 2 = 0 ∧ ((h.drop 32).take 32).all (fun b => decide (b = 0)) = true ∧
      ((h.drop 192).take 3904).all (fun b => decide (b = 0)) = true ∧ len % 4096 = 0 ∧ 4096 ≤ len ∧ len ≤ 2 ^ 28 - 4096 ∧
      entry % 4 = 0 ∧ 4096 ≤ entry ∧ entry + 4 ≤ 4096 + len ∧ ls % 64 = 0 ∧ 4096 ≤ ls ∧ ls + 16384 ≤ 4096 + len then some (len, entry, ls)
  else none

/-- The message that the signature covers: header bytes 0 to 127 and the image. (DESIGN CHOICE, log 8) -/
def State.slotMessage (s : State) (pa len : Nat) : List Byte := Memory.readN s.mem pa 128 ++ Memory.readN s.mem (pa + 4096) len

/-- Verification of the slot at a PA (R465): the REASON of its failure, or LEN, ENTRY and LSBLK. (DESIGN CHOICE, log 8; DEDUCED, log 115) -/
def State.verifySlot (s : State) (pa : Nat) : Except Nat (Nat × Nat × Nat) :=
  let h := Memory.readN s.mem pa 4096
  match headerOk h with
  | none => .error 3
  | some (len, entry, ls) =>
    let key := (h.drop 64).take 64
    if Config.sm3 key ≠ Config.keyDigest then .error 2
    else if Config.sm2Verify key ((h.drop 128).take 64) (s.slotMessage pa len) then .ok (len, entry, ls)
    else .error 1

/-- A digest as four registers (R466). -/
def digestWords (d : List Byte) : List Word := (List.range 4).map fun i => BitVec.ofNat 64 (blkAt d (8 * i) 8)

/-! ### Boot mode (R469, R470) -/

/-- The PA of the boot parameter block. -/
def bpb (off : Nat) : Nat := off

/-- The package's own verification of the execute slot has failed: REASON SIGNATURE, whatever the check that failed (R468). (DEDUCED, log 151) -/
def State.failExec (s : State) : State := s.failStart 1

/-- Phases 3, 4 and 5: DONE has been seen; the execute slot is verified and measured, the boot parameter block written, and the boot cluster released. (DESIGN CHOICE, log 2) -/
def State.enterBoot (s : State) (leader : Bool) : State := match s.verifySlot execSlot with
  | .error _ => s.failExec
  | .ok (len, entry, ls) =>
    let key := (Memory.readN s.mem execSlot 128).drop 64
    let meas := digestWords (Config.sm3 (s.slotMessage execSlot len)) ++ digestWords (Config.sm3 key)
    let e := ((List.range 1024).filter s.usable).length
    let mem := s.mem.filter fun c => decide (0x3800 ≤ c.1)
    let mem := Memory.writeN mem (bpb 0) (leBytes 4 e)
    let mem := Memory.writeN mem (bpb 24) (leBytes 8 (0x10000000 + ls))
    let s := { s with meas := meas, mem := mem, boot := { s.boot with phase := 5, leader := leader, lead := none, mode := true, len := len } }
    match s.bootCluster with
    | some cl => s.releaseAt cl (BitVec.ofNat 64 (0x10000000 + entry)) 4
    | none => s

/-! ### The lease (R467, R468) -/

/-- The lease word. -/
def State.lease (s : State) : Word := BitVec.ofNat 64 (leNat (Memory.readN s.mem regionPa 8))

def State.putLease (s : State) (w : Word) : State := { s with mem := Memory.writeN s.mem regionPa (leBytes 8 w.toNat) }

/-- The word as the packages that share the region have left it: another package has written subj.lo where subj.ok is false. -/
def State.leaseNow (s : State) : State := if s.subj.ok then s else s.putLease (BitVec.ofNat 64 s.subj.lo)

/-- The n bytes from src on, copied to dst. -/
def Memory.move (m : List Host.Cell) (src dst n : Nat) : List Host.Cell :=
  (m.filter fun c => decide (c.1 < dst)) ++
    ((m.filter fun c => decide (src ≤ c.1 ∧ c.1 < src + n)).map fun c => (dst + (c.1 - src), c.2)) ++ m.filter fun c => decide (dst + n ≤ c.1)

/-- A poll: DONE ends the election, and a free or stale lease is taken. -/
def State.leasePoll (s : State) : State :=
  let w := s.lease
  let b := s.boot
  if wb w 63 then s.enterBoot false
  else if wfld w 0 32 = 0 ∨ (w = b.seen ∧ b.seenAt + 50000000 ≤ s.gtime) then
    let own : Word := BitVec.ofNat 64 ((wfld w 0 32 + 1) % 2 ^ 32 + Config.holder.toNat * 2 ^ 32)
    { s.putLease own with boot := { b with lead := some own, renewed := s.gtime, checked := false, copied := 0, pollAt := s.gtime } }
  else { s with boot := { b with seen := w, seenAt := if w = b.seen then b.seenAt else s.gtime, pollAt := s.gtime + 1000000 } }

/-- A package in Lead goes on: the verification of the staging slot, a piece of 1 MiB, and behind the last one the verification of the execute slot and DONE. (DEDUCED, log 116) -/
def State.leaseWork (s : State) (own : Word) : State :=
  if s.boot.checked = false then match s.verifySlot stageSlot with
    | .error r => s.failStart r
    | .ok _ => { s with boot := { s.boot with checked := true } }
  else
  let total := 4096 + blkAt (Memory.readN s.mem stageSlot 16) 8 8
  let k := s.boot.copied
  if k < total then
    { s with mem := Memory.move s.mem (stageSlot + k) (execSlot + k) (min 0x100000 (total - k)), boot := { s.boot with copied := k + 0x100000 } }
  else match s.verifySlot execSlot with
    | .error _ => s.failExec
    | .ok _ =>
      if s.lease = own then (s.putLease (own ||| (1 <<< 63))).enterBoot true
      else { s with boot := { s.boot with lead := none, seen := s.lease, seenAt := s.gtime, pollAt := s.gtime } }

/-- The boot ROM's next access to the lease, or the next piece of its copy (R467). -/
def execLeasePoll (s : State) : Result := .next (
  if s.boot.phase = 2 then
    let s := s.leaseNow
    match s.boot.lead with
    | some w => s.leaseWork w
    | none => s.leasePoll
  else s)

/-- The word with BEAT + 1 (R467). -/
def beatNext (w : Word) : Word := BitVec.ofNat 64 (wfld w 0 48 + (wfld w 48 15 + 1) % 2 ^ 15 * 2 ^ 48 + wfld w 63 1 * 2 ^ 63)

/-- A renewal; where its compare-and-swap fails, Lead ends. -/
def execLeaseRenew (s : State) : Result := .next (
  if s.boot.phase = 2 then
    let s := s.leaseNow
    match s.boot.lead with
    | none => s
    | some w =>
      if s.lease = w then { s.putLease (beatNext w) with boot := { s.boot with lead := some (beatNext w), renewed := s.gtime } }
      else { s with boot := { s.boot with lead := none, seen := s.lease, seenAt := s.gtime, pollAt := s.gtime } }
  else s)

def execLeasePhaseTimeout (s : State) : Result := .next (
  if s.boot.phase = 2 ∧ s.boot.t3 + 5 * 10 ^ 9 ≤ s.gtime then s.failStart 5 else s)

/-! ### Packets and mailboxes (R404, R405, R471) -/

/-- Packet subj.n arrives: it releases a cluster that is not released, or fills a mailbox, or finds it full. (DESIGN CHOICE, log 130) -/
def execNbrPacketArrival (s : State) : Result := .next (s.deliverPacket s.subj.n)

/-! ### The logical map (R472) -/

/-- The map that the boot cluster has written: logical number of a physical id, 0xFFFF for none. -/
def State.mapEntry (s : State) (id : Nat) : Nat := leNat (Memory.readN s.mem (bpb (0x3000 + 2 * id)) 2)

/-- The ids with an entry, in ascending order. -/
def State.mapped (s : State) : List Nat := (List.range 1024).filter fun id => decide (s.mapEntry id ≠ 0xFFFF)

/-- The check of R472: N where the map holds. (DEDUCED, log 117; DEDUCED, log 118) -/
def State.mapOk (s : State) : Option Nat :=
  let n := leNat (Memory.readN s.mem (bpb 8) 4)
  let ids := s.mapped
  if ids.length = n ∧ ids.map s.mapEntry = List.range n ∧ ids.all s.usable = true ∧ (if s.boot.minimal then 100 else 1000) ≤ n then some n else none

/-- Gating a cluster off: what runs there stops. (DEDUCED, log 119) -/
def State.gateOff (s : State) (cl : Nat) : State :=
  { s.modCluster cl (fun k => { k with
      gated := true, released := false, active := false, asks := none
      vq := [], lanes := [], sfuq := [], sfuOut := [], quads := [{}, {}, {}, {}], mxTeam := none }) with
    ctxs := s.ctxs.filter fun c => decide (c.id.cl ≠ cl), copies := s.copies.filter fun c => decide (c.by_.ctx.cl ≠ cl)
    longs := s.longs.filter fun l => decide (l.dst.cl ≠ cl)
    accesses := s.accesses.filter fun a => decide (a.agent.cl ≠ cl), groups := s.groups.filter fun g => decide (g.cl ≠ cl) }

/-- MAPREADY is written: phase 6 is complete. Then the map is checked and committed, boot mode ends, and MAPDONE is written as a release: phase 7. (DEDUCED, log 118; DEDUCED, log 119) -/
def execMapCheck (s : State) : Result := .next (
  if s.boot.phase = 5 ∧ leNat (Memory.readN s.mem (bpb 12) 4) = 1 then { s with boot := { s.boot with phase := 6 } }
  else if s.boot.phase = 6 ∧ leNat (Memory.readN s.mem (bpb 12) 4) = 1 then match s.mapOk with
    | none => s.failStart 6
    | some n =>
      let ids := s.mapped
      let silent := ((List.range 1024).filter fun i => s.usable i && !(Memory.read s.mem (bpb (0x1000 + 8 * i))).getLsbD 0).length
      let s := { s with lmap := ids.zip (List.range n), boot := { s.boot with n := n, silent := silent } }
      let s := ((List.range 1024).filter fun i => !ids.contains i).foldl State.gateOff s
      let s := { s with
        clusters := s.clusters.map fun (k : Cluster) => { k with boxes := [] }, l1 := [], l1i := [], home := [], l2 := [], tcache := []
        boot := { s.boot with mode := false } }
      let s := s.placeWrite none (.mem (0x20000000 + 16) (bpb 16)) (leBytes 4 1)
      { s with boot := { s.boot with phase := 7 } }
  else s)

/-- Stage two has written BOOTOK: the start is complete, and the failure counter and REASON are cleared (R463, R474, R475). -/
def execBootok (s : State) : Result := .next (
  if s.boot.phase = 8 ∧ leNat (Memory.readN s.mem (bpb 20) 4) = 1 then { s with boot := { s.boot with phase := 9, fails := 0, reason := 0 } } else s)

end Sys2Proof.Machine
end

