-- ==== Sys2Proof/Machine/Control.lean ====
section
/-! DEFINITION. Sys2Proof/Machine/Control.lean: branches and jumps (spec/07 R215, R216; spec/02 R42 to R46). -/

namespace Sys2Proof.Machine

/-- The mask of the active lanes that a condition picks. -/
def laneMask (g : Group) (f : CtxId → Bool) : BitVec 16 :=
  ((List.range g.width).filter fun i => g.lm.getLsbD i && f ⟨g.cl, g.base + i, g.slot⟩).foldl (fun m i => m ||| laneBit i) 0

/-- A conditional branch (R43, R45): convergent, pushed under an armed join, or a split. -/
def State.branch (s : State) (sm : Bool) (target : Word) (cond : CtxId → Bool) : Result :=
  onCtx s fun c => match s.groupOf s.cur with
    | none => s.advance sm (if cond s.cur then target else c.pc + 4)
    | some g =>
      let t := laneMask g cond
      let g0 := { g with armed := none }
      if t = g.lm then (s.setGroup g0).advance sm target
      else if t = 0 then (s.setGroup g0).advance sm (c.pc + 4)
      else match g.armed with
        | some j =>
          if g.stack.length < 4 then
            let e : DivEntry := { j := j, pendPc := c.pc + 4, pend := g.lm &&& ~~~t, taken := t, phaseN := false }
            ((s.setMask { g0 with stack := e :: g.stack } t).advance false target).parkOwed sm s.cur (s.lanes s.cur)
          else (s.split g0 fun i => if cond i then target else c.pc + 4).parkMarked sm (g.ids g.lm)
        | none => (s.split g0 fun i => if cond i then target else c.pc + 4).parkMarked sm (g.ids g.lm)

/-- A compare branch (R215): condition as `intCond` numbers it. -/
def cmpBranch (s : State) (sm : Bool) (a b : Reg) (o : BitVec 15) (k : Nat) : Result :=
  s.branch sm (targetPc (s.ctx s.cur).pc o) fun i => intCond k (s.rg i a) (s.rg i b)

def execBeq (sm : Bool) (a b : Reg) (o : BitVec 15) (s : State) : Result := cmpBranch s sm a b o 0
def execBgeu (sm : Bool) (a b : Reg) (o : BitVec 15) (s : State) : Result := cmpBranch s sm a b o 5
def execBne (sm : Bool) (a b : Reg) (o : BitVec 15) (s : State) : Result := cmpBranch s sm a b o 1
def execBlt (sm : Bool) (a b : Reg) (o : BitVec 15) (s : State) : Result := cmpBranch s sm a b o 2
def execBge (sm : Bool) (a b : Reg) (o : BitVec 15) (s : State) : Result := cmpBranch s sm a b o 3
def execBltu (sm : Bool) (a b : Reg) (o : BitVec 15) (s : State) : Result := cmpBranch s sm a b o 4

def execBp (sm : Bool) (p : PReg) (o : BitVec 21) (s : State) : Result :=
  s.branch sm (targetPc (s.ctx s.cur).pc o) fun i => s.rp i p
def execBnp (sm : Bool) (p : PReg) (o : BitVec 21) (s : State) : Result :=
  s.branch sm (targetPc (s.ctx s.cur).pc o) fun i => !s.rp i p

/-- The link is a fixed destination (R178, R216). -/
def execJal (sm : Bool) (d : Reg) (o : BitVec 20) (s : State) : Result :=
  onCtx s fun c => (s.wgs d (s.laneVals fun _ => c.pc + 4)).advance sm (targetPc c.pc o)

/-- Targets are read before the link is written, and links are written before a split (R49); lanes with a misaligned target trap, and lanes with different targets split (R216). -/
def execJalr (sm : Bool) (d a : Reg) (i : BitVec 15) (s : State) : Result :=
  onCtx s fun c =>
    let ls := s.lanes s.cur
    let t := fun l => s.rg l a + immI i
    let hits := (ls.filter fun l => (t l).toNat % 4 != 0).map fun l => (l, Hit.trap cMISALIGN 0 (t l))
    let good := ls.filter fun l => (t l).toNat % 4 == 0
    let t0 := t (s.lowest s.cur)
    if !hits.isEmpty then (s.wgs d (good.map fun l => (l, c.pc + 4))).hitLanes s.cur hits t false sm
    else if ls.all fun l => t l == t0 then (s.wgs d (s.laneVals fun _ => c.pc + 4)).advance sm t0
    else match s.groupOf s.cur with
      | none => s
      | some g => ((s.wgs d (s.laneVals fun _ => c.pc + 4)).split g t).parkMarked sm good

end Sys2Proof.Machine
end

