-- ==== Sys2Proof/Machine/Fetch.lean ====
section
/-! DEFINITION. Sys2Proof/Machine/Fetch.lean: fetching an instruction word for the agent that issues (spec/01 R18; spec/04 R104;
spec/14 R418; spec/17 R469). -/

namespace Sys2Proof.Machine

/-- What a fetch finds: a word, a trap of cause and STATUS at the fetched address, or an untranslatable page with its reason. -/
inductive Fetched where
  | word (w : Nat)
  | trap (cause status : Nat)
  | absent (reason : Nat)
deriving DecidableEq, Repr

/-- The line of the agent's L1 instruction bank that holds an address (R18). -/
def State.findILine (s : State) (agent : CtxId) (line : Nat) : Option ILine :=
  s.l1i.find? fun l => decide (l.cl = agent.cl ∧ l.pipe = s.bankPipe agent line ∧ l.line = line)

/-- Keeping a fetched line in the bank, whose 16 KiB hold 256 lines: one more takes the place of the line that was put there first (R18). (DESIGN CHOICE, log 31) -/
def State.putILine (s : State) (l : ILine) : State :=
  let rest := s.l1i.filter fun x => !decide (x.cl = l.cl ∧ x.pipe = l.pipe ∧ x.line = l.line)
  let bank := fun (x : ILine) => decide (x.cl = l.cl ∧ x.pipe = l.pipe)
  { s with l1i := (if (rest.filter bank).length < 256 then rest else rest.eraseP bank) ++ [l] }

/-- The word at an offset of a line. -/
def lineWord (data : List Byte) (i : Nat) : Nat := leNat ((data.drop i).take 4)

/-- A fetch from the home slice, which fills the instruction bank (R18, R410). (DESIGN CHOICE, log 30) -/
def State.fetchHome (s : State) (w : Who) (agent : CtxId) (va : Nat) : Fetched × State :=
  match s.lookup w va with
  | (.absent, s) => (.absent reasonAbsent, s)
  | (.malformed, s) => (.absent reasonMalformed, s)
  | (.noMap, s) => (.trap cPROTECTION 0, s)
  | (.ok x, s) =>
    match checkPage w .fetch x with
    | .prot st => (.trap cPROTECTION st, s)
    | .migrating => (.absent reasonMigrating, s)
    | .ok =>
      let pa := x.pa va
      if s.poisonedAt pa 4 then (.trap cPROTECTION 4, s)
      else if s.lostPeer pa then (.trap cPROTECTION 4, s)
      else
        let line := va / 64
        let data := Memory.readN s.mem (x.pa (line * 64)) 64
        let s := if s.usesBootMap w then s
          else (s.fillSlice w va x).putILine { cl := agent.cl, pipe := s.bankPipe agent line, line := line, data := data, x := x }
        (.word (leNat (Memory.readN s.mem pa 4)), s)

/-- The fetch at the agent's pc. A line that the instruction bank holds may serve it, or may have been replaced: the manual gives no order
between a fetch and a store to the fetched bytes (R10). (DESIGN CHOICE, log 30) -/
def State.fetch (s : State) (agent : CtxId) : Fetched × State :=
  let c := s.ctx agent
  let va := c.pc.toNat
  let w := whoOf c
  if 2 ^ 56 ≤ va then (.trap cPROTECTION 0, s)
  else if regionOf va ≠ .paged then (.trap cPROTECTION 0, s)
  else match s.findILine agent (va / 64) with
    | none => s.fetchHome w agent va
    | some l =>
      let (v, s') := s.freshFree
      if v.getLsbD 0 then
        match checkPage w .fetch l.x with
        | .prot st => (.trap cPROTECTION st, s')
        | .migrating => (.word (lineWord l.data (va % 64)), s')
        | .ok => (.word (lineWord l.data (va % 64)), s')
      else s'.fetchHome w agent va

/-- The destination that a fixed instruction writes, from its word (R172, R178): gD of INT-R to ADPC, JAL and JALR, the predicate of PRED. -/
def fixedDest (w : Nat) : Option Dest :=
  let m := fld w 25 6
  if 1 ≤ m ∧ m ≤ 9 ∨ m = 0x15 ∨ m = 0x16 then some (.g ⟨fld w 20 5 % 32, Nat.mod_lt _ (by decide)⟩)
  else if m = 0x17 then some (.p ⟨fld w 20 3 % 8, Nat.mod_lt _ (by decide)⟩)
  else none

/-- The agent's run goes on with a word, or a new one begins with it (R179). A fixed destination is noted where a long result of it is outstanding: of a
fixed write and a later long write the long one comes last, as R178 orders them. (DEDUCED, log 146) -/
def State.noteRun (s : State) (agent : CtxId) (w : Nat) : State := s.modCtx agent fun c =>
  let fresh := match c.runEnd with
    | some p => decide (p ≠ c.pc)
    | none => false
  let late := (fixedDest w).toList.filter fun d => s.longs.any fun l => decide (s.leader l.dst = agent ∧ l.dest = d)
  { c with
    fixedW := (if fresh then [] else c.fixedW) ++ late
    runEnd := if 2 ^ 31 ≤ w then some c.pc else if fresh then none else c.runEnd }

/-- The instruction that the agent issues, and the state after its fetch: a word that no encoding assigns is an ILLEGAL_ENCODING, a fetch
that fails an INSTRUCTION_FETCH_FAULT (R8, R104). -/
def State.issue (s : State) (agent : CtxId) : Instr × State :=
  match s.fetch agent with
  | (.word w, s') => match decodeWord w with
    | .ok i => (i, s'.noteRun agent w)
    | .error _ => (.illegalEncoding, { s' with subj := { num := w } })
  | (.trap cause status, s') => (.instructionFetchFault, { s' with subj := { num := cause, lo := status } })
  | (.absent reason, s') => (.instructionFetchFault, { s' with subj := { ok := false, hi := reason } })

/-- The word has the function value of a privileged instruction of the SYS major, with fields that its form does not admit (R238). -/
def privWord (w : Nat) : Bool := decide (fld w 25 6 = 0x23 ∧ 0x100 ≤ fld w 0 10 ∧ fld w 0 10 ≤ 0x10C)

/-- Issue of a word that no encoding assigns: ILLEGAL in every active lane (R8); PRIV comes first in a lane that lacks the privilege of a privileged
function (R381, R407). -/
def execIllegalEncoding (s : State) : Result := onCtx s fun _ =>
  let f := fld s.subj.num 0 10
  let lacks := fun (i : CtxId) => privWord s.subj.num && lacksPriv (decide (0x108 ≤ f ∧ f ≤ 0x10B)) (s.ctx i)
  if (s.lanes s.cur).any lacks then s.trapEachOpen fun i => if lacks i then cPRIV else cILLEGAL else s.trapOpen cILLEGAL

/-- A fetch that fails: its trap in every active lane with the target in EPC and EVAL, or the page fault of a page that is not translated, as an
upcall where the lane takes upcalls; with no record free the group waits at the instruction (R104, R384, R424). -/
def execInstructionFetchFault (s : State) : Result :=
  onCtx s fun c =>
    if s.subj.ok then s.trapAll s.subj.num s.subj.lo c.pc
    else match s.partOf s.cur.cl with
      | none => s.trapAll cPROTECTION 0 c.pc
      | some p =>
        let d := s.drainGroup s.cur
        match d.pageHits p c.pc.toNat s.subj.hi 4 (d.lanes d.cur) with
        | none => s.stay (.parked (.room .record))
        | some (hits, s) => s.hitLanes s.cur hits (fun _ => c.pc) false false

end Sys2Proof.Machine
end

