-- ==== Sys2Proof/Machine/Fp.lean ====
section
/-! DEFINITION. Sys2Proof/Machine/Fp.lean: scalar floating point and conversions (spec/07 R203 to R207; spec/03 R76 to R84). -/

namespace Sys2Proof.Machine

/-- MODE.FPT (R183). -/
def modeFpt (m : Word) : Bool := wb m 1

/-- The operand of a register in a format (R203). -/
def fpOperand (f : FFmt) (z : Bool) (w : Word) : Ex := operand f z w.toNat

/-- An arithmetic FP-R instruction: rounded once, saturation off; an invalid operation traps under MODE.FPT (R81, R204). -/
def fpOp (s : State) (sm : Bool) (op : FpOp) (d a b : Reg) (r : Fin 4) (z t : Bool) : Result :=
  let f := fpFmt t
  let m := rmodeOf r.val
  let x := fun i => fpOperand f z (s.rg i a)
  let y := fun i => fpOperand f z (s.rg i b)
  let c := fun i => fpOperand f z (s.rg i d)
  onCtx s fun _ => s.longTrapOpen sm d cFP
    (fun i => modeFpt (s.ctx i).mode && fpInvalid op m (x i) (y i) (c i))
    fun i => BitVec.ofNat 64 (result f m false z (fpExact op m (x i) (y i) (c i)))

def execFadd (sm : Bool) (d a b : Reg) (r : Fin 4) (z t : Bool) (s : State) : Result := fpOp s sm .add d a b r z t
def execFsub (sm : Bool) (d a b : Reg) (r : Fin 4) (z t : Bool) (s : State) : Result := fpOp s sm .sub d a b r z t
def execFmul (sm : Bool) (d a b : Reg) (r : Fin 4) (z t : Bool) (s : State) : Result := fpOp s sm .mul d a b r z t
/-- gD is the addend. -/
def execFma (sm : Bool) (d a b : Reg) (r : Fin 4) (z t : Bool) (s : State) : Result := fpOp s sm .fma d a b r z t
def execFdiv (sm : Bool) (d a b : Reg) (r : Fin 4) (z t : Bool) (s : State) : Result := fpOp s sm .div d a b r z t
def execFsqrt (sm : Bool) (d a : Reg) (r : Fin 4) (z t : Bool) (s : State) : Result := fpOp s sm .sqrt d a a r z t

/-- Minimum and maximum (R82): the operand's value again in its format. -/
def fpPick (s : State) (sm : Bool) (d a b : Reg) (t : Bool) (f : Ex → Ex → Ex) : Result :=
  onCtx s fun _ => s.longR sm d fun i =>
    BitVec.ofNat 64 (roundTo (fpFmt t) .rne false (f (fpOperand (fpFmt t) false (s.rg i a)) (fpOperand (fpFmt t) false (s.rg i b))))

def execFmin (sm : Bool) (d a b : Reg) (t : Bool) (s : State) : Result := fpPick s sm d a b t Ex.minNum
def execFmax (sm : Bool) (d a b : Reg) (t : Bool) (s : State) : Result := fpPick s sm d a b t Ex.maxNum

/-- The bits of `fsign`: magnitude of a, sign by the mode m. -/
def fsignCode (f : FFmt) (m a b : Nat) : Nat :=
  let sa := bitAt a (f.width - 1)
  let sb := bitAt b (f.width - 1)
  a % 2 ^ (f.width - 1) + f.sgn (match m with
    | 0 => sb
    | 1 => !sb
    | 2 => sa != sb
    | _ => false)

def execFsign (sm : Bool) (d a b : Reg) (m : Fin 4) (t : Bool) (s : State) : Result :=
  onCtx s fun _ => s.longR sm d fun i =>
    BitVec.ofNat 64 (fsignCode (fpFmt t) m.val (fpCode (fpFmt t) (s.rg i a)) (fpCode (fpFmt t) (s.rg i b)))

def execFclass (sm : Bool) (d a : Reg) (t : Bool) (s : State) : Result :=
  onCtx s fun _ => s.longR sm d fun i => fClassWord (fpFmt t) (fpCode (fpFmt t) (s.rg i a))

def execFcmp (sm : Bool) (n : PReg) (a b : Reg) (c : Fin 8) (t : Bool) (s : State) : Result :=
  onCtx s fun _ => s.longP sm n fun i =>
    fCond c.val (fpOperand (fpFmt t) false (s.rg i a)) (fpOperand (fpFmt t) false (s.rg i b))

/-- A conversion (R83, R84, R207): source code c, destination code t. -/
def fcvtVal (c t : Nat) (x z : Bool) (m : RMode) (w : Word) : Word :=
  match tyFmt c, tyFmt t with
  | some f, some g => BitVec.ofNat 64 (result g m (if g.satDefault then !x else x) z (fpOperand f z w))
  | some f, none =>
    let n := tyBits t
    BitVec.ofInt 64 (Ex.toInt m (intLo n false) (intHi n false) (fpOperand f z w))
  | none, some g => BitVec.ofNat 64 (result g m (if g.satDefault then !x else x) z (Ex.ofInt (intVal (tyBits c) false w.toNat)))
  | none, none => BitVec.ofInt 64 (signedOf (tyBits t) (narrowInt (tyBits t) false x (intVal (tyBits c) false w.toNat)))

/-- A NaN source raises FP under MODE.FPT (R81). -/
def execFcvt (sm : Bool) (d a : Reg) (c : Fin 16) (x z : Bool) (r : Fin 4) (t : Fin 16) (s : State) : Result :=
  onCtx s fun _ => s.longTrapOpen sm d cFP
    (fun i => modeFpt (s.ctx i).mode && match tyFmt c.val with
      | some f => (fpOperand f z (s.rg i a)).isNan
      | none => false)
    fun i => fcvtVal c.val t.val x z (rmodeOf r.val) (s.rg i a)

end Sys2Proof.Machine
end

