-- ==== Sys2Proof/Machine/Host.lean ====
section
/-! DEFINITION. Sys2Proof/Machine/Host.lean: the host's functions (spec/16 R445 to R450, R453 to R457, R460, R462): configuration of partitions, links
and CXL ranges, queries, debug stops, tasks, communicators, and what is delivered to the host. The subject of a request is its descriptor chain. -/

namespace Sys2Proof.Machine

/-! ### Requests and responses (R446 to R449) -/

/-- STATUS of a response (R448). -/
def stOK : Nat := 0
def stINVALID : Nat := 1
def stBUSY : Nat := 2
def stNOMEM : Nat := 3
def stFAULT : Nat := 4
def stUNDERFLOW : Nat := 5
def stSTALE : Nat := 6
def stUNSUPPORTED : Nat := 7

/-- What a request answers: STATUS, DETAIL where the manual states one, and the state with its effects. -/
abbrev Reply := (Nat × Option Nat) × State

/-- A refusal without effect. (DESIGN CHOICE, log 97) -/
def State.deny (s : State) (status : Nat) : Reply := ((status, none), s)

/-- The header of a request (R448), little-endian as everything that the device reads (R4). -/
def HostReq.op (r : HostReq) : Nat := blkAt r.data 0 2
def HostReq.domain (r : HostReq) : BitVec 12 := BitVec.ofNat 12 (blkAt r.data 4 2)
def HostReq.cookie (r : HostReq) : BitVec 64 := BitVec.ofNat 64 (blkAt r.data 8 8)
def HostReq.payload (r : HostReq) : List Byte := r.data.drop 16

/-- The header is short, or one of its reserved bytes is not zero. (DESIGN CHOICE, log 96) -/
def HostReq.bad (r : HostReq) : Bool := decide (r.data.length < 16) || blkAt r.data 2 2 != 0 || blkAt r.data 6 2 != 0

/-- The 16 bytes of a response (R448). -/
def responseBytes (status detail cookie : Nat) : List Byte := leBytes 2 status ++ leBytes 2 0 ++ leBytes 4 detail ++ leBytes 8 cookie

/-- The response to a request; a DETAIL that the manual does not state is free. (DESIGN CHOICE, log 96; DESIGN CHOICE, log 97) -/
def State.respond (s : State) (r : HostReq) (status : Nat) (detail : Option Nat) : State :=
  let (f, s) := s.freshFree
  { s with responses := s.responses ++
      [({ fn := r.fn, queue := r.queue, data := responseBytes status (detail.getD f.toNat) r.cookie.toNat } : Response)] }

/-- A chain with no device-writable 16 bytes is returned with used length 0 (R448). -/
def State.returnChain (s : State) (r : HostReq) : State :=
  { s with responses := s.responses ++ [({ fn := r.fn, queue := r.queue, data := [] } : Response)] }

/-- The ten PCI functions: five of each host interface, number 5 · interface + function (R446). Each is a virtio device of the type and with the PCI device ID
given. -/
def fnOf (f : Nat) : Nat := f % 5
def ifOf (f : Nat) : Nat := f / 5
def virtioType : Nat := 0x3C
def pciDeviceId : Nat := 0x1040 + virtioType

def fnManage (f : Nat) : Bool := decide (f < 10 ∧ fnOf f = 0)
def fnPart (f : Nat) : Bool := decide (f < 10 ∧ fnOf f ≠ 0)
def fnAny (f : Nat) : Bool := decide (f < 10)
/-- The queues of R447, and the descriptors that each accepts. -/
def qControl (q : Nat) : Bool := q == 0
def qMap (q : Nat) : Bool := q == 2
def qSubmit (q : Nat) : Bool := decide (3 ≤ q ∧ q ≤ 129) && q % 2 == 1
def queueMax : Nat := 1024

/-- The event that a request's OP names, where the table of R449 gives it for the function and the queue; every other request is unsupported (R448). -/
def HostReq.label (r : HostReq) : Instr :=
  let on := fun (i : Instr) (f q : Nat → Bool) => if f r.fn && q r.queue then i else .unsupportedRequest
  match r.op with
  | 0x0001 => on .partSet fnManage qControl
  | 0x0002 => on .linkSet fnManage qControl
  | 0x0003 => on .cxlSet fnManage qControl
  | 0x0010 => on .query fnAny qControl
  | 0x0011 => on .debugStop fnPart qControl
  | 0x0012 => on .debugResume fnPart qControl
  | 0x0020 => on .map fnPart qMap
  | 0x0021 => on .unmap fnPart qMap
  | 0x0030 => on .loadImage fnPart qSubmit
  | 0x0031 => on .submit fnPart qSubmit
  | 0x0032 => on .signal fnPart qSubmit
  | 0x0040 => on .commCreate fnPart qControl
  | 0x0041 => on .commReform fnPart qControl
  | 0x0042 => on .commDestroy fnPart qControl
  | _ => .unsupportedRequest

/-- What the device does with a request under an event: nothing where its OP names another event, or where its chain is longer than a queue. (DESIGN CHOICE, log 96) -/
def hostReq (s : State) (i : Instr) (k : HostReq → State → State) : Result :=
  .next (match s.subj.req with
  | none => s
  | some r =>
    if queueMax < r.descs ∨ r.label ≠ i then s
    else if r.room < 16 then s.returnChain r
    else k r s)

/-- A request that the table of R449 gives. -/
def hostOp (s : State) (i : Instr) (k : HostReq → State → Reply) : Result :=
  hostReq s i fun r s =>
    if r.bad then s.respond r stINVALID none
    else
      let a := k r s
      a.2.respond r a.1.1 a.1.2

/-- The event that something from outside is: a request is dispatched on its OP (R448). -/
def eventLabel (i : Instr) (a : Subject) : Instr := match a.req with
  | some r => r.label
  | none => i

/-- A request to the function of a partition: INVALID where the partition is not configured (R446). -/
def partOp (s : State) (i : Instr) (k : HostReq → Partition → State → Reply) : Result :=
  hostOp s i fun r s => match s.partNo (fnOf r.fn - 1) with
    | none => s.deny stINVALID
    | some p => k r p s

/-- A host interface runs CXL 3.1: interface 0 from its link-up on (R463, R464); of interface 1 the manual does not say. (DESIGN CHOICE, log 152) -/
def State.runsCxl (s : State) (i : Nat) : Bool := if i = 0 then s.boot.cxl.isSome else Config.cxlOnOne

/-- The features that a function offers: CXL where its interface runs it, DEBUG, VERSION_1, ACCESS_PLATFORM, RING_PACKED and ORDER_PLATFORM (R446). -/
def State.featuresOffered (s : State) (f : Nat) : Nat := (if s.runsCxl (ifOf f) then 1 else 0) + 2 + 2 ^ 32 + 2 ^ 33 + 2 ^ 34 + 2 ^ 36

/-- FEATURES_OK of function subj.num with the feature bits subj.lo: refused unless the driver accepts VERSION_1, ACCESS_PLATFORM and RING_PACKED. -/
def execFeaturesOk (s : State) : Result := .next (
  let b := s.subj.lo
  let need := 2 ^ 32 + 2 ^ 33 + 2 ^ 34
  if b &&& need = need ∧ b &&& s.featuresOffered s.subj.num = b ∧ fnAny s.subj.num = true then
    { s with features := s.features.filter (fun f => decide (f.1 ≠ s.subj.num)) ++ [(s.subj.num, b)] }
  else s)

/-- The device configuration space of a function (R447): NPAIR, PART, enabled clusters and HBM bytes of the partition. -/
def State.configSpace (s : State) (f : Nat) : List Byte :=
  let fn := fnOf f
  let p := if fn = 0 then none else s.partNo (fn - 1)
  let hss := match p with
    | some p => ((List.range 16).filter fun k => p.usesStack s.boot.minimal k).length
    | none => 0
  leBytes 2 64 ++ leBytes 1 (if fn = 0 then 0xFF else fn - 1) ++ leBytes 1 0 ++
    leBytes 4 ((p.map fun p => (s.partClusters p).length).getD 0) ++ leBytes 8 (hss * 32 * 0x60000000)

def execUnsupportedRequest (s : State) : Result := hostReq s .unsupportedRequest fun r s => s.respond r stUNSUPPORTED none

/-! ### Partitions (R428, R444, R445) -/

/-- A PA that lies in the stacks of a run of bands. -/
def paInBands (half : Bool) (p : Partition) (pa : Nat) : Bool :=
  decide (pa < 2 ^ 40 ∧ pa % 2 ^ 31 < 0x60000000) && p.usesStack half (fld pa 36 4)

/-- A partition whose clusters hold a resident context or take part in a switch that has not happened. -/
def State.partBusy (s : State) (p : Partition) : Bool :=
  (s.ctxs.any fun c => inPart p c.id.cl) || match p.run with
    | .stopping _ _ => true
    | .entering _ _ => true
    | .running => false
    | .stopped _ => false
    | .away _ => false

/-- Clusters that a configuration has left without a partition go back to being unreleased (R444). (DESIGN CHOICE, log 153) -/
def State.unrelease (s : State) (old : Option Partition) : State := match old with
  | none => s
  | some p => { s with clusters := s.clusters.map fun (k : Cluster) =>
      if (inPart p k.id && (s.partOf k.id).isNone) then { k with released := false, active := false, asks := none } else k }

/-- The clusters of a configured partition are released, those that the boot has released being so already, and write the trace entries that they have kept
(R442, R444). (DESIGN CHOICE, log 153) -/
def State.releasePart (s : State) (p : Partition) : State :=
  let s := ((s.partClusters p).filter fun c => !(s.cluster c).released && !(s.cluster c).gated).foldl State.releaseCluster s
  s.putTraces p

/-- What belongs to a partition of this number goes with its configuration: its task table, faults, kill records, communicators, collectives, translations, swapped teams and switch areas. (DESIGN CHOICE, log 100) -/
def State.clearPart (s : State) (n : Nat) : State :=
  { s with
    parts := s.parts.filter fun p => decide (p.num ≠ n), tasks := s.tasks.filter fun t => decide (t.part ≠ n)
    faults := s.faults.filter fun f => decide (f.part ≠ n), kills := s.kills.filter fun k => decide (k.part ≠ n)
    comms := s.comms.filter fun k => decide (k.part ≠ n)
    colls := s.colls.filter fun c => decide (c.part ≠ n), contribs := s.contribs.filter fun c => decide (c.part ≠ n)
    decided := s.decided.filter fun d => decide (d.part ≠ n), tcache := s.tcache.filter fun e => decide (e.part ≠ n)
    l2 := s.l2.filter fun l => decide (l.part ≠ n)
    teams := s.teams.filter fun t => decide (t.part ≠ n), swapMem := s.swapMem.filter fun x => decide (x.1 ≠ n) }

/-- The partition that an entry sets, with bytes 0 to 15 of its PDD and its PTD read; none where the PDD is refused (R413, R428). (DESIGN CHOICE, log 99; DESIGN CHOICE, log 100) -/
def State.newPart (s : State) (num lo hi ptd pdd vbase : Nat) : Option Partition :=
  let b := Memory.readN s.mem pdd 64
  let ttab := blkAt b 0 8
  let trace := blkAt b 8 8
  if ttab % 2 ^ 18 = 0 ∧ trace % 4096 = 0 ∧ (parsePddTail (b.drop 16)).isSome = true ∧ (b.drop 32).all (fun x => decide (x = 0)) = true then
    let old := s.partNo num
    some (s.readPtd { num := num, lo := lo, hi := hi, ptd := ptd, pdd := pdd, vbase := BitVec.ofNat 64 vbase, ttab := ttab, trace := trace
                      cq := (old.map Partition.cq).getD [], cqOut := (old.map Partition.cqOut).getD [] })
  else none

/-- PART_SET (R445): every entry passes the same checks, whether it sets or clears. In minimal mode only partition 0 over bands 0 and 1 is accepted (R475). (DEDUCED, log 98; DESIGN CHOICE, log 99) -/
def State.partSet (s : State) (b : List Byte) : Reply :=
  let num := blkAt b 0 1
  let lo := blkAt b 1 1
  let hi := blkAt b 2 1
  let valid := decide (blkAt b 3 1 = 1)
  let ptd := blkAt b 8 8
  let pdd := blkAt b 16 8
  let new : Partition := { num := num, lo := lo, hi := hi, ptd := ptd, pdd := pdd, vbase := 0 }
  let old := s.partNo num
  let oldBusy := match old with
    | some p => s.partBusy p
    | none => false
  if b.length < 32 ∨ 1 < blkAt b 3 1 ∨ blkAt b 4 4 ≠ 0 ∨ 3 < num ∨ hi < lo ∨ 7 < hi then s.deny stINVALID
  else if s.boot.minimal = true ∧ (num ≠ 0 ∨ lo ≠ 0 ∨ hi ≠ 1) then s.deny stINVALID
  else if s.parts.any fun q => decide (q.num ≠ num ∧ q.lo ≤ hi ∧ lo ≤ q.hi) then s.deny stINVALID
  else if !(paInBands s.boot.minimal new ptd && paInBands s.boot.minimal new pdd) then s.deny stINVALID
  else if oldBusy || s.partBusy new then s.deny stBUSY
  else if !valid then ((stOK, none), (s.clearPart num).unrelease old)
  else match s.newPart num lo hi ptd pdd (blkAt b 24 8) with
    | none => s.deny stINVALID
    | some p =>
      let s := s.clearPart num
      let s := { s with parts := s.parts ++ [p] }.readPdd p
      ((stOK, none), (s.unrelease old).releasePart ((s.partNo num).getD p))

def execPartSet (s : State) : Result := hostOp s .partSet fun r s => s.partSet r.payload

/-! ### Links and CXL ranges (R456, R457, R459) -/

/-- The entries of a peer table from byte 8 on; none where one is not as R457 lays it out. (DEDUCED, log 109) -/
def parsePeers (b : List Byte) : Nat → Nat → Option (List Peer)
  | 0, _ => some []
  | n + 1, i =>
    if blkAt b (i + 1) 1 = 0 ∧ blkAt b (i + 3) 4 = 0 ∧ blkAt b (i + 7) 1 = 0 ∧ blkAt b i 1 ≠ 255 then
      (parsePeers b n (i + 16)).map fun r => { num := blkAt b i 1, mask := blkAt b (i + 2) 1, ident := BitVec.ofNat 64 (blkAt b (i + 8) 8) } :: r
    else none

/-- LINK_SET; a peer all of whose ports are down is lost again at once (R459). (DEDUCED, log 98; DEDUCED, log 109; DESIGN CHOICE, log 142) -/
def State.linkSet (s : State) (b : List Byte) : Reply :=
  let lto := blkAt b 0 4
  let n := (b.length - 8) / 16
  if b.length < 8 ∨ (b.length - 8) % 16 ≠ 0 ∨ 255 < n ∨ (lto ≠ 0 ∧ (lto < 10 ∨ 1000000 < lto)) then s.deny stINVALID
  else match parsePeers b n 8 with
    | none => s.deny stINVALID
    | some l =>
      let s := { s with lto := if lto = 0 then 1000 else lto, peers := l, lost := s.lost.filter fun q => !(l.any fun x => decide (x.num = q)) }
      ((stOK, none), (l.filter s.portsOff).foldl (fun (s : State) p => s.losePeer p.num) s)

def execLinkSet (s : State) : Result := hostOp s .linkSet fun r s => s.linkSet r.payload

/-- The valid entries of a partition's table, with their addresses: the words that are not zero are those that memory lists. -/
def State.entries (s : State) (p : Partition) : List (Nat × Word × Word) :=
  (s.mem.filter fun c => decide (p.tpa ≤ c.1 ∧ c.1 < p.tpa + 64 * 2 ^ p.logb ∧ c.1 % 16 = 0) && c.2.getLsbD 0).map fun c =>
    (c.1, BitVec.ofNat 64 (leNat (Memory.readN s.mem c.1 8)), BitVec.ofNat 64 (leNat (Memory.readN s.mem (c.1 + 8) 8)))

/-- An entry of some partition's table names region 0x2. -/
def State.namesCxl (s : State) : Bool := s.parts.any fun p => p.ptdValid && (s.entries p).any fun e => decide (wfld e.2.2 36 4 = 2)

/-- The host physical address of offset o of region 0x2: it lies in the first range whose cumulative size exceeds o (R456). -/
def cxlHost : List (Nat × Nat) → Nat → Option Nat
  | [], _ => none
  | (base, size) :: r, o => if o < size then some (base + o) else cxlHost r (o - size)

/-- The offset in region 0x2 at which a table shows a host physical address. -/
def cxlOffset : List (Nat × Nat) → Nat → Option Nat
  | [], _ => none
  | (base, size) :: r, h => if base ≤ h ∧ h < base + size then some (h - base) else (cxlOffset r h).map fun o => size + o

/-- The place in region 0x2 at which a table shows a host physical address. -/
def cxlAt (rs : List (Nat × Nat)) (h : Nat) : Option Nat := (cxlOffset rs h).filter fun o => decide (o < 2 ^ 48)

/-- A new table: region 0x2 shows the bytes of the new ranges; bytes that none shows are kept (R456). (DESIGN CHOICE, log 110) -/
def State.showCxl (s : State) (rs : List (Nat × Nat)) : State :=
  let lo := 2 * 2 ^ 48
  let hi := 3 * 2 ^ 48
  let all := s.cxlHidden ++ (s.mem.filter fun c => decide (lo ≤ c.1 ∧ c.1 < hi)).filterMap fun c => (cxlHost s.cxl (c.1 - lo)).map fun h => (h, c.2)
  let s := s.watchPa lo (hi - lo)
  { s with
    cxl := rs, cxlHidden := all.filter fun c => (cxlAt rs c.1).isNone
    mem := all.foldl (fun m (c : Host.Cell) => match cxlAt rs c.1 with
      | some o => Memory.write m (lo + o) c.2
      | none => m) (s.mem.filter fun c => !decide (lo ≤ c.1 ∧ c.1 < hi)) }

/-- (DEDUCED, log 98; DESIGN CHOICE, log 110; DESIGN CHOICE, log 142) -/
def State.cxlSet (s : State) (b : List Byte) : Reply :=
  let n := blkAt b 0 1
  let rs := (List.range n).map fun i => (blkAt b (8 + 16 * i) 8, blkAt b (16 + 16 * i) 8)
  if b.length < 8 + 16 * n ∨ b.length = 0 ∨ 8 < n ∨ (rs.any fun r => decide (r.2 % 2 ^ 28 ≠ 0)) = true then s.deny stINVALID
  else if s.namesCxl then s.deny stBUSY
  else ((stOK, none), s.showCxl rs)

def execCxlSet (s : State) : Result := hostOp s .cxlSet fun r s => s.cxlSet r.payload

/-! ### Queries and debug stops (R449) -/

/-- Code of a record's state (R429). -/
def tstateNum : TState → Nat
  | .free => 0
  | .loaded => 1
  | .ready => 2
  | .placing => 3
  | .running => 4
  | .ending => 4

/-- A handle of a slot in use that has another generation. (DESIGN CHOICE, log 107) -/
def State.handleOld (s : State) (part h : Nat) : Bool := (s.comm part (h % 65536)).isSome && (s.handleSlot part h).isNone

/-- (DESIGN CHOICE, log 107) -/
def State.query (s : State) (r : HostReq) : Reply :=
  let b := r.payload
  let x := blkAt b 4 4
  let p := if fnOf r.fn = 0 then none else s.partNo (fnOf r.fn - 1)
  if b.length < 4 ∨ (blkAt b 0 4 ≠ 0 ∧ b.length < 8) then s.deny stINVALID
  else match blkAt b 0 4, p with
    | 0, _ => ((stOK, some ((bootstat s.boot).toNat % 2 ^ 32)), s)
    | 1, some p => if x < 4096 then ((stOK, some (((s.task p.num x).map fun t => tstateNum t.st).getD 0)), s) else s.deny stINVALID
    | 2, some p => match s.handleSlot p.num x with
      | some k => ((stOK, some k.members.length), s)
      | none => s.deny (if s.handleOld p.num x then stSTALE else stINVALID)
    | _, _ => s.deny stINVALID

def execQuery (s : State) : Result := hostOp s .query fun r s => s.query r

/-- A partition that waits for its switch time, or to go on, is stopped like one that runs; one that is stopped or switched out is stopped already. (DEDUCED, log 108) -/
def execDebugStop (s : State) : Result := partOp s .debugStop fun _ p s => match p.run with
  | .running => ((stOK, none), s.gangStop p 2)
  | .stopping _ _ => ((stOK, none), s.gangStop p 2)
  | .entering _ _ => ((stOK, none), s.gangStop p 2)
  | .stopped _ => s.deny stBUSY
  | .away _ => s.deny stBUSY

/-- A resume in place, as `halt` of kind 2 with area 0 gives it. (DEDUCED, log 108) -/
def execDebugResume (s : State) : Result := partOp s .debugResume fun _ p s => match p.run with
  | .stopped _ => ((stOK, none), s.modPart p.num fun p => { p with run := .entering s.gtime 0 })
  | .running => s.deny stBUSY
  | .stopping _ _ => s.deny stBUSY
  | .away _ => s.deny stBUSY
  | .entering _ _ => s.deny stBUSY

/-! ### Tasks (R453, R454) -/

/-- STATUS of the response for a status of `tsk.submit` (R231, R453). -/
def submitStatus (n : Nat) : Nat := match n with
  | 0 => stOK
  | 2 => stBUSY
  | 3 => stFAULT
  | _ => stINVALID

def State.hostSubmit (s : State) (p : Partition) (r : HostReq) : Reply :=
  let b := r.payload
  let i := blkAt b 0 2
  if b.length < 72 ∨ blkAt b 2 6 ≠ 0 ∨ 4096 ≤ i then s.deny stINVALID
  else match s.engWrites (sysWho p) none (p.ttab + 64 * i) 8 8 ((b.drop 8).take 64) with
    | (.error _, s) => s.deny stFAULT
    | (.ok _, s) =>
      let (st, s) := s.loadTask p i r.domain (some (r.cookie, r.fn, r.queue))
      ((submitStatus st, none), s)

def execSubmit (s : State) : Result := partOp s .submit fun r p s => s.hostSubmit p r

/-- SIGNAL: a decrement without a trap. -/
def State.hostSignal (s : State) (p : Partition) (b : List Byte) : Reply :=
  let i := blkAt b 0 2
  if b.length < 2 ∨ 4096 ≤ i then s.deny stINVALID
  else match decTask s.tasks p.num i with
    | (true, ts) => ((stOK, none), { s with tasks := ts })
    | (false, _) => s.deny stUNDERFLOW

def execSignal (s : State) : Result := partOp s .signal fun r p s => s.hostSignal p r.payload

/-! ### Communicators (R460, R462) -/

/-- A member entry of 8 bytes (R460). (DESIGN CHOICE, log 142) -/
def parseMember (b : List Byte) (i : Nat) : Member :=
  { peer := blkAt b i 1, pipe := blkAt b (i + 1) 1 % 16, slot := blkAt b (i + 1) 1 / 16 % 4, task := blkAt b (i + 2) 2, trank := blkAt b (i + 4) 4 }

def distinct : List Member → Bool
  | [] => true
  | m :: r => !r.contains m && distinct r

/-- Taking a slot: its generation rises by one. -/
def State.takeSlot (s : State) (part slot : Nat) (cid : BitVec 64) (tms : Nat) (ms : List Member) : Nat × State :=
  let gen := ((s.comms.find? fun k => decide (k.part = part ∧ k.slot = slot)).map Comm.gen).getD 0 + 1
  let k : Comm := { part := part, slot := slot, used := true, cid := cid, tms := tms, gen := gen, members := ms, issued := [] }
  (k.handle, { s with
    comms := s.comms.filter (fun x => !decide (x.part = part ∧ x.slot = slot)) ++ [k]
    decided := s.decided.filter fun d => !decide (d.part = part ∧ d.cslot = slot ∧ d.gen = gen) })

/-- (DESIGN CHOICE, log 107; DESIGN CHOICE, log 142) -/
def State.commCreate (s : State) (p : Partition) (b : List Byte) : Reply :=
  let n := blkAt b 12 2
  let tms := blkAt b 8 4
  let ms := (List.range n).map fun j => parseMember b (16 + 8 * j)
  if b.length < 16 ∨ b.length < 16 + 8 * n ∨ n < 2 ∨ 4096 < n ∨ 60000 < tms ∨ distinct ms = false then s.deny stINVALID
  else match (List.range 1024).find? fun i => (s.comm p.num i).isNone with
    | none => s.deny stBUSY
    | some i =>
      let (h, s) := s.takeSlot p.num i (BitVec.ofNat 64 (blkAt b 0 8)) (if tms = 0 then 2000 else tms) ms
      ((stOK, some h), s)

def execCommCreate (s : State) : Result := partOp s .commCreate fun r p s => s.commCreate p r.payload

/-- Every outstanding command of a slot completes STALE with its record, at most n of them (R316); those of a partition that is switched out do so when it
is switched in (R396). -/
def State.endSlot (s : State) (part slot : Nat) : Nat → State
  | 0 => s
  | n + 1 => match s.colls.findIdx? fun c => decide (c.part = part ∧ c.cslot = slot ∧ c.away = none) with
    | none => s
    | some i => match s.colls[i]? with
      | some c => (s.collEnd i c ((s.verdictOf c).getD (4, 0, 0xFFFF))).endSlot part slot n
      | none => s

def State.staleSlot (s : State) (k : Comm) : State := (s.collStale k.part k.slot).endSlot k.part k.slot s.colls.length

/-- (DESIGN CHOICE, log 52) -/
def State.commReform (s : State) (p : Partition) (b : List Byte) : Reply :=
  if b.length < 12 then s.deny stINVALID
  else match s.handleSlot p.num (blkAt b 0 4) with
    | none => s.deny stINVALID
    | some k => match reformBlock k (b.drop 4) with
      | none => s.deny stINVALID
      | some (tms, ranks) => ((stOK, some (k.slot + (k.gen + 1).toNat * 2 ^ 16)), (s.staleSlot k).reformComm k tms ranks)

def execCommReform (s : State) : Result := partOp s .commReform fun r p s => s.commReform p r.payload

/-- (DESIGN CHOICE, log 107) -/
def State.commDestroy (s : State) (p : Partition) (b : List Byte) : Reply :=
  if b.length < 4 then s.deny stINVALID
  else match s.handleSlot p.num (blkAt b 0 4) with
    | none => s.deny (if s.handleOld p.num (blkAt b 0 4) then stSTALE else stINVALID)
    | some k =>
      let s := (s.staleSlot k).modComm k.part k.slot fun k => { k with used := false, members := [], issued := [] }
      ((stOK, none), { s with contribs := s.contribs.filter fun c => !decide (c.part = k.part ∧ c.cslot = k.slot) })

def execCommDestroy (s : State) : Result := partOp s .commDestroy fun r p s => s.commDestroy p r.payload

/-! ### Delivery (R453, R455) -/

/-- The oldest completion event of queue subj.num of function subj.n, of partition subj.part, goes into a buffer of that queue: four dwords, little-endian. -/
def execCompletionEventDeliver (s : State) : Result := .next (s.modPart s.subj.part fun p =>
  let mine := fun (e : Nat × Nat × List Word) => decide (e.1 = s.subj.n ∧ e.2.1 = s.subj.num)
  match p.cq.find? mine with
  | none => p
  | some e => { p with cq := dropFirst mine p.cq, cqOut := p.cqOut ++ [(e.1, e.2.1, e.2.2.flatMap fun w => leBytes 8 w.toNat)] })

/-- The events that units hold are raised again, in their order (R455). (DEDUCED, log 112) -/
def State.raiseHeld (s : State) : State :=
  let l := s.evHeld
  l.foldl (fun (s : State) e => s.raiseEvent e) { s with evHeld := [] }

/-- The record that function fn delivers next: a held one, then one of the reserve. (DESIGN CHOICE, log 111) -/
def State.takeEvent (s : State) (fn : Nat) : Option (Event × State) :=
  match s.events.find? fun e => decide (e.fn = fn) with
  | some e => some (e, { s with events := dropFirst (fun (x : Event) => decide (x.fn = fn)) s.events })
  | none => match s.reserve.find? fun e => decide (e.fn = fn) with
    | some e => some (e, { s with reserve := dropFirst (fun (x : Event) => decide (x.fn = fn)) s.reserve })
    | none => none

/-- The dump that a FATAL record names, where the buffer of n bytes holds it too (R476). (DEDUCED, log 112) -/
def State.dumpFor (s : State) (e : Event) (n : Nat) : List Byte :=
  let len := wfld e.d0 32 32
  if e.kind = 6 ∧ 32 + len ≤ n then Memory.readN s.mem e.d1.toNat len else []

/-- The 32 bytes of a record (R455); `gap` fills bytes 2 to 7, which the manual does not name. -/
def eventBytes (e : Event) (lostn gap : Nat) : List Byte :=
  leBytes 1 e.kind ++ leBytes 1 lostn ++ leBytes 6 gap ++ leBytes 8 e.gtime ++ leBytes 8 e.d0.toNat ++ leBytes 8 e.d1.toNat

/-- Function subj.num delivers a record into a buffer of subj.hi bytes, with the number of events dropped since the last one. Which of the two interfaces has the
buffer is open: the records of a function go to either. (DESIGN CHOICE, log 111) -/
def execEventRecordDeliver (s : State) : Result := .next (match s.takeEvent (fnOf s.subj.num) with
  | none => s
  | some (e, s) =>
    let lostn := ((s.lostn.find? fun p => decide (p.1 = e.fn)).map Prod.snd).getD 0
    let (f, s) := s.freshFree
    ({ s with
      evOut := s.evOut ++ [(s.subj.num, eventBytes e lostn f.toNat ++ s.dumpFor e s.subj.hi)]
      lostn := s.lostn.filter fun p => decide (p.1 ≠ e.fn) }).raiseHeld)

end Sys2Proof.Machine
end

