-- ==== Sys2Proof/Machine/HostMem.lean ====
section
/-! DEFINITION. Sys2Proof/Machine/HostMem.lean: the memory commands of the host (spec/16 R451, R452): MAP with its checks and frames, UNMAP, and
LOAD_IMAGE. -/

namespace Sys2Proof.Machine

/-! ### The MAP payload (R451) -/

structure MapReq where
  va : Nat
  len : Nat
  target : Nat
  cls : Nat
  attr : Nat
  flags : Nat
  peer : Nat
  key : Nat
deriving DecidableEq, Repr

def MapReq.alloc (m : MapReq) : Bool := m.flags / 8 % 2 == 1
def MapReq.region (m : MapReq) : Nat := m.flags / 16 % 4
def MapReq.size (m : MapReq) : Nat := 2 ^ pageShift m.cls
def MapReq.pages (m : MapReq) : Nat := m.len / m.size

/-- The payload; none where it is short or has a reserved value. -/
def parseMap (b : List Byte) : Option MapReq :=
  let m : MapReq := { va := blkAt b 0 8, len := blkAt b 8 8, target := blkAt b 16 8, cls := blkAt b 24 1, attr := blkAt b 25 1
                      flags := blkAt b 26 1, peer := blkAt b 27 1, key := blkAt b 28 2 }
  if b.length < 32 ∨ 3 < m.cls ∨ 2 < m.attr ∨ 128 ≤ m.flags ∨ 4096 ≤ m.key ∨ blkAt b 30 2 ≠ 0 then none else some m

/-- W0 of the entry of the page at va: A and D clear (R415, R451). -/
def MapReq.w0 (m : MapReq) (va : Nat) : Nat :=
  1 + 2 * m.cls + 8 + 16 * (m.flags % 2) + 32 * (m.flags / 2 % 2) + 64 * (m.flags / 4 % 2) + va / 4096 * 4096

/-- W1 for a frame: MIG and STRIPE 0. -/
def MapReq.w1 (m : MapReq) (pa : Nat) : Nat := pa / 4096 % 2 ^ 40 + m.key * 2 ^ 40 + m.attr * 2 ^ 52

/-- The frame of page i where it is not allocated (R408, R451). (DESIGN CHOICE, log 105) -/
def MapReq.frame (m : MapReq) (i : Nat) : Nat :=
  let t := m.target + i * m.size
  match m.region with
  | 0 => t % 2 ^ 48
  | 1 => 2 ^ 48 + m.flags / 64 % 2 * 2 ^ 47 + t % 2 ^ 47
  | 2 => 2 * 2 ^ 48 + t % 2 ^ 48
  | _ => 3 * 2 ^ 48 + m.peer * 2 ^ 40 + t % 2 ^ 40

/-! ### Checks -/

/-- A byte of the page of class c at va is mapped at some class: by an entry of a larger or equal page, or of a smaller one within it. -/
def State.mappedAny (s : State) (p : Partition) (va c : Nat) : Bool :=
  (List.range 4).any fun k => (List.range (2 ^ (pageShift c - pageShift k))).any fun j => (s.probe p (va + j * 2 ^ pageShift k) k).isSome

/-- The index of the first page, from i on, that is mapped already; n pages at most. -/
def State.firstMapped (s : State) (p : Partition) (m : MapReq) : Nat → Nat → Option Nat
  | 0, _ => none
  | n + 1, i => if s.mappedAny p (m.va + i * m.size) m.cls then some i else s.firstMapped p m n (i + 1)

/-- The addresses of the free entries of the pair of buckets for a page (R414). (DESIGN CHOICE, log 103) -/
def State.freeEntries (s : State) (p : Partition) (va c : Nat) : List Nat :=
  let base := p.tpa + 128 * probePair p.logb va c
  ((List.range 8).map fun i => base + 16 * i).filter fun a => !(Memory.read s.mem a).getLsbD 0

/-- The index of the first page, from i on, whose pair has no entry left when those of `plan`, the pairs of the pages before it, are taken. -/
def State.firstFull (s : State) (p : Partition) (m : MapReq) : Nat → Nat → List Nat → Option Nat
  | 0, _, _ => none
  | n + 1, i, plan =>
    let va := m.va + i * m.size
    let b := probePair p.logb va m.cls
    if (s.freeEntries p va m.cls).length ≤ plan.count b then some i else s.firstFull p m n (i + 1) (b :: plan)

/-! ### Frames of ALLOC -/

/-- The ranges of PA space that ALLOC does not assign: frames taken, descriptors, the table, frames that entries name, and the range of the state dump
(R476). -/
def State.takenRanges (s : State) (p : Partition) : List (Nat × Nat) :=
  (s.parts.flatMap fun q => q.frames.map fun f => (f.1, f.2.1)) ++ [(p.ptd, 64), (p.pdd, 64), (p.tpa, 64 * 2 ^ p.logb), (0x50000000, 0x10000000)] ++
    (s.entries p).map fun e => (wfld e.2.2 0 40 * 4096, if wb e.2.2 56 then 2 ^ pageShift (wfld e.2.1 1 2) / 32 else 2 ^ pageShift (wfld e.2.1 1 2))

/-- The j-th frame of n bytes in the stacks given. -/
def frameAt (hss : List Nat) (n j : Nat) : Nat :=
  let per := 0x60000000 / n
  ((hss[j / (32 * per) % hss.length]?).getD 0) * 2 ^ 36 + j / per % 32 * 2 ^ 31 + j % per * n

/-- A free frame: the first from place j on, of `fuel` places. (DESIGN CHOICE, log 103) -/
def findFrame (taken : List (Nat × Nat)) (hss : List Nat) (n total : Nat) : Nat → Nat → Option Nat
  | 0, _ => none
  | fuel + 1, j =>
    let pa := frameAt hss n (j % total)
    if taken.any fun t => decide (t.1 < pa + n ∧ pa < t.1 + t.2) then findFrame taken hss n total fuel (j + 1) else some pa

/-- Frames for k pages; which free frames they are is open. (DESIGN CHOICE, log 103) -/
def allocFrames (taken : List (Nat × Nat)) (hss : List Nat) (n start : Nat) : Nat → Option (List Nat)
  | 0 => some []
  | k + 1 =>
    let total := hss.length * 32 * (0x60000000 / n)
    match findFrame taken hss n total total start with
    | none => none
    | some pa => (allocFrames ((pa, n) :: taken) hss n start k).map fun r => pa :: r

/-- Zeroing a frame. -/
def zeroFrame (m : List Host.Cell) (pa n : Nat) : List Host.Cell := m.filter fun c => decide (c.1 < pa ∨ pa + n ≤ c.1)

/-! ### MAP (R420, R451) -/

/-- Writing one entry: W1, then W0 with V = 1; which free entry of the pair it takes is open. (DESIGN CHOICE, log 103) -/
def State.install (s : State) (p : Partition) (m : MapReq) (va pa : Nat) : State :=
  let (f, s) := s.freshFree
  let l := s.freeEntries p va m.cls
  let a := (l[f.toNat % l.length]?).getD 0
  let s := s.placeWrite none (.mem (p.tva + (a + 8 - p.tpa)) (a + 8)) (leBytes 8 (m.w1 pa))
  s.placeWrite none (.mem (p.tva + (a - p.tpa)) a) (leBytes 8 (m.w0 va))

/-- Writing the entries in ascending VA. -/
def State.installAll (s : State) (p : Partition) (m : MapReq) (i : Nat) : List Nat → State
  | [] => s
  | pa :: r => (s.install p m (m.va + i * m.size) pa).installAll p m (i + 1) r

/-- (DEDUCED, log 101; DESIGN CHOICE, log 102) -/
def State.hostMap (s : State) (p : Partition) (b : List Byte) : Reply := match parseMap b with
  | none => s.deny stINVALID
  | some m =>
    if m.alloc = true ∧ (m.region ≠ 0 ∨ m.target ≠ 0) then ((stINVALID, some 0), s)
    else if m.va % m.size ≠ 0 ∨ m.len % m.size ≠ 0 ∨ m.len = 0 ∨ m.target % m.size ≠ 0 then s.deny stINVALID
    else if 2 ^ 55 < m.va + m.len then s.deny stINVALID
    else match s.firstMapped p m m.pages 0 with
      | some i => ((stINVALID, some i), s)
      | none =>
        let hss := (List.range 16).filter (p.usesStack s.boot.minimal)
        let start := Config.pick s.freeCtr
        let fr := if m.alloc then allocFrames (s.takenRanges p) hss m.size start m.pages else some ((List.range m.pages).map m.frame)
        match fr with
        | none => s.deny stNOMEM
        | some fr => match s.firstFull p m m.pages 0 [] with
          | some i => ((stNOMEM, some i), s)
          | none =>
            let s := { s with freeCtr := s.freeCtr + 1 }
            let s := if m.alloc then
                { s.modPart p.num (fun q => { q with frames := q.frames ++
                    (fr.zip (List.range fr.length)).map fun x => (x.1, m.size, m.va + x.2 * m.size) }) with
                  mem := fr.foldl (fun mm pa => zeroFrame mm pa m.size) s.mem }
              else s
            ((stOK, none), s.installAll p m 0 fr)

def execMap (s : State) : Result := partOp s .map fun r p s => s.hostMap p r.payload

/-! ### UNMAP (R451) -/

/-- The entries that probes of the bytes from va to va + n − 1 find: address, VA of the page, class. (DEDUCED, log 104) -/
def State.found (s : State) (p : Partition) (va n : Nat) : List (Nat × Nat × Nat) :=
  ((s.entries p).map fun e => (e.1, e.2.1.toNat % 2 ^ 56 / 4096 * 4096, wfld e.2.1 1 2)).filter fun e =>
    decide (e.2.1 < va + n ∧ va < e.2.1 + 2 ^ pageShift e.2.2) && decide ((s.probe p e.2.1 e.2.2).bind Xlat.pte = some e.1)

/-- Accesses to a page that have not passed their check points probe again (R402, R421). -/
def State.reprobe (s : State) (cl lo n : Nat) : State :=
  { s with accesses := s.accesses.map fun (a : Access) =>
      if s.samePart a.agent.cl cl ∧ lo ≤ a.va ∧ a.va < lo + n then match a.stage with
        | .setD _ => { a with stage := .probe }
        | .remote _ => { a with stage := .probe }
        | .check _ => { a with stage := .probe }
        | _ => a
      else a }

/-- Removing one page: V := 0, `xlat.inv` of it, and the frame that ALLOC took for it. (DEDUCED, log 104) -/
def State.unmapPage (s : State) (p : Partition) (e : Nat × Nat × Nat) : State :=
  let n := 2 ^ pageShift e.2.2
  let w0 := leNat (Memory.readN s.mem e.1 8)
  let fr := wfld (BitVec.ofNat 64 (leNat (Memory.readN s.mem (e.1 + 8) 8))) 0 40 * 4096
  let s := s.placeWrite none (.mem (p.tva + (e.1 - p.tpa)) e.1) (leBytes 8 (w0 / 2 * 2))
  let s := s.dropXlat p.num (128 * p.lo) e.2.1 e.2.2 false
  let s := s.reprobe (128 * p.lo) e.2.1 n
  s.modPart p.num fun q => { q with frames := q.frames.filter fun f => !decide (f.1 = fr ∧ f.2.1 = n) }

/-- (DEDUCED, log 104) -/
def State.hostUnmap (s : State) (p : Partition) (b : List Byte) : Reply :=
  if b.length < 16 then s.deny stINVALID
  else
    let l := s.found p (blkAt b 0 8) (blkAt b 8 8)
    ((stOK, some l.length), l.foldl (fun (s : State) e => s.unmapPage p e) s)

def execUnmap (s : State) : Result := partOp s .unmap fun r p s => s.hostUnmap p r.payload

/-! ### LOAD_IMAGE (R452) -/

/-- The pages that a chunk of n ≤ 4096 bytes meets can be written: that of its first byte and that of its last. (DEDUCED, log 106) -/
def State.chunkOk (s : State) (p : Partition) (va n : Nat) : Bool × State :=
  if 2 ^ 55 < va + n then (false, s)
  else match s.engPlace (sysWho p) .write va 1 with
    | (.error _, s) => (false, s)
    | (.ok _, s) => match s.engPlace (sysWho p) .write (va + n - 1) 1 with
      | (.error _, s) => (false, s)
      | (.ok _, s) => (true, s)

/-- Writing bytes from va on, line by line; n lines at most. -/
def State.putLines (s : State) (p : Partition) : Nat → Nat → List Byte → State
  | 0, _, _ => s
  | n + 1, va, d =>
    if d.isEmpty then s
    else
      let k := 64 - va % 64
      (s.engWrite (sysWho p) none va (d.take k)).2.putLines p n (va + k) (d.drop k)

/-- Chunks of 4 KiB from byte `done` on; n chunks at most. Answers the bytes written and whether a page failed. (DEDUCED, log 106) -/
def State.loadChunks (s : State) (p : Partition) (src dst len : Nat) : Nat → Nat → Bool × Nat × State
  | 0, done => (true, done, s)
  | n + 1, done =>
    if len ≤ done then (true, done, s)
    else
      let k := min 4096 (len - done)
      match s.chunkOk p (dst + done) k with
      | (false, s) => (false, done, s)
      | (true, s) => (s.putLines p 65 (dst + done) (Memory.readN s.mem (src + done) k)).loadChunks p src dst len n (done + k)

/-- (DEDUCED, log 106) -/
def State.hostLoad (s : State) (p : Partition) (b : List Byte) : Reply :=
  let len := blkAt b 16 8
  if b.length < 25 ∨ 1 < blkAt b 24 1 then s.deny stINVALID
  else
    let src := 2 ^ 48 + blkAt b 24 1 * 2 ^ 47 + blkAt b 0 8 % 2 ^ 47
    match s.loadChunks p src (blkAt b 8 8) len (len / 4096 + 1) 0 with
    | (true, n, s) => ((stOK, some n), s)
    | (false, n, s) => ((stFAULT, some n), s)

def execLoadImage (s : State) : Result := partOp s .loadImage fun r p s => s.hostLoad p r.payload

end Sys2Proof.Machine
end

