-- ==== Sys2Proof/Machine/IntR.lean ====
section
/-! DEFINITION. Sys2Proof/Machine/IntR.lean: the INT-R major (spec/07 R199, R200). -/

namespace Sys2Proof.Machine

/-- An operation of gA and gB. -/
def intR (s : State) (sm : Bool) (d a b : Reg) (f : Word → Word → Word) : Result :=
  onCtx s fun _ => s.fixedR sm d fun i => f (s.rg i a) (s.rg i b)

/-- A unary operation of gA. -/
def intU (s : State) (sm : Bool) (d a : Reg) (f : Word → Word) : Result :=
  onCtx s fun _ => s.fixedR sm d fun i => f (s.rg i a)

/-- Clamping to the signed 64-bit range (R90). -/
def satWord (i : Int) : Word := BitVec.ofInt 64 (clampInt (intLo 64 false) (intHi 64 false) i)

/-- The sum or difference, wrapping or clamped. -/
def addWord (sat : Bool) (x y : Word) : Word := if sat then satWord (x.toInt + y.toInt) else x + y
def subWord (sat : Bool) (x y : Word) : Word := if sat then satWord (x.toInt - y.toInt) else x - y

/-- A shift amount: the six low bits (R199). -/
def shAmt (w : Word) : Nat := wfld w 0 6

def ofBool64 (b : Bool) : Word := if b then 1 else 0

/-- Leading zeros of the low n bits; n where they are all zero. -/
def clzFrom (x : Word) : Nat → Nat
  | 0 => 0
  | n + 1 => if x.getLsbD n then 0 else clzFrom x n + 1

/-- Trailing zeros of the n bits from bit k on. -/
def ctzFrom (x : Word) (k : Nat) : Nat → Nat
  | 0 => 0
  | n + 1 => if x.getLsbD k then 0 else ctzFrom x (k + 1) n + 1

/-- One bits among the low n. -/
def popFrom (x : Word) : Nat → Nat
  | 0 => 0
  | n + 1 => (if x.getLsbD n then 1 else 0) + popFrom x n

/-- Sum of the bits of the list with their places: bit i of the result is f i. -/
def bitsOf (f : Nat → Bool) : Nat → Nat
  | 0 => 0
  | n + 1 => (if f n then 2 ^ n else 0) + bitsOf f n

/-- The field of `bfx` and `bfi`: position and length (R200). -/
def bfPos (w : Word) : Nat := wfld w 0 6
def bfLen (w : Word) : Nat := min (wfld w 8 7) (64 - bfPos w)

/-- Mask of a bit field. -/
def bfMask (pos len : Nat) : Word := BitVec.ofNat 64 ((2 ^ len - 1) * 2 ^ pos)

def bfxVal (x w : Word) : Word := BitVec.ofNat 64 (wfld x (bfPos w) (bfLen w))

def bfiVal (old x w : Word) : Word :=
  (old &&& ~~~(bfMask (bfPos w) (bfLen w))) ||| ((x <<< bfPos w) &&& bfMask (bfPos w) (bfLen w))

def execAdd (sm : Bool) (d a b : Reg) (t : Bool) (s : State) : Result := intR s sm d a b (addWord t)
def execSub (sm : Bool) (d a b : Reg) (t : Bool) (s : State) : Result := intR s sm d a b (subWord t)
def execAnd (sm : Bool) (d a b : Reg) (s : State) : Result := intR s sm d a b fun x y => x &&& y
def execOr (sm : Bool) (d a b : Reg) (s : State) : Result := intR s sm d a b fun x y => x ||| y
def execXor (sm : Bool) (d a b : Reg) (s : State) : Result := intR s sm d a b fun x y => x ^^^ y
def execAndn (sm : Bool) (d a b : Reg) (s : State) : Result := intR s sm d a b fun x y => x &&& ~~~y
def execOrn (sm : Bool) (d a b : Reg) (s : State) : Result := intR s sm d a b fun x y => x ||| ~~~y
def execSll (sm : Bool) (d a b : Reg) (s : State) : Result := intR s sm d a b fun x y => x <<< shAmt y
def execSrl (sm : Bool) (d a b : Reg) (s : State) : Result := intR s sm d a b fun x y => x >>> shAmt y
def execSra (sm : Bool) (d a b : Reg) (s : State) : Result := intR s sm d a b fun x y => x.sshiftRight (shAmt y)
def execRol (sm : Bool) (d a b : Reg) (s : State) : Result := intR s sm d a b fun x y => x.rotateLeft (shAmt y)
def execRor (sm : Bool) (d a b : Reg) (s : State) : Result := intR s sm d a b fun x y => x.rotateRight (shAmt y)
def execSlt (sm : Bool) (d a b : Reg) (s : State) : Result := intR s sm d a b fun x y => ofBool64 (x.slt y)
def execSltu (sm : Bool) (d a b : Reg) (s : State) : Result := intR s sm d a b fun x y => ofBool64 (x.ult y)
def execMin (sm : Bool) (d a b : Reg) (s : State) : Result := intR s sm d a b fun x y => if y.slt x then y else x
def execMax (sm : Bool) (d a b : Reg) (s : State) : Result := intR s sm d a b fun x y => if x.slt y then y else x
def execMinn (sm : Bool) (d a b : Reg) (s : State) : Result := intR s sm d a b fun x y => if y.ult x then y else x
def execMaxn (sm : Bool) (d a b : Reg) (s : State) : Result := intR s sm d a b fun x y => if x.ult y then y else x
def execClz (sm : Bool) (d a : Reg) (s : State) : Result := intU s sm d a fun x => BitVec.ofNat 64 (clzFrom x 64)
def execCtz (sm : Bool) (d a : Reg) (s : State) : Result := intU s sm d a fun x => BitVec.ofNat 64 (ctzFrom x 0 64)
def execPop (sm : Bool) (d a : Reg) (s : State) : Result := intU s sm d a fun x => BitVec.ofNat 64 (popFrom x 64)
def execBrev (sm : Bool) (d a : Reg) (s : State) : Result :=
  intU s sm d a fun x => BitVec.ofNat 64 (bitsOf (fun i => x.getLsbD (63 - i)) 64)
def execBswap (sm : Bool) (d a : Reg) (s : State) : Result :=
  intU s sm d a fun x => BitVec.ofNat 64 (leNat (leBytes 8 x.toNat).reverse)
def execSextB (sm : Bool) (d a : Reg) (s : State) : Result := intU s sm d a fun x => (x.setWidth 8).signExtend 64
def execSextH (sm : Bool) (d a : Reg) (s : State) : Result := intU s sm d a fun x => (x.setWidth 16).signExtend 64
def execSextW (sm : Bool) (d a : Reg) (s : State) : Result := intU s sm d a fun x => (x.setWidth 32).signExtend 64
def execZextW (sm : Bool) (d a : Reg) (s : State) : Result := intU s sm d a fun x => (x.setWidth 32).setWidth 64
def execBfx (sm : Bool) (d a b : Reg) (s : State) : Result := intR s sm d a b bfxVal
/-- `bfi` reads gD as a source too. -/
def execBfi (sm : Bool) (d a b : Reg) (s : State) : Result :=
  onCtx s fun _ => s.fixedR sm d fun i => bfiVal (s.rg i d) (s.rg i a) (s.rg i b)
def execSel (sm : Bool) (d a b : Reg) (p : PReg) (s : State) : Result :=
  onCtx s fun _ => s.fixedR sm d fun i => if s.rp i p then s.rg i a else s.rg i b

end Sys2Proof.Machine
end

