-- ==== Sys2Proof/Machine/IntImm.lean ====
section
/-! DEFINITION. Sys2Proof/Machine/IntImm.lean: the immediate majors (spec/07 R201). -/

namespace Sys2Proof.Machine

def execAddi (sm : Bool) (d a : Reg) (i : BitVec 15) (s : State) : Result := intU s sm d a fun x => x + immI i
def execAndi (sm : Bool) (d a : Reg) (i : BitVec 15) (s : State) : Result := intU s sm d a fun x => x &&& immI i
def execOri (sm : Bool) (d a : Reg) (i : BitVec 15) (s : State) : Result := intU s sm d a fun x => x ||| immI i
def execXori (sm : Bool) (d a : Reg) (i : BitVec 15) (s : State) : Result := intU s sm d a fun x => x ^^^ immI i
def execSlli (sm : Bool) (d a : Reg) (n : Fin 64) (s : State) : Result := intU s sm d a fun x => x <<< n.val
def execSrli (sm : Bool) (d a : Reg) (n : Fin 64) (s : State) : Result := intU s sm d a fun x => x >>> n.val
def execSrai (sm : Bool) (d a : Reg) (n : Fin 64) (s : State) : Result := intU s sm d a fun x => x.sshiftRight n.val
def execSltii (sm : Bool) (d a : Reg) (i : BitVec 14) (s : State) : Result := intU s sm d a fun x => ofBool64 (x.slt (immC i))
def execSltin (sm : Bool) (d a : Reg) (i : BitVec 14) (s : State) : Result := intU s sm d a fun x => ofBool64 (x.ult (immC i))
def execLih (sm : Bool) (d : Reg) (h : Fin 16) (v : BitVec 16) (s : State) : Result :=
  onCtx s fun _ => s.fixedR sm d fun _ => lihVal h v
/-- PC is the address of the instruction. -/
def execAdpc (sm : Bool) (d : Reg) (i : BitVec 20) (s : State) : Result :=
  onCtx s fun c => s.fixedR sm d fun _ => adpcVal c.pc i

end Sys2Proof.Machine
end

