-- ==== Sys2Proof/Machine/LoadStore.lean ====
section
/-! DEFINITION. Sys2Proof/Machine/LoadStore.lean: the LD, ST, LDA and STL majors (spec/07 R208, R209). -/

namespace Sys2Proof.Machine

/-- The lanes that perform a load: the lowest alone for a uniform destination (R40, R209). -/
def State.loadLanes (s : State) (d : Reg) : List CtxId := if 16 ≤ d.val then (s.lanes s.cur).take 1 else s.lanes s.cur

/-- A load of each lane that performs it. -/
def loadOp (s : State) (sm : Bool) (d a : Reg) (w : Nat) (o : BitVec 10) (hint : Nat) (acq : Option Scope) : Result :=
  onCtx s fun _ => s.issueMem sm ((s.loadLanes d).map fun i =>
    (i, memAddr (s.rg i a) w o, .load (accBytes w) (accSigned w) d hint acq))

/-- A store of each active lane. -/
def storeOp (s : State) (sm : Bool) (d a : Reg) (w : Nat) (o : BitVec 10) (hint : Nat) (rel : Option Scope) : Result :=
  onCtx s fun _ => s.issueMem sm ((s.lanes s.cur).map fun i =>
    (i, memAddr (s.rg i a) w o, .store (accBytes w) (s.rg i d) hint rel))

def execLd (sm : Bool) (d a : Reg) (w : Fin 8) (h : Fin 4) (o : BitVec 10) (s : State) : Result :=
  loadOp s sm d a w.val o h.val none
def execSt (sm : Bool) (d a : Reg) (w : Fin 8) (h : Fin 4) (o : BitVec 10) (s : State) : Result :=
  storeOp s sm d a w.val o h.val none
/-- An acquire at the scope in H. -/
def execLda (sm : Bool) (d a : Reg) (w : Fin 8) (h : Fin 4) (o : BitVec 10) (s : State) : Result :=
  loadOp s sm d a w.val o 0 (some (scopeOf h.val))
/-- A release at the scope in H. -/
def execStl (sm : Bool) (d a : Reg) (w : Fin 8) (h : Fin 4) (o : BitVec 10) (s : State) : Result :=
  storeOp s sm d a w.val o 0 (some (scopeOf h.val))

end Sys2Proof.Machine
end

