-- ==== Sys2Proof/Machine/Matrix.lean ====
section
/-! DEFINITION. Sys2Proof/Machine/Matrix.lean: the MAT major, `mx.spmm`, and the ends of matrix commands (spec/09 R274 to R296; spec/10 R344,
R345). -/

namespace Sys2Proof.Machine

/-! ### Issue (R275, R276) -/

/-- The quadrant whose queue a command of the agent enters. -/
def mxQueue (joined : Bool) (pipe : Nat) : Nat := if joined then 0 else pipe % 4

/-- Configuration in force for the checks of a quadrant (R276). -/
def State.icfg (s : State) (q : Nat) : Word := (s.quad s.cur.cl q).icfg

/-- The first configuration in force that JOIN rejects (R280). -/
def State.joinBad (s : State) (joined : Bool) (q : Nat) : Option Word :=
  ((mxQuads joined q).find? fun i => mcJoin (s.icfg i) != joined).map fun i => s.icfg i

/-- The configuration that rejects a command: JOIN or its operand pair (R278, R280). -/
def State.cfgBad (s : State) (joined : Bool) (q : Nat) : Option Word :=
  match (mxQuads joined q).find? fun i => (pairOf (s.icfg i)).isNone with
  | some i => some (s.icfg i)
  | none => s.joinBad joined q

/-- ACC names an accumulator of the quadrant, or a0 or a1 in joined use (R280). -/
def accOk (joined : Bool) (q n : Nat) : Bool := if joined then decide (n < 2) else n / 2 == q

/-- What a check of step 3 to 5 finds. -/
inductive MxBad where
  | engine (val : Word)
  | sparse (kind level idx : Nat)
  | vreg
  | partial_
deriving DecidableEq, Repr

/-- A record that a matrix command names: EVAL is the register that names it (R276), but the record's address for a reserved type code (R72). (DEDUCED, log 68) -/
def State.mxRecord (s : State) (c : Ctx) (i : Nat) (reg : Word) : Except MxBad View × State :=
  let ty := s.rawType (s.teamOf c.id) i
  match s.record c i with
  | (.ok v, s) => (.ok v, s)
  | (.error (.sparse k l i, _), s) => (.error (.sparse k l i), s)
  | (.error (.invalid, addr), s) => (.error (.engine (if tyKnown ty then reg else BitVec.ofNat 64 addr)), s)
  | (.error (.beyond, _), s) => (.error (.engine reg), s)

/-- The checks of a command's records, after those of its configuration: its views (R276). -/
abbrev MxCheck := State → Except MxBad (Option View × Option View) × State

/-- The view lies in the VRS beyond the allotment. -/
def vregBad (c : Ctx) (v : View) : Bool := v.beyondVrs c.vblocks

/-- Dimensions 2 and 3 have extent 1. -/
def flat2 (v : View) : Bool := v.ext 2 == 1 && v.ext 3 == 1

/-- Placing a checked command in its queue; D receives the free entries (R275). -/
def State.mxEnter (s : State) (sm : Bool) (d : Reg) (q : Nat) (m : Nat → MCmd) : State :=
  let n := (s.quad s.cur.cl q).queue.length
  let s := s.drainGroup s.cur
  let (o, s) := s.ocIssue s.cur .ocm
  (s.modQuads s.cur.cl [q] fun k => { k with queue := k.queue ++ [m o] }).longOnce sm d (BitVec.ofNat 64 (7 - n))

/-- Issue of a matrix command: room in its queue first (R275), then ARV and a ring, the role, what `pre` finds before the records, and the records, `recs`,
which the group's earlier writes and reductions reach first (R152). -/
def State.mxIssue (s : State) (sm : Bool) (d : Reg) (c : Ctx) (arv : Bool) (ring : Option (Nat × Nat)) (pre : Bool → Nat → Option Word)
    (recs : MxCheck) (mk : Bool → Nat → Signals → Option View → Option View → Nat → MCmd) : State :=
  let joined := s.isFused s.cur
  let q := mxQueue joined s.cur.pipe
  let t := s.teamOf s.cur
  let cfg := s.icfg q
  if 8 ≤ (s.quad s.cur.cl q).queue.length then s.stay (.parked (.room (.quad q)))
  else if (arv && barBad t (mcBar cfg)) || (match ring with
      | some (r, i) => ringBad t r i
      | none => false) then s.trapOpen cILLEGAL
  else if lacks c 1 then s.trapOpen cROLE
  else match pre joined q with
    | some v => s.trapAll cENGINE_ERR 0 v
    | none => match recs (s.drainGroup s.cur) with
      | (.error (.engine v), s) => s.trapAll cENGINE_ERR 0 v
      | (.error (.sparse k l i), s) => s.trapAll cSPARSE k (sparseVal 0 l i)
      | (.error .vreg, s) => s.trapOpen cVREG
      | (.error .partial_, s) => s.trapOpen cWINDOW_PARTIAL
      | (.ok (v1, v2), s) =>
        let sig : Signals := { bar := if arv then some (mcBar cfg, mcExp cfg) else none, ring := ring }
        s.mxEnter sm d q (mk joined q sig v1 v2)

/-- A command that names no records. -/
def noRecs : MxCheck := fun s => (.ok (none, none), s)

/-- The record of an `mx.ld` (R282). -/
def mxLdRec (c : Ctx) (cfg : Word) (joined opB : Bool) (ga : Word) : MxCheck := fun s =>
  match s.mxRecord c (wfld ga 0 16) ga with
  | (.error e, s) => (.error e, s)
  | (.ok v, s) =>
    let ty := if opB then mcB cfg else mcA cfg
    let scl := if opB then mcBs cfg else mcAs cfg
    let w := v.win
    let base :=
      if scl then (ty == 5 && w == 1) || (ty == 6 && w == 2) || (ty == 7 && w == 3)
      else if ty = 13 then w == 4
      else if ty = 14 then w == 5
      else (w == 0 || (ty == 3 && w == 6) || (ty == 4 && w == 7)) && v.ty == ty
    let wd := s.viewWd (s.behalf c) v
    let blocks := if 1 ≤ w ∧ w ≤ 5 then v.str 0 == 1 && (wdL wd.1 == 0 || v.rowOffs.all fun o => winCol wd o % 16 == 0) else true
    if base && blocks && flat2 v && decide (v.ext 0 ≤ 64 ∧ v.ext 1 ≤ if joined then 64 else 32) then
      (if vregBad c v then (.error .vreg, s) else (.ok (some v, none), s))
    else (.error (.engine ga), s)

/-- The record of an `mx.st` (R287, R288). -/
def mxStRec (c : Ctx) (joined : Bool) (ga gb : Word) : MxCheck := fun s =>
  match s.mxRecord c (wfld ga 0 16) ga with
  | (.error e, s) => (.error e, s)
  | (.ok v, s) =>
    let t := if joined then 64 else 32
    if !(flat2 v && decide (v.ext 0 ≤ t ∧ v.ext 1 ≤ t) && (decide (2 ≤ v.ty ∧ v.ty ≤ 7) || decide (9 ≤ v.ty ∧ v.ty ≤ 11))) then
      (.error (.engine ga), s)
    else if (dwNosat gb && !(v.ty == 5 || v.ty == 6 || decide (9 ≤ v.ty ∧ v.ty ≤ 11))) || (dwSat gb && v.ty == 7) then
      (.error (.engine gb), s)
    else if vregBad c v then (.error .vreg, s)
    else if !v.wholeBlocks (s.viewWd (s.behalf c) v) then (.error .partial_, s)
    else (.ok (some v, none), s)

/-- The record of `gm.lay`, in paged memory, W0 or the VRS (R295). -/
def gmLayRec (c : Ctx) (ga : Word) : MxCheck := fun s =>
  match s.mxRecord c (wfld ga 0 16) ga with
  | (.error e, s) => (.error e, s)
  | (.ok v, s) => if vregBad c v then (.error .vreg, s) else (.ok (some v, none), s)

/-- The records of `gm.gemv` (R296). -/
def gmGemvRec (c : Ctx) (ga : Word) : MxCheck := fun s =>
  match s.mxRecord c (wfld ga 0 16) ga with
  | (.error e, s) => (.error e, s)
  | (.ok v, s) => match s.mxRecord c (wfld ga 16 16) ga with
    | (.error e, s) => (.error e, s)
    | (.ok x, s) =>
      let own := match s.lsAt (whoOf c) v.base with
        | .ok l => l.cl == c.id.cl
        | .error _ => regionOf v.base == .lsOwn || decide (s.physical (fld v.base 23 10) = some c.id.cl)
      if (regionOf v.base == .lsAny || regionOf v.base == .lsOwn) && v.win == 0 && own && v.ty == 2 && flat2 v && flat2 x &&
          decide (1 ≤ v.ext 1 ∧ v.ext 1 ≤ 4 ∧ v.ext 1 = x.ext 1) && (x.ty == 3 || x.ty == 4) then
        (if vregBad c x then (.error .vreg, s) else (.ok (some v, some x), s))
      else (.error (.engine ga), s)

/-- The B record of `mx.spmm` (R345). -/
def spmmRec (c : Ctx) (cfg : Word) (joined : Bool) (gb : Word) : MxCheck := fun s =>
  match s.mxRecord c (wfld gb 48 16) gb with
  | (.error e, s) => (.error e, s)
  | (.ok v, s) =>
    if v.rank = 2 ∧ v.ty = mcB cfg ∧ v.win = 0 ∧ regionOf v.base ≠ .unassigned ∧ v.ext 0 ≤ tileT joined then
      (if vregBad c v then (.error .vreg, s) else (.ok (some v, none), s))
    else (.error (.engine gb), s)

/-- The pair suits `mx.spmm` (R345). -/
def spmmPair (c : Word) : Bool := !mcAs c && !mcBs c && (pairOf c == some .plain || pairOf c == some .int)

/-- `mx.cfg` (R277, R278, R280): the word is in force for later checks at once. -/
def execMxCfg (sm : Bool) (a d : Reg) (s : State) : Result :=
  onCtx s fun c =>
    let g := s.rg (s.lowest s.cur) a
    let joined := s.isFused s.cur
    let q := mxQueue joined s.cur.pipe
    if 8 ≤ (s.quad s.cur.cl q).queue.length then s.stay (.parked (.room (.quad q)))
    else if lacks c 1 then s.trapOpen cROLE
    else if wfld g 9 7 ≠ 0 ∨ wfld g 25 7 ≠ 0 ∨ wfld g 46 18 ≠ 0 ∨ (pairOf g).isNone = true ∨ mcJoin g ≠ joined then s.trapAll cENGINE_ERR 0 g
    else
      (s.mxEnter sm d q fun o => { op := 0, by_ := s.behalf c, joined := joined, cfg := g, ga := g, oc := o, team := c.team.getD 0 }).modQuads
        s.cur.cl (mxQuads joined q) fun k => { k with icfg := g }

/-- The ring word of `mx.ld` (R283). -/
def ringWord (g : Word) : Option (Nat × Nat) := if wb g 0 then some (wfld g 1 3, wfld g 4 3) else none

def execMxLd (sm : Bool) (a b d : Reg) (v o u : Bool) (s : State) : Result :=
  onCtx s fun c =>
    let ga := s.rg (s.lowest s.cur) a
    let gb := s.rg (s.lowest s.cur) b
    let joined := s.isFused s.cur
    let cfg := s.icfg (mxQueue joined s.cur.pipe)
    s.mxIssue sm d c v (ringWord gb)
      (fun joined q => if wfld ga 16 48 ≠ 0 then some ga else if wfld gb 7 57 ≠ 0 then some gb else s.cfgBad joined q)
      (mxLdRec c cfg joined o ga)
      (fun joined _ sig v1 v2 oc => { op := 1, by_ := s.behalf c, joined := joined, cfg := cfg, set1 := u, opB := o, ga := ga, gb := gb
                                      v1 := v1, v2 := v2, arv := v, sig := sig, oc := oc, team := c.team.getD 0 })

/-- A command on an accumulator alone. -/
def mxAccOp (s : State) (sm : Bool) (op : Nat) (d : Reg) (v u : Bool) (n : Nat) : Result :=
  onCtx s fun c =>
    let joined := s.isFused s.cur
    let cfg := s.icfg (mxQueue joined s.cur.pipe)
    s.mxIssue sm d c v none
      (fun joined q => match s.cfgBad joined q with
        | some w => some w
        | none => if accOk joined q n then none else some (BitVec.ofNat 64 n))
      noRecs
      (fun joined _ sig v1 v2 oc => { op := op, by_ := s.behalf c, joined := joined, cfg := cfg, set1 := u, acc := n
                                      v1 := v1, v2 := v2, arv := v, sig := sig, oc := oc, team := c.team.getD 0 })

def execMxMma (sm : Bool) (d : Reg) (v u : Bool) (n : Fin 8) (s : State) : Result := mxAccOp s sm 2 d v u n.val

def execMxZero (sm : Bool) (d : Reg) (v : Bool) (n : Fin 8) (s : State) : Result := mxAccOp s sm 3 d v false n.val

/-- The drain word's ring. -/
def drainRing (g : Word) : Option (Nat × Nat) := if wb g 4 then some (wfld g 5 3, wfld g 8 3) else none

def execMxSt (sm : Bool) (a b d : Reg) (v : Bool) (n : Fin 8) (s : State) : Result :=
  onCtx s fun c =>
    let ga := s.rg (s.lowest s.cur) a
    let gb := s.rg (s.lowest s.cur) b
    let joined := s.isFused s.cur
    let cfg := s.icfg (mxQueue joined s.cur.pipe)
    s.mxIssue sm d c v (drainRing gb)
      (fun joined q =>
        if wfld ga 16 48 ≠ 0 then some ga
        else if wfld gb 11 53 ≠ 0 ∨ (dwSat gb && dwNosat gb) = true then some gb
        else match s.cfgBad joined q with
          | some w => some w
          | none => if accOk joined q n.val then none else some (BitVec.ofNat 64 n.val))
      (mxStRec c joined ga gb)
      (fun joined _ sig v1 v2 oc => { op := 4, by_ := s.behalf c, joined := joined, cfg := cfg, acc := n.val, ga := ga, gb := gb
                                      v1 := v1, v2 := v2, arv := v, sig := sig, oc := oc, team := c.team.getD 0 })

/-- A Gnobin command. -/
def gmOp (s : State) (sm : Bool) (op : Nat) (a b d : Reg) (v : Bool) (res : Word → Bool) (recs : Ctx → Word → MxCheck) : Result :=
  onCtx s fun c =>
    let ga := s.rg (s.lowest s.cur) a
    let gb := s.rg (s.lowest s.cur) b
    s.mxIssue sm d c v none (fun joined q => if res ga then some ga else s.joinBad joined q) (recs c ga)
      (fun joined q sig v1 v2 oc => { op := op, by_ := s.behalf c, joined := joined, cfg := s.icfg q, ga := ga, gb := gb
                                      v1 := v1, v2 := v2, arv := v, sig := sig, oc := oc, team := c.team.getD 0 })

def execGmLay (sm : Bool) (a b d : Reg) (v : Bool) (s : State) : Result := gmOp s sm 5 a b d v (fun g => wfld g 16 48 != 0) gmLayRec
def execGmGemv (sm : Bool) (a b d : Reg) (v : Bool) (s : State) : Result := gmOp s sm 6 a b d v (fun g => wfld g 32 32 != 0) gmGemvRec

/-- `mx.spmm` (R344, R345). -/
def execMxSpmm (sm : Bool) (a b d : Reg) (v w : Bool) (n : Fin 8) (s : State) : Result :=
  onCtx s fun c =>
    let ga := s.rg (s.lowest s.cur) a
    let gb := s.rg (s.lowest s.cur) b
    let joined := s.isFused s.cur
    let cfg := s.icfg (mxQueue joined s.cur.pipe)
    s.mxIssue sm d c v none
      (fun joined q =>
        if wfld ga 56 8 ≠ 0 then some ga
        else match s.cfgBad joined q with
          | some x => some x
          | none =>
            if spmmPair cfg = false then some cfg
            else if accOk joined q n.val then none else some (BitVec.ofNat 64 n.val))
      (spmmRec c cfg joined gb)
      (fun joined _ sig v1 v2 oc => { op := 7, by_ := s.behalf c, joined := joined, cfg := cfg, acc := n.val, ga := ga, gb := gb
                                      v1 := v1, v2 := v2, nowait := w, arv := v, sig := sig, oc := oc, team := c.team.getD 0 })

/-! ### The ends of commands (R279, R283 to R291) -/

/-- A command of another queue that acts on one of the quadrants and was issued before. -/
def State.mxEarlier (s : State) (cl q : Nat) (c : MCmd) : Bool :=
  ((List.range 4).filter fun i => i != q).any fun i => (s.quad cl i).queue.any fun m =>
    decide (m.oc < c.oc) && (mxQuads m.joined i).any fun j => (mxQuads c.joined q).contains j

/-- The command leaves the head of its queue, with its arrival, its inversion and its retirement (R289, R291). -/
def State.mxEnd (s : State) (cl q : Nat) (c : MCmd) (err : Option Word) : State :=
  let s := s.modQuads cl [q] fun k => { k with queue := k.queue.drop 1 }
  (s.signalDone c.by_ c.sig err).ocDone c.oc

/-- The fault unit can take a fault of the engine now: it merges, or there is a record for it, and the cluster is not paused (R393, R401, R424). -/
def State.faultTakes (s : State) (b : Behalf) : Fail → Bool
  | .stall va reason _ =>
    let part := s.partNum b.ctx.cl
    !s.paused b.ctx.cl && ((s.faultMatch part va reason).isSome ||
      (s.recordRoomIn part && (List.range 64).any fun n => !(s.engineNums part b.ctx b.team).contains n))
  | .err _ _ _ => true
  | .sparse _ _ _ _ => true

/-- The status word of a failure (R291); no VA is stated for an ENGINE_ERR that is found at execution. (DESIGN CHOICE, log 89) -/
def State.failReport (s : State) (e : Fail) : Word × State := match e with
  | .err 0x10 _ _ =>
    let (f, s) := s.freshFree
    (errWord cENGINE_ERR (f.toNat % 2 ^ 56), s)
  | _ => (failWord e, s)

/-- The error of a command (R291): what the failing command leaves, the spill, and the error state of its quadrants. A page that is not translated enters
the fault queue; the engine does not stall. -/
def State.mxFail (s : State) (cl q : Nat) (c : MCmd) (e : Fail) : State :=
  let s := match e with
    | .stall va reason w => s.engineFault (s.partNum cl) va reason w c.by_
    | .err _ _ _ => s
    | .sparse _ _ _ _ => s
  let s := match c.op, c.v1 with
    | 1, _ => s.modQuads cl [q] fun k => k.setBuf c.set1 c.opB {}
    | 6, some d => scribbleView c.by_ d s
    | _, _ => s
  let qs := mxQuads c.joined q
  let (w, s) := (s.spill cl qs).failReport e
  let s := s.modQuads cl qs fun k => { k with err := true, errv := w }
  s.mxEnd cl q c (some w)

/-- K blocks of the buffers that an `mx.mma` multiplies. -/
def Quad.blocks (k : Quad) (set1 : Bool) : Nat := (max (k.buf set1 false).k (k.buf set1 true).k + 15) / 16

/-- Steps of a command, at the ends of which a swap or a switch can stop it (R292, R356): rows, K blocks; one for the others. (DEDUCED, log 37) -/
def State.mxSteps (s : State) (cl q : Nat) (c : MCmd) : Nat := match c.op, c.v1 with
  | 1, some v => v.ext 1
  | 2, _ => (s.quad cl q).blocks c.set1
  | 4, some v => v.ext 1
  | 7, some b => (b.ext 1 + 15) / 16
  | _, _ => 1

/-- The products of the buffers in some K blocks (R284). -/
def State.mxProducts (s : State) (cl q : Nat) (c : MCmd) (blks : List Nat) : State :=
  let k := s.quad cl q
  let a := k.buf c.set1 false
  let b := k.buf c.set1 true
  match pairOf c.cfg with
  | none => s
  | some p => s.mma cl c.joined c.acc c.cfg p blks (a.el a.codes.toArray a.meta_.toArray) (b.el b.codes.toArray b.meta_.toArray)

/-- `mx.zero`: the accumulator's elements are +0, in the use of the configured pair (R286). -/
def State.mxClear (cl : Nat) (c : MCmd) (s : State) : State :=
  (accParts c.joined c.acc).foldl (fun (s : State) (t : Nat × Nat × Nat) =>
    { s.modCluster cl (setTileInt t.1 (pairOf c.cfg == some Pair.int)) with acc := accFill s.acc cl t.1 fun _ _ => 0 }) s

/-- What a command does as it starts: `mx.mma` brings its tile into use (R284), `mx.st` looks at its tiles' use (R288), `mx.spmm` chooses its path. -/
def mxBegin (cl q : Nat) (c : MCmd) : Eng MCmd := match c.op, c.v1 with
  | 2, _ => (Eng.act fun s => s.mxProducts cl q c []).andThen fun _ => Eng.ret c
  | 4, some v => fun s => if c.prog = 0 ∧ mxSuits c v s = false then (.error (.err cENGINE_ERR 0 0), s) else (.ok c, s)
  | 7, some b => if c.going.isNone then spBegin c b else Eng.ret c
  | _, _ => Eng.ret c

/-- The next step of a command. -/
def mxStep (cl q : Nat) (c : MCmd) : Eng MCmd :=
  (match c.op, c.v1, c.v2 with
  | 1, some v, _ => mxLoadRow c v c.prog
  | 2, _, _ => (Eng.act fun s => s.mxProducts cl q c [c.prog]).andThen fun _ => Eng.ret c
  | 3, _, _ => (Eng.act (State.mxClear cl c)).andThen fun _ => Eng.ret c
  | 4, some v, _ => (mxStoreRow c v c.prog).andThen fun _ => Eng.ret c
  | 5, some v, _ => (gmLayRun c v).andThen fun _ => Eng.ret c
  | 6, some d, some x => (gmGemvRun c d x).andThen fun _ => Eng.ret c
  | 7, some b, _ => (spBlock c b ((c.going.map Prod.fst).getD false) ((c.going.map Prod.snd).getD []) c.prog).andThen fun _ => Eng.ret c
  | _, _, _ => Eng.ret c).andThen fun c => Eng.ret { c with prog := c.prog + 1 }

/-- Up to n steps of a command: the command after them, and how it failed. -/
def mxRun (cl q : Nat) : Nat → MCmd → State → MCmd × Option Fail × State
  | 0, c, s => (c, none, s)
  | n + 1, c, s =>
    if s.mxSteps cl q c ≤ c.prog then (c, none, s)
    else match mxStep cl q c s with
      | (.ok c, s) => mxRun cl q n c s
      | (.error e, s) => (c, some e, s)

/-- The command at the head of a queue as it is now. -/
def State.mxPut (s : State) (cl q : Nat) (c : MCmd) : State :=
  s.modQuads cl [q] fun k => { k with queue := k.queue.mapIdx fun i m => if i = 0 then c else m }

/-- A failed command ends, or stands at its access until the fault unit can take its fault (R424). -/
def State.mxStop (s : State) (cl q : Nat) (c : MCmd) (e : Fail) : State :=
  if s.faultTakes c.by_ e then s.mxFail cl q c e else s.mxPut cl q c

/-- A command with all its steps done completes; an `mx.ld` fills its buffer. An `mx.spmm` whose structure has been written meanwhile leaves an
unpredictable accumulator, and may end in error (R354). -/
def State.mxDone (s : State) (cl q : Nat) (c : MCmd) : State :=
  if c.raced s then
    let (f, s) := (s.freeAcc cl c).freshFree
    if f.getLsbD 0 then s.mxEnd cl q c none else s.mxFail cl q c (.sparse 3 0 0 (f.toNat / 2 % 2 ^ 56))
  else
  (match c.op, c.v1 with
  | 1, some v => s.modQuads cl [q] fun k => k.setBuf c.set1 c.opB (mxLoaded c v)
  | _, _ => s).mxEnd cl q c none

/-- The head of a matrix queue runs n steps, or all that are left for 0. -/
def State.mxAdvance (s : State) (cl q n : Nat) (c : MCmd) : State := match mxBegin cl q c s with
  | (.error e, s) => s.mxStop cl q c e
  | (.ok c, s) =>
    if c.op = 7 ∧ c.going = none then s.mxPut cl q c
    else match mxRun cl q (if n = 0 then s.mxSteps cl q c - c.prog else n) c s with
      | (c, some e, s) => s.mxStop cl q c e
      | (c, none, s) => if s.mxSteps cl q c ≤ c.prog then s.mxDone cl q c else s.mxPut cl q c

/-- The head of matrix queue subj.num goes on for subj.n steps or to its end, or waits for its compile (R351); in error state it completes without effect
(R291). -/
def execMatrixCommandComplete (s : State) : Result :=
  let cl := s.subj.cl
  let q := s.subj.num
  .next (match (s.quad cl q).queue.head? with
    | none => s
    | some c =>
      if c.op = 0 then s
      else
        let bad := (mxQuads c.joined q).findSome? fun i => if (s.quad cl i).err then some (s.quad cl i).errv else none
        match bad with
        | some w => s.mxEnd cl q c (some w)
        | none => s.mxAdvance cl q s.subj.n c)

/-- A configuration at the head of its queue takes effect once every earlier command of its quadrants has completed (R279). -/
def execMxCfgApply (s : State) : Result :=
  let cl := s.subj.cl
  let q := s.subj.num
  .next (match (s.quad cl q).queue.head? with
    | none => s
    | some c =>
      if c.op ≠ 0 ∨ s.mxEarlier cl q c = true then s
      else
        let s := s.modQuads cl (mxQuads c.joined q) fun k =>
          { k with cfg := c.cfg, a0 := {}, b0 := {}, a1 := {}, b1 := {}, err := false, errv := 0 }
        s.mxEnd cl q c none)

end Sys2Proof.Machine
end

