-- ==== Sys2Proof/Machine/MulDiv.lean ====
section
/-! DEFINITION. Sys2Proof/Machine/MulDiv.lean: the MULDIV major (spec/07 R202; spec/03 R90; spec/18 R478). -/

namespace Sys2Proof.Machine

/-- Operand width. -/
def mdBits (w : Bool) : Nat := if w then 32 else 64

/-- A result of n bits in the register: sign-extended from 32 bits. -/
def mdWord (w : Bool) (v : Nat) : Word := if w then BitVec.ofInt 64 (signedOf 32 v) else BitVec.ofNat 64 v

/-- MODE.DZT (R183). -/
def modeDzt (m : Word) : Bool := wb m 0

/-- Signed operand of n bits. -/
def sOp (w : Bool) (x : Word) : Int := signedOf (mdBits w) x.toNat
def uOp (w : Bool) (x : Word) : Nat := x.toNat % 2 ^ mdBits w

/-- The signed quotient: truncated toward zero, all ones for a divisor of zero, the minimum for minimum / −1 (R90). -/
def divS (w : Bool) (x y : Word) : Word :=
  let n := mdBits w
  if sOp w y = 0 then mdWord w (2 ^ n - 1) else mdWord w (wrapNat n (Int.tdiv (sOp w x) (sOp w y)))

/-- The signed remainder: the dividend for a divisor of zero. -/
def remS (w : Bool) (x y : Word) : Word :=
  let n := mdBits w
  if sOp w y = 0 then mdWord w (uOp w x) else mdWord w (wrapNat n (Int.tmod (sOp w x) (sOp w y)))

def divU (w : Bool) (x y : Word) : Word :=
  if uOp w y = 0 then mdWord w (2 ^ mdBits w - 1) else mdWord w (uOp w x / uOp w y)

def remU (w : Bool) (x y : Word) : Word :=
  if uOp w y = 0 then mdWord w (uOp w x) else mdWord w (uOp w x % uOp w y)

/-- A multiplication: a long result. -/
def mulOp (s : State) (sm : Bool) (d a b : Reg) (f : Word → Word → Word) : Result :=
  onCtx s fun _ => s.longR sm d fun i => f (s.rg i a) (s.rg i b)

/-- A division: INT_DIV0 at issue in the lanes whose divisor is zero and whose MODE.DZT is 1, with gA in EVAL (R90, R180, R478). -/
def divOp (s : State) (sm : Bool) (d a b : Reg) (w : Bool) (f : Word → Word → Word) : Result :=
  onCtx s fun _ => s.longTrap sm d cINT_DIV0
    (fun i => if uOp w (s.rg i b) = 0 ∧ modeDzt (s.ctx i).mode = true then some (s.rg i a) else none)
    fun i => f (s.rg i a) (s.rg i b)

def execMul (sm : Bool) (d a b : Reg) (w : Bool) (s : State) : Result :=
  mulOp s sm d a b fun x y => mdWord w ((uOp w x * uOp w y) % 2 ^ mdBits w)
def execMulh (sm : Bool) (d a b : Reg) (w : Bool) (s : State) : Result :=
  mulOp s sm d a b fun x y => mdWord w (wrapNat (mdBits w) ((sOp w x * sOp w y) / 2 ^ mdBits w))
def execMulhn (sm : Bool) (d a b : Reg) (w : Bool) (s : State) : Result :=
  mulOp s sm d a b fun x y => mdWord w (uOp w x * uOp w y / 2 ^ mdBits w)
def execDiv (sm : Bool) (d a b : Reg) (w : Bool) (s : State) : Result := divOp s sm d a b w (divS w)
def execDivn (sm : Bool) (d a b : Reg) (w : Bool) (s : State) : Result := divOp s sm d a b w (divU w)
def execRem (sm : Bool) (d a b : Reg) (w : Bool) (s : State) : Result := divOp s sm d a b w (remS w)
def execRemn (sm : Bool) (d a b : Reg) (w : Bool) (s : State) : Result := divOp s sm d a b w (remU w)

end Sys2Proof.Machine
end

