-- ==== Sys2Proof/Machine/Pred.lean ====
section
/-! DEFINITION. Sys2Proof/Machine/Pred.lean: the PRED major (spec/07 R219). -/

namespace Sys2Proof.Machine

def execPcmp (sm : Bool) (n : PReg) (a b : Reg) (c : Fin 8) (s : State) : Result :=
  onCtx s fun _ => s.fixedP sm n fun i => intCond c.val (s.rg i a) (s.rg i b)
def execPand (sm : Bool) (n x y : PReg) (s : State) : Result := onCtx s fun _ => s.fixedP sm n fun i => s.rp i x && s.rp i y
def execPor (sm : Bool) (n x y : PReg) (s : State) : Result := onCtx s fun _ => s.fixedP sm n fun i => s.rp i x || s.rp i y
def execPxor (sm : Bool) (n x y : PReg) (s : State) : Result := onCtx s fun _ => s.fixedP sm n fun i => s.rp i x != s.rp i y
def execPnot (sm : Bool) (n x : PReg) (s : State) : Result := onCtx s fun _ => s.fixedP sm n fun i => !s.rp i x

end Sys2Proof.Machine
end

