-- ==== Sys2Proof/Machine/Simt.lean ====
section
/-! DEFINITION. Sys2Proof/Machine/Simt.lean: fusing, splitting, reconvergence, the end of lanes, votes and lane reads (spec/02 R37 to R48; spec/07
R217, R218, R226, R227). -/

namespace Sys2Proof.Machine

/-! ### rcv and join (R42, R43, R47, R217) -/

/-- `rcv` arms a join address in a fused group alone. -/
def execRcv (sm : Bool) (o : BitVec 15) (s : State) : Result :=
  onCtx s fun c => match s.groupOf s.cur with
    | some g => (s.setGroup { g with armed := some (targetPc c.pc o) }).retire sm
    | none => s.retire sm

/-- A context's next instruction is at the join address of the top entry of a stack. -/
def atJoin (pc : Word) : List DivEntry → Bool
  | [] => false
  | e :: _ => e.j == pc

/-- A split lane waits at its join; the switch marker's wait comes first there. -/
def State.joinSplit (s : State) (sm : Bool) (c : Ctx) (r : Record) : State :=
  if atJoin c.pc r.stack then
    if (sm && s.mustPark s.cur) then s.stay (.parked .results)
    else (s.waitFor .joinAt).checkRefuse c.id.cl c.id.slot r.base
  else s.retire sm

def execJoin (sm : Bool) (s : State) : Result :=
  onCtx s fun c => match s.groupOf s.cur with
    | some g => if atJoin c.pc g.stack then (s.passJoin g).parkOwed sm s.cur (s.lanes s.cur) else s.retire sm
    | none => match c.rcd with
      | some r => s.joinSplit sm c r
      | none => s.retire sm

/-! ### exit (R44, R218) -/

/-- A lane has nothing outstanding: long results, counters, reductions of its agent. (DEDUCED, log 19) -/
def State.laneDrained (s : State) (agent lane : CtxId) : Bool :=
  !(s.longs.any fun l => decide (l.dst = lane) && l.poisoned.isNone) &&
    !((sfuLongs (s.cluster lane.cl) fun i => decide (i = lane)).any fun _ => true) &&
    !(s.ocq.any fun e => decide (e.ctx = lane)) && !(s.reds.any fun r => decide (r.agent = agent))

/-- Every active lane of an agent is drained, and its late results too. (DEDUCED, log 19) -/
def State.drained (s : State) (agent : CtxId) : Bool := !(s.hasLongs agent) && (s.lanes agent).all (s.laneDrained agent)

/-- (DEDUCED, log 19) -/
def execExit (sm : Bool) (s : State) : Result :=
  onCtx s fun c =>
    if s.drained s.cur = false then s.waitFor .drained
    else
      let hits := s.poisonHits s.cur
      if hits.isEmpty then match s.groupOf s.cur with
        | some g => s.endLanes g
        | none => s.endContext s.cur
      else s.hitLanes s.cur hits (fun _ => c.pc) false sm

/-! ### fuse (R37 to R39) -/

/-- Base pipe of the candidate group. -/
def fuseBase (pipe w : Nat) : Nat := pipe - pipe % w

/-- The width that a waiting context names, if it has arrived at a `fuse`. -/
def Ctx.fusing (c : Ctx) : Option Nat := match c.st with
  | .waiting (.fuse w) _ => some w
  | _ => none

/-- The candidate group of a context at a `fuse w`: its contexts. -/
def State.candidates (s : State) (id : CtxId) (w : Nat) : List (Option Ctx) :=
  (List.range w).map fun i => s.findCtx { id with pipe := fuseBase id.pipe w + i }

/-- A condition of R38 that the candidate group of a context meets, apart from the context's own. (DEDUCED, log 65) -/
def State.fuseBad (s : State) (c : Ctx) (w : Nat) : Bool :=
  if !(decide (w = 2 ∨ w = 4 ∨ w = 8 ∨ w = 16)) then true
  else
    let cs := s.candidates c.id w
    cs.any (fun o => match o with
      | none => true
      | some m => decide (m.team ≠ c.team ∨ m.role ≠ c.role) || decide (m.fusing.isSome ∧ m.fusing ≠ some w)) ||
    (c.role.getLsbD 1 && w != 4)

/-- The arrived contexts that trap now: those of a candidate group that meets a condition of R38. (DEDUCED, log 65) -/
def State.fuseTraps (s : State) (cl slot : Nat) : List CtxId :=
  let arrived := s.ctxs.filter fun c => decide (c.id.cl = cl ∧ c.id.slot = slot) && c.fusing.isSome
  (arrived.filter fun m => arrived.any fun c => match c.fusing with
    | some w => s.fuseBad c w && (decide (m.id = c.id) || (decide (w ≠ 0) && decide (fuseBase m.id.pipe w = fuseBase c.id.pipe w)))
    | none => false).map Ctx.id |>.eraseDups

/-- FUSE traps in single contexts, each at its own pc. -/
def State.trapEach (s : State) (cause : Nat) : List CtxId → State
  | [] => s
  | i :: r =>
    let (v, s) := s.freshFree
    (s.takeTrap i cause 0 v (s.ctx i).pc false false).trapEach cause r

/-- The steps of R39, and the fence of R136; the group has its members' greatest timestamps (R125). -/
def State.fuseNow (s : State) (cl base slot w : Nat) : State :=
  let lead : CtxId := ⟨cl, base, slot⟩
  let mem := fun (c : Ctx) => decide (c.id.cl = cl ∧ c.id.slot = slot ∧ base ≤ c.id.pipe ∧ c.id.pipe < base + w)
  let s := s.settleLate fun t => decide (t.agent.cl = cl ∧ t.agent.slot = slot ∧ base ≤ t.agent.pipe ∧ t.agent.pipe < base + w)
  let s := s.emptyBanks cl base w
  let mine := s.ctxs.filter mem
  let all := BitVec.ofNat 16 (2 ^ w - 1)
  let g : Group := { cl := cl, base := base, slot := slot, width := w, members := all, lm := all }
  { s with
    groups := s.groups ++ [g]
    ctxs := s.ctxs.map fun (c : Ctx) => if (mem c) then
      { c with
        grp := some base, lane := c.id.pipe - base, st := .ready, woken := false, pts := max (maxOf Ctx.pts mine) (maxOf Ctx.mts mine), mts := maxOf Ctx.mts mine
        vis := (visMax mine).acquired .grp
        pc := if c.id = lead then c.pc + 4 else c.pc }
      else c }

/-- `fuse` of a single context: it arrives; traps, completion or a wait follow. (DEDUCED, log 65) -/
def State.fuseArrive (s : State) (c : Ctx) (w : Nat) : State :=
  let s := s.waitFor (.fuse w)
  let bad := s.fuseTraps c.id.cl c.id.slot
  if !bad.isEmpty then s.trapEach cFUSE bad
  else if (s.candidates c.id w).all fun o => match o with
    | some m => decide (m.fusing = some w)
    | none => false
  then s.fuseNow c.id.cl (fuseBase c.id.pipe w) c.id.slot w
  else s

/-- The contexts that have arrived at a `fuse` in the candidate groups of the issuing agent's lanes (R37, R38). -/
def State.fuseBeside (s : State) (w : Nat) : List CtxId :=
  if w = 2 ∨ w = 4 ∨ w = 8 ∨ w = 16 then
    (s.ctxs.filter fun m => m.fusing.isSome && (s.lanes s.cur).any fun i =>
      decide (m.id.cl = i.cl ∧ m.id.slot = i.slot ∧ m.id ≠ i ∧ fuseBase m.id.pipe w = fuseBase i.pipe w)).map Ctx.id |>.eraseDups
  else []

def execFuse (sm : Bool) (w : Fin 32) (s : State) : Result :=
  onCtx s fun c =>
    if s.isFused s.cur || c.rcd.isSome then (s.trapOpen cFUSE).trapEach cFUSE (s.fuseBeside w.val)
    else if (sm && s.mustPark s.cur) then s.stay (.parked .results)
    else s.fuseArrive c w.val

/-! ### split (R45, R46) -/

def execSplit (sm : Bool) (s : State) : Result :=
  onCtx s fun c => match s.groupOf s.cur with
    | none => s.retire sm
    | some g =>
      if g.lm ≠ g.members ∨ g.stack ≠ [] then s.trapOpen cFUSE
      else (s.split g fun _ => c.pc + 4).parkMarked sm (g.ids g.lm)

/-! ### Votes and lane reads (R226, R227) -/

def execVoteAny (sm : Bool) (n m : PReg) (s : State) : Result :=
  onCtx s fun _ =>
    let v := (s.lanes s.cur).any fun i => s.rp i m
    s.longP sm n fun _ => v

def execVoteAll (sm : Bool) (n m : PReg) (s : State) : Result :=
  onCtx s fun _ =>
    let v := (s.lanes s.cur).all fun i => s.rp i m
    s.longP sm n fun _ => v

/-- Bit i for each active lane i whose predicate is true; a single context's bit is that of its LANE. -/
def execVoteBal (sm : Bool) (d : Reg) (m : PReg) (s : State) : Result :=
  onCtx s fun _ =>
    let v := ((s.lanes s.cur).filter fun i => s.rp i m).foldl (fun x i => x ||| laneBit ((s.ctx i).lane % 16)) 0
    s.longR sm d fun _ => v.setWidth 64

/-- Register A of member lane gB[3:0]. -/
def execLget (sm : Bool) (d a b : Reg) (s : State) : Result :=
  onCtx s fun _ => match s.groupOf s.cur with
    | none => s.longR sm d fun i => s.rg i a
    | some g => s.longR sm d fun i =>
        let k := wfld (s.rg i b) 0 4
        if g.width ≤ k ∨ g.members.getLsbD k = false then 0
        else s.rg ⟨g.cl, g.base + k, g.slot⟩ a

end Sys2Proof.Machine
end

