-- ==== Sys2Proof/Machine/Sync.lean ====
section
/-! DEFINITION. Sys2Proof/Machine/Sync.lean: the SYNC major but for `rcv`, `join` and `exit`: fences, barriers, counters, tags, NOTICE and `yield`
(spec/05 R147 to R155; spec/07 R220 to R225; spec/02 R56). -/

namespace Sys2Proof.Machine

/-! ### Fences (R147, R149) -/

/-- The acquire of a fence: it raises pts at every scope (R124). -/
def State.fenceAcquire (s : State) (sc : Scope) : State := if sc = .grp then s.acquireLocal s.cur else s.acquire s.cur sc

def execFenceAcq (sm : Bool) (c : Fin 4) (s : State) : Result :=
  onCtx s fun _ => (s.fenceAcquire (scopeOf c.val)).retire sm

def execFenceRel (sm : Bool) (c : Fin 4) (s : State) : Result :=
  onCtx s fun _ => s.releaseThen (scopeOf c.val) fun s => s.retire sm

def execFenceFull (sm : Bool) (c : Fin 4) (s : State) : Result :=
  onCtx s fun _ => s.releaseThen (scopeOf c.val) fun s => (s.fenceAcquire (scopeOf c.val)).retire sm

/-- Both actions, then the announcement; it completes at the arrival (R149). -/
def execFenceSc (sm : Bool) (c : Fin 4) (s : State) : Result :=
  onCtx s fun _ => s.releaseThen (scopeOf c.val) fun s => (s.fenceAcquire (scopeOf c.val)).announce s.cur [] sm

/-! ### Barriers (R222) -/

/-- Contexts in a team template. -/
def Template.contexts (t : Template) : Nat := (t.groups.map TGroup.width).sum

/-- The phases that barrier n had completed when the context took its ticket. -/
def ticketTotal (c : Ctx) (n : Nat) : Nat := ((c.tickets.find? fun p => decide (p.1 = n)).map Prod.snd).getD 0

/-- The 16-bit ticket of a context for a barrier. -/
def ticketOf (c : Ctx) (n : Nat) : BitVec 16 := BitVec.ofNat 16 (ticketTotal c n)

def setTicket (n v : Nat) (c : Ctx) : Ctx :=
  { c with tickets := c.tickets.filter (fun p => !decide (p.1 = n)) ++ (if v = 0 then [] else [(n, v)]) }

/-- The tickets of the active lanes for a barrier. -/
def State.setTickets (s : State) (n v : Nat) : State :=
  (s.lanes s.cur).foldl (fun s i => s.modCtx i (setTicket n v)) s

/-- The team of the issuing agent, where barrier n is one of its barriers; a number beyond its count raises ILLEGAL (R181). -/
def State.barTeam (s : State) (n : Nat) : Option Team := (s.teamOf s.cur).filter fun t => decide (n < t.bars.length)

/-- The arrivals of `bar.arv`: one for each active lane; the count comes from the lowest. -/
def State.barArrive (s : State) (t : Team) (a : Reg) (n : Nat) : State :=
  let cnt := wfld (s.rg (s.lowest s.cur) a) 0 8
  let exp := if cnt = 0 then t.tmpl.contexts else cnt
  let k := (s.lanes s.cur).length
  (s.setTickets n (t.bar n).total).arriveAt t.cl t.num n k exp none (s.relTs s.cur)

/-- Some active lane has not seen the barrier leave its ticket's phase. -/
def State.barPending (s : State) (agent : CtxId) (n : Nat) : Bool := match s.teamOf agent with
  | some t => (s.lanes agent).any fun i => decide (ticketOf (s.ctx i) n = (t.bar n).phase)
  | none => false

/-- The active lanes that are more than 65,535 phases behind the barrier: the status that each reads is unpredictable (R222). -/
def State.barLate (s : State) (t : Team) (n : Nat) : List CtxId :=
  (s.lanes s.cur).filter fun i => decide (65535 < (t.bar n).total - ticketTotal (s.ctx i) n)

/-- The end of a barrier wait: the tickets, the status word, and an acquire at CLU scope (R155). (DEDUCED, log 61; DESIGN CHOICE, log 144) -/
def State.barEnd (s : State) (sm : Bool) (d : Reg) (t : Team) (n : Nat) : State :=
  let b := t.bar n
  let late := s.barLate t n
  let (v, s) := if late.isEmpty then (b.status, s) else s.freshFree
  let s := ((s.setTickets n b.total).observe s.cur b.ts).acquire s.cur .clu
  s.longR sm d fun i => if late.contains i then v else b.status

/-- `bar.wait` once the team is known. (DEDUCED, log 61) -/
def State.barWait (s : State) (sm : Bool) (d : Reg) (t : Team) (n : Nat) : State :=
  if s.barPending s.cur n && !(s.ctx s.cur).woken then s.waitFor (.bar n) else s.barEnd sm d t n

def execBarArv (sm : Bool) (a : Reg) (n : Fin 32) (s : State) : Result :=
  onCtx s fun _ => match s.barTeam n.val with
    | none => s.trapOpen cILLEGAL
    | some t => s.releaseThen .clu fun s => (s.barArrive t a n.val).retire sm

/-- (DEDUCED, log 61) -/
def execBarWait (sm : Bool) (d : Reg) (n : Fin 32) (s : State) : Result :=
  onCtx s fun _ => match s.barTeam n.val with
    | none => s.trapOpen cILLEGAL
    | some t => s.barWait sm d t n.val

/-- The arrival is made once, before the wait. -/
def execBarArw (sm : Bool) (d a : Reg) (n : Fin 32) (s : State) : Result :=
  onCtx s fun c => match s.barTeam n.val with
    | none => s.trapOpen cILLEGAL
    | some t =>
      if c.arrived2 then s.barWait sm d t n.val
      else s.releaseThen .clu fun s =>
        let s := (s.barArrive t a n.val).modCtx s.cur fun c => { c with arrived2 := true, woken := false }
        match s.barTeam n.val with
        | some t => s.barWait sm d t n.val
        | none => s

/-! ### Counters, tags, NOTICE (R153, R154, R223 to R225) -/

/-- The class field of `wait.cnt` (R220). (DEDUCED, log 66) -/
def clsOf (n : Nat) : Cls := match n with
  | 0 => .occ
  | 1 => .ocm
  | 2 => .ocg
  | _ => .ocl

/-- The counter is the leader's (R153). (DEDUCED, log 66) -/
def execWaitCnt (sm : Bool) (n : BitVec 10) (c : Fin 4) (s : State) : Result :=
  onCtx s fun _ =>
    if s.count s.cur (clsOf c.val) ≤ n.toNat then (s.acquireLocal s.cur).retire sm
    else s.waitFor (.cnt (clsOf c.val) n.toNat)

/-- A tag wait of every active lane's mask on the leader's ARRIVED. -/
def tagWait (s : State) (sm : Bool) (a : Reg) (wait : Word → Wait) (ok : Word → Word → Bool) : Result :=
  onCtx s fun c =>
    let ms := (s.lanes s.cur).map fun i => s.rg i a
    match ms.find? fun m => !(ok c.arrived m) with
    | some m => s.waitFor (wait m)
    | none => (if ms.all fun m => m == 0 then s else s.acquireLocal s.cur).retire sm

/-- A mask of zero returns at once (R224). -/
def execTagWany (sm : Bool) (a : Reg) (s : State) : Result := tagWait s sm a .tagAny fun v m => m == 0 || v &&& m != 0

def execTagWall (sm : Bool) (a : Reg) (s : State) : Result := tagWait s sm a .tagAll fun v m => v &&& m == m

/-- Lowest set bit of a word; 64 for zero. -/
def lowBit (w : Word) : Nat := ((List.range 64).find? fun i => w.getLsbD i).getD 64

/-- `tag.ffr` does not wait; a result below 64 acquires (R224). -/
def execTagFfr (sm : Bool) (d a : Reg) (s : State) : Result :=
  onCtx s fun c =>
    let s := if (s.lanes s.cur).any fun i => c.arrived &&& s.rg i a != 0 then s.acquireLocal s.cur else s
    s.longR sm d fun i => BitVec.ofNat 64 (lowBit (c.arrived &&& s.rg i a))

def execTagClr (sm : Bool) (a : Reg) (s : State) : Result :=
  onCtx s fun _ =>
    let m := ((s.lanes s.cur).map fun i => s.rg i a).foldl (fun x y => x ||| y) 0
    (s.modCtx s.cur fun c => { c with arrived := c.arrived &&& ~~~m }).retire sm

/-- The lowest active lane's NOTICE (R225). -/
def execWaitNtc (sm : Bool) (a : Reg) (s : State) : Result :=
  onCtx s fun _ =>
    let i := s.lowest s.cur
    let m := s.rg i a
    if m = 0 ∨ (s.ctx i).notice &&& m ≠ 0 ∨ (s.ctx s.cur).woken = true then s.retire sm else s.waitFor (.notice m)

/-- Contexts of other slots of the pipe that are ready. (DEDUCED, log 64) -/
def State.readyBeside (s : State) (id : CtxId) : Nat :=
  (s.ctxs.filter fun c => decide (c.id.cl = id.cl ∧ c.id.pipe = id.pipe ∧ c.id.slot ≠ id.slot ∧ c.st = .ready)).length

/-- `yield` returns after one pass of the pipe's other slots (R56). (DEDUCED, log 64) -/
def execYield (sm : Bool) (s : State) : Result :=
  onCtx s fun _ =>
    let k := s.readyBeside s.cur
    let s := s.retire sm
    if (s.ctx s.cur).st = .ready ∧ 0 < k then s.waitFor (.pass k) else s

end Sys2Proof.Machine
end

