-- ==== Sys2Proof/Machine/Schedule.lean ====
section
/-! DEFINITION. Sys2Proof/Machine/Schedule.lean: what the package does around an instruction or an event: waits end, clusters ask for activity, time
passes, and the next to move is chosen among those that may (spec/01 R16; spec/02 R34 to R36, R56; spec/15 R439, R440). Which of them moves, and how much
time a move takes, the manual leaves open: Config.pick and Config.elapsed. -/

namespace Sys2Proof.Machine

/-! ### Agents (R28) -/

/-- The agents that issue: single contexts, and the leaders of fused groups (R28). -/
def isAgent (c : Ctx) : Bool := match c.grp with
  | none => true
  | some b => decide (b = c.id.pipe)

/-! ### The ends of waits (R56) -/

/-- The ring slot that a wait names shows the phase. -/
def State.ringShows (s : State) (c : Ctx) (r slot : Nat) (ph : Bool) : Bool := match (s.teamOf c.id).bind fun t => t.rings[r]? with
  | some g => g.phases.getLsbD slot == ph
  | none => true

/-- The pool has the blocks for a waiter whose turn it is (R234). -/
def State.blocksFree (s : State) (c : Ctx) (k : Nat) : Bool := match s.teamOf c.id with
  | some t => !t.waitersAhead (poolOf c.role) c.id && decide (k ≤ t.poolFree (poolOf c.role))
  | none => true

/-- A partition's number of records leaves room for one more (R424). -/
def State.recordRoom (s : State) (cl : Nat) : Bool :=
  decide ((s.faults.filter fun f => some f.part = (s.partOf cl).map Partition.num).length < 4096)

/-- The event that a context waits for has occurred. The rendezvous, the re-fuse and the end of an sc operation are made by what completes them. (DEDUCED, log 15; DEDUCED, log 62) -/
def State.waitOver (s : State) (c : Ctx) : Wait → Bool
  | .fuse _ => false
  | .bar n => !s.barPending c.id n
  | .ring r slot ph => s.ringShows c r slot ph
  | .tagAny m => m == 0 || c.arrived &&& m != 0
  | .tagAll m => c.arrived &&& m == m
  | .cnt k n => decide (s.count c.id k ≤ n)
  | .notice m => (s.ctx (s.lowest c.id)).notice &&& m != 0
  | .joinAt => false
  | .blocks k => s.blocksFree c k
  | .blockUse k => !s.blocksUsed c.id k
  | .drained => s.drained c.id
  | .performed sc => !s.unperformed c.id || (sc == .sys && c.lostWrite.isSome)
  | .scDone => c.woken
  | .queueEntry kill => match s.partOf c.id.cl with
    | some p => if kill then (s.killHead p.num).isSome else (s.faultHead p.num).isSome
    | none => false
  | .page va reason => !s.engineWaits (s.behalf c) (va, reason) || c.pageNomem.isSome
  | .pass left => decide (left = 0) || decide (s.readyBeside c.id = 0)
  | .reform => !(s.colls.any fun x => decide (x.away = none ∧ some x.part = (s.partOf c.id.cl).map Partition.num) && decide (x.verdict = some (4, 0, 0xFFFF)))
  | .inval lo n => !s.inFlight c.id.cl lo n

/-- The instruction completes when it issues again: its event was seen. (DEDUCED, log 15) -/
def Wait.latches : Wait → Bool
  | .bar _ => true
  | .ring _ _ _ => true
  | .notice _ => true
  | .inval _ _ => true
  | .fuse _ => false
  | .tagAny _ => false
  | .tagAll _ => false
  | .cnt _ _ => false
  | .joinAt => false
  | .blocks _ => false
  | .blockUse _ => false
  | .drained => false
  | .performed _ => false
  | .scDone => false
  | .queueEntry _ => false
  | .page _ _ => false
  | .pass _ => false
  | .reform => false

/-- The room that a context waits for has been found (R34, R246). (DEDUCED, log 15) -/
def State.hasRoom (s : State) (c : Ctx) : Room → Bool
  | .vector => decide (((s.cluster c.id.cl).vq.filter fun v => decide (v.pipe = c.id.pipe)).length < 16)
  | .sfu => decide ((s.cluster c.id.cl).sfuq.length < 32)
  | .quad q => decide ((s.quad c.id.cl q).queue.length < 8)
  | .copies => decide (s.copiesIn c.id.cl < 512)
  | .comm part slot gen => !(s.colls.any fun x => decide (x.by_.ctx = c.id ∧ x.by_.team = c.team ∧ x.part = part ∧ x.cslot = slot ∧ x.gen = gen))
  | .record => s.recordRoom c.id.cl

/-- What a context does when its wait or its parking ends, where its cluster is active (R439). (DEDUCED, log 62) -/
def State.wakeCtx (s : State) (c : Ctx) : Ctx :=
  if s.paused c.id.cl || s.frozen c.id.cl || !(s.cluster c.id.cl).active || !isAgent c then c
  else match c.st with
    | .waiting w _ => if s.waitOver c w then { c with st := .ready, woken := (c.woken && w != .scDone) || w.latches } else c
    | .parked .results => if s.hasLongs c.id || !(s.poisonHits c.id).isEmpty then c else { c with st := .ready, owed := [] }
    | .parked (.room r) => if s.hasRoom c r then { c with st := .ready } else c
    | .parked .check => c
    | .ready => c
    | .held => c
    | .exited => c
    | .dead => c

/-- The agents whose run has ended with a poisoned result: their deferred traps are taken (R384). -/
def State.endRuns (s : State) : State :=
  let due := s.ctxs.filter fun c => (c.st == .parked .results) && isAgent c && !s.frozen c.id.cl && !s.paused c.id.cl && (s.cluster c.id.cl).active &&
    !s.hasLongs c.id && !(s.poisonHits c.id).isEmpty
  due.foldl (fun (s : State) c =>
    let s := { s.modCtx c.id (fun c => { c with owed := [] }) with cur := c.id }
    s.hitLanes c.id (s.poisonHits c.id) (fun _ => (s.ctx c.id).pc) false false) s

/-- FUSE traps of rendezvous that have become impossible (R38). (DEDUCED, log 65) -/
def State.endFuses (s : State) : State :=
  let at_ := ((s.ctxs.filter fun c => c.fusing.isSome).map fun c => (c.id.cl, c.id.slot)).eraseDups
  at_.foldl (fun (s : State) p => s.trapEach cFUSE (s.fuseTraps p.1 p.2)) s

/-- A slot has issued: it is the pipe's last, and the passes of `yield` in the pipe go on (R16, R56). (DEDUCED, log 64; DESIGN CHOICE, log 140) -/
def State.noteIssue (s : State) (id : CtxId) : State :=
  let s := s.modCluster id.cl fun k => { k with last := k.last.filter (fun p => decide (p.1 ≠ id.pipe)) ++ [(id.pipe, id.slot)] }
  { s with ctxs := s.ctxs.map fun (c : Ctx) => match c.st with
      | .waiting (.pass n) t =>
        if c.id.cl = id.cl ∧ c.id.pipe = id.pipe ∧ c.id.slot ≠ id.slot then { c with st := .waiting (.pass (n - 1)) t } else c
      | _ => c }

/-- The context has found no room for its instruction: the search of R16 has passed it over (R246). -/
def Ctx.roomless (c : Ctx) : Bool := match c.st with
  | .parked (.room _) => true
  | .parked .results => false
  | .parked .check => false
  | .waiting _ _ => false
  | .ready => false
  | .held => false
  | .exited => false
  | .dead => false

/-- A result or a packet of the partition's contexts is on its way (R397). (DEDUCED, log 50) -/
def State.inMesh (s : State) (p : Partition) : Bool := (s.longs.any fun l => inPart p l.dst.cl) || s.packets.any fun x => inPart p x.from_.cl

/-- Waits, parkings, heads of vector queues: what follows from the move that has just been made. (DEDUCED, log 15) -/
def State.settle (s : State) : State :=
  let s := match s.next with
    | .ctx id => if (s.ctx id).roomless then s else s.noteIssue id
    | .event _ _ => s
    | .idle => s
  let s := s.endFuses.endRuns
  let s := { s with ctxs := s.ctxs.map s.wakeCtx }
  let s := { s with ctxs := s.ctxs.map fun (c : Ctx) => if c.drain && !s.hasLongs c.id then { c with drain := false } else c }
  let s := { s with parts := s.parts.map fun (p : Partition) => if p.refill && !s.inMesh p then { p with refill := false } else p }
  { s with clusters := s.clusters.map fun (k : Cluster) => if s.frozen k.id then k else s.gsEnter (sfuEnter k) }

/-! ### Activity (R439, R440) -/

/-- An engine command that stands at a page whose service is pending does not run. -/
def State.runs (s : State) (b : Behalf) (stall : Option (Nat × Nat)) (nomem : Bool) : Bool := match stall with
  | some va => nomem || !s.engineWaits b va
  | none => true

/-- A context of the cluster is Ready or Parked, or an event would make one so, or an engine of it has something to do (R439). -/
def State.wantsClock (s : State) (k : Cluster) : Bool :=
  (s.ctxs.any fun c => decide (c.id.cl = k.id) && isAgent c && match c.st with
    | .ready => true
    | .parked _ => true
    | .waiting w _ => s.waitOver c w
    | .held => false
    | .exited => false
    | .dead => false) ||
  (s.ctxs.any fun c => decide (c.id.cl = k.id) && s.watchDue c) ||
  (k.vq.any fun v => v.work.any fun p => s.runs v.by_ p.stall p.nomem) || !k.sfuq.isEmpty || !k.sfuOut.isEmpty || (k.quads.any fun q => !q.queue.isEmpty) ||
    (s.copies.any fun c => decide (c.by_.ctx.cl = k.id) && s.runs c.by_ c.stall c.nomem) ||
    (s.colls.any fun c => decide (c.by_.ctx.cl = k.id ∧ c.away = none) && s.runs c.by_ c.stall c.nomem) ||
    s.compiles.any fun c => decide (c.cl = k.id)

/-- Key of a cluster in a release batch (R440). (DESIGN CHOICE, log 91) -/
def admitKey (n c r : Nat) : Nat := (c + n - 37 * r % n) % n

/-- The request of a cluster for activity joins the batch of this nanosecond. (DESIGN CHOICE, log 91) -/
def State.askActive (s : State) (cl : Nat) : State :=
  match s.partOf cl with
  | none => s.modCluster cl fun k => { k with asks := some (0, s.logical cl) }
  | some p =>
    let fresh := decide (p.releaseAt ≠ some s.gtime)
    let r := if fresh then p.release else p.release - 1
    let s := if fresh then s.modPart p.num fun p => { p with release := r + 1, releaseAt := some s.gtime } else s
    s.modCluster cl fun k => { k with asks := some (r, admitKey (max s.nClusters 1) (s.logical cl) r) }

/-- Clusters become idle, and idle ones ask for activity. -/
def State.activity (s : State) : State :=
  s.clusters.foldl (fun (s : State) k =>
    if !k.released || k.gated || s.frozen k.id then s
    else if s.wantsClock k then (if k.active || k.asks.isSome then s else s.askActive k.id)
    else if k.active || k.asks.isSome then s.modCluster k.id fun k => { k with active := false, asks := none } else s) s

/-! ### What falls due -/

/-- An event with the GTIME at which it falls due. -/
abbrev Due := Nat × Instr × Subject

/-- GTIME of a cycle of a cluster, at the earliest. -/
def State.timeOf (s : State) (cl c : Nat) : Nat :=
  if c ≤ s.cycle cl then s.gtime
  else
    let k := s.cluster cl
    s.gtime + ((c - s.cycle cl) * (5 * (16 + k.step)) + 143) / 144

/-- Subjects of events. -/
def noSub : Subject := {}
def subN (n : Nat) : Subject := { n := n }
def subLost (n : Nat) : Subject := { n := n, ok := false }
def subCl (cl : Nat) : Subject := { cl := cl }
def subClNum (cl num : Nat) : Subject := { cl := cl, num := num }
def subTeam (cl team num : Nat) : Subject := { cl := cl, team := team, num := num }
def subNum (num : Nat) : Subject := { num := num }
def subPart (part : Nat) : Subject := { part := part }
def subSlot (i : CtxId) : Subject := { cl := i.cl, pipe := i.pipe, slot := i.slot }
def subPipe (cl pipe num : Nat) (ok : Bool) : Subject := { cl := cl, pipe := pipe, num := num, ok := ok }
def subInst (part num n : Nat) : Subject := { part := part, num := num, n := n }

/-- The end of a pause, at most 200 ns after its begin (R393). -/
def Cluster.duePause (k : Cluster) : Option Due := match k.change with
  | some (_, _, some t0) => some (t0 + 200, .freqPauseEnd, subCl k.id)
  | _ => none

/-- A cluster that has been empty for 100 µs and is not at IDLESTEP (R438). -/
def State.dueIdle (s : State) (k : Cluster) : Option Due := match s.partOf k.id, k.emptySince with
  | some p, some t =>
    if k.released && !k.gated && !k.emergency && k.steady && !s.isChosen k.id && decide (k.step ≠ p.idlestep) then
      some (t + 100000, .idleTimeout, subCl k.id)
    else none
  | _, _ => none

/-- Every 1024 cycles of a cluster with contexts (R124). -/
def State.dueTick (s : State) (k : Cluster) : Option Due :=
  if k.released && !k.gated && !s.frozen k.id && !s.paused k.id && (s.ctxs.any fun c => decide (c.id.cl = k.id)) then
    some (s.timeOf k.id ((k.ticks + 1) * 1024), .ptsTick, subCl k.id)
  else none

/-- The supply reaches the next code on its way (R437). -/
def Domain.dueVolt (d : Domain) : Option Due :=
  if d.code = d.target then none else some (d.moved + 50, .voltageSettled, subNum d.id)

def Domain.dueDroopy (d : Domain) : Option Due := d.droopy.map fun t => (t, .droopyEnd, subNum d.id)

/-- A slot of the domain has room now (R439). -/
def State.slotOpen (s : State) (m : Nat) : Bool := decide ((s.domain m).slotN < 2 ∨ (s.domain m).slotAt + 50 ≤ s.gtime)

/-- The next slot of a domain in which clusters wait for admission (R440). One that is open serves at the end of the nanosecond, when the requests of its batch
are complete. (DESIGN CHOICE, log 91) -/
def State.dueSlot (s : State) (m : Nat) : Option Due :=
  if (s.admissible m).isEmpty then none
  else if s.slotOpen m then (if s.sealed = some s.gtime then some (s.gtime, .admissionSlot, subNum m) else none)
  else some ((s.domain m).slotAt + 50, .admissionSlot, subNum m)

/-- The window of an sc operation closes, or its announcement arrives (R148, R149). -/
def ScOp.due (o : ScOp) : Due :=
  if o.closed then (windowEnd o.window + 96, .fumaroleArrival, subNum o.window) else (windowEnd o.window, .fumaroleWindowClose, subNum o.window)

/-- The domains that have a cluster. -/
def State.domainsUsed (s : State) : List Nat := (s.clusters.map fun k => domainOf k.id).eraseDups

/-- Clocks, power and Fumarole. -/
def State.dueClocks (s : State) : List Due := List.flatten [
  if s.boot.inReset then [] else [(s.tickAt, .controlTick, noSub)],
  s.clusters.filterMap Cluster.duePause,
  s.clusters.filterMap s.dueIdle,
  s.clusters.filterMap s.dueTick,
  s.domains.filterMap Domain.dueVolt,
  s.domains.filterMap Domain.dueDroopy,
  s.domainsUsed.filterMap s.dueSlot,
  (s.scops.filter fun o => !s.frozen o.agent.cl).map ScOp.due]

/-- The instances that are open on this package: partition, slot, number. -/
def State.openInsts (s : State) : List (Nat × Nat × Nat) :=
  List.eraseDups (List.append ((s.colls.filter fun c => (s.verdictOf c).isNone).map fun c => (c.part, c.cslot, c.inst))
    ((s.contribs.filter fun c => (s.decidedAs c.part c.cslot c.msg.gen c.msg.inst).isNone).map fun c => (c.part, c.cslot, c.msg.inst)))

/-- 4096 cycles after a line was first dirtied (R123). -/
def State.dueLine (s : State) (x : L1Line × Nat) : Option Due :=
  if x.1.dirty = 0 ∨ s.frozen x.1.cl = true ∨ s.paused x.1.cl = true then none
  else some (s.timeOf x.1.cl (x.1.since + 4096), .l1WritebackDeadline, subN x.2)

/-- 1 µs after a write has left its bank: what R126 leaves a write-back for its way to its place. One whose target does not answer fails at LTO, and one to a
lost peer at once (R458, R459). -/
def State.dueWrite (s : State) (x : PWrite × Nat) : Option Due := match x.1.place with
  | .mem _ pa =>
    if s.frozen x.1.agent.cl then none
    else if s.lostPeer pa then some (s.gtime, .writePerformed, subLost x.2)
    else if x.1.mute then some (x.1.since + 1000 * s.lto, .linkRequestTimeout, { subN x.2 with num := 1 })
    else some (x.1.since + 1000, .writePerformed, subN x.2)
  | .ls _ _ => none

/-- A reduction outside region 0x0 fails at LTO, and at once from a lost peer (R458, R459). -/
def State.dueRed (s : State) (x : PRed × Nat) : Option Due := match x.1.place with
  | .mem _ pa =>
    if pa / 2 ^ 48 = 0 ∨ s.frozen x.1.agent.cl = true then none
    else if s.lostPeer pa then some (s.gtime, .reductionApply, subLost x.2)
    else some (x.1.since + 1000 * s.lto, .linkRequestTimeout, { subN x.2 with num := 2 })
  | .ls _ _ => none

/-- LTO after a request (R458). -/
def State.dueRemote (s : State) (x : Access × Nat) : Option Due := match x.1.stage with
  | .remote _ => some (x.1.since + 1000 * s.lto, .linkRequestTimeout, subN x.2)
  | _ => none

/-- T after the first issue of an instance that is coordinated here (R315). -/
def State.dueInst (s : State) (x : Nat × Nat × Nat) : Option Due := match s.comm x.1 x.2.1 with
  | some k => match firstIssue (s.shares x.1 x.2.1 k.gen x.2.2) with
    | some t => if s.coordLocal k x.2.2 then some (t + k.tms * 1000000, .collectiveTimeout, subInst x.1 x.2.1 x.2.2) else none
    | none => none
  | none => none

/-- 2T after an issue whose coordinator is on another package (R315). -/
def State.dueContact (s : State) (x : Coll × Nat) : Option Due := match s.comm x.1.part x.1.cslot with
  | some k =>
    if (s.verdictOf x.1).isNone && !s.coordLocal k x.1.inst then some (x.1.since + 2 * k.tms * 1000000, .coordinatorContactLost, subN x.2) else none
  | none => none

/-- The watchdog (R391). -/
def State.dueWatch (s : State) (c : Ctx) : Option Due :=
  if decide (1 ≤ c.tl ∧ c.priv = .supervisor) && c.st != .dead && c.st != .exited && !s.frozen c.id.cl && !s.paused c.id.cl &&
      ((s.cluster c.id.cl).active || !s.watchDue c) then
    some (s.timeOf c.id.cl (c.watch + watchLimit), .watchdogExpiry, subSlot c.id)
  else none

/-- A swap goes on once what runs to completion first has done so (R58). -/
def State.dueSwapOut (s : State) (t : Team) : Option Due :=
  if s.swapReady t && !s.frozen t.cl then some (s.gtime, .teamSwapOut, subTeam t.cl t.num 0) else none

/-- The swap threshold (R57). -/
def State.dueSwap (s : State) (t : Team) : Option Due :=
  if s.overThreshold t && !t.candidate && !t.swapped then some (s.gtime, .swapThresholdExpiry, subTeam t.cl t.num 0) else none

/-- The team that Geyser is at: no wait for an eligible cluster holds it, and a cluster that has been chosen for it has changed its step (R430, R438). -/
def State.toPlace (s : State) (p : Partition) : Option Task := match s.queueHead p.num with
  | some k =>
    let at_ := match k.chosen with
      | some c => (s.cluster c).steady || (s.ctxs.any fun x => decide (x.id.cl = c)) || !s.notWithheld p c
      | none => true
    if p.placeWait != some k.idx && at_ then some k else none
  | none => none

/-- Placements follow one another at intervals of at most 40 ns: after the last one, the end of a wait, the arrival of the record and the change of step that
a placement has asked for (R430). (DEDUCED, log 147) -/
def State.duePlace (s : State) (p : Partition) : Option Due := match s.toPlace p with
  | some k =>
    let t1 := match k.chosen with
      | some c => max p.placeAt (s.cluster c).segT1
      | none => p.placeAt
    if p.run == .running then some (t1 + 40, .teamPlacement, subPart p.num) else none
  | none => none

/-- The end of a team's residency slice, while others of its grid are queued for its place (R59). (DESIGN CHOICE, log 95) -/
def State.dueSlice (s : State) (t : Team) : Option Due := match s.partOf t.cl with
  | some p =>
    if t.swapped || t.swapping || s.frozen t.cl || !s.queuedMates t then none
    else if t.since + p.sliceQ ≤ s.gtime && !s.sliceDue p t then none
    else some (t.since + p.sliceQ, .residencySliceEnd, subTeam t.cl t.num 0)
  | none => none

/-- A swapped team that may return does so within 60 µs of the last swap of its grid on the cluster (R59). (DESIGN CHOICE, log 95) -/
def State.dueRestore (s : State) (t : Team) : Option Due :=
  if t.swapped && !s.frozen t.cl && s.canRestore t then
    some (((s.teams.filter fun x => x.swapped && t.mates x).map Team.since).foldl max 0 + 60000, .teamRestore, subTeam t.cl t.num 0)
  else none

/-- A member writes its completion record within 2T of its issue (R315). -/
def State.dueColl (s : State) (x : Coll × Nat) : Option Due := match s.comm x.1.part x.1.cslot with
  | some k =>
    if x.1.away.isNone && (s.verdictOf x.1).isSome && !s.frozen x.1.by_.ctx.cl && (s.cluster x.1.by_.ctx.cl).active then some (x.1.since + 2 * k.tms * 1000000, .collectiveComplete, subN x.2) else none
  | none => none

/-- The times of gang switches (R395, R397). -/
def State.duePart (s : State) (p : Partition) : Option Due := match p.run with
  | .stopping t _ => if t ≤ s.gtime ∧ s.gmLeft p = true then none else some (t, .gangSwitchOut, subPart p.num)
  | .entering t area => if s.sfuLeft p area then none else some (t, .gangSwitchIn, subPart p.num)
  | .running => none
  | .stopped _ => none
  | .away _ => none

/-- Memory, links, collectives, traps, switches. -/
def State.dueRest (s : State) : List Due := List.flatten [
  s.l1.zipIdx.filterMap s.dueLine,
  s.writes.zipIdx.filterMap s.dueWrite,
  s.reds.zipIdx.filterMap s.dueRed,
  s.accesses.zipIdx.filterMap s.dueRemote,
  s.openInsts.filterMap s.dueInst,
  s.colls.zipIdx.filterMap s.dueContact,
  s.ctxs.filterMap s.dueWatch,
  s.teams.filterMap s.dueSwap,
  s.teams.filterMap s.dueSwapOut,
  s.teams.filterMap s.dueSlice,
  s.teams.filterMap s.dueRestore,
  s.colls.zipIdx.filterMap s.dueColl,
  s.parts.filterMap s.duePart,
  s.parts.filterMap s.duePlace]

/-- The start of the package. -/
def State.dueBoot (s : State) : List Due := List.flatten [
  if s.boot.inReset then [(s.gtime, .resetRelease, noSub)] else [],
  if s.boot.phase < 9 ∧ s.boot.inReset = false then [(s.boot.t0 + 10 ^ 10, .startTimeout, noSub)] else [],
  if s.boot.phase = 2 then [(s.boot.t3 + 5 * 10 ^ 9, .leasePhaseTimeout, noSub)] else [],
  if s.boot.phase = 2 ∧ s.boot.lead.isSome = false then [(s.boot.pollAt, .leasePoll, noSub)] else [],
  if s.boot.phase = 2 ∧ s.boot.lead.isSome = true then [(s.boot.renewed + 10000000, .leaseRenew, noSub)] else [],
  if (s.boot.phase = 5 ∨ s.boot.phase = 6) ∧ leNat (Memory.readN s.mem (bpb 12) 4) = 1 then [(s.gtime, .mapCheck, noSub)] else [],
  if s.boot.phase = 8 ∧ leNat (Memory.readN s.mem (bpb 20) 4) = 1 then [(s.gtime, .bootok, noSub)] else []]

/-- (DESIGN CHOICE, log 5; DESIGN CHOICE, log 6) -/
def State.dues (s : State) : List Due := s.dueBoot.append (s.dueClocks.append s.dueRest)

/-- Time passes: not beyond the next event that falls due, and not at all while one is due. A nanosecond in which clusters can be admitted ends with their
admission (R440). (DESIGN CHOICE, log 6; DESIGN CHOICE, log 91) -/
def State.passTime (s : State) : State :=
  let ended := decide (s.sealed = some s.gtime)
  let t := s.gtime + max (Config.elapsed s.freeCtr) (if ended then 1 else 0)
  let t := s.dues.foldl (fun t d => min t (max s.gtime d.1)) t
  let asked := s.domainsUsed.any fun m => s.slotOpen m && !(s.admissible m).isEmpty
  if s.gtime < t ∧ ended = false ∧ asked = true then { s with sealed := some s.gtime, freeCtr := s.freeCtr + 1 }
  else { s with gtime := t, freeCtr := s.freeCtr + 1 }

/-! ### What may happen -/

/-- An event that may happen. -/
abbrev May := Instr × Subject

/-- An event of place n of a list; outside region 0x0 it may fail. (DESIGN CHOICE, log 122) -/
def mayFail (i : Instr) (far : Bool) (n : Nat) : List May := if far then [(i, subN n), (i, subLost n)] else [(i, subN n)]

/-- A write of the agent to the bytes will never be answered: nor will a read of them. -/
def State.muted (s : State) (agent : CtxId) (p : Place) (n : Nat) : Bool :=
  s.writes.any fun w => w.mute && s.sameBank agent w && placesMeet w.place w.data.length p n

/-- What an access on its way waits for. -/
def State.mayStage (s : State) (x : Access × Nat) : List May :=
  if s.frozen x.1.agent.cl then []
  else match x.1.stage with
    | .probe => mayFail .translationProbeResult false x.2
    | .setD _ => mayFail .dirtyBitSet false x.2
    | .remote y => if s.muted x.1.agent (.mem x.1.va (y.pa x.1.va)) x.1.op.bytes then [(.remoteResponse, subLost x.2)] else mayFail .remoteResponse true x.2
    | .check _ => mayFail .checkPointPass false x.2
    | .heldFault _ => if s.recordRoom x.1.agent.cl && !s.paused x.1.agent.cl then mayFail .faultRecordAdmit false x.2 else []
    | .passed _ => []
    | .trapped _ _ _ => []
    | .upcall _ _ => []

def farPlace : Place → Bool
  | .mem _ pa => decide (pa / 2 ^ 48 ≠ 0)
  | .ls _ _ => false

def State.mayLong (s : State) (x : Long × Nat) : List May := if s.frozen x.1.dst.cl || !s.mayReturn x.1 then [] else mayFail .longResultReturn false x.2
def State.mayWrite (s : State) (x : PWrite × Nat) : List May :=
  if s.frozen x.1.agent.cl || x.1.mute then []
  else mayFail .writePerformed (farPlace x.1.place) x.2 ++ if farPlace x.1.place then [(.writePerformed, { subLost x.2 with hi := 1 })] else []
def State.mayRed (s : State) (x : PRed × Nat) : List May :=
  if s.frozen x.1.agent.cl then [] else mayFail .reductionApply (farPlace x.1.place) x.2
def State.mayLine (s : State) (x : L1Line × Nat) : List May :=
  if x.1.dirty = 0 ∨ s.frozen x.1.cl = true then [] else mayFail .l1WritebackDeadline false x.2

/-- Accesses, results, writes and reductions on their way. -/
def State.mayAccess (s : State) : List May := List.flatten [
  s.longs.zipIdx.flatMap s.mayLong,
  s.accesses.zipIdx.flatMap s.mayStage,
  s.writes.zipIdx.flatMap s.mayWrite,
  s.reds.zipIdx.flatMap s.mayRed,
  s.l1.zipIdx.flatMap s.mayLine]

/-- The head of a pipe's vector queue: each of its parts that holds a lane group and does not stand at a page; `f` says how many steps it runs. -/
def State.mayHead (s : State) (f : Nat) (k : Cluster) (p : Nat) : List May := match k.head p with
  | none => []
  | some v =>
    let run := fun (j : Nat) => s.runs v.by_ (v.part j).stall (v.part j).nomem
    let n := fun (j : Nat) => f % (v.steps j + 1)
    if v.op = 0x19 then (if v.away && v.finished && !k.sfuq.contains (.vec p) then [(.vectorCommandComplete, subPipe k.id p 0 true)] else [])
    else if v.op = 0x1A ∨ v.op = 0x1B then (if run 0 && k.inUnit (v.oc.getD 0) then [(.gatherScatterComplete, subPipe k.id p (n 0) false)] else [])
    else if v.finished then [(.vectorCommandComplete, subPipe k.id p 0 true)]
    else (List.range v.work.length).filterMap fun j =>
      if (v.part j).lane && run j then some (.vectorCommandComplete, { subPipe k.id p (n j) true with lo := j }) else none

/-- The head of the SFU queue. -/
def State.maySfu (s : State) (f : Nat) (k : Cluster) : List May := match k.sfuq with
  | [] => []
  | .scalar _ _ _ _ :: _ => [(.sfuEntryServe, subCl k.id)]
  | .vec p :: _ => match k.head p with
    | some v => if s.runs v.by_ (v.part 0).stall (v.part 0).nomem then [(.sfuEntryServe, subClNum k.id (f % (v.steps 0 + 1)))] else []
    | none => [(.sfuEntryServe, subCl k.id)]

/-- The head of a matrix queue. -/
def State.mayQuad (s : State) (f : Nat) (k : Cluster) (q : Nat) : List May := match (s.quad k.id q).queue.head? with
  | none => []
  | some m =>
    if m.op = 0 then (if s.mxEarlier k.id q m then [] else [(.mxCfgApply, subClNum k.id q)])
    else if m.compiling && (s.compiles.any fun c => decide (c.cl = k.id) && waitsFor c.tile m) then []
    else [(.matrixCommandComplete, { subClNum k.id q with n := f % (s.mxSteps k.id q m + 1) })]

/-- The matrix queues and the compiler of a cluster. -/
def State.mayMatrix (s : State) (f : Nat) (k : Cluster) : List May :=
  (List.range 4).flatMap (s.mayQuad f k) ++ if s.compiles.any fun c => decide (c.cl = k.id) then [(.sinterCompileComplete, subCl k.id)] else []

/-- The partition of a cluster is at a switch out that its clusters' `gm.gemv` and `gm.lay` hold up (R395, R396). -/
def State.drainsGm (s : State) (k : Cluster) : Bool := match s.partOf k.id with
  | some p => match p.run with
    | .stopping _ _ => k.gmLeft
    | .running => false
    | .stopped _ => false
    | .away _ => false
    | .entering _ _ => false
  | none => false

/-- The SFU of a cluster whose partition is switched out goes on with the scalar requests of the contexts that have gone (R273). -/
def State.sfuForGone (s : State) (k : Cluster) : List May :=
  let gone := match s.partOf k.id with
    | some p => match p.run with
      | .away _ => true
      | .entering _ _ => true
      | .running => false
      | .stopping _ _ => false
      | .stopped _ => false
    | none => false
  if gone = false then []
  else (match k.sfuq with
    | .scalar _ _ _ (some _) :: _ => [(.sfuEntryServe, subCl k.id)]
    | _ => []) ++ if (k.sfuOut.head?.bind Long.away).isSome then [(.sfuResultWrite, subCl k.id)] else []

/-- The engines of a cluster that is active; at a switch out those that run to completion. (DESIGN CHOICE, log 74) -/
def State.mayCluster (s : State) (f : Nat) (k : Cluster) : List May :=
  if s.frozen k.id then (if s.drainsGm k then s.mayMatrix f k else []) ++ s.sfuForGone k
  else if !k.active then []
  else List.flatten [
    if k.nextPipe.isSome && decide (k.lanes.length < 8) then [(.vectorPartBind, subCl k.id)] else [],
    (List.range 16).flatMap (s.mayHead f k),
    s.maySfu f k,
    if k.sfuOut.isEmpty then [] else [(.sfuResultWrite, subCl k.id)],
    s.mayMatrix f k]

/-- A collective command can go on. -/
def State.collMoves (s : State) (c : Coll) : Bool :=
  if (s.verdictOf c).isSome then true
  else if !c.sent then s.runs c.by_ c.stall c.nomem
  else if !c.wrote then s.allIn c && s.runs c.by_ c.stall c.nomem
  else match s.comm c.part c.cslot with
    | some k => s.coordLocal k c.inst && s.allWrote c
    | none => false

/-- (DESIGN CHOICE, log 74) -/
def State.mayCopy (s : State) (f : Nat) (x : Copy × Nat) : List May :=
  if s.frozen x.1.by_.ctx.cl || !(s.cluster x.1.by_.ctx.cl).active || !s.runs x.1.by_ x.1.stall x.1.nomem then []
  else
    let a : Subject := { n := x.2, num := f % (x.1.chunks + 1) }
    if x.1.kind = 0 then [(.copyComplete, a)]
    else if (s.cluster x.1.by_.ctx.cl).inUnit x.1.oc then [(.gatherScatterComplete, a)] else []

/-- (DESIGN CHOICE, log 74) -/
def State.mayColl (s : State) (x : Coll × Nat) : List May :=
  if x.1.away.isSome || s.frozen x.1.by_.ctx.cl || !(s.cluster x.1.by_.ctx.cl).active || !s.collMoves x.1 then [] else [(.collectiveComplete, subN x.2)]

/-- The stream fetchers of a team read ahead. -/
def State.mayStreams (s : State) (t : Team) : List May :=
  if t.swapped || s.frozen t.cl || !(s.cluster t.cl).active then []
  else t.streams.zipIdx.flatMap fun x =>
    if x.1.kind = 0 ∨ x.1.comb = true ∨ x.1.atEnd = true ∨ x.1.fpend = true then [] else [(.streamFetchComplete, subTeam t.cl t.num x.2)]

/-- Copies, collectives and stream fetchers. (DESIGN CHOICE, log 74) -/
def State.mayUnits (s : State) (f : Nat) : List May := List.flatten [
  s.copies.zipIdx.flatMap (s.mayCopy f),
  s.colls.zipIdx.flatMap s.mayColl,
  s.teams.flatMap s.mayStreams]

/-- Geyser has a team to place, or a task whose record is written to end (R66, R430). -/
def State.mayPlace (s : State) (p : Partition) : List May :=
  if p.run != .running then []
  else (if (s.toPlace p).isSome then [(.teamPlacement, subPart p.num)] else []) ++
    (s.tasks.filter fun k => decide (k.part = p.num ∧ k.st = .ending)).map fun k => (.teamPlacement, { subPart p.num with num := 1, n := k.idx })

/-- Swaps of a team (R57 to R59). (DEDUCED, log 138) -/
def State.maySwap (s : State) (t : Team) : List May :=
  let a := subTeam t.cl t.num 0
  if s.frozen t.cl then []
  else List.flatten [
    if s.canRestore t then [(.teamRestore, a)] else [],
    if s.swapDue t || s.swapReady t then [(.teamSwapOut, a)] else [],
    match s.partOf t.cl with
    | some p => if s.sliceDue p t then [(.residencySliceEnd, a)] else []
    | none => []]

def State.mayKill (s : State) (x : (CtxId × KillRec) × Nat) : List May := if s.killRoom x.1.2 then [(.killRecordAppend, subN x.2)] else []

/-- Geyser, kills, packets, deliveries to the host, the end of a pause, a CXL link that the failed start has left up, the copy of the image. (DESIGN CHOICE, log 122) -/
def State.mayRest (s : State) : List May := List.flatten [
  s.parts.flatMap s.mayPlace,
  s.teams.flatMap s.maySwap,
  s.killWait.zipIdx.flatMap s.mayKill,
  (s.packets.zipIdx.filter fun x => !s.frozen x.1.from_.cl && !s.freshlyReleased x.1.cl).map fun x => (.nbrPacketArrival, subN x.2),
  s.parts.flatMap fun p => ((p.cq.map fun e => (e.1, e.2.1)).eraseDups).map fun e => (.completionEventDeliver, { subPart p.num with n := e.1, num := e.2 }),
  (((s.events.append s.reserve).map Event.fn).eraseDups).flatMap fun fn => [(.eventRecordDeliver, { num := fn, hi := 32 }), (.eventRecordDeliver, { num := 5 + fn, hi := 32 })],
  (s.clusters.filter fun k => s.paused k.id).map fun k => (.freqPauseEnd, subCl k.id),
  match s.boot.cxl with
  | some (lo, hi) => if s.boot.phase = 1 ∧ s.boot.inReset = false then [(.cxlLinkUp, { lo := lo, hi := hi })] else []
  | none => [],
  if s.boot.phase = 2 ∧ s.boot.lead.isSome = true then [(.leasePoll, noSub)] else []]

/-- The oldest event from outside; an UNMAP waits for the accesses and the announced sc operations that have passed their check points (R402). (DESIGN CHOICE, log 122) -/
def State.mayInbox (s : State) : List May := match s.inbox with
  | [] => []
  | (j, a) :: _ =>
    let i := eventLabel j a
    if i = .unmap ∧ (!s.scops.isEmpty || s.accesses.any fun x => match x.stage with
      | .passed (some _) => true
      | _ => false) = true then [] else [(i, a)]

/-- The events that may happen now. (DESIGN CHOICE, log 5) -/
def State.mayHappen (s : State) (f : Nat) : List May :=
  List.flatten [s.mayAccess, s.clusters.flatMap (s.mayCluster f), s.mayUnits f, s.mayRest, s.mayInbox]

/-! ### Issue (R16, R34, R35) -/

/-- How far behind the slot that issued last a slot of a pipe comes (R16). -/
def Cluster.rrDist (k : Cluster) (pipe slot : Nat) : Nat :=
  (slot + 3 - ((k.last.find? fun p => decide (p.1 = pipe)).map Prod.snd).getD 3 % 4) % 4

/-- The context can issue: it is Ready, it issues for itself or leads its group, and its cluster is released, not gated off, active, not paused and not
frozen, no swap of its team has begun, and what lay in the fall-out buffers has been delivered (R34, R58, R393, R397, R439). -/
def State.mayIssue (s : State) (c : Ctx) : Bool :=
  let k := s.cluster c.id.cl
  (c.st == .ready) && !c.drain && isAgent c && k.released && !k.gated && k.active && !s.paused c.id.cl && !s.frozen c.id.cl &&
    !((s.teamOf c.id).map Team.swapping).getD false && !((s.partOf c.id.cl).map Partition.refill).getD false

/-- The contexts that can issue next: of each pipe the first in turn (R16). -/
def State.issuers (s : State) : List Ctx :=
  let l := s.ctxs.filter s.mayIssue
  l.filter fun c => !(l.any fun d => decide (d.id.cl = c.id.cl ∧ d.id.pipe = c.id.pipe ∧
    (s.cluster c.id.cl).rrDist c.id.pipe d.id.slot < (s.cluster c.id.cl).rrDist c.id.pipe c.id.slot))

/-! ### The choice -/

/-- Those that may move next: what is due before everything else. (DESIGN CHOICE, log 5) -/
def State.movers (s : State) (f : Nat) : List Actor :=
  let due := s.dues.filter fun d => decide (d.1 ≤ s.gtime)
  if due.isEmpty then List.append (s.issuers.map fun c => .ctx c.id) ((s.mayHappen f).map fun e => .event e.1 e.2)
  else due.map fun d => .event d.2.1 d.2.2

/-- The mover at a place of a list. -/
def pickActor (l : List Actor) (n : Nat) : Actor := (l[n % l.length]?).getD .idle

/-- Choosing who moves next; an event taken from the inbox leaves it. (DESIGN CHOICE, log 5) -/
def State.choose (s : State) : State :=
  let a := pickActor (s.movers (Config.pick (s.freeCtr + 1))) (Config.pick s.freeCtr)
  let fromBox := match a, s.inbox.head? with
    | .event i x, some (j, y) => decide (i = eventLabel j y ∧ x = y)
    | _, _ => false
  { s with next := a, freeCtr := s.freeCtr + 2, inbox := if fromBox then s.inbox.drop 1 else s.inbox }

/-- An L1 data bank may replace a line that is clean (R18, R122). (DESIGN CHOICE, log 30; DESIGN CHOICE, log 31) -/
def State.replace (s : State) : State :=
  let (f, s) := s.freshFree
  if f.getLsbD 0 then
    let i := (f.toNat / 4) % s.l1.length
    match s.l1[i]? with
    | some l => if l.dirty = 0 then { s with l1 := s.l1.eraseIdx i } else s
    | none => s
  else s

/-- What follows every move. (DESIGN CHOICE, log 5; DESIGN CHOICE, log 126) -/
def State.finish (s : State) : State := s.settle.activity.replace.passTime.choose

end Sys2Proof.Machine
end

