-- ==== Sys2Proof/Machine/Sparse.lean ====
section
/-! DEFINITION. Sys2Proof/Machine/Sparse.lean: `sp.pack`, `sp.unpack`, and the control of Sinter's cache (spec/10 R357 to R361). -/

namespace Sys2Proof.Machine

/-! ### Cache control (R357, R358) -/

/-- The operands of `sp.inval` and `sp.pin` break their limits. -/
def spTileBad (ga gb : Word) (all : Bool) : Bool := wfld ga 56 8 != 0 || wfld gb 48 16 != 0 || (all && gb != 0)

/-- T of the issuer. -/
def State.issuerT (s : State) : Nat := tileT (s.isFused s.cur)

/-- The identity that gA and gB form, with the descriptor's GEN (R347, R357). -/
def State.tileOf (s : State) (c : Ctx) (ga gb : Word) (gen : Nat) : TileId :=
  { desc := ga.toNat, tr := spTr gb, tc := spTc gb, gen := gen, t := s.issuerT, domain := c.domain }

/-- GEN of the descriptor, read as a weak load of the group. -/
def readGen (w : Who) (va : Nat) : Eng Nat := readNum w (va + 8) 4

/-- An access of the group's own that is not performed: its trap or upcall in every active lane. -/
def State.ownFail (s : State) : Fail → State
  | .stall va reason w => s.pageTrap va reason (if w then 2 else 1)
  | .err cause status va => s.trapAll cause status (BitVec.ofNat 64 va)
  | .sparse kind level idx _ => s.trapAll cSPARSE kind (sparseVal 0 level idx)

/-- An entry that `sp.inval` counts: a program, or a decision that runs a tile without one. (DEDUCED, log 86) -/
def Kept.counted : Kept → Bool
  | .expand => true
  | .stream => true
  | .compile _ => false
  | .prog _ _ => true

/-- The entries of the issuing cluster that `sp.inval` removes. -/
def spHit (cl : Nat) (all : Bool) (t : TileId) (e : SCache) : Bool :=
  decide (e.cl = cl) && if all then decide (e.tile.desc = t.desc ∧ e.tile.domain = t.domain) else decide (e.tile = t)

def execSpInval (sm : Bool) (a b d : Reg) (l : Bool) (s : State) : Result :=
  onCtx s fun c =>
    let ga := s.opnd a
    let gb := s.opnd b
    let go := fun (gen : Nat) (s : State) =>
      let hit := spHit s.cur.cl l (s.tileOf c ga gb gen)
      (s.dropSinter hit).longOnce sm d (BitVec.ofNat 64 (s.sinter.filter fun e => hit e && e.what.counted).length)
    if lacks c 1 then s.trapOpen cROLE
    else if spTileBad ga gb l then s.trapOpen cENGINE_ERR
    else if l then go 0 s
    else match readGen (whoOf c) ga.toNat (s.drainGroup s.cur) with
      | (.ok g, s) => go g s
      | (.error e, s) => s.ownFail e

/-- Removing a pin mark. -/
def State.unpin (s : State) (cl : Nat) (t : TileId) : State :=
  { s with
    pins := s.pins.filter fun p => !decide (p.cl = cl ∧ p.tile = t)
    sinter := s.sinter.map fun (e : SCache) => if e.cl = cl ∧ e.tile = t then { e with pinned := false } else e }

/-- The entries of a tile, pinned one by one while pinned programs hold no more than n lines more (R352). -/
def pinEach (cl : Nat) (t : TileId) : Nat → List SCache → List SCache
  | _, [] => []
  | n, e :: r =>
    if e.cl = cl ∧ e.tile = t ∧ 0 < e.lines ∧ e.pinned = false ∧ e.lines ≤ n then { e with pinned := true } :: pinEach cl t (n - e.lines) r
    else e :: pinEach cl t n r

/-- Setting a pin mark; programs that are cached already are kept within the limit of R352. (DEDUCED, log 85) -/
def State.pin (s : State) (cl team : Nat) (t : TileId) : State :=
  let held := ((s.sinter.filter fun x => decide (x.cl = cl) && x.pinned).map SCache.lines).sum
  { s with pins := s.pins ++ [{ cl := cl, tile := t, team := team }], sinter := pinEach cl t (1024 - held) s.sinter }

/-- The mark of an identity, once it is known. (DEDUCED, log 85) -/
def State.pinOp (s : State) (sm : Bool) (c : Ctx) (d : Reg) (off : Bool) (t : TileId) : State :=
  let cl := s.cur.cl
  if off then (s.unpin cl t).longOnce sm d 0
  else if s.pins.any fun p => decide (p.cl = cl ∧ p.tile = t) then s.longOnce sm d 0
  else if 64 ≤ (s.pins.filter fun p => decide (p.cl = cl)).length then s.longOnce sm d 1
  else (s.pin cl (c.team.getD 0) t).longOnce sm d 0

def execSpPin (sm : Bool) (a b d : Reg) (o : Bool) (s : State) : Result :=
  onCtx s fun c =>
    let ga := s.opnd a
    let gb := s.opnd b
    if lacks c 1 then s.trapOpen cROLE
    else if spTileBad ga gb false then s.trapOpen cENGINE_ERR
    else match readGen (whoOf c) ga.toNat (s.drainGroup s.cur) with
      | (.ok g, s) => s.pinOp sm c d o (s.tileOf c ga gb g)
      | (.error e, s) => s.ownFail e

/-- Value of a counter of the issuing team (R359). -/
def State.spCounter (s : State) (t : Team) (k : Nat) : Nat := match k with
  | 5 => ((s.sinter.filter fun e => decide (e.cl = t.cl ∧ e.team = some t.num)).map SCache.lines).sum
  | 6 => (s.pins.filter fun p => decide (p.cl = t.cl ∧ p.team = t.num)).length
  | _ => (t.stats[k]?).getD 0

def execSpStat (sm : Bool) (a d : Reg) (c : Bool) (s : State) : Result :=
  onCtx s fun _ =>
    let ga := s.opnd a
    if 7 ≤ ga.toNat then s.trapOpen cENGINE_ERR
    else match s.teamOf s.cur with
      | none => s.longOnce sm d 0
      | some t =>
        let v := min (s.spCounter t ga.toNat) (2 ^ 32 - 1)
        let s := if c then s.modTeam t.cl t.num fun t => { t with stats := t.stats.mapIdx fun i n => if i = ga.toNat then 0 else n } else s
        s.longOnce sm d (BitVec.ofNat 64 v)

/-! ### Packing (R360) -/

/-- A view of an instruction of C role. -/
def State.spView (s : State) (c : Ctx) (ga : Word) : Except (BadRec × Nat) View × State :=
  if wfld ga 16 48 ≠ 0 then (.error (.beyond, 0), s) else s.record c (wfld ga 0 16)

/-- The trap of a record that cannot be used: EVAL is the address of an invalid record (R72), and open for an index beyond the allocation. (DESIGN CHOICE, log 44) -/
def State.engErr (s : State) : BadRec × Nat → State
  | (.invalid, a) => s.trapAll cENGINE_ERR 0 (BitVec.ofNat 64 a)
  | (.sparse k l i, _) => s.trapAll cSPARSE k (sparseVal 0 l i)
  | (.beyond, _) => s.trapOpen cENGINE_ERR

/-- The code is a zero: ±0 or integer 0. -/
def isZeroCode (ty code : Nat) : Bool := match tyFmt ty with
  | some f => (decodeFloat f code).isZero
  | none => code == 0

/-- The bytes that a W0 view's elements reach: the lowest, and how many from there on. -/
def View.reach (v : View) : Int × Nat :=
  let bits := tyBits v.ty
  let n := max bits 8 / 8
  let lo : Int := v.base + v.span.1 * bits / 8
  (lo, ((v.base + v.span.2 * bits / 8) - lo).toNat + n)

/-- The view lies in the team's own allocation through W0, with all its elements. -/
def State.ownView (s : State) (c : Ctx) (v : View) : Bool := match s.teamOf c.id with
  | some t =>
    let r := if v.count = 0 then ((v.base : Int), 1) else v.reach
    decide (0 ≤ r.1) && (s.ownBad c t r.1.toNat r.2).isNone
  | none => false

/-- The conditions of `sp.pack` on view and descriptor. -/
def packOk (d : SDesc) (v : View) : Bool :=
  v.rank == 2 && v.ty == d.vtype && valued v.ty && d.nlvl == 2 && d.kind 0 == 0 && d.kind 1 == 1 && d.extent 0 == v.ext 1 &&
    d.extent 1 == v.ext 0 && decide (v.ext 0 ≤ 256 ^ d.crdBytes 1)

/-- Writing a number of n bytes for the group. -/
def putNum (w : Who) (a : CtxId) (va n v : Nat) : Eng Unit := writeBytes w (some a) va (leBytes n v)

/-- Writing the value at leaf position q. -/
def putValue (w : Who) (a : CtxId) (d : SDesc) (q code : Nat) : Eng Unit :=
  if tyBits d.vtype = 4 then
    (readNum w (d.val + q / 2) 1).andThen fun b => putNum w a (d.val + q / 2) 1 (setNib b (q % 2 == 1) code)
  else putNum w a (d.val + q * (tyBits d.vtype / 8)) (tyBits d.vtype / 8) code

/-- The VA range of n bytes meets a view's elements. -/
def State.rangeMeets (s : State) (b : Behalf) (v : View) (va n : Nat) : Bool :=
  let raw : View := { addr := 0, base := va, ty := 12, rank := 1, e := Vector.replicate 4 1, s := Vector.replicate 4 1 }
  let meets := fun (x : Option (Nat × Nat × Nat)) => match s.spot b raw 0, s.spot b raw ((n : Int) - 1) with
    | some p, some q => p.1 == q.1 && spotsMeet x (some (p.1, p.2.1, q.2.2))
    | _, _ => false
  decide (n ≠ 0) && meets (s.spanSpot b v) && (List.range v.count).any fun f => meets (s.spot b v (v.off (v.tup f)))

/-- Values that stand in for those of an array that the source overlaps (R360). (DESIGN CHOICE, log 4) -/
def freeIf (clash : Bool) (n v : Nat) : Eng Nat := fun s =>
  if clash then
    let (f, s) := s.freshFree
    (.ok (f.toNat % 256 ^ n), s)
  else (.ok v, s)

/-- Step 3: crd and value entries, in order. -/
def packEntries (w : Who) (a : CtxId) (d : SDesc) (clash : Bool) : Nat → List (Nat × Nat) → Eng Unit
  | _, [] => Eng.ret ()
  | q, (col, code) :: r =>
    (freeIf clash (d.crdBytes 1) col).andThen fun col => (putNum w a (d.crdVa 1 q) (d.crdBytes 1) col).andThen fun _ =>
      (freeIf clash 8 code).andThen fun code => (putValue w a d q code).andThen fun _ => packEntries w a d clash (q + 1) r

/-- Step 4: the pos entries from row i on. -/
def packPos (w : Who) (a : CtxId) (d : SDesc) (clash : Bool) : Nat → Nat → List Nat → Eng Unit
  | i, v, l =>
    (freeIf clash (d.posBytes 1) v).andThen fun x => (putNum w a (d.posVa 1 i) (d.posBytes 1) x).andThen fun _ => match l with
      | [] => Eng.ret ()
      | n :: r => packPos w a d clash (i + 1) (v + n) r

/-- Nonzeros of row j: columns and codes. -/
def rowNonzeros (v : View) (codes : Array Nat) (j : Nat) : List (Nat × Nat) :=
  ((List.range (v.ext 0)).map fun k => (k, codes.getD (j * v.ext 0 + k) 0)).filter fun p => !isZeroCode v.ty p.2

/-- The steps of `sp.pack`, on a descriptor whose bytes are `blk`: what gD receives. -/
def packRun (w : Who) (by_ : Behalf) (d : SDesc) (blk : List Byte) (v : View) : Eng Word :=
  let a := by_.ctx
  let b1 := blkNum blk 1 1
  let clr := b1 - b1 / 8 % 2 * 8
  (putNum w a (d.addr + 1) 1 clr).andThen fun _ =>
    (Eng.each (fun f => v.read by_ (v.off (v.tup f))) (List.range v.count)).andThen fun codes s =>
      let arr := codes.toArray
      let rows := (List.range (v.ext 1)).map (rowNonzeros v arr)
      let r := (rows.map List.length).sum
      if d.nnz < r ∨ 256 ^ d.posBytes 1 ≤ r then
        ((putNum w a (d.addr + 104) 8 r).andThen fun _ => Eng.ret (-1 : Word)) s
      else
        let clash := s.rangeMeets by_ v (d.crdVa 1 0) (r * d.crdBytes 1) || s.rangeMeets by_ v d.val ((r * tyBits d.vtype + 7) / 8) ||
          s.rangeMeets by_ v (d.posVa 1 0) ((v.ext 1 + 1) * d.posBytes 1)
        ((packEntries w a d clash 0 rows.flatten).andThen fun _ => (packPos w a d clash 0 0 (rows.map List.length)).andThen fun _ =>
          (putNum w a (d.addr + 104) 8 r).andThen fun _ => (putNum w a (d.addr + 2) 1 (blkNum blk 2 1 ||| 0x22)).andThen fun _ =>
            (putNum w a (d.addr + 8) 4 (d.gen + 1)).andThen fun _ =>
              (Eng.act fun s => (s.drainGroup a).releasePts a .dev).andThen fun _ =>
                (putNum w a (d.addr + 1) 1 (clr + 8)).andThen fun _ => Eng.ret (BitVec.ofNat 64 r)) s

/-- The group's banks hold nothing that its own writes at the home slices have replaced: they are clean, and empty. -/
def State.cleanBanks (s : State) (agent : CtxId) : State := { s with l1 := s.l1.filter fun l => !s.bankLine agent l }

def execSpPack (sm : Bool) (a b d : Reg) (s : State) : Result :=
  onCtx s fun c =>
    let ga := s.opnd a
    let va := (s.opnd b).toNat
    let w := whoOf c
    if lacks c 0 then s.trapOpen cROLE
    else match c.pageNomem with
      | some va => s.pageNomemTrap va
      | none =>
        if wfld ga 16 48 ≠ 0 then s.trapOpen cENGINE_ERR
        else match readBytes w va 128 (s.drainGroup s.cur) with
          | (.error f, s) => s.failTrap 0 f
          | (.ok blk, s) =>
            if descBad blk then s.failTrap 0 (.sparse 5 0 0 va)
            else
              let x := parseDesc va blk
              match s.spView c ga with
              | (.error e, s) => s.engErr e
              | (.ok v, s) =>
                if !(packOk x v && s.ownView c v) then s.trapOpen cENGINE_ERR
                else match packRun w (s.behalf c) x blk v s with
                  | (.ok r, s) => (s.cleanBanks s.cur).longOnce sm d r
                  | (.error f, s) => (s.cleanBanks s.cur).failTrap 0 f

/-! ### Unpacking (R361) -/

/-- The conditions of `sp.unpack` on view and descriptor. -/
def unpackOk (d : SDesc) (v : View) : Bool :=
  v.rank == 2 && v.ext 0 == d.extent 1 && v.ext 1 == d.extent 0 && v.ty == d.vtype && v.win == 0 && regionOf v.base != .unassigned && d.nlvl == 2 && d.kind 0 == 0 &&
    d.kind 1 == 1 && d.isOrdered 1 && d.isUnique 1

/-- Row i of the matrix, as codes. -/
def unpackRow (w : Who) (d : SDesc) (i : Nat) : Eng (List Nat) :=
  (readPosPair w d 1 i).andThen fun (lo, hi) => (walkC w d 1 hi (d.extent 1) (hi - lo) lo none).andThen fun r =>
    (Eng.each (fun (e : Nat × Nat) => (readValue w d.val d.vtype e.2).andThen fun v => Eng.ret (e.1, v)) r.1).andThen fun vs =>
      Eng.ret ((List.range (d.extent 1)).map fun k => ((vs.find? fun p => decide (p.1 = k)).map Prod.snd).getD 0)

/-- Rows i to i + n − 1, one after the other; a failure answers the row that it met. -/
def unpackRows (w : Who) (by_ : Behalf) (d : SDesc) (v : View) : Nat → Nat → State → Option (Nat × Fail) × State
  | 0, _, s => (none, s)
  | n + 1, i, s =>
    match ((unpackRow w d i).andThen fun codes =>
      (v.targets by_ .write ((List.range (v.ext 0)).map fun k => v.off (k, i, 0, 0))).andThen fun ts =>
        Eng.act fun s => s.putCodes v by_.ctx false ((ts.zip codes).mapIdx fun k x => (i * v.ext 0 + k, x.1, x.2))) s with
    | (.ok _, s) => unpackRows w by_ d v n (i + 1) s
    | (.error f, s) => (some (i, f), s)

/-- The rest of the view, from row i on, is unpredictable after a trap. -/
def unpackRest (by_ : Behalf) (v : View) (i : Nat) (s : State) : State := scribbleFrom by_ v (i * v.ext 0) s

def execSpUnpack (sm : Bool) (a b d : Reg) (s : State) : Result :=
  onCtx s fun c =>
    let ga := s.opnd a
    let w := whoOf c
    if lacks c 0 then s.trapOpen cROLE
    else match c.pageNomem with
      | some va => s.pageNomemTrap va
      | none => match (s.drainGroup s.cur).spView c ga with
        | (.error e, s) => s.engErr e
        | (.ok v, s) =>
          if v.beyondVrs c.vblocks then s.trapOpen cVREG
          else match readDesc w (s.opnd b).toNat s with
            | (.error f, s) => s.failTrap 0 f
            | (.ok x, s) =>
              if !unpackOk x v then s.trapOpen cENGINE_ERR
              else
                let by_ := s.behalf c
                match unpackRows w by_ x v (v.ext 1) 0 s with
                | (none, s) => (s.cleanBanks s.cur).longOnce sm d (BitVec.ofNat 64 x.nnz)
                | (some (i, f), s) => ((unpackRest by_ v i s).cleanBanks s.cur).failTrap 0 f

end Sys2Proof.Machine
end

