-- ==== Sys2Proof/Machine/Dispatch.lean ====
section
/-! DEFINITION. Sys2Proof/Machine/Dispatch.lean: one arm for each instruction and event, each one direct call of its meaning. -/

namespace Sys2Proof.Machine

/-- The meaning of an instruction or event in a state. -/
def exec (i : Instr) (s : State) : Host.Outcome State Fault Refusal :=
  match i with
  | .add sm d a b t => Sys2Proof.Machine.execAdd sm d a b t s
  | .sub sm d a b t => Sys2Proof.Machine.execSub sm d a b t s
  | .and sm d a b => Sys2Proof.Machine.execAnd sm d a b s
  | .or sm d a b => Sys2Proof.Machine.execOr sm d a b s
  | .xor sm d a b => Sys2Proof.Machine.execXor sm d a b s
  | .andn sm d a b => Sys2Proof.Machine.execAndn sm d a b s
  | .orn sm d a b => Sys2Proof.Machine.execOrn sm d a b s
  | .sll sm d a b => Sys2Proof.Machine.execSll sm d a b s
  | .srl sm d a b => Sys2Proof.Machine.execSrl sm d a b s
  | .sra sm d a b => Sys2Proof.Machine.execSra sm d a b s
  | .rol sm d a b => Sys2Proof.Machine.execRol sm d a b s
  | .ror sm d a b => Sys2Proof.Machine.execRor sm d a b s
  | .slt sm d a b => Sys2Proof.Machine.execSlt sm d a b s
  | .sltu sm d a b => Sys2Proof.Machine.execSltu sm d a b s
  | .min sm d a b => Sys2Proof.Machine.execMin sm d a b s
  | .max sm d a b => Sys2Proof.Machine.execMax sm d a b s
  | .minn sm d a b => Sys2Proof.Machine.execMinn sm d a b s
  | .maxn sm d a b => Sys2Proof.Machine.execMaxn sm d a b s
  | .clz sm d a => Sys2Proof.Machine.execClz sm d a s
  | .ctz sm d a => Sys2Proof.Machine.execCtz sm d a s
  | .pop sm d a => Sys2Proof.Machine.execPop sm d a s
  | .brev sm d a => Sys2Proof.Machine.execBrev sm d a s
  | .bswap sm d a => Sys2Proof.Machine.execBswap sm d a s
  | .sextB sm d a => Sys2Proof.Machine.execSextB sm d a s
  | .sextH sm d a => Sys2Proof.Machine.execSextH sm d a s
  | .sextW sm d a => Sys2Proof.Machine.execSextW sm d a s
  | .zextW sm d a => Sys2Proof.Machine.execZextW sm d a s
  | .bfx sm d a b => Sys2Proof.Machine.execBfx sm d a b s
  | .bfi sm d a b => Sys2Proof.Machine.execBfi sm d a b s
  | .sel sm d a b p => Sys2Proof.Machine.execSel sm d a b p s
  | .addi sm d a imm => Sys2Proof.Machine.execAddi sm d a imm s
  | .andi sm d a imm => Sys2Proof.Machine.execAndi sm d a imm s
  | .ori sm d a imm => Sys2Proof.Machine.execOri sm d a imm s
  | .xori sm d a imm => Sys2Proof.Machine.execXori sm d a imm s
  | .slli sm d a n => Sys2Proof.Machine.execSlli sm d a n s
  | .srli sm d a n => Sys2Proof.Machine.execSrli sm d a n s
  | .srai sm d a n => Sys2Proof.Machine.execSrai sm d a n s
  | .sltii sm d a imm => Sys2Proof.Machine.execSltii sm d a imm s
  | .sltin sm d a imm => Sys2Proof.Machine.execSltin sm d a imm s
  | .lih sm d h v => Sys2Proof.Machine.execLih sm d h v s
  | .adpc sm d imm => Sys2Proof.Machine.execAdpc sm d imm s
  | .mul sm d a b w => Sys2Proof.Machine.execMul sm d a b w s
  | .mulh sm d a b w => Sys2Proof.Machine.execMulh sm d a b w s
  | .mulhn sm d a b w => Sys2Proof.Machine.execMulhn sm d a b w s
  | .div sm d a b w => Sys2Proof.Machine.execDiv sm d a b w s
  | .divn sm d a b w => Sys2Proof.Machine.execDivn sm d a b w s
  | .rem sm d a b w => Sys2Proof.Machine.execRem sm d a b w s
  | .remn sm d a b w => Sys2Proof.Machine.execRemn sm d a b w s
  | .fadd sm d a b r z t => Sys2Proof.Machine.execFadd sm d a b r z t s
  | .fsub sm d a b r z t => Sys2Proof.Machine.execFsub sm d a b r z t s
  | .fmul sm d a b r z t => Sys2Proof.Machine.execFmul sm d a b r z t s
  | .fma sm d a b r z t => Sys2Proof.Machine.execFma sm d a b r z t s
  | .fdiv sm d a b r z t => Sys2Proof.Machine.execFdiv sm d a b r z t s
  | .fsqrt sm d a r z t => Sys2Proof.Machine.execFsqrt sm d a r z t s
  | .fmin sm d a b t => Sys2Proof.Machine.execFmin sm d a b t s
  | .fmax sm d a b t => Sys2Proof.Machine.execFmax sm d a b t s
  | .fsign sm d a b m t => Sys2Proof.Machine.execFsign sm d a b m t s
  | .fclass sm d a t => Sys2Proof.Machine.execFclass sm d a t s
  | .fcmp sm n a b c t => Sys2Proof.Machine.execFcmp sm n a b c t s
  | .fcvt sm d a c x z r t => Sys2Proof.Machine.execFcvt sm d a c x z r t s
  | .ld sm d a w h o => Sys2Proof.Machine.execLd sm d a w h o s
  | .st sm d a w h o => Sys2Proof.Machine.execSt sm d a w h o s
  | .lda sm d a w h o => Sys2Proof.Machine.execLda sm d a w h o s
  | .stl sm d a w h o => Sys2Proof.Machine.execStl sm d a w h o s
  | .amoAdd sm d a b c o w => Sys2Proof.Machine.execAmoAdd sm d a b c o w s
  | .amoAnd sm d a b c o w => Sys2Proof.Machine.execAmoAnd sm d a b c o w s
  | .amoOr sm d a b c o w => Sys2Proof.Machine.execAmoOr sm d a b c o w s
  | .amoXor sm d a b c o w => Sys2Proof.Machine.execAmoXor sm d a b c o w s
  | .amoMin sm d a b c o w => Sys2Proof.Machine.execAmoMin sm d a b c o w s
  | .amoMax sm d a b c o w => Sys2Proof.Machine.execAmoMax sm d a b c o w s
  | .amoMinn sm d a b c o w => Sys2Proof.Machine.execAmoMinn sm d a b c o w s
  | .amoMaxn sm d a b c o w => Sys2Proof.Machine.execAmoMaxn sm d a b c o w s
  | .amoSwp sm d a b c o w => Sys2Proof.Machine.execAmoSwp sm d a b c o w s
  | .amoCas sm d a b c o w => Sys2Proof.Machine.execAmoCas sm d a b c o w s
  | .amoFadd sm d a b c o w => Sys2Proof.Machine.execAmoFadd sm d a b c o w s
  | .redAdd sm a b c o w => Sys2Proof.Machine.execRedAdd sm a b c o w s
  | .redFadd sm a b c o w => Sys2Proof.Machine.execRedFadd sm a b c o w s
  | .redMin sm a b c o w => Sys2Proof.Machine.execRedMin sm a b c o w s
  | .redMax sm a b c o w => Sys2Proof.Machine.execRedMax sm a b c o w s
  | .redOr sm a b c o w => Sys2Proof.Machine.execRedOr sm a b c o w s
  | .pf sm a k => Sys2Proof.Machine.execPf sm a k s
  | .beq sm a b o => Sys2Proof.Machine.execBeq sm a b o s
  | .bgeu sm a b o => Sys2Proof.Machine.execBgeu sm a b o s
  | .bne sm a b o => Sys2Proof.Machine.execBne sm a b o s
  | .blt sm a b o => Sys2Proof.Machine.execBlt sm a b o s
  | .bge sm a b o => Sys2Proof.Machine.execBge sm a b o s
  | .bltu sm a b o => Sys2Proof.Machine.execBltu sm a b o s
  | .bp sm p o => Sys2Proof.Machine.execBp sm p o s
  | .bnp sm p o => Sys2Proof.Machine.execBnp sm p o s
  | .jal sm d o => Sys2Proof.Machine.execJal sm d o s
  | .jalr sm d a imm => Sys2Proof.Machine.execJalr sm d a imm s
  | .pcmp sm n a b c => Sys2Proof.Machine.execPcmp sm n a b c s
  | .pand sm n x y => Sys2Proof.Machine.execPand sm n x y s
  | .por sm n x y => Sys2Proof.Machine.execPor sm n x y s
  | .pxor sm n x y => Sys2Proof.Machine.execPxor sm n x y s
  | .pnot sm n x => Sys2Proof.Machine.execPnot sm n x s
  | .fenceAcq sm c => Sys2Proof.Machine.execFenceAcq sm c s
  | .fenceRel sm c => Sys2Proof.Machine.execFenceRel sm c s
  | .fenceFull sm c => Sys2Proof.Machine.execFenceFull sm c s
  | .fenceSc sm c => Sys2Proof.Machine.execFenceSc sm c s
  | .barArv sm a n => Sys2Proof.Machine.execBarArv sm a n s
  | .barWait sm d n => Sys2Proof.Machine.execBarWait sm d n s
  | .barArw sm d a n => Sys2Proof.Machine.execBarArw sm d a n s
  | .waitCnt sm n c => Sys2Proof.Machine.execWaitCnt sm n c s
  | .tagWany sm a => Sys2Proof.Machine.execTagWany sm a s
  | .tagWall sm a => Sys2Proof.Machine.execTagWall sm a s
  | .tagFfr sm d a => Sys2Proof.Machine.execTagFfr sm d a s
  | .tagClr sm a => Sys2Proof.Machine.execTagClr sm a s
  | .waitNtc sm a => Sys2Proof.Machine.execWaitNtc sm a s
  | .yield sm => Sys2Proof.Machine.execYield sm s
  | .rcv sm o => Sys2Proof.Machine.execRcv sm o s
  | .join sm => Sys2Proof.Machine.execJoin sm s
  | .exit sm => Sys2Proof.Machine.execExit sm s
  | .fuse sm w => Sys2Proof.Machine.execFuse sm w s
  | .split sm => Sys2Proof.Machine.execSplit sm s
  | .voteAny sm n m => Sys2Proof.Machine.execVoteAny sm n m s
  | .voteAll sm n m => Sys2Proof.Machine.execVoteAll sm n m s
  | .voteBal sm d m => Sys2Proof.Machine.execVoteBal sm d m s
  | .lget sm d a b => Sys2Proof.Machine.execLget sm d a b s
  | .wqInit sm a b d k => Sys2Proof.Machine.execWqInit sm a b d k s
  | .wqNext sm d n k => Sys2Proof.Machine.execWqNext sm d n k s
  | .tskDone sm a d => Sys2Proof.Machine.execTskDone sm a d s
  | .tskSubmit sm a d => Sys2Proof.Machine.execTskSubmit sm a d s
  | .stgAcq sm a r p => Sys2Proof.Machine.execStgAcq sm a r p s
  | .stgRel sm a r => Sys2Proof.Machine.execStgRel sm a r s
  | .stgPeek sm d r => Sys2Proof.Machine.execStgPeek sm d r s
  | .vAdd sm a b d c => Sys2Proof.Machine.execVAdd sm a b d c s
  | .vSub sm a b d c => Sys2Proof.Machine.execVSub sm a b d c s
  | .vMul sm a b d c => Sys2Proof.Machine.execVMul sm a b d c s
  | .vFma sm a b d c => Sys2Proof.Machine.execVFma sm a b d c s
  | .vFms sm a b d c => Sys2Proof.Machine.execVFms sm a b d c s
  | .vMin sm a b d c => Sys2Proof.Machine.execVMin sm a b d c s
  | .vMax sm a b d c => Sys2Proof.Machine.execVMax sm a b d c s
  | .vAbs sm a b d => Sys2Proof.Machine.execVAbs sm a b d s
  | .vNeg sm a b d => Sys2Proof.Machine.execVNeg sm a b d s
  | .vAnd sm a b d c => Sys2Proof.Machine.execVAnd sm a b d c s
  | .vOr sm a b d c => Sys2Proof.Machine.execVOr sm a b d c s
  | .vXor sm a b d c => Sys2Proof.Machine.execVXor sm a b d c s
  | .vShl sm a b d c => Sys2Proof.Machine.execVShl sm a b d c s
  | .vShr sm a b d c => Sys2Proof.Machine.execVShr sm a b d c s
  | .vCmp sm a b d c => Sys2Proof.Machine.execVCmp sm a b d c s
  | .vSel sm a b d c => Sys2Proof.Machine.execVSel sm a b d c s
  | .vCvt sm a b d => Sys2Proof.Machine.execVCvt sm a b d s
  | .vMov sm a b d => Sys2Proof.Machine.execVMov sm a b d s
  | .vRsum sm a b d => Sys2Proof.Machine.execVRsum sm a b d s
  | .vRmax sm a b d => Sys2Proof.Machine.execVRmax sm a b d s
  | .vRmin sm a b d => Sys2Proof.Machine.execVRmin sm a b d s
  | .vScan sm a b d => Sys2Proof.Machine.execVScan sm a b d s
  | .vBcast sm a b d c => Sys2Proof.Machine.execVBcast sm a b d c s
  | .vIota sm a b d => Sys2Proof.Machine.execVIota sm a b d s
  | .vClamp sm a b d c => Sys2Proof.Machine.execVClamp sm a b d c s
  | .vSfu sm a b d => Sys2Proof.Machine.execVSfu sm a b d s
  | .vGat sm a b d => Sys2Proof.Machine.execVGat sm a b d s
  | .vSct sm a b d => Sys2Proof.Machine.execVSct sm a b d s
  | .sfu sm d a r z f => Sys2Proof.Machine.execSfu sm d a r z f s
  | .mxCfg sm a d => Sys2Proof.Machine.execMxCfg sm a d s
  | .mxLd sm a b d v o u => Sys2Proof.Machine.execMxLd sm a b d v o u s
  | .mxMma sm d v u n => Sys2Proof.Machine.execMxMma sm d v u n s
  | .mxZero sm d v n => Sys2Proof.Machine.execMxZero sm d v n s
  | .mxSt sm a b d v n => Sys2Proof.Machine.execMxSt sm a b d v n s
  | .gmLay sm a b d v => Sys2Proof.Machine.execGmLay sm a b d v s
  | .gmGemv sm a b d v => Sys2Proof.Machine.execGmGemv sm a b d v s
  | .cpBulk sm a b d => Sys2Proof.Machine.execCpBulk sm a b d s
  | .cpCancel sm a d => Sys2Proof.Machine.execCpCancel sm a d s
  | .gaGath sm a b d => Sys2Proof.Machine.execGaGath sm a b d s
  | .scScat sm a b d u => Sys2Proof.Machine.execScScat sm a b d u s
  | .clAr sm a b d u => Sys2Proof.Machine.execClAr sm a b d u s
  | .clAg sm a b d => Sys2Proof.Machine.execClAg sm a b d s
  | .clRs sm a b d u => Sys2Proof.Machine.execClRs sm a b d u s
  | .clBc sm a b d => Sys2Proof.Machine.execClBc sm a b d s
  | .clSend sm a b d => Sys2Proof.Machine.execClSend sm a b d s
  | .clRecv sm a b d => Sys2Proof.Machine.execClRecv sm a b d s
  | .clAbort sm a b d => Sys2Proof.Machine.execClAbort sm a b d s
  | .sqOpen sm a b d n => Sys2Proof.Machine.execSqOpen sm a b d n s
  | .sqNext sm n => Sys2Proof.Machine.execSqNext sm n s
  | .sqEnd sm m n => Sys2Proof.Machine.execSqEnd sm m n s
  | .sqCrd sm d n => Sys2Proof.Machine.execSqCrd sm d n s
  | .sqPos sm d n p => Sys2Proof.Machine.execSqPos sm d n p s
  | .sqSeek sm a n => Sys2Proof.Machine.execSqSeek sm a n s
  | .sqIsect sm x y n => Sys2Proof.Machine.execSqIsect sm x y n s
  | .sqUnion sm x y n => Sys2Proof.Machine.execSqUnion sm x y n s
  | .sqClose sm n => Sys2Proof.Machine.execSqClose sm n s
  | .sqDrain sm a b d n w => Sys2Proof.Machine.execSqDrain sm a b d n w s
  | .sqPart sm a b d => Sys2Proof.Machine.execSqPart sm a b d s
  | .sqSave sm a n => Sys2Proof.Machine.execSqSave sm a n s
  | .sqRest sm a n => Sys2Proof.Machine.execSqRest sm a n s
  | .mxSpmm sm a b d v w n => Sys2Proof.Machine.execMxSpmm sm a b d v w n s
  | .spPack sm a b d => Sys2Proof.Machine.execSpPack sm a b d s
  | .spUnpack sm a b d => Sys2Proof.Machine.execSpUnpack sm a b d s
  | .spInval sm a b d l => Sys2Proof.Machine.execSpInval sm a b d l s
  | .spPin sm a b d o => Sys2Proof.Machine.execSpPin sm a b d o s
  | .spStat sm a d c => Sys2Proof.Machine.execSpStat sm a d c s
  | .vbAcq sm a d => Sys2Proof.Machine.execVbAcq sm a d s
  | .vbAcqTry sm a d p => Sys2Proof.Machine.execVbAcqTry sm a d p s
  | .vbRel sm a d => Sys2Proof.Machine.execVbRel sm a d s
  | .rdsys sm d r => Sys2Proof.Machine.execRdsys sm d r s
  | .wrsys sm a r => Sys2Proof.Machine.execWrsys sm a r s
  | .ecall sm => Sys2Proof.Machine.execEcall sm s
  | .ebreak sm => Sys2Proof.Machine.execEbreak sm s
  | .upret sm => Sys2Proof.Machine.execUpret sm s
  | .wcfg sm n a => Sys2Proof.Machine.execWcfg sm n a s
  | .eret sm => Sys2Proof.Machine.execEret sm s
  | .fqPop sm d a b => Sys2Proof.Machine.execFqPop sm d a b s
  | .svcDone sm d a b => Sys2Proof.Machine.execSvcDone sm d a b s
  | .xlatInv sm d a b => Sys2Proof.Machine.execXlatInv sm d a b s
  | .cacheWb sm d a b => Sys2Proof.Machine.execCacheWb sm d a b s
  | .cacheInv sm d a b => Sys2Proof.Machine.execCacheInv sm d a b s
  | .ctxSave sm a => Sys2Proof.Machine.execCtxSave sm a s
  | .ctxRest sm a => Sys2Proof.Machine.execCtxRest sm a s
  | .halt sm d a b => Sys2Proof.Machine.execHalt sm d a b s
  | .nbrPut sm d a b => Sys2Proof.Machine.execNbrPut sm d a b s
  | .nbrGet sm d a b => Sys2Proof.Machine.execNbrGet sm d a b s
  | .mcast sm d a b => Sys2Proof.Machine.execMcast sm d a b s
  | .clReform sm d a b => Sys2Proof.Machine.execClReform sm d a b s
  | .longResultReturn => Sys2Proof.Machine.execLongResultReturn s
  | .checkPointPass => Sys2Proof.Machine.execCheckPointPass s
  | .translationProbeResult => Sys2Proof.Machine.execTranslationProbeResult s
  | .faultRecordAdmit => Sys2Proof.Machine.execFaultRecordAdmit s
  | .dirtyBitSet => Sys2Proof.Machine.execDirtyBitSet s
  | .remoteResponse => Sys2Proof.Machine.execRemoteResponse s
  | .reductionApply => Sys2Proof.Machine.execReductionApply s
  | .l1WritebackDeadline => Sys2Proof.Machine.execL1WritebackDeadline s
  | .ptsTick => Sys2Proof.Machine.execPtsTick s
  | .fumaroleWindowClose => Sys2Proof.Machine.execFumaroleWindowClose s
  | .fumaroleArrival => Sys2Proof.Machine.execFumaroleArrival s
  | .vectorPartBind => Sys2Proof.Machine.execVectorPartBind s
  | .vectorCommandComplete => Sys2Proof.Machine.execVectorCommandComplete s
  | .gatherScatterComplete => Sys2Proof.Machine.execGatherScatterComplete s
  | .sfuEntryServe => Sys2Proof.Machine.execSfuEntryServe s
  | .sfuResultWrite => Sys2Proof.Machine.execSfuResultWrite s
  | .mxCfgApply => Sys2Proof.Machine.execMxCfgApply s
  | .matrixCommandComplete => Sys2Proof.Machine.execMatrixCommandComplete s
  | .copyComplete => Sys2Proof.Machine.execCopyComplete s
  | .collectiveMessage => Sys2Proof.Machine.execCollectiveMessage s
  | .collectiveTimeout => Sys2Proof.Machine.execCollectiveTimeout s
  | .collectiveComplete => Sys2Proof.Machine.execCollectiveComplete s
  | .streamFetchComplete => Sys2Proof.Machine.execStreamFetchComplete s
  | .sinterCompileComplete => Sys2Proof.Machine.execSinterCompileComplete s
  | .swapThresholdExpiry => Sys2Proof.Machine.execSwapThresholdExpiry s
  | .teamSwapOut => Sys2Proof.Machine.execTeamSwapOut s
  | .teamRestore => Sys2Proof.Machine.execTeamRestore s
  | .residencySliceEnd => Sys2Proof.Machine.execResidencySliceEnd s
  | .teamPlacement => Sys2Proof.Machine.execTeamPlacement s
  | .watchdogExpiry => Sys2Proof.Machine.execWatchdogExpiry s
  | .killRecordAppend => Sys2Proof.Machine.execKillRecordAppend s
  | .controlTick => Sys2Proof.Machine.execControlTick s
  | .droopEvent => Sys2Proof.Machine.execDroopEvent s
  | .droopyEnd => Sys2Proof.Machine.execDroopyEnd s
  | .idleTimeout => Sys2Proof.Machine.execIdleTimeout s
  | .admissionSlot => Sys2Proof.Machine.execAdmissionSlot s
  | .voltageSettled => Sys2Proof.Machine.execVoltageSettled s
  | .freqPauseEnd => Sys2Proof.Machine.execFreqPauseEnd s
  | .gangSwitchOut => Sys2Proof.Machine.execGangSwitchOut s
  | .gangSwitchIn => Sys2Proof.Machine.execGangSwitchIn s
  | .linkRequestTimeout => Sys2Proof.Machine.execLinkRequestTimeout s
  | .portRetryTimeout => Sys2Proof.Machine.execPortRetryTimeout s
  | .linkUp => Sys2Proof.Machine.execLinkUp s
  | .eccError => Sys2Proof.Machine.execEccError s
  | .fatalError => Sys2Proof.Machine.execFatalError s
  | .featuresOk => Sys2Proof.Machine.execFeaturesOk s
  | .partSet => Sys2Proof.Machine.execPartSet s
  | .linkSet => Sys2Proof.Machine.execLinkSet s
  | .cxlSet => Sys2Proof.Machine.execCxlSet s
  | .query => Sys2Proof.Machine.execQuery s
  | .debugStop => Sys2Proof.Machine.execDebugStop s
  | .debugResume => Sys2Proof.Machine.execDebugResume s
  | .map => Sys2Proof.Machine.execMap s
  | .unmap => Sys2Proof.Machine.execUnmap s
  | .loadImage => Sys2Proof.Machine.execLoadImage s
  | .submit => Sys2Proof.Machine.execSubmit s
  | .signal => Sys2Proof.Machine.execSignal s
  | .commCreate => Sys2Proof.Machine.execCommCreate s
  | .commReform => Sys2Proof.Machine.execCommReform s
  | .commDestroy => Sys2Proof.Machine.execCommDestroy s
  | .completionEventDeliver => Sys2Proof.Machine.execCompletionEventDeliver s
  | .eventRecordDeliver => Sys2Proof.Machine.execEventRecordDeliver s
  | .resetRelease => Sys2Proof.Machine.execResetRelease s
  | .powerLoss => Sys2Proof.Machine.execPowerLoss s
  | .cxlLinkUp => Sys2Proof.Machine.execCxlLinkUp s
  | .leasePoll => Sys2Proof.Machine.execLeasePoll s
  | .leaseRenew => Sys2Proof.Machine.execLeaseRenew s
  | .leasePhaseTimeout => Sys2Proof.Machine.execLeasePhaseTimeout s
  | .startTimeout => Sys2Proof.Machine.execStartTimeout s
  | .nbrPacketArrival => Sys2Proof.Machine.execNbrPacketArrival s
  | .mapCheck => Sys2Proof.Machine.execMapCheck s
  | .bootok => Sys2Proof.Machine.execBootok s
  | .illegalEncoding => Sys2Proof.Machine.execIllegalEncoding s
  | .instructionFetchFault => Sys2Proof.Machine.execInstructionFetchFault s
  | .writePerformed => Sys2Proof.Machine.execWritePerformed s
  | .coordinatorContactLost => Sys2Proof.Machine.execCoordinatorContactLost s
  | .unsupportedRequest => Sys2Proof.Machine.execUnsupportedRequest s
  | .peerRequest => Sys2Proof.Machine.execPeerRequest s

end Sys2Proof.Machine
end

