-- ==== Sys2Proof/Machine/Step.lean ====
section
/-! DEFINITION. Sys2Proof/Machine/Step.lean: one step of the package. State.next says who moves: a context that issues its next instruction,
an event, or nobody while time passes. What follows every move is State.finish. -/

namespace Sys2Proof.Machine

/-- Going on after a move. -/
def afterMove : Host.Outcome State Fault Refusal → Host.Outcome State Fault Refusal
  | .next s => .next s.finish
  | .fault f => .fault f
  | .refused r => .refused r

/-- One step. (DESIGN CHOICE, log 5) -/
def step (s : State) : Host.Outcome State Fault Refusal :=
  match s.next with
  | .ctx id =>
    let s0 := { s with cur := id }
    afterMove (exec (s0.issue id).1 (s0.issue id).2)
  | .event i a => afterMove (exec i { s with subj := a })
  | .idle => .next s.finish

/-- The context in which withFetchWord runs an instruction: slot C0 of P0 of the boot cluster, in machine mode, as the boot ROM releases
it (R470), in boot mode with an image of one page. (DESIGN CHOICE, log 2; DESIGN CHOICE, log 130) -/
def bootCtx : Ctx := { id := ⟨0, 0, 0⟩, priv := .machine, pc := 0x10001000, g := (Vector.replicate 32 0).set 5 4 }

/-- The state with an instruction stored where the boot context fetches its next instruction: the context of the boot ROM's release stands
in its slot with an image of one page, its cluster is released and active, and it moves next (R469, R470; notes/assumptions/2.md). (DESIGN CHOICE, log 2) -/
def State.withFetchWord (s : State) (nbits w : Nat) : State :=
  { s with
    ctxs := (s.ctxs.filter fun c => !decide (c.id = bootCtx.id)) ++ [bootCtx]
    groups := s.groups.filter fun g => !decide (g.cl = 0 ∧ g.slot = 0 ∧ g.base = 0)
    clusters := (s.clusters.filter fun k => !decide (k.id = 0)) ++ [{ id := 0, released := true, active := true }]
    l1i := s.l1i.filter fun l => !decide (l.cl = 0 ∧ l.pipe = 0)
    boot := { s.boot with phase := 5, inReset := false, mode := true, len := 4096 }
    mem := Memory.writeN s.mem (0x2000000000000 + 0x10001000) (bytesOfWord (w % 2 ^ nbits))
    next := .ctx bootCtx.id }

end Sys2Proof.Machine
end

