-- ==== Sys2Proof/Safety.lean ====
section
/-! DEFINITION. Sys2Proof/Safety.lean: the terms in which claims about the model are stated: what an instruction runs to, how the issuing agent goes on,
and what an instruction of a shape leaves as it was. -/

namespace Sys2Proof.Machine

/-- The instruction completes: it answers a next state, of which P holds. -/
def Runs (i : Instr) (s : State) (P : State → Prop) : Prop := ∃ t, exec i s = .next t ∧ P t

/-- The agent of state t at its next instruction: Ready there, or, after a switch marker with long results or a poison trap outstanding, parked (R36,
R179, R384). -/
def wentOn (sm : Bool) (pc : Word) (t : State) (c : Ctx) : Ctx :=
  { c with pc := pc, st := if sm && t.mustPark t.cur then .parked .results else .ready, woken := false, arrived2 := false }

/-- The agent has gone on to pc, and every context is otherwise as it was. -/
structure Moved (sm : Bool) (pc : Word) (s t : State) : Prop where
  cur : t.cur = s.cur
  ctxs : ∀ id, t.findCtx id = (s.findCtx id).map fun c => if id = s.cur then wentOn sm pc t c else c

/-- Register r of context id is one that an instruction with destination d writes: each active lane's own, or the leader's for a uniform register
(R40); a write to g0 is discarded (R17). -/
def Written (s : State) (d : Reg) (id : CtxId) (r : Reg) : Prop :=
  r = d ∧ d ≠ 0 ∧ if d.val < 16 then id ∈ s.lanes s.cur else (s.lanes s.cur).head?.map s.leader = some id

/-- A fixed instruction has written v to its destination d, and the agent has gone on to pc; nothing else has changed. -/
structure WroteReg (sm : Bool) (d : Reg) (v : CtxId → Word) (pc : Word) (s t : State) : Prop where
  /-- nothing outside the contexts has changed: memory, local store, engines and every other part of the package -/
  rest : t = { s with ctxs := t.ctxs }
  cur : t.cur = s.cur
  /-- of the contexts, only general registers, and the agent's way on -/
  keep : ∀ id, t.findCtx id = (s.findCtx id).map fun c => { (if id = s.cur then wentOn sm pc t c else c) with g := (t.ctx id).g }
  /-- each active lane's own register -/
  own : d ≠ 0 → d.val < 16 → ∀ l ∈ s.lanes s.cur, (s.findCtx l).isSome → (t.ctx l).g.get d = v l
  /-- a uniform register takes the value of the lowest active lane -/
  uniform : 16 ≤ d.val → ∀ l, (s.lanes s.cur).head? = some l → (s.findCtx (s.leader l)).isSome → (t.ctx (s.leader l)).g.get d = v l
  /-- every other register of every context -/
  others : ∀ id r, (s.findCtx id).isSome → ¬ Written s d id r → (t.ctx id).g.get r = (s.ctx id).g.get r

/-- A fixed instruction has written v to its predicate n in every active lane, and the agent has gone on; nothing else has changed. -/
structure WrotePred (sm : Bool) (n : PReg) (v : CtxId → Bool) (pc : Word) (s t : State) : Prop where
  rest : t = { s with ctxs := t.ctxs }
  cur : t.cur = s.cur
  keep : ∀ id, t.findCtx id = (s.findCtx id).map fun c => { (if id = s.cur then wentOn sm pc t c else c) with p := (t.ctx id).p }
  own : n ≠ 0 → ∀ l ∈ s.lanes s.cur, (s.findCtx l).isSome → (t.ctx l).p.getLsbD n = v l
  others : ∀ id (m : PReg), (s.findCtx id).isSome → ¬ (m = n ∧ n ≠ 0 ∧ id ∈ s.lanes s.cur) → (t.ctx id).p.getLsbD m = (s.ctx id).p.getLsbD m

/-- The late writes of a long instruction with destination d (R178): one for each active lane, or the lowest lane's for a uniform register (R40). -/
def lateOf (s : State) (d : Reg) (v : CtxId → Word) : List Long :=
  if d = 0 then []
  else if d.val < 16 then (s.lanes s.cur).map fun l => { dst := l, dest := .g d, val := v l }
  else (s.lanes s.cur).head?.toList.map fun l => { dst := s.leader l, dest := .g d, val := v l }

/-- The late writes of a long instruction with predicate n. -/
def lateOfPred (s : State) (n : PReg) (v : CtxId → Bool) : List Long :=
  if n = 0 then [] else (s.lanes s.cur).map fun l => { dst := l, dest := .p n, val := if v l then 1 else 0 }

/-- The agent has gone on, and the late writes given are outstanding beside the earlier ones; nothing else has changed. -/
structure Owes (late : List Long) (sm : Bool) (pc : Word) (s t : State) : Prop where
  rest : t = { s with ctxs := t.ctxs, longs := s.longs ++ late }
  moved : Moved sm pc s t

/-- A fixed instruction with the results v completes so for the issuing agent, wherever one is resident. -/
def Fixed (i : Instr) (sm : Bool) (d : Reg) (v : CtxId → Word) (s : State) : Prop :=
  ∀ c, s.findCtx s.cur = some c → Runs i s (WroteReg sm d v (c.pc + 4) s)

/-- A fixed instruction with a predicate destination completes so. -/
def FixedPred (i : Instr) (sm : Bool) (n : PReg) (v : CtxId → Bool) (s : State) : Prop :=
  ∀ c, s.findCtx s.cur = some c → Runs i s (WrotePred sm n v (c.pc + 4) s)

/-- A long instruction with the results v completes so: its results are outstanding. -/
def LongReg (i : Instr) (sm : Bool) (d : Reg) (v : CtxId → Word) (s : State) : Prop :=
  ∀ c, s.findCtx s.cur = some c → Runs i s (Owes (lateOf s d v) sm (c.pc + 4) s)

/-- A long instruction with a predicate destination completes so. -/
def LongPred (i : Instr) (sm : Bool) (n : PReg) (v : CtxId → Bool) (s : State) : Prop :=
  ∀ c, s.findCtx s.cur = some c → Runs i s (Owes (lateOfPred s n v) sm (c.pc + 4) s)

/-! ### Traps -/

/-- A context that runs alone and whose next trap is an ordinary one: the package has left boot mode (R469), its TL is below 2 (R390), no poisoned
data of it are outstanding (R384), and no answer to a `nbr.put` of it is (R180, R404). -/
structure Trappable (s : State) (id : CtxId) : Prop where
  here : (s.findCtx id).isSome
  alone : (s.ctx id).grp = none
  booted : s.boot.mode = false
  level : (s.ctx id).tl < 2
  clean : s.poisonOf id = none
  answered : ∀ p ∈ s.packets, p.from_ = id → p.dest = 0

/-- Context id has taken a trap at pc (R382, R383, R385): what is saved, where it goes on, and what stays. Its outstanding long results have been
written (R180). -/
structure TookTrap (id : CtxId) (cause status : Nat) (val pc : Word) (s t : State) : Prop where
  tl : (t.ctx id).tl = (s.ctx id).tl + 1
  epc : ((t.ctx id).bank ((s.ctx id).tl + 1)).epc = pc
  ecause : ((t.ctx id).bank ((s.ctx id).tl + 1)).ecause = BitVec.ofNat 64 (cause + 256 * status)
  eval : ((t.ctx id).bank ((s.ctx id).tl + 1)).eval = val
  /-- PPRIV, ESTAT[1:0] -/
  estat : ((t.ctx id).bank ((s.ctx id).tl + 1)).estat.toNat % 4 = privNum (s.ctx id).priv
  /-- the banked registers of the other level -/
  bank : (t.ctx id).bank (2 - (s.ctx id).tl) = (s.ctx id).bank (2 - (s.ctx id).tl)
  priv : (t.ctx id).priv = if (s.ctx id).priv = .user then .supervisor else (s.ctx id).priv
  pc : (t.ctx id).pc = BitVec.ofNat 64 ((s.ctx id).tvec.toNat / 2 ^ 16 % 2 ^ 40 * 2 ^ 16 + if (s.ctx id).tl = 0 then 0 else 0x100)
  ready : (t.ctx id).st = .ready
  regs : (t.ctx id).g = ((s.flushLongs id).ctx id).g ∧ (t.ctx id).p = ((s.flushLongs id).ctx id).p
  /-- the upcall registers, MODE, DOMAIN, TVEC, NOTICE and the tags -/
  kept : (t.ctx id).mode = (s.ctx id).mode ∧ (t.ctx id).domain = (s.ctx id).domain ∧ (t.ctx id).tvec = (s.ctx id).tvec ∧
    (t.ctx id).upvec = (s.ctx id).upvec ∧ (t.ctx id).epcu = (s.ctx id).epcu ∧ (t.ctx id).ecauseu = (s.ctx id).ecauseu ∧
    (t.ctx id).evalu = (s.ctx id).evalu ∧ (t.ctx id).uptok = (s.ctx id).uptok ∧ (t.ctx id).notice = (s.ctx id).notice ∧
    (t.ctx id).arrived = (s.ctx id).arrived ∧ (t.ctx id).errtags = (s.ctx id).errtags ∧ (t.ctx id).grp = none
  others : ∀ j, j ≠ id → t.findCtx j = s.findCtx j
  /-- it no longer waits for VRS blocks (R234) -/
  waits : t.teams = (s.leaveBlocks id).teams
  /-- nothing else, but for late results that have been written and free values that have been drawn -/
  rest : t = { s with ctxs := t.ctxs, longs := t.longs, clusters := t.clusters, teams := t.teams, freeCtr := t.freeCtr }

/-- The issuing context, which runs alone, traps with the cause and status given and the EVAL given, at its own pc. -/
def TrapsWith (i : Instr) (cause status : Nat) (val : Word) (s : State) : Prop :=
  Trappable s s.cur → Runs i s (TookTrap s.cur cause status val (s.ctx s.cur).pc s)

/-- The issuing context, which runs alone, traps with a cause for which the manual states no EVAL. -/
def Traps (i : Instr) (cause : Nat) (s : State) : Prop :=
  Trappable s s.cur → Runs i s fun t => ∃ val, TookTrap s.cur cause 0 val (s.ctx s.cur).pc s t

/-! ### Branches -/

/-- The condition has the value v in every active lane of the agent, and there is one (R43). -/
def Agrees (s : State) (cond : CtxId → Bool) (v : Bool) : Prop := match s.groupOf s.cur with
  | none => cond s.cur = v
  | some g => g.lm ≠ 0 ∧ ∀ i, i < 16 → g.lm.getLsbD i = true → i < g.width ∧ cond ⟨g.cl, g.base + i, g.slot⟩ = v

/-- The groups after a branch of the agent: a branch disarms the join address of its group (R42). -/
def disarmed (s : State) : List Group := match s.groupOf s.cur with
  | none => s.groups
  | some g => (s.setGroup { g with armed := none }).groups

/-- The agent has gone on to pc as one, and nothing else has changed. -/
structure Branched (sm : Bool) (pc : Word) (s t : State) : Prop where
  rest : t = { s with ctxs := t.ctxs, groups := disarmed s }
  moved : Moved sm pc s t

/-- T is the mask of the active lanes of which the condition holds. -/
def Takes (g : Group) (cond : CtxId → Bool) (T : BitVec 16) : Prop :=
  ∀ i, i < 16 → T.getLsbD i = (decide (i < g.width) && g.lm.getLsbD i && cond ⟨g.cl, g.base + i, g.slot⟩)

/-- A branch that the lanes of mask T take and the others do not, under the armed join j: an entry is pushed, the taken lanes run on at the target, the
others are Held (R43). -/
structure Diverged (g : Group) (j target : Word) (T : BitVec 16) (s t : State) : Prop where
  group : t.groupOf s.cur = some { g with
    armed := none, lm := T
    stack := { j := j, pendPc := (s.ctx s.cur).pc + 4, pend := g.lm &&& ~~~T, taken := T, phaseN := false } :: g.stack }
  pc : (t.ctx s.cur).pc = target
  held : ∀ k, 0 < k → k < 16 → g.members.getLsbD k = true → ⟨g.cl, g.base + k, g.slot⟩ ≠ s.cur →
    (s.findCtx ⟨g.cl, g.base + k, g.slot⟩).isSome → (s.ctx ⟨g.cl, g.base + k, g.slot⟩).grp = some g.base →
    (t.ctx ⟨g.cl, g.base + k, g.slot⟩).st = if T.getLsbD k then .ready else .held
  /-- nothing but the contexts' states and the group has changed -/
  rest : t = { s with ctxs := t.ctxs, groups := t.groups }
  regs : ∀ id, (t.ctx id).g = (s.ctx id).g ∧ (t.ctx id).p = (s.ctx id).p

/-! ### Splits and traps of some lanes -/

/-- No trap of the state is a kill, a failure of the start, or a poison trap (R384, R390, R469), and no answer to a `nbr.put` is outstanding (R404). -/
structure CleanTraps (s : State) : Prop where
  booted : s.boot.mode = false
  level : ∀ c ∈ s.ctxs, c.tl < 2
  poison : ∀ c ∈ s.ctxs, c.poison = none
  longs : ∀ l ∈ s.longs, l.poisoned = none
  packets : ∀ p ∈ s.packets, p.dest = 0

/-- Context m has become n by a trap at pc with STATUS 0 (R382, R383, R385), and with the EVAL given where the manual states one. -/
structure LaneTrap (cause : Nat) (val : Option Word) (pc : Word) (m n : Ctx) : Prop where
  tl : n.tl = m.tl + 1
  epc : (n.bank (m.tl + 1)).epc = pc
  ecause : (n.bank (m.tl + 1)).ecause = BitVec.ofNat 64 cause
  eval : ∀ v, val = some v → (n.bank (m.tl + 1)).eval = v
  estat : (n.bank (m.tl + 1)).estat.toNat % 4 = privNum m.priv
  priv : n.priv = if m.priv = .user then .supervisor else m.priv
  pc : n.pc = BitVec.ofNat 64 (m.tvec.toNat / 2 ^ 16 % 2 ^ 40 * 2 ^ 16 + if m.tl = 0 then 0 else 0x100)
  ready : n.st = .ready
  kept : n.mode = m.mode ∧ n.domain = m.domain ∧ n.tvec = m.tvec

/-- Each of the contexts has trapped at its own pc. -/
def AllTrapped (cause : Nat) (pick : Ctx → Prop) (s t : State) : Prop :=
  ∀ i m, s.findCtx i = some m → pick m → ∃ n, t.findCtx i = some n ∧ LaneTrap cause none m.pc m n

/-- The fused group g has split (R46, R49): every member is a single context with the record. An active lane that `hit` picks has trapped at the group's pc;
every other one goes on at its pc of `pcs`, with the registers of `file`, by context and number, its uniform ones those of the leader's file; a lane that was
not active is Held where the top entry of the stack will next run it. -/
def SplitTo (g : Group) (sm : Bool) (pcs : CtxId → Word) (hit : CtxId → Option (Nat × Option Word)) (file : CtxId → Reg → Word) (s t : State) : Prop :=
  ∀ k m, k < g.width → k < 16 → g.members.getLsbD k = true → s.findCtx ⟨g.cl, g.base + k, g.slot⟩ = some m → m.grp = some g.base →
    ∃ n, t.findCtx ⟨g.cl, g.base + k, g.slot⟩ = some n ∧ n.grp = none ∧
      n.rcd = some { stack := g.stack, base := g.base, width := g.width, members := g.members, a := g.lm } ∧
      if g.lm.getLsbD k = true then
        match hit m.id with
        | some (cause, val) => LaneTrap cause val (s.ctx s.cur).pc m n
        | none => n.pc = pcs m.id ∧ (n.st = .ready ∨ sm = true ∧ n.st = .parked .results) ∧ n.p = m.p ∧ ∀ r, n.g.get r = file (s.fileOf m.id r) r
      else n.st = .held ∧ n.p = m.p ∧ (∀ r, n.g.get r = file (s.fileOf m.id r) r) ∧
        ∀ e l, g.stack = e :: l → (e.phaseN = false → e.pend.getLsbD k = true → n.pc = e.pendPc) ∧
          (e.phaseN = true → e.taken.getLsbD k = true → n.pc = e.j + 4)

/-- A fused group traps with the cause in every active lane, and splits (R49). -/
def GroupTraps (i : Instr) (cause : Nat) (g : Group) (s : State) : Prop :=
  Runs i s (SplitTo g false (fun _ => 0) (fun _ => some (cause, none)) (fun l r => (s.ctx l).g.get r) s)

/-! ### Memory traffic that an instruction sets going -/

/-- A cluster but for the release sequences of its local store, the programs that its queued `mx.spmm` commands have been given, and the writes they have met. -/
def Cluster.bare (k : Cluster) : Cluster :=
  { k with lsRels := [], quads := k.quads.map fun q => { q with queue := q.queue.map fun m => { m with once := [], written := [] } } }

/-- State t is s with some of a group's earlier loads, writes and reductions performed and lines written back (R123, R142, R147, R156): memory, local
store, caches, timestamps, poisoned lines and what Sinter watches may differ, and which bytes an outstanding load has read; nothing else does. -/
structure Settled (s t : State) : Prop where
  rest : t = { s with
    ctxs := t.ctxs, longs := t.longs, l1 := t.l1, l1i := t.l1i, writes := t.writes, reds := t.reds, home := t.home, mem := t.mem, ls := t.ls
    sinter := t.sinter, compiles := t.compiles, poison := t.poison, teams := t.teams, clusters := t.clusters }
  ctxs : ∀ id, t.findCtx id = (s.findCtx id).map fun c => { c with pts := (t.ctx id).pts, mts := (t.ctx id).mts, vis := (t.ctx id).vis }
  longs : t.longs.map (fun l => (l.dst, l.dest)) = s.longs.map fun l => (l.dst, l.dest)
  teams : t.teams.map (fun m => { m with stats := [] }) = s.teams.map fun m => { m with stats := [] }
  clusters : ∀ cl, (t.cluster cl).bare = (s.cluster cl).bare

/-- An instruction completes once memory traffic has settled: the late writes given are then outstanding, and the state is otherwise the one that
`after` makes of the settled one. -/
def Queues (i : Instr) (sm : Bool) (late : State → List Long) (after : State → State) (s : State) : Prop :=
  ∀ c, s.findCtx s.cur = some c → Runs i s fun t => ∃ u, Settled s u ∧ Owes (late u) sm (c.pc + 4) (after u) t

/-- The first segment of a work queue from i on that has rows: its number, the rows before it, and its rows (R62). -/
def nextSeg (counts : List Nat) (i : Nat) : Option (Nat × Nat × Nat) :=
  ((List.range counts.length).find? fun j => decide (i ≤ j) && decide (0 < (counts[j]?).getD 0)).map fun j =>
    (j, (counts.take j).sum, (counts[j]?).getD 0)

/-- The work queue behind a tile of h rows and x columns (R62). -/
def wqBehind (q : WQ) (h x : Nat) (q' : WQ) : Prop :=
  if q.col + x < q.e0 then q' = { q with col := q.col + x }
  else if h < q.rem then q' = { q with col := 0, row := q.row + h, rem := q.rem - h }
  else match nextSeg q.counts (q.seg + 1), nextSeg q.counts 0 with
    | some (i, before, n), _ => q' = { q with col := 0, seg := i, row := before, rem := n }
    | none, some (i, before, n) =>
      if q.b + 1 < q.batches then q' = { q with col := 0, b := q.b + 1, seg := i, row := before, rem := n } else q'.done = true
    | none, none => q'.done = true

/-- A vector command, a cluster and a team but for what flushing a page settles: reductions that scatters hold in their windows, and what `Settled` leaves open. -/
def VCmd.bare (v : VCmd) : VCmd := { v with work := v.work.map fun p => { p with pend := [] } }
def Cluster.flushed (k : Cluster) : Cluster := { k.bare with vq := k.vq.map VCmd.bare }
def Team.flushed (m : Team) : Team := { m with stats := [], savedVq := m.savedVq.map VCmd.bare }

/-- State t is s after the lines of a range have been written back or dropped in the banks and the slices of a partition, and the traffic to them performed
(R402, R403, R427): as with `Settled`, but the slices' lines and the scatters' windows may differ too. -/
structure Flushed (s t : State) : Prop where
  rest : t = { s with
    ctxs := t.ctxs, longs := t.longs, l1 := t.l1, l1i := t.l1i, l2 := t.l2, writes := t.writes, reds := t.reds, home := t.home, mem := t.mem, ls := t.ls
    sinter := t.sinter, compiles := t.compiles, poison := t.poison, teams := t.teams, clusters := t.clusters }
  ctxs : ∀ id, t.findCtx id = (s.findCtx id).map fun c => { c with pts := (t.ctx id).pts, mts := (t.ctx id).mts, vis := (t.ctx id).vis }
  longs : t.longs.map (fun l => (l.dst, l.dest)) = s.longs.map fun l => (l.dst, l.dest)
  teams : t.teams.map Team.flushed = s.teams.map Team.flushed
  clusters : ∀ cl, (t.cluster cl).flushed = (s.cluster cl).flushed

/-- A value that a cluster's copy of GTIME may have at a stamp or a read: within 2 ns of the reference, and never below an earlier one (R441). -/
def Stamp (s : State) (cl g : Nat) : Prop := (s.cluster cl).gLast ≤ g ∧ s.gtime ≤ g + 2 ∧ g ≤ max (s.cluster cl).gLast (s.gtime + 2)

/-! ### Memory instructions -/

/-- The issuing context runs alone, and none of its own memory traffic is on its way: no writes, reductions, late loads or accesses, no dirty line in
its L1 bank, no reducing scatter, and no lost write to report. -/
structure Quiet (s : State) : Prop where
  alone : (s.ctx s.cur).grp = none
  writes : ∀ w ∈ s.writes, s.sameBank s.cur w = false
  reds : ∀ r ∈ s.reds, r.agent ≠ s.cur
  lines : ∀ l ∈ s.l1, s.bankLine s.cur l = true → l.dirty = 0
  longs : ∀ l ∈ s.longs, ∀ t, l.late = some t → t.agent ≠ s.cur
  accesses : ∀ a ∈ s.accesses, a.agent ≠ s.cur
  scatters : s.scattering s.cur = false
  lost : (s.ctx s.cur).lostWrite = none

/-- The address names n naturally aligned bytes of local store through W0, which the issuing context may access (R103, R108 to R110, R130). -/
structure LocalAt (s : State) (va : Word) (n : Nat) (l : LsAt) : Prop where
  range : va.toNat < 2 ^ 56
  region : regionOf va.toNat = .lsAny ∨ regionOf va.toNat = .lsOwn
  found : s.lsAt (whoOf (s.ctx s.cur)) va.toNat = .ok l
  plain : l.win = 0 ∧ fld va.toNat 20 3 = 0
  aligned : va.toNat % 2 ^ 20 % n = 0
  inside : (s.ctx s.cur).priv = .machine ∨ l.off + n ≤ l.size

/-- Local store after n bytes of cluster l.cl from the physical offset on have become the low bytes of v: every other byte reads as before. -/
def LocalPut (s u : State) (l : LsAt) (n v : Nat) : Prop :=
  u.ls = Memory.writeN s.ls (lsKey l.cl l.phys) (leBytes n v) ∧
  ∀ k, k < lsKey l.cl l.phys ∨ lsKey l.cl l.phys + n ≤ k → Memory.read u.ls k = Memory.read s.ls k

/-- The context `a` runs alone, its bank holds the line l of the address va, and none of its own traffic is on its way: no writes that left its bank, no
reductions of its pipe, no late loads. -/
structure LineHeld (s : State) (a : CtxId) (va : Nat) (l : L1Line) : Prop where
  alone : (s.ctx a).grp = none
  line : s.findLine a (va / 64) = some l
  bytes : l.data.length = 64
  fresh : s.isAliased a va l.pa = false
  writes : ∀ w ∈ s.writes, s.sameBank a w = false
  reds : ∀ r ∈ s.reds, ¬ (r.agent.cl = a.cl ∧ r.agent.pipe = a.pipe)
  longs : ∀ l ∈ s.longs, ∀ t, l.late = some t → t.agent ≠ a

/-- Line m is l with n bytes from offset i on replaced by the low bytes of v, which are dirty (R122). -/
structure LinePut (l : L1Line) (i n v : Nat) (m : L1Line) : Prop where
  same : sameLine l m = true
  data : ∀ k, k < 64 → m.data[k]? = if i ≤ k ∧ k < i + n then (leBytes n v)[k - i]? else l.data[k]?
  valid : m.valid = l.valid ||| BitVec.ofNat 64 ((2 ^ n - 1) * 2 ^ i)
  dirty : m.dirty = l.dirty ||| BitVec.ofNat 64 ((2 ^ n - 1) * 2 ^ i)

/-- The one late write of a context that runs alone. -/
def oneLate (s : State) (d : Reg) (v : Word) (late : Option Late) : List Long :=
  if d = 0 then [] else [{ dst := s.cur, dest := .g d, val := v, late := late }]

/-- An acquire at a scope above GRP has raised the group's timestamp (R124); below, it is as it was or higher. -/
def Acquired (sc : Nat) (s u : State) : Prop := sc ≠ 0 → (s.ctx s.cur).mts ≤ (u.ctx s.cur).pts

/-- An atomic of n bytes of local store by the issuing context, at relaxed, acquire, release or both: memory goes from the old value m to the new one,
the destination is to receive `old m`, and the rest is unchanged but for what its acquire and release settle. -/
def Atomic (i : Instr) (sm : Bool) (d : Reg) (l : LsAt) (n : Nat) (old : Nat → Word) (new : Nat → Option Nat) (s : State) : Prop :=
  ∀ c, s.findCtx s.cur = some c → Runs i s fun t => ∃ u, Settled s u ∧ u.mem = s.mem ∧
    (let m := leNat (Memory.readN s.ls (lsKey l.cl l.phys) n)
     Owes (oneLate s d (old m) none) sm (c.pc + 4) u t ∧
     match new m with
     | some v => LocalPut s u l n v
     | none => u.ls = s.ls)

/-! ### Engine commands -/

/-- A vector command of function op passes every check of issue (R245 to R250): room in its pipe's queue, its barrier and ring, its role, its words, and
its records, which are read once the group's own traffic is performed (R152) and name the views given. u is the state after that. -/
structure VecReady (op : Nat) (scl : Bool) (ga gb : Word) (dv : View) (r : List (Option View)) (s u : State) : Prop where
  here : (s.findCtx s.cur).isSome
  room : ((s.cluster s.cur.cl).vq.filter fun v => decide (v.pipe = s.cur.pipe)).length < 16
  signals : ((wb gb 43 && barBad (s.teamOf s.cur) (wfld gb 44 5)) || (wb gb 49 && ringBad (s.teamOf s.cur) (wfld gb 50 3) (wfld gb 53 3))) = false
  role : (s.ctx s.cur).role.getLsbD 2 = true
  indices : ∀ k, k < 4 → (vecIdxUsed op scl k = true ↔ vecIndex ga k ≠ 0xFFFF)
  records : ∀ k, k < 4 → vecIdxUsed op scl k = true → (s.recordBytes (s.teamOf s.cur) (vecIndex ga k)).isSome = true
  word : vecGbBad op scl gb ((s.drainGroup s.cur).rawType (s.teamOf s.cur) (vecIndex ga 0))
    ((s.drainGroup s.cur).rawType (s.teamOf s.cur) (vecIndex ga 1)) = false
  views : (s.drainGroup s.cur).vecRecords (s.ctx s.cur) op scl ga gb [0, 1, 2, 3] [] = (.ok (some dv :: r), u)
  inside : ∀ v ∈ (some dv :: r).filterMap id, v.beyondVrs (s.ctx s.cur).vblocks = false
  whole : u.vecPartial (s.ctx s.cur) op gb dv = false

/-- The command stands behind those of its cluster, with its views, its word, its parts and its signals, none of it performed; the room left is to be
answered in gD, and a gather or scatter counts in OCG. Nothing else has changed since the records were read. -/
def VecQueued (op : Nat) (scl sm : Bool) (gb : Word) (d : Reg) (dv : View) (r : List (Option View)) (s u t : State) : Prop :=
  let n := ((u.cluster u.cur.cl).vq.filter fun v => decide (v.pipe = u.cur.pipe)).length
  let counts := op = 0x1A ∨ op = 0x1B
  let width := ((u.groupOf u.cur).map Group.width).getD 1
  let parts := if op = 0x19 ∨ counts then 0 else if width < 4 ∨ (0x12 ≤ op ∧ op ≤ 0x15 ∧ dv.rank = 1) then 1
    else max 1 (min (width / 2) (dv.ext (dv.rank - 1)))
  (∀ cl, t.cluster cl = if cl = u.cur.cl then { u.cluster cl with vq := (t.cluster cl).vq } else u.cluster cl) ∧
  (t.cluster u.cur.cl).vq = (u.cluster u.cur.cl).vq ++ [{
    pipe := u.cur.pipe, by_ := u.behalf (s.ctx s.cur), op := op, scl := scl, gb := gb, d := dv, s1 := (r[0]?).join, s2 := (r[1]?).join
    s3 := (r[2]?).join, weight := (s.ctx s.cur).weight, parts := parts, work := List.replicate (max parts 1) {}
    sig := { bar := if wb gb 43 then some (wfld gb 44 5, 1) else none
             ring := if wb gb 49 then some (wfld gb 50 3, wfld gb 53 3) else none }
    oc := if counts then some u.ocNext else none }] ∧
  (if counts then t.ocq = u.ocq ++ [{ ticket := u.ocNext, ctx := u.cur, cls := .ocg, done := false }] ∧ t.ocNext = u.ocNext + 1
   else t.ocq = u.ocq ∧ t.ocNext = u.ocNext) ∧
  Owes (lateOf u d fun _ => BitVec.ofNat 64 (15 - n)) sm ((u.ctx u.cur).pc + 4) { u with clusters := t.clusters, ocq := t.ocq, ocNext := t.ocNext } t

/-- A matrix command passes the checks of issue that are common to all of them (R275, R276): room in its queue, its barrier and ring, its role, and its
records, which are read once the group's own traffic is performed (R152) and name the views given. u is the state after that. -/
structure MxReady (arv : Bool) (ring : Option (Nat × Nat)) (recs : MxCheck) (v1 v2 : Option View) (s u : State) : Prop where
  here : (s.findCtx s.cur).isSome
  room : (s.quad s.cur.cl (mxQueue (s.isFused s.cur) s.cur.pipe)).queue.length < 8
  bar : arv = true → barBad (s.teamOf s.cur) (mcBar (s.icfg (mxQueue (s.isFused s.cur) s.cur.pipe))) = false
  ring : ∀ r i, ring = some (r, i) → ringBad (s.teamOf s.cur) r i = false
  role : (s.ctx s.cur).role.getLsbD 1 = true
  records : recs (s.drainGroup s.cur) = (.ok (v1, v2), u)
  quads : (u.cluster u.cur.cl).quads.length = 4

/-- The command m stands last in the queue q of the agent's cluster, and the quadrants of `set` have the configuration cfg for later checks; it counts in
OCM, and the room left is to be answered in gD. The rest is as after the records, but for memory traffic of the group that has settled. -/
def MxQueued (sm : Bool) (d : Reg) (q : Nat) (set : List Nat) (m : State → MCmd) (cfg : Word) (u t : State) : Prop :=
  ∃ w, Settled u w ∧
    (∀ cl, t.cluster cl = if cl = u.cur.cl then { w.cluster cl with quads := (t.cluster cl).quads } else w.cluster cl) ∧
    (∀ j, j < 4 → t.quad u.cur.cl j =
      { w.quad u.cur.cl j with
        queue := if j = q then (w.quad u.cur.cl j).queue ++ [{ m w with oc := u.ocNext }] else (w.quad u.cur.cl j).queue
        icfg := if j ∈ set then cfg else (w.quad u.cur.cl j).icfg }) ∧
    t.ocq = u.ocq ++ [{ ticket := u.ocNext, ctx := u.cur, cls := .ocm, done := false }] ∧
    Owes (lateOf u d fun _ => BitVec.ofNat 64 (7 - (u.quad u.cur.cl q).queue.length)) sm ((u.ctx u.cur).pc + 4)
      { w with clusters := t.clusters, ocq := t.ocq, ocNext := u.ocNext + 1 } t

/-- A copy, gather or scatter passes the checks of issue (R299 to R301, R306, R307): room in the cluster, its ring, its role, its words, and its records,
which are read once the group's own traffic is performed (R152) and name the views given. u is the state after that. -/
structure CopyReady (kind sub : Nat) (ga gb : Word) (dv sv : View) (ix : Option View) (s u : State) : Prop where
  here : (s.findCtx s.cur).isSome
  room : s.copiesIn s.cur.cl < 512
  ring : s.cwRingBad gb = false
  role : (s.ctx s.cur).role.getLsbD 0 = true
  words : wfld ga (if kind = 0 then 32 else 48) (if kind = 0 then 32 else 16) = 0 ∧ wfld gb 13 51 = 0
  records : State.copyRecords (decide (kind ≠ 3)) (s.drainGroup s.cur) (s.ctx s.cur) ga (List.range (if kind = 0 then 2 else 3)) =
    ([.ok dv, .ok sv] ++ ix.toList.map .ok, u)
  inside : ∀ v ∈ [dv, sv] ++ ix.toList, v.beyondVrs (s.ctx s.cur).vblocks = false
  fits : copyFits kind sub dv sv ix = true ∧ dv.wholeBlocks (u.viewWd (u.behalf (s.ctx s.cur)) dv) = true

/-- The command is outstanding, with its tag and its ring, and counts in OCC or OCG; 0 is to be answered in gD. Nothing else has changed since the records
were read. -/
def CopyQueued (kind sub : Nat) (cls : Cls) (sm : Bool) (gb : Word) (d : Reg) (dv sv : View) (ix : Option View) (s u t : State) : Prop :=
  Owes (lateOf u d fun _ => 0) sm ((u.ctx u.cur).pc + 4)
    { u with
      copies := u.copies ++ [{
        by_ := u.behalf (s.ctx s.cur), kind := kind, sub := sub, d := dv, s := sv, ix := ix, tag := wfld gb 0 6
        ring := if wb gb 6 then some (wfld gb 7 3, wfld gb 10 3) else none, oc := u.ocNext }]
      ocq := u.ocq ++ [{ ticket := u.ocNext, ctx := u.cur, cls := cls, done := false }]
      ocNext := u.ocNext + 1 } t

/-- Number of an instance that a command of rank r begins or joins, and the key under which the communicator counts it (R309, R311, R317). -/
def instKey (k : Comm) (fn rank peer mt : Nat) : Nat × Nat :=
  if fn < 8 then (k.count rank + 1, rank)
  else
    let snd := if fn = 8 then rank else peer
    let rcv := if fn = 8 then peer else rank
    let key := pairKey snd rcv mt (fn - 8)
    (pairInst snd rcv mt (k.count key + 1), key)

/-- A collective, a send or a receive passes the checks of issue (R298, R299, R309 to R312, R316, R317): no command of the context is outstanding on the
handle, its ring, its role, its words, its handle, its block, which is read at l once the group's own traffic is performed (R152), its views, and that the
instance is not decided. -/
structure CollReady (fn sub : Nat) (ga gb : Word) (k : Comm) (rank : Nat) (l : LsAt) (send recv : Option View) (ty cnt : Nat) (s u : State) : Prop where
  here : (s.findCtx s.cur).isSome
  handle : s.handleOf (s.ctx s.cur) (wfld gb 16 32) = some (k, rank) ∧ wfld gb 16 32 / 65536 = k.gen.toNat
  room : s.collOf (s.ctx s.cur) k.part k.slot k.gen.toNat = none
  ring : s.cwRingBad gb = false
  role : (s.ctx s.cur).role.getLsbD 0 = true
  words : wfld gb 13 3 = 0 ∧ wfld gb 48 16 = 0
  block : s.inOwnLs (s.ctx s.cur) ga.toNat 64 64 = true ∧ (s.drainGroup s.cur).lsAt (whoOf (s.ctx s.cur)) ga.toNat = .ok l
  views : let v := s.drainGroup s.cur
    ∃ w, v.collView (s.ctx s.cur) (blkNum (v.placeRead (.ls l.cl l.phys) 64) 0 2) = (.ok send, w) ∧
      w.collView (s.ctx s.cur) (blkNum (v.placeRead (.ls l.cl l.phys) 64) 2 2) = (.ok recv, u)
  inside : ∀ v ∈ [send, recv].filterMap id, v.beyondVrs (s.ctx s.cur).vblocks = false
  crec : u.inOwnLs (s.ctx s.cur) (blkNum ((s.drainGroup s.cur).placeRead (.ls l.cl l.phys) 64) 8 8) 16 16 = true
  shape : collShape fn sub k.members.length rank (blkNum ((s.drainGroup s.cur).placeRead (.ls l.cl l.phys) 64) 4 2) send recv = some (ty, cnt)
  whole : ∀ x, recv = some x → x.wholeBlocks (u.viewWd (u.behalf (s.ctx s.cur)) x) = true
  fresh : u.decidedAs k.part k.slot k.gen (instKey k fn rank (blkNum ((s.drainGroup s.cur).placeRead (.ls l.cl l.phys) 64) 4 2)
    (blkNum ((s.drainGroup s.cur).placeRead (.ls l.cl l.phys) 64) 16 4)).1 = none

/-- The command is outstanding on its instance, the communicator has counted it, and it counts in OCL; 0 is to be answered in gD. The coordinator may
have decided something of the instance, and messages about it may have left; nothing else has changed since the views were read. -/
def CollQueued (fn sub : Nat) (sm : Bool) (gb : Word) (d : Reg) (k : Comm) (rank : Nat) (l : LsAt) (send recv : Option View) (ty cnt : Nat)
    (s u t : State) : Prop :=
  let blk := (s.drainGroup s.cur).placeRead (.ls l.cl l.phys) 64
  let i := instKey k fn rank (blkNum blk 4 2) (blkNum blk 16 4)
  ∃ decided msgs,
    (∀ x ∈ decided, x.part = k.part ∧ x.cslot = k.slot ∧ x.inst = i.1) ∧ (∀ x ∈ msgs, x.msg.inst = i.1) ∧
    Owes (lateOf u d fun _ => 0) sm ((u.ctx u.cur).pc + 4)
      { u with
        comms := u.comms.map fun x => if x.part = k.part ∧ x.slot = k.slot then x.bump i.2 else x
        colls := u.colls ++ [{
          by_ := u.behalf (s.ctx s.cur), part := k.part, cslot := k.slot, gen := k.gen, inst := i.1, fn := fn, sub := sub, send := send
          recv := if fn = 8 then none else recv, peer := blkNum blk 4 2, crec := blkNum blk 8 8, mtch := blkNum blk 16 4, tag := wfld gb 0 6
          ring := if wb gb 6 then some (wfld gb 7 3, wfld gb 10 3) else none, oc := u.ocNext, rank := rank, since := u.gtime, data := [], etype := ty
          count := cnt }]
        ocq := u.ocq ++ [{ ticket := u.ocNext, ctx := u.cur, cls := .ocl, done := false }]
        ocNext := u.ocNext + 1
        decided := u.decided ++ decided
        msgOut := u.msgOut ++ msgs } t

/-- A stream instruction on qN of a context alone passes the checks of its encoding and its role, and no service of a page of its has posted NOMEM (R328 to
R331). -/
structure Streaming (m : Team) (n : Nat) (s : State) : Prop where
  here : (s.findCtx s.cur).isSome
  alone : (s.ctx s.cur).grp = none
  role : (s.ctx s.cur).role.getLsbD 0 = true
  nomem : (s.ctx s.cur).pageNomem = none
  team : s.teamOf s.cur = some m
  number : n < m.streams.length

/-- A unit's work has left the issuing agent where it was: it issues for itself, and its context is as it was but for its timestamps. -/
def StoodBy (s v : State) : Prop := v.cur = s.cur ∧ v.findCtx s.cur = (s.findCtx s.cur).map fun c =>
  { c with pts := (v.ctx s.cur).pts, mts := (v.ctx s.cur).mts, vis := (v.ctx s.cur).vis }

/-- The team's stream registers are the ones given, and the agent goes on; the state is otherwise as v. -/
def Streamed (m : Team) (st : List Stream) (late : List Long) (sm : Bool) (v t : State) : Prop :=
  Owes late sm ((v.ctx v.cur).pc + 4) (v.modTeam m.cl m.num fun x => { x with streams := st }) t

/-! ### Elements in vector registers -/

/-- A tuple lies within a view's extents. -/
def View.holds (v : View) (i : Tup) : Prop := i.1 < v.ext 0 ∧ i.2.1 < v.ext 1 ∧ i.2.2.1 < v.ext 2 ∧ i.2.2.2 < v.ext 3

/-- Bytes of an element; byte of the register space at which element i of a view begins, and its key in a context's vector registers. -/
def View.width (v : View) : Nat := tyBits v.ty / 8
def View.vrByte (v : View) (i : Tup) : Int := (v.base % 2 ^ 48 : Nat) + v.off i * (v.width : Int)
def View.vrKey (v : View) (id : CtxId) (i : Tup) : Nat := vrsKey id (v.vrByte i).toNat

/-- The view lies in the vector registers, with elements of whole bytes, inside the space, no two in one place (R103, R111, R188). -/
structure InRegs (v : View) : Prop where
  region : v.base / 2 ^ 48 = 0xC2
  width : 8 ≤ tyBits v.ty
  inside : ∀ i, v.holds i → 0 ≤ v.vrByte i ∧ v.vrByte i + v.width ≤ 2 ^ 18
  apart : ∀ i j, v.holds i → v.holds j → v.off i = v.off j → i = j

/-- No byte of an element of one view is a byte of an element of the other. -/
def Disjoint2 (v w : View) : Prop := ∀ i j, v.holds i → w.holds j → v.vrByte i + v.width ≤ w.vrByte j ∨ w.vrByte j + w.width ≤ v.vrByte i

/-- The bytes of element i, and the code that they hold. -/
def vrBytes (s : State) (id : CtxId) (v : View) (i : Tup) : List Byte := Memory.readN s.vrs (v.vrKey id i) v.width
def vrCode (s : State) (id : CtxId) (v : View) (i : Tup) : Nat := leNat (vrBytes s id v i)

/-! ### Sums of the matrix engine -/

/-- An accumulator element after the block terms of the products given, K block by K block: W40 rounded to nearest even after each term, or 32 bits that
wrap (R96, R97). The term of plain operands is the exact sum of products (R95). -/
def accSum (cfg : Word) (p : Pair) (v : Nat) (blks : List (List (MEl × MEl))) : Nat := match p with
  | .int => blks.foldl (fun (v : Nat) (xs : List (MEl × MEl)) =>
      (((v : Int) + (xs.map fun (y : MEl × MEl) => intVal 8 (decide (wfld cfg 0 8 = 12)) y.1.1 * signedOf 8 y.2.1).sum) % 2 ^ 32).toNat) v
  | .plain => blks.foldl (fun (v : Nat) (xs : List (MEl × MEl)) => roundTo .w40 .rne false ((decodeFloat .w40 v).add .rne
      (Ex.sum (xs.map fun (y : MEl × MEl) => (decodeFloat (recFmt (wfld cfg 0 8)) y.1.1).mul (decodeFloat (recFmt (wfld cfg 16 8)) y.2.1))))) v
  | _ => blks.foldl (fun v xs => roundTo .w40 .rne false ((decodeFloat .w40 v).add .rne (blockTerm cfg p xs))) v

/-- An accumulator element in the use of a pair: an element of the other use is converted first (R97). -/
def accBefore (s : State) (cl : Nat) (joined : Bool) (acc : Nat) (int : Bool) (i j : Nat) : Nat :=
  let v := s.accRead cl joined acc i j
  if tileInt (s.cluster cl) (accTile joined acc i j).1 = int then v
  else if int then (Ex.toInt .rtz (-(2 ^ 31)) (2 ^ 31 - 1) (decodeFloat .w40 v) % 2 ^ 32).toNat
  else roundTo .w40 .rne false (Ex.ofInt (signedOf 32 v))

/-- One slab's partial sum of `gm.gemv`: the exact sum of each sixteen products added to a W40 value that is rounded after each, and the last rounded to f32
(R296). -/
def slabSum (fw fx : FFmt) (ws xs : List Nat) : Nat :=
  roundTo .f32 .rne false (decodeFloat .w40 ((List.range ((ws.length + 15) / 16)).foldl (fun a blk =>
    roundTo .w40 .rne false ((decodeFloat .w40 a).add .rne (Ex.sum
      ((((ws.drop (16 * blk)).take 16).zip ((xs.drop (16 * blk)).take 16)).map fun p => (decodeFloat fw p.1).mul (decodeFloat fx p.2))))) 0))

/-! ### Who moves next -/

/-- The context id issues next only where R16 and R34 let it: it is resident and Ready, it issues for itself or leads its group, its cluster is released,
powered, active, not paused and not standing still, no step that software asked for is under way (R437), its team is not being swapped out (R58), what lay in its partition's fall-out buffers has been delivered (R397), its saved results are written,
nothing is due before it, and of the contexts of its pipe that can issue it is the first in turn. -/
def NextOk (s : State) : Prop := ∀ id, s.next = .ctx id → ∃ c ∈ s.ctxs, c.id = id ∧ c.st = .ready ∧ isAgent c = true ∧
  (s.cluster id.cl).released = true ∧ (s.cluster id.cl).gated = false ∧ (s.cluster id.cl).active = true ∧
  c.drain = false ∧ (∀ x, (s.cluster id.cl).change = some x → x.2.1 ≠ 2) ∧ s.paused id.cl = false ∧ s.frozen id.cl = false ∧
  (∀ m, s.teamOf id = some m → m.swapping = false) ∧ (∀ p, s.partOf id.cl = some p → p.refill = false) ∧
  (∀ d ∈ s.dues, s.gtime < d.1) ∧
  ∀ o ∈ s.ctxs, o.id.cl = id.cl → o.id.pipe = id.pipe → s.mayIssue o = true →
    (s.cluster id.cl).rrDist id.pipe id.slot ≤ (s.cluster id.cl).rrDist id.pipe o.id.slot

/-! ### Requests of the host -/

/-- A request of the opcode is at hand, with room for its response, and its header's reserved fields are 0 (R448). -/
structure Asked (op : Nat) (r : HostReq) (s : State) : Prop where
  req : s.subj.req = some r
  room : 16 ≤ r.room
  /-- the chain is no longer than a queue (R447) -/
  chain : r.descs ≤ 1024
  op : r.op = op
  sound : r.bad = false

/-- The request is answered with the status, and with the DETAIL where one is stated, in the 16 bytes of a response, little-endian, with the request's
COOKIE; the state is otherwise as u, but for a free value drawn (R4, R448). -/
def Answered (r : HostReq) (status : Nat) (detail : Option Nat) (u t : State) : Prop :=
  ∃ v, t = { u with
      freeCtr := u.freeCtr + 1
      responses := u.responses ++ [{
        fn := r.fn, queue := r.queue
        data := leBytes 2 status ++ leBytes 2 0 ++ leBytes 4 v ++ leBytes 8 r.cookie.toNat }] } ∧
    ∀ x, detail = some x → v = x

/-- An event of a kind has been raised for the management function and for the function of every partition (R446, R455): each record stands in its queue where the
queues have room, and nothing is dropped. -/
def AllRaised (kind : Nat) (d0 : Word) (s t : State) : Prop :=
  let fns := 0 :: s.parts.map fun p => p.num + 1
  fns.Nodup → (∀ f ∈ fns, (s.events.filter fun e => decide (e.fn = f)).length < 256) →
    t.events = s.events ++ (fns.map fun f => { fn := f, kind := kind, gtime := s.gtime, d0 := d0, d1 := 0 }) ∧
    t.reserve = s.reserve ∧ t.evHeld = s.evHeld ∧ t.lostn = s.lostn

/-- Host physical address h lies at offset o of region 0x2: in the first range of the table that the offset reaches (R456). -/
def ShownAt (l : List (Nat × Nat)) (h o : Nat) : Prop :=
  ∃ i x, l[i]? = some x ∧ x.1 ≤ h ∧ h < x.1 + x.2 ∧ o = ((l.take i).map Prod.snd).sum + (h - x.1)

/-- The failing access of a link request, the only one of a context that runs alone and waits for it: `rest` are the accesses of others (R458). -/
structure LoneRequest (s : State) (a : Access) (c : Ctx) (rest : List Access) : Prop where
  here : s.findCtx a.agent = some c
  own : a.lane = a.agent
  waits : c.st = .parked .check
  only : (s.accesses.filter fun b => decide (b.agent = a.agent)) = [a]
  others : rest = s.accesses.filter fun b => !decide (b.agent = a.agent)
  traps : Trappable s a.agent
  pause : s.paused a.agent.cl = false
  kind : a.op.isPf = false

/-- A write or reduction of an agent on its way outside the package has failed (R412, R455, R458): the release at SYS scope that waits for it will raise PROTECTION
with its VA; where none waits, a WRITE_LOST event names the VA. v is the state without the request. -/
def FarWriteLost (agent : CtxId) (va : Nat) (v t : State) : Prop :=
  let lead := v.leader agent
  ((∃ x, (v.ctx lead).st = .waiting (.performed .sys) x) → (v.findCtx lead).isSome → (v.ctx lead).lostWrite = none →
    (t.ctx lead).lostWrite = some (BitVec.ofNat 64 va) ∧ t = { v with freeCtr := v.freeCtr + 1, ctxs := t.ctxs }) ∧
  (∀ p, ¬ (∃ x, (v.ctx lead).st = .waiting (.performed .sys) x) → v.partOf agent.cl = some p →
    (v.events.filter fun e => decide (e.fn = p.num + 1)).length < 256 →
    ∃ peer, t = { v with
      freeCtr := v.freeCtr + 1
      events := v.events ++ [{ fn := p.num + 1, kind := 5, gtime := v.gtime, d0 := BitVec.ofNat 64 va, d1 := peer }] })

end Sys2Proof.Machine
end

