-- ==== Sys2Proof/Certificates/Slice0/Obligations.lean ====
section
/-! DEFINITION. Sys2Proof/Certificates/Slice0/Obligations.lean: the statements for the provers. Each one's docstring names the rules of spec/ that it
formalises, or says that it is derived. Runs, Fixed, LongReg and their like are defined in Sys2Proof/Safety.lean. -/

open Sys2Proof Sys2Proof.Machine

/-! ### Registers, integer instructions -/

/-- R17, R198: g0 reads zero and p0 reads true in every lane, and a write to either is discarded. -/
def Obligations.FixedRegisters : Prop := ∀ (s : State) (l : CtxId) (v : Word) (b : Bool),
  s.rg l 0 = 0 ∧ s.rp l 0 = true ∧ s.wg l 0 v = s ∧ s.wp l 0 b = s

/-- R199, R200: the INT-R functions in every active lane, SAT clear and set, and what stays; the counts, the reversals and the bit fields by the bits
of their results; the function values and fields of the major that raise ILLEGAL. -/
def Obligations.IntegerRegisterResults : Prop :=
  (∀ (s : State) (sm : Bool) (d a b : Reg) (p : PReg),
  let x := fun l => s.rg l a
  let y := fun l => s.rg l b
  let n := fun l => (s.rg l b).toNat % 64
  Fixed (.add sm d a b false) sm d (fun l => x l + y l) s ∧
  Fixed (.sub sm d a b false) sm d (fun l => x l - y l) s ∧
  Fixed (.add sm d a b true) sm d (fun l => BitVec.ofInt 64 (max (-2 ^ 63) (min (2 ^ 63 - 1) ((x l).toInt + (y l).toInt)))) s ∧
  Fixed (.sub sm d a b true) sm d (fun l => BitVec.ofInt 64 (max (-2 ^ 63) (min (2 ^ 63 - 1) ((x l).toInt - (y l).toInt)))) s ∧
  Fixed (.and sm d a b) sm d (fun l => x l &&& y l) s ∧
  Fixed (.or sm d a b) sm d (fun l => x l ||| y l) s ∧
  Fixed (.xor sm d a b) sm d (fun l => x l ^^^ y l) s ∧
  Fixed (.andn sm d a b) sm d (fun l => x l &&& ~~~y l) s ∧
  Fixed (.orn sm d a b) sm d (fun l => x l ||| ~~~y l) s ∧
  Fixed (.sll sm d a b) sm d (fun l => x l <<< n l) s ∧
  Fixed (.srl sm d a b) sm d (fun l => x l >>> n l) s ∧
  Fixed (.sra sm d a b) sm d (fun l => (x l).sshiftRight (n l)) s ∧
  Fixed (.rol sm d a b) sm d (fun l => (x l).rotateLeft (n l)) s ∧
  Fixed (.ror sm d a b) sm d (fun l => (x l).rotateRight (n l)) s ∧
  Fixed (.slt sm d a b) sm d (fun l => if (x l).toInt < (y l).toInt then 1 else 0) s ∧
  Fixed (.sltu sm d a b) sm d (fun l => if (x l).toNat < (y l).toNat then 1 else 0) s ∧
  Fixed (.min sm d a b) sm d (fun l => if (x l).toInt ≤ (y l).toInt then x l else y l) s ∧
  Fixed (.max sm d a b) sm d (fun l => if (x l).toInt ≤ (y l).toInt then y l else x l) s ∧
  Fixed (.minn sm d a b) sm d (fun l => if (x l).toNat ≤ (y l).toNat then x l else y l) s ∧
  Fixed (.maxn sm d a b) sm d (fun l => if (x l).toNat ≤ (y l).toNat then y l else x l) s ∧
  Fixed (.sextB sm d a) sm d (fun l => ((x l).setWidth 8).signExtend 64) s ∧
  Fixed (.sextH sm d a) sm d (fun l => ((x l).setWidth 16).signExtend 64) s ∧
  Fixed (.sextW sm d a) sm d (fun l => ((x l).setWidth 32).signExtend 64) s ∧
  Fixed (.zextW sm d a) sm d (fun l => ((x l).setWidth 32).setWidth 64) s ∧
  Fixed (.sel sm d a b p) sm d (fun l => if s.rp l p then x l else y l) s) ∧
  (∀ (s : State) (sm : Bool) (d a : Reg),
  let x := fun l => s.rg l a
  (∃ v, Fixed (.clz sm d a) sm d v s ∧ ∀ l, (v l).toNat ≤ 64 ∧ (∀ i, 64 - (v l).toNat ≤ i → i < 64 → (x l).getLsbD i = false) ∧
    ((v l).toNat < 64 → (x l).getLsbD (63 - (v l).toNat) = true)) ∧
  (∃ v, Fixed (.ctz sm d a) sm d v s ∧ ∀ l, (v l).toNat ≤ 64 ∧ (∀ i, i < (v l).toNat → (x l).getLsbD i = false) ∧
    ((v l).toNat < 64 → (x l).getLsbD (v l).toNat = true)) ∧
  (∃ v, Fixed (.pop sm d a) sm d v s ∧ ∀ l, (v l).toNat = (List.range 64).countP fun i => (x l).getLsbD i) ∧
  (∃ v, Fixed (.brev sm d a) sm d v s ∧ ∀ l i, i < 64 → (v l).getLsbD i = (x l).getLsbD (63 - i)) ∧
  (∃ v, Fixed (.bswap sm d a) sm d v s ∧ ∀ l i, i < 64 → (v l).getLsbD i = (x l).getLsbD (8 * (7 - i / 8) + i % 8))) ∧
  (∀ (s : State) (sm : Bool) (d a b : Reg),
  let pos := fun l => (s.rg l b).toNat % 64
  let len := fun l => min ((s.rg l b).toNat / 256 % 128) (64 - pos l)
  (∃ v, Fixed (.bfx sm d a b) sm d v s ∧ ∀ l i, i < 64 → (v l).getLsbD i = (decide (i < len l) && (s.rg l a).getLsbD (pos l + i))) ∧
  (∃ v, Fixed (.bfi sm d a b) sm d v s ∧ ∀ l i, i < 64 → (v l).getLsbD i =
    if pos l ≤ i ∧ i < pos l + len l then (s.rg l a).getLsbD (i - pos l) else (s.rg l d).getLsbD i)) ∧
  ((∀ (sm t : Bool) (d a b : Reg) (p : PReg),
    let word := fun (d a b : Reg) (f : Nat) => some (sm.toNat * 2 ^ 31 + 2 ^ 25 + d.val * 2 ^ 20 + a.val * 2 ^ 15 + b.val * 2 ^ 10 + f)
    encode (.add sm d a b t) = word d a b (512 * t.toNat) ∧ encode (.sub sm d a b t) = word d a b (1 + 512 * t.toNat) ∧
    encode (.and sm d a b) = word d a b 0x2 ∧ encode (.or sm d a b) = word d a b 0x3 ∧ encode (.xor sm d a b) = word d a b 0x4 ∧
    encode (.andn sm d a b) = word d a b 0x5 ∧ encode (.orn sm d a b) = word d a b 0x6 ∧ encode (.sll sm d a b) = word d a b 0x7 ∧
    encode (.srl sm d a b) = word d a b 0x8 ∧ encode (.sra sm d a b) = word d a b 0x9 ∧ encode (.rol sm d a b) = word d a b 0xA ∧
    encode (.ror sm d a b) = word d a b 0xB ∧ encode (.slt sm d a b) = word d a b 0xC ∧ encode (.sltu sm d a b) = word d a b 0xD ∧
    encode (.min sm d a b) = word d a b 0xE ∧ encode (.max sm d a b) = word d a b 0xF ∧ encode (.minn sm d a b) = word d a b 0x10 ∧
    encode (.maxn sm d a b) = word d a b 0x11 ∧ encode (.clz sm d a) = word d a 0 0x12 ∧ encode (.ctz sm d a) = word d a 0 0x13 ∧
    encode (.pop sm d a) = word d a 0 0x14 ∧ encode (.brev sm d a) = word d a 0 0x15 ∧ encode (.bswap sm d a) = word d a 0 0x16 ∧
    encode (.sextB sm d a) = word d a 0 0x17 ∧ encode (.sextH sm d a) = word d a 0 0x18 ∧ encode (.sextW sm d a) = word d a 0 0x19 ∧
    encode (.zextW sm d a) = word d a 0 0x1A ∧ encode (.bfx sm d a b) = word d a b 0x1B ∧ encode (.bfi sm d a b) = word d a b 0x1C ∧
    encode (.sel sm d a b p) = word d a b (0x1D + 64 * p.val)) ∧
  ∀ w, fld w 25 6 = 1 →
    (0x1E ≤ fld w 0 6 ∨ (fld w 9 1 = 1 ∧ 2 ≤ fld w 0 6) ∨ (fld w 6 3 ≠ 0 ∧ fld w 0 6 ≠ 0x1D) ∨
      (fld w 10 5 ≠ 0 ∧ 0x12 ≤ fld w 0 6 ∧ fld w 0 6 ≤ 0x1A)) → decodeWord w = .error (.unassigned 1)) ∧
  (∀ s : State, fld s.subj.num 25 6 = 1 → Traps .illegalEncoding cILLEGAL s)

/-- R201: the immediate majors; SHI with IMM15[7:6] = 0b11 or a bit of IMM15[14:8] set raises ILLEGAL. -/
def Obligations.IntegerImmediateResults : Prop :=
  (∀ (s : State) (sm : Bool) (d a : Reg) (i : BitVec 15) (k : BitVec 14) (n : Fin 64) (h : Fin 16)
    (v : BitVec 16) (j : BitVec 20),
  let x := fun l => s.rg l a
  let m : Word := i.signExtend 64
  let c : Word := k.signExtend 64
  Fixed (.addi sm d a i) sm d (fun l => x l + m) s ∧
  Fixed (.andi sm d a i) sm d (fun l => x l &&& m) s ∧
  Fixed (.ori sm d a i) sm d (fun l => x l ||| m) s ∧
  Fixed (.xori sm d a i) sm d (fun l => x l ^^^ m) s ∧
  Fixed (.slli sm d a n) sm d (fun l => x l <<< n.val) s ∧
  Fixed (.srli sm d a n) sm d (fun l => x l >>> n.val) s ∧
  Fixed (.srai sm d a n) sm d (fun l => (x l).sshiftRight n.val) s ∧
  Fixed (.sltii sm d a k) sm d (fun l => if (x l).toInt < c.toInt then 1 else 0) s ∧
  Fixed (.sltin sm d a k) sm d (fun l => if (x l).toNat < c.toNat then 1 else 0) s ∧
  Fixed (.lih sm d h v) sm d (fun _ => BitVec.ofNat 64 (v.toNat * 2 ^ (4 * h.val))) s ∧
  Fixed (.adpc sm d j) sm d (fun _ => (s.ctx s.cur).pc + j.signExtend 64 * 2 ^ 14) s) ∧
  (∀ w, fld w 25 6 = 6 → (fld w 6 2 = 3 ∨ fld w 8 7 ≠ 0) → decodeWord w = .error (.unassigned 6)) ∧
  (∀ s : State, fld s.subj.num 25 6 = 6 → Traps .illegalEncoding cILLEGAL s)

/-- R90, R202: the products, and the quotients and remainders in every lane whose divisor is not zero or whose MODE.DZT is clear: truncated toward
zero, all ones and the dividend for a divisor of zero; each 64 bits wide, or under .w 32 bits wide and sign-extended. -/
def Obligations.ProductsAndQuotients : Prop :=
  (∀ (s : State) (sm : Bool) (d a b : Reg),
  let x := fun l => s.rg l a
  let y := fun l => s.rg l b
  let xw := fun l => (s.rg l a).setWidth 32
  let yw := fun l => (s.rg l b).setWidth 32
  LongReg (.mul sm d a b false) sm d (fun l => x l * y l) s ∧
  LongReg (.mul sm d a b true) sm d (fun l => (xw l * yw l).signExtend 64) s ∧
  LongReg (.mulh sm d a b false) sm d (fun l => BitVec.ofInt 64 ((x l).toInt * (y l).toInt / 2 ^ 64)) s ∧
  LongReg (.mulh sm d a b true) sm d (fun l => BitVec.ofInt 64 ((xw l).toInt * (yw l).toInt / 2 ^ 32)) s ∧
  LongReg (.mulhn sm d a b false) sm d (fun l => BitVec.ofNat 64 ((x l).toNat * (y l).toNat / 2 ^ 64)) s ∧
  LongReg (.mulhn sm d a b true) sm d (fun l => (BitVec.ofNat 32 ((xw l).toNat * (yw l).toNat / 2 ^ 32)).signExtend 64) s) ∧
  (∀ (s : State) (sm : Bool) (d a b : Reg),
  let x := fun l => s.rg l a
  let y := fun l => s.rg l b
  let xw := fun l => (s.rg l a).setWidth 32
  let yw := fun l => (s.rg l b).setWidth 32
  ((∀ l ∈ s.lanes s.cur, y l = 0 → (s.ctx l).mode.getLsbD 0 = false) →
    LongReg (.div sm d a b false) sm d (fun l => if y l = 0 then -1 else (x l).sdiv (y l)) s ∧
    LongReg (.divn sm d a b false) sm d (fun l => if y l = 0 then -1 else (x l).udiv (y l)) s ∧
    LongReg (.rem sm d a b false) sm d (fun l => if y l = 0 then x l else (x l).srem (y l)) s ∧
    LongReg (.remn sm d a b false) sm d (fun l => if y l = 0 then x l else (x l).umod (y l)) s) ∧
  ((∀ l ∈ s.lanes s.cur, yw l = 0 → (s.ctx l).mode.getLsbD 0 = false) →
    LongReg (.div sm d a b true) sm d (fun l => (if yw l = 0 then -1 else (xw l).sdiv (yw l)).signExtend 64) s ∧
    LongReg (.divn sm d a b true) sm d (fun l => (if yw l = 0 then -1 else (xw l).udiv (yw l)).signExtend 64) s ∧
    LongReg (.rem sm d a b true) sm d (fun l => (if yw l = 0 then xw l else (xw l).srem (yw l)).signExtend 64) s ∧
    LongReg (.remn sm d a b true) sm d (fun l => (if yw l = 0 then xw l else (xw l).umod (yw l)).signExtend 64) s))

/-- R81, R90, R180, R204: a division by zero under MODE.DZT traps with INT_DIV0, gA in EVAL (R478), and writes no result; a context that runs alone.
An invalid operation under MODE.FPT traps with FP; a context that runs alone. It rests on choices of the model: log entry 136. -/
def Obligations.ArithmeticTraps : Prop :=
  (∀ (s : State) (sm : Bool) (d a b : Reg), (s.ctx s.cur).mode.getLsbD 0 = true →
  (s.rg s.cur b = 0 →
    TrapsWith (.div sm d a b false) cINT_DIV0 0 (s.rg s.cur a) s ∧ TrapsWith (.divn sm d a b false) cINT_DIV0 0 (s.rg s.cur a) s ∧
    TrapsWith (.rem sm d a b false) cINT_DIV0 0 (s.rg s.cur a) s ∧ TrapsWith (.remn sm d a b false) cINT_DIV0 0 (s.rg s.cur a) s) ∧
  ((s.rg s.cur b).setWidth 32 = 0 →
    TrapsWith (.div sm d a b true) cINT_DIV0 0 (s.rg s.cur a) s ∧ TrapsWith (.divn sm d a b true) cINT_DIV0 0 (s.rg s.cur a) s ∧
    TrapsWith (.rem sm d a b true) cINT_DIV0 0 (s.rg s.cur a) s ∧ TrapsWith (.remn sm d a b true) cINT_DIV0 0 (s.rg s.cur a) s)) ∧
  (∀ (s : State) (sm : Bool) (d a b : Reg) (r : Fin 4) (z t : Bool), (s.ctx s.cur).mode.getLsbD 1 = true →
  let f := if t then FFmt.f64 else FFmt.f32
  let m := rmodeOf r.val
  let x := operand f z (s.rg s.cur a).toNat
  let y := operand f z (s.rg s.cur b).toNat
  let c := operand f z (s.rg s.cur d).toNat
  (fpInvalid .add m x y c = true → Traps (.fadd sm d a b r z t) cFP s) ∧
  (fpInvalid .sub m x y c = true → Traps (.fsub sm d a b r z t) cFP s) ∧
  (fpInvalid .mul m x y c = true → Traps (.fmul sm d a b r z t) cFP s) ∧
  (fpInvalid .fma m x y c = true → Traps (.fma sm d a b r z t) cFP s) ∧
  (fpInvalid .div m x y c = true → Traps (.fdiv sm d a b r z t) cFP s) ∧
  (fpInvalid .sqrt m x x c = true → Traps (.fsqrt sm d a r z t) cFP s))

/-! ### Floating point -/

/-- R77, R82, R83, R84, R203, R204, R206, R207: the arithmetic of FP-R in every active lane, where no lane has an invalid operation under MODE.FPT:
RoundToFormat, with saturation off, of the exact result, in the low bits of gD. The other instructions of FP-R: `fmin` and `fmax`, `fsign`, which
takes the magnitude of gA and the sign that its mode chooses, and `fclass`, whose class word is given by the fields of gA. `fcvt` by the kinds of its
types, for the encodings that R207 admits, where no lane converts a NaN under MODE.FPT: between formats one rounding, with the saturation that X
selects and both operand and result flushed under .ftz; into an integer rounding and clamping, NaN giving 0; out of an integer its value rounded; i64
to i32 wrapping or clamping, i32 to i64 sign-extending. -/
def Obligations.FloatArithmetic : Prop :=
  (∀ (s : State) (sm : Bool) (d a b : Reg) (r : Fin 4) (z t : Bool),
  let f := if t then FFmt.f64 else FFmt.f32
  let m := rmodeOf r.val
  let x := fun l => operand f z (s.rg l a).toNat
  let y := fun l => operand f z (s.rg l b).toNat
  let c := fun l => operand f z (s.rg l d).toNat
  let quiet := fun (op : FpOp) (x y c : CtxId → Ex) => ∀ l ∈ s.lanes s.cur, (s.ctx l).mode.getLsbD 1 = true → fpInvalid op m (x l) (y l) (c l) = false
  let value := fun (e : Ex) => BitVec.ofNat 64 (result f m false z e)
  (quiet .add x y c → LongReg (.fadd sm d a b r z t) sm d (fun l => value (Ex.add m (x l) (y l))) s) ∧
  (quiet .sub x y c → LongReg (.fsub sm d a b r z t) sm d (fun l => value (Ex.add m (x l) (y l).neg)) s) ∧
  (quiet .mul x y c → LongReg (.fmul sm d a b r z t) sm d (fun l => value (Ex.mul (x l) (y l))) s) ∧
  (quiet .fma x y c → LongReg (.fma sm d a b r z t) sm d (fun l => value (Ex.add m (Ex.mul (x l) (y l)) (c l))) s) ∧
  (quiet .div x y c → LongReg (.fdiv sm d a b r z t) sm d (fun l => value (Ex.div (x l) (y l))) s) ∧
  (quiet .sqrt x x c → LongReg (.fsqrt sm d a r z t) sm d (fun l => value (Ex.sqrt (x l))) s)) ∧
  (∀ (s : State) (sm : Bool) (d a b : Reg) (m : Fin 4) (t : Bool),
  let f := if t then FFmt.f64 else FFmt.f32
  let w := if t then 64 else 32
  let frac := if t then 52 else 23
  let bias := if t then 1023 else 127
  let top := if t then 2047 else 255
  LongReg (.fmin sm d a b t) sm d (fun l =>
    BitVec.ofNat 64 (roundTo f .rne false (Ex.minNum (operand f false (s.rg l a).toNat) (operand f false (s.rg l b).toNat)))) s ∧
  LongReg (.fmax sm d a b t) sm d (fun l =>
    BitVec.ofNat 64 (roundTo f .rne false (Ex.maxNum (operand f false (s.rg l a).toNat) (operand f false (s.rg l b).toNat)))) s ∧
  ((m = 3 → b = 0) → ∃ v, LongReg (.fsign sm d a b m t) sm d v s ∧ ∀ l i, i < 64 → (v l).getLsbD i =
    if i + 1 < w then (s.rg l a).getLsbD i
    else if i + 1 = w then
      (if m = 0 then (s.rg l b).getLsbD i else if m = 1 then !(s.rg l b).getLsbD i
       else if m = 2 then (s.rg l a).getLsbD i != (s.rg l b).getLsbD i else false)
    else false) ∧
  LongReg (.fclass sm d a t) sm d (fun l =>
    let x := (s.rg l a).toNat % 2 ^ w
    let e := x / 2 ^ frac % (top + 1)
    let n := x % 2 ^ frac
    let cls := if e = top then (if n = 0 then 3 else 4) else if e = 0 then (if n = 0 then 0 else 1) else 2
    let canonical := x = top * 2 ^ frac + 2 ^ (frac - 1)
    let integer := e ≠ top ∧ (if e = 0 then n else 2 ^ frac + n) % 2 ^ (bias + frac - max e 1) = 0
    BitVec.ofNat 64 (cls + (if x / 2 ^ (w - 1) = 1 then 8 else 0) + (if canonical then 16 else 0) + (if integer then 32 else 0))) s) ∧
  (∀ (s : State) (sm : Bool) (d a : Reg) (r : Fin 4) (cs ct : Fin 16) (x z : Bool),
  let m := rmodeOf r.val
  let quiet := fun f => ∀ l ∈ s.lanes s.cur, (s.ctx l).mode.getLsbD 1 = true → (operand f z (s.rg l a).toNat).isNan = false
  let sat := if 5 ≤ ct.val then !x else x
  let lo : Int := if ct = 8 then -2 ^ 63 else -2 ^ 31
  let hi : Int := if ct = 8 then 2 ^ 63 - 1 else 2 ^ 31 - 1
  (∀ f g, cs ≠ ct → (ct = 7 → x = false) → tyFmt cs.val = some f → tyFmt ct.val = some g → quiet f →
    LongReg (.fcvt sm d a cs x z r ct) sm d (fun l => BitVec.ofNat 64 (result g m sat z (operand f z (s.rg l a).toNat))) s) ∧
  (∀ f, ct = 8 ∨ ct = 9 → tyFmt cs.val = some f → quiet f →
    LongReg (.fcvt sm d a cs false z r ct) sm d (fun l => BitVec.ofInt 64 (match operand f z (s.rg l a).toNat with
      | .nan => 0
      | .inf neg => if neg then lo else hi
      | .fin neg n k => max lo (min hi (if neg then -(roundMag m true n k : Int) else roundMag m false n k)))) s) ∧
  (∀ g, cs = 8 ∨ cs = 9 → (ct = 7 → x = false) → tyFmt ct.val = some g →
    LongReg (.fcvt sm d a cs x z r ct) sm d (fun l => BitVec.ofNat 64 (result g m sat z
      (Ex.ofInt (if cs = 8 then (s.rg l a).toInt else ((s.rg l a).setWidth 32).toInt)))) s) ∧
  LongReg (.fcvt sm d a 8 false false 0 9) sm d (fun l => ((s.rg l a).setWidth 32).signExtend 64) s ∧
  LongReg (.fcvt sm d a 8 true false 0 9) sm d (fun l => BitVec.ofInt 64 (max (-2 ^ 31) (min (2 ^ 31 - 1) (s.rg l a).toInt))) s ∧
  LongReg (.fcvt sm d a 9 false false 0 8) sm d (fun l => ((s.rg l a).setWidth 32).signExtend 64) s)

/-- R203, R205: `fcmp` in every active lane. Neither operand below nor above the other is equality, so −0 equals +0. -/
def Obligations.FloatComparisons : Prop :=
  (∀ (s : State) (sm : Bool) (n : PReg) (a b : Reg) (c : Fin 8) (t : Bool),
  let f := if t then FFmt.f64 else FFmt.f32
  LongPred (.fcmp sm n a b c t) sm n (fun l =>
    let x := operand f false (s.rg l a).toNat
    let y := operand f false (s.rg l b).toNat
    let un := x.isNan || y.isNan
    let eq := !x.lt y && !y.lt x
    if c = 0 then !un && eq else if c = 1 then un || !eq else if c = 2 then !un && x.lt y else if c = 3 then !un && !y.lt x
    else if c = 4 then !un && y.lt x else if c = 5 then !un && !x.lt y else if c = 6 then un else !un) s) ∧
  (∀ (sm : Bool) (n : PReg) (a b : Reg) (c : Fin 8) (t : Bool), encode (.fcmp sm n a b c t) =
    some (sm.toNat * 2 ^ 31 + 0x0B * 2 ^ 25 + n.val * 2 ^ 20 + a.val * 2 ^ 15 + b.val * 2 ^ 10 + c.val * 2 ^ 5 + t.toNat * 2 ^ 4 + 10))

/-! ### Predicates -/

/-- R219: the PRED major: `pcmp` by its condition, and the four operations; what raises ILLEGAL. -/
def Obligations.PredicateResults : Prop :=
  (∀ (s : State) (sm : Bool) (n k j : PReg) (a b : Reg) (c : Fin 8), c.val < 6 →
  let x := fun l => s.rg l a
  let y := fun l => s.rg l b
  FixedPred (.pcmp sm n a b c) sm n (fun l =>
    if c = 0 then decide (x l = y l) else if c = 1 then decide (x l ≠ y l) else if c = 2 then decide ((x l).toInt < (y l).toInt)
    else if c = 3 then decide ((y l).toInt ≤ (x l).toInt) else if c = 4 then decide ((x l).toNat < (y l).toNat)
    else decide ((y l).toNat ≤ (x l).toNat)) s ∧
  FixedPred (.pand sm n k j) sm n (fun l => s.rp l k && s.rp l j) s ∧
  FixedPred (.por sm n k j) sm n (fun l => s.rp l k || s.rp l j) s ∧
  FixedPred (.pxor sm n k j) sm n (fun l => s.rp l k != s.rp l j) s ∧
  FixedPred (.pnot sm n k) sm n (fun l => !s.rp l k) s) ∧
  ((∀ (sm : Bool) (n k j : PReg) (a b : Reg) (c : Fin 8),
    let word := fun (x y f : Nat) => some (sm.toNat * 2 ^ 31 + 0x17 * 2 ^ 25 + n.val * 2 ^ 20 + x * 2 ^ 15 + y * 2 ^ 10 + f)
    encode (.pcmp sm n a b c) = word a.val b.val c.val ∧ encode (.pand sm n k j) = word k.val j.val 64 ∧ encode (.por sm n k j) = word k.val j.val 128 ∧
    encode (.pxor sm n k j) = word k.val j.val 192 ∧ encode (.pnot sm n k) = word k.val 0 256) ∧
  ∀ w, fld w 25 6 = 0x17 →
    (fld w 23 2 ≠ 0 ∨ fld w 3 3 ≠ 0 ∨ 5 ≤ fld w 6 4 ∨ (fld w 6 4 = 0 ∧ 6 ≤ fld w 0 3) ∨
      (1 ≤ fld w 6 4 ∧ (fld w 18 2 ≠ 0 ∨ fld w 13 2 ≠ 0 ∨ fld w 0 3 ≠ 0)) ∨ (fld w 6 4 = 4 ∧ fld w 10 5 ≠ 0)) →
    ∃ e, decodeWord w = .error e) ∧
  (∀ s : State, fld s.subj.num 25 6 = 0x17 → Traps .illegalEncoding cILLEGAL s)

/-! ### Branches, jumps, divergence -/

/-- R43, R45, R49, R215, R216: a branch whose condition is the same in every active lane goes on at its target or at the next word, alone or as a
group, and disarms the group's join address. `jal` and `jalr` write the address of the next word and go on at their target, which `jalr` reads before
it writes; a misaligned target of `jalr` traps. A group whose active lanes have different targets splits, with every link written; where some of the
targets are misaligned, those lanes trap with their target in EVAL and no link, and the others go on at theirs. -/
def Obligations.BranchesAndJumps : Prop :=
  (∀ (s : State) (c : Ctx) (sm v : Bool) (a b : Reg) (p : PReg) (o : BitVec 15) (q : BitVec 21),
  s.findCtx s.cur = some c →
  let x := fun l => s.rg l a
  let y := fun l => s.rg l b
  let goes := fun (i : Instr) (target : Word) (cond : CtxId → Bool) =>
    Agrees s cond v → Runs i s (Branched sm (if v then target else c.pc + 4) s)
  let near := c.pc + 4 * o.signExtend 64
  let far := c.pc + 4 * q.signExtend 64
  goes (.beq sm a b o) near (fun l => decide (x l = y l)) ∧
  goes (.bne sm a b o) near (fun l => decide (x l ≠ y l)) ∧
  goes (.blt sm a b o) near (fun l => decide ((x l).toInt < (y l).toInt)) ∧
  goes (.bge sm a b o) near (fun l => decide ((y l).toInt ≤ (x l).toInt)) ∧
  goes (.bltu sm a b o) near (fun l => decide ((x l).toNat < (y l).toNat)) ∧
  goes (.bgeu sm a b o) near (fun l => decide ((y l).toNat ≤ (x l).toNat)) ∧
  goes (.bp sm p q) far (fun l => s.rp l p) ∧
  goes (.bnp sm p q) far (fun l => !s.rp l p)) ∧
  (∀ (s : State) (c : Ctx) (sm : Bool) (d a : Reg) (o : BitVec 20) (i : BitVec 15) (target : Word),
  s.findCtx s.cur = some c →
  Runs (.jal sm d o) s (WroteReg sm d (fun _ => c.pc + 4) (c.pc + 4 * o.signExtend 64) s) ∧
  ((∀ l ∈ s.lanes s.cur, s.rg l a + i.signExtend 64 = target) → s.lanes s.cur ≠ [] → target.toNat % 4 = 0 →
    Runs (.jalr sm d a i) s (WroteReg sm d (fun _ => c.pc + 4) target s)) ∧
  ((s.rg s.cur a + i.signExtend 64).toNat % 4 ≠ 0 → TrapsWith (.jalr sm d a i) cMISALIGN 0 (s.rg s.cur a + i.signExtend 64) s) ∧
  (∀ g, s.groupOf s.cur = some g → (s.findCtx ⟨g.cl, g.base, g.slot⟩).isSome →
    let t := fun l => s.rg l a + i.signExtend 64
    let good := fun l => decide ((t l).toNat % 4 = 0)
    let file := fun (l : CtxId) (r : Reg) =>
      if r = d ∧ d ≠ 0 ∧ (if d.val < 16 then l ∈ s.lanes s.cur ∧ good l = true else (s.lanes s.cur).any good = true) then c.pc + 4 else (s.ctx l).g.get r
    ((s.lanes s.cur).all good = true → (∃ l ∈ s.lanes s.cur, ∃ k ∈ s.lanes s.cur, t l ≠ t k) →
      Runs (.jalr sm d a i) s (SplitTo g sm t (fun _ => none) file s)) ∧
    (CleanTraps s → (s.lanes s.cur).all good = false →
      Runs (.jalr sm d a i) s (SplitTo g sm t (fun l => if good l then none else some (cMISALIGN, some (t l))) file s))))

/-- R43, R45, R46: a branch that some active lanes take and others do not, under an armed join and with room on the stack, pushes an entry: the taken
lanes run first, the others are Held at the next word. With no join armed, or with four entries on the stack, the group splits: every lane goes on
alone, at the target or at the next word. -/
def Obligations.DivergentBranches : Prop := ∀ (s : State) (c : Ctx) (g : Group) (j : Word) (T : BitVec 16) (sm : Bool) (a b : Reg) (p : PReg)
    (o : BitVec 15) (q : BitVec 21),
  s.findCtx s.cur = some c → s.groupOf s.cur = some g → T ≠ g.lm → T ≠ 0 →
  let x := fun l => s.rg l a
  let y := fun l => s.rg l b
  let goes := fun (i : Instr) (target : Word) (cond : CtxId → Bool) => Takes g cond T →
    (g.armed = some j → g.stack.length < 4 → Runs i s (Diverged g j target T s)) ∧
    (g.armed = none ∨ 4 ≤ g.stack.length →
      Runs i s (SplitTo g sm (fun l => if cond l then target else c.pc + 4) (fun _ => none) (fun l r => (s.ctx l).g.get r) s))
  let near := c.pc + 4 * o.signExtend 64
  let far := c.pc + 4 * q.signExtend 64
  goes (.beq sm a b o) near (fun l => decide (x l = y l)) ∧
  goes (.bne sm a b o) near (fun l => decide (x l ≠ y l)) ∧
  goes (.blt sm a b o) near (fun l => decide ((x l).toInt < (y l).toInt)) ∧
  goes (.bge sm a b o) near (fun l => decide ((y l).toInt ≤ (x l).toInt)) ∧
  goes (.bltu sm a b o) near (fun l => decide ((x l).toNat < (y l).toNat)) ∧
  goes (.bgeu sm a b o) near (fun l => decide ((y l).toNat ≤ (x l).toNat)) ∧
  goes (.bp sm p q) far (fun l => s.rp l p) ∧
  goes (.bnp sm p q) far (fun l => !s.rp l p)

/-- R42, R43, R44, R47, R48, R217, R218: `rcv` arms the join address of a fused group, in place of an earlier one, and does nothing else; elsewhere it
only goes on. `join` only goes on away from the group's or the record's join. At it, the pending lanes of a group run next; when they come there, or
when none of them is left, the lanes of the entry go on together behind it. A split lane waits at its join while other lanes that were active are not
there; with the last of them the contexts of the record are a fused group again (R48). `exit` waits while something of its lanes is outstanding. Then
a context that runs alone releases its slot, and nothing else while its team has other contexts; a split lane leaves the record of the others, too.
The last active lanes of a fused group end it; where others are pending, those run next. It rests on choices of the model: log entries 15 and 19. -/
def Obligations.JoinsAndExits : Prop :=
  (∀ (s : State) (c : Ctx) (sm : Bool) (o : BitVec 15), s.findCtx s.cur = some c →
  let only := fun t => Moved sm (c.pc + 4) s t ∧ t = { s with ctxs := t.ctxs }
  (∀ g, s.groupOf s.cur = some g → Runs (.rcv sm o) s fun t =>
    Moved sm (c.pc + 4) s t ∧ t = { s with ctxs := t.ctxs, groups := (s.setGroup { g with armed := some (c.pc + 4 * o.signExtend 64) }).groups }) ∧
  (s.groupOf s.cur = none → Runs (.rcv sm o) s only) ∧
  (s.groupOf s.cur = none → (∀ r, c.rcd = some r → ∀ e l, r.stack = e :: l → e.j ≠ c.pc) → Runs (.join sm) s only) ∧
  (∀ r e l, s.groupOf s.cur = none → c.rcd = some r → r.stack = e :: l → e.j = c.pc →
    ((sm && s.mustPark s.cur) = true → Runs (.join sm) s fun t => t = s.stay (.parked .results)) ∧
    ((sm && s.mustPark s.cur) = false → r.members ≠ 0 → c.rcd.map Record.base = some r.base →
      (∃ m ∈ s.ctxs, m.id ≠ s.cur ∧ m.id.cl = c.id.cl ∧ m.id.slot = c.id.slot ∧ m.rcd = some r ∧ r.a.getLsbD (m.id.pipe - r.base) = true ∧
        ∀ n, m.st ≠ .waiting .joinAt n) →
      (∀ m ∈ s.ctxs, m.id.cl = c.id.cl → m.id.slot = c.id.slot → ∀ q, m.rcd = some q → q.base = r.base → q = r) →
      Runs (.join sm) s fun t => t = s.waitFor .joinAt) ∧
    ((sm && s.mustPark s.cur) = false → r.members ≠ 0 → e.taken ||| e.pend ≠ 0 →
      (∀ m ∈ s.ctxs, ∀ q, inRecord c.id.cl c.id.slot r.base m = true → m.rcd = some q → q = r) →
      (∀ m ∈ s.ctxs, inRecord c.id.cl c.id.slot r.base m = true → m.id ≠ s.cur → r.a.getLsbD (m.id.pipe - r.base) = true → ∃ n, m.st = .waiting .joinAt n) →
      Runs (.join sm) s fun t => ∀ id m, s.findCtx id = some m → inRecord c.id.cl c.id.slot r.base m = true →
        ∃ n, t.findCtx id = some n ∧ n.grp = some r.base ∧ n.rcd = none)) ∧
  (∀ g, s.groupOf s.cur = some g → (∀ e r, g.stack = e :: r → e.j ≠ c.pc) → Runs (.join sm) s only) ∧
  (∀ g e r, s.groupOf s.cur = some g → s.cur.pipe = g.base → g.stack = e :: r → e.j = c.pc →
    let next := fun (lm : BitVec 16) (stack : List DivEntry) (pc : Word) => Runs (.join sm) s fun t =>
      t.groupOf s.cur = some { g with lm := lm, stack := stack } ∧ (t.ctx s.cur).pc = pc ∧
      ((t.ctx s.cur).st = .ready ∨ sm = true ∧ (t.ctx s.cur).st = .parked .results) ∧
      (∀ id, (t.ctx id).g = (s.ctx id).g ∧ (t.ctx id).p = (s.ctx id).p ∧ (t.ctx id).grp = (s.ctx id).grp ∧
        ((s.ctx id).grp ≠ some g.base ∨ id.cl ≠ g.cl ∨ id.slot ≠ g.slot → (t.ctx id).st = (s.ctx id).st ∧ (t.ctx id).pc = (s.ctx id).pc)) ∧
      t = { s with ctxs := t.ctxs, groups := t.groups, longs := t.longs } ∧ t.longs.map (fun l => (l.dst, l.dest)) = s.longs.map fun l => (l.dst, l.dest)
    (e.phaseN = false → e.pend ≠ 0 → next e.pend ({ e with phaseN := true } :: r) e.pendPc) ∧
    (e.phaseN = false → e.pend = 0 → e.taken ≠ 0 → next e.taken r (c.pc + 4)) ∧
    (e.phaseN = true → e.taken ||| e.pend ≠ 0 → next (e.taken ||| e.pend) r (c.pc + 4)))) ∧
  (∀ (s : State) (c : Ctx) (sm : Bool), s.findCtx s.cur = some c →
  (s.drained s.cur = false → Runs (.exit sm) s fun t => t = s.waitFor .drained) ∧
  (s.drained s.cur = true → c.grp = none → c.rcd = none → s.poisonOf s.cur = none →
    Runs (.exit sm) s (fun t => t.findCtx s.cur = none ∧ ∀ j, j ≠ s.cur → t.findCtx j = s.findCtx j) ∧
    ((∀ m, s.teamOf s.cur = some m → ∃ o ∈ s.ctxs, o.id ≠ s.cur ∧ o.id.cl = m.cl ∧ o.team = some m.num) → Runs (.exit sm) s fun t =>
      t = { s with ctxs := t.ctxs, teams := t.teams, longs := t.longs, accesses := t.accesses, faults := t.faults, clusters := t.clusters })) ∧
  (∀ r, s.drained s.cur = true → c.grp = none → c.rcd = some r → s.poisonOf s.cur = none → s.cur.pipe ≠ r.base → r.stack = [] →
    r.members &&& ~~~laneBit (s.cur.pipe - r.base) ≠ 0 → (∀ m ∈ s.ctxs, ∀ q, inRecord s.cur.cl s.cur.slot r.base m = true → m.rcd = some q → q = r) →
    (∃ m ∈ s.ctxs, m.id ≠ s.cur ∧ inRecord s.cur.cl s.cur.slot r.base m = true) →
    Runs (.exit sm) s fun t => t.findCtx s.cur = none ∧ ∀ j m, j ≠ s.cur → s.findCtx j = some m →
      t.findCtx j = some (if inRecord s.cur.cl s.cur.slot r.base m then
        { m with rcd := some { r with members := r.members &&& ~~~laneBit (s.cur.pipe - r.base), a := r.a &&& ~~~laneBit (s.cur.pipe - r.base) } } else m)) ∧
  (∀ g, s.drained s.cur = true → s.groupOf s.cur = some g → (∀ l ∈ s.lanes s.cur, s.poisonOf l = none) → g.stack = [] →
    Runs (.exit sm) s fun t => ∀ m ∈ s.ctxs, inGroup g m = true → t.findCtx m.id = none) ∧
  (∀ g e r, s.drained s.cur = true → s.groupOf s.cur = some g → s.cur.pipe = g.base → (∀ l ∈ s.lanes s.cur, s.poisonOf l = none) → g.stack = e :: r →
    e.phaseN = false → e.pend &&& ~~~g.lm ≠ 0 → Runs (.exit sm) s fun t =>
      let leave := fun (x : DivEntry) => { x with pend := x.pend &&& ~~~g.lm, taken := x.taken &&& ~~~g.lm }
      t.groupOf s.cur = some { g with
        members := g.members &&& ~~~g.lm, lm := e.pend &&& ~~~g.lm, stack := { leave e with phaseN := true } :: r.map leave } ∧
      (t.ctx s.cur).pc = e.pendPc ∧ ∀ m ∈ s.ctxs, inGroup g m = true → m.id.pipe ≠ g.base → g.base ≤ m.id.pipe → g.lm.getLsbD (m.id.pipe - g.base) = true →
        (t.ctx m.id).st = .exited))

/-- R37 to R39, R45, R46, R49: a context at `fuse w` whose candidate group has arrived becomes part of a fused group with every lane active, whose
leader goes on; while the others are missing it waits. FUSE traps: in a context of a fused or a split group, with whoever has arrived in its candidate
group; in every context that has arrived where the width is none of 2, 4, 8 and 16, a candidate is missing or belongs to another team or role, one
waits with another width, or the role has M and the width is not 4. `split` makes a convergent fused group single contexts, each with the group's
record, its uniform registers and its own pc behind the `split`; a context that runs alone only goes on. With some lanes not active or an entry on the
stack, FUSE is raised in every active lane. It rests on choices of the model: log entries 14 and 65. -/
def Obligations.FusingAndSplitting : Prop :=
  (∀ (s : State) (c : Ctx) (sm : Bool) (w : Fin 32), s.findCtx s.cur = some c →
  let u := s.waitFor (.fuse w.val)
  let base := s.cur.pipe - s.cur.pipe % w.val
  let width := w.val = 2 ∨ w.val = 4 ∨ w.val = 8 ∨ w.val = 16
  (CleanTraps s → (∀ m ∈ s.ctxs, m.fusing.isSome → m.grp = none) → (∀ l ∈ s.lanes s.cur, (s.ctx l).fusing = none) →
    let beside := fun (m : Ctx) => m.fusing.isSome ∧ width ∧
      ∃ i ∈ s.lanes s.cur, m.id.cl = i.cl ∧ m.id.slot = i.slot ∧ m.id ≠ i ∧ m.id.pipe - m.id.pipe % w.val = i.pipe - i.pipe % w.val
    (c.rcd.isSome → c.grp = none → Runs (.fuse sm w) s (AllTrapped cFUSE (fun m => m.id = s.cur ∨ beside m) s)) ∧
    (∀ g, s.groupOf s.cur = some g → GroupTraps (.fuse sm w) cFUSE g s ∧ Runs (.fuse sm w) s (AllTrapped cFUSE beside s))) ∧
  (c.grp = none → c.rcd = none → (sm && s.mustPark s.cur) = false → CleanTraps s →
    (¬ width ∨ (c.role.getLsbD 1 = true ∧ w.val ≠ 4) ∨ ∃ k, k < w.val ∧ match u.findCtx ⟨s.cur.cl, base + k, s.cur.slot⟩ with
      | none => True
      | some m => m.team ≠ c.team ∨ m.role ≠ c.role ∨ ∃ v, m.fusing = some v ∧ v ≠ w.val) →
    Runs (.fuse sm w) s (AllTrapped cFUSE (fun m => m.fusing.isSome ∧ m.id.cl = s.cur.cl ∧ m.id.slot = s.cur.slot ∧
      (m.id = s.cur ∨ (w.val ≠ 0 ∧ m.id.pipe - m.id.pipe % w.val = base))) u)) ∧
  (c.grp = none → c.rcd = none → (sm && s.mustPark s.cur) = false → u.fuseTraps s.cur.cl s.cur.slot = [] →
  ((∀ m ∈ u.candidates s.cur w.val, m.bind Ctx.fusing = some w.val) → Runs (.fuse sm w) s fun t =>
    t.groups = s.groups ++ [{ cl := s.cur.cl, base := base, slot := s.cur.slot, width := w.val, members := BitVec.ofNat 16 (2 ^ w.val - 1)
                              lm := BitVec.ofNat 16 (2 ^ w.val - 1) }] ∧
    ∀ k, k < w.val → ∀ m, s.findCtx ⟨s.cur.cl, base + k, s.cur.slot⟩ = some m → ∃ n, t.findCtx ⟨s.cur.cl, base + k, s.cur.slot⟩ = some n ∧
      n.grp = some base ∧ n.lane = k ∧ n.st = .ready ∧ n.g = m.g ∧ n.p = m.p ∧ n.pc = if k = 0 then m.pc + 4 else m.pc) ∧
  ((∃ m ∈ u.candidates s.cur w.val, m.bind Ctx.fusing ≠ some w.val) → Runs (.fuse sm w) s fun t => t = u))) ∧
  (∀ (s : State) (c : Ctx) (sm : Bool), s.findCtx s.cur = some c →
  (s.groupOf s.cur = none → Runs (.split sm) s fun t => Moved sm (c.pc + 4) s t ∧ t = { s with ctxs := t.ctxs }) ∧
  (∀ g, s.groupOf s.cur = some g → g.lm ≠ g.members ∨ g.stack ≠ [] → CleanTraps s → GroupTraps (.split sm) cFUSE g s) ∧
  (∀ g, s.groupOf s.cur = some g → g.lm = g.members → g.stack = [] → Runs (.split sm) s fun t =>
    ∀ k, k < 16 → g.members.getLsbD k = true → ∀ m, s.findCtx ⟨g.cl, g.base + k, g.slot⟩ = some m → m.grp = some g.base →
      ∃ n, t.findCtx ⟨g.cl, g.base + k, g.slot⟩ = some n ∧ n.grp = none ∧ n.pc = c.pc + 4 ∧
        n.rcd = some { stack := [], base := g.base, width := g.width, members := g.members, a := g.lm } ∧
        (∀ r : Reg, r.val < 16 → n.g.get r = m.g.get r) ∧ (∀ r : Reg, 16 ≤ r.val → n.g.get r = (s.ctx ⟨g.cl, g.base, g.slot⟩).g.get r) ∧ n.p = m.p))

/-- R226, R227: the votes over the active lanes, and `lget`. -/
def Obligations.Votes : Prop := ∀ (s : State) (sm : Bool) (n m : PReg) (d a b : Reg),
  LongPred (.voteAny sm n m) sm n (fun _ => (s.lanes s.cur).any fun i => s.rp i m) s ∧
  LongPred (.voteAll sm n m) sm n (fun _ => (s.lanes s.cur).all fun i => s.rp i m) s ∧
  (∃ v : Word, LongReg (.voteBal sm d m) sm d (fun _ => v) s ∧
    ∀ k, k < 64 → v.getLsbD k = (s.lanes s.cur).any fun i => s.rp i m && decide ((s.ctx i).lane % 16 = k)) ∧
  (s.groupOf s.cur = none → LongReg (.lget sm d a b) sm d (fun l => s.rg l a) s) ∧
  (∀ g, s.groupOf s.cur = some g → LongReg (.lget sm d a b) sm d (fun l =>
    let k := (s.rg l b).toNat % 16
    if k < g.width ∧ g.members.getLsbD k = true then s.rg ⟨g.cl, g.base + k, g.slot⟩ a else 0) s)

/-! ### Memory: local store through W0 -/

/-- R110, R122, R180, R208, R209, R384: `ld` and `lda` from local store through W0, by a context alone: the result is the little-endian value of the
bytes, extended from its width (the bytes may be read again when a load's result returns, R142); no byte of memory changes. `lda` is an acquire at its
scope. A load of poisoned bytes traps at once, or is outstanding with a poison trap deferred: its register is not written. `st` and `stl` to local
store through W0, by a context alone: the bytes of its own cluster take the low bytes of gD and every other byte of local store and memory is as
before; to another cluster the write is on its way. `stl` is a release at its scope first. It rests on choices of the model: log entries 10 and 11. -/
def Obligations.LocalAccesses : Prop :=
  (∀ (s : State) (c : Ctx) (sm : Bool) (d a : Reg) (w : Fin 8) (h : Fin 4) (o : BitVec 10) (l : LsAt),
  s.findCtx s.cur = some c → Quiet s →
  let n := 2 ^ (w.val / 2)
  LocalAt s (s.rg s.cur a + BitVec.ofNat 64 n * o.signExtend 64) n l →
  let m := leNat (Memory.readN s.ls (lsKey l.cl l.phys) n)
  let v : Word := if w.val % 2 = 0 then (BitVec.ofNat (8 * n) m).signExtend 64 else (BitVec.ofNat (8 * n) m).setWidth 64
  let va := s.rg s.cur a + BitVec.ofNat 64 n * o.signExtend 64
  (s.lsPoisoned l.cl l.phys n = true → Trappable s s.cur → s.paused s.cur.cl = false → Runs (.ld sm d a w h o) s fun t =>
    TookTrap s.cur cPROTECTION 4 va c.pc s t ∨
      ∃ f, Owes [{ dst := s.cur, dest := .g d, val := 0, poisoned := some va }] sm (c.pc + 4) { s with freeCtr := f } t) ∧
  (s.lsPoisoned l.cl l.phys n = false →
  Runs (.ld sm d a w h o) s (fun t => ∃ f late, (late = none ∨ late = some ⟨s.cur, .ls l.cl l.phys, n, decide (w.val % 2 = 0)⟩) ∧
    Owes (oneLate s d v late) sm (c.pc + 4) { s with freeCtr := f } t) ∧
  Runs (.lda sm d a w h o) s (fun t => ∃ u, Settled s u ∧ u.mem = s.mem ∧ u.ls = s.ls ∧ Acquired h.val s u ∧
    Owes (oneLate s d v none) sm (c.pc + 4) u t))) ∧
  (∀ (s : State) (c : Ctx) (sm : Bool) (d a : Reg) (w : Fin 8) (h : Fin 4) (o : BitVec 10) (l : LsAt),
  s.findCtx s.cur = some c → Quiet s →
  let n := 2 ^ (w.val / 2)
  LocalAt s (s.rg s.cur a + BitVec.ofNat 64 n * o.signExtend 64) n l →
  let v := (s.rg s.cur d).toNat
  let near := fun t => ∃ u, Settled s u ∧ u.mem = s.mem ∧ LocalPut s u l n v ∧ Owes [] sm (c.pc + 4) u t
  let far := fun (rel : Option Scope) t => ∃ u, Settled s u ∧ u.mem = s.mem ∧ u.ls = s.ls ∧ u.writes = s.writes ++
    [{ agent := s.cur, pipe := s.cur.pipe, place := .ls l.cl l.phys, data := leBytes n v, mask := BitVec.ofNat 64 (2 ^ n - 1), since := s.gtime
       kind := u.wkind s.cur rel false }] ∧ Owes [] sm (c.pc + 4) u t
  (l.cl = s.cur.cl → Runs (.st sm d a w h o) s near ∧ Runs (.stl sm d a w h o) s near) ∧
  (l.cl ≠ s.cur.cl → Runs (.st sm d a w h o) s (far none) ∧ Runs (.stl sm d a w h o) s (far (some (scopeOf h.val)))))

/-- R128, R156, R210, R211, R212: the atomics in local store through W0, by a context alone, with any order but sc: the old value goes to gD,
sign-extended from 32 bits (zero-extended for `amo.fadd`), and memory takes the new one; `amo.cas` writes gB where the old value equals gD. A
reduction to local store through W0, by a context alone, leaves with its operation, operand and place, and changes no byte yet; R214: a prefetch of an
address that is not paged has no effect. It rests on choices of the model: log entries 26 and 36. -/
def Obligations.AtomicsAndReductions : Prop :=
  (∀ (s : State) (sm : Bool) (d a b : Reg) (sc : Fin 4) (o : Fin 8) (w : Bool) (l : LsAt), o.val < 4 → Quiet s →
  let n := if w then 8 else 4
  LocalAt s (s.rg s.cur a) n l → s.lsPoisoned l.cl l.phys n = false →
  let x := fun m => BitVec.ofNat (8 * n) m
  let y : BitVec (8 * n) := (s.rg s.cur b).setWidth (8 * n)
  let z : BitVec (8 * n) := (s.rg s.cur d).setWidth (8 * n)
  let f := if w then FFmt.f64 else FFmt.f32
  let goes := fun (i : Instr) (r : BitVec (8 * n) → BitVec (8 * n)) =>
    Atomic i sm d l n (fun m => (x m).signExtend 64) (fun m => some (r (x m)).toNat) s
  goes (.amoAdd sm d a b sc o w) (fun m => m + y) ∧
  goes (.amoAnd sm d a b sc o w) (fun m => m &&& y) ∧
  goes (.amoOr sm d a b sc o w) (fun m => m ||| y) ∧
  goes (.amoXor sm d a b sc o w) (fun m => m ^^^ y) ∧
  goes (.amoMin sm d a b sc o w) (fun m => if m.toInt ≤ y.toInt then m else y) ∧
  goes (.amoMax sm d a b sc o w) (fun m => if m.toInt ≤ y.toInt then y else m) ∧
  goes (.amoMinn sm d a b sc o w) (fun m => if m.toNat ≤ y.toNat then m else y) ∧
  goes (.amoMaxn sm d a b sc o w) (fun m => if m.toNat ≤ y.toNat then y else m) ∧
  goes (.amoSwp sm d a b sc o w) (fun _ => y) ∧
  Atomic (.amoCas sm d a b sc o w) sm d l n (fun m => (x m).signExtend 64) (fun m => if x m = z then some y.toNat else none) s ∧
  Atomic (.amoFadd sm d a b sc o w) sm d l n (fun m => (x m).setWidth 64)
    (fun m => some (roundTo f .rne false (Ex.add .rne (decodeFloat f (x m).toNat) (decodeFloat f y.toNat)))) s) ∧
  (∀ (s : State) (c : Ctx) (sm : Bool) (a b : Reg) (sc : Fin 4) (o : Fin 8) (w : Bool) (k : Fin 16) (l : LsAt),
  s.findCtx s.cur = some c → Quiet s →
  let n := if w then 8 else 4
  let goes := fun (i : Instr) (op : RmwOp) => LocalAt s (s.rg s.cur a) n l → Runs i s fun t =>
    ∃ u, Settled s u ∧ u.mem = s.mem ∧ u.ls = s.ls ∧
      Owes [] sm (c.pc + 4) { u with reds := u.reds ++ [{
        agent := s.cur, place := .ls l.cl l.phys, op := op, n := n, val := s.rg s.cur b, since := s.gtime
        kind := u.wkind s.cur (some (scopeOf sc.val)) true }] } t
  goes (.redAdd sm a b sc o w) .add ∧
  goes (.redFadd sm a b sc o w) .fadd ∧
  goes (.redMin sm a b sc o w) .min ∧
  goes (.redMax sm a b sc o w) .max ∧
  goes (.redOr sm a b sc o w) .or ∧
  (2 ^ 56 ≤ (s.rg s.cur a).toNat ∨ regionOf (s.rg s.cur a).toNat ≠ .paged → Runs (.pf sm a k) s (Owes [] sm (c.pc + 4) s)))

/-- R103, R130, R209: an access to an unassigned region or above VA[55] traps with PROTECTION and STATUS 0, one to a paged address that is not
naturally aligned with MISALIGN, both with the VA in EVAL, by a context alone whose cluster is not in a pause; nothing is written. -/
def Obligations.AccessTraps : Prop := ∀ (s : State) (sm : Bool) (d a b : Reg) (w : Fin 8) (h : Fin 4) (o : BitVec 10) (sc : Fin 4) (x : Bool),
  Quiet s → s.paused s.cur.cl = false →
  let n := 2 ^ (w.val / 2)
  let va := s.rg s.cur a + BitVec.ofNat 64 n * o.signExtend 64
  (2 ^ 56 ≤ va.toNat ∨ regionOf va.toNat = .unassigned ∨ regionOf va.toNat = .vreg →
    TrapsWith (.ld sm d a w h o) cPROTECTION 0 va s ∧ TrapsWith (.st sm d a w h o) cPROTECTION 0 va s) ∧
  (va.toNat < 2 ^ 56 → regionOf va.toNat = .paged → va.toNat % n ≠ 0 →
    TrapsWith (.ld sm d a w h o) cMISALIGN 0 va s ∧ TrapsWith (.st sm d a w h o) cMISALIGN 0 va s) ∧
  ((s.rg s.cur a).toNat < 2 ^ 56 → regionOf (s.rg s.cur a).toNat = .paged → (s.rg s.cur a).toNat % (if x then 8 else 4) ≠ 0 →
    TrapsWith (.amoAdd sm d a b sc 0 x) cMISALIGN 0 (s.rg s.cur a) s ∧ TrapsWith (.amoCas sm d a b sc 0 x) cMISALIGN 0 (s.rg s.cur a) s)

/-! ### Paged memory: accesses on their way to their check point -/

/-- R410, R416, R419: the probes of an access return. With the page present, its A bit set and the access allowed (R418), the access goes on: to set D
where it writes through a clean entry, else to its target outside region 0x0 or to its check point; the slice keeps the translation. An access that
has set D goes on in the same way, with D written to the table; where the entry has changed meanwhile it probes again. It rests on choices of the
model: log entries 31 and 37. -/
def Obligations.TranslationSteps : Prop := ∀ (s : State) (a : Access) (x : Xlat) (p : Partition) (e : Nat),
  let w := whoOf (s.ctx a.lane)
  s.accesses[s.subj.n]? = some a → s.usesBootMap w = false → s.partOf w.cl = some p → x.pte = some e → s.lostPeer (x.pa a.va) = false →
  let entry : Word := BitVec.ofNat 64 (leNat (Memory.readN s.mem e 8))
  let goes := fun (t : State) (st : Stage) => t.accesses = s.accesses.set s.subj.n { a with
    stage := st, since := s.gtime
    port := match st with
      | .remote y => s.portTo (y.pa a.va)
      | _ => a.port }
  (a.stage = .probe → s.invWaits p.num a.va = false → (∀ b ∈ s.accesses.eraseIdx s.subj.n, s.sameProbe a (.ok x) b = false) →
    s.translate w a.va = .ok x → entry = x.w0 → x.w0.getLsbD 7 = true → checkPage w a.op.need x = .ok →
    Runs .translationProbeResult s fun t =>
      goes t (if a.op.need ≠ .read ∧ x.w0.getLsbD 8 = false then .setD x else if x.far && a.op.reads then .remote x else .check x) ∧
      t = { s with accesses := t.accesses, tcache := t.tcache } ∧
      ∃ y ∈ t.tcache, y.part = p.num ∧ y.slice = s.homeSlice a.va ∧ y.page = a.va / 2 ^ pageShift x.cls ∧ y.x = x) ∧
  (a.stage = .setD x → x.w0.getLsbD 8 = false → entry = x.w0 →
    Runs .dirtyBitSet s fun t => ∃ y : Xlat, y = { x with w0 := x.w0 ||| 256 } ∧ goes t (if x.far && a.op.reads then .remote y else .check y) ∧
      t.mem = Memory.writeN s.mem e (leBytes 8 y.w0.toNat) ∧ (∀ k, k < e ∨ e + 8 ≤ k → Memory.read t.mem k = Memory.read s.mem k) ∧
      t = { s with accesses := t.accesses, tcache := t.tcache, l2 := t.l2, mem := t.mem, home := t.home, sinter := t.sinter, compiles := t.compiles
                   teams := t.teams, clusters := t.clusters }) ∧
  (a.stage = .setD x → x.w0.getLsbD 8 = false → entry ≠ x.w0 → Runs .dirtyBitSet s fun t => goes t .probe ∧ t = { s with accesses := t.accesses })

/-- R68, R121, R122, R180, R422, R424, R458, R479: an access of a context alone passes its check point, at once or with its target's response: a load
from an uncacheable page reads its bytes at the home slice and goes on with its result outstanding, a store to one leaves for the home slice; a
response that reports a failure traps with PROTECTION and STATUS 4. An access held for a free record enters the fault unit once one is free, and its
context, in user mode with a handler, takes the upcall: EPCU, ECAUSEU, EVALU, UPTOK and MODE.UPB, and goes on at UPVEC. It rests on choices of the
model: log entries 25, 34 and 131. -/
def Obligations.CheckPoints : Prop :=
  (∀ (s : State) (a : Access) (c : Ctx) (x : Xlat), s.accesses[s.subj.n]? = some a →
  s.findCtx a.agent = some c → a.lane = a.agent → c.grp = none → c.st = .parked .check →
  (s.accesses.filter fun b => decide (b.agent = a.agent)) = [a] →
  (∀ w ∈ s.writes, s.sameBank a.agent w = false) → (∀ r ∈ s.reds, r.agent ≠ a.agent) →
  (∀ l ∈ s.longs, ∀ q, l.late = some q → q.agent ≠ a.agent) →
  let pa := x.pa a.va
  let rest := s.accesses.filter fun b => !decide (b.agent = a.agent)
  let passes := fun (i : Instr) =>
    s.lostPeer pa = false → s.poisonedAt pa a.op.bytes = false → (s.noteAgent (some a.agent) a.va pa x.w).isAliased a.agent a.va pa = false → s.findLine a.agent (a.va / 64) = none →
    x.attr = 2 →
    (∀ n sext d hint, a.op = .load n sext d hint none → Runs i s fun t => ∃ u f late,
      Settled s u ∧ (late = none ∨ late = some ⟨a.agent, .mem a.va pa, n, sext⟩) ∧
      Owes (if d = 0 then [] else [{ dst := a.agent, dest := .g d, val := extend n sext (leNat (Memory.readN u.mem pa n)), late := late }]) a.sm
        (c.pc + 4) { u with cur := a.agent, freeCtr := f, accesses := rest } t) ∧
    (∀ n v hint rel, a.op = .store n v hint rel → Runs i s fun t => ∃ u, Settled s u ∧
      Owes [] a.sm (c.pc + 4) { u with
        cur := a.agent, accesses := rest
        writes := u.writes ++ [{
          agent := a.agent, pipe := a.agent.pipe, place := .mem a.va pa, data := leBytes n v.toNat, mask := BitVec.ofNat 64 (2 ^ n - 1)
          since := s.gtime, port := s.portTo pa, kind := u.wkind a.agent rel false }] } t)
  (a.stage = .check x → passes .checkPointPass) ∧
  (a.stage = .remote x → s.subj.ok = true → passes .remoteResponse) ∧
  (a.stage = .remote x → s.subj.ok = false → a.op.isPf = false → s.paused a.agent.cl = false → Trappable s a.agent →
    Runs .remoteResponse s fun t => t.cur = a.agent ∧ t.accesses = rest ∧
      TookTrap a.agent cPROTECTION 4 (BitVec.ofNat 64 a.va) c.pc { s with cur := a.agent, accesses := rest } t)) ∧
  (∀ (s : State) (a : Access) (c : Ctx) (p : Partition) (reason k : Nat), s.accesses[s.subj.n]? = some a →
  a.stage = .heldFault reason → s.findCtx a.agent = some c → a.lane = a.agent → c.grp = none → c.st = .parked .check → a.op.isPf = false →
  (∀ q ∈ s.packets, q.from_ = a.agent → q.dest = 0) →
  (s.accesses.filter fun b => decide (b.agent = a.agent)) = [a] → s.paused a.agent.cl = false → s.poisonOf a.agent = none → s.partOf a.agent.cl = some p →
  s.faultDelivery a.agent p.num a.va reason = some k → s.faultMatch p.num a.va reason = none →
  (s.faults.filter fun f => decide (f.part = p.num)).length < 4096 →
  Runs .faultRecordAdmit s fun t =>
    (∃ f, t.faults = s.faults ++ [f] ∧ f.part = p.num ∧ f.va = a.va ∧ f.reason = reason ∧ f.kind = a.op.kind ∧ f.merge = 0 ∧ f.queued = true ∧
      f.priv = 0 ∧ f.domain = c.domain ∧ Stamp s a.agent.cl f.gtime ∧ f.waiters = [.ctx a.agent c.team k] ∧
      f.key = BitVec.ofNat 64 (k + a.agent.slot * 2 ^ 7 + a.agent.pipe * 2 ^ 9 + s.logical a.agent.cl * 2 ^ 13)) ∧
    t.accesses = s.accesses.filter (fun b => !decide (b.agent = a.agent)) ∧
    (t.ctx a.agent).epcu = c.pc ∧ (t.ctx a.agent).ecauseu = 5 ∧ (t.ctx a.agent).evalu = BitVec.ofNat 64 a.va ∧
    (t.ctx a.agent).uptok = BitVec.ofNat 6 k ∧ (t.ctx a.agent).mode = c.mode ||| 4 ∧ (t.ctx a.agent).pc = c.upvec &&& ~~~3 ∧
    (t.ctx a.agent).st = .ready ∧ (t.ctx a.agent).tl = 0 ∧ ∀ j, j ≠ a.agent → ∃ q m v, t.findCtx j = (s.findCtx j).map fun o => { o with pts := q, mts := m, vis := v })

/-- R121, R122, R124, R126, R128, R209, R411: paged accesses of a context alone through its L1 bank. A load that hits bytes of the bank's own, or a
line within its lease and its age, gets the line's bytes, and the line stays; an expired line is renewed first: it has the home slice's bytes where
that line's wts has changed, and a new lease. A store that hits is written into the line and is dirty there, with memory as it was; at its check point
a load of a WB page that the bank does not hold reads memory, and may fill the line; such a store makes a line of its bytes; an atomic at GRP scope
works on the line. -/
def Obligations.CachedAccesses : Prop := ∀ (s : State) (sm : Bool) (d a : Reg) (w : Fin 8) (h : Fin 4) (o : BitVec 10) (l : L1Line),
  let n := 2 ^ (w.val / 2)
  let va := (s.rg s.cur a + BitVec.ofNat 64 n * o.signExtend 64).toNat
  let c := s.ctx s.cur
  let who := whoOf c
  let i := va % 64
  let own := BitVec.ofNat 64 ((2 ^ n - 1) * 2 ^ i)
  let val := fun (x : List Byte) => let m := leNat ((x.drop i).take n)
    if w.val % 2 = 0 then (BitVec.ofNat (8 * n) m).signExtend 64 else (BitVec.ofNat (8 * n) m).setWidth 64
  let held := (s.findCtx s.cur).isSome ∧ LineHeld s s.cur va l ∧ va < 2 ^ 56 ∧ regionOf va = .paged ∧ va % n = 0 ∧ ∀ x ∈ s.accesses, x.agent ≠ s.cur
  let inLease := (s.cluster l.cl).ticks ≤ l.tick + 64 ∧ c.pts ≤ l.lease
  -- loads
  (held → h ≠ 2 → own &&& l.valid = own → checkLine who .read l = .ok → l.bad = false →
    (s.poisonedAt (l.pa + i) n = false ∨ own &&& l.dirty = own) →
    (own &&& l.dirty = own ∨ inLease → Runs (.ld sm d a w h o) s fun t => ∃ u, Settled s u ∧ u.mem = s.mem ∧ u.ls = s.ls ∧ u.l1 = s.l1 ∧
      l.wts ≤ (u.ctx s.cur).mts ∧ Owes (oneLate s d (val l.data) none) sm (c.pc + 4) u t) ∧
    (own &&& l.dirty ≠ own → l.valid = BitVec.allOnes 64 → l.far = false →
      (l.tick + 64 < (s.cluster l.cl).ticks ∨ (l.lease < c.pts ∧ l.lease < c.vis.hb)) → Runs (.ld sm d a w h o) s fun t => ∃ u m, Settled s u ∧ u.mem = s.mem ∧ u.ls = s.ls ∧
        u.l1 = s.l1.filter (fun x => !sameLine x m) ++ [m] ∧ sameLine l m = true ∧ m.lease = c.pts + 64 ∧ m.wts = (s.lineTs (l.pa / 64)).1 ∧ m.dirty = l.dirty ∧
        m.tick = (s.cluster s.cur.cl).ticks ∧
        m.data = (if m.wts = l.wts then l.data else maskBytes (Memory.readN s.mem l.pa 64) l.data l.dirty) ∧
        Owes (oneLate s d (val m.data) none) sm (c.pc + 4) u t)) ∧
  -- stores
  (held → h ≠ 2 → (who.priv ≠ .user ∨ l.perm.getLsbD 3 = true) → keyOk who l.key = true → l.perm.getLsbD 1 = true → l.dset = true →
    Runs (.st sm d a w h o) s fun t => ∃ u m, Settled s u ∧ u.mem = s.mem ∧ u.ls = s.ls ∧ u.writes = s.writes ∧
      u.l1 = s.l1.filter (fun x => !sameLine x m) ++ [m] ∧ LinePut l i n (s.rg s.cur d).toNat m ∧ Owes [] sm (c.pc + 4) u t) ∧
  -- at the check point
  (∀ (q : Access) (x : Xlat), s.accesses[s.subj.n]? = some q → q.stage = .check x → q.agent = s.cur → q.lane = s.cur → (s.findCtx s.cur).isSome → c.st = .parked .check →
    (s.accesses.filter fun b => decide (b.agent = s.cur)) = [q] → (s.ctx s.cur).grp = none →
    (∀ w ∈ s.writes, s.sameBank s.cur w = false) → (∀ r ∈ s.reds, ¬ (r.agent.cl = s.cur.cl ∧ r.agent.pipe = s.cur.pipe)) →
    (∀ l ∈ s.longs, ∀ t, l.late = some t → t.agent ≠ s.cur) →
    (s.noteAgent (some s.cur) q.va (x.pa q.va) x.w).isAliased s.cur q.va (x.pa q.va) = false → s.lostPeer (x.pa q.va) = false →
    let rest := s.accesses.filter fun b => !decide (b.agent = s.cur)
    let after := fun (u t : State) => { u with accesses := rest, freeCtr := t.freeCtr, l2 := t.l2 }
    let k := q.va % 64
    (s.findLine s.cur (q.va / 64) = none → x.attr = 0 →
      (∀ n sext d, q.op = .load n sext d 0 none → s.poisonedAt (x.pa q.va) n = false → Runs .checkPointPass s fun t => ∃ u, Settled s u ∧ u.mem = s.mem ∧
        ((∃ late, (late = none ∨ late = some ⟨s.cur, .mem q.va (x.pa q.va), n, sext⟩) ∧
            Owes (oneLate s d (extend n sext (leNat (Memory.readN s.mem (x.pa q.va) n))) late) q.sm (c.pc + 4) (after u t) t) ∨
          ∃ m ∈ u.l1, m.cl = s.cur.cl ∧ m.pipe = s.cur.pipe ∧ m.line = q.va / 64 ∧ m.data = Memory.readN s.mem (x.pa (q.va / 64 * 64)) 64 ∧ m.dirty = 0 ∧
            m.valid = BitVec.allOnes 64 ∧ m.lease = c.pts + 64 ∧
            Owes (oneLate s d (extend n sext (leNat ((m.data.drop k).take n))) none) q.sm (c.pc + 4) (after u t) t)) ∧
      (∀ n v, q.op = .store n v 0 none → Runs .checkPointPass s fun t => ∃ u, Settled s u ∧ u.mem = s.mem ∧
        (∃ m ∈ u.l1, m.cl = s.cur.cl ∧ m.pipe = s.cur.pipe ∧ m.line = q.va / 64 ∧ m.dirty = BitVec.ofNat 64 ((2 ^ n - 1) * 2 ^ k) ∧ m.valid = m.dirty ∧
          ∀ j, k ≤ j → j < k + n → j < 64 → m.data[j]? = (leBytes n v.toNat)[j - k]?) ∧ Owes [] q.sm (c.pc + 4) (after u t) t)) ∧
    (∀ op n v cmp d ord new, q.op = .amo op n v cmp d .grp ord → ord ≠ .sc → n = 4 ∨ n = 8 → x.attr ≠ 2 → LineHeld s s.cur q.va l → l.bad = false → s.poisonedAt (x.pa q.va) n = false →
      BitVec.ofNat 64 ((2 ^ n - 1) * 2 ^ k) &&& l.dirty = BitVec.ofNat 64 ((2 ^ n - 1) * 2 ^ k) →
      BitVec.ofNat 64 ((2 ^ n - 1) * 2 ^ k) &&& l.valid = BitVec.ofNat 64 ((2 ^ n - 1) * 2 ^ k) →
      rmwNew op n (leNat ((l.data.drop k).take n)) v.toNat cmp.toNat = some new →
      Runs .checkPointPass s fun t => ∃ u m, Settled s u ∧ u.mem = s.mem ∧ m ∈ u.l1 ∧ LinePut l k n new m ∧
        Owes (oneLate s d (rmwOld op n (leNat ((l.data.drop k).take n))) none) q.sm (c.pc + 4) (after u t) t))

/-! ### Results, writes and reductions on their way -/

/-- R123, R142, R147, R156, R179: a result that returns is written to its register or predicate, and no other register changes; a load whose bytes
were still open reads them now, from the line of its group's bank or at its place. Where a fixed instruction has written the register meanwhile,
either value stays. A write on its way that no earlier one must precede is performed: the bytes of its mask are replaced, and no other byte changes; a
reduction is applied to its location; a dirty line is written back and stays clean. It rests on choices of the model: log entries 10, 11 and 146. -/
def Obligations.ResultsAndWrites : Prop :=
  (∀ (s : State) (l : Long), s.longs[s.subj.n]? = some l → l.poisoned = none → l.abort = none →
  let v := match l.late with
    | none => l.val
    | some q => s.readLate q
  let rest := fun (t : State) => t = { s with ctxs := t.ctxs, longs := s.longs.eraseIdx s.subj.n, freeCtr := t.freeCtr }
  let either := fun (w : Bool) => w = false → (s.ctx (s.leader l.dst)).fixedW.contains l.dest = true
  (∀ r, l.dest = .g r → r ≠ 0 → Runs .longResultReturn s fun t => rest t ∧ ∃ w, either w ∧
    ∀ id, t.findCtx id = (s.findCtx id).map fun c =>
      { (if id = l.dst ∧ w = true then { c with g := c.g.set r v } else c) with mts := (t.ctx id).mts, vis := (t.ctx id).vis }) ∧
  (∀ n : PReg, l.dest = .p n → n ≠ 0 → Runs .longResultReturn s fun t => rest t ∧ ∃ w, either w ∧
    ∀ id, t.findCtx id = (s.findCtx id).map (fun c => { c with p := (t.ctx id).p, mts := (t.ctx id).mts, vis := (t.ctx id).vis }) ∧
      ((s.findCtx id).isSome → ∀ k, k < 8 → (t.ctx id).p.getLsbD k =
        if id = l.dst ∧ w = true ∧ k = n.val then decide (v ≠ 0) else (s.ctx id).p.getLsbD k))) ∧
  (∀ (s : State),
  (∀ w, s.writes[s.subj.n]? = some w → s.subj.hi ≠ 1 →
    (∀ q ∈ s.writes.take s.subj.n, (w.follows q && placesMeet q.place q.data.length w.place w.data.length) = false) →
    (∀ cl off, w.place = .ls cl off → Runs .writePerformed s fun t => t.writes = s.writes.eraseIdx s.subj.n ∧ t.mem = s.mem ∧
      t.ls = Memory.writeN s.ls (lsKey cl off) (maskBytes (Memory.readN s.ls (lsKey cl off) w.data.length) w.data w.mask) ∧
      ∀ k, k < lsKey cl off ∨ lsKey cl off + w.data.length ≤ k → Memory.read t.ls k = Memory.read s.ls k) ∧
    (∀ va pa, w.place = .mem va pa → pa + 64 < 2 ^ 48 → Runs .writePerformed s fun t => t.writes = s.writes.eraseIdx s.subj.n ∧ t.ls = s.ls ∧
      t.mem = Memory.writeN s.mem pa (maskBytes (Memory.readN s.mem pa w.data.length) w.data w.mask) ∧
      ∀ k, k < pa ∨ pa + w.data.length ≤ k → Memory.read t.mem k = Memory.read s.mem k)) ∧
  (∀ r cl off v, s.reds[s.subj.n]? = some r → (∀ q ∈ s.reds.take s.subj.n, q.before r = false) → 0 < r.n → r.place = .ls cl off →
    rmwNew r.op r.n (leNat (Memory.readN s.ls (lsKey cl off) r.n)) r.val.toNat 0 = some v →
    Runs .reductionApply s fun t => t.reds = s.reds.eraseIdx s.subj.n ∧ t.mem = s.mem ∧ t.writes = s.writes ∧ t.longs = s.longs ∧
      t.ctxs = s.ctxs ∧ t.ls = Memory.writeN s.ls (lsKey cl off) (leBytes r.n v) ∧
      ∀ k, k < lsKey cl off ∨ lsKey cl off + r.n ≤ k → Memory.read t.ls k = Memory.read s.ls k) ∧
  (∀ l, s.l1[s.subj.n]? = some l → l.dirty ≠ 0 → Runs .l1WritebackDeadline s fun t => t = { s with
      l1 := s.l1.filter (fun x => !decide (x.cl = l.cl ∧ x.pipe = l.pipe ∧ x.line = l.line)) ++ [{ l with dirty := 0 }]
      poison := if l.bad then markLine s.poison l.pa else s.poison
      writes := s.writes ++ [{
        agent := l.owner, pipe := l.pipe, place := .mem (l.line * 64) l.pa, data := l.data, mask := l.dirty, since := s.gtime
        port := s.portTo l.pa, rels := relsIn l.rels l.dirty }] }))

/-- R124, R148, R149, R439: a tick raises the timestamp of each context of its cluster; a window that has ended closes what was announced in it; 96 ns
later a sole `fence.sc` of it completes: its context has acquired what earlier sc operations carried, and goes on, in an idle cluster once that is
admitted. It rests on choices of the model: log entries 5 and 25. -/
def Obligations.TicksAndWindows : Prop := ∀ (s : State),
  (((s.cluster s.subj.cl).ticks + 1) * 1024 ≤ s.cycle s.subj.cl → Runs .ptsTick s fun t =>
    t.ctxs = s.ctxs.map (fun (c : Ctx) => if c.id.cl = s.subj.cl then { c with pts := c.pts + 1 } else c) ∧
    (t.cluster s.subj.cl).ticks = (s.cluster s.subj.cl).ticks + 1 ∧ t = { s with ctxs := t.ctxs, clusters := t.clusters }) ∧
  (16 * (s.subj.num + 1) ≤ s.gtime → Runs .fumaroleWindowClose s fun t =>
    t = { s with scops := s.scops.map fun (o : ScOp) => if o.window ≤ s.subj.num then { o with closed := true } else o }) ∧
  (∀ o c, 16 * (s.subj.num + 1) + 96 ≤ s.gtime → s.scops = [o] → o.closed = true → o.window ≤ s.subj.num → o.ops = [] →
    s.findCtx o.agent = some c → c.grp = none → (∀ a ∈ s.accesses, a.agent ≠ o.agent) → (∀ l ∈ s.longs, ∀ q, l.late = some q → q.agent ≠ o.agent) →
    Runs .fumaroleArrival s fun t => ∃ u, Settled s u ∧ u.mem = s.mem ∧ u.ls = s.ls ∧
      (u.ctx o.agent).pts = max c.pts (max c.mts s.scTs) ∧ t.scTs = max s.scTs (max c.pts (max c.mts s.scTs)) ∧
      ((s.cluster o.agent.cl).active = true → Owes [] o.sm (c.pc + 4) { u with cur := o.agent, scops := [], scTs := t.scTs } t) ∧
      ((s.cluster o.agent.cl).active = false → (t.ctx o.agent).pc = c.pc + 4 ∧ (t.ctx o.agent).g = c.g ∧
        (((t.ctx o.agent).st = .waiting .scDone s.gtime ∧ (t.ctx o.agent).woken = true) ∨ (o.sm = true ∧ (t.ctx o.agent).st = .parked .results))))

/-! ### Synchronisation -/

/-- R147, R148, R149: fences of a context alone with no traffic of its own: an acquire raises the timestamp of its group above GRP and at it (R124), a
release has nothing to wait for; with writes on their way a release above GRP waits. A release at SYS reports a lost write with PROTECTION and STATUS
4 (R458). `fence.sc` and an sc atomic in local store, by a context alone, announce themselves with the next sequence number and wait for their
completion; no byte of memory changes yet. The announcement is in the current window, by the cluster's copy of GTIME (R441), where that has room for
the cluster. It rests on choices of the model: log entries 26, 28 and 131. -/
def Obligations.FencesAndAnnouncements : Prop :=
  (∀ (s : State) (c : Ctx) (sm : Bool) (k : Fin 4), s.findCtx s.cur = some c → c.grp = none →
  let settles := fun t => ∃ u, Settled s u ∧ u.mem = s.mem ∧ u.ls = s.ls ∧ Owes [] sm (c.pc + 4) u t
  let raised := fun (t : State) => (t.ctx s.cur).pts = max c.pts (t.ctx s.cur).mts ∧ c.mts ≤ (t.ctx s.cur).mts
  Runs (.fenceAcq sm k) s (fun t => raised t ∧ ∃ u, Settled s u ∧ u.mem = s.mem ∧ u.ls = s.ls ∧ Owes [] sm (c.pc + 4) u t) ∧
  (Quiet s → Runs (.fenceRel sm k) s settles ∧ Runs (.fenceFull sm k) s fun t => raised t ∧ settles t) ∧
  (c.lostWrite = none → k ≠ 0 → (∃ w ∈ s.writes, s.sameBank s.cur w = true) →
    Runs (.fenceRel sm k) s (fun t => ∃ u, Settled s u ∧ t = u.waitFor (.performed (scopeOf k.val))) ∧
    Runs (.fenceFull sm k) s (fun t => ∃ u, Settled s u ∧ t = u.waitFor (.performed (scopeOf k.val)))) ∧
  (∀ v, c.lostWrite = some v → TrapsWith (.fenceRel sm 3) cPROTECTION 4 v s ∧ TrapsWith (.fenceFull sm 3) cPROTECTION 4 v s)) ∧
  (∀ (s : State) (c : Ctx) (sm : Bool) (d a b : Reg) (k : Fin 4) (o : Fin 8) (w : Bool) (l : LsAt),
  s.findCtx s.cur = some c → Quiet s → 4 ≤ o.val →
  let n := if w then 8 else 4
  let announced := fun (ops : List (CtxId × Place × MemOp)) (t : State) => ∃ u win g, Settled s u ∧ u.mem = s.mem ∧ u.ls = s.ls ∧
    Stamp s s.cur.cl g ∧ g / 16 ≤ win ∧
    ((s.scops.filter fun o => decide (o.agent.cl = s.cur.cl ∧ o.window = g / 16)).length < 4 → win = g / 16) ∧
    t.scops = s.scops ++ [{ agent := s.cur, window := win, seq := s.scSeq, closed := false, ops := ops, sm := sm }] ∧ t.scSeq = s.scSeq + 1 ∧
    (t.ctx s.cur).st = .waiting .scDone s.gtime ∧ (t.ctx s.cur).pc = c.pc ∧ (t.ctx s.cur).g = c.g ∧
    t = { u with ctxs := t.ctxs, scops := t.scops, scSeq := t.scSeq, freeCtr := t.freeCtr, clusters := t.clusters }
  let atomic := fun (i : Instr) (op : RmwOp) => LocalAt s (s.rg s.cur a) n l → s.lsPoisoned l.cl l.phys n = false → Runs i s (announced
    [(s.cur, .ls l.cl l.phys, .amo op n (s.rg s.cur b) (s.rg s.cur d) d (scopeOf k.val) .sc)])
  Runs (.fenceSc sm k) s (announced []) ∧ atomic (.amoAdd sm d a b k o w) .add ∧ atomic (.amoSwp sm d a b k o w) .swp ∧
  atomic (.amoCas sm d a b k o w) .cas)

/-- R56, R153, R154, R155, R222 to R225: barriers, by a context alone. `bar.arv` counts an arrival: the one that reaches the expected count ends the
phase, which takes the status of its first error, and goes on with none; the context's ticket is the phase it arrived in. `bar.wait` waits while the
barrier is in its ticket's phase, then acquires what the arrivals released and gives the status word, which is open where more than 65,535 phases have
passed; `bar.arw` arrives once and waits so. The waits of a context alone, where they end and where they wait. It rests on choices of the model: log
entries 15, 61 and 144. -/
def Obligations.BarriersAndWaits : Prop :=
  (∀ (s : State) (c : Ctx) (m : Team) (sm : Bool) (d a : Reg) (n : Fin 32), s.findCtx s.cur = some c → Quiet s →
  s.teamOf s.cur = some m → n.val < m.bars.length →
  let b := m.bar n.val
  let cnt := (s.rg s.cur a).toNat % 256
  let expd := if b.arrivals = 0 then (if cnt = 0 then (m.tmpl.groups.map TGroup.width).sum else cnt) else b.expected
  let arrived := fun (t : State) (b' : Barrier) => (t.team m.cl m.num).map (fun x => x.bar n.val) = some b'
  let passed := fun (t : State) (status : Word) => t.longs = s.longs ++ oneLate s d status none ∧ (t.ctx s.cur).pc = c.pc + 4 ∧
    (t.ctx s.cur).g = c.g ∧ (t.ctx s.cur).p = c.p ∧ t.mem = s.mem ∧ t.ls = s.ls ∧ ∀ j, j ≠ s.cur → t.findCtx j = s.findCtx j
  (0 < expd → Runs (.barArv sm a n) s fun t => ticketOf (t.ctx s.cur) n.val = b.phase ∧ (t.ctx s.cur).pc = c.pc + 4 ∧ (t.ctx s.cur).g = c.g ∧
    t.mem = s.mem ∧ t.ls = s.ls ∧ t.longs = s.longs ∧ (∀ j, j ≠ s.cur → t.findCtx j = s.findCtx j) ∧
    (b.arrivals + 1 < expd → ∃ b', arrived t b' ∧ b'.phase = b.phase ∧ b'.arrivals = b.arrivals + 1 ∧ b'.expected = expd ∧ b'.err = b.err) ∧
    (b.arrivals + 1 = expd → ∃ b', arrived t b' ∧ b'.phase = b.phase + 1 ∧ b'.arrivals = 0 ∧ b'.status = b.err.getD 0 ∧ b'.err = none)) ∧
  (ticketOf c n.val = b.phase → c.woken = false → Runs (.barWait sm d n) s fun t => t = s.waitFor (.bar n.val)) ∧
  (ticketOf c n.val ≠ b.phase ∨ c.woken = true → Runs (.barWait sm d n) s fun t =>
    (∃ v, passed t v ∧ (b.total - ticketTotal c n.val ≤ 65535 → v = b.status)) ∧ ticketOf (t.ctx s.cur) n.val = b.phase ∧
    (t.ctx s.cur).pts = max c.pts (max c.mts b.ts) ∧ t = { s with ctxs := t.ctxs, longs := t.longs, freeCtr := t.freeCtr }) ∧
  (c.arrived2 = false → b.arrivals + 1 = expd → Runs (.barArw sm d a n) s fun t => passed t (b.err.getD 0) ∧
    ticketOf (t.ctx s.cur) n.val = b.phase + 1) ∧
  (c.arrived2 = false → b.arrivals + 1 < expd → Runs (.barArw sm d a n) s fun t => (t.ctx s.cur).st = .waiting (.bar n.val) s.gtime ∧
    (t.ctx s.cur).arrived2 = true ∧ (t.ctx s.cur).pc = c.pc ∧ ticketOf (t.ctx s.cur) n.val = b.phase)) ∧
  (∀ (s : State) (c : Ctx) (sm : Bool) (d a : Reg) (n : BitVec 10) (k : Fin 4), s.findCtx s.cur = some c → c.grp = none →
  let x := s.rg s.cur a
  let cls := if k = 0 then Cls.occ else if k = 1 then .ocm else if k = 2 then .ocg else .ocl
  let pending := (s.ocq.filter fun e => decide (e.ctx = s.cur ∧ e.cls = cls)).length
  let ends := fun i => Runs i s fun t => ∃ u, Settled s u ∧ u.mem = s.mem ∧ u.ls = s.ls ∧ Owes [] sm (c.pc + 4) u t
  let waits := fun i w => Runs i s fun t => t = s.waitFor w
  let beside := (s.ctxs.filter fun o => decide (o.id.cl = s.cur.cl ∧ o.id.pipe = s.cur.pipe ∧ o.id.slot ≠ s.cur.slot ∧ o.st = .ready)).length
  (pending ≤ n.toNat → ends (.waitCnt sm n k)) ∧
  (n.toNat < pending → waits (.waitCnt sm n k) (.cnt cls n.toNat)) ∧
  (x = 0 ∨ c.arrived &&& x ≠ 0 → ends (.tagWany sm a)) ∧
  (x ≠ 0 → c.arrived &&& x = 0 → waits (.tagWany sm a) (.tagAny x)) ∧
  (c.arrived &&& x = x → ends (.tagWall sm a)) ∧
  (c.arrived &&& x ≠ x → waits (.tagWall sm a) (.tagAll x)) ∧
  (∃ v : Word, Runs (.tagFfr sm d a) s (fun t => ∃ u, Settled s u ∧ u.mem = s.mem ∧ u.ls = s.ls ∧ Owes (oneLate s d v none) sm (c.pc + 4) u t) ∧
    v.toNat ≤ 64 ∧ (∀ i, i < v.toNat → (c.arrived &&& x).getLsbD i = false) ∧ (v.toNat < 64 → (c.arrived &&& x).getLsbD v.toNat = true)) ∧
  Runs (.tagClr sm a) s (fun t => t = { s with ctxs := t.ctxs } ∧ t.cur = s.cur ∧
    ∀ id, t.findCtx id = (s.findCtx id).map fun o => if id = s.cur then { wentOn sm (c.pc + 4) t o with arrived := o.arrived &&& ~~~x } else o) ∧
  (x = 0 ∨ c.notice &&& x ≠ 0 ∨ c.woken = true → Runs (.waitNtc sm a) s (Owes [] sm (c.pc + 4) s)) ∧
  (x ≠ 0 → c.notice &&& x = 0 → c.woken = false → waits (.waitNtc sm a) (.notice x)) ∧
  (beside = 0 → Runs (.yield sm) s (Owes [] sm (c.pc + 4) s)) ∧
  (0 < beside → (sm && s.mustPark s.cur) = false → Runs (.yield sm) s fun t => ∃ u, Owes [] sm (c.pc + 4) s u ∧ t = u.waitFor (.pass beside)))

/-! ### System registers, system calls, returns -/

/-- R5, R11, R112, R153, R182, R183, R239, R474: `rdsys` of each register by a context alone gives its value as a long result; GTIME is within 2 ns of
the reference and never moves backward. A register that is not accessible at the level raises PRIV, a number that is not in the table ILLEGAL. `wrsys`
by a context alone writes the register, reserved bits read as zero, bits written as 1 clear the W1C registers, and nothing else changes; a write that
the level may not make raises PRIV, one that no level may make, or of a TL above 2, ILLEGAL. `wcfg` writes a window descriptor of the team. It rests
on choices of the model: log entry 94. -/
def Obligations.SystemRegisters : Prop :=
  (∀ (s : State) (c : Ctx) (sm : Bool) (d : Reg) (r : BitVec 12), s.findCtx s.cur = some c → c.grp = none →
  let reads := fun (r : BitVec 12) (v : Word) => Runs (.rdsys sm d r) s fun t => ∃ f, Owes (oneLate s d v none) sm (c.pc + 4) { s with freeCtr := f } t
  let n := fun (k : Nat) => BitVec.ofNat 64 k
  let cnt := fun (k : Cls) => (s.ocq.filter fun e => decide (e.ctx = s.cur ∧ e.cls = k)).length % 2 ^ 16
  (reads 0x000 (n c.lane) ∧ reads 0x001 1 ∧ reads 0x002 (n s.cur.pipe) ∧ reads 0x003 (n s.cur.slot) ∧ reads 0x004 (n (s.logical s.cur.cl)) ∧
    reads 0x008 ((BitVec.ofNat 16 (2 ^ c.lane)).setWidth 64) ∧ reads 0x011 (n (s.cycle s.cur.cl)) ∧ reads 0x012 (n (s.cluster s.cur.cl).step) ∧
    reads 0x020 c.mode ∧ reads 0x021 (n (privNum c.priv)) ∧ reads 0x022 (c.domain.setWidth 64) ∧ reads 0x023 (n c.tl) ∧ reads 0x040 c.upvec ∧
    reads 0x041 c.epcu ∧ reads 0x042 c.ecauseu ∧ reads 0x043 c.evalu ∧ reads 0x044 (c.uptok.setWidth 64) ∧ reads 0x045 c.notice ∧
    reads 0x050 c.arrived ∧ reads 0x051 c.errtags ∧
    reads 0x052 (n (cnt .occ + 2 ^ 16 * cnt .ocm + 2 ^ 32 * cnt .ocg + 2 ^ 48 * cnt .ocl)) ∧
    reads 0x070 (n (s.boot.phase % 16 + s.boot.fails % 4 * 2 ^ 4 + (if s.boot.minimal then 2 ^ 6 else 0) + (if s.boot.leader then 2 ^ 7 else 0) +
      s.boot.reason % 256 * 2 ^ 8 + s.boot.n % 2048 * 2 ^ 16 + s.boot.silent % 32 * 2 ^ 27)) ∧
    ∀ i, i < 8 → reads (BitVec.ofNat 12 (0x078 + i)) ((s.meas[i]?).getD 0)) ∧
  (∀ m, s.teamOf s.cur = some m → reads 0x005 (n m.num) ∧ reads 0x006 (n m.trank) ∧ reads 0x007 (n m.gsize) ∧
    ∀ i, i < 8 → reads (BitVec.ofNat 12 (0x060 + i)) ((m.wds[i]?).getD 0)) ∧
  (c.priv ≠ .user → reads 0x030 c.tvec ∧ reads 0x031 c.b1.epc ∧ reads 0x032 c.b1.ecause ∧ reads 0x033 c.b1.eval ∧ reads 0x034 c.b1.estat ∧
    reads 0x039 c.b2.epc ∧ reads 0x03A c.b2.ecause ∧ reads 0x03B c.b2.eval ∧ reads 0x03C c.b2.estat) ∧
  Runs (.rdsys sm d 0x010) s (fun t => ∃ f g k, Stamp s s.cur.cl g ∧
    Owes (oneLate s d (n g) none) sm (c.pc + 4) { s with freeCtr := f, clusters := k } t) ∧
  (c.priv = .user → (0x030 ≤ r.toNat ∧ r.toNat ≤ 0x034) ∨ (0x039 ≤ r.toNat ∧ r.toNat ≤ 0x03C) → Traps (.rdsys sm d r) cPRIV s) ∧
  (sysAccess r.toNat = none → Traps (.rdsys sm d r) cILLEGAL s)) ∧
  (∀ (s : State) (c : Ctx) (sm : Bool) (a : Reg) (r : BitVec 12) (k : Fin 8), s.findCtx s.cur = some c →
  c.grp = none →
  let v := s.rg s.cur a
  let low := v &&& 0xFFF
  let writes := fun (r : BitVec 12) (f : Ctx → Ctx) => Runs (.wrsys sm a r) s fun t => t = { s with ctxs := t.ctxs } ∧ t.cur = s.cur ∧
    ∀ id, t.findCtx id = (s.findCtx id).map fun o => if id = s.cur then wentOn sm (c.pc + 4) t (f o) else o
  (writes 0x020 (fun o => { o with mode := v &&& 7 }) ∧ writes 0x040 (fun o => { o with upvec := v }) ∧ writes 0x041 (fun o => { o with epcu := v }) ∧
    writes 0x042 (fun o => { o with ecauseu := low }) ∧ writes 0x043 (fun o => { o with evalu := v }) ∧
    writes 0x044 (fun o => { o with uptok := v.setWidth 6 }) ∧ writes 0x045 (fun o => { o with notice := o.notice &&& ~~~v }) ∧
    writes 0x051 (fun o => { o with errtags := o.errtags &&& ~~~v })) ∧
  (c.priv ≠ .user → writes 0x022 (fun o => { o with domain := v.setWidth 12 }) ∧
    (v.toNat ≤ 2 → writes 0x023 fun o => { o with tl := v.toNat }) ∧
    writes 0x030 (fun o => { o with tvec := v &&& 0x00FFFFFFFFFF0000 }) ∧
    writes 0x031 (fun o => { o with b1 := { o.b1 with epc := v } }) ∧ writes 0x032 (fun o => { o with b1 := { o.b1 with ecause := low } }) ∧
    writes 0x033 (fun o => { o with b1 := { o.b1 with eval := v } }) ∧
    writes 0x034 (fun o => { o with b1 := { o.b1 with estat := (o.b1.estat &&& 0xFF8) ||| (v &&& 7) } }) ∧
    writes 0x039 (fun o => { o with b2 := { o.b2 with epc := v } }) ∧ writes 0x03A (fun o => { o with b2 := { o.b2 with ecause := low } }) ∧
    writes 0x03B (fun o => { o with b2 := { o.b2 with eval := v } }) ∧
    writes 0x03C (fun o => { o with b2 := { o.b2 with estat := (o.b2.estat &&& 0xFF8) ||| (v &&& 7) } })) ∧
  (c.priv ≠ .user → 2 < v.toNat → Traps (.wrsys sm a 0x023) cILLEGAL s) ∧
  (c.priv = .user → Traps (.wrsys sm a 0x022) cPRIV s ∧ Traps (.wrsys sm a 0x023) cPRIV s ∧ Traps (.wrsys sm a 0x030) cPRIV s) ∧
  (r.toNat ≤ 0x012 ∨ sysAccess r.toNat = none → Traps (.wrsys sm a r) cILLEGAL s) ∧
  (∀ m, s.teamOf s.cur = some m → Runs (.wcfg sm k a) s fun t => Moved sm (c.pc + 4) s t ∧ t = { s with ctxs := t.ctxs, teams := t.teams } ∧
    t.team m.cl m.num = some { m with wds := m.wds.mapIdx fun i w => if i = k.val then v &&& 0x003FFFFFFFFFFFFF else w }) ∧
  (s.teamOf s.cur = none → Traps (.wcfg sm k a) cILLEGAL s))

/-- R8, R49, R50, R69, R70, R71, R240, R381 to R383, R385: `ecall`, `ebreak`, an unassigned encoding and a failed fetch of a context alone take their
trap, PRIV before ILLEGAL where the function value is a privileged instruction's and the level is below it (R381, R407); `ecall` of a fused group that
runs as one traps in its leader, with GRPTRAP, and holds the other lanes; a fused group that does not splits, and every active lane has
SYSCALL_DIVERGENT. `eret` of a context alone restores the pc of its level (behind an ECALL, the next word), the privilege of PPRIV and TL − 1; at TL 0
it raises ILLEGAL, from a PPRIV above its level PRIV. `eret` of a fused group that its leader's ECALL has trapped with GRPTRAP makes every member
active again, with an empty stack. `upret` clears UPB and goes on at EPCU; UPTOK's token is free from then on where OK is recorded for it, and stays
in use where nothing is; where another status is recorded it is free too, and UPVEC is entered again with STATUS 1. It rests on choices of the model:
log entries 12, 42, 44 and 149. -/
def Obligations.TrapsAndReturns : Prop :=
  (∀ (s : State) (sm : Bool), (s.findCtx s.cur).isSome →
  let f := fld s.subj.num 0 10
  let lacks := fld s.subj.num 25 6 = 0x23 ∧ 0x100 ≤ f ∧ f ≤ 0x10C ∧
    ((s.ctx s.cur).priv = .user ∨ (0x108 ≤ f ∧ f ≤ 0x10B ∧ (s.ctx s.cur).priv ≠ .machine))
  Traps (.ecall sm) cECALL s ∧ Traps (.ebreak sm) cBREAK s ∧ (¬ lacks → Traps .illegalEncoding cILLEGAL s) ∧ (lacks → Traps .illegalEncoding cPRIV s) ∧
  (∀ g, s.groupOf s.cur = some g → g.lm ≠ g.members ∨ g.stack ≠ [] → CleanTraps s → GroupTraps (.ecall sm) cSYSCALL_DIVERGENT g s) ∧
  (s.subj.ok = true → TrapsWith .instructionFetchFault s.subj.num s.subj.lo (s.ctx s.cur).pc s) ∧
  (∀ g, s.groupOf s.cur = some g → s.cur = ⟨g.cl, g.base, g.slot⟩ → g.lm = g.members → g.stack = [] → s.boot.mode = false →
    (s.ctx s.cur).tl < 2 → s.poisonOf s.cur = none → (∀ l ∈ s.lanes s.cur, s.poisonOf l = none) → (∀ p ∈ s.packets, p.from_ = s.cur → p.dest = 0) → Runs (.ecall sm) s fun t =>
      (t.ctx s.cur).tl = (s.ctx s.cur).tl + 1 ∧ ((t.ctx s.cur).bank ((s.ctx s.cur).tl + 1)).ecause = 0x0F ∧
      ((t.ctx s.cur).bank ((s.ctx s.cur).tl + 1)).epc = (s.ctx s.cur).pc ∧
      ((t.ctx s.cur).bank ((s.ctx s.cur).tl + 1)).estat.getLsbD 2 = true ∧ (t.ctx s.cur).st = .ready ∧
      ∀ k, 0 < k → g.members.getLsbD k = true → ∀ m, s.findCtx ⟨g.cl, g.base + k, g.slot⟩ = some m → m.grp = some g.base →
        (t.ctx ⟨g.cl, g.base + k, g.slot⟩).st = .held)) ∧
  (∀ (s : State) (c : Ctx) (sm : Bool), s.findCtx s.cur = some c →
  let b := if c.tl = 1 then c.b1 else c.b2
  (∀ g p, s.groupOf s.cur = some g → s.cur = ⟨g.cl, g.base, g.slot⟩ → 0 < g.width → g.lm = 1 → g.members ≠ 1 → c.priv ≠ .user → c.tl ≠ 0 → b.estat.getLsbD 2 = true →
    (p = Priv.user ∧ b.estat.toNat % 4 = 0) ∨ (p = Priv.supervisor ∧ b.estat.toNat % 4 = 1) → Runs (.eret sm) s fun t =>
      t.groupOf s.cur = some { g with stack := [], lm := g.members } ∧ (t.ctx s.cur).tl = c.tl - 1 ∧ (t.ctx s.cur).priv = p ∧
      (t.ctx s.cur).pc = (b.epc &&& ~~~3) + (if b.ecause.toNat % 256 = 0x0F then 4 else 0) ∧
      ∀ k m, 0 < k → k < 16 → g.members.getLsbD k = true → s.findCtx ⟨g.cl, g.base + k, g.slot⟩ = some m → m.grp = some g.base →
        (t.ctx ⟨g.cl, g.base + k, g.slot⟩).st = .ready ∧ (t.ctx ⟨g.cl, g.base + k, g.slot⟩).g = m.g) ∧
  (c.grp = none → (
  (c.priv ≠ .user → c.tl ≠ 0 → ∀ p, (p = Priv.user ∧ b.estat.toNat % 4 = 0) ∨ (p = Priv.supervisor ∧ b.estat.toNat % 4 = 1) ∨
      (p = Priv.machine ∧ b.estat.toNat % 4 = 2) → (p = .machine → c.priv = .machine) →
    Runs (.eret sm) s fun t => t = { s with ctxs := t.ctxs } ∧ (t.ctx s.cur).tl = c.tl - 1 ∧ (t.ctx s.cur).priv = p ∧
      (t.ctx s.cur).pc = (b.epc &&& ~~~3) + (if b.ecause.toNat % 256 = 0x0F then 4 else 0) ∧ (t.ctx s.cur).g = c.g ∧ (t.ctx s.cur).p = c.p ∧
      (t.ctx s.cur).b1 = c.b1 ∧ (t.ctx s.cur).b2 = c.b2 ∧ (t.ctx s.cur).mode = c.mode ∧ ∀ j, j ≠ s.cur → t.findCtx j = s.findCtx j) ∧
  (c.priv ≠ .user → c.tl = 0 → Traps (.eret sm) cILLEGAL s) ∧
  (c.priv = .supervisor → c.tl ≠ 0 → 2 ≤ b.estat.toNat % 4 → Traps (.eret sm) cPRIV s) ∧
  (∀ tok : Option Token, tok = c.tokens.find? (fun k => decide (k.t = c.uptok.toNat)) → tok.bind Token.status = none ∨ tok.bind Token.status = some 0 →
    Runs (.upret sm) s fun t => t = { s with ctxs := t.ctxs } ∧
    (t.ctx s.cur).mode = c.mode &&& ~~~4 ∧ (t.ctx s.cur).pc = c.epcu &&& ~~~3 ∧ (t.ctx s.cur).g = c.g ∧ (t.ctx s.cur).p = c.p ∧
    (t.ctx s.cur).tl = c.tl ∧ (∀ j, j ≠ s.cur → t.findCtx j = s.findCtx j) ∧
    (t.ctx s.cur).tokens = if tok.bind Token.status = none then c.tokens else c.tokens.filter fun k => decide (k.t ≠ c.uptok.toNat)) ∧
  (∀ tok n, c.tokens.find? (fun k => decide (k.t = c.uptok.toNat)) = some tok → tok.status = some n → n ≠ 0 → c.priv = .user → c.tl = 0 → c.upvec ≠ 0 →
    s.poisonOf s.cur = none → (∀ p ∈ s.packets, p.from_ = s.cur → p.dest = 0) → Runs (.upret sm) s fun t =>
      (t.ctx s.cur).ecauseu = 0x105 ∧ (t.ctx s.cur).evalu = BitVec.ofNat 64 tok.va ∧ (t.ctx s.cur).epcu = c.epcu &&& ~~~3 ∧ (t.ctx s.cur).uptok = c.uptok ∧
      (t.ctx s.cur).pc = c.upvec &&& ~~~3 ∧ (t.ctx s.cur).st = .ready ∧ (t.ctx s.cur).mode.getLsbD 2 = true ∧ (t.ctx s.cur).tl = 0 ∧
      (t.ctx s.cur).tokens = c.tokens.filter (fun k => decide (k.t ≠ c.uptok.toNat)) ∧ t.mem = s.mem ∧ ∀ j, j ≠ s.cur → t.findCtx j = s.findCtx j))))

/-- R381, R407: every privileged instruction raises PRIV in user mode, and those of machine mode in supervisor mode, and has no effect. -/
def Obligations.PrivilegeChecks : Prop := ∀ (s : State) (sm : Bool) (d a b : Reg),
  ((s.ctx s.cur).priv = .user → Traps (.eret sm) cPRIV s ∧ Traps (.fqPop sm d a b) cPRIV s ∧ Traps (.svcDone sm d a b) cPRIV s ∧
    Traps (.xlatInv sm d a b) cPRIV s ∧ Traps (.cacheWb sm d a b) cPRIV s ∧ Traps (.cacheInv sm d a b) cPRIV s ∧ Traps (.ctxSave sm a) cPRIV s ∧
    Traps (.ctxRest sm a) cPRIV s ∧ Traps (.clReform sm d a b) cPRIV s) ∧
  ((s.ctx s.cur).priv ≠ .machine → Traps (.halt sm d a b) cPRIV s ∧ Traps (.nbrPut sm d a b) cPRIV s ∧ Traps (.nbrGet sm d a b) cPRIV s ∧
    Traps (.mcast sm d a b) cPRIV s)

/-! ### Privileged instructions -/

/-- R400 to R403, R421, R422, R425: the services of a context alone above user mode. `fq.pop` finds the queue empty, or has stored the oldest entry
and takes it off the queue; `svc.done` frees the record of the key and posts its waiter's token; `xlat.inv` drops the page's cached translation, and
no line of the page is left in an L1 bank of the partition or in a slice; while an access to the page is in flight it waits; `cache.wb` leaves no
dirty line of the range in the partition, `cache.inv` none at all. Each answers in gD. It rests on choices of the model: log entries 54 and 58. -/
def Obligations.Services : Prop := ∀ (s : State) (c : Ctx) (p : Partition) (sm : Bool) (d a b : Reg), s.findCtx s.cur = some c → c.grp = none →
  c.priv ≠ .user → s.partOf s.cur.cl = some p →
  let x := s.rg s.cur a
  let y := s.rg s.cur b
  let answers := fun (v : Nat) (t : State) => ∃ u, Settled s u ∧ Owes (oneLate s d (BitVec.ofNat 64 v) none) sm (c.pc + 4) u t
  (y.toNat ≤ 1 → x.toNat % (if y.toNat = 1 then 128 else 32) = 0 →
    (if y.toNat = 1 then s.kills.find? (fun k => decide (k.part = p.num)) = none
     else s.faults.find? (fun f => decide (f.part = p.num) && f.queued) = none) →
    Runs (.fqPop sm d a b) s (Owes (oneLate s d 1 none) sm (c.pc + 4) s)) ∧
  (∀ f u, y = 0 → x.toNat % 32 = 0 → x.toNat < 2 ^ 56 → notW0 x.toNat = false → s.faultHead p.num = some f →
    s.ownStore c x.toNat (faultEntry f) = (.ok (), u) → u.faultHead p.num = some f → (u.ctx u.cur).grp = none →
    Runs (.fqPop sm d a b) s fun t => ∃ w, Settled u w ∧ Owes (oneLate u d 0 none) sm ((u.ctx u.cur).pc + 4)
      { w with faults := u.faults.map fun (o : FaultRec) => if sameRec o f then { o with queued := false } else o } t) ∧
  (Quiet s → y.toNat ≤ 1 → (s.faults.find? fun f => decide (f.part = p.num ∧ f.key = x)) = none → Runs (.svcDone sm d a b) s (answers 1)) ∧
  (∀ f id tok, Quiet s → y.toNat ≤ 1 → (s.faults.find? fun f => decide (f.part = p.num ∧ f.key = x)) = some f → f.waiters = [.ctx id (s.ctx id).team tok] →
    (s.findCtx id).isSome → id ≠ s.cur → Runs (.svcDone sm d a b) s fun t =>
      (t.ctx id).notice = (s.ctx id).notice ||| BitVec.ofNat 64 (2 ^ tok) ∧ (t.ctx id).pc = (s.ctx id).pc ∧ (t.ctx id).g = (s.ctx id).g ∧
      t.faults = s.faults.filter (fun o => !sameRec o f) ∧ t.longs = s.longs ++ oneLate s d 0 none ∧ (t.ctx s.cur).pc = c.pc + 4 ∧
      t.mem = s.mem ∧ t.ls = s.ls) ∧
  (let shift := pageShift (y.toNat % 4)
   let kept := s.tcache.filter fun e => !decide (e.part = p.num ∧ e.x.cls = y.toNat % 4 ∧ e.page = x.toNat / 2 ^ shift)
   let inside := fun (line : Nat) => x.toNat < 64 * line + 64 ∧ 64 * line < x.toNat + 2 ^ shift
   let gone := fun (u : State) => Flushed s u ∧ (∀ l ∈ u.l1, s.samePart l.cl s.cur.cl = true → ¬ inside l.line) ∧
     (∀ l ∈ u.l1i, s.samePart l.cl s.cur.cl = true → ¬ inside l.line) ∧ ∀ l ∈ u.l2, l.part = p.num → ¬ inside l.line
   y.toNat < 4 → x.toNat % 2 ^ shift = 0 →
    (s.inFlight s.cur.cl x.toNat (2 ^ shift) = false → Runs (.xlatInv sm d a b) s fun t => ∃ u, gone u ∧
      Owes (oneLate s d 0 none) sm (c.pc + 4) { u with tcache := kept } t) ∧
    (s.inFlight s.cur.cl x.toNat (2 ^ shift) = true → Runs (.xlatInv sm d a b) s fun t => ∃ u, gone u ∧
      t = State.waitFor { u with tcache := kept } (.inval x.toNat (2 ^ shift)))) ∧
  (∀ z, 0 < y.toNat → y.toNat ≤ 2 ^ 30 → x.toNat % 64 = 0 → y.toNat % 64 = 0 → x.toNat < 2 ^ 56 → regionOf x.toNat = .paged →
    s.translate (whoOf c) x.toNat = .ok z → x.toNat + y.toNat ≤ (x.toNat / 2 ^ pageShift z.cls + 1) * 2 ^ pageShift z.cls →
    let inside := fun (l : L1Line) => s.samePart l.cl s.cur.cl ∧ x.toNat < 64 * l.line + 64 ∧ 64 * l.line < x.toNat + y.toNat
    let flushed := fun (t : State) => ∃ u, Flushed s u ∧ Owes (oneLate s d 0 none) sm (c.pc + 4) u t
    Runs (.cacheWb sm d a b) s (fun t => flushed t ∧ ∀ l ∈ t.l1, inside l → l.dirty = 0) ∧
    Runs (.cacheInv sm d a b) s (fun t => flushed t ∧ ∀ l ∈ t.l1, ¬ inside l))

/-- R386 to R388: `ctx.save` has stored the context's image at its address and goes on; `ctx.rest` has read one: MODE, DOMAIN, the upcall registers
and the bank of its level take its dwords at once, the general registers and predicates are to receive theirs. It rests on choices of the model: log
entries 45 and 46. -/
def Obligations.ContextImages : Prop := ∀ (s u : State) (c : Ctx) (sm : Bool) (a : Reg) (va : Word), s.findCtx s.cur = some c → c.grp = none →
  c.priv ≠ .user → va.toNat % 512 = 0 → va.toNat < 2 ^ 56 →
  let l := max c.tl 1
  (a ≠ 0 ∧ va = s.rg s.cur a ∨ a = 0 ∧ c.tl ≠ 0 ∧ va = BitVec.ofNat 64 (c.tvec.toNat / 2 ^ 16 % 2 ^ 40 * 2 ^ 16 + 0x10000 +
    512 * (2 * (64 * s.logical s.cur.cl + 4 * s.cur.pipe + s.cur.slot) + c.tl - 1))) →
  (s.ownStore c va.toNat (s.ctxImage s.cur l (c.bank l).epc) = (.ok (), u) →
    Runs (.ctxSave sm a) s (Owes [] sm ((u.ctx u.cur).pc + 4) u)) ∧
  (∀ img o, notW0 va.toNat = false → (s.drainGroup s.cur).engReads (whoOf c) va.toNat 8 64 = (.ok img, u) → u.findCtx u.cur = some o → u.cur = s.cur →
    o.grp = none →
    let w := fun i => BitVec.ofNat 64 (leNat ((img.drop (8 * i)).take 8))
    Runs (.ctxRest sm a) s fun t => (t.ctx u.cur).mode = w 37 &&& 7 ∧ (t.ctx u.cur).domain = (w 38).setWidth 12 ∧ (t.ctx u.cur).upvec = w 39 ∧
      (t.ctx u.cur).epcu = w 40 ∧ (t.ctx u.cur).ecauseu = w 41 &&& 0xFFF ∧ (t.ctx u.cur).evalu = w 42 ∧ (t.ctx u.cur).uptok = (w 43).setWidth 6 ∧
      ((t.ctx u.cur).bank l).epc = w 32 ∧ ((t.ctx u.cur).bank l).ecause = w 34 &&& 0xFFF ∧ ((t.ctx u.cur).bank l).eval = w 35 ∧
      (t.ctx u.cur).pc = o.pc + 4 ∧ (t.ctx u.cur).g = o.g ∧ (t.ctx u.cur).tl = o.tl ∧ (t.ctx u.cur).priv = o.priv ∧
      (∀ r : Reg, r ≠ 0 → ∃ x ∈ t.longs, x.dst = u.cur ∧ x.dest = .g r ∧ x.val = w r.val) ∧
      (∀ n : PReg, n ≠ 0 → ∃ x ∈ t.longs, x.dst = u.cur ∧ x.dest = .p n ∧ (x.val ≠ 0 ↔ (w 33).getLsbD n.val = true)) ∧
      t = { u with ctxs := t.ctxs, longs := t.longs } ∧ ∀ j, j ≠ u.cur → t.findCtx j = u.findCtx j)

/-- R394, R398, R404 to R406: the instructions of machine mode, by a context alone. `halt` stops a running partition at once, arms a stop for later,
and refuses what breaks its form; `nbr.put` sends the 64 bytes to the neighbour, which answers with its arrival: a cluster not yet released starts
there, at the packet of the lowest direction that reaches it in the cycle (R471), a mailbox is filled, and a full one says so; `nbr.get` empties a
mailbox into local store; `mcast` copies the bytes to every other released cluster and counts them, and completes phase 8 from the boot cluster in
phase 7. It rests on choices of the model: log entries 41 and 56. -/
def Obligations.FirmwareInstructions : Prop := ∀ (s : State) (c : Ctx) (sm : Bool) (d a b : Reg), s.findCtx s.cur = some c → c.grp = none →
  c.priv = .machine →
  let x := (s.rg s.cur a).toNat
  let y := (s.rg s.cur b).toNat
  (x % 2 ^ 12 / 16 ≠ 0 ∨ 2 ^ 56 ≤ x ∨ x / 4 % 4 = 3 → Runs (.halt sm d a b) s (Owes (oneLate s d 3 none) sm (c.pc + 4) s)) ∧
  (∀ p, s.partNo (x % 4) = some p → x % 2 ^ 12 / 4 = 1 → x < 2 ^ 56 → s.gtime + 4000 ≤ y → p.run = .running →
    Runs (.halt sm d a b) s fun t => (t.partNo (x % 4)).map Partition.run = some (.stopping y (x / 4096 * 4096)) ∧
      Owes (oneLate s d 0 none) sm (c.pc + 4) { s with parts := t.parts } t) ∧
  (∀ p, s.partNo (x % 4) = some p → x % 2 ^ 12 / 4 = 0 → x < 2 ^ 56 → y = 0 → p.run = .running → Runs (.halt sm d a b) s fun t =>
    (t.partNo (x % 4)).map Partition.run = some (.stopped 0) ∧ t.longs = s.longs ++ oneLate s d 0 none ∧ (t.ctx s.cur).pc = c.pc + 4 ∧
    ∀ k ∈ s.partClusters p, ∃ r ∈ t.captures, r.cl = k ∧ r.cause = 0 ∧ Stamp s k r.gtime ∧ r.cycle = s.cycle k) ∧
  (x < 2 ^ 20 → x % 64 = 0 → y < 4 →
    (neighbour s.cur.cl y = none → Runs (.nbrPut sm d a b) s (Owes (oneLate s d 1 none) sm (c.pc + 4) s)) ∧
    (∀ n, neighbour s.cur.cl y = some n → s.answers n = false → Runs (.nbrPut sm d a b) s (Owes (oneLate s d 3 none) sm (c.pc + 4) s)) ∧
    (∀ n, neighbour s.cur.cl y = some n → s.answers n = true → Runs (.nbrPut sm d a b) s fun t => ∃ u, Settled s u ∧
      Owes [] sm (c.pc + 4) { u with packets := s.packets ++
        [{ cl := n, dir := (y + 2) % 4, data := Memory.readN u.ls (lsKey s.cur.cl x) 64, from_ := s.cur, dest := d }] } t)) ∧
  (x < 2 ^ 20 → x % 64 = 0 → y < 4 →
    let box := (s.cluster s.cur.cl).boxes.find? fun o => decide (o.1 = y)
    (box = none → Runs (.nbrGet sm d a b) s (Owes (oneLate s d 0 none) sm (c.pc + 4) s)) ∧
    (∀ o, box = some o → Runs (.nbrGet sm d a b) s fun t => ∃ u w, Settled s u ∧ Settled s w ∧ w.ls = Memory.writeN u.ls (lsKey s.cur.cl x) o.2 ∧
      (t.cluster s.cur.cl).boxes = (s.cluster s.cur.cl).boxes.filter (fun q => decide (q.1 ≠ y)) ∧
      Owes (oneLate s d (BitVec.ofNat 64 (y + 1)) none) sm (c.pc + 4) { w with clusters := t.clusters } t)) ∧
  (let n := 64 * (y / 2 ^ 20 + 1)
   let z := y % 2 ^ 20
   x < 2 ^ 20 → y < 2 ^ 29 → x % 64 = 0 → z % 64 = 0 → x + n ≤ 2 ^ 20 → z + n ≤ 2 ^ 20 → Runs (.mcast sm d a b) s fun t =>
    let dests := (s.clusters.filter fun o => o.released && !o.gated && decide (o.id ≠ s.cur.cl)).map Cluster.id
    ∃ u w, Settled s u ∧ t.ls = dests.foldl (fun l k => Memory.writeN l (lsKey k z) (Memory.readN u.ls (lsKey s.cur.cl x) n)) u.ls ∧
      Settled s w ∧ Owes (oneLate s d (BitVec.ofNat 64 dests.length) none) sm (c.pc + 4)
        { w with boot := if s.boot.phase = 7 ∧ some s.cur.cl = s.bootCluster then { s.boot with phase := 8 } else s.boot } t) ∧
  (∀ q, s.packets[s.subj.n]? = some q → s.answers q.cl = true →
    let k := s.cluster q.cl
    let answered := fun (v : Nat) (t : State) => t.longs = s.longs ++ (if q.dest = 0 then [] else [{ dst := q.from_, dest := .g q.dest, val := BitVec.ofNat 64 v }])
    (k.released = false → Runs .nbrPacketArrival s fun t => ∃ o ∈ s.packets, o.cl = q.cl ∧ o.dir ≤ q.dir ∧
      ((∀ r ∈ s.packets, r.cl = q.cl → r.dir = q.dir) → o = q ∧ answered 0 t) ∧
      (k.boxes = [] → o = q ∨ (q.dir, q.data) ∈ (t.cluster q.cl).boxes) ∧ (t.cluster q.cl).released = true ∧
      (t.ctx ⟨q.cl, 0, 0⟩).pc = BitVec.ofNat 64 (leNat (o.data.take 8)) &&& ~~~3 ∧ (t.ctx ⟨q.cl, 0, 0⟩).priv = .machine ∧
      (t.ctx ⟨q.cl, 0, 0⟩).st = .ready ∧ (t.ctx ⟨q.cl, 0, 0⟩).g.get 5 = BitVec.ofNat 64 o.dir ∧ (t.findCtx ⟨q.cl, 0, 0⟩).isSome) ∧
    (k.released = true → (k.boxes.any fun o => decide (o.1 = q.dir)) = true → Runs .nbrPacketArrival s fun t => answered 2 t ∧
      t = { s with longs := t.longs, packets := s.packets.eraseIdx s.subj.n }) ∧
    (k.released = true → (k.boxes.any fun o => decide (o.1 = q.dir)) = false → Runs .nbrPacketArrival s fun t => answered 0 t ∧
      (q.dir, q.data) ∈ (t.cluster q.cl).boxes ∧ (∀ o ∈ k.boxes, o ∈ (t.cluster q.cl).boxes) ∧
      t = { s with longs := t.longs, clusters := t.clusters, packets := s.packets.eraseIdx s.subj.n }))

/-- R462: `cl.reform` with a valid block, once no command of the slot is outstanding, re-forms the communicator: GEN + 1, the ranks kept in their
order, T as given or as before; then the release at SYS scope, and gD is to receive the new handle. While a command of the slot is outstanding it
waits, with every instance of the old generation STALE. A handle that names none answers code 1. It rests on choices of the model: log entries 52 and
53. -/
def Obligations.Reforming : Prop := ∀ (s u w z : State) (c : Ctx) (p : Partition) (k : Comm) (sm : Bool) (d a b : Reg) (head rest : List Byte) (tms : Nat)
    (ranks : List Nat), s.findCtx s.cur = some c → c.grp = none → c.priv ≠ .user → s.partOf s.cur.cl = some p → c.reformed = none →
  let x := (s.rg s.cur a).toNat
  let y := (s.rg s.cur b).toNat
  x < 2 ^ 32 → y % 8 = 0 → y < 2 ^ 56 →
  (s.handleSlot p.num x = none → Runs (.clReform sm d a b) s (Owes (oneLate s d (BitVec.ofNat 64 (2 ^ 63 + 1)) none) sm (c.pc + 4) s)) ∧
  (s.handleSlot p.num x = some k → (s.drainGroup s.cur).engReads (whoOf c) y 8 1 = (.ok head, u) →
    u.engReads (whoOf c) (y + 8) 2 (min (leNat (head.take 2)) 4096) = (.ok rest, w) → reformBlock k (head ++ rest) = some (tms, ranks) →
    let v := w.collStale k.part k.slot
    let h := BitVec.ofNat 64 (k.slot + (k.gen + 1).toNat * 2 ^ 16)
    ((v.colls.any fun o => decide (o.part = k.part ∧ o.cslot = k.slot ∧ o.away = none)) = true → Runs (.clReform sm d a b) s fun t => t = v.waitFor .reform) ∧
    (w.slotBusy k.part k.slot = false → (v.ctx v.cur).lostWrite = none → (v.ctx v.cur).grp = none → v.cur = s.cur →
    ((v.reformComm k tms ranks).modCtx v.cur fun c => { c with reformed := some h }).release v.cur .sys = (true, z) →
    Runs (.clReform sm d a b) s fun t =>
      t.comms = v.comms.map (fun (o : Comm) => if o.part = k.part ∧ o.slot = k.slot then
        { o with gen := o.gen + 1, tms := if tms = 0 then o.tms else tms, members := ranks.filterMap fun r => o.members[r]?, issued := [] } else o) ∧
      t.longs = z.longs ++ oneLate z d h none ∧ (∀ q ∈ t.contribs, ¬(q.part = k.part ∧ q.cslot = k.slot ∧ q.msg.gen = k.gen)) ∧
      (∀ q ∈ t.decided, ¬(q.part = k.part ∧ q.cslot = k.slot ∧ q.gen = k.gen + 1)) ∧ t.mem = z.mem ∧ t.ls = z.ls))

/-! ### Work queues, tasks, stage rings, blocks of vector registers -/

/-- R61 to R63, R228 to R230: `wq.init` with a block and a count vector that are valid sets the team's queue to its first tile, one that breaks a
limit empties it and answers 1; `wq.next` hands out the word of the queue's tile, of the highest menu shape whose height the segment's remaining rows
still hold, else of shape 0. The queue goes on along the columns, then down the rows, then to the next segment with rows, then to the next batch, and
is done behind the last. A queue that is done answers zero and false. A slot beyond the template's raises ILLEGAL. -/
def Obligations.WorkQueues : Prop := ∀ (s : State) (c : Ctx) (m : Team) (sm : Bool) (a b d : Reg) (n : PReg) (k : Fin 4), s.findCtx s.cur = some c →
  c.grp = none → s.teamOf s.cur = some m → n ≠ 0 →
  let u := s.settleOwnLs s.cur
  let setTo := fun (r : State) (q : WQ) (t : State) => ∃ o, r.team m.cl m.num = some o ∧
    t.team m.cl m.num = some { o with wqs := o.wqs.mapIdx fun i x => if i = k.val then q else x }
  let late := fun (w : Word) (more : Bool) => ({ dst := s.cur, dest := .p n, val := if more then 1 else 0 } : Long) :: oneLate s d w none
  (k.val < m.wqs.length → (∀ q, u.wqRead (whoOf (u.ctx s.cur)) m (u.rg s.cur a).toNat (u.rg s.cur b).toNat = .ok (some q) →
    (match nextSeg q.counts 0 with
      | some (i, before, n) => q.done = false ∧ q.b = 0 ∧ q.seg = i ∧ q.row = before ∧ q.rem = n ∧ q.col = 0
      | none => q.done = true) ∧
    Runs (.wqInit sm a b d k) s fun t => setTo u q t ∧ Settled s u ∧ Owes (oneLate s d 0 none) sm (c.pc + 4) { u with teams := t.teams } t)) ∧
  (k.val < m.wqs.length → u.wqRead (whoOf (u.ctx s.cur)) m (u.rg s.cur a).toNat (u.rg s.cur b).toNat = .ok none →
    Runs (.wqInit sm a b d k) s fun t => setTo u {} t ∧ Owes (oneLate s d 1 none) sm (c.pc + 4) { u with teams := t.teams } t) ∧
  (k.val < m.wqs.length → ((m.wqs[k.val]?).getD {}).done = true →
    Runs (.wqNext sm d n k) s (Owes (late 0 false) sm (c.pc + 4) s)) ∧
  (∀ q i h x, m.wqs[k.val]? = some q → q.done = false → q.menu[i]? = some (h, x) → (h ≤ q.rem ∨ i = 0) →
    (∀ j y, q.menu[j]? = some y → y.1 ≤ q.rem → j ≤ i) → Runs (.wqNext sm d n k) s fun t => ∃ w q', wqBehind q h x q' ∧ setTo s q' t ∧
    Owes (late w true) sm (c.pc + 4) { s with teams := t.teams } t ∧
    w.toNat % 2 ^ 20 = q.row % 2 ^ 20 ∧ w.toNat / 2 ^ 20 % 2 ^ 16 = q.col % 2 ^ 16 ∧ w.toNat / 2 ^ 36 % 256 = (min h q.rem - 1) % 256 ∧
    w.toNat / 2 ^ 44 % 256 = (min x (q.e0 - q.col) - 1) % 256 ∧ w.toNat / 2 ^ 52 % 4 = i % 4 ∧ w.toNat / 2 ^ 54 = q.b % 1024) ∧
  (m.wqs.length ≤ k.val → Traps (.wqInit sm a b d k) cILLEGAL s ∧ Traps (.wqNext sm d n k) cILLEGAL s)

/-- R66, R67, R158, R231: `tsk.done` is a release and takes one from the record's counter, which makes it Ready at zero; with none to take it traps
with TASK_UNDERFLOW. `tsk.submit` of an index beyond 4095 answers 1, of a record already loaded 2. It rests on choices of the model: log entry 128. -/
def Obligations.TaskInstructions : Prop := ∀ (s : State) (c : Ctx) (p : Partition) (k : Task) (sm : Bool) (a d : Reg), s.findCtx s.cur = some c →
  s.partOf s.cur.cl = some p →
  let i := (s.rg s.cur a).toNat
  (c.grp = none → 4096 ≤ i → Runs (.tskDone sm a d) s (Owes (oneLate s d 1 none) sm (c.pc + 4) s) ∧
    Runs (.tskSubmit sm a d) s (Owes (oneLate s d 1 none) sm (c.pc + 4) s)) ∧
  (Quiet s → i < 4096 → s.task p.num i = some k →
    (k.st = .loaded → 0 < k.counter → Runs (.tskDone sm a d) s fun t => ∃ u, Settled s u ∧
      (t.task p.num i).map (fun x => (x.counter, x.st)) = some (k.counter - 1, if k.counter = 1 then .ready else .loaded) ∧
      Owes (oneLate s d 0 none) sm (c.pc + 4) { u with tasks := t.tasks, parts := t.parts } t) ∧
    (k.st ≠ .loaded ∨ k.counter = 0 → Traps (.tskDone sm a d) cTASK_UNDERFLOW s) ∧
    Runs (.tskSubmit sm a d) s fun t => ∃ u, Settled s u ∧ Owes (oneLate s d 2 none) sm (c.pc + 4) u t) ∧
  (∀ u v o, Quiet s → i < 4096 → s.release s.cur .dev = (true, u) →
    u.loadTask p i c.domain none = (0, v) → v.findCtx v.cur = some o → o.grp = none →
    Runs (.tskSubmit sm a d) s fun t => (t.task p.num i).isSome ∧ Owes (oneLate v d 0 none) sm (o.pc + 4) v t)

/-- R54, R55, R232: `stg.acq` acquires a slot that shows the phase, and waits for one that does not; `stg.rel` inverts the slot's phase after a
release at CLU scope; `stg.peek` reads the phases. A slot or ring out of range raises ILLEGAL. -/
def Obligations.StageRings : Prop := ∀ (s : State) (c : Ctx) (m : Team) (sm : Bool) (a d : Reg) (r : Fin 8) (p : Bool),
  s.findCtx s.cur = some c → Quiet s → s.teamOf s.cur = some m →
  let i := (s.rg s.cur a).toNat % 8
  (m.rings.length ≤ r.val → Traps (.stgAcq sm a r p) cILLEGAL s ∧ Traps (.stgRel sm a r) cILLEGAL s ∧ Traps (.stgPeek sm d r) cILLEGAL s) ∧
  ∀ g, m.rings[r.val]? = some g → (i < g.slots → g.phases.getLsbD i = p → Runs (.stgAcq sm a r p) s fun t => (t.ctx s.cur).pts = max c.pts (max c.mts g.ts) ∧
    ∃ u, Settled s u ∧ u.mem = s.mem ∧ u.ls = s.ls ∧ Owes [] sm (c.pc + 4) u t) ∧
  (i < g.slots → g.phases.getLsbD i ≠ p → c.woken = false → Runs (.stgAcq sm a r p) s fun t => t = s.waitFor (.ring r.val i p)) ∧
  (i < g.slots → Runs (.stgRel sm a r) s fun t => ∃ u, Settled s u ∧ u.mem = s.mem ∧ u.ls = s.ls ∧
    Owes [] sm (c.pc + 4) { u with teams := t.teams } t ∧ ∃ m' g', t.team m.cl m.num = some m' ∧ m'.rings[r.val]? = some g' ∧ g'.slots = g.slots ∧
      ∀ j, j < 8 → g'.phases.getLsbD j = if j = i then !g.phases.getLsbD j else g.phases.getLsbD j) ∧
  Runs (.stgPeek sm d r) s (Owes (oneLate s d (g.phases.setWidth 64) none) sm (c.pc + 4) s) ∧
  (g.slots ≤ i → Traps (.stgAcq sm a r p) cILLEGAL s ∧ Traps (.stgRel sm a r) cILLEGAL s)

/-- R20, R53, R233 to R236: `vb.acq` takes blocks that its role's pool has free and none waits for ahead, and answers how many are held; `.try`
answers in a predicate as well and never waits; `vb.rel` gives back blocks that no command names. Other blocks' contents stay. It rests on choices of
the model: log entries 13 and 150. -/
def Obligations.VectorBlocks : Prop := ∀ (s : State) (c : Ctx) (m : Team) (sm : Bool) (a d : Reg) (q : PReg), s.findCtx s.cur = some c → c.grp = none →
  s.teamOf s.cur = some m → q ≠ 0 →
  let k := (s.rg s.cur a).toNat % 512
  let pool := if c.role.getLsbD 0 then 0 else if c.role.getLsbD 1 then 1 else 2
  let late := fun (v : Nat) => oneLate s d (BitVec.ofNat 64 v) none
  let said := fun (ok : Bool) (v : Nat) => ({ dst := s.cur, dest := .p q, val := if ok then 1 else 0 } : Long) :: late v
  let room := k ≤ (m.pool[pool]?).getD 0 ∧ m.waitersAhead pool s.cur = false ∧ k ≤ (m.tmpl.vrs[pool]?).getD 0
  let took := fun (t : State) => (t.ctx s.cur).vblocks = c.vblocks + k ∧ (t.ctx s.cur).vpool = pool ∧
    (t.team m.cl m.num).map Team.pool = some (m.pool.mapIdx fun i b => if i = pool then b - k else b) ∧
    ∀ o, o < 1024 * c.vblocks → Memory.read t.vrs (vrsKey s.cur o) = Memory.read s.vrs (vrsKey s.cur o)
  (k = 0 → Runs (.vbAcq sm a d) s (Owes (late c.vblocks) sm (c.pc + 4) (s.leaveBlocks s.cur)) ∧ Runs (.vbAcqTry sm a d q) s (Owes (said true c.vblocks) sm (c.pc + 4) s)) ∧
  (0 < k → room → Runs (.vbAcq sm a d) s (fun t => took t ∧ t.longs = s.longs ++ late (c.vblocks + k) ∧ (t.ctx s.cur).pc = c.pc + 4 ∧
      t = { s with ctxs := t.ctxs, teams := t.teams, vrs := t.vrs, freeCtr := t.freeCtr, longs := t.longs }) ∧
    Runs (.vbAcqTry sm a d q) s fun t => took t ∧ t.longs = s.longs ++ said true (c.vblocks + k) ∧ (t.ctx s.cur).pc = c.pc + 4 ∧
      t = { s with ctxs := t.ctxs, teams := t.teams, vrs := t.vrs, freeCtr := t.freeCtr, longs := t.longs }) ∧
  (0 < k → k ≤ (m.tmpl.vrs[pool]?).getD 0 → (m.pool[pool]?).getD 0 < k → Runs (.vbAcqTry sm a d q) s (Owes (said false c.vblocks) sm (c.pc + 4) s) ∧
    Runs (.vbAcq sm a d) s fun t => (t.ctx s.cur).st = .waiting (.blocks k) s.gtime ∧ (t.ctx s.cur).pc = c.pc ∧ t.longs = s.longs) ∧
  ((m.tmpl.vrs[pool]?).getD 0 < k → Traps (.vbAcq sm a d) cVREG s ∧ Traps (.vbAcqTry sm a d q) cVREG s) ∧
  (k ≤ c.vblocks → s.blocksUsed s.cur k = false → Runs (.vbRel sm a d) s fun t => (t.ctx s.cur).vblocks = c.vblocks - k ∧
    (t.team m.cl m.num).map Team.pool = some (m.pool.mapIdx fun i b => if i = c.vpool then b + k else b) ∧
    t.longs = s.longs ++ late (c.vblocks - k) ∧ (t.ctx s.cur).pc = c.pc + 4 ∧ t = { s with ctxs := t.ctxs, teams := t.teams, longs := t.longs }) ∧
  (k ≤ c.vblocks → s.blocksUsed s.cur k = true → Runs (.vbRel sm a d) s fun t => t = s.waitFor (.blockUse k)) ∧
  (c.vblocks < k → Traps (.vbRel sm a d) cVREG s)

/-! ### The vector engine -/

/-- R242 to R250, R255, R259: each operation of the VEC major, with operands that pass the checks of issue, joins its pipe's queue and answers how
many more the queue takes; a context without role V traps with ROLE. It rests on choices of the model: log entries 62, 68 and 157. -/
def Obligations.VectorIssue : Prop := ∀ (s u : State) (sm x : Bool) (a b d : Reg) (dv : View) (r : List (Option View)),
  let ops : List (Instr × Nat × Bool) := [
    (.vAdd sm a b d x, 0x00, x), (.vSub sm a b d x, 0x01, x), (.vMul sm a b d x, 0x02, x), (.vFma sm a b d x, 0x03, x), (.vFms sm a b d x, 0x04, x),
    (.vMin sm a b d x, 0x05, x), (.vMax sm a b d x, 0x06, x), (.vAbs sm a b d, 0x07, false), (.vNeg sm a b d, 0x08, false),
    (.vAnd sm a b d x, 0x09, x), (.vOr sm a b d x, 0x0A, x), (.vXor sm a b d x, 0x0B, x), (.vShl sm a b d x, 0x0C, x), (.vShr sm a b d x, 0x0D, x),
    (.vCmp sm a b d x, 0x0E, x), (.vSel sm a b d x, 0x0F, x), (.vCvt sm a b d, 0x10, false), (.vMov sm a b d, 0x11, false),
    (.vRsum sm a b d, 0x12, false), (.vRmax sm a b d, 0x13, false), (.vRmin sm a b d, 0x14, false), (.vScan sm a b d, 0x15, false),
    (.vBcast sm a b d x, 0x16, x), (.vIota sm a b d, 0x17, true), (.vClamp sm a b d x, 0x18, x), (.vSfu sm a b d, 0x19, false),
    (.vGat sm a b d, 0x1A, false), (.vSct sm a b d, 0x1B, false)]
  let ga := s.rg (s.lowest s.cur) a
  let gb := s.rg (s.lowest s.cur) b
  ∀ o ∈ ops, (VecReady o.2.1 o.2.2 ga gb dv r s u → Runs o.1 s (VecQueued o.2.1 o.2.2 sm gb d dv r s u)) ∧
    (((s.cluster s.cur.cl).vq.filter fun v => decide (v.pipe = s.cur.pipe)).length < 16 → (s.ctx s.cur).role.getLsbD 2 = false →
      wb gb 43 = false → wb gb 49 = false → Traps o.1 cROLE s)

/-- R90, R253 to R260, R269: a free lane group takes the next part of the head that the arbiter picks. A part that holds a lane group runs its steps,
and gives the lane group back when it has performed them; with the last part the command leaves the queue with its lane groups; a gather does the same
in its own unit. What an elementwise arithmetic operation or left shift on integers computes: the exact result, narrowed to the destination's w bits
by wrapping, or clamped to its range first under SAT. It rests on choices of the model: log entries 37, 74, 88, 89, 145, 158 and 159. -/
def Obligations.VectorExecution : Prop :=
  (∀ (s u : State) (p : Nat),
  let k := s.cluster s.subj.cl
  let lo := s.subj.lo
  let ends := fun (u t : State) => (t.cluster s.subj.cl).head s.subj.pipe =
      (((u.cluster s.subj.cl).vq.filter fun v => decide (v.pipe = s.subj.pipe)).drop 1).head? ∧
    (∀ q ∈ (t.cluster s.subj.cl).lanes, q ≠ s.subj.pipe) ∧ t.mem = u.mem ∧ t.ls = u.ls ∧ t.vrs = u.vrs
  (∀ cr v i, k.nextPipe = some (p, cr) → k.lanes.length < 8 → k.head p = some v → v.nextPart = some i → Runs .vectorPartBind s fun t =>
    t = { s with clusters := t.clusters } ∧ (t.cluster s.subj.cl).lanes = k.lanes ++ [p] ∧
    (t.cluster s.subj.cl).head p = some (v.setPart i { v.part i with lane := true }) ∧
    (t.cluster s.subj.cl).rho = p ∧ (t.cluster s.subj.cl).credit = cr - 1 ∧ (t.cluster s.subj.cl).vq.length = k.vq.length) ∧
  (∀ c, k.head s.subj.pipe = some c → c.finished = true → c.op < 0x19 → c.sig = {} → c.oc = none →
    Runs .vectorCommandComplete s fun t => ends s t ∧ t = { s with clusters := t.clusters }) ∧
  (∀ c c', k.head s.subj.pipe = some c → c.finished = false → c.op < 0x1A → (c.part lo).lane = true → c.advance lo s.subj.num s = (c', u) →
    c'.op = c.op → c'.pipe = c.pipe → c'.sig = {} → c'.oc = none →
    (c'.finished = true → Runs .vectorCommandComplete s fun t => ends u t ∧ t = { u with clusters := t.clusters }) ∧
    (c'.finished = false → Runs .vectorCommandComplete s fun t => t = { u with clusters := t.clusters } ∧
      (((u.cluster s.subj.cl).head s.subj.pipe).isSome → (t.cluster s.subj.cl).head s.subj.pipe =
        some (if c'.partDone lo then c'.setPart lo { c'.part lo with lane := false } else c')) ∧
      (((u.cluster s.subj.cl).head s.subj.pipe).isSome → (t.cluster s.subj.cl).lanes =
        if c'.partDone lo = true ∧ (c'.part lo).lane = true then (u.cluster s.subj.cl).lanes.erase s.subj.pipe else (u.cluster s.subj.cl).lanes))) ∧
  (∀ c c' tk, k.head s.subj.pipe = some c → c.op = 0x1A → s.subj.ok = false → c.advance 0 s.subj.num s = (c', u) → c'.op = c.op → c'.pipe = c.pipe →
    c'.sig = {} → c'.oc = some tk → c'.finished = true → Runs .gatherScatterComplete s fun t => ends u t ∧
      t = { u with clusters := t.clusters, ocq := t.ocq } ∧ t.ocq = retireHeads (u.ocq.map fun e => if e.ticket = tk then { e with done := true } else e) [])) ∧
  (∀ (op dty flat : Nat) (g : Word) (duns : Bool) (x y z : Src), tyFmt dty = none → 0 < tyBits dty →
  (op ≤ 0x08 ∨ op = 0x0C ∨ op = 0x18) →
  let a := x.int
  let b := y.int
  let c := z.int
  let w := tyBits dty
  let signed := !(dty == 12 || dty == 16 || duns)
  let a' := a % 2 ^ w
  let e : Int := if op = 0x00 then a + b else if op = 0x01 then a - b else if op = 0x02 then a * b else if op = 0x03 then a * b + c
    else if op = 0x04 then a * b - c else if op = 0x05 then min a b else if op = 0x06 then max a b else if op = 0x07 then (a.natAbs : Int)
    else if op = 0x08 then -a
    else if op = 0x0C then (if signed = true ∧ 2 ^ (w - 1) ≤ a' then a' - 2 ^ w else a') * 2 ^ (b % w).toNat
    else min (max a b) c
  let lo : Int := if signed then -(2 ^ (w - 1) : Int) else 0
  let hi : Int := if signed then 2 ^ (w - 1) - 1 else 2 ^ w - 1
  ((vecElem op g dty duns x y z flat : Nat) : Int) = (if g.getLsbD 35 then max lo (min hi e) else e) % 2 ^ w)

/-- R40, R271 to R273: `sfu` enters the SFU's queue with the result of the lowest active lane's operand, for each active lane or for the uniform
register, and goes on; a context without role V traps with ROLE; the SFU serves its oldest entry, and what it has served is written to its register,
or, where its team is swapped out, to the register's saved image. -/
def Obligations.SpecialFunctions : Prop := ∀ (s : State) (sm z : Bool) (d a : Reg) (r : Fin 4) (f : Fin 8),
  let v := BitVec.ofNat 64 (sfuEval f.val z (rmodeOf r.val) ((s.rg (s.lowest s.cur) a).toNat % 2 ^ 32))
  (∀ c, s.findCtx s.cur = some c → c.role.getLsbD 2 = true → (s.cluster s.cur.cl).sfuq.length < 32 → Runs (.sfu sm d a r z f) s fun t =>
    t = { s with ctxs := t.ctxs, clusters := t.clusters } ∧ Moved sm (c.pc + 4) s t ∧
    (t.cluster s.cur.cl).sfuq = (s.cluster s.cur.cl).sfuq ++ [.scalar ((lateOf s d fun _ => v).map fun l => (l.dst, l.val)) d s.cur none]) ∧
  ((s.cluster s.cur.cl).sfuq.length < 32 → (s.ctx s.cur).role.getLsbD 2 = false → Traps (.sfu sm d a r z f) cROLE s) ∧
  (∀ vs e g w q, (s.cluster s.subj.cl).sfuq = .scalar vs e g w :: q → Runs .sfuEntryServe s fun t => t = { s with clusters := t.clusters } ∧
    (t.cluster s.subj.cl).sfuq = q ∧
    (t.cluster s.subj.cl).sfuOut = (s.cluster s.subj.cl).sfuOut ++ vs.map fun v => { dst := v.1, dest := .g e, val := v.2, away := w }) ∧
  (∀ l q e n m, (s.cluster s.subj.cl).sfuOut = l :: q → l.dest = .g e → e ≠ 0 → l.away = some (.team n) → s.team l.dst.cl n = some m →
    Runs .sfuResultWrite s fun t => t = { s with teams := t.teams, clusters := t.clusters } ∧ (t.cluster s.subj.cl).sfuOut = q ∧
      t.team l.dst.cl n = some { m with saved := m.saved.map fun c => if c.id = l.dst then { c with g := c.g.set e l.val } else c }) ∧
  (∀ l q e, (s.cluster s.subj.cl).sfuOut = l :: q → l.dest = .g e → e ≠ 0 → l.away = none → Runs .sfuResultWrite s fun t =>
    t = { s with ctxs := t.ctxs, clusters := t.clusters } ∧ (t.cluster s.subj.cl).sfuOut = q ∧
    ∀ id, t.findCtx id = (s.findCtx id).map fun c => if id = l.dst then { c with g := c.g.set e l.val } else c)

/-! ### The matrix engine -/

/-- R275 to R283, R286 to R288, R293 to R296, R344, R345: each operation of the MAT major, and `mx.spmm`, with operands that pass the checks of issue,
joins its quadrant's queue and answers how many more the queue takes; `mx.cfg`'s word is in force for later checks at once. A context without role M
traps with ROLE. It rests on choices of the model: log entries 62, 68 and 157. -/
def Obligations.MatrixIssue : Prop := ∀ (s u : State) (sm v o st w : Bool) (a b d : Reg) (n : Fin 8) (v1 v2 : Option View),
  let c := s.ctx s.cur
  let joined := s.isFused s.cur
  let q := mxQueue joined s.cur.pipe
  let g := s.icfg q
  let ga := s.rg (s.lowest s.cur) a
  let gb := s.rg (s.lowest s.cur) b
  let ldRing := if wb gb 0 then some (wfld gb 1 3, wfld gb 4 3) else none
  let stRing := if wb gb 4 then some (wfld gb 5 3, wfld gb 8 3) else none
  let cmd := fun (op : Nat) (ring : Option (Nat × Nat)) => ({
    op := op, by_ := s.behalf c, joined := joined, cfg := g, ga := ga, gb := gb, v1 := v1, v2 := v2, arv := v
    sig := { bar := if v then some (mcBar g, mcExp g) else none, ring := ring }, oc := u.ocNext, team := c.team.getD 0 } : MCmd)
  let bare := fun (op : Nat) => { cmd op none with ga := 0, gb := 0 }
  let joins := ∀ i ∈ mxQuads joined q, mcJoin (s.icfg i) = joined
  let pair := joins ∧ ∀ i ∈ mxQuads joined q, (pairOf (s.icfg i)).isSome = true
  let acc := if joined then n.val < 2 else n.val / 2 = q
  let queues := fun (i : Instr) (m : MCmd) => Runs i s (MxQueued sm d q [] (fun _ => m) g u)
  (MxReady false none noRecs v1 v2 s u → wfld ga 9 7 = 0 → wfld ga 25 7 = 0 → wfld ga 46 18 = 0 → (pairOf ga).isSome = true → mcJoin ga = joined →
    Runs (.mxCfg sm a d) s (MxQueued sm d q (mxQuads joined q)
      (fun _ => { bare 0 with cfg := ga, ga := ga, arv := false, sig := {}, v1 := none, v2 := none }) ga u)) ∧
  (MxReady v ldRing (mxLdRec c g joined o ga) v1 v2 s u → pair → wfld ga 16 48 = 0 → wfld gb 7 57 = 0 →
    queues (.mxLd sm a b d v o st) { cmd 1 ldRing with set1 := st, opB := o }) ∧
  (MxReady v none noRecs v1 v2 s u → pair → acc →
    queues (.mxMma sm d v st n) { bare 2 with set1 := st, acc := n.val } ∧ queues (.mxZero sm d v n) { bare 3 with acc := n.val }) ∧
  (MxReady v stRing (mxStRec c joined ga gb) v1 v2 s u → pair → acc → wfld ga 16 48 = 0 → wfld gb 11 53 = 0 → (dwSat gb && dwNosat gb) = false →
    queues (.mxSt sm a b d v n) { cmd 4 stRing with acc := n.val }) ∧
  (MxReady v none (gmLayRec c ga) v1 v2 s u → joins → wfld ga 16 48 = 0 → queues (.gmLay sm a b d v) (cmd 5 none)) ∧
  (MxReady v none (gmGemvRec c ga) v1 v2 s u → joins → wfld ga 32 32 = 0 → queues (.gmGemv sm a b d v) (cmd 6 none)) ∧
  (MxReady v none (spmmRec c g joined gb) v1 v2 s u → pair → acc → wfld ga 56 8 = 0 → spmmPair g = true →
    queues (.mxSpmm sm a b d v w n) { cmd 7 none with acc := n.val, nowait := w }) ∧
  ((s.quad s.cur.cl q).queue.length < 8 → c.role.getLsbD 1 = false →
    (∀ i ∈ ([.mxCfg sm a d, .mxMma sm d false st n, .mxZero sm d false n, .gmLay sm a b d false, .gmGemv sm a b d false,
      .mxSpmm sm a b d false w n] : List Instr), Traps i cROLE s) ∧
    (wb gb 0 = false → Traps (.mxLd sm a b d false o st) cROLE s) ∧ (wb gb 4 = false → Traps (.mxSt sm a b d false n) cROLE s))

/-- R23, R94 to R98, R153, R279, R281, R281 to R288, R286, R291, R293 to R296, R346: a configuration at the head of its queue, once nothing earlier
acts on its quadrants, is written, empties both operand buffer sets and clears the error state; `mx.zero` makes every element of its accumulator +0 in
the use of the pair; a command of a quadrant in error state completes without effect. Each leaves the head of its queue, and OCM learns of it. What
matrix commands compute once nothing stops them, over views in the vector registers: `mx.ld` fills an operand buffer with the view's elements, row by
row; `mx.mma` adds the products of the buffers, K block by K block, to every element of its accumulator, each block's exact term with one rounding to
W40, or wrapping in 32 bits; `mx.st` writes every element rounded once to the destination's type, saturating as the drain word and the type say;
`mx.spmm` adds the products of a tile's nonzeros with the rows of B in the same way; the rows that `gm.lay` writes hold the view's elements, padded
with zeros; `gm.gemv` writes, of each row and vector, the sum of its slabs' partial sums in their order. It rests on choices of the model: log entries
67 and 74. -/
def Obligations.MatrixEvents : Prop :=
  (∀ (s : State) (c : MCmd), let cl := s.subj.cl; let q := s.subj.num
  (s.quad cl q).queue.head? = some c → (s.cluster cl).quads.length = 4 → q < 4 → c.joined = false → c.sig = {} →
  let left := fun (t : State) (k : Quad) => t.quad cl q = { k with queue := (s.quad cl q).queue.drop 1 } ∧ (∀ j, j ≠ q → t.quad cl j = s.quad cl j) ∧
    (∀ k, t.cluster k = if k = cl then { s.cluster k with quads := (t.cluster k).quads } else s.cluster k) ∧
    t.ocq = retireHeads (s.ocq.map fun e => if e.ticket = c.oc then { e with done := true } else e) []
  (c.op = 0 → s.mxEarlier cl q c = false → Runs .mxCfgApply s fun t => t = { s with clusters := t.clusters, ocq := t.ocq } ∧
    left t { s.quad cl q with cfg := c.cfg, a0 := {}, b0 := {}, a1 := {}, b1 := {}, err := false, errv := 0 }) ∧
  (c.op = 3 → c.prog = 0 → (s.quad cl q).err = false → c.acc / 2 = q → Runs .matrixCommandComplete s fun t =>
    t = { s with clusters := t.clusters, ocq := t.ocq, acc := t.acc } ∧
    (let int := pairOf c.cfg == some .int
     left t (if c.acc % 2 = 0 then { s.quad cl q with int0 := int } else { s.quad cl q with int1 := int })) ∧
    (∀ i j, i < 32 → j < 32 → kvRead 0 t.acc (accKey cl c.acc i j) = 0) ∧
    ∀ k, k < accKey cl c.acc 0 0 ∨ accKey cl c.acc 0 0 + 1024 ≤ k → kvRead 0 t.acc k = kvRead 0 s.acc k) ∧
  (c.op ≠ 0 → (s.quad cl q).err = true → Runs .matrixCommandComplete s fun t => t = { s with clusters := t.clusters, ocq := t.ocq } ∧ left t (s.quad cl q))) ∧
  (∀ (s : State) (c : MCmd) (p : Pair) (v : View) (val : Nat × Nat × Nat → Nat),
  let cl := s.subj.cl
  let q := s.subj.num
  let k := s.quad cl q
  let id := c.by_.ctx
  let size := if c.joined then 64 else 32
  k.queue.head? = some c → (s.cluster cl).quads.length = 4 → q < 4 → (∀ i ∈ mxQuads c.joined q, (s.quad cl i).err = false) → s.subj.n = 0 →
  (if c.joined then q = 0 ∧ c.acc < 2 else c.acc / 2 = q) → c.sig = {} → c.prog = 0 → id.cl = cl → pairOf c.cfg = some p → s.vrsPoison = [] →
  let el := fun (b : MBuf) (r n : Nat) => if r < b.rows ∧ n < b.k then
    some ((b.codes[r * b.k + n]?).getD 0, (b.meta_[r * ((b.k + 15) / 16) + n / 16]?).getD 0) else none
  let both := fun (x y : Option MEl) => x.bind fun a => y.map fun b => (a, b)
  let sums := fun (t : State) (blks : Nat) (terms : Nat → Nat → Nat → Option (MEl × MEl)) => ∀ i j, i < size → j < size →
    t.accRead cl c.joined c.acc i j = accSum c.cfg p (accBefore s cl c.joined c.acc p.isInt i j)
      ((List.range blks).map fun b => (List.range 16).filterMap fun d => terms i j (16 * b + d))
  (c.op = 1 → c.v1 = some v → InRegs v → v.ext 2 = 1 → v.ext 3 = 1 → c.got = [] → Runs .matrixCommandComplete s fun t =>
    t = { s with clusters := t.clusters, ocq := t.ocq } ∧
    (let m := (t.quad cl q).buf c.set1 c.opB
     m.rows = v.ext 1 ∧ m.k = v.ext 0 ∧ ∀ r n, r < v.ext 1 → n < v.ext 0 → el m r n = some (vrCode s id v (n, r, 0, 0), 0))) ∧
  (c.op = 2 → Runs .matrixCommandComplete s fun t => t = { s with clusters := t.clusters, ocq := t.ocq, acc := t.acc } ∧
    (let a := k.buf c.set1 false
     let b := k.buf c.set1 true
     sums t ((max a.k b.k + 15) / 16) fun i j n => both (el a i n) (el b j n))) ∧
  (∀ int, c.op = 4 → c.v1 = some v → InRegs v → v.ext 2 = 1 → v.ext 3 = 1 → (∀ x ∈ accParts c.joined c.acc, tileInt (s.cluster cl) x.1 = int) →
    (if int then 9 ≤ v.ty ∧ v.ty ≤ 11 else 2 ≤ v.ty ∧ v.ty ≤ 6) → Runs .matrixCommandComplete s fun t =>
      t = { s with clusters := t.clusters, ocq := t.ocq, vrs := t.vrs } ∧
      ∀ i j f, i < v.ext 1 → j < v.ext 0 → f = recFmt v.ty →
        let x := s.accRead cl c.joined c.acc i j
        let w := tyBits v.ty
        vrCode t id v (j, i, 0, 0) = (if int then
            (let y := signedOf 32 x
             (if wb c.gb 3 then y else max (-(2 ^ (w - 1) : Int)) (min (2 ^ (w - 1) - 1) y)) % 2 ^ w).toNat
          else roundTo f (rmodeOf (wfld c.gb 0 2)) (if f = .e4m3 ∨ f = .e5m2 then !wb c.gb 3 else wb c.gb 2) (decodeFloat .w40 x) % 2 ^ w)) ∧
  (∀ ex nz, c.op = 7 → c.v1 = some v → InRegs v → v.ext 2 = 1 → v.ext 3 = 1 → 0 < v.ext 1 → c.going = some (ex, nz) → c.written = [] →
    (nz.map fun e => (e.1, e.2.1)).Nodup → (∀ e ∈ nz, e.1 < size ∧ e.2.1 < size) →
    (∀ e ∈ nz, ∀ a l, readValue (whoB c.by_) c.vals (wfld c.cfg 0 8) e.2.2 { s with acc := a, clusters := l } =
      (.ok (val e), { s with acc := a, clusters := l })) → Runs .matrixCommandComplete s fun t =>
      t = { s with clusters := t.clusters, ocq := t.ocq, acc := t.acc } ∧
      sums t ((v.ext 1 + 15) / 16) fun i j n => if j < v.ext 0 ∧ n < v.ext 1 then
        (nz.find? fun e => decide (e.1 = i ∧ e.2.1 = n)).map fun e => ((val e, 0), (vrCode s id v (j, n, 0, 0), 0)) else none) ∧
  (∀ g sl r, InRegs v → v.ext 2 = 1 → v.ext 3 = 1 → v.ext 0 = g.kcols → v.ext 1 = g.rows → v.ty = g.wtype →
    gmRow g c v r sl s = (.ok ((List.range (if tyBits g.wtype = 8 then 8192 else 4096)).flatMap fun n =>
      let m := sl * (if tyBits g.wtype = 8 then 8192 else 4096) + n
      leBytes (tyBits g.wtype / 8) (if r < g.rows ∧ m < g.kcols then vrCode s id v (m, r, 0, 0) else 0)), s)) ∧
  (∀ (P : Nat → State → Prop) (x : View) (b : List Byte) (ws : Nat → Nat → List Byte) (xs : Nat → Nat → Nat) (T : Nat → Nat → Target),
    c.op = 6 → c.v1 = some v → c.v2 = some x →
    let g := parseGmd b
    let kt := if tyBits g.wtype = 8 then 8192 else 4096
    let n := tyBits g.wtype / 8
    let act := if g.wtype = 4 then 4 else 3
    let y := fun i j => ((List.range g.ns).tail.foldl (fun a sl => roundTo .f32 .rne false ((decodeFloat .f32 a).add .rne
      (decodeFloat .f32 (slabSum (recFmt g.wtype) (recFmt act) (splitNums n (ws i sl)) ((((List.range g.kcols).map fun m => xs m j).drop (sl * kt)).take kt)))))
      (slabSum (recFmt g.wtype) (recFmt act) (splitNums n (ws i 0)) (((List.range g.kcols).map fun m => xs m j).take kt)))
    let keeps := fun {α : Type} (m : Eng α) (a : α) => ∀ e u, P e u → ∃ u', m u = (.ok a, u') ∧ P e u'
    g.region % 2 ^ 21 = 0 → 1 ≤ g.rows → g.rows ≤ 2 ^ 24 → 1 ≤ g.kcols → g.kcols ≤ 2 ^ 20 → 3 ≤ g.wtype → g.wtype ≤ 6 → g.valid = true → 1 ≤ g.ns →
    v.ext 0 = g.rows → x.ext 0 = g.kcols → x.ty = act → P 0 s → keeps (readGmd (whoB c.by_) c.gb.toNat) b →
    (∀ i, i < (g.rows + 255) / 256 * g.ns → keeps (gmPage c.by_ (g.region + i * 2 ^ 21)) ()) →
    (∀ m j, m < g.kcols → j < v.ext 1 → keeps (x.read c.by_ (x.off (m, j, 0, 0))) (xs m j)) →
    (∀ i sl, i < g.rows → sl < g.ns → keeps (readBytes (whoB c.by_) (g.region + (i / 256 * g.ns + sl) * 2 ^ 21 + 8192 * (i % 256))
      (n * min kt (g.kcols - sl * kt))) (ws i sl)) →
    (∀ i j, i < g.rows → j < v.ext 1 → keeps (v.target c.by_ .write (v.off (i, j, 0, 0))) (T i j)) →
    (∀ i j u, i < g.rows → j < v.ext 1 → P (i * v.ext 1 + j) u → P (i * v.ext 1 + j + 1) (u.putCodes v id false [(j * v.ext 0 + i, T i j, y i j)])) →
    Runs .matrixCommandComplete s fun t => ∃ u, P (g.rows * v.ext 1) u ∧ t = { u with clusters := t.clusters, ocq := t.ocq }))

/-! ### Copies and collectives -/

/-- R298 to R301, R306, R307: `cp.bulk`, `ga.gath` and `sc.scat`, with operands that pass the checks of issue, are outstanding with their tag and
their ring, count in OCC or OCG, and answer 0; a context without role C traps with ROLE. It rests on choices of the model: log entries 68, 71, 72, 73
and 157. -/
def Obligations.CopyIssue : Prop := ∀ (s u : State) (sm : Bool) (a b d : Reg) (sb : Fin 8) (dv sv ix : View),
  let ga := s.rg (s.lowest s.cur) a
  let gb := s.rg (s.lowest s.cur) b
  (CopyReady 0 0 ga gb dv sv none s u → Runs (.cpBulk sm a b d) s (CopyQueued 0 0 .occ sm gb d dv sv none s u)) ∧
  (CopyReady 2 0 ga gb dv sv (some ix) s u → Runs (.gaGath sm a b d) s (CopyQueued 2 0 .ocg sm gb d dv sv (some ix) s u)) ∧
  (CopyReady 3 sb.val ga gb dv sv (some ix) s u → Runs (.scScat sm a b d sb) s (CopyQueued 3 sb.val .ocg sm gb d dv sv (some ix) s u)) ∧
  ((s.ctx s.cur).role.getLsbD 0 = false → s.copiesIn s.cur.cl < 512 → wb gb 6 = false →
    Traps (.cpBulk sm a b d) cROLE s ∧ Traps (.gaGath sm a b d) cROLE s ∧ Traps (.scScat sm a b d sb) cROLE s) ∧
  ((s.ctx s.cur).role.getLsbD 0 = false → Traps (.cpCancel sm a d) cROLE s)

/-- R153, R154, R251, R301, R302, R304, R305, R306 to R308: a bulk copy that has run to its end leaves the list; with the last outstanding command of
its tag, the tag's bit is set in ARRIVED, and in ERRTAGS where one of them failed; its counter learns of it. `cp.cancel` answers how many commands it
cancels. Which bytes a command of the copy unit moves, between views in the vector registers of its context that share no byte: a bulk copy gives each
element of its destination the bytes of the source element of the same number; a gather gives row j of its destination the row that index j names, and
zeros where it names none; a scatter gives the row that index j names row j of its source, and nothing where it names none. Every other byte stays. It
rests on choices of the model: log entries 69 and 89. -/
def Obligations.CopyEvents : Prop :=
  (∀ (s u : State) (sm : Bool) (a d : Reg) (c c' : Copy),
  (s.copies[s.subj.n]? = some c → c.kind = 0 → c.advance s.subj.num s = (c', u) → c'.kind = 0 →
    (c'.finished = true → c'.ring = none → (u.ctxs.any fun x => decide (x.id = c'.by_.ctx ∧ x.team = c'.by_.team)) = true → Runs .copyComplete s fun t =>
      t = { u with ctxs := t.ctxs, copies := t.copies, ocq := t.ocq } ∧ t.copies = u.copies.eraseIdx s.subj.n ∧
      t.ocq = retireHeads (u.ocq.map fun e => if e.ticket = c'.oc then { e with done := true } else e) [] ∧
      (let bit := BitVec.ofNat 64 (2 ^ c'.tag)
       let last := !State.tagBusy { u with copies := t.copies } c'.by_ c'.tag
       ∀ id, t.findCtx id = (u.findCtx id).map fun x => if id = c'.by_.ctx then
         { x with
           arrived := if last then x.arrived ||| bit else x.arrived
           errtags := if last && (c'.err || (x.tagErr &&& bit) != 0) then x.errtags ||| bit else x.errtags
           tagErr := (t.ctx id).tagErr } else x)) ∧
    (c'.finished = false → Runs .copyComplete s fun t => t = { u with copies := u.copies.set s.subj.n c' })) ∧
  (∀ x, s.findCtx s.cur = some x → x.grp = none → x.role.getLsbD 0 = true →
    let hit := fun (p : Copy) => p.cancels s.cur x.team (s.rg s.cur a)
    (∀ p ∈ s.copies, hit p = true ∨ p.cancelled = true → p.stall = none) → Runs (.cpCancel sm a d) s fun t =>
      t.copies = (s.copies.map fun p => if hit p then { p with cancelled := true } else p) ∧
      Owes (oneLate s d (BitVec.ofNat 64 (s.copies.filter hit).length) none) sm (x.pc + 4) { s with copies := t.copies } t)) ∧
  (∀ (s : State) (c : Copy), s.copies[s.subj.n]? = some c → s.subj.num = 0 →
  c.stall = none → c.cancelled = false → c.nomem = false → c.chunk = 0 → c.seen = [] → c.ring = none → s.vrsPoison = [] →
  InRegs c.d → InRegs c.s → Disjoint2 c.d c.s → c.d.ty = c.s.ty →
  let id := c.by_.ctx
  let kept := fun (t : State) => t.mem = s.mem ∧ t.ls = s.ls ∧ ∀ a, (∀ i, c.d.holds i → a < c.d.vrKey id i ∨ c.d.vrKey id i + c.d.width ≤ a) →
    Memory.read t.vrs a = Memory.read s.vrs a
  (c.kind = 0 → c.d.count = c.s.count → Runs .copyComplete s fun t => kept t ∧
    ∀ f, f < c.d.count → vrBytes t id c.d (c.d.tup f) = vrBytes s id c.s (c.s.tup f)) ∧
  ∀ x, c.ix = some x → InRegs x → Disjoint2 c.d x → s.subj.ok = true → copyFits c.kind c.sub c.d c.s (some x) = true → 0 < c.s.count → 0 < c.d.count →
    let ix := fun (j : Nat) => intVal (tyBits x.ty) (tyUns x.ty false) (vrCode s id x (x.tup j))
    (c.kind = 2 → Runs .gatherScatterComplete s fun t => kept t ∧ ∀ i j, i < c.d.ext 0 → j < c.d.ext 1 →
      vrBytes t id c.d (i, j, 0, 0) = if 0 ≤ ix j ∧ ix j < c.s.ext 1 then vrBytes s id c.s (i, (ix j).toNat, 0, 0) else List.replicate c.d.width 0) ∧
    (c.kind = 3 → c.sub = 0 → (∀ j n, j < x.count → n < x.count → ix j = ix n → j = n) → Runs .gatherScatterComplete s fun t => kept t ∧
      (∀ i j, i < c.d.ext 0 → j < x.count → 0 ≤ ix j → ix j < c.d.ext 1 → vrBytes t id c.d (i, (ix j).toNat, 0, 0) = vrBytes s id c.s (i, j, 0, 0)) ∧
      ∀ i r, i < c.d.ext 0 → r < c.d.ext 1 → (∀ j, j < x.count → ix j ≠ (r : Int)) → vrBytes t id c.d (i, r, 0, 0) = vrBytes s id c.d (i, r, 0, 0)))

/-- R309 to R312, R317: each collective, `cl.send` and `cl.recv`, with operands that pass the checks of issue, is outstanding on its instance, counts
in OCL and answers 0; a context without role C traps with ROLE, one whose handle names no communicator that it is bound to with HANDLE_STALE. It rests
on choices of the model: log entry 75. -/
def Obligations.CollectiveIssue : Prop := ∀ (s u : State) (sm : Bool) (a b d : Reg) (sb : Fin 8) (k : Comm) (rank : Nat) (l : LsAt) (send recv : Option View)
    (ty cnt : Nat),
  let ga := s.rg (s.lowest s.cur) a
  let gb := s.rg (s.lowest s.cur) b
  let ops : List (Instr × Nat × Nat) := [(.clAr sm a b d sb, 4, sb.val), (.clAg sm a b d, 5, 0), (.clRs sm a b d sb, 6, sb.val), (.clBc sm a b d, 7, 0),
    (.clSend sm a b d, 8, 0), (.clRecv sm a b d, 9, 0)]
  ∀ o ∈ ops, (CollReady o.2.1 o.2.2 ga gb k rank l send recv ty cnt s u → Runs o.1 s (CollQueued o.2.1 o.2.2 sm gb d k rank l send recv ty cnt s u)) ∧
    ((s.ctx s.cur).role.getLsbD 0 = false → s.collRoom (s.ctx s.cur) gb = none → wb gb 6 = false → Traps o.1 cROLE s) ∧
    ((s.ctx s.cur).role.getLsbD 0 = true → wb gb 6 = false → wfld gb 13 3 = 0 → wfld gb 48 16 = 0 → s.handleOf (s.ctx s.cur) (wfld gb 16 32) = none →
      Traps o.1 cHANDLE_STALE s)

/-- R311, R314, R315, R318, R461: `cl.abort` makes its instance end ABORTED with its code and rank; so does a member's abort on another package, a
decision of the coordinator on another package is taken over, a time-out and a lost coordinator end it, and when every receive view is written it ends
OK: the first of these that is recorded counts. A command whose instance has ended leaves the list. It rests on choices of the model: log entries 79
and 80. -/
def Obligations.CollectiveEvents : Prop := ∀ (s : State) (sm : Bool) (a b d : Reg) (c : Ctx) (x : Coll) (k : Comm),
  let ends := fun (part slot : Nat) (gen : BitVec 16) (inst status code rank : Nat) (t : State) =>
    t = { s with decided := t.decided, msgOut := t.msgOut } ∧
    t.decided = s.decided ++ [{ part := part, cslot := slot, gen := gen, inst := inst, status := status, code := code, rank := rank }]
  (∀ rank, s.findCtx s.cur = some c → c.grp = none → c.role.getLsbD 0 = true →
    let ga := s.rg (s.lowest s.cur) a
    let gb := s.rg (s.lowest s.cur) b
    wfld ga 8 56 = 0 → wfld gb 0 16 = 0 → wfld gb 48 16 = 0 → s.handleOf c (wfld gb 16 32) = some (k, rank) →
    (wfld gb 16 32 / 65536 ≠ k.gen.toNat → Runs (.clAbort sm a b d) s (Owes (oneLate s d 3 none) sm (c.pc + 4) s)) ∧
    (wfld gb 16 32 / 65536 = k.gen.toNat → s.collOf c k.part k.slot k.gen.toNat = none → Runs (.clAbort sm a b d) s (Owes (oneLate s d 2 none) sm (c.pc + 4) s)) ∧
    (wfld gb 16 32 / 65536 = k.gen.toNat → s.collOf c k.part k.slot k.gen.toNat = some x → s.verdictOf x = none → x.asked = false →
      s.coordLocal k x.inst = true →
      Runs (.clAbort sm a b d) s fun t => ∃ v, ends x.part x.cslot x.gen x.inst 1 (wfld ga 0 8) x.rank v ∧ Owes (oneLate s d 0 none) sm (c.pc + 4) v t)) ∧
  (∀ m, s.subj.msg = some m → (s.comms.find? fun k => k.used && decide (k.part = s.subj.part ∧ k.cid = m.cid ∧ k.gen = m.gen)) = some k →
    s.decidedAs k.part k.slot k.gen m.inst = none → s.standsStill k.part = false →
    (s.subj.num = 1 → Runs .collectiveMessage s (ends k.part k.slot k.gen m.inst s.subj.lo (s.subj.hi % 256) (s.subj.hi / 256))) ∧
    (s.subj.num = 2 → s.coordLocal k m.inst = true → Runs .collectiveMessage s (ends k.part k.slot k.gen m.inst 1 s.subj.lo m.rank))) ∧
  (∀ t0, let l := s.shares k.part k.slot k.gen s.subj.n
    s.comm s.subj.part s.subj.num = some k → firstIssue l = some t0 → s.coordLocal k s.subj.n = true → t0 + k.tms * 1000000 ≤ s.gtime →
    s.decidedAs k.part k.slot k.gen s.subj.n = none → Runs .collectiveTimeout s (ends k.part k.slot k.gen s.subj.n 2 0
      ((((instSides k.members.length s.subj.n).find? fun r => (sideOf l r).isNone).map Prod.fst).getD 0xFFFF))) ∧
  (s.colls[s.subj.n]? = some x →
    (s.comm x.part x.cslot = some k → s.verdictOf x = none → s.coordLocal k x.inst = false → x.since + 2 * k.tms * 1000000 ≤ s.gtime →
      Runs .coordinatorContactLost s fun t => t = { s with
        colls := s.colls.set s.subj.n { x with verdict := some (3, 0, (s.coordinator k x.inst).getD 0xFFFF) } }) ∧
    (s.comm x.part x.cslot = some k → s.verdictOf x = none → s.coordLocal k x.inst = true → x.sent = true → x.wrote = true → x.nomem = false →
      s.allWrote x = true → Runs .collectiveComplete s (ends x.part x.cslot x.gen x.inst 0 0 0xFFFF)) ∧
    (∀ code rank, s.verdictOf x = some (0, code, rank) → Runs .collectiveComplete s fun t => t.colls = s.colls.eraseIdx s.subj.n))

/-! ### Streams and Sinter -/

/-- R325, R326, R329, R332 to R334, R336, R337: `sq.end`, `sq.crd`, `sq.pos` and `sq.close` on a level stream answer from, or close, the team's
registers; a closed stream is at its end with all-ones answers; of a stream whose descriptor has been changed since its opening the answers are values
that nothing fixes. A number at or beyond the team's count raises ILLEGAL. `sq.open` opens a level of a descriptor and answers its fibre's length;
`sq.next` and `sq.seek` move a level stream as its level's kind says, a D level by counting; a stream at its end stays there. `sq.isect` over operands
that agree and `sq.union` bind their operands and settle. It rests on choices of the model: log entries 81, 83, 84 and 141. -/
def Obligations.StreamLevels : Prop :=
  (∀ (s : State) (m : Team) (sm : Bool) (d : Reg) (p : PReg) (n : Fin 16),
  let q := (m.streams[n.val]?).getD {}
  let u := s.drainGroup s.cur
  let closed := q.kind = 0
  (Streaming m n.val s → u.changed (whoOf (s.ctx s.cur)) m.streams sqDepth n.val = true → ∃ f x,
    Runs (.sqEnd sm p n) s (Streamed m m.streams (lateOfPred s p fun _ => f) sm { u with freeCtr := u.freeCtr + 1 }) ∧
    Runs (.sqCrd sm d n) s (Streamed m m.streams (oneLate s d x none) sm { u with freeCtr := u.freeCtr + 1 })) ∧
  (Streaming m n.val s → u.changed (whoOf (s.ctx s.cur)) m.streams sqDepth n.val = false → Settled s u ∧
    Runs (.sqEnd sm p n) s (Streamed m m.streams (lateOfPred s p fun _ => decide (closed ∨ q.atEnd = true)) sm u) ∧
    Runs (.sqCrd sm d n) s (Streamed m m.streams (oneLate s d (if closed then 0xFFFFFFFF else q.crd.setWidth 64) none) sm u) ∧
    (q.kind < 5 → Runs (.sqPos sm d n false) s (Streamed m m.streams (oneLate s d (if closed ∨ q.atEnd = true then -1 else q.pos) none) sm u)) ∧
    (5 ≤ q.kind → q.presB = false → Runs (.sqPos sm d n true) s (Streamed m m.streams (oneLate s d (-1) none) sm u)) ∧
    (q.kind < 5 → q.bound = false → Runs (.sqClose sm n) s (Streamed m (m.streams.set n.val {}) [] sm u)) ∧
    (0 < q.kind → q.kind < 5 → Traps (.sqPos sm d n true) cILLEGAL s)) ∧
  (∀ c, s.findCtx s.cur = some c → c.grp = none → s.teamOf s.cur = some m → m.streams.length ≤ n.val →
    Traps (.sqEnd sm p n) cILLEGAL s ∧ Traps (.sqCrd sm d n) cILLEGAL s ∧ Traps (.sqPos sm d n false) cILLEGAL s ∧ Traps (.sqClose sm n) cILLEGAL s ∧
      Traps (.sqNext sm n) cILLEGAL s)) ∧
  (∀ (s u u1 v : State) (m : Team) (sm : Bool) (a b d : Reg) (n x y : Fin 16) (q q' : Stream) (dsc : SDesc),
  u = s.drainGroup s.cur → StoodBy s v → Streaming m (max n.val (max x.val y.val)) s →
  let w := whoOf (s.ctx s.cur)
  let ga := s.rg s.cur a
  let gb := s.rg s.cur b
  let st := m.streams
  let mine := fun (x : State) (st' : List Stream) => Streams.ofGroup (x.behalf (s.ctx s.cur)) st st'
  let put := fun (x : State) (q' : Stream) => mine x (st.set n.val q')
  (∀ len, wfld ga 0 6 = 0 → wfld ga 58 6 = 0 → readDesc w (wfld ga 0 56) u = (.ok dsc, u1) → wfld ga 56 2 < dsc.nlvl → (wfld ga 56 2 = 0 → gb = 0) →
    lvOpen w dsc (wfld ga 56 2) gb.toNat u1 = (.ok (q', len), v) →
    Runs (.sqOpen sm a b d n) s (Streamed m (mine v ((closeSq sqDepth n.val st).set n.val q')) (oneLate s d (BitVec.ofNat 64 len) none) sm v)) ∧
  (st[n.val]? = some q → 0 < q.kind → q.kind < 5 → q.bound = false →
    (q.atEnd = true → Runs (.sqNext sm n) s (Streamed m st [] sm u)) ∧
    (q.atEnd = false → lvNext w q u = (.ok q', v) → Runs (.sqNext sm n) s (Streamed m (put v q') [] sm v)) ∧
    (q.atEnd = false → q.kind = 1 → q.d.isSome → q.pos.toNat + 1 < q.end_.toNat →
      Runs (.sqNext sm n) s (Streamed m (put u { q with pos := q.pos + 1, crd := q.crd + 1 }) [] sm u)) ∧
    (wfld ga 32 32 = 0 → q.ordered = true →
      (q.atEnd = true ∨ ga.toNat ≤ q.crd.toNat → Runs (.sqSeek sm a n) s (Streamed m st [] sm u)) ∧
      (q.atEnd = false → q.crd.toNat < ga.toNat → lvSeek w q ga.toNat u = (.ok q', v) → Runs (.sqSeek sm a n) s (Streamed m (put v q') [] sm v)) ∧
      (q.atEnd = false → q.crd.toNat < ga.toNat → q.kind = 1 → q.d.isSome → ga.toNat < q.e → Runs (.sqSeek sm a n) s (Streamed m (put u
        { q with pos := q.pos + BitVec.ofNat 64 (ga.toNat - q.crd.toNat), crd := BitVec.ofNat 32 ga.toNat }) [] sm u)))) ∧
  (let sa := (st[x.val]?).getD {}
   let sb := (st[y.val]?).getD {}
   let bound := fun (s' : Stream) => mine u (((st.set n.val s').set x.val { sa with bound := true, pa := n.val, pb := y.val }).set y.val
     { sb with bound := true, pa := n.val, pb := x.val })
   n ≠ x → n ≠ y → x ≠ y → (st[n.val]?).map Stream.kind = some 0 → 0 < sa.kind → 0 < sb.kind → sa.bound = false → sb.bound = false →
   sa.ordUnq = true → sb.ordUnq = true →
   (sa.atEnd = false → sb.atEnd = false → sa.crd = sb.crd → Runs (.sqIsect sm x y n) s (Streamed m
     (bound { kind := 5, pa := x.val, pb := y.val, oa := x.val, ob := y.val, crd := sa.crd, presA := true, presB := true }) [] sm u)) ∧
   (sa.atEnd = true ∨ sb.atEnd = true → Runs (.sqIsect sm x y n) s (Streamed m
     (bound { kind := 5, pa := x.val, pb := y.val, oa := x.val, ob := y.val, crd := 0xFFFFFFFF, atEnd := true }) [] sm u)) ∧
   (let ca := if sa.atEnd then 0xFFFFFFFF else sa.crd
    let cb := if sb.atEnd then 0xFFFFFFFF else sb.crd
    let c := if ca ≤ cb then ca else cb
    Runs (.sqUnion sm x y n) s (Streamed m (bound {
      kind := 6, pa := x.val, pb := y.val, oa := x.val, ob := y.val, crd := c, atEnd := sa.atEnd && sb.atEnd, presA := !sa.atEnd && ca == c
      presB := !sb.atEnd && cb == c }) [] sm u))))

/-- R327, R330, R339 to R342: `sq.drain` stores the entries it has taken as three arrays and answers their number; `sq.part` answers a share's bound;
`sq.save` stores a register's image, and `sq.rest` takes one of a closed stream or of a level; the fetcher, which reads on behalf of the group that
opened or moved the stream last, holds the blocks that it has read, and clears or sets FPEND. It rests on choices of the model: log entries 82 and 84.
-/
def Obligations.StreamImages : Prop := ∀ (s u u1 v : State) (m : Team) (sm w : Bool) (a b d : Reg) (n : Fin 16) (dsc : SDesc),
  u = s.drainGroup s.cur → Streaming m n.val s →
  let c := s.ctx s.cur
  let ga := s.rg s.cur a
  let gb := s.rg s.cur b
  let st := m.streams
  let pw := if w then 8 else 4
  let mine := fun (x : State) (st' : List Stream) => Streams.ofGroup (x.behalf c) st st'
  let k := wfld gb 0 13
  (∀ es st', StoodBy s v → wfld gb 13 51 = 0 → k ≤ 4096 → sqMovable st n.val = true → ga.toNat % 8 = 0 →
    u.ownBad c m ga.toNat ((4 + 2 * pw + (if w then 4 else 0)) * k) = none →
    drainSq (whoOf c) n.val w k false st u = (.ok (es, st', none), v) → v.changed (whoOf c) st sqDepth n.val = false → Runs (.sqDrain sm a b d n w) s fun t =>
      ∃ z, z = { v.settleOwnLs s.cur with ls := z.ls, sinter := z.sinter, compiles := z.compiles, teams := z.teams, clusters := z.clusters } ∧
      z = ((((v.settleOwnLs s.cur).ownPut c ga.toNat (es.flatMap fun e => leBytes 4 e.1.toNat)).ownPut c (ga.toNat + pw * k)
        (es.flatMap fun e => leBytes pw e.2.1.toNat)).ownPut c (ga.toNat + 2 * pw * k) (es.flatMap fun e => leBytes pw e.2.2.toNat)) ∧
      Streamed m (mine z st') (oneLate s d (BitVec.ofNat 64 es.length) none) sm z t ∧ es.length ≤ k) ∧
  (∀ i, StoodBy s v → wfld ga 0 6 = 0 → wfld ga 58 6 = 0 → wfld gb 32 32 = 0 → wfld gb 0 16 ≠ 0 → wfld gb 16 16 ≤ wfld gb 0 16 →
    readDesc (whoOf c) (wfld ga 0 56) u = (.ok dsc, u1) → wfld ga 56 2 < dsc.nlvl → dsc.kind (wfld ga 56 2) = 1 →
    (∀ j, j < wfld ga 56 2 → dsc.kind j = 0) → shareBound (whoOf c) dsc (wfld ga 56 2) (wfld gb 16 16) (wfld gb 0 16) u1 = (.ok i, v) →
    Runs (.sqPart sm a b d) s (Owes (oneLate s d (BitVec.ofNat 64 i) none) sm ((v.ctx v.cur).pc + 4) v)) ∧
  (imageAddr ga.toNat = none →
    (StoodBy s v → u.changed (whoOf c) st sqDepth n.val = false → u.engWrite (whoOf c) (some s.cur) ga.toNat ((streamWords ((st[n.val]?).getD {})).flatMap (leBytes 8)) = (.ok (), v) →
      Runs (.sqSave sm a n) s (Streamed m st [] sm (v.dropOwn s.cur ga.toNat 32))) ∧
    (∀ i, u.engRead (whoOf c) ga.toNat 32 = (.ok i, u1) → imageBad i = false →
      let x := imageStream i
      (StoodBy s u1 → x.kind = 0 → Runs (.sqRest sm a n) s (Streamed m (mine u1 ((closeSq sqDepth n.val st).set n.val x)) [] sm u1)) ∧
      (StoodBy s v → 0 < x.kind → x.kind < 5 → readDesc (whoOf c) x.desc u1 = (.ok dsc, v) → x.level < dsc.nlvl → dsc.kind x.level + 1 = x.kind →
        (x.atEnd = true ∨ x.crd.toNat < dsc.extent x.level) →
        Runs (.sqRest sm a n) s (Streamed m (mine v ((closeSq sqDepth n.val st).set n.val { x with d := some dsc })) [] sm v)))) ∧
  (∀ q o, s.team s.subj.cl s.subj.team = some m → m.streams[s.subj.num]? = some q → q.agent = some o → 0 < q.kind → q.kind < 5 →
    q.atEnd = false → ∀ r, sqAhead (whoB o) q s = (r, v) → v.subj = s.subj →
    (∀ h, r = .ok h → Runs .streamFetchComplete s fun t => t = v.modTeam m.cl m.num fun x => takeHeld s.subj.num h (setFpend s.subj.num false x)) ∧
    ((∃ va x y, r = .error (.stall va x y)) → Runs .streamFetchComplete s fun t => t = v.modTeam m.cl m.num (setFpend s.subj.num true)))

/-- R347, R351 to R361: `sp.stat` answers and clears a counter; `sp.inval` drops and counts programs; `sp.pin` marks an identity, at most 64 of a
cluster; `sp.pack` and `sp.unpack` answer the nonzeros; a finished compile is cached and given to its waiters, and one that a write has invalidated
sends them to stream mode. It rests on choices of the model: log entries 85, 86 and 87. -/
def Obligations.Sinter : Prop := ∀ (s u v : State) (c : Ctx) (m : Team) (sm o : Bool) (a b d : Reg) (g : Nat), s.findCtx s.cur = some c → c.grp = none →
  s.teamOf s.cur = some m → u = s.drainGroup s.cur →
  let ga := s.rg s.cur a
  let gb := s.rg s.cur b
  let all := fun (e : SCache) => decide (e.cl = s.cur.cl ∧ e.tile.desc = ga.toNat ∧ e.tile.domain = c.domain)
  let id : TileId := { desc := ga.toNat, tr := spTr gb, tc := spTc gb, gen := g, t := 32, domain := c.domain }
  let one := fun (e : SCache) => decide (e.cl = s.cur.cl ∧ e.tile = id)
  let counted := fun (l : List SCache) => BitVec.ofNat 64 (l.filter fun e => e.what.counted).length
  let gone := fun (late : Word) (v t : State) => Owes (oneLate s d late none) sm ((v.ctx v.cur).pc + 4) v t
  (ga.toNat < 5 → Runs (.spStat sm a d o) s fun t => ∃ v, v = (if o then s.modTeam m.cl m.num fun x =>
    { x with stats := x.stats.mapIdx fun i k => if i = ga.toNat then 0 else k } else s) ∧ gone (BitVec.ofNat 64 (min ((m.stats[ga.toNat]?).getD 0) (2 ^ 32 - 1))) v t) ∧
  (c.role.getLsbD 1 = true → wfld ga 56 8 = 0 →
    (gb = 0 → Runs (.spInval sm a b d true) s (gone (counted (s.sinter.filter all)) (s.dropSinter all))) ∧
    (wfld gb 48 16 = 0 → StoodBy s v → readGen (whoOf c) ga.toNat u = (.ok g, v) →
      Runs (.spInval sm a b d false) s (gone (counted (v.sinter.filter one)) (v.dropSinter one)) ∧
      Runs (.spPin sm a b d true) s (gone 0 (v.unpin s.cur.cl id)) ∧
      ((v.pins.any fun p => decide (p.cl = s.cur.cl ∧ p.tile = id)) = false →
        (64 ≤ (v.pins.filter fun p => decide (p.cl = s.cur.cl)).length → Runs (.spPin sm a b d false) s (gone 1 v)) ∧
        ((v.pins.filter fun p => decide (p.cl = s.cur.cl)).length < 64 → Runs (.spPin sm a b d false) s fun t => ∃ z, gone 0 z t ∧
          z = { v with pins := z.pins, sinter := z.sinter } ∧ z.pins = v.pins ++ [{ cl := s.cur.cl, tile := id, team := m.num }])))) ∧
  (c.role.getLsbD 1 = false → Traps (.spInval sm a b d o) cROLE s ∧ Traps (.spPin sm a b d o) cROLE s) ∧
  (c.role.getLsbD 0 = true → c.pageNomem = none → wfld ga 16 48 = 0 → ∀ u1 u2 dsc view,
    (∀ blk r, readBytes (whoOf c) gb.toNat 128 u = (.ok blk, u1) → descBad blk = false → u1.spView c ga = (.ok view, u2) → dsc = parseDesc gb.toNat blk →
      packOk dsc view = true → u2.ownView c view = true → packRun (whoOf c) (u2.behalf c) dsc blk view u2 = (.ok r, v) → StoodBy s v →
      Runs (.spPack sm a b d) s (gone r (v.cleanBanks s.cur))) ∧
    (u.spView c ga = (.ok view, u1) → view.beyondVrs c.vblocks = false → readDesc (whoOf c) gb.toNat u1 = (.ok dsc, u2) →
      u1.rg (u1.lowest u1.cur) b = gb → u1.cur = s.cur → unpackOk dsc view = true →
      unpackRows (whoOf c) (u2.behalf c) dsc view (view.ext 1) 0 u2 = (none, v) → StoodBy s v →
      Runs (.spUnpack sm a b d) s (gone (BitVec.ofNat 64 dsc.nnz) (v.cleanBanks s.cur)))) ∧
  (∀ k, (s.compiles.find? fun k => decide (k.cl = s.subj.cl)) = some k →
    let lines := progLines k.len
    let held := ((s.sinter.filter fun x => decide (x.cl = k.cl)).filter SCache.pinned |>.map SCache.lines).sum
    let told := fun (f : MCmd → MCmd) (t : State) => t.compiles = dropFirst (fun x : Compile => decide (x.cl = k.cl)) s.compiles ∧
      ∀ q j : Nat, (t.quad k.cl q).queue[j]? = ((s.quad k.cl q).queue[j]?).map fun x => if waitsFor k.tile x then f x else x
    (k.spoiled = true → Runs .sinterCompileComplete s fun t => t = { s with clusters := t.clusters, compiles := t.compiles } ∧
      told (fun x => { x with spoiled := true }) t) ∧
    (k.spoiled = false → Runs .sinterCompileComplete s fun t =>
      t = { s with sinter := t.sinter, compiles := t.compiles, teams := t.teams, clusters := t.clusters } ∧
      told (fun x => { x with once := x.once ++ [(k.part, k.nz)] }) t ∧
      (lines + ((s.sinter.filter fun x => decide (x.cl = k.cl)).map SCache.lines).sum ≤ 2048 → t.sinter = s.sinter ++ [{
        cl := k.cl, tile := k.tile, team := some k.team, what := .prog k.part k.nz, lines := lines
        pinned := (s.pins.any fun p => decide (p.cl = k.cl ∧ p.tile = k.tile)) && decide (held + lines ≤ 1024)
        ranges := k.ranges }])))

/-! ### Teams, clocks and gang switches -/

/-- R51, R57 to R59, R185, R390, R391, R429, R430, R438: a team whose wait passes the threshold becomes a candidate; one that a swap takes out issues
no more, leaves its slots once what runs to completion has done so, and stands there again as saved when it returns; Geyser waits where no cluster is
eligible for the head record's next team, has an empty cluster go to FLOOR first, and places the team, whose contexts begin at ENTRY; a watchdog trap;
a kill's record. It rests on choices of the model: log entries 13, 47, 95, 127, 138, 139 and 147. -/
def Obligations.TeamEvents : Prop := ∀ (s : State) (m : Team), let strip := fun (c : Ctx) => { c with pts := 0, mts := 0, vis := {} }
  (s.team s.subj.cl s.subj.team = some m →
    let left := fun (t : State) => (∀ c ∈ t.ctxs, ¬ (c.id.cl = m.cl ∧ c.team = some m.num)) ∧
      (∀ id, (∀ c ∈ s.teamCtxs m, c.id ≠ id) → (t.findCtx id).map strip = (s.findCtx id).map strip) ∧
      ∃ x, t.team m.cl m.num = some x ∧ x.swapped = true ∧ x.saved.map Ctx.id = (s.teamCtxs m).map Ctx.id ∧
        x.saved.map strip = (s.teamCtxs m).map strip
    let stops := fun (t : State) => t = { s with teams := t.teams } ∧ t.team m.cl m.num = some { m with swapping := true }
    Runs .swapThresholdExpiry s (fun t => t = { s with teams := t.teams } ∧
      t.team m.cl m.num = some { m with candidate := decide (1000 * m.tmpl.swap < s.longestWait m) }) ∧
    (s.swapDue m = true → Runs .teamSwapOut s stops) ∧ (s.swapReady m = true → Runs .teamSwapOut s left) ∧
    (∀ p, s.partOf s.subj.cl = some p → s.sliceDue p m = true → Runs .residencySliceEnd s stops) ∧
    (s.canRestore m = true → Runs .teamRestore s fun t => t.ctxs.map strip = (s.ctxs ++ m.saved.map fun (c : Ctx) => { c with drain := true }).map strip ∧
      (∃ x, t.team m.cl m.num = some x ∧ x.swapped = false ∧ x.since = s.gtime ∧ x.saved = []) ∧
      ∀ o, o < m.lsSize → Memory.read t.ls (lsKey m.cl m.lsBase + o) = Memory.read m.savedLs (lsKey m.cl m.lsBase + o))) ∧
  (∀ p k tm, s.partNo s.subj.part = some p → p.run = .running → s.subj.num = 0 → s.queueHead p.num = some k → k.tmpl = some tm →
    s.eligible p tm = [] → Runs .teamPlacement s fun t => t.ctxs = s.ctxs ∧ (t.partNo p.num).map Partition.placeWait = some (some k.idx)) ∧
  (∀ p k tm cl, s.partNo s.subj.part = some p → p.run = .running → s.subj.num = 0 → s.queueHead p.num = some k → k.tmpl = some tm →
    ((k.chosen = some cl ∧ cl ∈ s.eligible p tm) ∨ ((∀ c, k.chosen = some c → c ∉ s.eligible p tm) ∧ s.bestOf (s.eligible p tm) = some cl)) →
    let empty := (s.ctxs.any fun c => decide (c.id.cl = cl)) = false
    let atFloor := (s.cluster cl).change = none ∧ (s.cluster cl).changes = [] ∧ (s.cluster cl).step = p.floor
    (empty → ¬ atFloor → Runs .teamPlacement s fun t => t.ctxs = s.ctxs ∧ (t.cluster cl).lastStep = p.floor ∧
      t.task p.num k.idx = (s.task p.num k.idx).map fun x => { x with tmpl := some tm, chosen := some cl }) ∧
    ∀ num gs off, s.roomFor cl tm = some (num, gs, off) → tm.rbsz = 0 → (empty → atFloor) → Runs .teamPlacement s fun t =>
      (∃ new, t.ctxs.map strip = s.ctxs.map strip ++ new ∧ new.length = (gs.map fun x => x.1.width).sum ∧ ∀ c ∈ new, c.id.cl = cl ∧ c.team = some num ∧
        c.pc = instrPc k.entry ∧ c.priv = .user ∧ c.st = .ready ∧ c.domain = k.domain ∧ c.g.get 3 = k.args ∧ c.g.get 4 = 0x00C1000000000000) ∧
      (∃ x, t.team cl num = some x ∧ x.part = p.num ∧ x.task = some k.idx ∧ x.trank = k.placed ∧ x.gsize = k.grid ∧ x.lsBase = off ∧
        x.lsSize = tm.lsBytes ∧ x.wds = List.replicate 8 0) ∧
      t.task p.num k.idx = (s.task p.num k.idx).map fun x =>
        { x with tmpl := some tm, placed := x.placed + 1, st := if x.placed + 1 = x.grid then .running else .placing, chosen := none }) ∧
  (∀ c, let id : CtxId := ⟨s.subj.cl, s.subj.pipe, s.subj.slot⟩
    s.findCtx id = some c → s.watchDue c = true → Trappable s id → Runs .watchdogExpiry s (TookTrap id cWATCHDOG c.tl 0 c.pc { s with
      accesses := s.accesses.filter fun a => !decide (a.agent = id), scops := s.scops.filter fun o => !decide (o.agent = id) })) ∧
  (∀ id r, s.killWait[s.subj.n]? = some (id, r) → s.killRoom r = true → Runs .killRecordAppend s fun t => t.kills = s.kills ++ [r] ∧
    t.killWait = s.killWait.eraseIdx s.subj.n ∧ ((s.ctx id).grp = none → (s.ctx id).rcd = none → t.findCtx id = none))

/-- R393, R433 to R440, R443: a control tick samples every cluster; a domain counts droop events and is droopy for 500 µs from the fourth in 100 µs
on; a cluster that has been empty long enough goes to IDLESTEP; at most two clusters of a domain become active in 50 ns; a supply that moves by one
code, and starts the changes that have waited for it where it settles; the end of a pause, after which CYCLE counts on at the new step. It rests on
choices of the model: log entries 91, 92, 93 and 129. -/
def Obligations.ClocksAndPower : Prop := ∀ (s : State), let cl := s.subj.cl; let k := s.cluster cl; let d := s.domain s.subj.num
  Runs .controlTick s (fun t => t = { s with tickAt := s.gtime / 10000 * 10000 + 10000, parts := t.parts, clusters := t.clusters, domains := t.domains } ∧
    (∀ c ∈ s.clusters, c.released = true → c.gated = false → (t.cluster c.id).temp = Config.temperature s.gtime c.id ∧
      (95 ≤ Config.temperature s.gtime c.id → (t.cluster c.id).hot = true)) ∧
    ∀ q ∈ t.parts, t.partNo q.num = some q → 100 * q.pbudget ≤ ((t.partClusters q).map (Config.power s.gtime)).sum → q.overB = true) ∧
  Runs .droopEvent s (fun t => t = { s with domains := t.domains } ∧
    (let l := (d.droops.filter fun e => decide (s.gtime < e + 100000)) ++ [s.gtime]
     t.domain s.subj.num = if (d.droops.any fun e => decide (s.gtime < e + 20)) then d
       else { d with droops := l, droopy := if 4 ≤ l.length then some (s.gtime + 500000) else d.droopy })) ∧
  (∀ x, d.droopy = some x → x ≤ s.gtime → Runs .droopyEnd s fun t => t = { s with domains := t.domains } ∧ t.domain s.subj.num = { d with droopy := none }) ∧
  (∀ p, s.partOf cl = some p → s.idleDue k = true → k.step ≠ p.idlestep → Config.vmin (domainOf cl) p.idlestep ≤ (s.domain (domainOf cl)).code →
    Runs .idleTimeout s fun t => t = { s with domains := t.domains, clusters := t.clusters } ∧
      t.cluster cl = { k with change := some (p.idlestep, 1, some s.gtime) } ∧ (t.domain (domainOf cl)).code = (s.domain (domainOf cl)).code) ∧
  (Runs .admissionSlot s fun t => t = { s with domains := t.domains, clusters := t.clusters } ∧
    let n := if d.slotN = 0 ∨ d.slotAt + 50 ≤ s.gtime then 0 else d.slotN
    let go := (s.admissible s.subj.num).take (2 - n)
    go.length ≤ 2 ∧ (t.domain s.subj.num).slotN = n + go.length ∧
      t.clusters = s.clusters.map fun k => if go.contains k.id then { k with active := true, asks := none } else k) ∧
  (d.code ≠ d.target → d.moved + 50 ≤ s.gtime → Runs .voltageSettled s fun t =>
    let v := if d.code < d.target then d.code + 1 else d.code - 1
    t = { s with domains := t.domains, clusters := t.clusters } ∧ t.domain s.subj.num = { d with code := v, moved := d.moved + 50 } ∧
    (v ≠ d.target → t.clusters = s.clusters) ∧
    ∀ c n r, v = d.target → (s.cluster c).change = some (n, r, none) → domainOf c = s.subj.num → (t.cluster c).change = some (n, r, some s.gtime)) ∧
  (∀ new reason t0, k.change = some (new, reason, some t0) → k.changes = [] → (∀ a ∈ s.accesses, a.agent.cl ≠ cl) → Runs .freqPauseEnd s fun t =>
    (t.cluster cl).step = new ∧ (t.cluster cl).change = none ∧ (t.cluster cl).segT1 = s.gtime ∧
    (t.cluster cl).cycBase = k.cycBase + (t0 - k.segT1) * 144 / (5 * (16 + k.step)) ∧ (t.cluster cl).seq = k.seq + 1)

/-- R273, R395 to R397: a switch out, once the clusters' `gm.gemv` and `gm.lay` have ended, writes what its clusters hold to the area, the image of
each context in its cluster's part, takes every context of them away and leaves the others, while collectives wait; a switch in, once every scalar SFU
result has reached its saved register, takes up what each part holds, or goes on in place. It rests on choices of the model: log entries 48, 49 and
50. -/
def Obligations.GangSwitches : Prop := ∀ (s : State) (p : Partition) (t0 area : Nat), let strip := fun (c : Ctx) => { c with pts := 0, mts := 0, vis := {} }
  s.partNo s.subj.part = some p → t0 ≤ s.gtime →
  (p.run = .stopping t0 area → s.gmLeft p = true → Runs .gangSwitchOut s fun t => t = s) ∧
  (p.run = .stopping t0 area → s.gmLeft p = false → (∀ o ∈ s.scops, inPart p o.agent.cl = false) → Runs .gangSwitchOut s fun t =>
    (∀ c ∈ t.ctxs, inPart p c.id.cl = false) ∧
    (∀ id, inPart p id.cl = false → (t.findCtx id).map strip = (s.findCtx id).map strip) ∧
    (t.partNo p.num).map Partition.run = some (.away area) ∧
    t.colls = s.colls.map (fun (c : Coll) => if inPart p c.by_.ctx.cl = true ∧ c.away = none then { c with away := some area } else c) ∧
    (∀ c ∈ t.copies, inPart p c.by_.ctx.cl = false) ∧ (∀ w ∈ t.writes, inPart p w.agent.cl = false) ∧ (∀ l ∈ t.longs, inPart p l.dst.cl = false) ∧
    ∃ u : State, (∀ id, (u.findCtx id).map strip = (s.findCtx id).map strip) ∧ t.mem = (u.putParts p area).mem) ∧
  (∀ id c n, s.findCtx id = some c → id.pipe < 16 → id.slot < 4 → ((s.ctxs.filter fun x => decide (x.id.cl = id.cl)).map Ctx.vblocks).sum ≤ 256 →
    dense (imageOff id) 512 (s.partCells id.cl n) = s.ctxImage id (imageLevel c) (s.ctx (s.leader id)).pc) ∧
  (p.run = .entering t0 area → s.sfuLeft p area = true → Runs .gangSwitchIn s fun t => t = s) ∧
  (p.run = .entering t0 area → s.sfuLeft p area = false →
    Runs .gangSwitchIn s fun t => (t.partNo p.num).map Partition.run = some .running ∧
      (∀ cl, inPart p cl = true → (t.cluster cl).active = false) ∧
      (area = 0 → t = { s with parts := t.parts, clusters := t.clusters }) ∧
      (area ≠ 0 → t.mem = s.mem ∧
        t.colls = s.colls.map (fun (c : Coll) => if c.part = p.num ∧ c.away = some area then { c with away := none } else c) ∧
        t.ctxs = s.ctxs ++ (s.partClusters p).zipIdx.flatMap fun x =>
          match (s.getPart p area x.2).bind fun cells => (Blob.codec.ofBytes (dense blobOff (partLen - blobOff) cells)).map fun b => (cells, b) with
          | none => []
          | some (cells, b) => b.ctxs.map fun (c : Ctx) => c.ofImage (dense (imageOff c.id) 512 cells)
              (((b.groups.find? fun g => decide (g.slot = c.id.slot ∧ c.grp = some g.base)).map fun g => decide (g.base = c.id.pipe)).getD true)))

/-! ### The host, links and the start -/

/-- R444 to R449, R456, R457: a request is dispatched on its OP, its function and its queue: one that the table of R449 does not give is UNSUPPORTED,
and under another event nothing happens to it. A request whose chain has no room for a response is returned with used length 0; one whose header is
short or has a reserved field set is INVALID; one to the function of a partition that is not configured is INVALID. An entry of PART_SET that fails a
check is INVALID whether it sets or clears; PART_SET removes a partition, whose clusters go back to being unreleased, or sets one, whose clusters are
released; LINK_SET and CXL_SET replace their tables, and region 0x2 shows the bytes of the new ranges; QUERY answers; DEBUG_STOP stops a partition
that is not stopped at once and DEBUG_RESUME lets a stopped one go on; a driver's features are accepted with VERSION_1, ACCESS_PLATFORM and
RING_PACKED, and none that the function does not offer. It rests on choices of the model: log entries 96, 97, 98, 99, 100, 108, 109, 110, 142, 152 and
153. -/
def Obligations.HostRequests : Prop :=
  (∀ (s : State) (r : HostReq), s.subj.req = some r → r.descs ≤ 1024 →
  let manage := fun (f : Nat) => decide (f = 0 ∨ f = 5)
  let part := fun (f : Nat) => decide (f < 10 ∧ f % 5 ≠ 0)
  let control := fun (q : Nat) => decide (q = 0)
  let map := fun (q : Nat) => decide (q = 2)
  let submit := fun (q : Nat) => decide (3 ≤ q ∧ q ≤ 129 ∧ q % 2 = 1)
  let ops : List (Instr × Nat × (Nat → Bool) × (Nat → Bool)) := [(.partSet, 0x01, manage, control), (.linkSet, 0x02, manage, control),
    (.cxlSet, 0x03, manage, control), (.query, 0x10, fun f => decide (f < 10), control), (.debugStop, 0x11, part, control),
    (.debugResume, 0x12, part, control), (.map, 0x20, part, map), (.unmap, 0x21, part, map), (.loadImage, 0x30, part, submit),
    (.submit, 0x31, part, submit), (.signal, 0x32, part, submit), (.commCreate, 0x40, part, control), (.commReform, 0x41, part, control),
    (.commDestroy, 0x42, part, control)]
  let given := fun (o : Instr × Nat × (Nat → Bool) × (Nat → Bool)) => r.op = o.2.1 ∧ o.2.2.1 r.fn = true ∧ o.2.2.2 r.queue = true
  let returned := fun (t : State) => t = { s with
    responses := s.responses ++ [{ fn := r.fn, queue := r.queue, data := [] }] }
  ((∀ o ∈ ops, ¬ given o) → (∀ i, eventLabel i s.subj = .unsupportedRequest) ∧ (r.room < 16 → Runs .unsupportedRequest s returned) ∧
    (16 ≤ r.room → Runs .unsupportedRequest s (Answered r 7 none s))) ∧
  ∀ o ∈ ops, (¬ given o → Runs o.1 s fun t => t = s) ∧
    (given o → (∀ i, eventLabel i s.subj = o.1) ∧ (Runs .unsupportedRequest s fun t => t = s) ∧ (r.room < 16 → Runs o.1 s returned) ∧
      (16 ≤ r.room → r.bad = true → Runs o.1 s (Answered r 1 none s)) ∧
      (16 ≤ r.room → r.bad = false → 0x11 ≤ o.2.1 → s.partNo (r.fn % 5 - 1) = none → Runs o.1 s (Answered r 1 none s)))) ∧
  (∀ (s : State) (r : HostReq),
  let b := r.payload
  let at_ := fun (i n : Nat) => leNat ((b.drop i).take n)
  let inStacks := fun (pa : Nat) => pa < 2 ^ 40 ∧ pa % 2 ^ 31 < 0x60000000 ∧ at_ 1 1 ≤ pa / 2 ^ 36 / 2 ∧ pa / 2 ^ 36 / 2 ≤ at_ 2 1
  (Asked 0x01 r s → r.fn % 5 = 0 → r.fn < 10 → r.queue = 0 → s.boot.minimal = false →
    (b.length < 32 ∨ 1 < at_ 3 1 ∨ at_ 4 4 ≠ 0 ∨ 3 < at_ 0 1 ∨ at_ 2 1 < at_ 1 1 ∨ 7 < at_ 2 1 ∨ ¬ inStacks (at_ 8 8) ∨ ¬ inStacks (at_ 16 8) ∨
      (∃ q ∈ s.parts, q.num ≠ at_ 0 1 ∧ q.lo ≤ at_ 2 1 ∧ at_ 1 1 ≤ q.hi) → Runs .partSet s (Answered r 1 none s)) ∧
    (32 ≤ b.length → at_ 4 4 = 0 → at_ 0 1 ≤ 3 → at_ 1 1 ≤ at_ 2 1 → at_ 2 1 ≤ 7 → inStacks (at_ 8 8) → inStacks (at_ 16 8) →
      (∀ q ∈ s.parts, q.num = at_ 0 1 ∨ at_ 2 1 < q.lo ∨ q.hi < at_ 1 1) → (∀ q, s.partNo (at_ 0 1) = some q → s.partBusy q = false) →
      (∀ c ∈ s.ctxs, clY c.id.cl / 4 < at_ 1 1 ∨ at_ 2 1 < clY c.id.cl / 4) →
      (at_ 3 1 = 0 → Runs .partSet s fun t => ∃ u, Answered r 0 none u t ∧
        u.parts = s.parts.filter (fun p => decide (p.num ≠ at_ 0 1)) ∧ u.mem = s.mem ∧ u.ls = s.ls ∧ u.ctxs = s.ctxs ∧
        (∀ cl, (∀ p, s.partNo (at_ 0 1) = some p → inPart p cl = false) → u.cluster cl = s.cluster cl) ∧
        ∀ p, s.partNo (at_ 0 1) = some p → (∀ q ∈ s.parts, q.num = p.num ∨ q.hi < p.lo ∨ p.hi < q.lo) →
          ∀ cl, inPart p cl = true → (u.cluster cl).released = false) ∧
      (∀ p, at_ 3 1 = 1 → s.newPart (at_ 0 1) (at_ 1 1) (at_ 2 1) (at_ 8 8) (at_ 16 8) (at_ 24 8) = some p → Runs .partSet s fun t =>
        ∃ u q, Answered r 0 none u t ∧ u.partNo (at_ 0 1) = some q ∧ q.lo = at_ 1 1 ∧ q.hi = at_ 2 1 ∧ q.ptd = at_ 8 8 ∧ q.pdd = at_ 16 8 ∧
          q.vbase = BitVec.ofNat 64 (at_ 24 8) ∧ q.ttab = leNat (Memory.readN s.mem (at_ 16 8) 8) ∧ q.trace = leNat (Memory.readN s.mem (at_ 16 8 + 8) 8) ∧
          ∀ cl ∈ u.partClusters q, (u.cluster cl).released = true ∨ (u.cluster cl).gated = true))) ∧
  (∀ n l, Asked 0x02 r s → r.fn % 5 = 0 → r.fn < 10 → r.queue = 0 → b.length = 8 + 16 * n → n ≤ 255 →
    (at_ 0 4 = 0 ∨ (10 ≤ at_ 0 4 ∧ at_ 0 4 ≤ 1000000)) →
    parsePeers b n 8 = some l → (∀ x ∈ l, s.portsOff x = false) → Runs .linkSet s (Answered r 0 none { s with
      lto := if at_ 0 4 = 0 then 1000 else at_ 0 4, peers := l, lost := s.lost.filter fun q => !(l.any fun x => decide (x.num = q)) })) ∧
  (Asked 0x03 r s → r.fn % 5 = 0 → r.fn < 10 → r.queue = 0 → 0 < b.length → at_ 0 1 ≤ 8 → 8 + 16 * at_ 0 1 ≤ b.length → s.namesCxl = false →
    (∀ i, i < at_ 0 1 → at_ (16 + 16 * i) 8 % 2 ^ 28 = 0) →
    let l := (List.range (at_ 0 1)).map fun i => (at_ (8 + 16 * i) 8, at_ (16 + 16 * i) 8)
    let apart := fun (l : List (Nat × Nat)) => l.Pairwise fun x y => x.1 + x.2 ≤ y.1 ∨ y.1 + y.2 ≤ x.1
    Runs .cxlSet s fun t => ∃ u, Answered r 0 none u t ∧
      u = { s with cxl := l, cxlHidden := u.cxlHidden, mem := u.mem, sinter := u.sinter, compiles := u.compiles, clusters := u.clusters, teams := u.teams } ∧
      (Memory.wf s.mem = true → (∀ a, a < 2 * 2 ^ 48 ∨ 3 * 2 ^ 48 ≤ a → Memory.read u.mem a = Memory.read s.mem a) ∧
        ∀ h o o', apart s.cxl → apart l → (∀ x ∈ s.cxlHidden, x.1 ≠ h) → ShownAt s.cxl h o → ShownAt l h o' → o < 2 ^ 48 → o' < 2 ^ 48 →
          Memory.read u.mem (2 * 2 ^ 48 + o') = Memory.read s.mem (2 * 2 ^ 48 + o))) ∧
  (Asked 0x10 r s → r.fn < 10 → r.queue = 0 → 8 ≤ b.length →
    (at_ 0 4 = 0 → Runs .query s (Answered r 0 (some ((bootstat s.boot).toNat % 2 ^ 32)) s)) ∧
    (∀ p, 0 < r.fn % 5 → s.partNo (r.fn % 5 - 1) = some p → at_ 0 4 = 1 → at_ 4 4 < 4096 →
      Runs .query s (Answered r 0 (some (((s.task p.num (at_ 4 4)).map fun k => tstateNum k.st).getD 0)) s)) ∧
    (∀ p k, 0 < r.fn % 5 → s.partNo (r.fn % 5 - 1) = some p → at_ 0 4 = 2 → s.handleSlot p.num (at_ 4 4) = some k →
      Runs .query s (Answered r 0 (some k.members.length) s))) ∧
  (∀ p, r.fn < 10 → 0 < r.fn % 5 → r.queue = 0 → s.partNo (r.fn % 5 - 1) = some p →
    (Asked 0x11 r s → (∀ k, p.run ≠ .stopped k) → (∀ a, p.run ≠ .away a) → Runs .debugStop s fun t => ∃ u, Answered r 0 none u t ∧
      (u.partNo p.num).map Partition.run = some (.stopped 2) ∧
      (∀ cl ∈ s.partClusters p, ∃ c ∈ u.captures, c.cl = cl ∧ c.cause = 2) ∧ u.ctxs = s.ctxs ∧ u.mem = s.mem) ∧
    (Asked 0x11 r s → ((∃ k, p.run = .stopped k) ∨ ∃ a, p.run = .away a) → Runs .debugStop s (Answered r 2 none s)) ∧
    (∀ k, Asked 0x12 r s → p.run = .stopped k → Runs .debugResume s (Answered r 0 none (s.modPart p.num fun q => { q with run := .entering s.gtime 0 }))) ∧
    (Asked 0x12 r s → p.run = .running → Runs .debugResume s (Answered r 2 none s))) ∧
  (let offered := 2 + 23 <<< 32
   (s.subj.num < 10 → s.subj.lo &&& (7 <<< 32) = 7 <<< 32 →
      s.subj.lo &&& (if s.subj.num < 5 ∧ s.boot.cxl.isSome = true then offered + 1 else offered) = s.subj.lo → Runs .featuresOk s fun t =>
      t = { s with features := s.features.filter (fun f => decide (f.1 ≠ s.subj.num)) ++ [(s.subj.num, s.subj.lo)] }) ∧
   ((s.subj.lo &&& (7 <<< 32) ≠ 7 <<< 32 ∨ s.subj.lo &&& (offered + 1) ≠ s.subj.lo) → Runs .featuresOk s fun t => t = s)))

/-- R420, R451 to R455, R460, R462: a mapped page has its entry in a free place of its pair; UNMAP clears V of the entries it finds and answers how
many; LOAD_IMAGE answers the bytes written; SUBMIT and SIGNAL act as `tsk.submit` and `tsk.done` do; a communicator gets a slot whose handle is the
answer, is re-formed, and is destroyed; a completion event goes into the completion queue that is paired with the submit queue; events are delivered
oldest first. It rests on choices of the model: log entries 96, 97, 101, 103, 104, 106 and 107. -/
def Obligations.HostWork : Prop := ∀ (s : State) (r : HostReq) (p : Partition), r.fn < 10 → 0 < r.fn % 5 → s.partNo (r.fn % 5 - 1) = some p →
  let b := r.payload
  let at_ := fun (i n : Nat) => leNat ((b.drop i).take n)
  let submits := 3 ≤ r.queue ∧ r.queue ≤ 129 ∧ r.queue % 2 = 1
  (∀ m, Asked 0x20 r s → r.queue = 2 → Memory.wf s.mem = true → parseMap b = some m → m.alloc = false → m.va % m.size = 0 → m.len = m.size →
    m.target % m.size = 0 → m.va + m.len ≤ 2 ^ 55 → s.mappedAny p m.va m.cls = false → (s.freeEntries p m.va m.cls).isEmpty = false → Runs .map s fun t =>
    ∃ u, Answered r 0 none u t ∧ ∃ e ∈ s.freeEntries p m.va m.cls, leNat (Memory.readN u.mem e 8) = m.w0 m.va % 2 ^ 64 ∧
      leNat (Memory.readN u.mem (e + 8) 8) = m.w1 (m.frame 0) % 2 ^ 64 ∧ ∀ a, a < e ∨ e + 16 ≤ a → Memory.read u.mem a = Memory.read s.mem a) ∧
  (Asked 0x21 r s → r.queue = 2 → 16 ≤ b.length → Runs .unmap s fun t => ∃ u, Answered r 0 (some (s.found p (at_ 0 8) (at_ 8 8)).length) u t ∧
    (s.found p (at_ 0 8) (at_ 8 8) = [] → u = s) ∧
    (∀ e, Memory.wf s.mem = true → s.l1 = [] → s.writes = [] → s.reds = [] → (∀ k ∈ s.clusters, k.vq = []) → (∀ m ∈ s.teams, m.savedVq = []) →
      s.found p (at_ 0 8) (at_ 8 8) = [e] →
      (Memory.read u.mem e.1).getLsbD 0 = false ∧
      ∀ x ∈ u.tcache, ¬ (x.part = p.num ∧ x.x.cls = e.2.2 ∧ x.page = e.2.1 / 2 ^ pageShift e.2.2))) ∧
  (∀ n u, Asked 0x30 r s → submits → 25 ≤ b.length → at_ 24 1 ≤ 1 →
    s.loadChunks p (2 ^ 48 + at_ 24 1 * 2 ^ 47 + at_ 0 8 % 2 ^ 47) (at_ 8 8) (at_ 16 8) (at_ 16 8 / 4096 + 1) 0 = (true, n, u) →
    Runs .loadImage s (Answered r 0 (some n) u)) ∧
  (∀ u v k, Asked 0x31 r s → submits → 72 ≤ b.length → at_ 2 6 = 0 → at_ 0 2 < 4096 →
    s.engWrites (sysWho p) none (p.ttab + 64 * at_ 0 2) 8 8 ((b.drop 8).take 64) = (.ok (), u) →
    u.loadTask p (at_ 0 2) r.domain (some (r.cookie, r.fn, r.queue)) = (k, v) →
    Runs .submit s (Answered r (if k = 0 then 0 else if k = 2 then 2 else if k = 3 then 4 else 1) none v)) ∧
  (Asked 0x32 r s → submits → 2 ≤ b.length → at_ 0 2 < 4096 →
    (∀ k, s.task p.num (at_ 0 2) = some k → k.st = .loaded → 0 < k.counter → Runs .signal s fun t => ∃ u, Answered r 0 none u t ∧
      u = { s with tasks := u.tasks } ∧ (u.task p.num (at_ 0 2)).map (fun x => (x.counter, x.st)) =
        some (k.counter - 1, if k.counter = 1 then .ready else .loaded)) ∧
    (s.task p.num (at_ 0 2) = none → Runs .signal s (Answered r 5 none s))) ∧
  (∀ i, Asked 0x40 r s → r.queue = 0 →
    let n := at_ 12 2
    let ms := (List.range n).map fun j => parseMember b (16 + 8 * j)
    16 + 8 * n ≤ b.length → 2 ≤ n → n ≤ 4096 → at_ 8 4 ≤ 60000 → distinct ms = true →
    ((List.range 1024).find? fun i => (s.comm p.num i).isNone) = some i → Runs .commCreate s fun t => ∃ u k, Answered r 0 (some k.handle) u t ∧
      u.comm p.num i = some k ∧ k.members = ms ∧ k.cid = BitVec.ofNat 64 (at_ 0 8) ∧ k.tms = (if at_ 8 4 = 0 then 2000 else at_ 8 4) ∧ k.issued = [] ∧
      u = { s with comms := u.comms, decided := u.decided }) ∧
  (∀ k tms ranks, Asked 0x41 r s → r.queue = 0 → 12 ≤ b.length → s.handleSlot p.num (at_ 0 4) = some k → reformBlock k (b.drop 4) = some (tms, ranks) →
    (∀ c ∈ s.colls, ¬ (c.part = k.part ∧ c.cslot = k.slot)) → Runs .commReform s fun t => ∃ u x,
      Answered r 0 (some (k.slot + (k.gen + 1).toNat * 2 ^ 16)) u t ∧ u.comm k.part k.slot = some x ∧ x.gen = k.gen + 1 ∧
      x.members = (ranks.filterMap fun i => k.members[i]?) ∧ x.issued = [] ∧
      ∀ d ∈ u.decided, ¬ (d.part = k.part ∧ d.cslot = k.slot ∧ d.gen = k.gen + 1)) ∧
  (∀ k, Asked 0x42 r s → r.queue = 0 → 4 ≤ b.length → s.handleSlot p.num (at_ 0 4) = some k → (∀ c ∈ s.colls, ¬ (c.part = k.part ∧ c.cslot = k.slot)) →
    Runs .commDestroy s fun t => ∃ u, Answered r 0 none u t ∧ u.comm k.part k.slot = none) ∧
  (∀ e, s.subj.part = p.num → (p.cq.find? fun e => decide (e.1 = s.subj.n ∧ e.2.1 = s.subj.num)) = some e → Runs .completionEventDeliver s fun t =>
    t = { s with parts := t.parts } ∧ t.partNo p.num = some { p with
      cq := dropFirst (fun e => decide (e.1 = s.subj.n ∧ e.2.1 = s.subj.num)) p.cq
      cqOut := p.cqOut ++ [(s.subj.n, s.subj.num, e.2.2.flatMap fun w => leBytes 8 w.toNat)] }) ∧
  (∀ e, s.evHeld = [] →
    let mine := fun (x : Event) => decide (x.fn = s.subj.num % 5)
    let lost := ((s.lostn.find? fun x => decide (x.1 = e.fn)).map Prod.snd).getD 0
    let len := wfld e.d0 32 32
    let out := fun (gap : Nat) => s.evOut ++ [(s.subj.num, leBytes 1 e.kind ++ leBytes 1 lost ++ leBytes 6 gap ++ leBytes 8 e.gtime ++ leBytes 8 e.d0.toNat ++
      leBytes 8 e.d1.toNat ++ if e.kind = 6 ∧ 32 + len ≤ s.subj.hi then Memory.readN s.mem e.d1.toNat len else [])]
    let left := s.lostn.filter fun x => decide (x.1 ≠ e.fn)
    (s.events.find? mine = some e → Runs .eventRecordDeliver s fun t => ∃ gap, t = { s with
      freeCtr := s.freeCtr + 1, events := dropFirst mine s.events, lostn := left, evOut := out gap }) ∧
    (s.events.find? mine = none → s.reserve.find? mine = some e → Runs .eventRecordDeliver s fun t => ∃ gap, t = { s with
      freeCtr := s.freeCtr + 1, reserve := dropFirst mine s.reserve, lostn := left, evOut := out gap }))

/-- R354, R384, R408, R412, R455, R457 to R459, R463, R476, R477: a link request that has exceeded LTO fails: an access traps with PROTECTION and
STATUS 4 at its VA, a write or a reduction is lost and reported, and a peer that it went to is lost, which PEER_LOST says; a port that is given up is
reported with LINK_DOWN, takes its requests with it, and the peers without another live port; one that comes up is reported with LINK_UP. A peer reads
and writes this package's memory, an outside agent writes its own, and a write invalidates what is registered on the bytes. An error is logged, the
sixteenth corrected one of a location retires it, and program data that cannot be corrected are poisoned where they lie. A fatal error is logged with
its place, stops the partition and writes the dump. It rests on choices of the model: log entries 38, 39, 40, 111, 113, 120 and 123. -/
def Obligations.LinksAndErrors : Prop := ∀ (s : State),
  (∀ a c x rest, s.subj.num = 0 → s.accesses[s.subj.n]? = some a → LoneRequest s a c rest → a.stage = .remote x → a.since + 1000 * s.lto ≤ s.gtime →
    let failed := fun (v t : State) => t.cur = a.agent ∧ t.accesses = rest ∧
      TookTrap a.agent cPROTECTION 4 (BitVec.ofNat 64 a.va) c.pc { v with cur := a.agent, accesses := rest } t
    (x.pa a.va / 2 ^ 48 ≠ 3 → Runs .linkRequestTimeout s (failed s)) ∧
    (x.pa a.va / 2 ^ 48 = 3 → ¬ fld (x.pa a.va) 40 8 ∈ s.lost → rest = [] → s.writes = [] → s.reds = [] → s.colls = [] → s.contribs = [] →
      Runs .linkRequestTimeout s fun t => failed { s with
          lost := s.lost ++ [fld (x.pa a.va) 40 8], events := t.events, reserve := t.reserve, evHeld := t.evHeld, lostn := t.lostn } t ∧
        AllRaised 2 (BitVec.ofNat 64 (fld (x.pa a.va) 40 8)) s t)) ∧
  (∀ a x q, s.subj.num = 0 → s.accesses[s.subj.n]? = some a → a.stage = .remote x → a.since + 1000 * s.lto ≤ s.gtime → x.pa a.va / 2 ^ 48 = 3 →
    fld (x.pa a.va) 40 8 = q → s.boot.mode = false → Runs .linkRequestTimeout s fun t => q ∈ t.lost) ∧
  (∀ w va pa, s.subj.num = 1 → s.writes[s.subj.n]? = some w → w.target = some (va, pa) → w.since + 1000 * s.lto ≤ s.gtime →
    (pa / 2 ^ 48 ≠ 3 → Runs .linkRequestTimeout s (FarWriteLost w.agent va { s with writes := s.writes.eraseIdx s.subj.n })) ∧
    (pa / 2 ^ 48 = 3 → Runs .linkRequestTimeout s fun t => fld pa 40 8 ∈ t.lost ∧ t.mem = s.mem)) ∧
  (∀ q va pa, s.subj.num = 2 → s.reds[s.subj.n]? = some q → q.place = .mem va pa → q.since + 1000 * s.lto ≤ s.gtime →
    (pa / 2 ^ 48 ≠ 3 → Runs .linkRequestTimeout s (FarWriteLost q.agent va { s with reds := s.reds.eraseIdx s.subj.n })) ∧
    (pa / 2 ^ 48 = 3 → Runs .linkRequestTimeout s fun t => fld pa 40 8 ∈ t.lost ∧ t.mem = s.mem)) ∧
  (s.subj.num < 8 → s.deadPort s.subj.num = false →
    ((∀ p ∈ s.peers, p.mask.testBit s.subj.num = true → ∃ j, j < 8 ∧ j ≠ s.subj.num ∧ p.mask.testBit j = true ∧ s.deadPort j = false) →
      (∀ w ∈ s.writes, w.port ≠ some s.subj.num) → (∀ q ∈ s.reds, q.port ≠ some s.subj.num) →
      let given := fun (t : State) => { s with
        portsDown := s.portsDown ++ [s.subj.num], events := t.events, reserve := t.reserve, evHeld := t.evHeld, lostn := t.lostn }
      ((∀ a ∈ s.accesses, a.port ≠ some s.subj.num) → Runs .portRetryTimeout s fun t => t = given t ∧ AllRaised 3 (BitVec.ofNat 64 s.subj.num) s t) ∧
      (∀ a c x, s.accesses = [a] → LoneRequest s a c [] → a.stage = .remote x → a.port = some s.subj.num → Runs .portRetryTimeout s fun t =>
        t.accesses = [] ∧ TookTrap a.agent cPROTECTION 4 (BitVec.ofNat 64 a.va) c.pc { given t with cur := a.agent, accesses := [] } t ∧
        AllRaised 3 (BitVec.ofNat 64 s.subj.num) s t)) ∧
    (∀ p ∈ s.peers, p.mask.testBit s.subj.num = true → (∀ j, j < 8 → j ≠ s.subj.num → p.mask.testBit j = true → s.deadPort j = true) →
      Runs .portRetryTimeout s fun t => p.num ∈ t.lost)) ∧
  (s.subj.num < 8 → s.boot.minimal = false → Runs .linkUp s fun t => AllRaised 4 (BitVec.ofNat 64 s.subj.num) s t ∧ t = { s with
    portsDown := s.portsDown.filter fun i => decide (i ≠ s.subj.num), events := t.events, reserve := t.reserve, evHeld := t.evHeld, lostn := t.lostn }) ∧
  (∀ r, s.subj.peer = some r →
    (∀ n, r.op = .read n → r.pa + n ≤ 2 ^ 40 → r.pa % 2 ^ 31 + n ≤ 0x60000000 →
      Runs .peerRequest s fun t => t = { s with peerOut := s.peerOut ++ [(r.peer, Memory.readN s.mem r.pa n)] }) ∧
    (∀ d, r.op = .write d → (r.pa + d.length ≤ 2 ^ 40 ∧ r.pa % 2 ^ 31 + d.length ≤ 0x60000000) ∨
        (2 ^ 48 ≤ r.pa ∧ r.pa / 2 ^ 48 = (r.pa + d.length - 1) / 2 ^ 48 ∧ r.pa + d.length ≤ 2 ^ 50) → Runs .peerRequest s fun t =>
      t = { s with
        mem := Memory.writeN s.mem r.pa d
        home := t.home
        sinter := s.sinter.filter fun e => !e.ranges.any (s.paHit r.pa d.length e.cl)
        compiles := s.compiles.map fun c => if c.ranges.any (s.paHit r.pa d.length c.cl) then { c with spoiled := true } else c
        clusters := t.clusters
        teams := t.teams } ∧
      (∀ a, r.pa ≤ a → a < r.pa + d.length → (s.lineTs (a / 64)).2 < (t.lineTs (a / 64)).1) ∧
      (Memory.wf s.mem = true → ∀ a, a < r.pa ∨ r.pa + d.length ≤ a → Memory.read t.mem a = Memory.read s.mem a))) ∧
  (∀ e, s.subj.ecc = some e →
    (e.kind = 1 → Runs .eccError s fun t =>
      t = { s with errlog := t.errlog, poison := t.poison, lsPoison := t.lsPoison, vrsPoison := t.vrsPoison, l1 := t.l1 } ∧
      (∃ x ∈ t.errlog, x.unit = e.unit ∧ x.kind = 1 ∧ x.place = e.place ∧ x.addr = e.addr) ∧
      (if s.subj.num = 1 then e.addr / 64 ∈ t.poison else t.poison = s.poison) ∧
      (if s.subj.num = 2 then lsKey e.place e.addr / 64 ∈ t.lsPoison else t.lsPoison = s.lsPoison) ∧
      (if s.subj.num = 3 then vrsKey ⟨e.place, 0, 0⟩ e.addr / 64 ∈ t.vrsPoison else t.vrsPoison = s.vrsPoison) ∧
      (if s.subj.num = 4 then ∀ l ∈ t.l1, l.cl = e.place → l.pipe = s.subj.pipe → l.line = e.addr / 64 → l.bad = true else t.l1 = s.l1)) ∧
    (e.kind = 0 → Runs .eccError s fun t => t = { s with errlog := t.errlog, corrected := t.corrected, retired := t.retired } ∧
      (∃ x ∈ t.errlog, x.unit = e.unit ∧ x.kind = 0 ∧ x.place = e.place ∧ x.addr = e.addr) ∧
      (15 ≤ (s.corrected.filter fun x => decide (s.gtime < x.1 + 10 ^ 9 ∧ x.2 = (e.unit, e.place, e.addr))).length →
        (e.unit, e.place, e.addr) ∈ t.retired ∧ (s.subj.num = 1 → ∃ x ∈ t.errlog, x.unit = e.unit ∧ x.kind = 1 ∧ x.place = e.place ∧ x.addr = e.addr)))) ∧
  (∀ p, s.partNo s.subj.part = some p → p.run = .running → 9 ≤ s.boot.phase → Runs .fatalError s fun t =>
    (t.partNo p.num).map Partition.run = some (.stopped 1) ∧ t.ctxs = s.ctxs ∧
    (∃ x ∈ t.errlog, x.unit = s.subj.num % 256 ∧ x.kind = 2 ∧ x.place = s.subj.cl ∧ x.addr = s.subj.lo) ∧
    ((s.events.filter fun e => decide (e.fn = p.num + 1)).length < 255 → ∃ e ∈ t.events, e.fn = p.num + 1 ∧ e.kind = 6 ∧ e.d1 = 0x50000000) ∧
    (Memory.wf s.mem = true → (∀ a, a < 0x50000000 ∨ 0x50000000 + 241664 ≤ a → Memory.read t.mem a = Memory.read s.mem a) ∧
      leNat (Memory.readN t.mem 0x50000000 8) = 0x4B344455)) ∧
  (s.boot.phase < 9 → Runs .fatalError s fun t => t.boot.reason = 9 ∧ t.boot.fails = s.boot.fails ∧ t.boot.inReset = true ∧ t.ctxs = [] ∧
    ((s.events.filter fun e => decide (e.fn = 0)).length < 256 → s.partNo s.subj.part = none → ∃ e ∈ t.events, e.fn = 0 ∧ e.kind = 6))

/-- R463 to R475: the release of reset counts the start, phase 1; a power loss leaves nothing of the package's own; with the CXL link phase 2 is
complete; the lease is read, renewed and may be given up; each timer fails the start with its REASON, and what the host, the links and the error log
hold stays; MAPREADY completes phase 6, the map's check phase 7 and the end of boot mode; BOOTOK completes the start. It rests on choices of the
model: log entries 2, 3, 113, 114, 116 and 151. -/
def Obligations.StartOfPackage : Prop := ∀ (s : State),
  let failed := fun (reason : Nat) (t : State) => t.boot = { fails := s.boot.fails, reason := reason, cxl := s.boot.cxl } ∧ t.ctxs = [] ∧ t.clusters = [] ∧
    t.mem = s.mem ∧ t.events = s.events ∧ t.reserve = s.reserve ∧ t.evHeld = s.evHeld ∧ t.lto = s.lto ∧ t.peers = s.peers ∧ t.lost = s.lost ∧
    t.features = s.features ∧ t.cxl = s.cxl ∧ t.errlog = s.errlog
  (s.boot.inReset = true → Runs .resetRelease s fun t => t = { s with gtime := 0, boot := t.boot } ∧ t.boot = { s.boot with
    inReset := false, phase := 1, fails := if s.boot.fails < 3 then s.boot.fails + 1 else s.boot.fails, minimal := decide (3 ≤ s.boot.fails), t0 := 0 }) ∧
  (Runs .powerLoss s fun t => t.boot = State.reset.boot ∧ t.ctxs = [] ∧ t.clusters = [] ∧ t.parts = [] ∧ t.ls = [] ∧
    ∀ a, Memory.read t.mem a = if 2 ^ 48 ≤ a then Memory.read s.mem a else 0) ∧
  (s.boot.phase = 1 → s.boot.inReset = false →
    (s.subj.hi < 0x30000000 → Runs .cxlLinkUp s (failed 4)) ∧
    (0x30000000 ≤ s.subj.hi → Runs .cxlLinkUp s fun t => t.boot.phase = 2 ∧ t.boot.cxl = some (s.subj.lo, s.subj.hi) ∧ t.boot.t3 = s.gtime ∧
      t.boot.pollAt = s.gtime ∧ t = { s with cxl := t.cxl, boot := t.boot })) ∧
  (s.boot.phase = 2 → s.subj.ok = true → s.boot.lead = none →
    (wb s.lease 63 = false → wfld s.lease 0 32 ≠ 0 → s.lease ≠ s.boot.seen →
      Runs .leasePoll s fun t => t = { s with boot := { s.boot with seen := s.lease, seenAt := s.gtime, pollAt := s.gtime + 1000000 } }) ∧
    (wb s.lease 63 = false → wfld s.lease 0 32 = 0 → Memory.wf s.mem = true → Runs .leasePoll s fun t => t.boot.lead = some t.lease ∧
      wfld t.lease 0 32 = 1 ∧ t.boot.checked = false ∧ t.boot.copied = 0 ∧ t.boot.phase = 2)) ∧
  (∀ w, s.boot.phase = 2 → s.subj.ok = true → s.boot.lead = some w →
    (s.lease = w → Memory.wf s.mem = true → Runs .leaseRenew s fun t => t.lease = beatNext w ∧ t.boot.lead = some (beatNext w) ∧ t.boot.renewed = s.gtime) ∧
    (s.lease ≠ w → Runs .leaseRenew s fun t => t.boot.lead = none ∧ t.mem = s.mem) ∧
    (s.boot.checked = false → ∀ r, s.verifySlot stageSlot = .error r → Runs .leasePoll s (failed r))) ∧
  (∀ r, s.boot.phase = 2 → s.subj.ok = true → s.boot.lead = none → wb s.lease 63 = true → s.verifySlot execSlot = .error r → Runs .leasePoll s (failed 1)) ∧
  (s.boot.phase = 2 → s.boot.t3 + 5 * 10 ^ 9 ≤ s.gtime → Runs .leasePhaseTimeout s (failed 5)) ∧
  (s.boot.inReset = false → s.boot.phase < 9 → s.boot.t0 + 10 ^ 10 ≤ s.gtime → Runs .startTimeout s (failed 8)) ∧
  (leNat (Memory.readN s.mem (bpb 12) 4) = 1 →
    (s.boot.phase = 5 → Runs .mapCheck s fun t => t = { s with boot := { s.boot with phase := 6 } }) ∧
    (s.boot.phase = 6 → (s.mapOk = none → Runs .mapCheck s (failed 6)) ∧
      ∀ n, s.mapOk = some n → Runs .mapCheck s fun t => t.boot.phase = 7 ∧ t.boot.mode = false ∧ t.boot.n = n ∧ t.lmap = s.mapped.zip (List.range n) ∧
        (∀ c ∈ t.ctxs, c ∈ s.ctxs ∧ (c.id.cl < 1024 → c.id.cl ∈ s.mapped)) ∧ (∀ k ∈ t.clusters, k.boxes = []))) ∧
  (s.boot.phase = 8 → leNat (Memory.readN s.mem (bpb 20) 4) = 1 → Runs .bootok s fun t =>
    t = { s with boot := { s.boot with phase := 9, fails := 0, reason := 0 } })

/-! ### The machine as a whole -/

/-- R463 and R475: right after reset nothing is resident, no cluster is released, no partition exists and no memory is written; the first step
releases reset and counts the start. NextOk holds at reset: the package itself moves first. It rests on choices of the model: log entries 1, 3 and
126. -/
def Obligations.ResetState : Prop :=
  (State.reset.ctxs = [] ∧ State.reset.clusters = [] ∧ State.reset.parts = [] ∧ State.reset.boot.phase = 0 ∧ State.reset.boot.inReset = true ∧
  Memory.wf State.reset.mem = true ∧ Memory.wf State.reset.ls = true ∧
  ∃ t, step State.reset = .next t ∧ t.boot.phase = 1 ∧ t.boot.inReset = false ∧ t.boot.fails = 1 ∧ t.boot.minimal = false ∧ t.ctxs = [] ∧ t.clusters = []) ∧
  (NextOk State.reset)

/-- After every step the context that issues next is one that may: Ready, in an active cluster of a running partition, with nothing due before it, and
the first in turn of its pipe (R16, R34, R58, R393, R394, R397, R439). It rests on choices of the model: log entries 5, 124 and 125. -/
def Obligations.StepsKeepNext : Prop := ∀ s t : State, step s = .next t → NextOk t

/-- A step of a context runs the instruction that the four bytes at its pc decode to, where the fetch reaches them: the page is translated and
executable. A line of the instruction bank that holds them may serve the fetch instead, as it was read (R10, R18): which of the two is a free value.
The instruction joins its run (R179); a word that no encoding assigns takes ILLEGAL's event. A step of an event runs the event, and a step of nobody
only lets the package go on. It rests on choices of the model: log entries 5 and 30. -/
def Obligations.StepRunsDecoded : Prop := ∀ (s : State),
  (∀ (id : CtxId) (c : Ctx), s.next = .ctx id → s.findCtx id = some c → c.pc.toNat < 2 ^ 56 → regionOf c.pc.toNat = .paged →
    let s0 : State := { s with cur := id }
    let s1 : State := { s with cur := id, freeCtr := s.freeCtr + 1 }
    let runs := fun (w : Nat) (v : State) =>
      (∀ i, decodeWord w = .ok i → i.wf = true ∧ step s = afterMove (exec i (v.noteRun id w))) ∧
      ∀ e, decodeWord w = .error e → step s = afterMove (exec .illegalEncoding { v with subj := { num := w } })
    let home := fun (s2 : State) => ∀ (x : Xlat) (u : State), s2.lookup (whoOf c) c.pc.toNat = (.ok x, u) → checkPage (whoOf c) .fetch x = .ok →
      u.poisonedAt (x.pa c.pc.toNat) 4 = false → u.lostPeer (x.pa c.pc.toNat) = false →
      ∃ v : State, v = { u with l1i := v.l1i, l2 := v.l2 } ∧ v.cur = id ∧ runs (leNat (Memory.readN u.mem (x.pa c.pc.toNat) 4)) v
    (s0.findILine id (c.pc.toNat / 64) = none → home s0) ∧
    (∀ l, s0.findILine id (c.pc.toNat / 64) = some l →
      ((Config.free s.freeCtr).getLsbD 0 = false → home s1) ∧
      ((Config.free s.freeCtr).getLsbD 0 = true → checkPage (whoOf c) .fetch l.x = .ok → runs (lineWord l.data (c.pc.toNat % 64)) s1))) ∧
  (∀ i a, s.next = .event i a → step s = afterMove (exec i { s with subj := a })) ∧
  (s.next = .idle → step s = .next s.finish)

/-- Four words of the worked example of R180 decode to its instructions; the all-zero word, the reserved majors and a field that is not used but not
zero are refused (R8, R175, R176), and so is each width, hint and u-width store that R174 excludes. -/
def Obligations.DecodedWords : Prop := decodeWord 0x9A51C000 = .ok (.ld true 5 3 4 0 0) ∧ decodeWord 0x04318004 = .ok (.addi false 3 3 4) ∧
  decodeWord 0x0473FFFF = .ok (.addi false 7 7 0x7FFF) ∧ decodeWord 0x48707FFC = .ok (.bne false 7 0 0x7FFC) ∧
  decodeWord 0 = .error (.reservedMajor 0) ∧ decodeWord 0x50000000 = .error (.reservedMajor 0x28) ∧ decodeWord 0x7E000000 = .error (.reservedMajor 0x3F) ∧
  decodeWord 0x02000112 = .error (.unassigned 1) ∧
  (∀ (sm : Bool) (d a : Reg) (w : Fin 8) (h : Fin 4) (o : BitVec 10),
    (Instr.ld sm d a w h o).wf = (w != 7 && h != 3) ∧ (Instr.lda sm d a w h o).wf = (w != 7) ∧
    (Instr.st sm d a w h o).wf = (w.val % 2 == 0 && h != 3) ∧ (Instr.stl sm d a w h o).wf = (w.val % 2 == 0))

/-- R4: a memory in canonical form reads back what is written to it, the lowest byte at the lowest address, and keeps every other byte and its
canonical form. It rests on choices of the model: log entry 1. -/
def Obligations.MemoryLaws : Prop := ∀ (m : List Host.Cell) (a : Nat), Memory.wf m = true →
  (∀ b v, Memory.read (Memory.write m a v) b = if b = a then v else Memory.read m b) ∧
  (∀ v, Memory.wf (Memory.write m a v) = true) ∧
  (∀ n v, Memory.readN (Memory.writeN m a (leBytes n v)) a n = leBytes n v ∧ leNat (leBytes n v) = v % 256 ^ n) ∧
  (∀ l : List Byte, Memory.wf (Memory.writeN m a l) = true ∧
    ∀ b, b < a ∨ a + l.length ≤ b → Memory.read (Memory.writeN m a l) b = Memory.read m b)

/-- Every instruction that the manual's fields allow is read back from its own word, with every operand (R172, R175). -/
def Obligations.EncodeDecode : Prop := ∀ (i : Instr) (w : Nat), i.wf = true → encode i = some w → decodeWord w = .ok i ∧ w < 2 ^ 32

/-- Every word that decodes is the word of the instruction it decodes to: no two words are one instruction, and no bit of a word is dropped. -/
def Obligations.DecodeEncode : Prop := ∀ (i : Instr) (w : Nat), w < 2 ^ 32 → decodeWord w = .ok i → i.wf = true ∧ encode i = some w
end

