-- ==== Sys2Proof/Laws/Contexts.lean ====
section
/-! SUPPORT. Sys2Proof/Laws/Contexts.lean: what changing a context does to what the other operations of Machine/Base.lean read. -/

namespace Sys2Proof.Machine

theorem find_map_same {f : Ctx → Ctx} (hf : ∀ c, (f c).id = c.id) (id j : CtxId) (l : List Ctx) :
    (l.map fun x => if x.id = id then f x else x).find? (fun c => decide (c.id = j)) =
      if j = id then (l.find? fun c => decide (c.id = j)).map f else l.find? fun c => decide (c.id = j) := by
  induction l with
  | nil => simp
  | cons a r ih =>
    by_cases ha : a.id = id <;> by_cases hj : j = id <;> by_cases haj : a.id = j <;> simp_all

/-- Changing a slot's context changes what is found there, and nowhere else. -/
theorem findCtx_modCtx (s : State) (id j : CtxId) {f : Ctx → Ctx} (hf : ∀ c, (f c).id = c.id) :
    (s.modCtx id f).findCtx j = if j = id then (s.findCtx j).map f else s.findCtx j :=
  find_map_same hf id j s.ctxs

theorem findCtx_id {s : State} {id : CtxId} {c : Ctx} (h : s.findCtx id = some c) : c.id = id := by
  have := List.find?_some h
  simpa using this

theorem ctx_of_find {s : State} {id : CtxId} {c : Ctx} (h : s.findCtx id = some c) : s.ctx id = c := by
  simp [State.ctx, h]

theorem ctx_modCtx_self {s : State} {id : CtxId} {c : Ctx} (h : s.findCtx id = some c) {f : Ctx → Ctx} (hf : ∀ c, (f c).id = c.id) :
    (s.modCtx id f).ctx id = f c := by
  simp [State.ctx, findCtx_modCtx s id id hf, h]

theorem ctx_modCtx_ne (s : State) {id j : CtxId} (hj : j ≠ id) {f : Ctx → Ctx} (hf : ∀ c, (f c).id = c.id) :
    (s.modCtx id f).ctx j = s.ctx j := by
  simp [State.ctx, findCtx_modCtx s id j hf, hj]

/-- A change that leaves what p reads of a context as it is leaves what p reads of every context as it is. -/
theorem part_modCtx {α : Type} (p : Ctx → α) (s : State) (id j : CtxId) {f : Ctx → Ctx} (hf : ∀ c, (f c).id = c.id) (hp : ∀ c, p (f c) = p c) :
    p ((s.modCtx id f).ctx j) = p (s.ctx j) := by
  simp only [State.ctx, findCtx_modCtx s id j hf]
  split
  · cases s.findCtx j <;> simp [hp]
  · rfl

theorem grp_modCtx (s : State) (id j : CtxId) {f : Ctx → Ctx} (hf : ∀ c, (f c).id = c.id) (hg : ∀ c, (f c).grp = c.grp) :
    ((s.modCtx id f).ctx j).grp = (s.ctx j).grp := part_modCtx Ctx.grp s id j hf hg

theorem groupOf_modCtx (s : State) (id j : CtxId) {f : Ctx → Ctx} (hf : ∀ c, (f c).id = c.id) (hg : ∀ c, (f c).grp = c.grp) :
    (s.modCtx id f).groupOf j = s.groupOf j := by
  simp only [State.groupOf, grp_modCtx s id j hf hg]
  rfl

theorem leader_modCtx (s : State) (id j : CtxId) {f : Ctx → Ctx} (hf : ∀ c, (f c).id = c.id) (hg : ∀ c, (f c).grp = c.grp) :
    (s.modCtx id f).leader j = s.leader j := by
  simp only [State.leader, grp_modCtx s id j hf hg]

theorem lanes_modCtx (s : State) (id j : CtxId) {f : Ctx → Ctx} (hf : ∀ c, (f c).id = c.id) (hg : ∀ c, (f c).grp = c.grp) :
    (s.modCtx id f).lanes j = s.lanes j := by
  simp only [State.lanes, groupOf_modCtx s id j hf hg]

theorem fileOf_modCtx (s : State) (id j : CtxId) (r : Reg) {f : Ctx → Ctx} (hf : ∀ c, (f c).id = c.id) (hg : ∀ c, (f c).grp = c.grp) :
    (s.modCtx id f).fileOf j r = s.fileOf j r := by
  simp only [State.fileOf, leader_modCtx s id j hf hg]

theorem hasLongs_modCtx (s : State) (id j : CtxId) {f : Ctx → Ctx} (hf : ∀ c, (f c).id = c.id) (hg : ∀ c, (f c).grp = c.grp)
    (ho : ∀ c, (f c).owed = c.owed) : (s.modCtx id f).hasLongs j = s.hasLongs j := by
  simp only [State.hasLongs, leader_modCtx s id j hf hg, lanes_modCtx s id j hf hg, part_modCtx Ctx.owed s id j hf ho]
  rfl

theorem mustPark_modCtx (s : State) (id j : CtxId) {f : Ctx → Ctx} (hf : ∀ c, (f c).id = c.id) (hg : ∀ c, (f c).grp = c.grp)
    (ho : ∀ c, (f c).owed = c.owed) (hp : ∀ c, (f c).poison = c.poison) : (s.modCtx id f).mustPark j = s.mustPark j := by
  simp only [State.mustPark, hasLongs_modCtx s id j hf hg ho, State.poisoned, lanes_modCtx s id j hf hg]
  congr 2
  funext i
  rw [part_modCtx Ctx.poison s id i hf hp]

/-- Changing a context changes nothing but the list of contexts. -/
theorem modCtx_rest (s : State) (id : CtxId) (f : Ctx → Ctx) : s.modCtx id f = { s with ctxs := (s.modCtx id f).ctxs } := rfl

/-! ### Masks and lanes -/

theorem ids_nodup (g : Group) (m : BitVec 16) : (g.ids m).Nodup := by
  unfold Group.ids
  refine List.Nodup.map ?_ (List.nodup_range.filter _)
  intro a b h
  simp at h
  omega

theorem lanes_nodup (s : State) (id : CtxId) : (s.lanes id).Nodup := by
  unfold State.lanes
  split
  · exact ids_nodup _ _
  · simp

end Sys2Proof.Machine
end

