-- ==== Sys2Proof/Laws/Registers.lean ====
section
/-! SUPPORT. Sys2Proof/Laws/Registers.lean: what writing registers and predicates and going on to the next instruction do: everything, once. -/

namespace Sys2Proof.Machine

theorem get_set_self (v : Vector Word 32) (d : Reg) (x : Word) : (v.set d x).get d = x := by
  simp [Vector.get_eq_getElem]

theorem get_set_ne (v : Vector Word 32) {d r : Reg} (h : r ≠ d) (x : Word) : (v.set d x).get r = v.get r := by
  have h' : d.val ≠ r.val := fun e => h (Fin.ext e.symm)
  simp [Vector.get_eq_getElem, Vector.getElem_set_ne _ _ h']

theorem fileOf_low (s : State) (l : CtxId) {d : Reg} (hd : d.val < 16) : s.fileOf l d = l := by
  have : ¬ 16 ≤ d.val := by omega
  simp [State.fileOf, this]

theorem fileOf_high (s : State) (l : CtxId) {d : Reg} (hd : 16 ≤ d.val) : s.fileOf l d = s.leader l := by
  simp [State.fileOf, hd]

/-- Writing a register of the lanes' own files, lane by lane. -/
theorem findCtx_foldl_wg {d : Reg} (hd0 : d ≠ 0) (hd : d.val < 16) (f : CtxId → Word) :
    ∀ (ls : List CtxId) (_ : ls.Nodup) (s : State) (j : CtxId),
      ((ls.map fun i => (i, f i)).foldl (fun (s : State) lv => s.wg lv.1 d lv.2) s).findCtx j =
        (s.findCtx j).map fun c => if j ∈ ls then { c with g := c.g.set d (f j) } else c
  | [], _, s, j => by simp
  | a :: r, hn, s, j => by
    have hn' := List.nodup_cons.mp hn
    simp only [List.map_cons, List.foldl_cons]
    rw [findCtx_foldl_wg hd0 hd f r hn'.2]
    simp only [State.wg, hd0, if_false, fileOf_low s a hd]
    rw [findCtx_modCtx s a j (by intro; rfl)]
    by_cases h : j = a
    · subst h
      simp [hn'.1]
      rfl
    · simp [h]

/-- Writing registers changes nothing but contexts. -/
theorem wgs_rest (s : State) (d : Reg) (vals : List (CtxId × Word)) : s.wgs d vals = { s with ctxs := (s.wgs d vals).ctxs } := by
  have h : ∀ (vs : List (CtxId × Word)) (s : State),
      vs.foldl (fun (s : State) lv => s.wg lv.1 d lv.2) s =
        { s with ctxs := (vs.foldl (fun (s : State) lv => s.wg lv.1 d lv.2) s).ctxs } := by
    intro vs
    induction vs with
    | nil => intro s; rfl
    | cons a r ih =>
      intro s
      simp only [List.foldl_cons]
      rw [ih]
      simp only [State.wg]
      split <;> rfl
  exact h _ s

/-- What a fixed destination leaves: each file's register, and every context otherwise as it was. -/
theorem findCtx_wgs (s : State) (d : Reg) (f : CtxId → Word) (j : CtxId) :
    (s.wgs d (s.laneVals f)).findCtx j = (s.findCtx j).map fun c =>
      if d ≠ 0 ∧ d.val < 16 ∧ j ∈ s.lanes s.cur then { c with g := c.g.set d (f j) }
      else match (s.lanes s.cur).head? with
        | some l => if d ≠ 0 ∧ 16 ≤ d.val ∧ j = s.leader l then { c with g := c.g.set d (f l) } else c
        | none => c := by
  by_cases hd0 : d = 0
  · have : ∀ (vs : List (CtxId × Word)) (s : State), vs.foldl (fun (s : State) lv => s.wg lv.1 (0 : Reg) lv.2) s = s := by
      intro vs
      induction vs with
      | nil => intro s; rfl
      | cons a r ih => intro s; simp only [List.foldl_cons, State.wg]; exact ih s
    subst hd0
    simp only [State.wgs, this]
    cases (s.lanes s.cur).head? <;> simp
  · by_cases hd : d.val < 16
    · have h16 : ¬ 16 ≤ d.val := by omega
      simp only [State.wgs, uniformVals, h16, if_false, State.laneVals, findCtx_foldl_wg hd0 hd f _ (lanes_nodup s s.cur)]
      cases (s.lanes s.cur).head? <;> simp [hd0, hd]
    · have h16 : 16 ≤ d.val := by omega
      simp only [State.wgs, uniformVals, h16, if_true, State.laneVals]
      cases hl : s.lanes s.cur with
      | nil => simp
      | cons a r =>
        simp only [List.map_cons, List.take_succ_cons, List.take_zero, List.foldl_cons, List.foldl_nil, State.wg, hd0, if_false,
          fileOf_high s a h16, List.head?_cons]
        rw [findCtx_modCtx s _ j (by intro; rfl)]
        by_cases h : j = s.leader a <;> simp [h, hd, hd0]

theorem grp_wgs (s : State) (d : Reg) (f : CtxId → Word) (j : CtxId) : ((s.wgs d (s.laneVals f)).ctx j).grp = (s.ctx j).grp := by
  simp only [State.ctx, findCtx_wgs]
  cases s.findCtx j with
  | none => rfl
  | some c =>
    simp only [Option.map_some, Option.getD_some]
    split
    · rfl
    · split
      · split <;> rfl
      · rfl

theorem groupOf_wgs (s : State) (d : Reg) (f : CtxId → Word) (j : CtxId) : (s.wgs d (s.laneVals f)).groupOf j = s.groupOf j := by
  simp only [State.groupOf, grp_wgs]
  rw [wgs_rest]
  rfl

theorem cur_wgs (s : State) (d : Reg) (vals : List (CtxId × Word)) : (s.wgs d vals).cur = s.cur := by
  rw [wgs_rest]

theorem advance_rest (s : State) (sm : Bool) (pc : Word) : s.advance sm pc = { s with ctxs := (s.advance sm pc).ctxs } := rfl

theorem mustPark_advance (s : State) (sm : Bool) (pc : Word) (j : CtxId) : (s.advance sm pc).mustPark j = s.mustPark j :=
  mustPark_modCtx s s.cur j (fun _ => rfl) (fun _ => rfl) (fun _ => rfl) fun _ => rfl

/-- Going on changes the agent's context alone. -/
theorem findCtx_advance (s : State) (sm : Bool) (pc : Word) (j : CtxId) :
    (s.advance sm pc).findCtx j = (s.findCtx j).map fun c => if j = s.cur then wentOn sm pc (s.advance sm pc) c else c := by
  unfold wentOn
  rw [show (s.advance sm pc).cur = s.cur from rfl, mustPark_advance]
  simp only [State.advance]
  rw [findCtx_modCtx s s.cur j (by intro; rfl)]
  by_cases h : j = s.cur <;> simp [h]

theorem moved_advance (s : State) (sm : Bool) (pc : Word) : Moved sm pc s (s.advance sm pc) :=
  ⟨rfl, findCtx_advance s sm pc⟩

theorem ctx_map {o : Option Ctx} {f : Ctx → Ctx} {c d : Ctx} (h : o = some c) : (o.map f).getD d = f c := by
  rw [h]; rfl

/-- The effect of a fixed instruction on registers, with the agent's next pc given. -/
theorem wroteReg_advance {s : State} (sm : Bool) (d : Reg) (f : CtxId → Word) (pc : Word) :
    WroteReg sm d f pc s ((s.wgs d (s.laneVals f)).advance sm pc) := by
  have hf : ∀ j, ((s.wgs d (s.laneVals f)).advance sm pc).findCtx j = ((s.wgs d (s.laneVals f)).findCtx j).map fun c =>
      if j = s.cur then wentOn sm pc ((s.wgs d (s.laneVals f)).advance sm pc) c else c := by
    intro j
    rw [findCtx_advance, cur_wgs]
  have hg : ∀ {j c}, s.findCtx j = some c → (((s.wgs d (s.laneVals f)).advance sm pc).ctx j).g =
      (if d ≠ 0 ∧ d.val < 16 ∧ j ∈ s.lanes s.cur then { c with g := c.g.set d (f j) }
      else match (s.lanes s.cur).head? with
        | some l => if d ≠ 0 ∧ 16 ≤ d.val ∧ j = s.leader l then { c with g := c.g.set d (f l) } else c
        | none => c).g := by
    intro j c h
    simp only [State.ctx, hf, findCtx_wgs, h, Option.map_some, Option.getD_some]
    split <;> rfl
  refine ⟨?_, ?_, ?_, ?_, ?_, ?_⟩
  · rw [advance_rest, wgs_rest]
  · exact cur_wgs s d _
  · intro j
    cases hj : s.findCtx j with
    | none => simp [hf, findCtx_wgs, hj]
    | some c =>
      simp only [Option.map_some]
      rw [hg hj]
      simp only [hf, findCtx_wgs, hj, Option.map_some]
      split <;> (split <;> first | rfl | (split <;> first | rfl | (split <;> rfl)))
  · intro h0 hd l hl hr
    obtain ⟨c, hc⟩ := Option.isSome_iff_exists.mp hr
    rw [hg hc, if_pos ⟨h0, hd, hl⟩]
    exact get_set_self _ _ _
  · intro h16 l hl hr
    obtain ⟨c, hc⟩ := Option.isSome_iff_exists.mp hr
    rw [hg hc]
    have h1 : ¬ d.val < 16 := by omega
    have h0 : d ≠ 0 := by intro h; subst h; simp at h16
    rw [if_neg (fun h => h1 h.2.1), hl]
    simp only
    simp only [ne_eq, h0, not_false_iff, h16, and_self, if_true]
    exact get_set_self _ _ _
  · intro j r hr hn
    obtain ⟨c, hc⟩ := Option.isSome_iff_exists.mp hr
    rw [hg hc, ctx_of_find hc]
    unfold Written at hn
    split
    · rename_i h
      have : r ≠ d := by
        intro e; exact hn ⟨e, h.1, by simp [h.2.1, h.2.2]⟩
      exact get_set_ne _ this _
    · split
      · rename_i l hl
        split
        · rename_i h
          have : r ≠ d := by
            intro e
            refine hn ⟨e, h.1, ?_⟩
            have h1 : ¬ d.val < 16 := by omega
            simp [h1, hl, h.2.2]
          exact get_set_ne _ this _
        · rfl
      · rfl

theorem setPBit_self (p : BitVec 8) (n : PReg) (b : Bool) : (setPBit p n b).getLsbD n = b := by
  revert p n b; decide

theorem setPBit_ne (p : BitVec 8) {n m : PReg} (h : m ≠ n) (b : Bool) : (setPBit p n b).getLsbD m = p.getLsbD m := by
  revert p n m b; decide

/-- Writing a predicate of the lanes, lane by lane. -/
theorem findCtx_foldl_wp {n : PReg} (hn0 : n ≠ 0) (f : CtxId → Bool) :
    ∀ (ls : List CtxId) (_ : ls.Nodup) (s : State) (j : CtxId),
      ((ls.map fun i => (i, f i)).foldl (fun (s : State) lv => s.wp lv.1 n lv.2) s).findCtx j =
        (s.findCtx j).map fun c => if j ∈ ls then { c with p := setPBit c.p n (f j) } else c
  | [], _, s, j => by simp
  | a :: r, hn, s, j => by
    have hn' := List.nodup_cons.mp hn
    simp only [List.map_cons, List.foldl_cons]
    rw [findCtx_foldl_wp hn0 f r hn'.2]
    simp only [State.wp, hn0, if_false]
    rw [findCtx_modCtx s a j (by intro; rfl)]
    by_cases h : j = a
    · subst h
      simp [hn'.1]
      rfl
    · simp [h]

theorem wps_rest (s : State) (n : PReg) (vals : List (CtxId × Bool)) : s.wps n vals = { s with ctxs := (s.wps n vals).ctxs } := by
  have h : ∀ (vs : List (CtxId × Bool)) (s : State),
      vs.foldl (fun (s : State) lv => s.wp lv.1 n lv.2) s =
        { s with ctxs := (vs.foldl (fun (s : State) lv => s.wp lv.1 n lv.2) s).ctxs } := by
    intro vs
    induction vs with
    | nil => intro s; rfl
    | cons a r ih =>
      intro s
      simp only [List.foldl_cons]
      rw [ih]
      simp only [State.wp]
      split <;> rfl
  exact h _ s

theorem findCtx_wps (s : State) (n : PReg) (f : CtxId → Bool) (j : CtxId) :
    (s.wps n ((s.lanes s.cur).map fun i => (i, f i))).findCtx j = (s.findCtx j).map fun c =>
      if n ≠ 0 ∧ j ∈ s.lanes s.cur then { c with p := setPBit c.p n (f j) } else c := by
  by_cases hn0 : n = 0
  · have : ∀ (vs : List (CtxId × Bool)) (s : State), vs.foldl (fun (s : State) lv => s.wp lv.1 (0 : PReg) lv.2) s = s := by
      intro vs
      induction vs with
      | nil => intro s; rfl
      | cons a r ih => intro s; simp only [List.foldl_cons, State.wp]; exact ih s
    subst hn0
    simp [State.wps, this]
  · simp only [State.wps, findCtx_foldl_wp hn0 f _ (lanes_nodup s s.cur)]
    simp [hn0]

/-- The effect of a fixed instruction on predicates. -/
theorem wrotePred_advance {s : State} (sm : Bool) (n : PReg) (f : CtxId → Bool) (pc : Word) :
    WrotePred sm n f pc s ((s.wps n ((s.lanes s.cur).map fun i => (i, f i))).advance sm pc) := by
  have hcur : (s.wps n ((s.lanes s.cur).map fun i => (i, f i))).cur = s.cur := by rw [wps_rest]
  have hf : ∀ j, ((s.wps n ((s.lanes s.cur).map fun i => (i, f i))).advance sm pc).findCtx j =
      ((s.wps n ((s.lanes s.cur).map fun i => (i, f i))).findCtx j).map fun c =>
      if j = s.cur then wentOn sm pc ((s.wps n ((s.lanes s.cur).map fun i => (i, f i))).advance sm pc) c else c := by
    intro j
    rw [findCtx_advance, hcur]
  have hg : ∀ {j c}, s.findCtx j = some c → (((s.wps n ((s.lanes s.cur).map fun i => (i, f i))).advance sm pc).ctx j).p =
      (if n ≠ 0 ∧ j ∈ s.lanes s.cur then setPBit c.p n (f j) else c.p) := by
    intro j c h
    simp only [State.ctx, hf, findCtx_wps, h, Option.map_some, Option.getD_some]
    split <;> split <;> rfl
  refine ⟨?_, hcur, ?_, ?_, ?_⟩
  · rw [advance_rest, wps_rest]
  · intro j
    cases hj : s.findCtx j with
    | none => simp [hf, findCtx_wps, hj]
    | some c =>
      simp only [Option.map_some]
      rw [hg hj]
      simp only [hf, findCtx_wps, hj, Option.map_some]
      split <;> split <;> rfl
  · intro h0 l hl hr
    obtain ⟨c, hc⟩ := Option.isSome_iff_exists.mp hr
    rw [hg hc, if_pos ⟨h0, hl⟩]
    exact setPBit_self _ _ _
  · intro j m hr hn
    obtain ⟨c, hc⟩ := Option.isSome_iff_exists.mp hr
    rw [hg hc, ctx_of_find hc]
    split
    · rename_i h
      exact setPBit_ne _ (fun e => hn ⟨e, h.1, h.2⟩) _
    · rfl

/-- The late writes that a long instruction adds. -/
theorem addLongs_eq (s : State) (d : Reg) (f : CtxId → Word) :
    s.addLongs d (s.laneVals f) = { s with longs := s.longs ++ lateOf s d f } := by
  unfold State.addLongs lateOf
  by_cases h0 : d = 0
  · simp [h0]
  · by_cases hd : d.val < 16
    · have h16 : (16 ≤ d.val) = False := eq_false (by omega)
      simp [h0, hd, h16, uniformVals, State.laneVals, State.fileOf]
    · have h16 : 16 ≤ d.val := by omega
      cases hl : s.lanes s.cur <;> simp [h0, hd, h16, uniformVals, State.laneVals, State.fileOf, hl]

theorem addLongPs_eq (s : State) (n : PReg) (f : CtxId → Bool) :
    s.addLongPs n ((s.lanes s.cur).map fun i => (i, f i)) = { s with longs := s.longs ++ lateOfPred s n f } := by
  unfold State.addLongPs lateOfPred
  by_cases h0 : n = 0 <;> simp [h0]

/-- Going on after late writes have been added. -/
theorem owes_advance (s : State) (late : List Long) (sm : Bool) (pc : Word) :
    Owes late sm pc s ({ s with longs := s.longs ++ late }.advance sm pc) := by
  refine ⟨advance_rest _ _ _, rfl, ?_⟩
  intro j
  exact findCtx_advance { s with longs := s.longs ++ late } sm pc j

theorem owes_longR (s : State) (sm : Bool) (d : Reg) (f : CtxId → Word) :
    Owes (lateOf s d f) sm ((s.ctx s.cur).pc + 4) s (s.longR sm d f) := by
  unfold State.longR State.retire
  rw [addLongs_eq]
  exact owes_advance _ _ _ _

theorem owes_longP (s : State) (sm : Bool) (n : PReg) (f : CtxId → Bool) :
    Owes (lateOfPred s n f) sm ((s.ctx s.cur).pc + 4) s (s.longP sm n f) := by
  unfold State.longP State.retire
  rw [addLongPs_eq]
  exact owes_advance _ _ _ _

theorem wroteReg_fixedR (s : State) (sm : Bool) (d : Reg) (f : CtxId → Word) :
    WroteReg sm d f ((s.ctx s.cur).pc + 4) s (s.fixedR sm d f) := by
  have hpc : ((s.wgs d (s.laneVals f)).ctx s.cur).pc = (s.ctx s.cur).pc := by
    simp only [State.ctx, findCtx_wgs]
    cases s.findCtx s.cur with
    | none => rfl
    | some c =>
      simp only [Option.map_some, Option.getD_some]
      split
      · rfl
      · split
        · split <;> rfl
        · rfl
  have h := wroteReg_advance (s := s) sm d f ((s.ctx s.cur).pc + 4)
  rw [← hpc] at h
  unfold State.fixedR State.retire
  rw [cur_wgs]
  rw [hpc] at h ⊢
  exact h

theorem wrotePred_fixedP (s : State) (sm : Bool) (n : PReg) (f : CtxId → Bool) :
    WrotePred sm n f ((s.ctx s.cur).pc + 4) s (s.fixedP sm n f) := by
  have hpc : ((s.wps n ((s.lanes s.cur).map fun i => (i, f i))).ctx s.cur).pc = (s.ctx s.cur).pc := by
    simp only [State.ctx, findCtx_wps]
    cases s.findCtx s.cur with
    | none => rfl
    | some c =>
      simp only [Option.map_some, Option.getD_some]
      split <;> rfl
  have h := wrotePred_advance (s := s) sm n f ((s.ctx s.cur).pc + 4)
  have hcur : (s.wps n ((s.lanes s.cur).map fun i => (i, f i))).cur = s.cur := by rw [wps_rest]
  unfold State.fixedP State.retire
  rw [hcur, hpc]
  exact h

/-! ### The four shapes of a scalar instruction -/

theorem onCtx_some {s : State} {c : Ctx} (h : s.findCtx s.cur = some c) (f : Ctx → State) : onCtx s f = .next (f c) := by
  simp [onCtx, h]

theorem fixed_of {i : Instr} {s : State} {sm : Bool} {d : Reg} {f : CtxId → Word}
    (h : exec i s = onCtx s fun _ => s.fixedR sm d f) : Fixed i sm d f s := by
  intro c hc
  refine ⟨_, h.trans (onCtx_some hc _), ?_⟩
  rw [← ctx_of_find hc]
  exact wroteReg_fixedR s sm d f

theorem fixedPred_of {i : Instr} {s : State} {sm : Bool} {n : PReg} {f : CtxId → Bool}
    (h : exec i s = onCtx s fun _ => s.fixedP sm n f) : FixedPred i sm n f s := by
  intro c hc
  refine ⟨_, h.trans (onCtx_some hc _), ?_⟩
  rw [← ctx_of_find hc]
  exact wrotePred_fixedP s sm n f

theorem longReg_of {i : Instr} {s : State} {sm : Bool} {d : Reg} {f : CtxId → Word}
    (h : exec i s = onCtx s fun _ => s.longR sm d f) : LongReg i sm d f s := by
  intro c hc
  refine ⟨_, h.trans (onCtx_some hc _), ?_⟩
  rw [← ctx_of_find hc]
  exact owes_longR s sm d f

theorem longPred_of {i : Instr} {s : State} {sm : Bool} {n : PReg} {f : CtxId → Bool}
    (h : exec i s = onCtx s fun _ => s.longP sm n f) : LongPred i sm n f s := by
  intro c hc
  refine ⟨_, h.trans (onCtx_some hc _), ?_⟩
  rw [← ctx_of_find hc]
  exact owes_longP s sm n f

end Sys2Proof.Machine
end

