-- ==== Sys2Proof/Laws/Settling.lean ====
section
/-! SUPPORT. Sys2Proof/Laws/Settling.lean: what performing writes, applying reductions, writing lines back, acquiring and releasing can do: everything,
once. -/

namespace Sys2Proof.Machine

theorem Settled.refl (s : State) : Settled s s := by
  refine ⟨rfl, ?_, rfl, rfl, fun _ => rfl⟩
  intro id
  cases h : s.findCtx id with
  | none => rfl
  | some c => simp [ctx_of_find h]

theorem Settled.trans {s t u : State} (h : Settled s t) (k : Settled t u) : Settled s u := by
  refine ⟨?_, ?_, k.longs.trans h.longs, k.teams.trans h.teams, fun cl => (k.clusters cl).trans (h.clusters cl)⟩
  · rw [k.rest, h.rest]
  · intro id
    rw [k.ctxs, h.ctxs]
    cases s.findCtx id <;> rfl

/-- A change of contexts' timestamps alone. -/
theorem settled_ctxs {s t : State} (h : t = { s with ctxs := t.ctxs })
    (hc : ∀ id, ∃ f : Ctx → Ctx, t.findCtx id = (s.findCtx id).map f ∧ ∀ c, ∃ p m v, f c = { c with pts := p, mts := m, vis := v }) : Settled s t := by
  refine ⟨?_, ?_, ?_, ?_, ?_⟩
  · rw [h]
  · intro id
    obtain ⟨f, hf, hp⟩ := hc id
    rw [hf]
    cases hs : s.findCtx id with
    | none => rfl
    | some c =>
      obtain ⟨p, m, v, hfc⟩ := hp c
      have : t.ctx id = f c := ctx_of_find (by rw [hf, hs]; rfl)
      simp [this, hfc]
  · rw [h]
  · rw [h]
  · intro cl
    rw [h]
    rfl

theorem settled_modCtx (s : State) (id : CtxId) (f : Ctx → Ctx) (hf : ∀ c, ∃ p m v, f c = { c with pts := p, mts := m, vis := v }) :
    Settled s (s.modCtx id f) := by
  have hid : ∀ c, (f c).id = c.id := by
    intro c
    obtain ⟨p, m, v, h⟩ := hf c
    rw [h]
  refine settled_ctxs rfl fun j => ⟨if j = id then f else fun c => c, ?_, ?_⟩
  · rw [findCtx_modCtx s id j hid]
    split
    · rfl
    · cases s.findCtx j <;> rfl
  · intro c
    split
    · exact hf c
    · exact ⟨_, _, _, rfl⟩

/-- A change of timestamps of the contexts that a test picks. -/
theorem settled_mapCtx (s : State) (f : Ctx → Ctx) (hf : ∀ c, ∃ p m v, f c = { c with pts := p, mts := m, vis := v }) :
    Settled s { s with ctxs := s.ctxs.map f } := by
  have hid : ∀ c, (f c).id = c.id := by
    intro c
    obtain ⟨p, m, v, h⟩ := hf c
    rw [h]
  refine settled_ctxs rfl fun j => ⟨f, ?_, hf⟩
  simp only [State.findCtx, List.find?_map]
  congr 1
  apply congrArg (fun p => List.find? p s.ctxs)
  funext c
  simp [hid]

/-- A change of memory, local store, caches, timestamps of lines and Sinter alone. -/
theorem settled_mem (s : State) {t : State} (h : t = { s with l1 := t.l1, l1i := t.l1i, writes := t.writes, reds := t.reds, home := t.home
                                                              mem := t.mem, ls := t.ls, sinter := t.sinter, compiles := t.compiles
                                                              poison := t.poison }) : Settled s t := by
  refine ⟨?_, ?_, ?_, ?_, ?_⟩
  · rw [h]
  · intro id
    rw [h]
    exact (Settled.refl s).ctxs id
  · rw [h]
  · rw [h]
  · intro cl
    rw [h]
    rfl

theorem settled_foldl {α : Type} (f : State → α → State) (h : ∀ s a, Settled s (f s a)) : ∀ (l : List α) (s : State), Settled s (l.foldl f s)
  | [], s => Settled.refl s
  | a :: r, s => (h s a).trans (settled_foldl f h r _)

theorem settled_hasRead (s : State) (a : CtxId) (wts : Nat) : Settled s (s.hasRead a wts) := settled_modCtx _ _ _ fun _ => ⟨_, _, _, rfl⟩

theorem settled_lateSeen (s : State) (l : Late) : Settled s (s.lateSeen l) := by
  unfold State.lateSeen
  split
  · split
    · exact settled_hasRead _ _ _
    · exact settled_hasRead _ _ _
  · exact Settled.refl _

theorem settled_settleLate (s : State) (f : Late → Bool) : Settled s (s.settleLate f) := by
  unfold State.settleLate
  dsimp only
  refine Settled.trans ?_ (settled_foldl _ settled_lateSeen _ _)
  refine ⟨rfl, (Settled.refl s).ctxs, ?_, rfl, fun _ => rfl⟩
  simp only [List.map_map]
  apply List.map_congr_left
  intro l _
  simp only [Function.comp]
  split
  · split <;> rfl
  · rfl

theorem settled_dropSinter (s : State) (f : SCache → Bool) : Settled s (s.dropSinter f) := by
  refine ⟨rfl, (Settled.refl s).ctxs, rfl, ?_, fun _ => rfl⟩
  simp only [State.dropSinter, List.map_map]
  apply List.map_congr_left
  intro t _
  simp only [Function.comp]
  split <;> rfl

/-- A queued command without programs is the same whether it forgets them or not. -/
theorem forget_bare (l : List TileId) (m : MCmd) : { m.forget l with once := [], written := [] } = { m with once := [], written := [] } := by
  unfold MCmd.forget
  split <;> rfl

/-- A change of every cluster that keeps its number and all but what `bare` leaves out. -/
theorem settled_clusters (s : State) {f : Cluster → Cluster} (hc : ∀ cl, (State.cluster { s with clusters := s.clusters.map f } cl).bare = (s.cluster cl).bare) :
    Settled s { s with clusters := s.clusters.map f } := ⟨rfl, (Settled.refl s).ctxs, rfl, rfl, hc⟩

/-- Looking up a cluster after a change of every cluster that keeps its number. -/
theorem cluster_map {s : State} {f : Cluster → Cluster} (hf : ∀ k, (f k).id = k.id) (hb : ∀ k, (f k).bare = k.bare) (cl : Nat) : (State.cluster { s with clusters := s.clusters.map f } cl).bare = (s.cluster cl).bare := by
  unfold State.cluster
  simp only [List.find?_map]
  have e : (fun k : Cluster => decide (k.id = cl)) ∘ f = fun k => decide (k.id = cl) := by
    funext k
    simp [hf]
  rw [e]
  cases s.clusters.find? fun k => decide (k.id = cl) with
  | none => rfl
  | some k => exact hb k

/-- A change of one cluster that keeps its number and all but what `bare` leaves out. -/
theorem settled_modCluster (s : State) (cl : Nat) (f : Cluster → Cluster) (hf : ∀ k, (f k).id = k.id) (hb : ∀ k, (f k).bare = k.bare) :
    Settled s (s.modCluster cl f) := by
  unfold State.modCluster
  split
  · refine settled_clusters s (cluster_map (fun k => ?_) fun k => ?_)
    · split
      · exact hf k
      · rfl
    · split
      · exact hb k
      · rfl
  · rename_i hn
    refine ⟨rfl, (Settled.refl s).ctxs, rfl, rfl, fun i => ?_⟩
    unfold State.cluster
    simp only [List.find?_append]
    cases hi : s.clusters.find? fun k => decide (k.id = i) with
    | some k => rfl
    | none =>
      simp only [Option.none_or, List.find?_singleton, hf]
      split
      · rename_i h
        simp only [decide_eq_true_eq] at h
        subst h
        exact hb _
      · rfl

theorem settled_invalidate (s : State) (f : Nat → Option Nat × Nat × Nat → Bool) : Settled s (s.invalidate f) := by
  unfold State.invalidate
  refine Settled.trans (Settled.trans (t := if (s.sinter.filter fun e => e.ranges.any (f e.cl)).isEmpty then s else s.dropSinter fun e => e.ranges.any (f e.cl)) ?_ ?_)
    (settled_mem _ rfl)
  · split
    · exact Settled.refl _
    · exact settled_dropSinter _ _
  · split
    · exact Settled.refl _
    · refine ⟨rfl, (Settled.refl _).ctxs, rfl, rfl, cluster_map (fun _ => rfl) fun k => ?_⟩
      simp only [Cluster.bare, List.map_map]
      congr 1
      apply List.map_congr_left
      intro q _
      simp only [Function.comp, List.map_map]
      congr 1
      apply List.map_congr_left
      intro m _
      exact forget_bare _ m

theorem settled_noteRace (s : State) (f : Nat → Bool) (r : Option Nat × Nat × Nat) : Settled s (s.noteRace f r) := by
  unfold State.noteRace
  split
  · refine settled_clusters s (cluster_map (fun k => ?_) fun k => ?_)
    · split <;> rfl
    · split
      · simp only [Cluster.bare, List.map_map]
        congr 1
        apply List.map_congr_left
        intro q _
        simp only [Function.comp, List.map_map]
        congr 1
        apply List.map_congr_left
        intro m _
        simp only [Function.comp]
        split <;> rfl
      · rfl
  · exact Settled.refl _

theorem settled_watchWrite (s : State) (cl a n : Nat) : Settled s (s.watchWrite cl a n) := (settled_invalidate _ _).trans (settled_noteRace _ _ _)

theorem settled_watchMem (s : State) (agent : Option CtxId) (va pa n : Nat) : Settled s (s.watchMem agent va pa n) := by
  unfold State.watchMem
  exact (settled_invalidate _ _).trans (settled_noteRace _ _ _)

theorem settled_modHome (s : State) (line : Nat) (f : HomeLine → HomeLine) : Settled s (s.modHome line f) := by
  unfold State.modHome
  split <;> exact settled_mem _ rfl

theorem settled_stampWrite (s : State) (a : Option CtxId) (pipe pa : Nat) (f : List Rel → List Rel) : Settled s (s.stampWrite a pipe pa f) := by
  unfold State.stampWrite
  cases a with
  | none => exact settled_modHome _ _ _
  | some a =>
    refine (settled_modHome _ _ _).trans (settled_mapCtx _ _ fun c => ?_)
    split <;> exact ⟨_, _, _, rfl⟩

theorem settled_noteVia (s : State) (part va pa : Nat) (w : Bool) : Settled s (s.noteVia part va pa w) := by
  unfold State.noteVia
  split
  · exact Settled.refl _
  · exact settled_modHome _ _ _

theorem settled_noteAgent (s : State) (a : Option CtxId) (va pa : Nat) (w : Bool) : Settled s (s.noteAgent a va pa w) := by
  unfold State.noteAgent
  split
  · exact settled_noteVia _ _ _ _ _
  · exact Settled.refl _

/-- What a release sequence of a cluster's local store becomes is left out by `bare`. -/
theorem settled_lsWrite (s : State) (cl off n : Nat) (a : Option CtxId) (k : WKind) : Settled s (s.lsWrite cl off n a k) := by
  unfold State.lsWrite
  dsimp only
  cases a <;> dsimp only <;> split
  · exact Settled.refl _
  · exact settled_modCluster s cl _ (fun _ => rfl) fun _ => rfl
  · exact Settled.refl _
  · exact settled_modCluster s cl _ (fun _ => rfl) fun _ => rfl

theorem settled_placeWriteAs (s : State) (a : Option CtxId) (pipe : Nat) (k : WKind) (p : Place) (data : List Byte) :
    Settled s (s.placeWriteAs a pipe k p data) := by
  cases p with
  | mem va pa =>
    exact (((settled_stampWrite s a pipe pa _).trans (settled_noteAgent _ _ _ _ _)).trans (settled_watchMem _ _ _ _ _)).trans (settled_mem _ rfl)
  | ls cl off => exact ((settled_mem s rfl).trans (settled_lsWrite _ _ _ _ _ _)).trans (settled_watchWrite _ _ _ _)

theorem settled_placeWrite (s : State) (a : Option CtxId) (p : Place) (data : List Byte) : Settled s (s.placeWrite a p data) := by
  unfold State.placeWrite
  split
  · exact (settled_placeWriteAs _ _ _ _ _ _).trans (settled_modCtx _ _ _ fun _ => ⟨_, _, _, rfl⟩)
  · exact settled_placeWriteAs _ _ _ _ _ _
  · exact settled_placeWriteAs _ _ _ _ _ _

theorem settled_performWrite (s : State) (w : PWrite) : Settled s (s.performWrite w) := by
  unfold State.performWrite
  split
  · exact (((settled_stampWrite s _ _ _ _).trans (settled_noteAgent _ _ _ _ _)).trans (settled_watchMem _ _ _ _ _)).trans (settled_mem _ rfl)
  · exact settled_placeWriteAs _ _ _ _ _ _

theorem settled_placeRmw (s : State) (a : CtxId) (k : WKind) (p : Place) (op : RmwOp) (n b cmp : Nat) : Settled s (s.placeRmw a k p op n b cmp).2 := by
  unfold State.placeRmw
  simp only
  split
  · exact settled_placeWriteAs _ _ _ _ _ _
  · exact Settled.refl _

theorem settled_drainWrites (s : State) (f : PWrite → Bool) : Settled s (s.drainWrites f) :=
  (settled_foldl _ settled_performWrite _ s).trans (settled_mem _ rfl)

theorem settled_drainReds (s : State) (f : PRed → Bool) : Settled s (s.drainReds f) :=
  (settled_foldl _ (fun s _ => settled_placeRmw s _ _ _ _ _ _ _) _ s).trans (settled_mem _ rfl)

theorem settled_writeBack (s : State) (l : L1Line) : Settled s (s.writeBack l) := by
  unfold State.writeBack
  split
  · exact Settled.refl _
  · exact settled_mem _ rfl

theorem settled_flushLines (s : State) (keep : Bool) (f : L1Line → Bool) : Settled s (s.flushLines keep f) := by
  have h := settled_foldl State.writeBack settled_writeBack (s.l1.filter f) s
  unfold State.flushLines
  cases keep with
  | true => exact h
  | false => exact h.trans (settled_mem _ rfl)

theorem settled_raisePts (s : State) (a : CtxId) (sc : Scope) : Settled s (s.raisePts a sc) := settled_modCtx _ _ _ fun _ => ⟨_, _, _, rfl⟩

theorem settled_releasePts (s : State) (a : CtxId) (sc : Scope) : Settled s (s.releasePts a sc) := settled_modCtx _ _ _ fun _ => ⟨_, _, _, rfl⟩

theorem settled_observe (s : State) (a : CtxId) (ts : Nat) : Settled s (s.observe a ts) := settled_modCtx _ _ _ fun _ => ⟨_, _, _, rfl⟩

theorem settled_acquire (s : State) (a : CtxId) (sc : Scope) : Settled s (s.acquire a sc) := by
  unfold State.acquire
  cases sc with
  | grp => exact settled_settleLate _ _
  | clu => exact (settled_settleLate _ _).trans (settled_raisePts _ _ _)
  | dev => exact (settled_settleLate _ _).trans (settled_raisePts _ _ _)
  | sys => exact (((settled_settleLate _ _).trans (settled_raisePts _ _ _)).trans (settled_flushLines _ _ _)).trans (settled_mem _ rfl)

theorem settled_acquireLocal (s : State) (a : CtxId) : Settled s (s.acquireLocal a) :=
  (settled_settleLate _ _).trans (settled_raisePts _ _ _)

theorem settled_releaseStart (s : State) (a : CtxId) : Settled s (s.releaseStart a) := by
  unfold State.releaseStart
  exact (settled_settleLate _ _).trans (settled_flushLines _ _ _)

theorem settled_release (s : State) (a : CtxId) (sc : Scope) : Settled s (s.release a sc).2 := by
  unfold State.release
  split
  · exact settled_settleLate _ _
  · simp only
    split
    · exact settled_releaseStart _ _
    · exact (settled_releaseStart _ _).trans (settled_releasePts _ _ _)

theorem settled_drainGroup (s : State) (a : CtxId) : Settled s (s.drainGroup a) := by
  unfold State.drainGroup
  exact ((settled_releaseStart s a).trans (settled_drainWrites _ _)).trans (settled_drainReds _ _)

/-! ### What settling leaves alone -/

theorem Settled.grp {s t : State} (h : Settled s t) (id : CtxId) : (t.ctx id).grp = (s.ctx id).grp := by
  unfold State.ctx
  rw [h.ctxs]
  cases s.findCtx id <;> rfl

theorem Settled.groups {s t : State} (h : Settled s t) : t.groups = s.groups := by rw [h.rest]
theorem Settled.cur {s t : State} (h : Settled s t) : t.cur = s.cur := by rw [h.rest]
theorem Settled.parts {s t : State} (h : Settled s t) : t.parts = s.parts := by rw [h.rest]

theorem Settled.groupOf {s t : State} (h : Settled s t) (id : CtxId) : t.groupOf id = s.groupOf id := by
  unfold State.groupOf State.findGroup
  rw [h.grp, h.groups]

theorem Settled.lanes {s t : State} (h : Settled s t) (id : CtxId) : t.lanes id = s.lanes id := by
  unfold State.lanes
  rw [h.groupOf]

theorem Settled.leader {s t : State} (h : Settled s t) (id : CtxId) : t.leader id = s.leader id := by
  unfold State.leader
  rw [h.grp]

theorem Settled.pc {s t : State} (h : Settled s t) (id : CtxId) : (t.ctx id).pc = (s.ctx id).pc := by
  unfold State.ctx
  rw [h.ctxs]
  cases s.findCtx id <;> rfl

theorem Settled.here {s t : State} (h : Settled s t) {id : CtxId} {c : Ctx} (hc : s.findCtx id = some c) :
    t.findCtx id = some { c with pts := (t.ctx id).pts, mts := (t.ctx id).mts, vis := (t.ctx id).vis } := by
  rw [h.ctxs, hc]; rfl

/-- The registers of every lane read as before. -/
theorem Settled.rg {s t : State} (h : Settled s t) (l : CtxId) (r : Reg) : t.rg l r = s.rg l r := by
  unfold State.rg State.fileOf
  rw [h.leader]
  generalize (if 16 ≤ r.val then s.leader l else l) = f
  unfold State.ctx
  rw [h.ctxs]
  cases s.findCtx f <;> rfl

end Sys2Proof.Machine
end

