-- ==== Sys2Proof/Laws/Traps.lean ====
section
/-! SUPPORT. Sys2Proof/Laws/Traps.lean: what taking a trap does, for a context that runs alone: everything, once. -/

namespace Sys2Proof.Machine

/-- A change of one context's register files alone. -/
structure OnlyFiles (id : CtxId) (s t : State) : Prop where
  rest : t = { s with ctxs := t.ctxs }
  ctxs : ∀ j, t.findCtx j = (s.findCtx j).map fun c => if j = id then { c with g := (t.ctx id).g, p := (t.ctx id).p } else c

theorem OnlyFiles.refl (id : CtxId) (s : State) : OnlyFiles id s s := by
  refine ⟨rfl, ?_⟩
  intro j
  cases h : s.findCtx j with
  | none => rfl
  | some c =>
    by_cases hj : j = id
    · subst hj
      simp [ctx_of_find h]
    · simp [hj]

theorem OnlyFiles.trans {id : CtxId} {s t u : State} (h : OnlyFiles id s t) (k : OnlyFiles id t u) : OnlyFiles id s u := by
  refine ⟨?_, ?_⟩
  · rw [k.rest, h.rest]
  · intro j
    rw [k.ctxs, h.ctxs]
    cases s.findCtx j with
    | none => rfl
    | some c => by_cases hj : j = id <;> simp [hj]

theorem onlyFiles_modCtx (s : State) (id : CtxId) (f : Ctx → Ctx) (hf : ∀ c, ∃ g p, f c = { c with g := g, p := p }) :
    OnlyFiles id s (s.modCtx id f) := by
  have hid : ∀ c, (f c).id = c.id := by
    intro c
    obtain ⟨g, p, h⟩ := hf c
    rw [h]
  refine ⟨rfl, ?_⟩
  intro j
  rw [findCtx_modCtx s id j hid]
  by_cases hj : j = id
  · subst hj
    cases h : s.findCtx j with
    | none => simp
    | some c =>
      rw [ctx_modCtx_self h hid]
      obtain ⟨g, p, hfc⟩ := hf c
      simp [hfc]
  · simp only [hj, if_false]
    cases s.findCtx j <;> rfl

theorem onlyFiles_writeLong (s : State) {id : CtxId} (l : Long) (h : l.dst = id) : OnlyFiles id s (s.writeLong l) := by
  unfold State.writeLong
  subst h
  split
  · split
    · exact OnlyFiles.refl _ _
    · exact onlyFiles_modCtx _ _ _ fun c => ⟨_, c.p, rfl⟩
  · unfold State.wp
    split
    · exact OnlyFiles.refl _ _
    · exact onlyFiles_modCtx _ _ _ fun c => ⟨c.g, _, rfl⟩

theorem onlyFiles_writeLongs {id : CtxId} : ∀ (ls : List Long) (_ : ∀ l ∈ ls, l.dst = id) (s : State), OnlyFiles id s (ls.foldl State.writeLong s)
  | [], _, s => OnlyFiles.refl _ _
  | a :: r, h, s =>
    (onlyFiles_writeLong s a (h a (by simp))).trans (onlyFiles_writeLongs r (fun l hl => h l (by simp [hl])) _)

theorem sfuLongs_dst (k : Cluster) (id : CtxId) : ∀ l ∈ sfuLongs k (fun i => decide (i = id)), l.dst = id := by
  intro l hl
  unfold sfuLongs at hl
  rcases List.mem_append.mp hl with h | h
  · have := (List.mem_filter.mp h).2
    simp only [Bool.and_eq_true, decide_eq_true_eq] at this
    exact this.2
  · obtain ⟨e, -, he⟩ := List.mem_flatMap.mp h
    cases e with
    | vec p => simp at he
    | scalar vs d a w =>
      cases w with
      | some w => simp at he
      | none =>
        simp only [Option.isNone_none, if_true, List.mem_map, List.mem_filter] at he
        obtain ⟨v, ⟨-, hv⟩, rfl⟩ := he
        simpa using hv

/-- Writing the outstanding results of a context that runs alone changes its register files, and takes the results from the lists. -/
theorem flush_alone (s : State) {id : CtxId} (ha : (s.ctx id).grp = none) :
    ∃ u, OnlyFiles id s u ∧ s.flushLongs id = { u with longs := (s.flushLongs id).longs, clusters := (s.flushLongs id).clusters } := by
  have hl : s.leader id = id := by simp [State.leader, ha]
  have hf : (fun i => decide (i = id ∨ i = s.leader id)) = fun i => decide (i = id) := by
    funext i
    simp [hl]
  refine ⟨_, onlyFiles_writeLongs ((s.longs.filter fun l => (fun i => decide (i = id ∨ i = s.leader id)) l.dst && l.poisoned.isNone) ++
    s.clusters.flatMap fun k => if k.id = id.cl then sfuLongs k (fun i => decide (i = id ∨ i = s.leader id)) else []) ?_ s, rfl⟩
  intro l h
  rw [hf] at h
  rcases List.mem_append.mp h with h | h
  · have := (List.mem_filter.mp h).2
    simp only [Bool.and_eq_true, decide_eq_true_eq] at this
    exact this.1
  · obtain ⟨k, -, hk⟩ := List.mem_flatMap.mp h
    split at hk
    · exact sfuLongs_dst k id l hk
    · simp at hk

theorem findCtx_setCtx (s : State) (c : Ctx) (j : CtxId) :
    (s.setCtx c).findCtx j = if j = c.id then (s.findCtx j).map (fun _ => c) else s.findCtx j := by
  have h := find_map_same (f := fun x => { c with id := x.id }) (fun x => rfl) c.id j s.ctxs
  have e : (s.ctxs.map fun x => if x.id = c.id then (fun y => { c with id := y.id }) x else x) = s.ctxs.map fun x => if x.id = c.id then c else x := by
    apply List.map_congr_left
    intro x _
    by_cases hx : x.id = c.id
    · simp only [hx, if_true]
    · simp [hx]
  unfold State.setCtx State.findCtx
  rw [← e, h]
  by_cases hj : j = c.id
  · simp only [hj, if_true]
    cases hq : s.ctxs.find? fun x => decide (x.id = c.id) with
    | none => rfl
    | some x =>
      have : x.id = c.id := by simpa using List.find?_some hq
      simp [this]
  · simp [hj]

theorem estat_low (c : Ctx) (grp fdefer : Bool) (w : Nat) : (estatOf c grp fdefer w).toNat % 4 = privNum c.priv := by
  have h1 : c.lane % 16 < 16 := Nat.mod_lt _ (by decide)
  have h2 : w % 8 < 8 := Nat.mod_lt _ (by decide)
  unfold estatOf
  rw [BitVec.toNat_ofNat]
  cases grp <;> cases fdefer <;> cases c.rcd.isSome <;> cases c.priv <;> simp [privNum] <;> omega

/-- With no answer to a `nbr.put` of the context outstanding, a trap delivers no packet. -/
theorem deliverFor_none {s : State} {id : CtxId} (ha : (s.ctx id).grp = none) (h : ∀ p ∈ s.packets, p.from_ = id → p.dest = 0) :
    s.deliverFor id = s := by
  have hl : s.leader id = id := by simp [State.leader, ha]
  have he : (s.packets.filter fun p => decide (p.dest ≠ 0 ∧ (p.from_ = id ∨ p.from_ = s.leader id))) = [] := by
    rw [List.filter_eq_nil_iff]
    intro p hp
    have := h p hp
    simp only [hl, or_self, decide_eq_true_eq, not_and]
    intro hd hf
    exact hd (this hf)
  unfold State.deliverFor
  simp only [he]
  rfl

/-- Leaving a wait for VRS blocks changes teams alone. -/
theorem leaveBlocks_rest (s : State) (id : CtxId) : s.leaveBlocks id = { s with teams := (s.leaveBlocks id).teams } := by
  unfold State.leaveBlocks State.modTeamOf State.modTeam
  split <;> rfl

theorem findCtx_leaveBlocks (s : State) (id j : CtxId) : (s.leaveBlocks id).findCtx j = s.findCtx j := by
  rw [leaveBlocks_rest]
  rfl

/-- What teams it leaves depends on the teams and on the context's own. -/
theorem leaveBlocks_teams {s t : State} {id : CtxId} (hc : (t.ctx id).team = (s.ctx id).team) (ht : t.teams = s.teams) :
    (t.leaveBlocks id).teams = (s.leaveBlocks id).teams := by
  unfold State.leaveBlocks State.modTeamOf State.modTeam
  rw [hc]
  split <;> simp [ht]

/-- A trap of a context that runs alone. -/
theorem tookTrap_takeTrap {s : State} {id : CtxId} (h : Trappable s id) (cause status : Nat) (val pc : Word) (grp fdefer : Bool) :
    TookTrap id cause status val pc s (s.takeTrap id cause status val pc grp fdefer) := by
  obtain ⟨c, hc⟩ := Option.isSome_iff_exists.mp h.here
  have hcc := ctx_of_find hc
  obtain ⟨u, hu, hfl⟩ := flush_alone s h.alone
  have hfu : ∀ j, (s.flushLongs id).findCtx j = u.findCtx j := by
    intro j; rw [hfl]; rfl
  have hc1 : (s.flushLongs id).findCtx id = some { c with g := (u.ctx id).g, p := (u.ctx id).p } := by
    rw [hfu, hu.ctxs, hc]; simp
  have hg1 : ((s.flushLongs id).ctx id).g = (u.ctx id).g := by rw [ctx_of_find hc1]
  have hp1 : ((s.flushLongs id).ctx id).p = (u.ctx id).p := by rw [ctx_of_find hc1]
  have htl : c.tl < 2 := by rw [← hcc]; exact h.level
  unfold State.takeTrap
  simp only [h.booted, h.clean, Bool.false_eq_true, if_false, deliverFor_none h.alone h.answered]
  generalize hv0 : ({ s.flushLongs id with longs := (s.flushLongs id).longs.filter fun l => !decide (l.dst = id) } : State) = v0
  have hvf0 : ∀ j, v0.findCtx j = (s.flushLongs id).findCtx j := by intro j; rw [← hv0]; rfl
  have hv0c : (v0.ctx id).team = (s.ctx id).team := by rw [ctx_of_find (show v0.findCtx id = _ by rw [hvf0, hc1]), hcc]
  have e0 : v0 = { s with ctxs := v0.ctxs, longs := v0.longs, clusters := v0.clusters } := by rw [← hv0, hfl, hu.rest]
  have ht0 : (v0.leaveBlocks id).teams = (s.leaveBlocks id).teams := leaveBlocks_teams hv0c (by rw [e0])
  generalize hv : v0.leaveBlocks id = v
  have hvf : ∀ j, v.findCtx j = (s.flushLongs id).findCtx j := by intro j; rw [← hv, findCtx_leaveBlocks, hvf0]
  have hid := findCtx_id hc
  have hv1 : v.findCtx id = some { c with g := (u.ctx id).g, p := (u.ctx id).p } := by rw [hvf, hc1]
  have hw : (v.modCtx id fun c => { c with poison := none }).ctx id =
      { c with g := (u.ctx id).g, p := (u.ctx id).p, poison := none } := by
    rw [ctx_modCtx_self hv1 (by intro; rfl)]
  rw [hw]
  simp only
  have hn : ¬ 2 ≤ c.tl := by omega
  rw [if_neg hn]
  generalize hcy : State.cycle (v.modCtx id fun c => { c with poison := none }) id.cl = cy
  generalize hwl : State.wlog (v.modCtx id fun c => { c with poison := none }) id = wl
  set c1 : Ctx := { c with g := (u.ctx id).g, p := (u.ctx id).p, poison := none } with hc1d
  generalize hes : estatOf c1 grp fdefer wl = es
  have hesl : es.toNat % 4 = privNum c.priv := by rw [← hes, estat_low]
  have hidt : (trapCtx c1 cause status val pc es cy).id = id := by
    unfold trapCtx Ctx.setBank
    simp only
    split <;> exact hid
  have hct : ((v.modCtx id fun c => { c with poison := none }).setCtx (trapCtx c1 cause status val pc es cy)).findCtx id =
      some (trapCtx c1 cause status val pc es cy) := by
    rw [findCtx_setCtx, hidt, findCtx_modCtx v id id (by intro; rfl), hv1]
    simp
  have hx := ctx_of_find hct
  have two : c.tl = 0 ∨ c.tl = 1 := by omega
  refine ⟨?_, ?_, ?_, ?_, ?_, ?_, ?_, ?_, ?_, ?_, ?_, ?_, ?_, ?_⟩
  any_goals (try rw [hx]); (try rw [hcc])
  · rcases two with e | e <;> simp [trapCtx, Ctx.setBank, c1, e]
  · rcases two with e | e <;> simp [trapCtx, Ctx.setBank, Ctx.bank, c1, e]
  · rcases two with e | e <;> simp [trapCtx, Ctx.setBank, Ctx.bank, c1, e, Nat.mul_comm]
  · rcases two with e | e <;> simp [trapCtx, Ctx.setBank, Ctx.bank, c1, e]
  · rcases two with e | e <;> simp [trapCtx, Ctx.setBank, Ctx.bank, c1, e, hesl]
  · rcases two with e | e <;> simp [trapCtx, Ctx.setBank, Ctx.bank, c1, e]
  · rcases two with e | e <;> simp [trapCtx, Ctx.setBank, c1, e]
  · rcases two with e | e <;> simp [trapCtx, Ctx.setBank, c1, e, handlerPc, wfld, fld]
  · rcases two with e | e <;> simp [trapCtx, Ctx.setBank, c1, e]
  · rw [hg1, hp1]
    rcases two with e | e <;> simp [trapCtx, Ctx.setBank, c1, e]
  · have hgrp : c.grp = none := by rw [← hcc]; exact h.alone
    rcases two with e | e <;> simp [trapCtx, Ctx.setBank, c1, e, hgrp]
  · intro j hj
    rw [findCtx_setCtx, hidt, if_neg hj, findCtx_modCtx v id j (by intro; rfl), if_neg hj, hvf, hfu, hu.ctxs]
    simp only [hj, if_false]
    cases s.findCtx j <;> rfl
  · have : v.teams = (s.leaveBlocks id).teams := by rw [← hv, ht0]
    simpa only [State.setCtx, State.modCtx] using this
  · have e1 : v = { s with ctxs := v.ctxs, longs := v.longs, clusters := v.clusters, teams := v.teams } := by
      rw [← hv, leaveBlocks_rest, e0]
    unfold State.setCtx State.modCtx
    rw [e1]

/-! ### Instructions that trap in a context that runs alone -/

theorem groupOf_alone {s : State} {id : CtxId} (h : (s.ctx id).grp = none) : s.groupOf id = none := by
  simp [State.groupOf, h]

theorem lanes_alone {s : State} {id : CtxId} (h : s.groupOf id = none) : s.lanes id = [id] := by
  simp [State.lanes, h]

theorem leader_alone {s : State} {id : CtxId} (h : (s.ctx id).grp = none) : s.leader id = id := by
  simp [State.leader, h]

theorem lowest_alone {s : State} {id : CtxId} (h : s.groupOf id = none) : s.lowest id = id := by
  simp [State.lowest, lanes_alone h]

theorem hitLanes_alone {s : State} {id : CtxId} (h : s.groupOf id = none) (c st : Nat) (v : Word) (n : CtxId → Word) (f sm : Bool) :
    s.hitLanes id [(id, .trap c st v)] n f sm = s.takeTrap id c st v (s.ctx id).pc false f := by
  simp [State.hitLanes, h, State.takeHit]

theorem trapAll_alone {s : State} (h : s.groupOf s.cur = none) (c st : Nat) (v : Word) :
    s.trapAll c st v = s.takeTrap s.cur c st v (s.ctx s.cur).pc false false := by
  simp only [State.trapAll, lanes_alone h, List.map_cons, List.map_nil]
  exact hitLanes_alone h c st v _ false false

theorem writeLong_free (s : State) (n : Nat) (l : Long) :
    State.writeLong { s with freeCtr := n } l = { s.writeLong l with freeCtr := n } := by
  unfold State.writeLong State.wp
  split <;> (split <;> rfl)

theorem writeLongs_free (n : Nat) : ∀ (ls : List Long) (s : State),
    ls.foldl State.writeLong { s with freeCtr := n } = { ls.foldl State.writeLong s with freeCtr := n }
  | [], _ => rfl
  | a :: r, s => by
    simp only [List.foldl_cons]
    rw [writeLong_free, writeLongs_free n r]

theorem flushLongs_free (s : State) (n : Nat) (id : CtxId) :
    State.flushLongs { s with freeCtr := n } id = { s.flushLongs id with freeCtr := n } := by
  unfold State.flushLongs
  simp only
  rw [show State.leader { s with freeCtr := n } id = s.leader id from rfl, writeLongs_free]

/-- Drawing free values first makes no difference to a trap. -/
theorem TookTrap.of_free {id : CtxId} {cause status n : Nat} {val pc : Word} {s t : State}
    (h : TookTrap id cause status val pc { s with freeCtr := n } t) : TookTrap id cause status val pc s t := by
  refine ⟨h.tl, h.epc, h.ecause, h.eval, h.estat, h.bank, h.priv, h.pc, h.ready, ?_, h.kept, h.others, h.waits.trans (leaveBlocks_teams rfl rfl), h.rest⟩
  have := h.regs
  rw [flushLongs_free] at this
  exact this

theorem trapOpen_alone {s : State} (h : s.groupOf s.cur = none) (c : Nat) :
    s.trapOpen c = State.takeTrap { s with freeCtr := s.freeCtr + 1 } s.cur c 0 (Config.free s.freeCtr) (s.ctx s.cur).pc false false := by
  have e : s.freeHits c (s.lanes s.cur) = ([(s.cur, .trap c 0 (Config.free s.freeCtr))], { s with freeCtr := s.freeCtr + 1 }) := by
    rw [lanes_alone h]
    rfl
  unfold State.trapOpen
  rw [e]
  simp only
  exact hitLanes_alone (s := { s with freeCtr := s.freeCtr + 1 }) h c 0 _ _ false false

theorem tookTrap_trapOpen {s : State} (h : Trappable s s.cur) (c : Nat) :
    ∃ v, TookTrap s.cur c 0 v (s.ctx s.cur).pc s (s.trapOpen c) := by
  rw [trapOpen_alone (groupOf_alone h.alone)]
  have h' : Trappable { s with freeCtr := s.freeCtr + 1 } s.cur := ⟨h.here, h.alone, h.booted, h.level, h.clean, h.answered⟩
  exact ⟨_, (tookTrap_takeTrap h' c 0 _ _ false false).of_free⟩

theorem tookTrap_trapAll {s : State} (h : Trappable s s.cur) (c st : Nat) (v : Word) :
    TookTrap s.cur c st v (s.ctx s.cur).pc s (s.trapAll c st v) := by
  rw [trapAll_alone (groupOf_alone h.alone)]
  exact tookTrap_takeTrap h c st v _ false false

/-- An instruction whose meaning is a trap with an open EVAL. -/
theorem traps_of {i : Instr} {s : State} {cause : Nat} (h : ∀ c, s.findCtx s.cur = some c → exec i s = .next (s.trapOpen cause)) : Traps i cause s := by
  intro ht
  obtain ⟨c, hc⟩ := Option.isSome_iff_exists.mp ht.here
  exact ⟨_, h c hc, tookTrap_trapOpen ht cause⟩

theorem trapsWith_of {i : Instr} {s : State} {cause st : Nat} {v : Word}
    (h : ∀ c, s.findCtx s.cur = some c → exec i s = .next (s.trapAll cause st v)) : TrapsWith i cause st v s := by
  intro ht
  obtain ⟨c, hc⟩ := Option.isSome_iff_exists.mp ht.here
  exact ⟨_, h c hc, tookTrap_trapAll ht cause st v⟩

theorem addLongs_nil (s : State) (d : Reg) : s.addLongs d [] = s := by
  unfold State.addLongs uniformVals
  split
  · rfl
  · split <;> simp

theorem longTrap_alone {s : State} (h : Trappable s s.cur) (sm d cause bad f v) (hb : bad s.cur = some v) :
    TookTrap s.cur cause 0 v (s.ctx s.cur).pc s (s.longTrap sm d cause bad f) := by
  have hg := groupOf_alone h.alone
  unfold State.longTrap
  simp only [lanes_alone hg, List.filterMap_cons, hb, Option.map_some, List.filterMap_nil, List.isEmpty_cons, Bool.false_eq_true, if_false,
    List.filter_cons, Option.isNone_some, List.filter_nil, List.map_nil, addLongs_nil, State.trapSome]
  rw [hitLanes_alone hg]
  exact tookTrap_takeTrap h cause 0 v _ false false

theorem longTrapOpen_alone {s : State} (h : Trappable s s.cur) (sm d cause bad f) (hb : bad s.cur = true) :
    ∃ v, TookTrap s.cur cause 0 v (s.ctx s.cur).pc s (s.longTrapOpen sm d cause bad f) := by
  have hg := groupOf_alone h.alone
  unfold State.longTrapOpen
  simp only [lanes_alone hg, List.any_cons, hb, Bool.true_or, if_true, List.filter_cons, List.filter_nil, Bool.not_true, Bool.false_eq_true, if_false, List.map_nil,
    State.freeHits, State.freshFree, addLongs_nil, State.trapSome]
  have h' : Trappable { s with freeCtr := s.freeCtr + 1 } s.cur := ⟨h.here, h.alone, h.booted, h.level, h.clean, h.answered⟩
  refine ⟨Config.free s.freeCtr, ?_⟩
  have := hitLanes_alone (s := { s with freeCtr := s.freeCtr + 1 }) hg cause 0 (Config.free s.freeCtr)
  erw [this]
  exact (tookTrap_takeTrap h' cause 0 _ _ false false).of_free

end Sys2Proof.Machine
end

