-- ==== Sys2Proof/Laws/Accesses.lean ====
section
/-! SUPPORT. Sys2Proof/Laws/Accesses.lean: how a memory instruction of a context that runs alone ends at its issue, where its one access is decided there. -/

namespace Sys2Proof.Machine

theorem filter_all {α : Type} {p : α → Bool} {l : List α} (h : ∀ a ∈ l, p a = true) : l.filter p = l := List.filter_eq_self.mpr h

theorem filter_none {α : Type} {p : α → Bool} {l : List α} (h : ∀ a ∈ l, p a = false) : l.filter p = [] := by
  apply List.filter_eq_nil_iff.mpr
  intro a ha
  simp [h a ha]

/-- Going on after a wait has been noted is going on. -/
theorem advance_stay (s : State) (st : CState) (sm : Bool) (pc : Word) : (s.stay st).advance sm pc = s.advance sm pc := by
  have h : (s.stay st).mustPark (s.stay st).cur = s.mustPark s.cur :=
    mustPark_modCtx s s.cur s.cur (fun _ => rfl) (fun _ => rfl) (fun _ => rfl) fun _ => rfl
  unfold State.advance
  rw [h]
  unfold State.stay State.modCtx
  simp only [List.map_map]
  congr 1
  apply List.map_congr_left
  intro c _
  simp only [Function.comp]
  split <;> simp_all

theorem retire_stay (s : State) (st : CState) (sm : Bool) : (s.stay st).retire sm = s.retire sm := by
  have h : ((s.stay st).ctx s.cur).pc = (s.ctx s.cur).pc := by
    unfold State.ctx State.stay
    rw [findCtx_modCtx _ _ _ (by intro; rfl)]
    simp only [if_true]
    cases s.findCtx s.cur <;> rfl
  show (s.stay st).advance sm (((s.stay st).ctx s.cur).pc + 4) = _
  rw [h]
  exact advance_stay s st sm _

/-- What a write of an agent is to the release sequences, and so the reductions that leave, do not depend on how a context stands. -/
theorem redsOf_stay (u : State) (st : CState) (l accs : List Access) : ({ u with accesses := l }.stay st).redsOf u.cur accs = u.redsOf u.cur accs := by
  have hk : ∀ sc rmw, ({ u with accesses := l }.stay st).wkind u.cur sc rmw = u.wkind u.cur sc rmw := by
    intro sc rmw
    have hl : ({ u with accesses := l }.stay st).leader u.cur = u.leader u.cur := leader_modCtx { u with accesses := l } u.cur u.cur (fun _ => rfl) fun _ => rfl
    have hv := part_modCtx Ctx.vis { u with accesses := l } u.cur (u.leader u.cur) (f := fun c => { c with st := st }) (fun _ => rfl) fun _ => rfl
    unfold State.wkind
    rw [hl]
    exact congrArg (fun v : Vis => ({ sc := sc, rmw := rmw, relC := v.relC, relD := v.relD } : WKind)) hv
  unfold State.redsOf
  simp only [hk]
  rfl

/-- With one access, which has passed, an instruction without acquire and announcement ends. -/
theorem accessCheck_passed {u : State} {a : Access} {p : Option Place} {c : Ctx} (hc : u.findCtx u.cur = some c) (hst : a.stage = .passed p)
    (hag : a.agent = u.cur) (hn : ∀ x ∈ u.accesses, x.agent ≠ u.cur) (hacq : a.op.acq = none) (hsc : scOf [a] = []) :
    ({ u with accesses := u.accesses ++ [a] }.stay (.parked .check)).accessCheck u.cur =
      { u with reds := u.reds ++ (u.redsOf u.cur [a]).foldl combine [] }.retire a.sm := by
  have hf : (({ u with accesses := u.accesses ++ [a] }.stay (.parked .check)).accesses.filter fun x => decide (x.agent = u.cur)) = [a] := by
    show ((u.accesses ++ [a]).filter fun x => decide (x.agent = u.cur)) = [a]
    rw [List.filter_append, filter_none (fun x hx => by simp [hn x hx])]
    simp [hag]
  have hh : a.hit = none := by simp [Access.hit, hst]
  have hr : ((u.accesses ++ [a]).filter fun x => !(decide (x.agent = u.cur) && (!false || x.hit.isNone))) = u.accesses := by
    rw [List.filter_append, filter_all (fun x hx => by simp [hn x hx])]
    simp [hag]
  have hs : (({ u with accesses := u.accesses ++ [a] }.stay (.parked .check)).ctx u.cur).st = .parked .check := by
    exact congrArg Ctx.st (ctx_modCtx_self (s := { u with accesses := u.accesses ++ [a] }) (f := fun c => { c with st := .parked .check }) hc fun _ => rfl)
  unfold State.accessCheck
  simp only [hf, hs, bne_self_eq_false, List.all_cons, List.all_nil, hst, Stage.resolved, Bool.and_true, if_true, List.any_cons, List.any_nil, hh,
    Option.isSome_none, Bool.or_false, Bool.false_and, Bool.false_eq_true, if_false]
  unfold State.finishAccess
  simp only [hf, List.findSome?_cons, hacq, List.findSome?_nil, hsc, List.isEmpty_nil,
    List.any_cons, List.any_nil, Bool.or_false, hh, Option.isSome_none, Bool.not_true, Bool.false_eq_true, if_false]
  have hacc : ({ u with accesses := u.accesses ++ [a] }.stay (.parked .check)).accesses = u.accesses ++ [a] := rfl
  simp only [hacc, hr, redsOf_stay]
  exact retire_stay { u with reds := u.reds ++ (u.redsOf u.cur [a]).foldl combine [] } (.parked .check) a.sm

/-- A memory instruction of one lane that begins with no release and whose access passes at issue. -/
theorem issueMem_passed {s u : State} {sm : Bool} {va : Word} {op : MemOp} {p : Option Place} {c : Ctx}
    (hst : s.startStage s.cur s.cur va op = (.passed p, u)) (hcur : u.cur = s.cur) (hc : u.findCtx s.cur = some c)
    (hn : ∀ x ∈ u.accesses, x.agent ≠ s.cur) (hrel : op.rel = none) (hcas : op.casRel = none) (hacq : op.acq = none)
    (hsc : scOf [{ agent := s.cur, lane := s.cur, va := va.toNat, op := op, stage := .passed p, sm := sm, since := u.gtime }] = []) :
    s.issueMem sm [(s.cur, va, op)] = { u with reds := u.reds ++ (u.redsOf s.cur
      [{ agent := s.cur, lane := s.cur, va := va.toNat, op := op, stage := .passed p, sm := sm, since := u.gtime }]).foldl combine [] }.retire sm := by
  unfold State.issueMem
  simp only [List.findSome?_cons, hrel, hcas, List.findSome?_nil, State.shuffle, State.startLanes, hst]
  rw [← hcur] at hsc hn hc ⊢
  exact accessCheck_passed (u := u) (a := { agent := u.cur, lane := u.cur, va := va.toNat, op := op, stage := .passed p, sm := sm, since := u.gtime })
    hc rfl rfl hn hacq hsc

end Sys2Proof.Machine
end

