-- ==== Sys2Proof/Laws/Cells.lean ====
section
/-! SUPPORT. Sys2Proof/Laws/Cells.lean: the laws of sparse data: what a write does to every read, and that each operation keeps the canonical form. -/

namespace Sys2Proof.Machine

section
variable {α : Type} [DecidableEq α] {z : α}

theorem kvWfFrom_mono {b c : Nat} (h : c ≤ b) : ∀ {m : List (Nat × α)}, kvWfFrom z b m = true → kvWfFrom z c m = true
  | [], _ => rfl
  | (k, v) :: r, hm => by
    simp only [kvWfFrom, Bool.and_eq_true, decide_eq_true_eq] at hm ⊢
    exact ⟨⟨Nat.le_trans h hm.1.1, hm.1.2⟩, hm.2⟩

/-- A key below every key of a list reads as one that is not listed. -/
theorem kvRead_below {b a : Nat} (h : a < b) : ∀ {m : List (Nat × α)}, kvWfFrom z b m = true → kvRead z m a = z
  | [], _ => rfl
  | (k, v) :: r, hm => by
    simp only [kvWfFrom, Bool.and_eq_true, decide_eq_true_eq] at hm
    rw [kvRead, if_neg (by omega)]
    exact kvRead_below (by omega) hm.2

/-- After a write the key reads as the value, and every other key as before. -/
theorem kvRead_kvWrite {b : Nat} (a : Nat) (v : α) (x : Nat) :
    ∀ {m : List (Nat × α)}, kvWfFrom z b m = true → kvRead z (kvWrite z m a v) x = if x = a then v else kvRead z m x
  | [], _ => by
    simp only [kvWrite, kvRead]
    split
    · simp_all [kvRead]
    · simp only [kvRead]
      split <;> split <;> simp_all
  | (k, w) :: r, hm => by
    simp only [kvWfFrom, Bool.and_eq_true, decide_eq_true_eq] at hm
    rw [kvWrite]
    split
    · rename_i h
      split
      · rename_i hv
        split
        · rename_i hx
          rw [kvRead, if_neg (by omega), kvRead_below (b := k + 1) (by omega) hm.2, hv]
        · rfl
      · by_cases hx : x = a
        · simp [kvRead, hx]
        · rw [kvRead, if_neg (by omega), if_neg hx]
    · split
      · rename_i h
        subst h
        split
        · rename_i hv
          by_cases hx : x = a
          · subst hx
            rw [kvRead_below (b := x + 1) (by omega) hm.2, if_pos rfl, hv]
          · rw [if_neg hx, kvRead, if_neg (by omega)]
        · by_cases hx : x = a
          · simp [kvRead, hx]
          · rw [kvRead, if_neg (by omega), if_neg hx, kvRead, if_neg (by omega)]
      · rename_i h1 h2
        by_cases hk : k = x
        · subst hk
          rw [kvRead, if_pos rfl, if_neg (fun h => h2 h.symm), kvRead, if_pos rfl]
        · rw [kvRead, if_neg hk, kvRead_kvWrite a v x hm.2]
          by_cases hx : x = a
          · rw [if_pos hx, if_pos hx]
          · rw [if_neg hx, if_neg hx, kvRead, if_neg hk]

/-- A write keeps the canonical form. -/
theorem kvWfFrom_kvWrite (a : Nat) (v : α) :
    ∀ {b : Nat} {m : List (Nat × α)}, b ≤ a → kvWfFrom z b m = true → kvWfFrom z b (kvWrite z m a v) = true
  | b, [], h, _ => by
    simp only [kvWrite]
    split
    · rfl
    · simp_all [kvWfFrom]
  | b, (k, w) :: r, h, hm => by
    have hm' := hm
    simp only [kvWfFrom, Bool.and_eq_true, decide_eq_true_eq, Bool.not_eq_true', decide_eq_false_iff_not] at hm
    rw [kvWrite]
    split
    · rename_i hk
      split
      · exact hm'
      · rename_i hv
        simp only [kvWfFrom, Bool.and_eq_true, decide_eq_true_eq, Bool.not_eq_true', decide_eq_false_iff_not]
        exact ⟨⟨h, hv⟩, ⟨by omega, hm.1.2⟩, hm.2⟩
    · split
      · rename_i hk
        subst hk
        split
        · exact kvWfFrom_mono (by omega) hm.2
        · rename_i hv
          simp only [kvWfFrom, Bool.and_eq_true, decide_eq_true_eq, Bool.not_eq_true', decide_eq_false_iff_not]
          exact ⟨⟨h, hv⟩, hm.2⟩
      · simp only [kvWfFrom, Bool.and_eq_true, decide_eq_true_eq, Bool.not_eq_true', decide_eq_false_iff_not]
        exact ⟨⟨hm.1.1, hm.1.2⟩, kvWfFrom_kvWrite a v (by omega) hm.2⟩

end

/-- Read after write, and the frame of a write. -/
theorem Memory.read_write {m : List Host.Cell} (h : Memory.wf m = true) (a : Nat) (v : Byte) (x : Nat) :
    Memory.read (Memory.write m a v) x = if x = a then v else Memory.read m x := kvRead_kvWrite a v x h

theorem Memory.wf_write {m : List Host.Cell} (h : Memory.wf m = true) (a : Nat) (v : Byte) : Memory.wf (Memory.write m a v) = true :=
  kvWfFrom_kvWrite a v (Nat.zero_le a) h

theorem Memory.wf_writeN {m : List Host.Cell} (h : Memory.wf m = true) (a : Nat) (l : List Byte) : Memory.wf (Memory.writeN m a l) = true := by
  induction l generalizing m a with
  | nil => exact h
  | cons b r ih => exact ih (Memory.wf_write h a b) (a + 1)

/-- The bytes written read back, and every byte outside them reads as before. -/
theorem Memory.read_writeN {m : List Host.Cell} (h : Memory.wf m = true) (a : Nat) (l : List Byte) (x : Nat) :
    Memory.read (Memory.writeN m a l) x = if a ≤ x ∧ x < a + l.length then (l[x - a]?).getD 0 else Memory.read m x := by
  induction l generalizing m a with
  | nil => simp [Memory.writeN]
  | cons b r ih =>
    rw [Memory.writeN, ih (Memory.wf_write h a b) (a + 1), Memory.read_write h]
    simp only [List.length_cons]
    by_cases hx : x = a
    · subst hx
      rw [if_neg (by omega), if_pos rfl, if_pos (by omega)]
      simp
    · by_cases hi : a + 1 ≤ x ∧ x < a + 1 + r.length
      · rw [if_pos hi, if_pos (by omega), show x - a = (x - (a + 1)) + 1 from by omega, List.getElem?_cons_succ]
      · rw [if_neg hi, if_neg hx, if_neg (by omega)]

theorem kvWfFrom_append {α : Type} [DecidableEq α] {z : α} {e : Nat} {r : List (Nat × α)} :
    ∀ {l : List (Nat × α)} {c : Nat}, c ≤ e → kvWfFrom z c l = true → (∀ p ∈ l, p.1 < e) → kvWfFrom z e r = true → kvWfFrom z c (l ++ r) = true
  | [], c, hc, _, _, hr => kvWfFrom_mono hc hr
  | (k, v) :: l, c, hc, hl, ha, hr => by
    simp only [kvWfFrom, Bool.and_eq_true, decide_eq_true_eq] at hl
    simp only [List.cons_append, kvWfFrom, Bool.and_eq_true, decide_eq_true_eq]
    have hk := ha (k, v) (by simp)
    exact ⟨hl.1, kvWfFrom_append (by simpa using hk) hl.2 (fun p hp => ha p (by simp [hp])) hr⟩

/-- Keeping some keys of a list keeps its canonical form. -/
theorem kvWfFrom_filter {α : Type} [DecidableEq α] {z : α} (f : Nat × α → Bool) :
    ∀ {b : Nat} {m : List (Nat × α)}, kvWfFrom z b m = true → kvWfFrom z b (m.filter f) = true
  | _, [], _ => rfl
  | b, (k, v) :: r, hm => by
    simp only [kvWfFrom, Bool.and_eq_true, decide_eq_true_eq] at hm
    rw [List.filter_cons]
    split
    · simp only [kvWfFrom, Bool.and_eq_true, decide_eq_true_eq]
      exact ⟨hm.1, kvWfFrom_filter f hm.2⟩
    · exact kvWfFrom_mono (by omega) (kvWfFrom_filter f hm.2)

theorem Memory.wf_filter {m : List Host.Cell} (h : Memory.wf m = true) (f : Host.Cell → Bool) : Memory.wf (m.filter f) = true :=
  kvWfFrom_filter f h

/-- The keys that a filter keeps above a bound are a list in canonical form from that bound on. -/
theorem kvWfFrom_above {α : Type} [DecidableEq α] {z : α} (e : Nat) :
    ∀ {b : Nat} {m : List (Nat × α)}, kvWfFrom z b m = true → kvWfFrom z e (m.filter fun c => decide (e ≤ c.1)) = true
  | _, [], _ => rfl
  | b, (k, v) :: r, hm => by
    simp only [kvWfFrom, Bool.and_eq_true, decide_eq_true_eq] at hm
    rw [List.filter_cons]
    split
    · rename_i h
      simp only [decide_eq_true_eq] at h
      simp only [kvWfFrom, Bool.and_eq_true, decide_eq_true_eq]
      refine ⟨⟨h, hm.1.2⟩, ?_⟩
      have : (r.filter fun c => decide (e ≤ c.1)) = r.filter fun c => decide (k + 1 ≤ c.1) := by
        apply List.filter_congr
        intro c hc
        have hk : ∀ {b : Nat} {m : List (Nat × α)}, kvWfFrom z b m = true → ∀ c ∈ m, b ≤ c.1 := by
          intro b m
          induction m generalizing b with
          | nil => simp
          | cons p r ih =>
            intro h c hc
            obtain ⟨k, v⟩ := p
            simp only [kvWfFrom, Bool.and_eq_true, decide_eq_true_eq] at h
            rcases List.mem_cons.mp hc with rfl | hc
            · exact h.1.1
            · have := ih h.2 c hc
              omega
        have := hk hm.2 c hc
        simp only [decide_eq_decide]
        omega
      rw [this]
      exact kvWfFrom_above (k + 1) hm.2
    · exact kvWfFrom_above e hm.2

theorem kvWfFrom_run {z : Byte} (lo : Nat) (f : Nat → Byte) : ∀ (n i : Nat),
    kvWfFrom z (lo + i) (((List.range' i n).filterMap fun j => if f j = z then none else some (lo + j, f j))) = true
  | 0, _ => rfl
  | n + 1, i => by
    rw [List.range'_succ, List.filterMap_cons]
    have ih := kvWfFrom_run (z := z) lo f n (i + 1)
    by_cases h : f i = z
    · simp only [h, if_true]
      exact kvWfFrom_mono (by omega) ih
    · simp only [h, if_false]
      simp only [kvWfFrom, Bool.and_eq_true, decide_eq_true_eq, Bool.not_eq_true', decide_eq_false_iff_not]
      exact ⟨⟨Nat.le_refl _, h⟩, ih⟩

/-- Filling a range keeps the canonical form. -/
theorem Memory.wf_fill {m : List Host.Cell} (h : Memory.wf m = true) (lo n : Nat) (f : Nat → Byte) : Memory.wf (Memory.fill m lo n f) = true := by
  have hr := kvWfFrom_run (z := 0) lo f n 0
  rw [← List.range_eq_range'] at hr
  have ha := kvWfFrom_above (lo + n) h
  unfold Memory.fill
  rw [List.append_assoc]
  refine kvWfFrom_append (e := lo) (Nat.zero_le lo) (kvWfFrom_filter _ h) (by simp) ?_
  refine kvWfFrom_append (e := lo + n) (by omega) hr ?_ ha
  intro p hp
  simp only [List.mem_filterMap, List.mem_range] at hp
  obtain ⟨i, hi, he⟩ := hp
  split at he
  · cases he
  · cases he
    simp only
    omega

end Sys2Proof.Machine
end

