-- ==== Sys2Proof/Laws/Codec.lean ====
section
/-! SUPPORT. Sys2Proof/Laws/Codec.lean: the bytes of a cluster in a switch area give its state back (spec/13 R395, R397): each code reads what it has put,
whatever follows, and the bytes of a number give the number. -/

namespace Sys2Proof.Machine

/-- A code that reads what it has put, whatever follows, as the map `n` of it. -/
def Codec.Keeps {α : Type} (c : Codec α) (n : α → α) : Prop := ∀ x r, c.get (c.put x ++ r) = some (n x, r)

/-- A code that reads what it has put, whatever follows. -/
def Codec.Ok {α : Type} (c : Codec α) : Prop := ∀ x r, c.get (c.put x ++ r) = some (x, r)

theorem Codec.Ok.keeps {α : Type} {c : Codec α} (h : c.Ok) : c.Keeps id := h

/-! ### Codes of shapes -/

theorem via_ok {α β : Type} {c : Codec α} (h : c.Ok) (f : α × List Nat → β × List Nat) (x : α) (r : List Nat) :
    (c.get (c.put x ++ r)).map f = some (f (x, r)) := by rw [h]; rfl

theorem nat_ok : cNat.Ok := fun _ _ => rfl

theorem map_keeps {α β : Type} {c : Codec α} {n : α → α} {m : β → β} {f : α → β} {g : β → α} (h : c.Keeps n) (e : ∀ x, f (n (g x)) = m x) :
    (cMap c f g).Keeps m := by
  intro x r
  show (c.get (c.put (g x) ++ r)).map _ = _
  rw [h]; simp [e]

theorem map_ok {α β : Type} {c : Codec α} {f : α → β} {g : β → α} (h : c.Ok) (e : ∀ x, f (g x) = x) : (cMap c f g).Ok :=
  map_keeps (n := id) (m := id) h e

theorem pair_keeps {α β : Type} {c : Codec α} {d : Codec β} {n : α → α} {m : β → β} (hc : c.Keeps n) (hd : d.Keeps m) :
    (c.pair d).Keeps (Prod.map n m) := by
  intro x r
  show (c.get (c.put x.1 ++ d.put x.2 ++ r)).bind _ = _
  rw [List.append_assoc, hc]
  simp only [Option.bind_some]
  rw [hd]; rfl

theorem pair_ok {α β : Type} {c : Codec α} {d : Codec β} (hc : c.Ok) (hd : d.Ok) : (c.pair d).Ok :=
  pair_keeps (n := id) (m := id) hc hd

theorem getN_keeps {α : Type} {c : Codec α} {n : α → α} (h : c.Keeps n) (l : List α) (r : List Nat) :
    getN c l.length (l.flatMap c.put ++ r) = some (l.map n, r) := by
  induction l with
  | nil => rfl
  | cons x l ih => simp only [List.length_cons, List.flatMap_cons, List.append_assoc, getN, h x, Option.bind_some, ih]; rfl

theorem list_keeps {α : Type} {c : Codec α} {n : α → α} (h : c.Keeps n) : (cList c).Keeps (List.map n) := getN_keeps h

theorem list_ok {α : Type} {c : Codec α} (h : c.Ok) : (cList c).Ok := fun l r =>
  (list_keeps (n := id) h l r).trans (by rw [List.map_id])

theorem opt_ok {α : Type} {c : Codec α} (h : c.Ok) : (cOpt c).Ok := map_ok (list_ok h) fun x => by cases x <;> rfl

theorem bool_ok : cBool.Ok := map_ok nat_ok fun x => by cases x <;> rfl

theorem int_ok : cInt.Ok := map_ok (pair_ok nat_ok nat_ok) fun x => by simp

theorem bv_ok {w : Nat} : (cBV w).Ok := map_ok nat_ok fun x => by simp

theorem fin_ok {n : Nat} [NeZero n] : (cFin n).Ok := map_ok nat_ok fun x => by simp

theorem vec_ok {α : Type} {c : Codec α} {n : Nat} [Inhabited α] (h : c.Ok) : (cVec c n).Ok := map_ok (list_ok h) fun v => by
  apply Vector.ext; intro i hi; simp

/-! ### Codes of the parts of the state -/

theorem CtxId.codec_ok : CtxId.codec.Ok := map_ok (pair_ok nat_ok (pair_ok nat_ok nat_ok)) fun _ => rfl

theorem Room.codec_ok : Room.codec.Ok := by
  intro x r
  cases x with
  | vector => rfl
  | sfu => rfl
  | quad a0 => exact via_ok nat_ok (fun (a0, r) => (Room.quad a0, r)) a0 r
  | copies => rfl
  | comm a0 a1 a2 => exact via_ok (pair_ok nat_ok (pair_ok nat_ok bv_ok)) (fun ((a0, a1, a2), r) => (Room.comm a0 a1 a2, r)) (a0, a1, a2) r
  | record => rfl

theorem Park.codec_ok : Park.codec.Ok := by
  intro x r
  cases x with
  | results => rfl
  | check => rfl
  | room a0 => exact via_ok Room.codec_ok (fun (a0, r) => (Park.room a0, r)) a0 r

theorem Cls.codec_ok : Cls.codec.Ok := fun x _ => by cases x <;> rfl

theorem Scope.codec_ok : Scope.codec.Ok := fun x _ => by cases x <;> rfl

theorem Wait.codec_ok : Wait.codec.Ok := by
  intro x r
  cases x with
  | fuse a0 => exact via_ok nat_ok (fun (a0, r) => (Wait.fuse a0, r)) a0 r
  | bar a0 => exact via_ok nat_ok (fun (a0, r) => (Wait.bar a0, r)) a0 r
  | ring a0 a1 a2 => exact via_ok (pair_ok nat_ok (pair_ok nat_ok bool_ok)) (fun ((a0, a1, a2), r) => (Wait.ring a0 a1 a2, r)) (a0, a1, a2) r
  | tagAny a0 => exact via_ok bv_ok (fun (a0, r) => (Wait.tagAny a0, r)) a0 r
  | tagAll a0 => exact via_ok bv_ok (fun (a0, r) => (Wait.tagAll a0, r)) a0 r
  | cnt a0 a1 => exact via_ok (pair_ok Cls.codec_ok nat_ok) (fun ((a0, a1), r) => (Wait.cnt a0 a1, r)) (a0, a1) r
  | notice a0 => exact via_ok bv_ok (fun (a0, r) => (Wait.notice a0, r)) a0 r
  | joinAt => rfl
  | blocks a0 => exact via_ok nat_ok (fun (a0, r) => (Wait.blocks a0, r)) a0 r
  | blockUse a0 => exact via_ok nat_ok (fun (a0, r) => (Wait.blockUse a0, r)) a0 r
  | drained => rfl
  | performed a0 => exact via_ok Scope.codec_ok (fun (a0, r) => (Wait.performed a0, r)) a0 r
  | scDone => rfl
  | queueEntry a0 => exact via_ok bool_ok (fun (a0, r) => (Wait.queueEntry a0, r)) a0 r
  | page a0 a1 => exact via_ok (pair_ok nat_ok nat_ok) (fun ((a0, a1), r) => (Wait.page a0 a1, r)) (a0, a1) r
  | pass a0 => exact via_ok nat_ok (fun (a0, r) => (Wait.pass a0, r)) a0 r
  | reform => rfl
  | inval a0 a1 => exact via_ok (pair_ok nat_ok nat_ok) (fun ((a0, a1), r) => (Wait.inval a0 a1, r)) (a0, a1) r

theorem CState.codec_ok : CState.codec.Ok := by
  intro x r
  cases x with
  | ready => rfl
  | parked a0 => exact via_ok Park.codec_ok (fun (a0, r) => (CState.parked a0, r)) a0 r
  | waiting a0 a1 => exact via_ok (pair_ok Wait.codec_ok nat_ok) (fun ((a0, a1), r) => (CState.waiting a0 a1, r)) (a0, a1) r
  | held => rfl
  | exited => rfl
  | dead => rfl

theorem Priv.codec_ok : Priv.codec.Ok := fun x _ => by cases x <;> rfl

theorem Bank.codec_ok : Bank.codec.Ok := map_ok (pair_ok bv_ok (pair_ok bv_ok (pair_ok bv_ok bv_ok))) fun _ => rfl

theorem DivEntry.codec_ok : DivEntry.codec.Ok := map_ok (pair_ok bv_ok (pair_ok bv_ok (pair_ok bv_ok (pair_ok bv_ok bool_ok)))) fun _ => rfl

theorem Record.codec_ok : Record.codec.Ok := map_ok (pair_ok (list_ok DivEntry.codec_ok) (pair_ok nat_ok (pair_ok nat_ok (pair_ok bv_ok bv_ok)))) fun
  _ => rfl

theorem Vis.codec_ok : Vis.codec.Ok := map_ok (pair_ok nat_ok (pair_ok nat_ok (pair_ok nat_ok (pair_ok nat_ok (pair_ok nat_ok nat_ok))))) fun _ => rfl

theorem Token.codec_ok : Token.codec.Ok := map_ok (pair_ok nat_ok (pair_ok nat_ok (opt_ok nat_ok))) fun _ => rfl

theorem Dest.codec_ok : Dest.codec.Ok := by
  intro x r
  cases x with
  | g a0 => exact via_ok fin_ok (fun (a0, r) => (Dest.g a0, r)) a0 r
  | p a0 => exact via_ok fin_ok (fun (a0, r) => (Dest.p a0, r)) a0 r

theorem Ctx.codec_ok : Ctx.codec.Ok := map_ok (pair_ok CtxId.codec_ok (pair_ok (opt_ok nat_ok) (pair_ok CState.codec_ok (pair_ok bool_ok (pair_ok
  bool_ok (pair_ok bv_ok (pair_ok (vec_ok bv_ok) (pair_ok bv_ok (pair_ok bv_ok (pair_ok Priv.codec_ok (pair_ok bv_ok (pair_ok nat_ok (pair_ok bv_ok
  (pair_ok Bank.codec_ok (pair_ok Bank.codec_ok (pair_ok bv_ok (pair_ok bv_ok (pair_ok bv_ok (pair_ok bv_ok (pair_ok bv_ok (pair_ok bv_ok (pair_ok
  bv_ok (pair_ok bv_ok (pair_ok bv_ok (pair_ok bv_ok (pair_ok nat_ok (pair_ok nat_ok (pair_ok (opt_ok nat_ok) (pair_ok (opt_ok Record.codec_ok)
  (pair_ok nat_ok (pair_ok nat_ok (pair_ok Vis.codec_ok (pair_ok (list_ok (pair_ok nat_ok nat_ok)) (pair_ok (list_ok Token.codec_ok) (pair_ok nat_ok
  (pair_ok nat_ok (pair_ok nat_ok (pair_ok (list_ok CtxId.codec_ok) (pair_ok bool_ok (pair_ok (list_ok Dest.codec_ok) (pair_ok (opt_ok bv_ok) (pair_ok
  (opt_ok bv_ok) (pair_ok (opt_ok nat_ok) (pair_ok (opt_ok bv_ok) (pair_ok (opt_ok bv_ok) nat_ok))))))))))))))))))))))))))))))))))))))))))))) fun _ =>
  rfl

theorem Group.codec_ok : Group.codec.Ok := map_ok (pair_ok nat_ok (pair_ok nat_ok (pair_ok nat_ok (pair_ok nat_ok (pair_ok bv_ok (pair_ok bv_ok
  (pair_ok (list_ok DivEntry.codec_ok) (opt_ok bv_ok)))))))) fun _ => rfl

theorem TGroup.codec_ok : TGroup.codec.Ok := map_ok (pair_ok nat_ok (pair_ok nat_ok (pair_ok bv_ok nat_ok))) fun _ => rfl

theorem Ring.codec_ok : Ring.codec.Ok := map_ok (pair_ok nat_ok (pair_ok nat_ok (pair_ok nat_ok (pair_ok bv_ok nat_ok)))) fun _ => rfl

theorem Template.codec_ok : Template.codec.Ok := map_ok (pair_ok (list_ok TGroup.codec_ok) (pair_ok nat_ok (pair_ok nat_ok (pair_ok (list_ok
  Ring.codec_ok) (pair_ok nat_ok (pair_ok nat_ok (pair_ok (list_ok nat_ok) (pair_ok (list_ok nat_ok) (pair_ok nat_ok nat_ok))))))))) fun _ => rfl

theorem Barrier.codec_ok : Barrier.codec.Ok := map_ok (pair_ok nat_ok (pair_ok nat_ok (pair_ok nat_ok (pair_ok bv_ok (pair_ok (opt_ok bv_ok)
  nat_ok))))) fun _ => rfl

theorem SDesc.codec_ok : SDesc.codec.Ok := map_ok (pair_ok nat_ok (pair_ok (list_ok nat_ok) (pair_ok nat_ok (pair_ok bv_ok (pair_ok bv_ok (pair_ok
  bv_ok (pair_ok bv_ok (pair_ok nat_ok (pair_ok nat_ok (pair_ok (list_ok nat_ok) (pair_ok (list_ok nat_ok) (pair_ok (list_ok nat_ok) (pair_ok nat_ok
  nat_ok))))))))))))) fun _ => rfl

theorem Behalf.codec_ok : Behalf.codec.Ok := map_ok (pair_ok CtxId.codec_ok (pair_ok Priv.codec_ok (pair_ok bv_ok (pair_ok (opt_ok nat_ok) (list_ok
  bv_ok))))) fun _ => rfl

theorem Stream.codec_ok : Stream.codec.Ok := map_ok (pair_ok nat_ok (pair_ok nat_ok (pair_ok bv_ok (pair_ok bv_ok (pair_ok bv_ok (pair_ok nat_ok
  (pair_ok nat_ok (pair_ok nat_ok (pair_ok bool_ok (pair_ok bool_ok (pair_ok bool_ok (pair_ok bool_ok (pair_ok bool_ok (pair_ok (opt_ok
  SDesc.codec_ok) (pair_ok nat_ok (pair_ok nat_ok (pair_ok (list_ok (pair_ok nat_ok (list_ok nat_ok))) (opt_ok Behalf.codec_ok)))))))))))))))))) fun _
  => rfl

theorem WQ.codec_ok : WQ.codec.Ok := map_ok (pair_ok nat_ok (pair_ok nat_ok (pair_ok (list_ok (pair_ok nat_ok nat_ok)) (pair_ok (list_ok nat_ok)
  (pair_ok nat_ok (pair_ok nat_ok (pair_ok nat_ok (pair_ok nat_ok (pair_ok nat_ok bool_ok))))))))) fun _ => rfl

/-- A team as a switch area holds it: without what a swap keeps beside it. -/
def Team.bare (t : Team) : Team :=
  { t with
    saved := [], savedLs := [], savedVrs := [], savedAcc := [], savedQuads := [], savedOcq := [], savedCopies := [], savedVq := [], savedLongs := []
    savedGroups := [], savedAccesses := [], savedPins := [] }

theorem Team.codec_bare : Team.codec.Keeps Team.bare := map_keeps (n := id) (pair_ok nat_ok (pair_ok nat_ok (pair_ok nat_ok (pair_ok (opt_ok nat_ok)
  (pair_ok nat_ok (pair_ok nat_ok (pair_ok bv_ok (pair_ok nat_ok (pair_ok nat_ok (pair_ok Template.codec_ok (pair_ok (list_ok Barrier.codec_ok)
  (pair_ok (list_ok Ring.codec_ok) (pair_ok (list_ok Stream.codec_ok) (pair_ok (list_ok WQ.codec_ok) (pair_ok (list_ok bv_ok) (pair_ok (list_ok
  nat_ok) (pair_ok (list_ok (pair_ok CtxId.codec_ok (pair_ok nat_ok nat_ok))) (pair_ok (list_ok nat_ok) (pair_ok bool_ok (pair_ok bool_ok (pair_ok
  bool_ok (pair_ok nat_ok bool_ok)))))))))))))))))))))) fun _ => rfl

theorem AbortAsk.codec_ok : AbortAsk.codec.Ok := map_ok (pair_ok nat_ok (pair_ok nat_ok (pair_ok bv_ok (pair_ok nat_ok (pair_ok nat_ok nat_ok))))) fun
  _ => rfl

theorem Place.codec_ok : Place.codec.Ok := by
  intro x r
  cases x with
  | mem a0 a1 => exact via_ok (pair_ok nat_ok nat_ok) (fun ((a0, a1), r) => (Place.mem a0 a1, r)) (a0, a1) r
  | ls a0 a1 => exact via_ok (pair_ok nat_ok nat_ok) (fun ((a0, a1), r) => (Place.ls a0 a1, r)) (a0, a1) r

theorem Late.codec_ok : Late.codec.Ok := map_ok (pair_ok CtxId.codec_ok (pair_ok Place.codec_ok (pair_ok nat_ok bool_ok))) fun _ => rfl

theorem Away.codec_ok : Away.codec.Ok := by
  intro x r
  cases x with
  | team a0 => exact via_ok nat_ok (fun (a0, r) => (Away.team a0, r)) a0 r
  | area a0 a1 => exact via_ok (pair_ok nat_ok nat_ok) (fun ((a0, a1), r) => (Away.area a0 a1, r)) (a0, a1) r

theorem Long.codec_ok : Long.codec.Ok := map_ok (pair_ok CtxId.codec_ok (pair_ok Dest.codec_ok (pair_ok bv_ok (pair_ok (opt_ok bv_ok) (pair_ok (opt_ok
  AbortAsk.codec_ok) (pair_ok (opt_ok Late.codec_ok) (opt_ok Away.codec_ok))))))) fun _ => rfl

theorem RmwOp.codec_ok : RmwOp.codec.Ok := fun x _ => by cases x <;> rfl

theorem Order.codec_ok : Order.codec.Ok := fun x _ => by cases x <;> rfl

theorem MemOp.codec_ok : MemOp.codec.Ok := by
  intro x r
  cases x with
  | load a0 a1 a2 a3 a4 => exact via_ok (pair_ok nat_ok (pair_ok bool_ok (pair_ok fin_ok (pair_ok nat_ok (opt_ok Scope.codec_ok))))) (fun ((a0, a1,
    a2, a3, a4), r) => (MemOp.load a0 a1 a2 a3 a4, r)) (a0, a1, a2, a3, a4) r
  | store a0 a1 a2 a3 => exact via_ok (pair_ok nat_ok (pair_ok bv_ok (pair_ok nat_ok (opt_ok Scope.codec_ok)))) (fun ((a0, a1, a2, a3), r) =>
    (MemOp.store a0 a1 a2 a3, r)) (a0, a1, a2, a3) r
  | amo a0 a1 a2 a3 a4 a5 a6 => exact via_ok (pair_ok RmwOp.codec_ok (pair_ok nat_ok (pair_ok bv_ok (pair_ok bv_ok (pair_ok fin_ok (pair_ok
    Scope.codec_ok Order.codec_ok)))))) (fun ((a0, a1, a2, a3, a4, a5, a6), r) => (MemOp.amo a0 a1 a2 a3 a4 a5 a6, r)) (a0, a1, a2, a3, a4, a5, a6) r
  | red a0 a1 a2 a3 a4 => exact via_ok (pair_ok RmwOp.codec_ok (pair_ok nat_ok (pair_ok bv_ok (pair_ok Scope.codec_ok Order.codec_ok)))) (fun ((a0,
    a1, a2, a3, a4), r) => (MemOp.red a0 a1 a2 a3 a4, r)) (a0, a1, a2, a3, a4) r
  | prefetch a0 => exact via_ok nat_ok (fun (a0, r) => (MemOp.prefetch a0, r)) a0 r

theorem Xlat.codec_ok : Xlat.codec.Ok := map_ok (pair_ok nat_ok (pair_ok bv_ok (pair_ok bv_ok (opt_ok nat_ok)))) fun _ => rfl

theorem Stage.codec_ok : Stage.codec.Ok := by
  intro x r
  cases x with
  | probe => rfl
  | setD a0 => exact via_ok Xlat.codec_ok (fun (a0, r) => (Stage.setD a0, r)) a0 r
  | remote a0 => exact via_ok Xlat.codec_ok (fun (a0, r) => (Stage.remote a0, r)) a0 r
  | check a0 => exact via_ok Xlat.codec_ok (fun (a0, r) => (Stage.check a0, r)) a0 r
  | heldFault a0 => exact via_ok nat_ok (fun (a0, r) => (Stage.heldFault a0, r)) a0 r
  | passed a0 => exact via_ok (opt_ok Place.codec_ok) (fun (a0, r) => (Stage.passed a0, r)) a0 r
  | trapped a0 a1 a2 => exact via_ok (pair_ok nat_ok (pair_ok nat_ok bv_ok)) (fun ((a0, a1, a2), r) => (Stage.trapped a0 a1 a2, r)) (a0, a1, a2) r
  | upcall a0 a1 => exact via_ok (pair_ok nat_ok nat_ok) (fun ((a0, a1), r) => (Stage.upcall a0 a1, r)) (a0, a1) r

theorem Access.codec_ok : Access.codec.Ok := map_ok (pair_ok CtxId.codec_ok (pair_ok CtxId.codec_ok (pair_ok nat_ok (pair_ok MemOp.codec_ok (pair_ok
  Stage.codec_ok (pair_ok bool_ok (pair_ok nat_ok (opt_ok nat_ok)))))))) fun _ => rfl

theorem WKind.codec_ok : WKind.codec.Ok := map_ok (pair_ok (opt_ok Scope.codec_ok) (pair_ok bool_ok (pair_ok nat_ok nat_ok))) fun _ => rfl

theorem Rel.codec_ok : Rel.codec.Ok := map_ok (pair_ok nat_ok (pair_ok nat_ok (pair_ok CtxId.codec_ok (pair_ok Scope.codec_ok (pair_ok nat_ok
  bool_ok))))) fun _ => rfl

theorem PWrite.codec_ok : PWrite.codec.Ok := map_ok (pair_ok CtxId.codec_ok (pair_ok nat_ok (pair_ok Place.codec_ok (pair_ok (list_ok bv_ok) (pair_ok
  bv_ok (pair_ok nat_ok (pair_ok (opt_ok nat_ok) (pair_ok bool_ok (pair_ok WKind.codec_ok (list_ok Rel.codec_ok)))))))))) fun _ => rfl

theorem PRed.codec_ok : PRed.codec.Ok := map_ok (pair_ok CtxId.codec_ok (pair_ok Place.codec_ok (pair_ok RmwOp.codec_ok (pair_ok nat_ok (pair_ok bv_ok
  (pair_ok bool_ok (pair_ok WKind.codec_ok (pair_ok nat_ok (opt_ok nat_ok))))))))) fun _ => rfl

theorem ScOp.codec_ok : ScOp.codec.Ok := map_ok (pair_ok CtxId.codec_ok (pair_ok nat_ok (pair_ok nat_ok (pair_ok bool_ok (pair_ok (list_ok (pair_ok
  CtxId.codec_ok (pair_ok Place.codec_ok MemOp.codec_ok))) bool_ok))))) fun _ => rfl

theorem View.codec_ok : View.codec.Ok := map_ok (pair_ok nat_ok (pair_ok nat_ok (pair_ok nat_ok (pair_ok nat_ok (pair_ok (vec_ok nat_ok) (pair_ok
  (vec_ok int_ok) bool_ok)))))) fun _ => rfl

theorem Copy.codec_ok : Copy.codec.Ok := map_ok (pair_ok Behalf.codec_ok (pair_ok nat_ok (pair_ok nat_ok (pair_ok View.codec_ok (pair_ok View.codec_ok
  (pair_ok (opt_ok View.codec_ok) (pair_ok nat_ok (pair_ok (opt_ok (pair_ok nat_ok nat_ok)) (pair_ok nat_ok (pair_ok nat_ok (pair_ok bool_ok (pair_ok
  (list_ok int_ok) (pair_ok bool_ok (pair_ok (opt_ok (pair_ok nat_ok nat_ok)) bool_ok)))))))))))))) fun _ => rfl

theorem OcEntry.codec_ok : OcEntry.codec.Ok := map_ok (pair_ok nat_ok (pair_ok CtxId.codec_ok (pair_ok Cls.codec_ok bool_ok))) fun _ => rfl

theorem TileId.codec_ok : TileId.codec.Ok := map_ok (pair_ok nat_ok (pair_ok nat_ok (pair_ok nat_ok (pair_ok nat_ok (pair_ok nat_ok bv_ok))))) fun _
  => rfl

theorem Pin.codec_ok : Pin.codec.Ok := map_ok (pair_ok nat_ok (pair_ok TileId.codec_ok nat_ok)) fun _ => rfl

theorem Packet.codec_ok : Packet.codec.Ok := map_ok (pair_ok nat_ok (pair_ok nat_ok (pair_ok (list_ok bv_ok) (pair_ok CtxId.codec_ok fin_ok)))) fun _
  => rfl

theorem Signals.codec_ok : Signals.codec.Ok := map_ok (pair_ok (opt_ok (pair_ok nat_ok nat_ok)) (opt_ok (pair_ok nat_ok nat_ok))) fun _ => rfl

theorem VPart.codec_ok : VPart.codec.Ok := map_ok (pair_ok bool_ok (pair_ok nat_ok (pair_ok (list_ok nat_ok) (pair_ok (opt_ok (pair_ok nat_ok nat_ok))
  (pair_ok bool_ok (pair_ok (list_ok PRed.codec_ok) nat_ok)))))) fun _ => rfl

theorem VCmd.codec_ok : VCmd.codec.Ok := map_ok (pair_ok nat_ok (pair_ok Behalf.codec_ok (pair_ok nat_ok (pair_ok bool_ok (pair_ok bv_ok (pair_ok
  View.codec_ok (pair_ok (opt_ok View.codec_ok) (pair_ok (opt_ok View.codec_ok) (pair_ok (opt_ok View.codec_ok) (pair_ok nat_ok (pair_ok nat_ok
  (pair_ok Signals.codec_ok (pair_ok (opt_ok nat_ok) (pair_ok bool_ok (pair_ok (list_ok VPart.codec_ok) (pair_ok (list_ok (pair_ok nat_ok nat_ok))
  (pair_ok bool_ok (pair_ok (opt_ok bv_ok) (list_ok int_ok))))))))))))))))))) fun _ => rfl

theorem MCmd.codec_ok : MCmd.codec.Ok := map_ok (pair_ok nat_ok (pair_ok Behalf.codec_ok (pair_ok bool_ok (pair_ok bv_ok (pair_ok bool_ok (pair_ok
  bool_ok (pair_ok nat_ok (pair_ok bv_ok (pair_ok bv_ok (pair_ok (opt_ok View.codec_ok) (pair_ok (opt_ok View.codec_ok) (pair_ok bool_ok (pair_ok
  bool_ok (pair_ok Signals.codec_ok (pair_ok nat_ok (pair_ok nat_ok (pair_ok bool_ok (pair_ok bool_ok (pair_ok nat_ok (pair_ok (list_ok (pair_ok
  nat_ok nat_ok)) (pair_ok (opt_ok (pair_ok bool_ok (list_ok (pair_ok nat_ok (pair_ok nat_ok nat_ok))))) (pair_ok nat_ok (pair_ok (list_ok (pair_ok
  nat_ok (list_ok (pair_ok nat_ok (pair_ok nat_ok nat_ok))))) (pair_ok (list_ok (pair_ok (opt_ok nat_ok) (pair_ok nat_ok nat_ok))) (list_ok (pair_ok
  (opt_ok nat_ok) (pair_ok nat_ok nat_ok))))))))))))))))))))))))))) fun _ => rfl

theorem MBuf.codec_ok : MBuf.codec.Ok := map_ok (pair_ok nat_ok (pair_ok nat_ok (pair_ok (list_ok nat_ok) (list_ok nat_ok)))) fun _ => rfl

theorem Quad.codec_ok : Quad.codec.Ok := map_ok (pair_ok (list_ok MCmd.codec_ok) (pair_ok bv_ok (pair_ok bv_ok (pair_ok MBuf.codec_ok (pair_ok
  MBuf.codec_ok (pair_ok MBuf.codec_ok (pair_ok MBuf.codec_ok (pair_ok bool_ok (pair_ok bv_ok (pair_ok bool_ok bool_ok)))))))))) fun _ => rfl

/-- The state of a cluster as a switch area holds it. -/
def Blob.bare (b : Blob) : Blob := { b with teams := b.teams.map Team.bare }

theorem Blob.codec_bare : Blob.codec.Keeps Blob.bare := map_keeps (pair_keeps (Codec.Ok.keeps (list_ok Ctx.codec_ok)) (pair_keeps (Codec.Ok.keeps
  (list_ok Group.codec_ok)) (pair_keeps (list_keeps Team.codec_bare) (Codec.Ok.keeps (pair_ok (list_ok Long.codec_ok) (pair_ok (list_ok
  Access.codec_ok) (pair_ok (list_ok PWrite.codec_ok) (pair_ok (list_ok PRed.codec_ok) (pair_ok (list_ok ScOp.codec_ok) (pair_ok (list_ok
  Copy.codec_ok) (pair_ok (list_ok OcEntry.codec_ok) (pair_ok (list_ok (pair_ok nat_ok nat_ok)) (pair_ok (list_ok Pin.codec_ok) (pair_ok (list_ok
  Packet.codec_ok) (pair_ok (list_ok VCmd.codec_ok) (pair_ok (list_ok Quad.codec_ok) (pair_ok (opt_ok nat_ok) (pair_ok (list_ok nat_ok) (list_ok
  Rel.codec_ok))))))))))))))))))) fun _ => rfl

/-! ### Bytes -/

theorem length_leBytes (n v : Nat) : (leBytes n v).length = n := by
  induction n generalizing v with
  | zero => rfl
  | succ n ih => simp [leBytes, ih]

theorem leNat_leBytes {n v : Nat} (h : v < 256 ^ n) : leNat (leBytes n v) = v := by
  induction n generalizing v with
  | zero => simp [leBytes, leNat] at *; omega
  | succ n ih =>
    have : v / 256 < 256 ^ n := Nat.div_lt_of_lt_mul (by rwa [Nat.pow_succ, Nat.mul_comm] at h)
    simp only [leBytes, leNat, ih this, BitVec.toNat_ofNat]; omega

/-- The bytes of a number, 255 of them at most, give it back. -/
theorem bytesNats_natBytes {n : Nat} (h : Nat.log2 n < 2032) (k : Nat) (r : List Byte) :
    bytesNats (k + 1) (natBytes n ++ r) = n :: bytesNats k r := by
  have hk : Nat.log2 n / 8 + 1 < 256 := by omega
  have hn : n < 256 ^ (Nat.log2 n / 8 + 1) := by
    have h1 : n < 2 ^ (Nat.log2 n + 1) := Nat.lt_log2_self
    have h2 : 2 ^ (Nat.log2 n + 1) ≤ 2 ^ (8 * (Nat.log2 n / 8 + 1)) := Nat.pow_le_pow_right (by omega) (by omega)
    have h3 : 2 ^ (8 * (Nat.log2 n / 8 + 1)) = 256 ^ (Nat.log2 n / 8 + 1) := by rw [Nat.pow_mul]
    omega
  have hb : (BitVec.ofNat 8 (Nat.log2 n / 8 + 1)).toNat = Nat.log2 n / 8 + 1 := by simp; omega
  have h0 : BitVec.ofNat 8 (Nat.log2 n / 8 + 1) ≠ 0 := fun e => by rw [e] at hb; simp at hb
  have hl := length_leBytes (Nat.log2 n / 8 + 1) n
  simp only [natBytes, List.cons_append, bytesNats, if_neg h0, hb]
  rw [List.take_left' hl, List.drop_left' hl, leNat_leBytes hn]

theorem bytesNats_flatMap {l : List Nat} (h : ∀ n ∈ l, Nat.log2 n < 2032) : ∀ k, l.length ≤ k → bytesNats k (l.flatMap natBytes) = l := by
  induction l with
  | nil => intro k _; cases k <;> rfl
  | cons n l ih =>
    intro k hk
    cases k with
    | zero => simp at hk
    | succ k =>
      rw [List.flatMap_cons, bytesNats_natBytes (h n (by simp)), ih (fun m hm => h m (by simp [hm])) k (by simpa using hk)]

theorem length_flatMap_natBytes (l : List Nat) : l.length ≤ (l.flatMap natBytes).length := by
  induction l with
  | nil => simp
  | cons n l ih => simp [natBytes] at *; omega

/-- The bytes of a value give it back, whatever follows them. -/
theorem Codec.ofBytes_bytes {α : Type} {c : Codec α} {n : α → α} (h : c.Keeps n) (x : α) (r : List Byte) (hn : ∀ m ∈ c.put x, Nat.log2 m < 2032)
    (hl : ((c.put x).flatMap natBytes).length < 256 ^ 8) : c.ofBytes (c.bytes x ++ r) = some (n x) := by
  have h8 := length_leBytes 8 ((c.put x).flatMap natBytes).length
  simp only [Codec.ofBytes, Codec.bytes, List.append_assoc]
  rw [List.take_left' h8, List.drop_left' h8, leNat_leBytes hl, List.take_left' rfl, bytesNats_flatMap hn _ (length_flatMap_natBytes _)]
  have := h x []
  rw [List.append_nil] at this
  rw [this]; rfl

/-- A cluster's part of a switch area gives its state back: its teams are resident ones, which hold nothing of a swap (R58, R395, R397). -/
theorem Blob.kept (b : Blob) (r : List Byte) (hn : ∀ m ∈ Blob.codec.put b, Nat.log2 m < 2032)
    (hl : ((Blob.codec.put b).flatMap natBytes).length < 256 ^ 8) : Blob.codec.ofBytes (Blob.codec.bytes b ++ r) = some b.bare :=
  Codec.ofBytes_bytes Blob.codec_bare b r hn hl

end Sys2Proof.Machine
end

