-- ==== Sys2Proof/Laws/PerInstr.lean ====
section
/-! SUPPORT. Sys2Proof/Laws/PerInstr.lean: what holds of every instruction as syntax: EncodeRange, that its word, where it has one, has 32 bits (R172). One
lemma per constructor. -/

namespace Sys2Proof.Laws

/-- The word of an instruction has 32 bits. -/
def EncodeRange.Statement (i : Instr) : Prop := ∀ w, encode i = some w → w < 2 ^ 32

theorem EncodeRange.add (sm : Bool) (d : Reg) (a : Reg) (b : Reg) (t : Bool) : EncodeRange.Statement (.add sm d a b t) := by
  intro word eq; have eq := Option.some.inj eq; have h_sm := Bool.toNat_le sm; have h_t := Bool.toNat_le t; omega
theorem EncodeRange.sub (sm : Bool) (d : Reg) (a : Reg) (b : Reg) (t : Bool) : EncodeRange.Statement (.sub sm d a b t) := by
  intro word eq; have eq := Option.some.inj eq; have h_sm := Bool.toNat_le sm; have h_t := Bool.toNat_le t; omega
theorem EncodeRange.and (sm : Bool) (d : Reg) (a : Reg) (b : Reg) : EncodeRange.Statement (.and sm d a b) := by
  intro word eq; have eq := Option.some.inj eq; have h_sm := Bool.toNat_le sm; omega
theorem EncodeRange.or (sm : Bool) (d : Reg) (a : Reg) (b : Reg) : EncodeRange.Statement (.or sm d a b) := by
  intro word eq; have eq := Option.some.inj eq; have h_sm := Bool.toNat_le sm; omega
theorem EncodeRange.xor (sm : Bool) (d : Reg) (a : Reg) (b : Reg) : EncodeRange.Statement (.xor sm d a b) := by
  intro word eq; have eq := Option.some.inj eq; have h_sm := Bool.toNat_le sm; omega
theorem EncodeRange.andn (sm : Bool) (d : Reg) (a : Reg) (b : Reg) : EncodeRange.Statement (.andn sm d a b) := by
  intro word eq; have eq := Option.some.inj eq; have h_sm := Bool.toNat_le sm; omega
theorem EncodeRange.orn (sm : Bool) (d : Reg) (a : Reg) (b : Reg) : EncodeRange.Statement (.orn sm d a b) := by
  intro word eq; have eq := Option.some.inj eq; have h_sm := Bool.toNat_le sm; omega
theorem EncodeRange.sll (sm : Bool) (d : Reg) (a : Reg) (b : Reg) : EncodeRange.Statement (.sll sm d a b) := by
  intro word eq; have eq := Option.some.inj eq; have h_sm := Bool.toNat_le sm; omega
theorem EncodeRange.srl (sm : Bool) (d : Reg) (a : Reg) (b : Reg) : EncodeRange.Statement (.srl sm d a b) := by
  intro word eq; have eq := Option.some.inj eq; have h_sm := Bool.toNat_le sm; omega
theorem EncodeRange.sra (sm : Bool) (d : Reg) (a : Reg) (b : Reg) : EncodeRange.Statement (.sra sm d a b) := by
  intro word eq; have eq := Option.some.inj eq; have h_sm := Bool.toNat_le sm; omega
theorem EncodeRange.rol (sm : Bool) (d : Reg) (a : Reg) (b : Reg) : EncodeRange.Statement (.rol sm d a b) := by
  intro word eq; have eq := Option.some.inj eq; have h_sm := Bool.toNat_le sm; omega
theorem EncodeRange.ror (sm : Bool) (d : Reg) (a : Reg) (b : Reg) : EncodeRange.Statement (.ror sm d a b) := by
  intro word eq; have eq := Option.some.inj eq; have h_sm := Bool.toNat_le sm; omega
theorem EncodeRange.slt (sm : Bool) (d : Reg) (a : Reg) (b : Reg) : EncodeRange.Statement (.slt sm d a b) := by
  intro word eq; have eq := Option.some.inj eq; have h_sm := Bool.toNat_le sm; omega
theorem EncodeRange.sltu (sm : Bool) (d : Reg) (a : Reg) (b : Reg) : EncodeRange.Statement (.sltu sm d a b) := by
  intro word eq; have eq := Option.some.inj eq; have h_sm := Bool.toNat_le sm; omega
theorem EncodeRange.min (sm : Bool) (d : Reg) (a : Reg) (b : Reg) : EncodeRange.Statement (.min sm d a b) := by
  intro word eq; have eq := Option.some.inj eq; have h_sm := Bool.toNat_le sm; omega
theorem EncodeRange.max (sm : Bool) (d : Reg) (a : Reg) (b : Reg) : EncodeRange.Statement (.max sm d a b) := by
  intro word eq; have eq := Option.some.inj eq; have h_sm := Bool.toNat_le sm; omega
theorem EncodeRange.minn (sm : Bool) (d : Reg) (a : Reg) (b : Reg) : EncodeRange.Statement (.minn sm d a b) := by
  intro word eq; have eq := Option.some.inj eq; have h_sm := Bool.toNat_le sm; omega
theorem EncodeRange.maxn (sm : Bool) (d : Reg) (a : Reg) (b : Reg) : EncodeRange.Statement (.maxn sm d a b) := by
  intro word eq; have eq := Option.some.inj eq; have h_sm := Bool.toNat_le sm; omega
theorem EncodeRange.clz (sm : Bool) (d : Reg) (a : Reg) : EncodeRange.Statement (.clz sm d a) := by
  intro word eq; have eq := Option.some.inj eq; have h_sm := Bool.toNat_le sm; omega
theorem EncodeRange.ctz (sm : Bool) (d : Reg) (a : Reg) : EncodeRange.Statement (.ctz sm d a) := by
  intro word eq; have eq := Option.some.inj eq; have h_sm := Bool.toNat_le sm; omega
theorem EncodeRange.pop (sm : Bool) (d : Reg) (a : Reg) : EncodeRange.Statement (.pop sm d a) := by
  intro word eq; have eq := Option.some.inj eq; have h_sm := Bool.toNat_le sm; omega
theorem EncodeRange.brev (sm : Bool) (d : Reg) (a : Reg) : EncodeRange.Statement (.brev sm d a) := by
  intro word eq; have eq := Option.some.inj eq; have h_sm := Bool.toNat_le sm; omega
theorem EncodeRange.bswap (sm : Bool) (d : Reg) (a : Reg) : EncodeRange.Statement (.bswap sm d a) := by
  intro word eq; have eq := Option.some.inj eq; have h_sm := Bool.toNat_le sm; omega
theorem EncodeRange.sextB (sm : Bool) (d : Reg) (a : Reg) : EncodeRange.Statement (.sextB sm d a) := by
  intro word eq; have eq := Option.some.inj eq; have h_sm := Bool.toNat_le sm; omega
theorem EncodeRange.sextH (sm : Bool) (d : Reg) (a : Reg) : EncodeRange.Statement (.sextH sm d a) := by
  intro word eq; have eq := Option.some.inj eq; have h_sm := Bool.toNat_le sm; omega
theorem EncodeRange.sextW (sm : Bool) (d : Reg) (a : Reg) : EncodeRange.Statement (.sextW sm d a) := by
  intro word eq; have eq := Option.some.inj eq; have h_sm := Bool.toNat_le sm; omega
theorem EncodeRange.zextW (sm : Bool) (d : Reg) (a : Reg) : EncodeRange.Statement (.zextW sm d a) := by
  intro word eq; have eq := Option.some.inj eq; have h_sm := Bool.toNat_le sm; omega
theorem EncodeRange.bfx (sm : Bool) (d : Reg) (a : Reg) (b : Reg) : EncodeRange.Statement (.bfx sm d a b) := by
  intro word eq; have eq := Option.some.inj eq; have h_sm := Bool.toNat_le sm; omega
theorem EncodeRange.bfi (sm : Bool) (d : Reg) (a : Reg) (b : Reg) : EncodeRange.Statement (.bfi sm d a b) := by
  intro word eq; have eq := Option.some.inj eq; have h_sm := Bool.toNat_le sm; omega
theorem EncodeRange.sel (sm : Bool) (d : Reg) (a : Reg) (b : Reg) (p : PReg) : EncodeRange.Statement (.sel sm d a b p) := by
  intro word eq; have eq := Option.some.inj eq; have h_sm := Bool.toNat_le sm; omega
theorem EncodeRange.addi (sm : Bool) (d : Reg) (a : Reg) (i : BitVec 15) : EncodeRange.Statement (.addi sm d a i) := by
  intro word eq; have eq := Option.some.inj eq; have h_sm := Bool.toNat_le sm; omega
theorem EncodeRange.andi (sm : Bool) (d : Reg) (a : Reg) (i : BitVec 15) : EncodeRange.Statement (.andi sm d a i) := by
  intro word eq; have eq := Option.some.inj eq; have h_sm := Bool.toNat_le sm; omega
theorem EncodeRange.ori (sm : Bool) (d : Reg) (a : Reg) (i : BitVec 15) : EncodeRange.Statement (.ori sm d a i) := by
  intro word eq; have eq := Option.some.inj eq; have h_sm := Bool.toNat_le sm; omega
theorem EncodeRange.xori (sm : Bool) (d : Reg) (a : Reg) (i : BitVec 15) : EncodeRange.Statement (.xori sm d a i) := by
  intro word eq; have eq := Option.some.inj eq; have h_sm := Bool.toNat_le sm; omega
theorem EncodeRange.slli (sm : Bool) (d : Reg) (a : Reg) (n : Fin 64) : EncodeRange.Statement (.slli sm d a n) := by
  intro word eq; have eq := Option.some.inj eq; have h_sm := Bool.toNat_le sm; omega
theorem EncodeRange.srli (sm : Bool) (d : Reg) (a : Reg) (n : Fin 64) : EncodeRange.Statement (.srli sm d a n) := by
  intro word eq; have eq := Option.some.inj eq; have h_sm := Bool.toNat_le sm; omega
theorem EncodeRange.srai (sm : Bool) (d : Reg) (a : Reg) (n : Fin 64) : EncodeRange.Statement (.srai sm d a n) := by
  intro word eq; have eq := Option.some.inj eq; have h_sm := Bool.toNat_le sm; omega
theorem EncodeRange.sltii (sm : Bool) (d : Reg) (a : Reg) (i : BitVec 14) : EncodeRange.Statement (.sltii sm d a i) := by
  intro word eq; have eq := Option.some.inj eq; have h_sm := Bool.toNat_le sm; omega
theorem EncodeRange.sltin (sm : Bool) (d : Reg) (a : Reg) (i : BitVec 14) : EncodeRange.Statement (.sltin sm d a i) := by
  intro word eq; have eq := Option.some.inj eq; have h_sm := Bool.toNat_le sm; omega
theorem EncodeRange.lih (sm : Bool) (d : Reg) (h : Fin 16) (v : BitVec 16) : EncodeRange.Statement (.lih sm d h v) := by
  intro word eq; have eq := Option.some.inj eq; have h_sm := Bool.toNat_le sm; omega
theorem EncodeRange.adpc (sm : Bool) (d : Reg) (i : BitVec 20) : EncodeRange.Statement (.adpc sm d i) := by
  intro word eq; have eq := Option.some.inj eq; have h_sm := Bool.toNat_le sm; omega
theorem EncodeRange.mul (sm : Bool) (d : Reg) (a : Reg) (b : Reg) (w : Bool) : EncodeRange.Statement (.mul sm d a b w) := by
  intro word eq; have eq := Option.some.inj eq; have h_sm := Bool.toNat_le sm; have h_w := Bool.toNat_le w; omega
theorem EncodeRange.mulh (sm : Bool) (d : Reg) (a : Reg) (b : Reg) (w : Bool) : EncodeRange.Statement (.mulh sm d a b w) := by
  intro word eq; have eq := Option.some.inj eq; have h_sm := Bool.toNat_le sm; have h_w := Bool.toNat_le w; omega
theorem EncodeRange.mulhn (sm : Bool) (d : Reg) (a : Reg) (b : Reg) (w : Bool) : EncodeRange.Statement (.mulhn sm d a b w) := by
  intro word eq; have eq := Option.some.inj eq; have h_sm := Bool.toNat_le sm; have h_w := Bool.toNat_le w; omega
theorem EncodeRange.div (sm : Bool) (d : Reg) (a : Reg) (b : Reg) (w : Bool) : EncodeRange.Statement (.div sm d a b w) := by
  intro word eq; have eq := Option.some.inj eq; have h_sm := Bool.toNat_le sm; have h_w := Bool.toNat_le w; omega
theorem EncodeRange.divn (sm : Bool) (d : Reg) (a : Reg) (b : Reg) (w : Bool) : EncodeRange.Statement (.divn sm d a b w) := by
  intro word eq; have eq := Option.some.inj eq; have h_sm := Bool.toNat_le sm; have h_w := Bool.toNat_le w; omega
theorem EncodeRange.rem (sm : Bool) (d : Reg) (a : Reg) (b : Reg) (w : Bool) : EncodeRange.Statement (.rem sm d a b w) := by
  intro word eq; have eq := Option.some.inj eq; have h_sm := Bool.toNat_le sm; have h_w := Bool.toNat_le w; omega
theorem EncodeRange.remn (sm : Bool) (d : Reg) (a : Reg) (b : Reg) (w : Bool) : EncodeRange.Statement (.remn sm d a b w) := by
  intro word eq; have eq := Option.some.inj eq; have h_sm := Bool.toNat_le sm; have h_w := Bool.toNat_le w; omega
theorem EncodeRange.fadd (sm : Bool) (d : Reg) (a : Reg) (b : Reg) (r : Fin 4) (z : Bool) (t : Bool) : EncodeRange.Statement (.fadd sm d a b r z t) := by
  intro word eq; have eq := Option.some.inj eq; have h_sm := Bool.toNat_le sm; have h_z := Bool.toNat_le z; have h_t := Bool.toNat_le t; omega
theorem EncodeRange.fsub (sm : Bool) (d : Reg) (a : Reg) (b : Reg) (r : Fin 4) (z : Bool) (t : Bool) : EncodeRange.Statement (.fsub sm d a b r z t) := by
  intro word eq; have eq := Option.some.inj eq; have h_sm := Bool.toNat_le sm; have h_z := Bool.toNat_le z; have h_t := Bool.toNat_le t; omega
theorem EncodeRange.fmul (sm : Bool) (d : Reg) (a : Reg) (b : Reg) (r : Fin 4) (z : Bool) (t : Bool) : EncodeRange.Statement (.fmul sm d a b r z t) := by
  intro word eq; have eq := Option.some.inj eq; have h_sm := Bool.toNat_le sm; have h_z := Bool.toNat_le z; have h_t := Bool.toNat_le t; omega
theorem EncodeRange.fma (sm : Bool) (d : Reg) (a : Reg) (b : Reg) (r : Fin 4) (z : Bool) (t : Bool) : EncodeRange.Statement (.fma sm d a b r z t) := by
  intro word eq; have eq := Option.some.inj eq; have h_sm := Bool.toNat_le sm; have h_z := Bool.toNat_le z; have h_t := Bool.toNat_le t; omega
theorem EncodeRange.fdiv (sm : Bool) (d : Reg) (a : Reg) (b : Reg) (r : Fin 4) (z : Bool) (t : Bool) : EncodeRange.Statement (.fdiv sm d a b r z t) := by
  intro word eq; have eq := Option.some.inj eq; have h_sm := Bool.toNat_le sm; have h_z := Bool.toNat_le z; have h_t := Bool.toNat_le t; omega
theorem EncodeRange.fsqrt (sm : Bool) (d : Reg) (a : Reg) (r : Fin 4) (z : Bool) (t : Bool) : EncodeRange.Statement (.fsqrt sm d a r z t) := by
  intro word eq; have eq := Option.some.inj eq; have h_sm := Bool.toNat_le sm; have h_z := Bool.toNat_le z; have h_t := Bool.toNat_le t; omega
theorem EncodeRange.fmin (sm : Bool) (d : Reg) (a : Reg) (b : Reg) (t : Bool) : EncodeRange.Statement (.fmin sm d a b t) := by
  intro word eq; have eq := Option.some.inj eq; have h_sm := Bool.toNat_le sm; have h_t := Bool.toNat_le t; omega
theorem EncodeRange.fmax (sm : Bool) (d : Reg) (a : Reg) (b : Reg) (t : Bool) : EncodeRange.Statement (.fmax sm d a b t) := by
  intro word eq; have eq := Option.some.inj eq; have h_sm := Bool.toNat_le sm; have h_t := Bool.toNat_le t; omega
theorem EncodeRange.fsign (sm : Bool) (d : Reg) (a : Reg) (b : Reg) (m : Fin 4) (t : Bool) : EncodeRange.Statement (.fsign sm d a b m t) := by
  intro word eq; have eq := Option.some.inj eq; have h_sm := Bool.toNat_le sm; have h_t := Bool.toNat_le t; omega
theorem EncodeRange.fclass (sm : Bool) (d : Reg) (a : Reg) (t : Bool) : EncodeRange.Statement (.fclass sm d a t) := by
  intro word eq; have eq := Option.some.inj eq; have h_sm := Bool.toNat_le sm; have h_t := Bool.toNat_le t; omega
theorem EncodeRange.fcmp (sm : Bool) (n : PReg) (a : Reg) (b : Reg) (c : Fin 8) (t : Bool) : EncodeRange.Statement (.fcmp sm n a b c t) := by
  intro word eq; have eq := Option.some.inj eq; have h_sm := Bool.toNat_le sm; have h_t := Bool.toNat_le t; omega
theorem EncodeRange.fcvt (sm : Bool) (d : Reg) (a : Reg) (c : Fin 16) (x : Bool) (z : Bool) (r : Fin 4) (t : Fin 16) : EncodeRange.Statement (.fcvt sm d a c x z r t) := by
  intro word eq; have eq := Option.some.inj eq; have h_sm := Bool.toNat_le sm; have h_x := Bool.toNat_le x; have h_z := Bool.toNat_le z; omega
theorem EncodeRange.ld (sm : Bool) (d : Reg) (a : Reg) (w : Fin 8) (h : Fin 4) (o : BitVec 10) : EncodeRange.Statement (.ld sm d a w h o) := by
  intro word eq; have eq := Option.some.inj eq; have h_sm := Bool.toNat_le sm; omega
theorem EncodeRange.st (sm : Bool) (d : Reg) (a : Reg) (w : Fin 8) (h : Fin 4) (o : BitVec 10) : EncodeRange.Statement (.st sm d a w h o) := by
  intro word eq; have eq := Option.some.inj eq; have h_sm := Bool.toNat_le sm; omega
theorem EncodeRange.lda (sm : Bool) (d : Reg) (a : Reg) (w : Fin 8) (h : Fin 4) (o : BitVec 10) : EncodeRange.Statement (.lda sm d a w h o) := by
  intro word eq; have eq := Option.some.inj eq; have h_sm := Bool.toNat_le sm; omega
theorem EncodeRange.stl (sm : Bool) (d : Reg) (a : Reg) (w : Fin 8) (h : Fin 4) (o : BitVec 10) : EncodeRange.Statement (.stl sm d a w h o) := by
  intro word eq; have eq := Option.some.inj eq; have h_sm := Bool.toNat_le sm; omega
theorem EncodeRange.amoAdd (sm : Bool) (d : Reg) (a : Reg) (b : Reg) (c : Fin 4) (o : Fin 8) (w : Bool) : EncodeRange.Statement (.amoAdd sm d a b c o w) := by
  intro word eq; have eq := Option.some.inj eq; have h_sm := Bool.toNat_le sm; have h_w := Bool.toNat_le w; omega
theorem EncodeRange.amoAnd (sm : Bool) (d : Reg) (a : Reg) (b : Reg) (c : Fin 4) (o : Fin 8) (w : Bool) : EncodeRange.Statement (.amoAnd sm d a b c o w) := by
  intro word eq; have eq := Option.some.inj eq; have h_sm := Bool.toNat_le sm; have h_w := Bool.toNat_le w; omega
theorem EncodeRange.amoOr (sm : Bool) (d : Reg) (a : Reg) (b : Reg) (c : Fin 4) (o : Fin 8) (w : Bool) : EncodeRange.Statement (.amoOr sm d a b c o w) := by
  intro word eq; have eq := Option.some.inj eq; have h_sm := Bool.toNat_le sm; have h_w := Bool.toNat_le w; omega
theorem EncodeRange.amoXor (sm : Bool) (d : Reg) (a : Reg) (b : Reg) (c : Fin 4) (o : Fin 8) (w : Bool) : EncodeRange.Statement (.amoXor sm d a b c o w) := by
  intro word eq; have eq := Option.some.inj eq; have h_sm := Bool.toNat_le sm; have h_w := Bool.toNat_le w; omega
theorem EncodeRange.amoMin (sm : Bool) (d : Reg) (a : Reg) (b : Reg) (c : Fin 4) (o : Fin 8) (w : Bool) : EncodeRange.Statement (.amoMin sm d a b c o w) := by
  intro word eq; have eq := Option.some.inj eq; have h_sm := Bool.toNat_le sm; have h_w := Bool.toNat_le w; omega
theorem EncodeRange.amoMax (sm : Bool) (d : Reg) (a : Reg) (b : Reg) (c : Fin 4) (o : Fin 8) (w : Bool) : EncodeRange.Statement (.amoMax sm d a b c o w) := by
  intro word eq; have eq := Option.some.inj eq; have h_sm := Bool.toNat_le sm; have h_w := Bool.toNat_le w; omega
theorem EncodeRange.amoMinn (sm : Bool) (d : Reg) (a : Reg) (b : Reg) (c : Fin 4) (o : Fin 8) (w : Bool) : EncodeRange.Statement (.amoMinn sm d a b c o w) := by
  intro word eq; have eq := Option.some.inj eq; have h_sm := Bool.toNat_le sm; have h_w := Bool.toNat_le w; omega
theorem EncodeRange.amoMaxn (sm : Bool) (d : Reg) (a : Reg) (b : Reg) (c : Fin 4) (o : Fin 8) (w : Bool) : EncodeRange.Statement (.amoMaxn sm d a b c o w) := by
  intro word eq; have eq := Option.some.inj eq; have h_sm := Bool.toNat_le sm; have h_w := Bool.toNat_le w; omega
theorem EncodeRange.amoSwp (sm : Bool) (d : Reg) (a : Reg) (b : Reg) (c : Fin 4) (o : Fin 8) (w : Bool) : EncodeRange.Statement (.amoSwp sm d a b c o w) := by
  intro word eq; have eq := Option.some.inj eq; have h_sm := Bool.toNat_le sm; have h_w := Bool.toNat_le w; omega
theorem EncodeRange.amoCas (sm : Bool) (d : Reg) (a : Reg) (b : Reg) (c : Fin 4) (o : Fin 8) (w : Bool) : EncodeRange.Statement (.amoCas sm d a b c o w) := by
  intro word eq; have eq := Option.some.inj eq; have h_sm := Bool.toNat_le sm; have h_w := Bool.toNat_le w; omega
theorem EncodeRange.amoFadd (sm : Bool) (d : Reg) (a : Reg) (b : Reg) (c : Fin 4) (o : Fin 8) (w : Bool) : EncodeRange.Statement (.amoFadd sm d a b c o w) := by
  intro word eq; have eq := Option.some.inj eq; have h_sm := Bool.toNat_le sm; have h_w := Bool.toNat_le w; omega
theorem EncodeRange.redAdd (sm : Bool) (a : Reg) (b : Reg) (c : Fin 4) (o : Fin 8) (w : Bool) : EncodeRange.Statement (.redAdd sm a b c o w) := by
  intro word eq; have eq := Option.some.inj eq; have h_sm := Bool.toNat_le sm; have h_w := Bool.toNat_le w; omega
theorem EncodeRange.redFadd (sm : Bool) (a : Reg) (b : Reg) (c : Fin 4) (o : Fin 8) (w : Bool) : EncodeRange.Statement (.redFadd sm a b c o w) := by
  intro word eq; have eq := Option.some.inj eq; have h_sm := Bool.toNat_le sm; have h_w := Bool.toNat_le w; omega
theorem EncodeRange.redMin (sm : Bool) (a : Reg) (b : Reg) (c : Fin 4) (o : Fin 8) (w : Bool) : EncodeRange.Statement (.redMin sm a b c o w) := by
  intro word eq; have eq := Option.some.inj eq; have h_sm := Bool.toNat_le sm; have h_w := Bool.toNat_le w; omega
theorem EncodeRange.redMax (sm : Bool) (a : Reg) (b : Reg) (c : Fin 4) (o : Fin 8) (w : Bool) : EncodeRange.Statement (.redMax sm a b c o w) := by
  intro word eq; have eq := Option.some.inj eq; have h_sm := Bool.toNat_le sm; have h_w := Bool.toNat_le w; omega
theorem EncodeRange.redOr (sm : Bool) (a : Reg) (b : Reg) (c : Fin 4) (o : Fin 8) (w : Bool) : EncodeRange.Statement (.redOr sm a b c o w) := by
  intro word eq; have eq := Option.some.inj eq; have h_sm := Bool.toNat_le sm; have h_w := Bool.toNat_le w; omega
theorem EncodeRange.pf (sm : Bool) (a : Reg) (k : Fin 16) : EncodeRange.Statement (.pf sm a k) := by
  intro word eq; have eq := Option.some.inj eq; have h_sm := Bool.toNat_le sm; omega
theorem EncodeRange.beq (sm : Bool) (a : Reg) (b : Reg) (o : BitVec 15) : EncodeRange.Statement (.beq sm a b o) := by
  intro word eq; have eq := Option.some.inj eq; have h_sm := Bool.toNat_le sm; omega
theorem EncodeRange.bgeu (sm : Bool) (a : Reg) (b : Reg) (o : BitVec 15) : EncodeRange.Statement (.bgeu sm a b o) := by
  intro word eq; have eq := Option.some.inj eq; have h_sm := Bool.toNat_le sm; omega
theorem EncodeRange.bne (sm : Bool) (a : Reg) (b : Reg) (o : BitVec 15) : EncodeRange.Statement (.bne sm a b o) := by
  intro word eq; have eq := Option.some.inj eq; have h_sm := Bool.toNat_le sm; omega
theorem EncodeRange.blt (sm : Bool) (a : Reg) (b : Reg) (o : BitVec 15) : EncodeRange.Statement (.blt sm a b o) := by
  intro word eq; have eq := Option.some.inj eq; have h_sm := Bool.toNat_le sm; omega
theorem EncodeRange.bge (sm : Bool) (a : Reg) (b : Reg) (o : BitVec 15) : EncodeRange.Statement (.bge sm a b o) := by
  intro word eq; have eq := Option.some.inj eq; have h_sm := Bool.toNat_le sm; omega
theorem EncodeRange.bltu (sm : Bool) (a : Reg) (b : Reg) (o : BitVec 15) : EncodeRange.Statement (.bltu sm a b o) := by
  intro word eq; have eq := Option.some.inj eq; have h_sm := Bool.toNat_le sm; omega
theorem EncodeRange.bp (sm : Bool) (p : PReg) (o : BitVec 21) : EncodeRange.Statement (.bp sm p o) := by
  intro word eq; have eq := Option.some.inj eq; have h_sm := Bool.toNat_le sm; omega
theorem EncodeRange.bnp (sm : Bool) (p : PReg) (o : BitVec 21) : EncodeRange.Statement (.bnp sm p o) := by
  intro word eq; have eq := Option.some.inj eq; have h_sm := Bool.toNat_le sm; omega
theorem EncodeRange.jal (sm : Bool) (d : Reg) (o : BitVec 20) : EncodeRange.Statement (.jal sm d o) := by
  intro word eq; have eq := Option.some.inj eq; have h_sm := Bool.toNat_le sm; omega
theorem EncodeRange.jalr (sm : Bool) (d : Reg) (a : Reg) (i : BitVec 15) : EncodeRange.Statement (.jalr sm d a i) := by
  intro word eq; have eq := Option.some.inj eq; have h_sm := Bool.toNat_le sm; omega
theorem EncodeRange.pcmp (sm : Bool) (n : PReg) (a : Reg) (b : Reg) (c : Fin 8) : EncodeRange.Statement (.pcmp sm n a b c) := by
  intro word eq; have eq := Option.some.inj eq; have h_sm := Bool.toNat_le sm; omega
theorem EncodeRange.pand (sm : Bool) (n : PReg) (x : PReg) (y : PReg) : EncodeRange.Statement (.pand sm n x y) := by
  intro word eq; have eq := Option.some.inj eq; have h_sm := Bool.toNat_le sm; omega
theorem EncodeRange.por (sm : Bool) (n : PReg) (x : PReg) (y : PReg) : EncodeRange.Statement (.por sm n x y) := by
  intro word eq; have eq := Option.some.inj eq; have h_sm := Bool.toNat_le sm; omega
theorem EncodeRange.pxor (sm : Bool) (n : PReg) (x : PReg) (y : PReg) : EncodeRange.Statement (.pxor sm n x y) := by
  intro word eq; have eq := Option.some.inj eq; have h_sm := Bool.toNat_le sm; omega
theorem EncodeRange.pnot (sm : Bool) (n : PReg) (x : PReg) : EncodeRange.Statement (.pnot sm n x) := by
  intro word eq; have eq := Option.some.inj eq; have h_sm := Bool.toNat_le sm; omega
theorem EncodeRange.fenceAcq (sm : Bool) (c : Fin 4) : EncodeRange.Statement (.fenceAcq sm c) := by
  intro word eq; have eq := Option.some.inj eq; have h_sm := Bool.toNat_le sm; omega
theorem EncodeRange.fenceRel (sm : Bool) (c : Fin 4) : EncodeRange.Statement (.fenceRel sm c) := by
  intro word eq; have eq := Option.some.inj eq; have h_sm := Bool.toNat_le sm; omega
theorem EncodeRange.fenceFull (sm : Bool) (c : Fin 4) : EncodeRange.Statement (.fenceFull sm c) := by
  intro word eq; have eq := Option.some.inj eq; have h_sm := Bool.toNat_le sm; omega
theorem EncodeRange.fenceSc (sm : Bool) (c : Fin 4) : EncodeRange.Statement (.fenceSc sm c) := by
  intro word eq; have eq := Option.some.inj eq; have h_sm := Bool.toNat_le sm; omega
theorem EncodeRange.barArv (sm : Bool) (a : Reg) (n : Fin 32) : EncodeRange.Statement (.barArv sm a n) := by
  intro word eq; have eq := Option.some.inj eq; have h_sm := Bool.toNat_le sm; omega
theorem EncodeRange.barWait (sm : Bool) (d : Reg) (n : Fin 32) : EncodeRange.Statement (.barWait sm d n) := by
  intro word eq; have eq := Option.some.inj eq; have h_sm := Bool.toNat_le sm; omega
theorem EncodeRange.barArw (sm : Bool) (d : Reg) (a : Reg) (n : Fin 32) : EncodeRange.Statement (.barArw sm d a n) := by
  intro word eq; have eq := Option.some.inj eq; have h_sm := Bool.toNat_le sm; omega
theorem EncodeRange.waitCnt (sm : Bool) (n : BitVec 10) (c : Fin 4) : EncodeRange.Statement (.waitCnt sm n c) := by
  intro word eq; have eq := Option.some.inj eq; have h_sm := Bool.toNat_le sm; omega
theorem EncodeRange.tagWany (sm : Bool) (a : Reg) : EncodeRange.Statement (.tagWany sm a) := by
  intro word eq; have eq := Option.some.inj eq; have h_sm := Bool.toNat_le sm; omega
theorem EncodeRange.tagWall (sm : Bool) (a : Reg) : EncodeRange.Statement (.tagWall sm a) := by
  intro word eq; have eq := Option.some.inj eq; have h_sm := Bool.toNat_le sm; omega
theorem EncodeRange.tagFfr (sm : Bool) (d : Reg) (a : Reg) : EncodeRange.Statement (.tagFfr sm d a) := by
  intro word eq; have eq := Option.some.inj eq; have h_sm := Bool.toNat_le sm; omega
theorem EncodeRange.tagClr (sm : Bool) (a : Reg) : EncodeRange.Statement (.tagClr sm a) := by
  intro word eq; have eq := Option.some.inj eq; have h_sm := Bool.toNat_le sm; omega
theorem EncodeRange.waitNtc (sm : Bool) (a : Reg) : EncodeRange.Statement (.waitNtc sm a) := by
  intro word eq; have eq := Option.some.inj eq; have h_sm := Bool.toNat_le sm; omega
theorem EncodeRange.yield (sm : Bool) : EncodeRange.Statement (.yield sm) := by
  intro word eq; have eq := Option.some.inj eq; have h_sm := Bool.toNat_le sm; omega
theorem EncodeRange.rcv (sm : Bool) (o : BitVec 15) : EncodeRange.Statement (.rcv sm o) := by
  intro word eq; have eq := Option.some.inj eq; have h_sm := Bool.toNat_le sm; omega
theorem EncodeRange.join (sm : Bool) : EncodeRange.Statement (.join sm) := by
  intro word eq; have eq := Option.some.inj eq; have h_sm := Bool.toNat_le sm; omega
theorem EncodeRange.exit (sm : Bool) : EncodeRange.Statement (.exit sm) := by
  intro word eq; have eq := Option.some.inj eq; have h_sm := Bool.toNat_le sm; omega
theorem EncodeRange.fuse (sm : Bool) (w : Fin 32) : EncodeRange.Statement (.fuse sm w) := by
  intro word eq; have eq := Option.some.inj eq; have h_sm := Bool.toNat_le sm; omega
theorem EncodeRange.split (sm : Bool) : EncodeRange.Statement (.split sm) := by
  intro word eq; have eq := Option.some.inj eq; have h_sm := Bool.toNat_le sm; omega
theorem EncodeRange.voteAny (sm : Bool) (n : PReg) (m : PReg) : EncodeRange.Statement (.voteAny sm n m) := by
  intro word eq; have eq := Option.some.inj eq; have h_sm := Bool.toNat_le sm; omega
theorem EncodeRange.voteAll (sm : Bool) (n : PReg) (m : PReg) : EncodeRange.Statement (.voteAll sm n m) := by
  intro word eq; have eq := Option.some.inj eq; have h_sm := Bool.toNat_le sm; omega
theorem EncodeRange.voteBal (sm : Bool) (d : Reg) (m : PReg) : EncodeRange.Statement (.voteBal sm d m) := by
  intro word eq; have eq := Option.some.inj eq; have h_sm := Bool.toNat_le sm; omega
theorem EncodeRange.lget (sm : Bool) (d : Reg) (a : Reg) (b : Reg) : EncodeRange.Statement (.lget sm d a b) := by
  intro word eq; have eq := Option.some.inj eq; have h_sm := Bool.toNat_le sm; omega
theorem EncodeRange.wqInit (sm : Bool) (a : Reg) (b : Reg) (d : Reg) (k : Fin 4) : EncodeRange.Statement (.wqInit sm a b d k) := by
  intro word eq; have eq := Option.some.inj eq; have h_sm := Bool.toNat_le sm; omega
theorem EncodeRange.wqNext (sm : Bool) (d : Reg) (n : PReg) (k : Fin 4) : EncodeRange.Statement (.wqNext sm d n k) := by
  intro word eq; have eq := Option.some.inj eq; have h_sm := Bool.toNat_le sm; omega
theorem EncodeRange.tskDone (sm : Bool) (a : Reg) (d : Reg) : EncodeRange.Statement (.tskDone sm a d) := by
  intro word eq; have eq := Option.some.inj eq; have h_sm := Bool.toNat_le sm; omega
theorem EncodeRange.tskSubmit (sm : Bool) (a : Reg) (d : Reg) : EncodeRange.Statement (.tskSubmit sm a d) := by
  intro word eq; have eq := Option.some.inj eq; have h_sm := Bool.toNat_le sm; omega
theorem EncodeRange.stgAcq (sm : Bool) (a : Reg) (r : Fin 8) (p : Bool) : EncodeRange.Statement (.stgAcq sm a r p) := by
  intro word eq; have eq := Option.some.inj eq; have h_sm := Bool.toNat_le sm; have h_p := Bool.toNat_le p; omega
theorem EncodeRange.stgRel (sm : Bool) (a : Reg) (r : Fin 8) : EncodeRange.Statement (.stgRel sm a r) := by
  intro word eq; have eq := Option.some.inj eq; have h_sm := Bool.toNat_le sm; omega
theorem EncodeRange.stgPeek (sm : Bool) (d : Reg) (r : Fin 8) : EncodeRange.Statement (.stgPeek sm d r) := by
  intro word eq; have eq := Option.some.inj eq; have h_sm := Bool.toNat_le sm; omega
theorem EncodeRange.vAdd (sm : Bool) (a : Reg) (b : Reg) (d : Reg) (c : Bool) : EncodeRange.Statement (.vAdd sm a b d c) := by
  intro word eq; have eq := Option.some.inj eq; have h_sm := Bool.toNat_le sm; have h_c := Bool.toNat_le c; omega
theorem EncodeRange.vSub (sm : Bool) (a : Reg) (b : Reg) (d : Reg) (c : Bool) : EncodeRange.Statement (.vSub sm a b d c) := by
  intro word eq; have eq := Option.some.inj eq; have h_sm := Bool.toNat_le sm; have h_c := Bool.toNat_le c; omega
theorem EncodeRange.vMul (sm : Bool) (a : Reg) (b : Reg) (d : Reg) (c : Bool) : EncodeRange.Statement (.vMul sm a b d c) := by
  intro word eq; have eq := Option.some.inj eq; have h_sm := Bool.toNat_le sm; have h_c := Bool.toNat_le c; omega
theorem EncodeRange.vFma (sm : Bool) (a : Reg) (b : Reg) (d : Reg) (c : Bool) : EncodeRange.Statement (.vFma sm a b d c) := by
  intro word eq; have eq := Option.some.inj eq; have h_sm := Bool.toNat_le sm; have h_c := Bool.toNat_le c; omega
theorem EncodeRange.vFms (sm : Bool) (a : Reg) (b : Reg) (d : Reg) (c : Bool) : EncodeRange.Statement (.vFms sm a b d c) := by
  intro word eq; have eq := Option.some.inj eq; have h_sm := Bool.toNat_le sm; have h_c := Bool.toNat_le c; omega
theorem EncodeRange.vMin (sm : Bool) (a : Reg) (b : Reg) (d : Reg) (c : Bool) : EncodeRange.Statement (.vMin sm a b d c) := by
  intro word eq; have eq := Option.some.inj eq; have h_sm := Bool.toNat_le sm; have h_c := Bool.toNat_le c; omega
theorem EncodeRange.vMax (sm : Bool) (a : Reg) (b : Reg) (d : Reg) (c : Bool) : EncodeRange.Statement (.vMax sm a b d c) := by
  intro word eq; have eq := Option.some.inj eq; have h_sm := Bool.toNat_le sm; have h_c := Bool.toNat_le c; omega
theorem EncodeRange.vAbs (sm : Bool) (a : Reg) (b : Reg) (d : Reg) : EncodeRange.Statement (.vAbs sm a b d) := by
  intro word eq; have eq := Option.some.inj eq; have h_sm := Bool.toNat_le sm; omega
theorem EncodeRange.vNeg (sm : Bool) (a : Reg) (b : Reg) (d : Reg) : EncodeRange.Statement (.vNeg sm a b d) := by
  intro word eq; have eq := Option.some.inj eq; have h_sm := Bool.toNat_le sm; omega
theorem EncodeRange.vAnd (sm : Bool) (a : Reg) (b : Reg) (d : Reg) (c : Bool) : EncodeRange.Statement (.vAnd sm a b d c) := by
  intro word eq; have eq := Option.some.inj eq; have h_sm := Bool.toNat_le sm; have h_c := Bool.toNat_le c; omega
theorem EncodeRange.vOr (sm : Bool) (a : Reg) (b : Reg) (d : Reg) (c : Bool) : EncodeRange.Statement (.vOr sm a b d c) := by
  intro word eq; have eq := Option.some.inj eq; have h_sm := Bool.toNat_le sm; have h_c := Bool.toNat_le c; omega
theorem EncodeRange.vXor (sm : Bool) (a : Reg) (b : Reg) (d : Reg) (c : Bool) : EncodeRange.Statement (.vXor sm a b d c) := by
  intro word eq; have eq := Option.some.inj eq; have h_sm := Bool.toNat_le sm; have h_c := Bool.toNat_le c; omega
theorem EncodeRange.vShl (sm : Bool) (a : Reg) (b : Reg) (d : Reg) (c : Bool) : EncodeRange.Statement (.vShl sm a b d c) := by
  intro word eq; have eq := Option.some.inj eq; have h_sm := Bool.toNat_le sm; have h_c := Bool.toNat_le c; omega
theorem EncodeRange.vShr (sm : Bool) (a : Reg) (b : Reg) (d : Reg) (c : Bool) : EncodeRange.Statement (.vShr sm a b d c) := by
  intro word eq; have eq := Option.some.inj eq; have h_sm := Bool.toNat_le sm; have h_c := Bool.toNat_le c; omega
theorem EncodeRange.vCmp (sm : Bool) (a : Reg) (b : Reg) (d : Reg) (c : Bool) : EncodeRange.Statement (.vCmp sm a b d c) := by
  intro word eq; have eq := Option.some.inj eq; have h_sm := Bool.toNat_le sm; have h_c := Bool.toNat_le c; omega
theorem EncodeRange.vSel (sm : Bool) (a : Reg) (b : Reg) (d : Reg) (c : Bool) : EncodeRange.Statement (.vSel sm a b d c) := by
  intro word eq; have eq := Option.some.inj eq; have h_sm := Bool.toNat_le sm; have h_c := Bool.toNat_le c; omega
theorem EncodeRange.vCvt (sm : Bool) (a : Reg) (b : Reg) (d : Reg) : EncodeRange.Statement (.vCvt sm a b d) := by
  intro word eq; have eq := Option.some.inj eq; have h_sm := Bool.toNat_le sm; omega
theorem EncodeRange.vMov (sm : Bool) (a : Reg) (b : Reg) (d : Reg) : EncodeRange.Statement (.vMov sm a b d) := by
  intro word eq; have eq := Option.some.inj eq; have h_sm := Bool.toNat_le sm; omega
theorem EncodeRange.vRsum (sm : Bool) (a : Reg) (b : Reg) (d : Reg) : EncodeRange.Statement (.vRsum sm a b d) := by
  intro word eq; have eq := Option.some.inj eq; have h_sm := Bool.toNat_le sm; omega
theorem EncodeRange.vRmax (sm : Bool) (a : Reg) (b : Reg) (d : Reg) : EncodeRange.Statement (.vRmax sm a b d) := by
  intro word eq; have eq := Option.some.inj eq; have h_sm := Bool.toNat_le sm; omega
theorem EncodeRange.vRmin (sm : Bool) (a : Reg) (b : Reg) (d : Reg) : EncodeRange.Statement (.vRmin sm a b d) := by
  intro word eq; have eq := Option.some.inj eq; have h_sm := Bool.toNat_le sm; omega
theorem EncodeRange.vScan (sm : Bool) (a : Reg) (b : Reg) (d : Reg) : EncodeRange.Statement (.vScan sm a b d) := by
  intro word eq; have eq := Option.some.inj eq; have h_sm := Bool.toNat_le sm; omega
theorem EncodeRange.vBcast (sm : Bool) (a : Reg) (b : Reg) (d : Reg) (c : Bool) : EncodeRange.Statement (.vBcast sm a b d c) := by
  intro word eq; have eq := Option.some.inj eq; have h_sm := Bool.toNat_le sm; have h_c := Bool.toNat_le c; omega
theorem EncodeRange.vIota (sm : Bool) (a : Reg) (b : Reg) (d : Reg) : EncodeRange.Statement (.vIota sm a b d) := by
  intro word eq; have eq := Option.some.inj eq; have h_sm := Bool.toNat_le sm; omega
theorem EncodeRange.vClamp (sm : Bool) (a : Reg) (b : Reg) (d : Reg) (c : Bool) : EncodeRange.Statement (.vClamp sm a b d c) := by
  intro word eq; have eq := Option.some.inj eq; have h_sm := Bool.toNat_le sm; have h_c := Bool.toNat_le c; omega
theorem EncodeRange.vSfu (sm : Bool) (a : Reg) (b : Reg) (d : Reg) : EncodeRange.Statement (.vSfu sm a b d) := by
  intro word eq; have eq := Option.some.inj eq; have h_sm := Bool.toNat_le sm; omega
theorem EncodeRange.vGat (sm : Bool) (a : Reg) (b : Reg) (d : Reg) : EncodeRange.Statement (.vGat sm a b d) := by
  intro word eq; have eq := Option.some.inj eq; have h_sm := Bool.toNat_le sm; omega
theorem EncodeRange.vSct (sm : Bool) (a : Reg) (b : Reg) (d : Reg) : EncodeRange.Statement (.vSct sm a b d) := by
  intro word eq; have eq := Option.some.inj eq; have h_sm := Bool.toNat_le sm; omega
theorem EncodeRange.sfu (sm : Bool) (d : Reg) (a : Reg) (r : Fin 4) (z : Bool) (f : Fin 8) : EncodeRange.Statement (.sfu sm d a r z f) := by
  intro word eq; have eq := Option.some.inj eq; have h_sm := Bool.toNat_le sm; have h_z := Bool.toNat_le z; omega
theorem EncodeRange.mxCfg (sm : Bool) (a : Reg) (d : Reg) : EncodeRange.Statement (.mxCfg sm a d) := by
  intro word eq; have eq := Option.some.inj eq; have h_sm := Bool.toNat_le sm; omega
theorem EncodeRange.mxLd (sm : Bool) (a : Reg) (b : Reg) (d : Reg) (v : Bool) (o : Bool) (u : Bool) : EncodeRange.Statement (.mxLd sm a b d v o u) := by
  intro word eq; have eq := Option.some.inj eq; have h_sm := Bool.toNat_le sm; have h_v := Bool.toNat_le v; have h_o := Bool.toNat_le o; have h_u := Bool.toNat_le u; omega
theorem EncodeRange.mxMma (sm : Bool) (d : Reg) (v : Bool) (u : Bool) (n : Fin 8) : EncodeRange.Statement (.mxMma sm d v u n) := by
  intro word eq; have eq := Option.some.inj eq; have h_sm := Bool.toNat_le sm; have h_v := Bool.toNat_le v; have h_u := Bool.toNat_le u; omega
theorem EncodeRange.mxZero (sm : Bool) (d : Reg) (v : Bool) (n : Fin 8) : EncodeRange.Statement (.mxZero sm d v n) := by
  intro word eq; have eq := Option.some.inj eq; have h_sm := Bool.toNat_le sm; have h_v := Bool.toNat_le v; omega
theorem EncodeRange.mxSt (sm : Bool) (a : Reg) (b : Reg) (d : Reg) (v : Bool) (n : Fin 8) : EncodeRange.Statement (.mxSt sm a b d v n) := by
  intro word eq; have eq := Option.some.inj eq; have h_sm := Bool.toNat_le sm; have h_v := Bool.toNat_le v; omega
theorem EncodeRange.gmLay (sm : Bool) (a : Reg) (b : Reg) (d : Reg) (v : Bool) : EncodeRange.Statement (.gmLay sm a b d v) := by
  intro word eq; have eq := Option.some.inj eq; have h_sm := Bool.toNat_le sm; have h_v := Bool.toNat_le v; omega
theorem EncodeRange.gmGemv (sm : Bool) (a : Reg) (b : Reg) (d : Reg) (v : Bool) : EncodeRange.Statement (.gmGemv sm a b d v) := by
  intro word eq; have eq := Option.some.inj eq; have h_sm := Bool.toNat_le sm; have h_v := Bool.toNat_le v; omega
theorem EncodeRange.cpBulk (sm : Bool) (a : Reg) (b : Reg) (d : Reg) : EncodeRange.Statement (.cpBulk sm a b d) := by
  intro word eq; have eq := Option.some.inj eq; have h_sm := Bool.toNat_le sm; omega
theorem EncodeRange.cpCancel (sm : Bool) (a : Reg) (d : Reg) : EncodeRange.Statement (.cpCancel sm a d) := by
  intro word eq; have eq := Option.some.inj eq; have h_sm := Bool.toNat_le sm; omega
theorem EncodeRange.gaGath (sm : Bool) (a : Reg) (b : Reg) (d : Reg) : EncodeRange.Statement (.gaGath sm a b d) := by
  intro word eq; have eq := Option.some.inj eq; have h_sm := Bool.toNat_le sm; omega
theorem EncodeRange.scScat (sm : Bool) (a : Reg) (b : Reg) (d : Reg) (u : Fin 8) : EncodeRange.Statement (.scScat sm a b d u) := by
  intro word eq; have eq := Option.some.inj eq; have h_sm := Bool.toNat_le sm; omega
theorem EncodeRange.clAr (sm : Bool) (a : Reg) (b : Reg) (d : Reg) (u : Fin 8) : EncodeRange.Statement (.clAr sm a b d u) := by
  intro word eq; have eq := Option.some.inj eq; have h_sm := Bool.toNat_le sm; omega
theorem EncodeRange.clAg (sm : Bool) (a : Reg) (b : Reg) (d : Reg) : EncodeRange.Statement (.clAg sm a b d) := by
  intro word eq; have eq := Option.some.inj eq; have h_sm := Bool.toNat_le sm; omega
theorem EncodeRange.clRs (sm : Bool) (a : Reg) (b : Reg) (d : Reg) (u : Fin 8) : EncodeRange.Statement (.clRs sm a b d u) := by
  intro word eq; have eq := Option.some.inj eq; have h_sm := Bool.toNat_le sm; omega
theorem EncodeRange.clBc (sm : Bool) (a : Reg) (b : Reg) (d : Reg) : EncodeRange.Statement (.clBc sm a b d) := by
  intro word eq; have eq := Option.some.inj eq; have h_sm := Bool.toNat_le sm; omega
theorem EncodeRange.clSend (sm : Bool) (a : Reg) (b : Reg) (d : Reg) : EncodeRange.Statement (.clSend sm a b d) := by
  intro word eq; have eq := Option.some.inj eq; have h_sm := Bool.toNat_le sm; omega
theorem EncodeRange.clRecv (sm : Bool) (a : Reg) (b : Reg) (d : Reg) : EncodeRange.Statement (.clRecv sm a b d) := by
  intro word eq; have eq := Option.some.inj eq; have h_sm := Bool.toNat_le sm; omega
theorem EncodeRange.clAbort (sm : Bool) (a : Reg) (b : Reg) (d : Reg) : EncodeRange.Statement (.clAbort sm a b d) := by
  intro word eq; have eq := Option.some.inj eq; have h_sm := Bool.toNat_le sm; omega
theorem EncodeRange.sqOpen (sm : Bool) (a : Reg) (b : Reg) (d : Reg) (n : Fin 16) : EncodeRange.Statement (.sqOpen sm a b d n) := by
  intro word eq; have eq := Option.some.inj eq; have h_sm := Bool.toNat_le sm; omega
theorem EncodeRange.sqNext (sm : Bool) (n : Fin 16) : EncodeRange.Statement (.sqNext sm n) := by
  intro word eq; have eq := Option.some.inj eq; have h_sm := Bool.toNat_le sm; omega
theorem EncodeRange.sqEnd (sm : Bool) (m : PReg) (n : Fin 16) : EncodeRange.Statement (.sqEnd sm m n) := by
  intro word eq; have eq := Option.some.inj eq; have h_sm := Bool.toNat_le sm; omega
theorem EncodeRange.sqCrd (sm : Bool) (d : Reg) (n : Fin 16) : EncodeRange.Statement (.sqCrd sm d n) := by
  intro word eq; have eq := Option.some.inj eq; have h_sm := Bool.toNat_le sm; omega
theorem EncodeRange.sqPos (sm : Bool) (d : Reg) (n : Fin 16) (p : Bool) : EncodeRange.Statement (.sqPos sm d n p) := by
  intro word eq; have eq := Option.some.inj eq; have h_sm := Bool.toNat_le sm; have h_p := Bool.toNat_le p; omega
theorem EncodeRange.sqSeek (sm : Bool) (a : Reg) (n : Fin 16) : EncodeRange.Statement (.sqSeek sm a n) := by
  intro word eq; have eq := Option.some.inj eq; have h_sm := Bool.toNat_le sm; omega
theorem EncodeRange.sqIsect (sm : Bool) (x : Fin 16) (y : Fin 16) (n : Fin 16) : EncodeRange.Statement (.sqIsect sm x y n) := by
  intro word eq; have eq := Option.some.inj eq; have h_sm := Bool.toNat_le sm; omega
theorem EncodeRange.sqUnion (sm : Bool) (x : Fin 16) (y : Fin 16) (n : Fin 16) : EncodeRange.Statement (.sqUnion sm x y n) := by
  intro word eq; have eq := Option.some.inj eq; have h_sm := Bool.toNat_le sm; omega
theorem EncodeRange.sqClose (sm : Bool) (n : Fin 16) : EncodeRange.Statement (.sqClose sm n) := by
  intro word eq; have eq := Option.some.inj eq; have h_sm := Bool.toNat_le sm; omega
theorem EncodeRange.sqDrain (sm : Bool) (a : Reg) (b : Reg) (d : Reg) (n : Fin 16) (w : Bool) : EncodeRange.Statement (.sqDrain sm a b d n w) := by
  intro word eq; have eq := Option.some.inj eq; have h_sm := Bool.toNat_le sm; have h_w := Bool.toNat_le w; omega
theorem EncodeRange.sqPart (sm : Bool) (a : Reg) (b : Reg) (d : Reg) : EncodeRange.Statement (.sqPart sm a b d) := by
  intro word eq; have eq := Option.some.inj eq; have h_sm := Bool.toNat_le sm; omega
theorem EncodeRange.sqSave (sm : Bool) (a : Reg) (n : Fin 16) : EncodeRange.Statement (.sqSave sm a n) := by
  intro word eq; have eq := Option.some.inj eq; have h_sm := Bool.toNat_le sm; omega
theorem EncodeRange.sqRest (sm : Bool) (a : Reg) (n : Fin 16) : EncodeRange.Statement (.sqRest sm a n) := by
  intro word eq; have eq := Option.some.inj eq; have h_sm := Bool.toNat_le sm; omega
theorem EncodeRange.mxSpmm (sm : Bool) (a : Reg) (b : Reg) (d : Reg) (v : Bool) (w : Bool) (n : Fin 8) : EncodeRange.Statement (.mxSpmm sm a b d v w n) := by
  intro word eq; have eq := Option.some.inj eq; have h_sm := Bool.toNat_le sm; have h_v := Bool.toNat_le v; have h_w := Bool.toNat_le w; omega
theorem EncodeRange.spPack (sm : Bool) (a : Reg) (b : Reg) (d : Reg) : EncodeRange.Statement (.spPack sm a b d) := by
  intro word eq; have eq := Option.some.inj eq; have h_sm := Bool.toNat_le sm; omega
theorem EncodeRange.spUnpack (sm : Bool) (a : Reg) (b : Reg) (d : Reg) : EncodeRange.Statement (.spUnpack sm a b d) := by
  intro word eq; have eq := Option.some.inj eq; have h_sm := Bool.toNat_le sm; omega
theorem EncodeRange.spInval (sm : Bool) (a : Reg) (b : Reg) (d : Reg) (l : Bool) : EncodeRange.Statement (.spInval sm a b d l) := by
  intro word eq; have eq := Option.some.inj eq; have h_sm := Bool.toNat_le sm; have h_l := Bool.toNat_le l; omega
theorem EncodeRange.spPin (sm : Bool) (a : Reg) (b : Reg) (d : Reg) (o : Bool) : EncodeRange.Statement (.spPin sm a b d o) := by
  intro word eq; have eq := Option.some.inj eq; have h_sm := Bool.toNat_le sm; have h_o := Bool.toNat_le o; omega
theorem EncodeRange.spStat (sm : Bool) (a : Reg) (d : Reg) (c : Bool) : EncodeRange.Statement (.spStat sm a d c) := by
  intro word eq; have eq := Option.some.inj eq; have h_sm := Bool.toNat_le sm; have h_c := Bool.toNat_le c; omega
theorem EncodeRange.vbAcq (sm : Bool) (a : Reg) (d : Reg) : EncodeRange.Statement (.vbAcq sm a d) := by
  intro word eq; have eq := Option.some.inj eq; have h_sm := Bool.toNat_le sm; omega
theorem EncodeRange.vbAcqTry (sm : Bool) (a : Reg) (d : Reg) (p : PReg) : EncodeRange.Statement (.vbAcqTry sm a d p) := by
  intro word eq; have eq := Option.some.inj eq; have h_sm := Bool.toNat_le sm; omega
theorem EncodeRange.vbRel (sm : Bool) (a : Reg) (d : Reg) : EncodeRange.Statement (.vbRel sm a d) := by
  intro word eq; have eq := Option.some.inj eq; have h_sm := Bool.toNat_le sm; omega
theorem EncodeRange.rdsys (sm : Bool) (d : Reg) (r : BitVec 12) : EncodeRange.Statement (.rdsys sm d r) := by
  intro word eq; have eq := Option.some.inj eq; have h_sm := Bool.toNat_le sm; omega
theorem EncodeRange.wrsys (sm : Bool) (a : Reg) (r : BitVec 12) : EncodeRange.Statement (.wrsys sm a r) := by
  intro word eq; have eq := Option.some.inj eq; have h_sm := Bool.toNat_le sm; omega
theorem EncodeRange.ecall (sm : Bool) : EncodeRange.Statement (.ecall sm) := by
  intro word eq; have eq := Option.some.inj eq; have h_sm := Bool.toNat_le sm; omega
theorem EncodeRange.ebreak (sm : Bool) : EncodeRange.Statement (.ebreak sm) := by
  intro word eq; have eq := Option.some.inj eq; have h_sm := Bool.toNat_le sm; omega
theorem EncodeRange.upret (sm : Bool) : EncodeRange.Statement (.upret sm) := by
  intro word eq; have eq := Option.some.inj eq; have h_sm := Bool.toNat_le sm; omega
theorem EncodeRange.wcfg (sm : Bool) (n : Fin 8) (a : Reg) : EncodeRange.Statement (.wcfg sm n a) := by
  intro word eq; have eq := Option.some.inj eq; have h_sm := Bool.toNat_le sm; omega
theorem EncodeRange.eret (sm : Bool) : EncodeRange.Statement (.eret sm) := by
  intro word eq; have eq := Option.some.inj eq; have h_sm := Bool.toNat_le sm; omega
theorem EncodeRange.fqPop (sm : Bool) (d : Reg) (a : Reg) (b : Reg) : EncodeRange.Statement (.fqPop sm d a b) := by
  intro word eq; have eq := Option.some.inj eq; have h_sm := Bool.toNat_le sm; omega
theorem EncodeRange.svcDone (sm : Bool) (d : Reg) (a : Reg) (b : Reg) : EncodeRange.Statement (.svcDone sm d a b) := by
  intro word eq; have eq := Option.some.inj eq; have h_sm := Bool.toNat_le sm; omega
theorem EncodeRange.xlatInv (sm : Bool) (d : Reg) (a : Reg) (b : Reg) : EncodeRange.Statement (.xlatInv sm d a b) := by
  intro word eq; have eq := Option.some.inj eq; have h_sm := Bool.toNat_le sm; omega
theorem EncodeRange.cacheWb (sm : Bool) (d : Reg) (a : Reg) (b : Reg) : EncodeRange.Statement (.cacheWb sm d a b) := by
  intro word eq; have eq := Option.some.inj eq; have h_sm := Bool.toNat_le sm; omega
theorem EncodeRange.cacheInv (sm : Bool) (d : Reg) (a : Reg) (b : Reg) : EncodeRange.Statement (.cacheInv sm d a b) := by
  intro word eq; have eq := Option.some.inj eq; have h_sm := Bool.toNat_le sm; omega
theorem EncodeRange.ctxSave (sm : Bool) (a : Reg) : EncodeRange.Statement (.ctxSave sm a) := by
  intro word eq; have eq := Option.some.inj eq; have h_sm := Bool.toNat_le sm; omega
theorem EncodeRange.ctxRest (sm : Bool) (a : Reg) : EncodeRange.Statement (.ctxRest sm a) := by
  intro word eq; have eq := Option.some.inj eq; have h_sm := Bool.toNat_le sm; omega
theorem EncodeRange.halt (sm : Bool) (d : Reg) (a : Reg) (b : Reg) : EncodeRange.Statement (.halt sm d a b) := by
  intro word eq; have eq := Option.some.inj eq; have h_sm := Bool.toNat_le sm; omega
theorem EncodeRange.nbrPut (sm : Bool) (d : Reg) (a : Reg) (b : Reg) : EncodeRange.Statement (.nbrPut sm d a b) := by
  intro word eq; have eq := Option.some.inj eq; have h_sm := Bool.toNat_le sm; omega
theorem EncodeRange.nbrGet (sm : Bool) (d : Reg) (a : Reg) (b : Reg) : EncodeRange.Statement (.nbrGet sm d a b) := by
  intro word eq; have eq := Option.some.inj eq; have h_sm := Bool.toNat_le sm; omega
theorem EncodeRange.mcast (sm : Bool) (d : Reg) (a : Reg) (b : Reg) : EncodeRange.Statement (.mcast sm d a b) := by
  intro word eq; have eq := Option.some.inj eq; have h_sm := Bool.toNat_le sm; omega
theorem EncodeRange.clReform (sm : Bool) (d : Reg) (a : Reg) (b : Reg) : EncodeRange.Statement (.clReform sm d a b) := by
  intro word eq; have eq := Option.some.inj eq; have h_sm := Bool.toNat_le sm; omega
theorem EncodeRange.longResultReturn : EncodeRange.Statement .longResultReturn := fun _ h => nomatch h
theorem EncodeRange.checkPointPass : EncodeRange.Statement .checkPointPass := fun _ h => nomatch h
theorem EncodeRange.translationProbeResult : EncodeRange.Statement .translationProbeResult := fun _ h => nomatch h
theorem EncodeRange.faultRecordAdmit : EncodeRange.Statement .faultRecordAdmit := fun _ h => nomatch h
theorem EncodeRange.dirtyBitSet : EncodeRange.Statement .dirtyBitSet := fun _ h => nomatch h
theorem EncodeRange.remoteResponse : EncodeRange.Statement .remoteResponse := fun _ h => nomatch h
theorem EncodeRange.reductionApply : EncodeRange.Statement .reductionApply := fun _ h => nomatch h
theorem EncodeRange.l1WritebackDeadline : EncodeRange.Statement .l1WritebackDeadline := fun _ h => nomatch h
theorem EncodeRange.ptsTick : EncodeRange.Statement .ptsTick := fun _ h => nomatch h
theorem EncodeRange.fumaroleWindowClose : EncodeRange.Statement .fumaroleWindowClose := fun _ h => nomatch h
theorem EncodeRange.fumaroleArrival : EncodeRange.Statement .fumaroleArrival := fun _ h => nomatch h
theorem EncodeRange.vectorPartBind : EncodeRange.Statement .vectorPartBind := fun _ h => nomatch h
theorem EncodeRange.vectorCommandComplete : EncodeRange.Statement .vectorCommandComplete := fun _ h => nomatch h
theorem EncodeRange.gatherScatterComplete : EncodeRange.Statement .gatherScatterComplete := fun _ h => nomatch h
theorem EncodeRange.sfuEntryServe : EncodeRange.Statement .sfuEntryServe := fun _ h => nomatch h
theorem EncodeRange.sfuResultWrite : EncodeRange.Statement .sfuResultWrite := fun _ h => nomatch h
theorem EncodeRange.mxCfgApply : EncodeRange.Statement .mxCfgApply := fun _ h => nomatch h
theorem EncodeRange.matrixCommandComplete : EncodeRange.Statement .matrixCommandComplete := fun _ h => nomatch h
theorem EncodeRange.copyComplete : EncodeRange.Statement .copyComplete := fun _ h => nomatch h
theorem EncodeRange.collectiveMessage : EncodeRange.Statement .collectiveMessage := fun _ h => nomatch h
theorem EncodeRange.collectiveTimeout : EncodeRange.Statement .collectiveTimeout := fun _ h => nomatch h
theorem EncodeRange.collectiveComplete : EncodeRange.Statement .collectiveComplete := fun _ h => nomatch h
theorem EncodeRange.streamFetchComplete : EncodeRange.Statement .streamFetchComplete := fun _ h => nomatch h
theorem EncodeRange.sinterCompileComplete : EncodeRange.Statement .sinterCompileComplete := fun _ h => nomatch h
theorem EncodeRange.swapThresholdExpiry : EncodeRange.Statement .swapThresholdExpiry := fun _ h => nomatch h
theorem EncodeRange.teamSwapOut : EncodeRange.Statement .teamSwapOut := fun _ h => nomatch h
theorem EncodeRange.teamRestore : EncodeRange.Statement .teamRestore := fun _ h => nomatch h
theorem EncodeRange.residencySliceEnd : EncodeRange.Statement .residencySliceEnd := fun _ h => nomatch h
theorem EncodeRange.teamPlacement : EncodeRange.Statement .teamPlacement := fun _ h => nomatch h
theorem EncodeRange.watchdogExpiry : EncodeRange.Statement .watchdogExpiry := fun _ h => nomatch h
theorem EncodeRange.killRecordAppend : EncodeRange.Statement .killRecordAppend := fun _ h => nomatch h
theorem EncodeRange.controlTick : EncodeRange.Statement .controlTick := fun _ h => nomatch h
theorem EncodeRange.droopEvent : EncodeRange.Statement .droopEvent := fun _ h => nomatch h
theorem EncodeRange.droopyEnd : EncodeRange.Statement .droopyEnd := fun _ h => nomatch h
theorem EncodeRange.idleTimeout : EncodeRange.Statement .idleTimeout := fun _ h => nomatch h
theorem EncodeRange.admissionSlot : EncodeRange.Statement .admissionSlot := fun _ h => nomatch h
theorem EncodeRange.voltageSettled : EncodeRange.Statement .voltageSettled := fun _ h => nomatch h
theorem EncodeRange.freqPauseEnd : EncodeRange.Statement .freqPauseEnd := fun _ h => nomatch h
theorem EncodeRange.gangSwitchOut : EncodeRange.Statement .gangSwitchOut := fun _ h => nomatch h
theorem EncodeRange.gangSwitchIn : EncodeRange.Statement .gangSwitchIn := fun _ h => nomatch h
theorem EncodeRange.linkRequestTimeout : EncodeRange.Statement .linkRequestTimeout := fun _ h => nomatch h
theorem EncodeRange.portRetryTimeout : EncodeRange.Statement .portRetryTimeout := fun _ h => nomatch h
theorem EncodeRange.linkUp : EncodeRange.Statement .linkUp := fun _ h => nomatch h
theorem EncodeRange.eccError : EncodeRange.Statement .eccError := fun _ h => nomatch h
theorem EncodeRange.fatalError : EncodeRange.Statement .fatalError := fun _ h => nomatch h
theorem EncodeRange.featuresOk : EncodeRange.Statement .featuresOk := fun _ h => nomatch h
theorem EncodeRange.partSet : EncodeRange.Statement .partSet := fun _ h => nomatch h
theorem EncodeRange.linkSet : EncodeRange.Statement .linkSet := fun _ h => nomatch h
theorem EncodeRange.cxlSet : EncodeRange.Statement .cxlSet := fun _ h => nomatch h
theorem EncodeRange.query : EncodeRange.Statement .query := fun _ h => nomatch h
theorem EncodeRange.debugStop : EncodeRange.Statement .debugStop := fun _ h => nomatch h
theorem EncodeRange.debugResume : EncodeRange.Statement .debugResume := fun _ h => nomatch h
theorem EncodeRange.map : EncodeRange.Statement .map := fun _ h => nomatch h
theorem EncodeRange.unmap : EncodeRange.Statement .unmap := fun _ h => nomatch h
theorem EncodeRange.loadImage : EncodeRange.Statement .loadImage := fun _ h => nomatch h
theorem EncodeRange.submit : EncodeRange.Statement .submit := fun _ h => nomatch h
theorem EncodeRange.signal : EncodeRange.Statement .signal := fun _ h => nomatch h
theorem EncodeRange.commCreate : EncodeRange.Statement .commCreate := fun _ h => nomatch h
theorem EncodeRange.commReform : EncodeRange.Statement .commReform := fun _ h => nomatch h
theorem EncodeRange.commDestroy : EncodeRange.Statement .commDestroy := fun _ h => nomatch h
theorem EncodeRange.completionEventDeliver : EncodeRange.Statement .completionEventDeliver := fun _ h => nomatch h
theorem EncodeRange.eventRecordDeliver : EncodeRange.Statement .eventRecordDeliver := fun _ h => nomatch h
theorem EncodeRange.resetRelease : EncodeRange.Statement .resetRelease := fun _ h => nomatch h
theorem EncodeRange.powerLoss : EncodeRange.Statement .powerLoss := fun _ h => nomatch h
theorem EncodeRange.cxlLinkUp : EncodeRange.Statement .cxlLinkUp := fun _ h => nomatch h
theorem EncodeRange.leasePoll : EncodeRange.Statement .leasePoll := fun _ h => nomatch h
theorem EncodeRange.leaseRenew : EncodeRange.Statement .leaseRenew := fun _ h => nomatch h
theorem EncodeRange.leasePhaseTimeout : EncodeRange.Statement .leasePhaseTimeout := fun _ h => nomatch h
theorem EncodeRange.startTimeout : EncodeRange.Statement .startTimeout := fun _ h => nomatch h
theorem EncodeRange.nbrPacketArrival : EncodeRange.Statement .nbrPacketArrival := fun _ h => nomatch h
theorem EncodeRange.mapCheck : EncodeRange.Statement .mapCheck := fun _ h => nomatch h
theorem EncodeRange.bootok : EncodeRange.Statement .bootok := fun _ h => nomatch h
theorem EncodeRange.illegalEncoding : EncodeRange.Statement .illegalEncoding := fun _ h => nomatch h
theorem EncodeRange.instructionFetchFault : EncodeRange.Statement .instructionFetchFault := fun _ h => nomatch h
theorem EncodeRange.writePerformed : EncodeRange.Statement .writePerformed := fun _ h => nomatch h
theorem EncodeRange.coordinatorContactLost : EncodeRange.Statement .coordinatorContactLost := fun _ h => nomatch h
theorem EncodeRange.unsupportedRequest : EncodeRange.Statement .unsupportedRequest := fun _ h => nomatch h
theorem EncodeRange.peerRequest : EncodeRange.Statement .peerRequest := fun _ h => nomatch h

end Sys2Proof.Laws
end

