-- ==== Sys2Proof/Laws/State.lean ====
section
/-! SUPPORT. Sys2Proof/Laws/State.lean: what each named update of a part of the state leaves as it was, field by field, so that no proof has to unfold a
record update. -/

namespace Sys2Proof.Machine


/-! ### State.setCtx -/

@[simp] theorem State.setCtx_cur (s : State) (c : Ctx) : (s.setCtx c).cur = s.cur := rfl
@[simp] theorem State.setCtx_next (s : State) (c : Ctx) : (s.setCtx c).next = s.next := rfl
@[simp] theorem State.setCtx_freeCtr (s : State) (c : Ctx) : (s.setCtx c).freeCtr = s.freeCtr := rfl
@[simp] theorem State.setCtx_inbox (s : State) (c : Ctx) : (s.setCtx c).inbox = s.inbox := rfl
@[simp] theorem State.setCtx_sealed (s : State) (c : Ctx) : (s.setCtx c).sealed = s.sealed := rfl
@[simp] theorem State.setCtx_subj (s : State) (c : Ctx) : (s.setCtx c).subj = s.subj := rfl
@[simp] theorem State.setCtx_gtime (s : State) (c : Ctx) : (s.setCtx c).gtime = s.gtime := rfl
@[simp] theorem State.setCtx_groups (s : State) (c : Ctx) : (s.setCtx c).groups = s.groups := rfl
@[simp] theorem State.setCtx_teams (s : State) (c : Ctx) : (s.setCtx c).teams = s.teams := rfl
@[simp] theorem State.setCtx_clusters (s : State) (c : Ctx) : (s.setCtx c).clusters = s.clusters := rfl
@[simp] theorem State.setCtx_domains (s : State) (c : Ctx) : (s.setCtx c).domains = s.domains := rfl
@[simp] theorem State.setCtx_parts (s : State) (c : Ctx) : (s.setCtx c).parts = s.parts := rfl
@[simp] theorem State.setCtx_lmap (s : State) (c : Ctx) : (s.setCtx c).lmap = s.lmap := rfl
@[simp] theorem State.setCtx_longs (s : State) (c : Ctx) : (s.setCtx c).longs = s.longs := rfl
@[simp] theorem State.setCtx_accesses (s : State) (c : Ctx) : (s.setCtx c).accesses = s.accesses := rfl
@[simp] theorem State.setCtx_l1 (s : State) (c : Ctx) : (s.setCtx c).l1 = s.l1 := rfl
@[simp] theorem State.setCtx_l1i (s : State) (c : Ctx) : (s.setCtx c).l1i = s.l1i := rfl
@[simp] theorem State.setCtx_home (s : State) (c : Ctx) : (s.setCtx c).home = s.home := rfl
@[simp] theorem State.setCtx_l2 (s : State) (c : Ctx) : (s.setCtx c).l2 = s.l2 := rfl
@[simp] theorem State.setCtx_tcache (s : State) (c : Ctx) : (s.setCtx c).tcache = s.tcache := rfl
@[simp] theorem State.setCtx_writes (s : State) (c : Ctx) : (s.setCtx c).writes = s.writes := rfl
@[simp] theorem State.setCtx_reds (s : State) (c : Ctx) : (s.setCtx c).reds = s.reds := rfl
@[simp] theorem State.setCtx_scops (s : State) (c : Ctx) : (s.setCtx c).scops = s.scops := rfl
@[simp] theorem State.setCtx_scSeq (s : State) (c : Ctx) : (s.setCtx c).scSeq = s.scSeq := rfl
@[simp] theorem State.setCtx_scTs (s : State) (c : Ctx) : (s.setCtx c).scTs = s.scTs := rfl
@[simp] theorem State.setCtx_copies (s : State) (c : Ctx) : (s.setCtx c).copies = s.copies := rfl
@[simp] theorem State.setCtx_colls (s : State) (c : Ctx) : (s.setCtx c).colls = s.colls := rfl
@[simp] theorem State.setCtx_contribs (s : State) (c : Ctx) : (s.setCtx c).contribs = s.contribs := rfl
@[simp] theorem State.setCtx_decided (s : State) (c : Ctx) : (s.setCtx c).decided = s.decided := rfl
@[simp] theorem State.setCtx_comms (s : State) (c : Ctx) : (s.setCtx c).comms = s.comms := rfl
@[simp] theorem State.setCtx_ocq (s : State) (c : Ctx) : (s.setCtx c).ocq = s.ocq := rfl
@[simp] theorem State.setCtx_ocNext (s : State) (c : Ctx) : (s.setCtx c).ocNext = s.ocNext := rfl
@[simp] theorem State.setCtx_sinter (s : State) (c : Ctx) : (s.setCtx c).sinter = s.sinter := rfl
@[simp] theorem State.setCtx_pins (s : State) (c : Ctx) : (s.setCtx c).pins = s.pins := rfl
@[simp] theorem State.setCtx_compiles (s : State) (c : Ctx) : (s.setCtx c).compiles = s.compiles := rfl
@[simp] theorem State.setCtx_faults (s : State) (c : Ctx) : (s.setCtx c).faults = s.faults := rfl
@[simp] theorem State.setCtx_kills (s : State) (c : Ctx) : (s.setCtx c).kills = s.kills := rfl
@[simp] theorem State.setCtx_killWait (s : State) (c : Ctx) : (s.setCtx c).killWait = s.killWait := rfl
@[simp] theorem State.setCtx_tasks (s : State) (c : Ctx) : (s.setCtx c).tasks = s.tasks := rfl
@[simp] theorem State.setCtx_captures (s : State) (c : Ctx) : (s.setCtx c).captures = s.captures := rfl
@[simp] theorem State.setCtx_packets (s : State) (c : Ctx) : (s.setCtx c).packets = s.packets := rfl
@[simp] theorem State.setCtx_events (s : State) (c : Ctx) : (s.setCtx c).events = s.events := rfl
@[simp] theorem State.setCtx_reserve (s : State) (c : Ctx) : (s.setCtx c).reserve = s.reserve := rfl
@[simp] theorem State.setCtx_evHeld (s : State) (c : Ctx) : (s.setCtx c).evHeld = s.evHeld := rfl
@[simp] theorem State.setCtx_lostn (s : State) (c : Ctx) : (s.setCtx c).lostn = s.lostn := rfl
@[simp] theorem State.setCtx_evOut (s : State) (c : Ctx) : (s.setCtx c).evOut = s.evOut := rfl
@[simp] theorem State.setCtx_responses (s : State) (c : Ctx) : (s.setCtx c).responses = s.responses := rfl
@[simp] theorem State.setCtx_features (s : State) (c : Ctx) : (s.setCtx c).features = s.features := rfl
@[simp] theorem State.setCtx_cxl (s : State) (c : Ctx) : (s.setCtx c).cxl = s.cxl := rfl
@[simp] theorem State.setCtx_cxlHidden (s : State) (c : Ctx) : (s.setCtx c).cxlHidden = s.cxlHidden := rfl
@[simp] theorem State.setCtx_lto (s : State) (c : Ctx) : (s.setCtx c).lto = s.lto := rfl
@[simp] theorem State.setCtx_peers (s : State) (c : Ctx) : (s.setCtx c).peers = s.peers := rfl
@[simp] theorem State.setCtx_lost (s : State) (c : Ctx) : (s.setCtx c).lost = s.lost := rfl
@[simp] theorem State.setCtx_portsDown (s : State) (c : Ctx) : (s.setCtx c).portsDown = s.portsDown := rfl
@[simp] theorem State.setCtx_swapMem (s : State) (c : Ctx) : (s.setCtx c).swapMem = s.swapMem := rfl
@[simp] theorem State.setCtx_msgOut (s : State) (c : Ctx) : (s.setCtx c).msgOut = s.msgOut := rfl
@[simp] theorem State.setCtx_peerOut (s : State) (c : Ctx) : (s.setCtx c).peerOut = s.peerOut := rfl
@[simp] theorem State.setCtx_boot (s : State) (c : Ctx) : (s.setCtx c).boot = s.boot := rfl
@[simp] theorem State.setCtx_meas (s : State) (c : Ctx) : (s.setCtx c).meas = s.meas := rfl
@[simp] theorem State.setCtx_errlog (s : State) (c : Ctx) : (s.setCtx c).errlog = s.errlog := rfl
@[simp] theorem State.setCtx_corrected (s : State) (c : Ctx) : (s.setCtx c).corrected = s.corrected := rfl
@[simp] theorem State.setCtx_tickAt (s : State) (c : Ctx) : (s.setCtx c).tickAt = s.tickAt := rfl
@[simp] theorem State.setCtx_retired (s : State) (c : Ctx) : (s.setCtx c).retired = s.retired := rfl
@[simp] theorem State.setCtx_poison (s : State) (c : Ctx) : (s.setCtx c).poison = s.poison := rfl
@[simp] theorem State.setCtx_lsPoison (s : State) (c : Ctx) : (s.setCtx c).lsPoison = s.lsPoison := rfl
@[simp] theorem State.setCtx_vrsPoison (s : State) (c : Ctx) : (s.setCtx c).vrsPoison = s.vrsPoison := rfl
@[simp] theorem State.setCtx_mem (s : State) (c : Ctx) : (s.setCtx c).mem = s.mem := rfl
@[simp] theorem State.setCtx_ls (s : State) (c : Ctx) : (s.setCtx c).ls = s.ls := rfl
@[simp] theorem State.setCtx_vrs (s : State) (c : Ctx) : (s.setCtx c).vrs = s.vrs := rfl
@[simp] theorem State.setCtx_acc (s : State) (c : Ctx) : (s.setCtx c).acc = s.acc := rfl

/-! ### State.modCtx -/

@[simp] theorem State.modCtx_cur (s : State) (id : CtxId) (f : Ctx → Ctx) : (s.modCtx id f).cur = s.cur := rfl
@[simp] theorem State.modCtx_next (s : State) (id : CtxId) (f : Ctx → Ctx) : (s.modCtx id f).next = s.next := rfl
@[simp] theorem State.modCtx_freeCtr (s : State) (id : CtxId) (f : Ctx → Ctx) : (s.modCtx id f).freeCtr = s.freeCtr := rfl
@[simp] theorem State.modCtx_inbox (s : State) (id : CtxId) (f : Ctx → Ctx) : (s.modCtx id f).inbox = s.inbox := rfl
@[simp] theorem State.modCtx_sealed (s : State) (id : CtxId) (f : Ctx → Ctx) : (s.modCtx id f).sealed = s.sealed := rfl
@[simp] theorem State.modCtx_subj (s : State) (id : CtxId) (f : Ctx → Ctx) : (s.modCtx id f).subj = s.subj := rfl
@[simp] theorem State.modCtx_gtime (s : State) (id : CtxId) (f : Ctx → Ctx) : (s.modCtx id f).gtime = s.gtime := rfl
@[simp] theorem State.modCtx_groups (s : State) (id : CtxId) (f : Ctx → Ctx) : (s.modCtx id f).groups = s.groups := rfl
@[simp] theorem State.modCtx_teams (s : State) (id : CtxId) (f : Ctx → Ctx) : (s.modCtx id f).teams = s.teams := rfl
@[simp] theorem State.modCtx_clusters (s : State) (id : CtxId) (f : Ctx → Ctx) : (s.modCtx id f).clusters = s.clusters := rfl
@[simp] theorem State.modCtx_domains (s : State) (id : CtxId) (f : Ctx → Ctx) : (s.modCtx id f).domains = s.domains := rfl
@[simp] theorem State.modCtx_parts (s : State) (id : CtxId) (f : Ctx → Ctx) : (s.modCtx id f).parts = s.parts := rfl
@[simp] theorem State.modCtx_lmap (s : State) (id : CtxId) (f : Ctx → Ctx) : (s.modCtx id f).lmap = s.lmap := rfl
@[simp] theorem State.modCtx_longs (s : State) (id : CtxId) (f : Ctx → Ctx) : (s.modCtx id f).longs = s.longs := rfl
@[simp] theorem State.modCtx_accesses (s : State) (id : CtxId) (f : Ctx → Ctx) : (s.modCtx id f).accesses = s.accesses := rfl
@[simp] theorem State.modCtx_l1 (s : State) (id : CtxId) (f : Ctx → Ctx) : (s.modCtx id f).l1 = s.l1 := rfl
@[simp] theorem State.modCtx_l1i (s : State) (id : CtxId) (f : Ctx → Ctx) : (s.modCtx id f).l1i = s.l1i := rfl
@[simp] theorem State.modCtx_home (s : State) (id : CtxId) (f : Ctx → Ctx) : (s.modCtx id f).home = s.home := rfl
@[simp] theorem State.modCtx_l2 (s : State) (id : CtxId) (f : Ctx → Ctx) : (s.modCtx id f).l2 = s.l2 := rfl
@[simp] theorem State.modCtx_tcache (s : State) (id : CtxId) (f : Ctx → Ctx) : (s.modCtx id f).tcache = s.tcache := rfl
@[simp] theorem State.modCtx_writes (s : State) (id : CtxId) (f : Ctx → Ctx) : (s.modCtx id f).writes = s.writes := rfl
@[simp] theorem State.modCtx_reds (s : State) (id : CtxId) (f : Ctx → Ctx) : (s.modCtx id f).reds = s.reds := rfl
@[simp] theorem State.modCtx_scops (s : State) (id : CtxId) (f : Ctx → Ctx) : (s.modCtx id f).scops = s.scops := rfl
@[simp] theorem State.modCtx_scSeq (s : State) (id : CtxId) (f : Ctx → Ctx) : (s.modCtx id f).scSeq = s.scSeq := rfl
@[simp] theorem State.modCtx_scTs (s : State) (id : CtxId) (f : Ctx → Ctx) : (s.modCtx id f).scTs = s.scTs := rfl
@[simp] theorem State.modCtx_copies (s : State) (id : CtxId) (f : Ctx → Ctx) : (s.modCtx id f).copies = s.copies := rfl
@[simp] theorem State.modCtx_colls (s : State) (id : CtxId) (f : Ctx → Ctx) : (s.modCtx id f).colls = s.colls := rfl
@[simp] theorem State.modCtx_contribs (s : State) (id : CtxId) (f : Ctx → Ctx) : (s.modCtx id f).contribs = s.contribs := rfl
@[simp] theorem State.modCtx_decided (s : State) (id : CtxId) (f : Ctx → Ctx) : (s.modCtx id f).decided = s.decided := rfl
@[simp] theorem State.modCtx_comms (s : State) (id : CtxId) (f : Ctx → Ctx) : (s.modCtx id f).comms = s.comms := rfl
@[simp] theorem State.modCtx_ocq (s : State) (id : CtxId) (f : Ctx → Ctx) : (s.modCtx id f).ocq = s.ocq := rfl
@[simp] theorem State.modCtx_ocNext (s : State) (id : CtxId) (f : Ctx → Ctx) : (s.modCtx id f).ocNext = s.ocNext := rfl
@[simp] theorem State.modCtx_sinter (s : State) (id : CtxId) (f : Ctx → Ctx) : (s.modCtx id f).sinter = s.sinter := rfl
@[simp] theorem State.modCtx_pins (s : State) (id : CtxId) (f : Ctx → Ctx) : (s.modCtx id f).pins = s.pins := rfl
@[simp] theorem State.modCtx_compiles (s : State) (id : CtxId) (f : Ctx → Ctx) : (s.modCtx id f).compiles = s.compiles := rfl
@[simp] theorem State.modCtx_faults (s : State) (id : CtxId) (f : Ctx → Ctx) : (s.modCtx id f).faults = s.faults := rfl
@[simp] theorem State.modCtx_kills (s : State) (id : CtxId) (f : Ctx → Ctx) : (s.modCtx id f).kills = s.kills := rfl
@[simp] theorem State.modCtx_killWait (s : State) (id : CtxId) (f : Ctx → Ctx) : (s.modCtx id f).killWait = s.killWait := rfl
@[simp] theorem State.modCtx_tasks (s : State) (id : CtxId) (f : Ctx → Ctx) : (s.modCtx id f).tasks = s.tasks := rfl
@[simp] theorem State.modCtx_captures (s : State) (id : CtxId) (f : Ctx → Ctx) : (s.modCtx id f).captures = s.captures := rfl
@[simp] theorem State.modCtx_packets (s : State) (id : CtxId) (f : Ctx → Ctx) : (s.modCtx id f).packets = s.packets := rfl
@[simp] theorem State.modCtx_events (s : State) (id : CtxId) (f : Ctx → Ctx) : (s.modCtx id f).events = s.events := rfl
@[simp] theorem State.modCtx_reserve (s : State) (id : CtxId) (f : Ctx → Ctx) : (s.modCtx id f).reserve = s.reserve := rfl
@[simp] theorem State.modCtx_evHeld (s : State) (id : CtxId) (f : Ctx → Ctx) : (s.modCtx id f).evHeld = s.evHeld := rfl
@[simp] theorem State.modCtx_lostn (s : State) (id : CtxId) (f : Ctx → Ctx) : (s.modCtx id f).lostn = s.lostn := rfl
@[simp] theorem State.modCtx_evOut (s : State) (id : CtxId) (f : Ctx → Ctx) : (s.modCtx id f).evOut = s.evOut := rfl
@[simp] theorem State.modCtx_responses (s : State) (id : CtxId) (f : Ctx → Ctx) : (s.modCtx id f).responses = s.responses := rfl
@[simp] theorem State.modCtx_features (s : State) (id : CtxId) (f : Ctx → Ctx) : (s.modCtx id f).features = s.features := rfl
@[simp] theorem State.modCtx_cxl (s : State) (id : CtxId) (f : Ctx → Ctx) : (s.modCtx id f).cxl = s.cxl := rfl
@[simp] theorem State.modCtx_cxlHidden (s : State) (id : CtxId) (f : Ctx → Ctx) : (s.modCtx id f).cxlHidden = s.cxlHidden := rfl
@[simp] theorem State.modCtx_lto (s : State) (id : CtxId) (f : Ctx → Ctx) : (s.modCtx id f).lto = s.lto := rfl
@[simp] theorem State.modCtx_peers (s : State) (id : CtxId) (f : Ctx → Ctx) : (s.modCtx id f).peers = s.peers := rfl
@[simp] theorem State.modCtx_lost (s : State) (id : CtxId) (f : Ctx → Ctx) : (s.modCtx id f).lost = s.lost := rfl
@[simp] theorem State.modCtx_portsDown (s : State) (id : CtxId) (f : Ctx → Ctx) : (s.modCtx id f).portsDown = s.portsDown := rfl
@[simp] theorem State.modCtx_swapMem (s : State) (id : CtxId) (f : Ctx → Ctx) : (s.modCtx id f).swapMem = s.swapMem := rfl
@[simp] theorem State.modCtx_msgOut (s : State) (id : CtxId) (f : Ctx → Ctx) : (s.modCtx id f).msgOut = s.msgOut := rfl
@[simp] theorem State.modCtx_peerOut (s : State) (id : CtxId) (f : Ctx → Ctx) : (s.modCtx id f).peerOut = s.peerOut := rfl
@[simp] theorem State.modCtx_boot (s : State) (id : CtxId) (f : Ctx → Ctx) : (s.modCtx id f).boot = s.boot := rfl
@[simp] theorem State.modCtx_meas (s : State) (id : CtxId) (f : Ctx → Ctx) : (s.modCtx id f).meas = s.meas := rfl
@[simp] theorem State.modCtx_errlog (s : State) (id : CtxId) (f : Ctx → Ctx) : (s.modCtx id f).errlog = s.errlog := rfl
@[simp] theorem State.modCtx_corrected (s : State) (id : CtxId) (f : Ctx → Ctx) : (s.modCtx id f).corrected = s.corrected := rfl
@[simp] theorem State.modCtx_tickAt (s : State) (id : CtxId) (f : Ctx → Ctx) : (s.modCtx id f).tickAt = s.tickAt := rfl
@[simp] theorem State.modCtx_retired (s : State) (id : CtxId) (f : Ctx → Ctx) : (s.modCtx id f).retired = s.retired := rfl
@[simp] theorem State.modCtx_poison (s : State) (id : CtxId) (f : Ctx → Ctx) : (s.modCtx id f).poison = s.poison := rfl
@[simp] theorem State.modCtx_lsPoison (s : State) (id : CtxId) (f : Ctx → Ctx) : (s.modCtx id f).lsPoison = s.lsPoison := rfl
@[simp] theorem State.modCtx_vrsPoison (s : State) (id : CtxId) (f : Ctx → Ctx) : (s.modCtx id f).vrsPoison = s.vrsPoison := rfl
@[simp] theorem State.modCtx_mem (s : State) (id : CtxId) (f : Ctx → Ctx) : (s.modCtx id f).mem = s.mem := rfl
@[simp] theorem State.modCtx_ls (s : State) (id : CtxId) (f : Ctx → Ctx) : (s.modCtx id f).ls = s.ls := rfl
@[simp] theorem State.modCtx_vrs (s : State) (id : CtxId) (f : Ctx → Ctx) : (s.modCtx id f).vrs = s.vrs := rfl
@[simp] theorem State.modCtx_acc (s : State) (id : CtxId) (f : Ctx → Ctx) : (s.modCtx id f).acc = s.acc := rfl

/-! ### State.addCtx -/

@[simp] theorem State.addCtx_cur (s : State) (c : Ctx) : (s.addCtx c).cur = s.cur := rfl
@[simp] theorem State.addCtx_next (s : State) (c : Ctx) : (s.addCtx c).next = s.next := rfl
@[simp] theorem State.addCtx_freeCtr (s : State) (c : Ctx) : (s.addCtx c).freeCtr = s.freeCtr := rfl
@[simp] theorem State.addCtx_inbox (s : State) (c : Ctx) : (s.addCtx c).inbox = s.inbox := rfl
@[simp] theorem State.addCtx_sealed (s : State) (c : Ctx) : (s.addCtx c).sealed = s.sealed := rfl
@[simp] theorem State.addCtx_subj (s : State) (c : Ctx) : (s.addCtx c).subj = s.subj := rfl
@[simp] theorem State.addCtx_gtime (s : State) (c : Ctx) : (s.addCtx c).gtime = s.gtime := rfl
@[simp] theorem State.addCtx_groups (s : State) (c : Ctx) : (s.addCtx c).groups = s.groups := rfl
@[simp] theorem State.addCtx_teams (s : State) (c : Ctx) : (s.addCtx c).teams = s.teams := rfl
@[simp] theorem State.addCtx_clusters (s : State) (c : Ctx) : (s.addCtx c).clusters = s.clusters := rfl
@[simp] theorem State.addCtx_domains (s : State) (c : Ctx) : (s.addCtx c).domains = s.domains := rfl
@[simp] theorem State.addCtx_parts (s : State) (c : Ctx) : (s.addCtx c).parts = s.parts := rfl
@[simp] theorem State.addCtx_lmap (s : State) (c : Ctx) : (s.addCtx c).lmap = s.lmap := rfl
@[simp] theorem State.addCtx_longs (s : State) (c : Ctx) : (s.addCtx c).longs = s.longs := rfl
@[simp] theorem State.addCtx_accesses (s : State) (c : Ctx) : (s.addCtx c).accesses = s.accesses := rfl
@[simp] theorem State.addCtx_l1 (s : State) (c : Ctx) : (s.addCtx c).l1 = s.l1 := rfl
@[simp] theorem State.addCtx_l1i (s : State) (c : Ctx) : (s.addCtx c).l1i = s.l1i := rfl
@[simp] theorem State.addCtx_home (s : State) (c : Ctx) : (s.addCtx c).home = s.home := rfl
@[simp] theorem State.addCtx_l2 (s : State) (c : Ctx) : (s.addCtx c).l2 = s.l2 := rfl
@[simp] theorem State.addCtx_tcache (s : State) (c : Ctx) : (s.addCtx c).tcache = s.tcache := rfl
@[simp] theorem State.addCtx_writes (s : State) (c : Ctx) : (s.addCtx c).writes = s.writes := rfl
@[simp] theorem State.addCtx_reds (s : State) (c : Ctx) : (s.addCtx c).reds = s.reds := rfl
@[simp] theorem State.addCtx_scops (s : State) (c : Ctx) : (s.addCtx c).scops = s.scops := rfl
@[simp] theorem State.addCtx_scSeq (s : State) (c : Ctx) : (s.addCtx c).scSeq = s.scSeq := rfl
@[simp] theorem State.addCtx_scTs (s : State) (c : Ctx) : (s.addCtx c).scTs = s.scTs := rfl
@[simp] theorem State.addCtx_copies (s : State) (c : Ctx) : (s.addCtx c).copies = s.copies := rfl
@[simp] theorem State.addCtx_colls (s : State) (c : Ctx) : (s.addCtx c).colls = s.colls := rfl
@[simp] theorem State.addCtx_contribs (s : State) (c : Ctx) : (s.addCtx c).contribs = s.contribs := rfl
@[simp] theorem State.addCtx_decided (s : State) (c : Ctx) : (s.addCtx c).decided = s.decided := rfl
@[simp] theorem State.addCtx_comms (s : State) (c : Ctx) : (s.addCtx c).comms = s.comms := rfl
@[simp] theorem State.addCtx_ocq (s : State) (c : Ctx) : (s.addCtx c).ocq = s.ocq := rfl
@[simp] theorem State.addCtx_ocNext (s : State) (c : Ctx) : (s.addCtx c).ocNext = s.ocNext := rfl
@[simp] theorem State.addCtx_sinter (s : State) (c : Ctx) : (s.addCtx c).sinter = s.sinter := rfl
@[simp] theorem State.addCtx_pins (s : State) (c : Ctx) : (s.addCtx c).pins = s.pins := rfl
@[simp] theorem State.addCtx_compiles (s : State) (c : Ctx) : (s.addCtx c).compiles = s.compiles := rfl
@[simp] theorem State.addCtx_faults (s : State) (c : Ctx) : (s.addCtx c).faults = s.faults := rfl
@[simp] theorem State.addCtx_kills (s : State) (c : Ctx) : (s.addCtx c).kills = s.kills := rfl
@[simp] theorem State.addCtx_killWait (s : State) (c : Ctx) : (s.addCtx c).killWait = s.killWait := rfl
@[simp] theorem State.addCtx_tasks (s : State) (c : Ctx) : (s.addCtx c).tasks = s.tasks := rfl
@[simp] theorem State.addCtx_captures (s : State) (c : Ctx) : (s.addCtx c).captures = s.captures := rfl
@[simp] theorem State.addCtx_packets (s : State) (c : Ctx) : (s.addCtx c).packets = s.packets := rfl
@[simp] theorem State.addCtx_events (s : State) (c : Ctx) : (s.addCtx c).events = s.events := rfl
@[simp] theorem State.addCtx_reserve (s : State) (c : Ctx) : (s.addCtx c).reserve = s.reserve := rfl
@[simp] theorem State.addCtx_evHeld (s : State) (c : Ctx) : (s.addCtx c).evHeld = s.evHeld := rfl
@[simp] theorem State.addCtx_lostn (s : State) (c : Ctx) : (s.addCtx c).lostn = s.lostn := rfl
@[simp] theorem State.addCtx_evOut (s : State) (c : Ctx) : (s.addCtx c).evOut = s.evOut := rfl
@[simp] theorem State.addCtx_responses (s : State) (c : Ctx) : (s.addCtx c).responses = s.responses := rfl
@[simp] theorem State.addCtx_features (s : State) (c : Ctx) : (s.addCtx c).features = s.features := rfl
@[simp] theorem State.addCtx_cxl (s : State) (c : Ctx) : (s.addCtx c).cxl = s.cxl := rfl
@[simp] theorem State.addCtx_cxlHidden (s : State) (c : Ctx) : (s.addCtx c).cxlHidden = s.cxlHidden := rfl
@[simp] theorem State.addCtx_lto (s : State) (c : Ctx) : (s.addCtx c).lto = s.lto := rfl
@[simp] theorem State.addCtx_peers (s : State) (c : Ctx) : (s.addCtx c).peers = s.peers := rfl
@[simp] theorem State.addCtx_lost (s : State) (c : Ctx) : (s.addCtx c).lost = s.lost := rfl
@[simp] theorem State.addCtx_portsDown (s : State) (c : Ctx) : (s.addCtx c).portsDown = s.portsDown := rfl
@[simp] theorem State.addCtx_swapMem (s : State) (c : Ctx) : (s.addCtx c).swapMem = s.swapMem := rfl
@[simp] theorem State.addCtx_msgOut (s : State) (c : Ctx) : (s.addCtx c).msgOut = s.msgOut := rfl
@[simp] theorem State.addCtx_peerOut (s : State) (c : Ctx) : (s.addCtx c).peerOut = s.peerOut := rfl
@[simp] theorem State.addCtx_boot (s : State) (c : Ctx) : (s.addCtx c).boot = s.boot := rfl
@[simp] theorem State.addCtx_meas (s : State) (c : Ctx) : (s.addCtx c).meas = s.meas := rfl
@[simp] theorem State.addCtx_errlog (s : State) (c : Ctx) : (s.addCtx c).errlog = s.errlog := rfl
@[simp] theorem State.addCtx_corrected (s : State) (c : Ctx) : (s.addCtx c).corrected = s.corrected := rfl
@[simp] theorem State.addCtx_tickAt (s : State) (c : Ctx) : (s.addCtx c).tickAt = s.tickAt := rfl
@[simp] theorem State.addCtx_retired (s : State) (c : Ctx) : (s.addCtx c).retired = s.retired := rfl
@[simp] theorem State.addCtx_poison (s : State) (c : Ctx) : (s.addCtx c).poison = s.poison := rfl
@[simp] theorem State.addCtx_lsPoison (s : State) (c : Ctx) : (s.addCtx c).lsPoison = s.lsPoison := rfl
@[simp] theorem State.addCtx_vrsPoison (s : State) (c : Ctx) : (s.addCtx c).vrsPoison = s.vrsPoison := rfl
@[simp] theorem State.addCtx_mem (s : State) (c : Ctx) : (s.addCtx c).mem = s.mem := rfl
@[simp] theorem State.addCtx_ls (s : State) (c : Ctx) : (s.addCtx c).ls = s.ls := rfl
@[simp] theorem State.addCtx_vrs (s : State) (c : Ctx) : (s.addCtx c).vrs = s.vrs := rfl
@[simp] theorem State.addCtx_acc (s : State) (c : Ctx) : (s.addCtx c).acc = s.acc := rfl

/-! ### State.dropCtx -/

@[simp] theorem State.dropCtx_cur (s : State) (id : CtxId) : (s.dropCtx id).cur = s.cur := rfl
@[simp] theorem State.dropCtx_next (s : State) (id : CtxId) : (s.dropCtx id).next = s.next := rfl
@[simp] theorem State.dropCtx_freeCtr (s : State) (id : CtxId) : (s.dropCtx id).freeCtr = s.freeCtr := rfl
@[simp] theorem State.dropCtx_inbox (s : State) (id : CtxId) : (s.dropCtx id).inbox = s.inbox := rfl
@[simp] theorem State.dropCtx_sealed (s : State) (id : CtxId) : (s.dropCtx id).sealed = s.sealed := rfl
@[simp] theorem State.dropCtx_subj (s : State) (id : CtxId) : (s.dropCtx id).subj = s.subj := rfl
@[simp] theorem State.dropCtx_gtime (s : State) (id : CtxId) : (s.dropCtx id).gtime = s.gtime := rfl
@[simp] theorem State.dropCtx_groups (s : State) (id : CtxId) : (s.dropCtx id).groups = s.groups := rfl
@[simp] theorem State.dropCtx_teams (s : State) (id : CtxId) : (s.dropCtx id).teams = s.teams := rfl
@[simp] theorem State.dropCtx_clusters (s : State) (id : CtxId) : (s.dropCtx id).clusters = s.clusters := rfl
@[simp] theorem State.dropCtx_domains (s : State) (id : CtxId) : (s.dropCtx id).domains = s.domains := rfl
@[simp] theorem State.dropCtx_parts (s : State) (id : CtxId) : (s.dropCtx id).parts = s.parts := rfl
@[simp] theorem State.dropCtx_lmap (s : State) (id : CtxId) : (s.dropCtx id).lmap = s.lmap := rfl
@[simp] theorem State.dropCtx_longs (s : State) (id : CtxId) : (s.dropCtx id).longs = s.longs := rfl
@[simp] theorem State.dropCtx_accesses (s : State) (id : CtxId) : (s.dropCtx id).accesses = s.accesses := rfl
@[simp] theorem State.dropCtx_l1 (s : State) (id : CtxId) : (s.dropCtx id).l1 = s.l1 := rfl
@[simp] theorem State.dropCtx_l1i (s : State) (id : CtxId) : (s.dropCtx id).l1i = s.l1i := rfl
@[simp] theorem State.dropCtx_home (s : State) (id : CtxId) : (s.dropCtx id).home = s.home := rfl
@[simp] theorem State.dropCtx_l2 (s : State) (id : CtxId) : (s.dropCtx id).l2 = s.l2 := rfl
@[simp] theorem State.dropCtx_tcache (s : State) (id : CtxId) : (s.dropCtx id).tcache = s.tcache := rfl
@[simp] theorem State.dropCtx_writes (s : State) (id : CtxId) : (s.dropCtx id).writes = s.writes := rfl
@[simp] theorem State.dropCtx_reds (s : State) (id : CtxId) : (s.dropCtx id).reds = s.reds := rfl
@[simp] theorem State.dropCtx_scops (s : State) (id : CtxId) : (s.dropCtx id).scops = s.scops := rfl
@[simp] theorem State.dropCtx_scSeq (s : State) (id : CtxId) : (s.dropCtx id).scSeq = s.scSeq := rfl
@[simp] theorem State.dropCtx_scTs (s : State) (id : CtxId) : (s.dropCtx id).scTs = s.scTs := rfl
@[simp] theorem State.dropCtx_copies (s : State) (id : CtxId) : (s.dropCtx id).copies = s.copies := rfl
@[simp] theorem State.dropCtx_colls (s : State) (id : CtxId) : (s.dropCtx id).colls = s.colls := rfl
@[simp] theorem State.dropCtx_contribs (s : State) (id : CtxId) : (s.dropCtx id).contribs = s.contribs := rfl
@[simp] theorem State.dropCtx_decided (s : State) (id : CtxId) : (s.dropCtx id).decided = s.decided := rfl
@[simp] theorem State.dropCtx_comms (s : State) (id : CtxId) : (s.dropCtx id).comms = s.comms := rfl
@[simp] theorem State.dropCtx_ocq (s : State) (id : CtxId) : (s.dropCtx id).ocq = s.ocq := rfl
@[simp] theorem State.dropCtx_ocNext (s : State) (id : CtxId) : (s.dropCtx id).ocNext = s.ocNext := rfl
@[simp] theorem State.dropCtx_sinter (s : State) (id : CtxId) : (s.dropCtx id).sinter = s.sinter := rfl
@[simp] theorem State.dropCtx_pins (s : State) (id : CtxId) : (s.dropCtx id).pins = s.pins := rfl
@[simp] theorem State.dropCtx_compiles (s : State) (id : CtxId) : (s.dropCtx id).compiles = s.compiles := rfl
@[simp] theorem State.dropCtx_faults (s : State) (id : CtxId) : (s.dropCtx id).faults = s.faults := rfl
@[simp] theorem State.dropCtx_kills (s : State) (id : CtxId) : (s.dropCtx id).kills = s.kills := rfl
@[simp] theorem State.dropCtx_killWait (s : State) (id : CtxId) : (s.dropCtx id).killWait = s.killWait := rfl
@[simp] theorem State.dropCtx_tasks (s : State) (id : CtxId) : (s.dropCtx id).tasks = s.tasks := rfl
@[simp] theorem State.dropCtx_captures (s : State) (id : CtxId) : (s.dropCtx id).captures = s.captures := rfl
@[simp] theorem State.dropCtx_packets (s : State) (id : CtxId) : (s.dropCtx id).packets = s.packets := rfl
@[simp] theorem State.dropCtx_events (s : State) (id : CtxId) : (s.dropCtx id).events = s.events := rfl
@[simp] theorem State.dropCtx_reserve (s : State) (id : CtxId) : (s.dropCtx id).reserve = s.reserve := rfl
@[simp] theorem State.dropCtx_evHeld (s : State) (id : CtxId) : (s.dropCtx id).evHeld = s.evHeld := rfl
@[simp] theorem State.dropCtx_lostn (s : State) (id : CtxId) : (s.dropCtx id).lostn = s.lostn := rfl
@[simp] theorem State.dropCtx_evOut (s : State) (id : CtxId) : (s.dropCtx id).evOut = s.evOut := rfl
@[simp] theorem State.dropCtx_responses (s : State) (id : CtxId) : (s.dropCtx id).responses = s.responses := rfl
@[simp] theorem State.dropCtx_features (s : State) (id : CtxId) : (s.dropCtx id).features = s.features := rfl
@[simp] theorem State.dropCtx_cxl (s : State) (id : CtxId) : (s.dropCtx id).cxl = s.cxl := rfl
@[simp] theorem State.dropCtx_cxlHidden (s : State) (id : CtxId) : (s.dropCtx id).cxlHidden = s.cxlHidden := rfl
@[simp] theorem State.dropCtx_lto (s : State) (id : CtxId) : (s.dropCtx id).lto = s.lto := rfl
@[simp] theorem State.dropCtx_peers (s : State) (id : CtxId) : (s.dropCtx id).peers = s.peers := rfl
@[simp] theorem State.dropCtx_lost (s : State) (id : CtxId) : (s.dropCtx id).lost = s.lost := rfl
@[simp] theorem State.dropCtx_portsDown (s : State) (id : CtxId) : (s.dropCtx id).portsDown = s.portsDown := rfl
@[simp] theorem State.dropCtx_swapMem (s : State) (id : CtxId) : (s.dropCtx id).swapMem = s.swapMem := rfl
@[simp] theorem State.dropCtx_msgOut (s : State) (id : CtxId) : (s.dropCtx id).msgOut = s.msgOut := rfl
@[simp] theorem State.dropCtx_peerOut (s : State) (id : CtxId) : (s.dropCtx id).peerOut = s.peerOut := rfl
@[simp] theorem State.dropCtx_boot (s : State) (id : CtxId) : (s.dropCtx id).boot = s.boot := rfl
@[simp] theorem State.dropCtx_meas (s : State) (id : CtxId) : (s.dropCtx id).meas = s.meas := rfl
@[simp] theorem State.dropCtx_errlog (s : State) (id : CtxId) : (s.dropCtx id).errlog = s.errlog := rfl
@[simp] theorem State.dropCtx_corrected (s : State) (id : CtxId) : (s.dropCtx id).corrected = s.corrected := rfl
@[simp] theorem State.dropCtx_tickAt (s : State) (id : CtxId) : (s.dropCtx id).tickAt = s.tickAt := rfl
@[simp] theorem State.dropCtx_retired (s : State) (id : CtxId) : (s.dropCtx id).retired = s.retired := rfl
@[simp] theorem State.dropCtx_poison (s : State) (id : CtxId) : (s.dropCtx id).poison = s.poison := rfl
@[simp] theorem State.dropCtx_lsPoison (s : State) (id : CtxId) : (s.dropCtx id).lsPoison = s.lsPoison := rfl
@[simp] theorem State.dropCtx_vrsPoison (s : State) (id : CtxId) : (s.dropCtx id).vrsPoison = s.vrsPoison := rfl
@[simp] theorem State.dropCtx_mem (s : State) (id : CtxId) : (s.dropCtx id).mem = s.mem := rfl
@[simp] theorem State.dropCtx_ls (s : State) (id : CtxId) : (s.dropCtx id).ls = s.ls := rfl
@[simp] theorem State.dropCtx_vrs (s : State) (id : CtxId) : (s.dropCtx id).vrs = s.vrs := rfl
@[simp] theorem State.dropCtx_acc (s : State) (id : CtxId) : (s.dropCtx id).acc = s.acc := rfl

/-! ### State.setGroup -/

@[simp] theorem State.setGroup_cur (s : State) (g : Group) : (s.setGroup g).cur = s.cur := rfl
@[simp] theorem State.setGroup_next (s : State) (g : Group) : (s.setGroup g).next = s.next := rfl
@[simp] theorem State.setGroup_freeCtr (s : State) (g : Group) : (s.setGroup g).freeCtr = s.freeCtr := rfl
@[simp] theorem State.setGroup_inbox (s : State) (g : Group) : (s.setGroup g).inbox = s.inbox := rfl
@[simp] theorem State.setGroup_sealed (s : State) (g : Group) : (s.setGroup g).sealed = s.sealed := rfl
@[simp] theorem State.setGroup_subj (s : State) (g : Group) : (s.setGroup g).subj = s.subj := rfl
@[simp] theorem State.setGroup_gtime (s : State) (g : Group) : (s.setGroup g).gtime = s.gtime := rfl
@[simp] theorem State.setGroup_ctxs (s : State) (g : Group) : (s.setGroup g).ctxs = s.ctxs := rfl
@[simp] theorem State.setGroup_teams (s : State) (g : Group) : (s.setGroup g).teams = s.teams := rfl
@[simp] theorem State.setGroup_clusters (s : State) (g : Group) : (s.setGroup g).clusters = s.clusters := rfl
@[simp] theorem State.setGroup_domains (s : State) (g : Group) : (s.setGroup g).domains = s.domains := rfl
@[simp] theorem State.setGroup_parts (s : State) (g : Group) : (s.setGroup g).parts = s.parts := rfl
@[simp] theorem State.setGroup_lmap (s : State) (g : Group) : (s.setGroup g).lmap = s.lmap := rfl
@[simp] theorem State.setGroup_longs (s : State) (g : Group) : (s.setGroup g).longs = s.longs := rfl
@[simp] theorem State.setGroup_accesses (s : State) (g : Group) : (s.setGroup g).accesses = s.accesses := rfl
@[simp] theorem State.setGroup_l1 (s : State) (g : Group) : (s.setGroup g).l1 = s.l1 := rfl
@[simp] theorem State.setGroup_l1i (s : State) (g : Group) : (s.setGroup g).l1i = s.l1i := rfl
@[simp] theorem State.setGroup_home (s : State) (g : Group) : (s.setGroup g).home = s.home := rfl
@[simp] theorem State.setGroup_l2 (s : State) (g : Group) : (s.setGroup g).l2 = s.l2 := rfl
@[simp] theorem State.setGroup_tcache (s : State) (g : Group) : (s.setGroup g).tcache = s.tcache := rfl
@[simp] theorem State.setGroup_writes (s : State) (g : Group) : (s.setGroup g).writes = s.writes := rfl
@[simp] theorem State.setGroup_reds (s : State) (g : Group) : (s.setGroup g).reds = s.reds := rfl
@[simp] theorem State.setGroup_scops (s : State) (g : Group) : (s.setGroup g).scops = s.scops := rfl
@[simp] theorem State.setGroup_scSeq (s : State) (g : Group) : (s.setGroup g).scSeq = s.scSeq := rfl
@[simp] theorem State.setGroup_scTs (s : State) (g : Group) : (s.setGroup g).scTs = s.scTs := rfl
@[simp] theorem State.setGroup_copies (s : State) (g : Group) : (s.setGroup g).copies = s.copies := rfl
@[simp] theorem State.setGroup_colls (s : State) (g : Group) : (s.setGroup g).colls = s.colls := rfl
@[simp] theorem State.setGroup_contribs (s : State) (g : Group) : (s.setGroup g).contribs = s.contribs := rfl
@[simp] theorem State.setGroup_decided (s : State) (g : Group) : (s.setGroup g).decided = s.decided := rfl
@[simp] theorem State.setGroup_comms (s : State) (g : Group) : (s.setGroup g).comms = s.comms := rfl
@[simp] theorem State.setGroup_ocq (s : State) (g : Group) : (s.setGroup g).ocq = s.ocq := rfl
@[simp] theorem State.setGroup_ocNext (s : State) (g : Group) : (s.setGroup g).ocNext = s.ocNext := rfl
@[simp] theorem State.setGroup_sinter (s : State) (g : Group) : (s.setGroup g).sinter = s.sinter := rfl
@[simp] theorem State.setGroup_pins (s : State) (g : Group) : (s.setGroup g).pins = s.pins := rfl
@[simp] theorem State.setGroup_compiles (s : State) (g : Group) : (s.setGroup g).compiles = s.compiles := rfl
@[simp] theorem State.setGroup_faults (s : State) (g : Group) : (s.setGroup g).faults = s.faults := rfl
@[simp] theorem State.setGroup_kills (s : State) (g : Group) : (s.setGroup g).kills = s.kills := rfl
@[simp] theorem State.setGroup_killWait (s : State) (g : Group) : (s.setGroup g).killWait = s.killWait := rfl
@[simp] theorem State.setGroup_tasks (s : State) (g : Group) : (s.setGroup g).tasks = s.tasks := rfl
@[simp] theorem State.setGroup_captures (s : State) (g : Group) : (s.setGroup g).captures = s.captures := rfl
@[simp] theorem State.setGroup_packets (s : State) (g : Group) : (s.setGroup g).packets = s.packets := rfl
@[simp] theorem State.setGroup_events (s : State) (g : Group) : (s.setGroup g).events = s.events := rfl
@[simp] theorem State.setGroup_reserve (s : State) (g : Group) : (s.setGroup g).reserve = s.reserve := rfl
@[simp] theorem State.setGroup_evHeld (s : State) (g : Group) : (s.setGroup g).evHeld = s.evHeld := rfl
@[simp] theorem State.setGroup_lostn (s : State) (g : Group) : (s.setGroup g).lostn = s.lostn := rfl
@[simp] theorem State.setGroup_evOut (s : State) (g : Group) : (s.setGroup g).evOut = s.evOut := rfl
@[simp] theorem State.setGroup_responses (s : State) (g : Group) : (s.setGroup g).responses = s.responses := rfl
@[simp] theorem State.setGroup_features (s : State) (g : Group) : (s.setGroup g).features = s.features := rfl
@[simp] theorem State.setGroup_cxl (s : State) (g : Group) : (s.setGroup g).cxl = s.cxl := rfl
@[simp] theorem State.setGroup_cxlHidden (s : State) (g : Group) : (s.setGroup g).cxlHidden = s.cxlHidden := rfl
@[simp] theorem State.setGroup_lto (s : State) (g : Group) : (s.setGroup g).lto = s.lto := rfl
@[simp] theorem State.setGroup_peers (s : State) (g : Group) : (s.setGroup g).peers = s.peers := rfl
@[simp] theorem State.setGroup_lost (s : State) (g : Group) : (s.setGroup g).lost = s.lost := rfl
@[simp] theorem State.setGroup_portsDown (s : State) (g : Group) : (s.setGroup g).portsDown = s.portsDown := rfl
@[simp] theorem State.setGroup_swapMem (s : State) (g : Group) : (s.setGroup g).swapMem = s.swapMem := rfl
@[simp] theorem State.setGroup_msgOut (s : State) (g : Group) : (s.setGroup g).msgOut = s.msgOut := rfl
@[simp] theorem State.setGroup_peerOut (s : State) (g : Group) : (s.setGroup g).peerOut = s.peerOut := rfl
@[simp] theorem State.setGroup_boot (s : State) (g : Group) : (s.setGroup g).boot = s.boot := rfl
@[simp] theorem State.setGroup_meas (s : State) (g : Group) : (s.setGroup g).meas = s.meas := rfl
@[simp] theorem State.setGroup_errlog (s : State) (g : Group) : (s.setGroup g).errlog = s.errlog := rfl
@[simp] theorem State.setGroup_corrected (s : State) (g : Group) : (s.setGroup g).corrected = s.corrected := rfl
@[simp] theorem State.setGroup_tickAt (s : State) (g : Group) : (s.setGroup g).tickAt = s.tickAt := rfl
@[simp] theorem State.setGroup_retired (s : State) (g : Group) : (s.setGroup g).retired = s.retired := rfl
@[simp] theorem State.setGroup_poison (s : State) (g : Group) : (s.setGroup g).poison = s.poison := rfl
@[simp] theorem State.setGroup_lsPoison (s : State) (g : Group) : (s.setGroup g).lsPoison = s.lsPoison := rfl
@[simp] theorem State.setGroup_vrsPoison (s : State) (g : Group) : (s.setGroup g).vrsPoison = s.vrsPoison := rfl
@[simp] theorem State.setGroup_mem (s : State) (g : Group) : (s.setGroup g).mem = s.mem := rfl
@[simp] theorem State.setGroup_ls (s : State) (g : Group) : (s.setGroup g).ls = s.ls := rfl
@[simp] theorem State.setGroup_vrs (s : State) (g : Group) : (s.setGroup g).vrs = s.vrs := rfl
@[simp] theorem State.setGroup_acc (s : State) (g : Group) : (s.setGroup g).acc = s.acc := rfl

/-! ### State.dropGroup -/

@[simp] theorem State.dropGroup_cur (s : State) (g : Group) : (s.dropGroup g).cur = s.cur := rfl
@[simp] theorem State.dropGroup_next (s : State) (g : Group) : (s.dropGroup g).next = s.next := rfl
@[simp] theorem State.dropGroup_freeCtr (s : State) (g : Group) : (s.dropGroup g).freeCtr = s.freeCtr := rfl
@[simp] theorem State.dropGroup_inbox (s : State) (g : Group) : (s.dropGroup g).inbox = s.inbox := rfl
@[simp] theorem State.dropGroup_sealed (s : State) (g : Group) : (s.dropGroup g).sealed = s.sealed := rfl
@[simp] theorem State.dropGroup_subj (s : State) (g : Group) : (s.dropGroup g).subj = s.subj := rfl
@[simp] theorem State.dropGroup_gtime (s : State) (g : Group) : (s.dropGroup g).gtime = s.gtime := rfl
@[simp] theorem State.dropGroup_ctxs (s : State) (g : Group) : (s.dropGroup g).ctxs = s.ctxs := rfl
@[simp] theorem State.dropGroup_teams (s : State) (g : Group) : (s.dropGroup g).teams = s.teams := rfl
@[simp] theorem State.dropGroup_clusters (s : State) (g : Group) : (s.dropGroup g).clusters = s.clusters := rfl
@[simp] theorem State.dropGroup_domains (s : State) (g : Group) : (s.dropGroup g).domains = s.domains := rfl
@[simp] theorem State.dropGroup_parts (s : State) (g : Group) : (s.dropGroup g).parts = s.parts := rfl
@[simp] theorem State.dropGroup_lmap (s : State) (g : Group) : (s.dropGroup g).lmap = s.lmap := rfl
@[simp] theorem State.dropGroup_longs (s : State) (g : Group) : (s.dropGroup g).longs = s.longs := rfl
@[simp] theorem State.dropGroup_accesses (s : State) (g : Group) : (s.dropGroup g).accesses = s.accesses := rfl
@[simp] theorem State.dropGroup_l1 (s : State) (g : Group) : (s.dropGroup g).l1 = s.l1 := rfl
@[simp] theorem State.dropGroup_l1i (s : State) (g : Group) : (s.dropGroup g).l1i = s.l1i := rfl
@[simp] theorem State.dropGroup_home (s : State) (g : Group) : (s.dropGroup g).home = s.home := rfl
@[simp] theorem State.dropGroup_l2 (s : State) (g : Group) : (s.dropGroup g).l2 = s.l2 := rfl
@[simp] theorem State.dropGroup_tcache (s : State) (g : Group) : (s.dropGroup g).tcache = s.tcache := rfl
@[simp] theorem State.dropGroup_writes (s : State) (g : Group) : (s.dropGroup g).writes = s.writes := rfl
@[simp] theorem State.dropGroup_reds (s : State) (g : Group) : (s.dropGroup g).reds = s.reds := rfl
@[simp] theorem State.dropGroup_scops (s : State) (g : Group) : (s.dropGroup g).scops = s.scops := rfl
@[simp] theorem State.dropGroup_scSeq (s : State) (g : Group) : (s.dropGroup g).scSeq = s.scSeq := rfl
@[simp] theorem State.dropGroup_scTs (s : State) (g : Group) : (s.dropGroup g).scTs = s.scTs := rfl
@[simp] theorem State.dropGroup_copies (s : State) (g : Group) : (s.dropGroup g).copies = s.copies := rfl
@[simp] theorem State.dropGroup_colls (s : State) (g : Group) : (s.dropGroup g).colls = s.colls := rfl
@[simp] theorem State.dropGroup_contribs (s : State) (g : Group) : (s.dropGroup g).contribs = s.contribs := rfl
@[simp] theorem State.dropGroup_decided (s : State) (g : Group) : (s.dropGroup g).decided = s.decided := rfl
@[simp] theorem State.dropGroup_comms (s : State) (g : Group) : (s.dropGroup g).comms = s.comms := rfl
@[simp] theorem State.dropGroup_ocq (s : State) (g : Group) : (s.dropGroup g).ocq = s.ocq := rfl
@[simp] theorem State.dropGroup_ocNext (s : State) (g : Group) : (s.dropGroup g).ocNext = s.ocNext := rfl
@[simp] theorem State.dropGroup_sinter (s : State) (g : Group) : (s.dropGroup g).sinter = s.sinter := rfl
@[simp] theorem State.dropGroup_pins (s : State) (g : Group) : (s.dropGroup g).pins = s.pins := rfl
@[simp] theorem State.dropGroup_compiles (s : State) (g : Group) : (s.dropGroup g).compiles = s.compiles := rfl
@[simp] theorem State.dropGroup_faults (s : State) (g : Group) : (s.dropGroup g).faults = s.faults := rfl
@[simp] theorem State.dropGroup_kills (s : State) (g : Group) : (s.dropGroup g).kills = s.kills := rfl
@[simp] theorem State.dropGroup_killWait (s : State) (g : Group) : (s.dropGroup g).killWait = s.killWait := rfl
@[simp] theorem State.dropGroup_tasks (s : State) (g : Group) : (s.dropGroup g).tasks = s.tasks := rfl
@[simp] theorem State.dropGroup_captures (s : State) (g : Group) : (s.dropGroup g).captures = s.captures := rfl
@[simp] theorem State.dropGroup_packets (s : State) (g : Group) : (s.dropGroup g).packets = s.packets := rfl
@[simp] theorem State.dropGroup_events (s : State) (g : Group) : (s.dropGroup g).events = s.events := rfl
@[simp] theorem State.dropGroup_reserve (s : State) (g : Group) : (s.dropGroup g).reserve = s.reserve := rfl
@[simp] theorem State.dropGroup_evHeld (s : State) (g : Group) : (s.dropGroup g).evHeld = s.evHeld := rfl
@[simp] theorem State.dropGroup_lostn (s : State) (g : Group) : (s.dropGroup g).lostn = s.lostn := rfl
@[simp] theorem State.dropGroup_evOut (s : State) (g : Group) : (s.dropGroup g).evOut = s.evOut := rfl
@[simp] theorem State.dropGroup_responses (s : State) (g : Group) : (s.dropGroup g).responses = s.responses := rfl
@[simp] theorem State.dropGroup_features (s : State) (g : Group) : (s.dropGroup g).features = s.features := rfl
@[simp] theorem State.dropGroup_cxl (s : State) (g : Group) : (s.dropGroup g).cxl = s.cxl := rfl
@[simp] theorem State.dropGroup_cxlHidden (s : State) (g : Group) : (s.dropGroup g).cxlHidden = s.cxlHidden := rfl
@[simp] theorem State.dropGroup_lto (s : State) (g : Group) : (s.dropGroup g).lto = s.lto := rfl
@[simp] theorem State.dropGroup_peers (s : State) (g : Group) : (s.dropGroup g).peers = s.peers := rfl
@[simp] theorem State.dropGroup_lost (s : State) (g : Group) : (s.dropGroup g).lost = s.lost := rfl
@[simp] theorem State.dropGroup_portsDown (s : State) (g : Group) : (s.dropGroup g).portsDown = s.portsDown := rfl
@[simp] theorem State.dropGroup_swapMem (s : State) (g : Group) : (s.dropGroup g).swapMem = s.swapMem := rfl
@[simp] theorem State.dropGroup_msgOut (s : State) (g : Group) : (s.dropGroup g).msgOut = s.msgOut := rfl
@[simp] theorem State.dropGroup_peerOut (s : State) (g : Group) : (s.dropGroup g).peerOut = s.peerOut := rfl
@[simp] theorem State.dropGroup_boot (s : State) (g : Group) : (s.dropGroup g).boot = s.boot := rfl
@[simp] theorem State.dropGroup_meas (s : State) (g : Group) : (s.dropGroup g).meas = s.meas := rfl
@[simp] theorem State.dropGroup_errlog (s : State) (g : Group) : (s.dropGroup g).errlog = s.errlog := rfl
@[simp] theorem State.dropGroup_corrected (s : State) (g : Group) : (s.dropGroup g).corrected = s.corrected := rfl
@[simp] theorem State.dropGroup_tickAt (s : State) (g : Group) : (s.dropGroup g).tickAt = s.tickAt := rfl
@[simp] theorem State.dropGroup_retired (s : State) (g : Group) : (s.dropGroup g).retired = s.retired := rfl
@[simp] theorem State.dropGroup_poison (s : State) (g : Group) : (s.dropGroup g).poison = s.poison := rfl
@[simp] theorem State.dropGroup_lsPoison (s : State) (g : Group) : (s.dropGroup g).lsPoison = s.lsPoison := rfl
@[simp] theorem State.dropGroup_vrsPoison (s : State) (g : Group) : (s.dropGroup g).vrsPoison = s.vrsPoison := rfl
@[simp] theorem State.dropGroup_mem (s : State) (g : Group) : (s.dropGroup g).mem = s.mem := rfl
@[simp] theorem State.dropGroup_ls (s : State) (g : Group) : (s.dropGroup g).ls = s.ls := rfl
@[simp] theorem State.dropGroup_vrs (s : State) (g : Group) : (s.dropGroup g).vrs = s.vrs := rfl
@[simp] theorem State.dropGroup_acc (s : State) (g : Group) : (s.dropGroup g).acc = s.acc := rfl

/-! ### State.modCluster -/

@[simp] theorem State.modCluster_cur (s : State) (cl : Nat) (f : Cluster → Cluster) : (s.modCluster cl f).cur = s.cur := by unfold State.modCluster; split <;> rfl
@[simp] theorem State.modCluster_next (s : State) (cl : Nat) (f : Cluster → Cluster) : (s.modCluster cl f).next = s.next := by unfold State.modCluster; split <;> rfl
@[simp] theorem State.modCluster_freeCtr (s : State) (cl : Nat) (f : Cluster → Cluster) : (s.modCluster cl f).freeCtr = s.freeCtr := by unfold State.modCluster; split <;> rfl
@[simp] theorem State.modCluster_inbox (s : State) (cl : Nat) (f : Cluster → Cluster) : (s.modCluster cl f).inbox = s.inbox := by unfold State.modCluster; split <;> rfl
@[simp] theorem State.modCluster_sealed (s : State) (cl : Nat) (f : Cluster → Cluster) : (s.modCluster cl f).sealed = s.sealed := by unfold State.modCluster; split <;> rfl
@[simp] theorem State.modCluster_subj (s : State) (cl : Nat) (f : Cluster → Cluster) : (s.modCluster cl f).subj = s.subj := by unfold State.modCluster; split <;> rfl
@[simp] theorem State.modCluster_gtime (s : State) (cl : Nat) (f : Cluster → Cluster) : (s.modCluster cl f).gtime = s.gtime := by unfold State.modCluster; split <;> rfl
@[simp] theorem State.modCluster_ctxs (s : State) (cl : Nat) (f : Cluster → Cluster) : (s.modCluster cl f).ctxs = s.ctxs := by unfold State.modCluster; split <;> rfl
@[simp] theorem State.modCluster_groups (s : State) (cl : Nat) (f : Cluster → Cluster) : (s.modCluster cl f).groups = s.groups := by unfold State.modCluster; split <;> rfl
@[simp] theorem State.modCluster_teams (s : State) (cl : Nat) (f : Cluster → Cluster) : (s.modCluster cl f).teams = s.teams := by unfold State.modCluster; split <;> rfl
@[simp] theorem State.modCluster_domains (s : State) (cl : Nat) (f : Cluster → Cluster) : (s.modCluster cl f).domains = s.domains := by unfold State.modCluster; split <;> rfl
@[simp] theorem State.modCluster_parts (s : State) (cl : Nat) (f : Cluster → Cluster) : (s.modCluster cl f).parts = s.parts := by unfold State.modCluster; split <;> rfl
@[simp] theorem State.modCluster_lmap (s : State) (cl : Nat) (f : Cluster → Cluster) : (s.modCluster cl f).lmap = s.lmap := by unfold State.modCluster; split <;> rfl
@[simp] theorem State.modCluster_longs (s : State) (cl : Nat) (f : Cluster → Cluster) : (s.modCluster cl f).longs = s.longs := by unfold State.modCluster; split <;> rfl
@[simp] theorem State.modCluster_accesses (s : State) (cl : Nat) (f : Cluster → Cluster) : (s.modCluster cl f).accesses = s.accesses := by unfold State.modCluster; split <;> rfl
@[simp] theorem State.modCluster_l1 (s : State) (cl : Nat) (f : Cluster → Cluster) : (s.modCluster cl f).l1 = s.l1 := by unfold State.modCluster; split <;> rfl
@[simp] theorem State.modCluster_l1i (s : State) (cl : Nat) (f : Cluster → Cluster) : (s.modCluster cl f).l1i = s.l1i := by unfold State.modCluster; split <;> rfl
@[simp] theorem State.modCluster_home (s : State) (cl : Nat) (f : Cluster → Cluster) : (s.modCluster cl f).home = s.home := by unfold State.modCluster; split <;> rfl
@[simp] theorem State.modCluster_l2 (s : State) (cl : Nat) (f : Cluster → Cluster) : (s.modCluster cl f).l2 = s.l2 := by unfold State.modCluster; split <;> rfl
@[simp] theorem State.modCluster_tcache (s : State) (cl : Nat) (f : Cluster → Cluster) : (s.modCluster cl f).tcache = s.tcache := by unfold State.modCluster; split <;> rfl
@[simp] theorem State.modCluster_writes (s : State) (cl : Nat) (f : Cluster → Cluster) : (s.modCluster cl f).writes = s.writes := by unfold State.modCluster; split <;> rfl
@[simp] theorem State.modCluster_reds (s : State) (cl : Nat) (f : Cluster → Cluster) : (s.modCluster cl f).reds = s.reds := by unfold State.modCluster; split <;> rfl
@[simp] theorem State.modCluster_scops (s : State) (cl : Nat) (f : Cluster → Cluster) : (s.modCluster cl f).scops = s.scops := by unfold State.modCluster; split <;> rfl
@[simp] theorem State.modCluster_scSeq (s : State) (cl : Nat) (f : Cluster → Cluster) : (s.modCluster cl f).scSeq = s.scSeq := by unfold State.modCluster; split <;> rfl
@[simp] theorem State.modCluster_scTs (s : State) (cl : Nat) (f : Cluster → Cluster) : (s.modCluster cl f).scTs = s.scTs := by unfold State.modCluster; split <;> rfl
@[simp] theorem State.modCluster_copies (s : State) (cl : Nat) (f : Cluster → Cluster) : (s.modCluster cl f).copies = s.copies := by unfold State.modCluster; split <;> rfl
@[simp] theorem State.modCluster_colls (s : State) (cl : Nat) (f : Cluster → Cluster) : (s.modCluster cl f).colls = s.colls := by unfold State.modCluster; split <;> rfl
@[simp] theorem State.modCluster_contribs (s : State) (cl : Nat) (f : Cluster → Cluster) : (s.modCluster cl f).contribs = s.contribs := by unfold State.modCluster; split <;> rfl
@[simp] theorem State.modCluster_decided (s : State) (cl : Nat) (f : Cluster → Cluster) : (s.modCluster cl f).decided = s.decided := by unfold State.modCluster; split <;> rfl
@[simp] theorem State.modCluster_comms (s : State) (cl : Nat) (f : Cluster → Cluster) : (s.modCluster cl f).comms = s.comms := by unfold State.modCluster; split <;> rfl
@[simp] theorem State.modCluster_ocq (s : State) (cl : Nat) (f : Cluster → Cluster) : (s.modCluster cl f).ocq = s.ocq := by unfold State.modCluster; split <;> rfl
@[simp] theorem State.modCluster_ocNext (s : State) (cl : Nat) (f : Cluster → Cluster) : (s.modCluster cl f).ocNext = s.ocNext := by unfold State.modCluster; split <;> rfl
@[simp] theorem State.modCluster_sinter (s : State) (cl : Nat) (f : Cluster → Cluster) : (s.modCluster cl f).sinter = s.sinter := by unfold State.modCluster; split <;> rfl
@[simp] theorem State.modCluster_pins (s : State) (cl : Nat) (f : Cluster → Cluster) : (s.modCluster cl f).pins = s.pins := by unfold State.modCluster; split <;> rfl
@[simp] theorem State.modCluster_compiles (s : State) (cl : Nat) (f : Cluster → Cluster) : (s.modCluster cl f).compiles = s.compiles := by unfold State.modCluster; split <;> rfl
@[simp] theorem State.modCluster_faults (s : State) (cl : Nat) (f : Cluster → Cluster) : (s.modCluster cl f).faults = s.faults := by unfold State.modCluster; split <;> rfl
@[simp] theorem State.modCluster_kills (s : State) (cl : Nat) (f : Cluster → Cluster) : (s.modCluster cl f).kills = s.kills := by unfold State.modCluster; split <;> rfl
@[simp] theorem State.modCluster_killWait (s : State) (cl : Nat) (f : Cluster → Cluster) : (s.modCluster cl f).killWait = s.killWait := by unfold State.modCluster; split <;> rfl
@[simp] theorem State.modCluster_tasks (s : State) (cl : Nat) (f : Cluster → Cluster) : (s.modCluster cl f).tasks = s.tasks := by unfold State.modCluster; split <;> rfl
@[simp] theorem State.modCluster_captures (s : State) (cl : Nat) (f : Cluster → Cluster) : (s.modCluster cl f).captures = s.captures := by unfold State.modCluster; split <;> rfl
@[simp] theorem State.modCluster_packets (s : State) (cl : Nat) (f : Cluster → Cluster) : (s.modCluster cl f).packets = s.packets := by unfold State.modCluster; split <;> rfl
@[simp] theorem State.modCluster_events (s : State) (cl : Nat) (f : Cluster → Cluster) : (s.modCluster cl f).events = s.events := by unfold State.modCluster; split <;> rfl
@[simp] theorem State.modCluster_reserve (s : State) (cl : Nat) (f : Cluster → Cluster) : (s.modCluster cl f).reserve = s.reserve := by unfold State.modCluster; split <;> rfl
@[simp] theorem State.modCluster_evHeld (s : State) (cl : Nat) (f : Cluster → Cluster) : (s.modCluster cl f).evHeld = s.evHeld := by unfold State.modCluster; split <;> rfl
@[simp] theorem State.modCluster_lostn (s : State) (cl : Nat) (f : Cluster → Cluster) : (s.modCluster cl f).lostn = s.lostn := by unfold State.modCluster; split <;> rfl
@[simp] theorem State.modCluster_evOut (s : State) (cl : Nat) (f : Cluster → Cluster) : (s.modCluster cl f).evOut = s.evOut := by unfold State.modCluster; split <;> rfl
@[simp] theorem State.modCluster_responses (s : State) (cl : Nat) (f : Cluster → Cluster) : (s.modCluster cl f).responses = s.responses := by unfold State.modCluster; split <;> rfl
@[simp] theorem State.modCluster_features (s : State) (cl : Nat) (f : Cluster → Cluster) : (s.modCluster cl f).features = s.features := by unfold State.modCluster; split <;> rfl
@[simp] theorem State.modCluster_cxl (s : State) (cl : Nat) (f : Cluster → Cluster) : (s.modCluster cl f).cxl = s.cxl := by unfold State.modCluster; split <;> rfl
@[simp] theorem State.modCluster_cxlHidden (s : State) (cl : Nat) (f : Cluster → Cluster) : (s.modCluster cl f).cxlHidden = s.cxlHidden := by unfold State.modCluster; split <;> rfl
@[simp] theorem State.modCluster_lto (s : State) (cl : Nat) (f : Cluster → Cluster) : (s.modCluster cl f).lto = s.lto := by unfold State.modCluster; split <;> rfl
@[simp] theorem State.modCluster_peers (s : State) (cl : Nat) (f : Cluster → Cluster) : (s.modCluster cl f).peers = s.peers := by unfold State.modCluster; split <;> rfl
@[simp] theorem State.modCluster_lost (s : State) (cl : Nat) (f : Cluster → Cluster) : (s.modCluster cl f).lost = s.lost := by unfold State.modCluster; split <;> rfl
@[simp] theorem State.modCluster_portsDown (s : State) (cl : Nat) (f : Cluster → Cluster) : (s.modCluster cl f).portsDown = s.portsDown := by unfold State.modCluster; split <;> rfl
@[simp] theorem State.modCluster_swapMem (s : State) (cl : Nat) (f : Cluster → Cluster) : (s.modCluster cl f).swapMem = s.swapMem := by unfold State.modCluster; split <;> rfl
@[simp] theorem State.modCluster_msgOut (s : State) (cl : Nat) (f : Cluster → Cluster) : (s.modCluster cl f).msgOut = s.msgOut := by unfold State.modCluster; split <;> rfl
@[simp] theorem State.modCluster_peerOut (s : State) (cl : Nat) (f : Cluster → Cluster) : (s.modCluster cl f).peerOut = s.peerOut := by unfold State.modCluster; split <;> rfl
@[simp] theorem State.modCluster_boot (s : State) (cl : Nat) (f : Cluster → Cluster) : (s.modCluster cl f).boot = s.boot := by unfold State.modCluster; split <;> rfl
@[simp] theorem State.modCluster_meas (s : State) (cl : Nat) (f : Cluster → Cluster) : (s.modCluster cl f).meas = s.meas := by unfold State.modCluster; split <;> rfl
@[simp] theorem State.modCluster_errlog (s : State) (cl : Nat) (f : Cluster → Cluster) : (s.modCluster cl f).errlog = s.errlog := by unfold State.modCluster; split <;> rfl
@[simp] theorem State.modCluster_corrected (s : State) (cl : Nat) (f : Cluster → Cluster) : (s.modCluster cl f).corrected = s.corrected := by unfold State.modCluster; split <;> rfl
@[simp] theorem State.modCluster_tickAt (s : State) (cl : Nat) (f : Cluster → Cluster) : (s.modCluster cl f).tickAt = s.tickAt := by unfold State.modCluster; split <;> rfl
@[simp] theorem State.modCluster_retired (s : State) (cl : Nat) (f : Cluster → Cluster) : (s.modCluster cl f).retired = s.retired := by unfold State.modCluster; split <;> rfl
@[simp] theorem State.modCluster_poison (s : State) (cl : Nat) (f : Cluster → Cluster) : (s.modCluster cl f).poison = s.poison := by unfold State.modCluster; split <;> rfl
@[simp] theorem State.modCluster_lsPoison (s : State) (cl : Nat) (f : Cluster → Cluster) : (s.modCluster cl f).lsPoison = s.lsPoison := by unfold State.modCluster; split <;> rfl
@[simp] theorem State.modCluster_vrsPoison (s : State) (cl : Nat) (f : Cluster → Cluster) : (s.modCluster cl f).vrsPoison = s.vrsPoison := by unfold State.modCluster; split <;> rfl
@[simp] theorem State.modCluster_mem (s : State) (cl : Nat) (f : Cluster → Cluster) : (s.modCluster cl f).mem = s.mem := by unfold State.modCluster; split <;> rfl
@[simp] theorem State.modCluster_ls (s : State) (cl : Nat) (f : Cluster → Cluster) : (s.modCluster cl f).ls = s.ls := by unfold State.modCluster; split <;> rfl
@[simp] theorem State.modCluster_vrs (s : State) (cl : Nat) (f : Cluster → Cluster) : (s.modCluster cl f).vrs = s.vrs := by unfold State.modCluster; split <;> rfl
@[simp] theorem State.modCluster_acc (s : State) (cl : Nat) (f : Cluster → Cluster) : (s.modCluster cl f).acc = s.acc := by unfold State.modCluster; split <;> rfl

/-! ### State.modDomain -/

@[simp] theorem State.modDomain_cur (s : State) (m : Nat) (f : Domain → Domain) : (s.modDomain m f).cur = s.cur := by unfold State.modDomain; split <;> rfl
@[simp] theorem State.modDomain_next (s : State) (m : Nat) (f : Domain → Domain) : (s.modDomain m f).next = s.next := by unfold State.modDomain; split <;> rfl
@[simp] theorem State.modDomain_freeCtr (s : State) (m : Nat) (f : Domain → Domain) : (s.modDomain m f).freeCtr = s.freeCtr := by unfold State.modDomain; split <;> rfl
@[simp] theorem State.modDomain_inbox (s : State) (m : Nat) (f : Domain → Domain) : (s.modDomain m f).inbox = s.inbox := by unfold State.modDomain; split <;> rfl
@[simp] theorem State.modDomain_sealed (s : State) (m : Nat) (f : Domain → Domain) : (s.modDomain m f).sealed = s.sealed := by unfold State.modDomain; split <;> rfl
@[simp] theorem State.modDomain_subj (s : State) (m : Nat) (f : Domain → Domain) : (s.modDomain m f).subj = s.subj := by unfold State.modDomain; split <;> rfl
@[simp] theorem State.modDomain_gtime (s : State) (m : Nat) (f : Domain → Domain) : (s.modDomain m f).gtime = s.gtime := by unfold State.modDomain; split <;> rfl
@[simp] theorem State.modDomain_ctxs (s : State) (m : Nat) (f : Domain → Domain) : (s.modDomain m f).ctxs = s.ctxs := by unfold State.modDomain; split <;> rfl
@[simp] theorem State.modDomain_groups (s : State) (m : Nat) (f : Domain → Domain) : (s.modDomain m f).groups = s.groups := by unfold State.modDomain; split <;> rfl
@[simp] theorem State.modDomain_teams (s : State) (m : Nat) (f : Domain → Domain) : (s.modDomain m f).teams = s.teams := by unfold State.modDomain; split <;> rfl
@[simp] theorem State.modDomain_clusters (s : State) (m : Nat) (f : Domain → Domain) : (s.modDomain m f).clusters = s.clusters := by unfold State.modDomain; split <;> rfl
@[simp] theorem State.modDomain_parts (s : State) (m : Nat) (f : Domain → Domain) : (s.modDomain m f).parts = s.parts := by unfold State.modDomain; split <;> rfl
@[simp] theorem State.modDomain_lmap (s : State) (m : Nat) (f : Domain → Domain) : (s.modDomain m f).lmap = s.lmap := by unfold State.modDomain; split <;> rfl
@[simp] theorem State.modDomain_longs (s : State) (m : Nat) (f : Domain → Domain) : (s.modDomain m f).longs = s.longs := by unfold State.modDomain; split <;> rfl
@[simp] theorem State.modDomain_accesses (s : State) (m : Nat) (f : Domain → Domain) : (s.modDomain m f).accesses = s.accesses := by unfold State.modDomain; split <;> rfl
@[simp] theorem State.modDomain_l1 (s : State) (m : Nat) (f : Domain → Domain) : (s.modDomain m f).l1 = s.l1 := by unfold State.modDomain; split <;> rfl
@[simp] theorem State.modDomain_l1i (s : State) (m : Nat) (f : Domain → Domain) : (s.modDomain m f).l1i = s.l1i := by unfold State.modDomain; split <;> rfl
@[simp] theorem State.modDomain_home (s : State) (m : Nat) (f : Domain → Domain) : (s.modDomain m f).home = s.home := by unfold State.modDomain; split <;> rfl
@[simp] theorem State.modDomain_l2 (s : State) (m : Nat) (f : Domain → Domain) : (s.modDomain m f).l2 = s.l2 := by unfold State.modDomain; split <;> rfl
@[simp] theorem State.modDomain_tcache (s : State) (m : Nat) (f : Domain → Domain) : (s.modDomain m f).tcache = s.tcache := by unfold State.modDomain; split <;> rfl
@[simp] theorem State.modDomain_writes (s : State) (m : Nat) (f : Domain → Domain) : (s.modDomain m f).writes = s.writes := by unfold State.modDomain; split <;> rfl
@[simp] theorem State.modDomain_reds (s : State) (m : Nat) (f : Domain → Domain) : (s.modDomain m f).reds = s.reds := by unfold State.modDomain; split <;> rfl
@[simp] theorem State.modDomain_scops (s : State) (m : Nat) (f : Domain → Domain) : (s.modDomain m f).scops = s.scops := by unfold State.modDomain; split <;> rfl
@[simp] theorem State.modDomain_scSeq (s : State) (m : Nat) (f : Domain → Domain) : (s.modDomain m f).scSeq = s.scSeq := by unfold State.modDomain; split <;> rfl
@[simp] theorem State.modDomain_scTs (s : State) (m : Nat) (f : Domain → Domain) : (s.modDomain m f).scTs = s.scTs := by unfold State.modDomain; split <;> rfl
@[simp] theorem State.modDomain_copies (s : State) (m : Nat) (f : Domain → Domain) : (s.modDomain m f).copies = s.copies := by unfold State.modDomain; split <;> rfl
@[simp] theorem State.modDomain_colls (s : State) (m : Nat) (f : Domain → Domain) : (s.modDomain m f).colls = s.colls := by unfold State.modDomain; split <;> rfl
@[simp] theorem State.modDomain_contribs (s : State) (m : Nat) (f : Domain → Domain) : (s.modDomain m f).contribs = s.contribs := by unfold State.modDomain; split <;> rfl
@[simp] theorem State.modDomain_decided (s : State) (m : Nat) (f : Domain → Domain) : (s.modDomain m f).decided = s.decided := by unfold State.modDomain; split <;> rfl
@[simp] theorem State.modDomain_comms (s : State) (m : Nat) (f : Domain → Domain) : (s.modDomain m f).comms = s.comms := by unfold State.modDomain; split <;> rfl
@[simp] theorem State.modDomain_ocq (s : State) (m : Nat) (f : Domain → Domain) : (s.modDomain m f).ocq = s.ocq := by unfold State.modDomain; split <;> rfl
@[simp] theorem State.modDomain_ocNext (s : State) (m : Nat) (f : Domain → Domain) : (s.modDomain m f).ocNext = s.ocNext := by unfold State.modDomain; split <;> rfl
@[simp] theorem State.modDomain_sinter (s : State) (m : Nat) (f : Domain → Domain) : (s.modDomain m f).sinter = s.sinter := by unfold State.modDomain; split <;> rfl
@[simp] theorem State.modDomain_pins (s : State) (m : Nat) (f : Domain → Domain) : (s.modDomain m f).pins = s.pins := by unfold State.modDomain; split <;> rfl
@[simp] theorem State.modDomain_compiles (s : State) (m : Nat) (f : Domain → Domain) : (s.modDomain m f).compiles = s.compiles := by unfold State.modDomain; split <;> rfl
@[simp] theorem State.modDomain_faults (s : State) (m : Nat) (f : Domain → Domain) : (s.modDomain m f).faults = s.faults := by unfold State.modDomain; split <;> rfl
@[simp] theorem State.modDomain_kills (s : State) (m : Nat) (f : Domain → Domain) : (s.modDomain m f).kills = s.kills := by unfold State.modDomain; split <;> rfl
@[simp] theorem State.modDomain_killWait (s : State) (m : Nat) (f : Domain → Domain) : (s.modDomain m f).killWait = s.killWait := by unfold State.modDomain; split <;> rfl
@[simp] theorem State.modDomain_tasks (s : State) (m : Nat) (f : Domain → Domain) : (s.modDomain m f).tasks = s.tasks := by unfold State.modDomain; split <;> rfl
@[simp] theorem State.modDomain_captures (s : State) (m : Nat) (f : Domain → Domain) : (s.modDomain m f).captures = s.captures := by unfold State.modDomain; split <;> rfl
@[simp] theorem State.modDomain_packets (s : State) (m : Nat) (f : Domain → Domain) : (s.modDomain m f).packets = s.packets := by unfold State.modDomain; split <;> rfl
@[simp] theorem State.modDomain_events (s : State) (m : Nat) (f : Domain → Domain) : (s.modDomain m f).events = s.events := by unfold State.modDomain; split <;> rfl
@[simp] theorem State.modDomain_reserve (s : State) (m : Nat) (f : Domain → Domain) : (s.modDomain m f).reserve = s.reserve := by unfold State.modDomain; split <;> rfl
@[simp] theorem State.modDomain_evHeld (s : State) (m : Nat) (f : Domain → Domain) : (s.modDomain m f).evHeld = s.evHeld := by unfold State.modDomain; split <;> rfl
@[simp] theorem State.modDomain_lostn (s : State) (m : Nat) (f : Domain → Domain) : (s.modDomain m f).lostn = s.lostn := by unfold State.modDomain; split <;> rfl
@[simp] theorem State.modDomain_evOut (s : State) (m : Nat) (f : Domain → Domain) : (s.modDomain m f).evOut = s.evOut := by unfold State.modDomain; split <;> rfl
@[simp] theorem State.modDomain_responses (s : State) (m : Nat) (f : Domain → Domain) : (s.modDomain m f).responses = s.responses := by unfold State.modDomain; split <;> rfl
@[simp] theorem State.modDomain_features (s : State) (m : Nat) (f : Domain → Domain) : (s.modDomain m f).features = s.features := by unfold State.modDomain; split <;> rfl
@[simp] theorem State.modDomain_cxl (s : State) (m : Nat) (f : Domain → Domain) : (s.modDomain m f).cxl = s.cxl := by unfold State.modDomain; split <;> rfl
@[simp] theorem State.modDomain_cxlHidden (s : State) (m : Nat) (f : Domain → Domain) : (s.modDomain m f).cxlHidden = s.cxlHidden := by unfold State.modDomain; split <;> rfl
@[simp] theorem State.modDomain_lto (s : State) (m : Nat) (f : Domain → Domain) : (s.modDomain m f).lto = s.lto := by unfold State.modDomain; split <;> rfl
@[simp] theorem State.modDomain_peers (s : State) (m : Nat) (f : Domain → Domain) : (s.modDomain m f).peers = s.peers := by unfold State.modDomain; split <;> rfl
@[simp] theorem State.modDomain_lost (s : State) (m : Nat) (f : Domain → Domain) : (s.modDomain m f).lost = s.lost := by unfold State.modDomain; split <;> rfl
@[simp] theorem State.modDomain_portsDown (s : State) (m : Nat) (f : Domain → Domain) : (s.modDomain m f).portsDown = s.portsDown := by unfold State.modDomain; split <;> rfl
@[simp] theorem State.modDomain_swapMem (s : State) (m : Nat) (f : Domain → Domain) : (s.modDomain m f).swapMem = s.swapMem := by unfold State.modDomain; split <;> rfl
@[simp] theorem State.modDomain_msgOut (s : State) (m : Nat) (f : Domain → Domain) : (s.modDomain m f).msgOut = s.msgOut := by unfold State.modDomain; split <;> rfl
@[simp] theorem State.modDomain_peerOut (s : State) (m : Nat) (f : Domain → Domain) : (s.modDomain m f).peerOut = s.peerOut := by unfold State.modDomain; split <;> rfl
@[simp] theorem State.modDomain_boot (s : State) (m : Nat) (f : Domain → Domain) : (s.modDomain m f).boot = s.boot := by unfold State.modDomain; split <;> rfl
@[simp] theorem State.modDomain_meas (s : State) (m : Nat) (f : Domain → Domain) : (s.modDomain m f).meas = s.meas := by unfold State.modDomain; split <;> rfl
@[simp] theorem State.modDomain_errlog (s : State) (m : Nat) (f : Domain → Domain) : (s.modDomain m f).errlog = s.errlog := by unfold State.modDomain; split <;> rfl
@[simp] theorem State.modDomain_corrected (s : State) (m : Nat) (f : Domain → Domain) : (s.modDomain m f).corrected = s.corrected := by unfold State.modDomain; split <;> rfl
@[simp] theorem State.modDomain_tickAt (s : State) (m : Nat) (f : Domain → Domain) : (s.modDomain m f).tickAt = s.tickAt := by unfold State.modDomain; split <;> rfl
@[simp] theorem State.modDomain_retired (s : State) (m : Nat) (f : Domain → Domain) : (s.modDomain m f).retired = s.retired := by unfold State.modDomain; split <;> rfl
@[simp] theorem State.modDomain_poison (s : State) (m : Nat) (f : Domain → Domain) : (s.modDomain m f).poison = s.poison := by unfold State.modDomain; split <;> rfl
@[simp] theorem State.modDomain_lsPoison (s : State) (m : Nat) (f : Domain → Domain) : (s.modDomain m f).lsPoison = s.lsPoison := by unfold State.modDomain; split <;> rfl
@[simp] theorem State.modDomain_vrsPoison (s : State) (m : Nat) (f : Domain → Domain) : (s.modDomain m f).vrsPoison = s.vrsPoison := by unfold State.modDomain; split <;> rfl
@[simp] theorem State.modDomain_mem (s : State) (m : Nat) (f : Domain → Domain) : (s.modDomain m f).mem = s.mem := by unfold State.modDomain; split <;> rfl
@[simp] theorem State.modDomain_ls (s : State) (m : Nat) (f : Domain → Domain) : (s.modDomain m f).ls = s.ls := by unfold State.modDomain; split <;> rfl
@[simp] theorem State.modDomain_vrs (s : State) (m : Nat) (f : Domain → Domain) : (s.modDomain m f).vrs = s.vrs := by unfold State.modDomain; split <;> rfl
@[simp] theorem State.modDomain_acc (s : State) (m : Nat) (f : Domain → Domain) : (s.modDomain m f).acc = s.acc := by unfold State.modDomain; split <;> rfl

/-! ### State.modPart -/

@[simp] theorem State.modPart_cur (s : State) (n : Nat) (f : Partition → Partition) : (s.modPart n f).cur = s.cur := rfl
@[simp] theorem State.modPart_next (s : State) (n : Nat) (f : Partition → Partition) : (s.modPart n f).next = s.next := rfl
@[simp] theorem State.modPart_freeCtr (s : State) (n : Nat) (f : Partition → Partition) : (s.modPart n f).freeCtr = s.freeCtr := rfl
@[simp] theorem State.modPart_inbox (s : State) (n : Nat) (f : Partition → Partition) : (s.modPart n f).inbox = s.inbox := rfl
@[simp] theorem State.modPart_sealed (s : State) (n : Nat) (f : Partition → Partition) : (s.modPart n f).sealed = s.sealed := rfl
@[simp] theorem State.modPart_subj (s : State) (n : Nat) (f : Partition → Partition) : (s.modPart n f).subj = s.subj := rfl
@[simp] theorem State.modPart_gtime (s : State) (n : Nat) (f : Partition → Partition) : (s.modPart n f).gtime = s.gtime := rfl
@[simp] theorem State.modPart_ctxs (s : State) (n : Nat) (f : Partition → Partition) : (s.modPart n f).ctxs = s.ctxs := rfl
@[simp] theorem State.modPart_groups (s : State) (n : Nat) (f : Partition → Partition) : (s.modPart n f).groups = s.groups := rfl
@[simp] theorem State.modPart_teams (s : State) (n : Nat) (f : Partition → Partition) : (s.modPart n f).teams = s.teams := rfl
@[simp] theorem State.modPart_clusters (s : State) (n : Nat) (f : Partition → Partition) : (s.modPart n f).clusters = s.clusters := rfl
@[simp] theorem State.modPart_domains (s : State) (n : Nat) (f : Partition → Partition) : (s.modPart n f).domains = s.domains := rfl
@[simp] theorem State.modPart_lmap (s : State) (n : Nat) (f : Partition → Partition) : (s.modPart n f).lmap = s.lmap := rfl
@[simp] theorem State.modPart_longs (s : State) (n : Nat) (f : Partition → Partition) : (s.modPart n f).longs = s.longs := rfl
@[simp] theorem State.modPart_accesses (s : State) (n : Nat) (f : Partition → Partition) : (s.modPart n f).accesses = s.accesses := rfl
@[simp] theorem State.modPart_l1 (s : State) (n : Nat) (f : Partition → Partition) : (s.modPart n f).l1 = s.l1 := rfl
@[simp] theorem State.modPart_l1i (s : State) (n : Nat) (f : Partition → Partition) : (s.modPart n f).l1i = s.l1i := rfl
@[simp] theorem State.modPart_home (s : State) (n : Nat) (f : Partition → Partition) : (s.modPart n f).home = s.home := rfl
@[simp] theorem State.modPart_l2 (s : State) (n : Nat) (f : Partition → Partition) : (s.modPart n f).l2 = s.l2 := rfl
@[simp] theorem State.modPart_tcache (s : State) (n : Nat) (f : Partition → Partition) : (s.modPart n f).tcache = s.tcache := rfl
@[simp] theorem State.modPart_writes (s : State) (n : Nat) (f : Partition → Partition) : (s.modPart n f).writes = s.writes := rfl
@[simp] theorem State.modPart_reds (s : State) (n : Nat) (f : Partition → Partition) : (s.modPart n f).reds = s.reds := rfl
@[simp] theorem State.modPart_scops (s : State) (n : Nat) (f : Partition → Partition) : (s.modPart n f).scops = s.scops := rfl
@[simp] theorem State.modPart_scSeq (s : State) (n : Nat) (f : Partition → Partition) : (s.modPart n f).scSeq = s.scSeq := rfl
@[simp] theorem State.modPart_scTs (s : State) (n : Nat) (f : Partition → Partition) : (s.modPart n f).scTs = s.scTs := rfl
@[simp] theorem State.modPart_copies (s : State) (n : Nat) (f : Partition → Partition) : (s.modPart n f).copies = s.copies := rfl
@[simp] theorem State.modPart_colls (s : State) (n : Nat) (f : Partition → Partition) : (s.modPart n f).colls = s.colls := rfl
@[simp] theorem State.modPart_contribs (s : State) (n : Nat) (f : Partition → Partition) : (s.modPart n f).contribs = s.contribs := rfl
@[simp] theorem State.modPart_decided (s : State) (n : Nat) (f : Partition → Partition) : (s.modPart n f).decided = s.decided := rfl
@[simp] theorem State.modPart_comms (s : State) (n : Nat) (f : Partition → Partition) : (s.modPart n f).comms = s.comms := rfl
@[simp] theorem State.modPart_ocq (s : State) (n : Nat) (f : Partition → Partition) : (s.modPart n f).ocq = s.ocq := rfl
@[simp] theorem State.modPart_ocNext (s : State) (n : Nat) (f : Partition → Partition) : (s.modPart n f).ocNext = s.ocNext := rfl
@[simp] theorem State.modPart_sinter (s : State) (n : Nat) (f : Partition → Partition) : (s.modPart n f).sinter = s.sinter := rfl
@[simp] theorem State.modPart_pins (s : State) (n : Nat) (f : Partition → Partition) : (s.modPart n f).pins = s.pins := rfl
@[simp] theorem State.modPart_compiles (s : State) (n : Nat) (f : Partition → Partition) : (s.modPart n f).compiles = s.compiles := rfl
@[simp] theorem State.modPart_faults (s : State) (n : Nat) (f : Partition → Partition) : (s.modPart n f).faults = s.faults := rfl
@[simp] theorem State.modPart_kills (s : State) (n : Nat) (f : Partition → Partition) : (s.modPart n f).kills = s.kills := rfl
@[simp] theorem State.modPart_killWait (s : State) (n : Nat) (f : Partition → Partition) : (s.modPart n f).killWait = s.killWait := rfl
@[simp] theorem State.modPart_tasks (s : State) (n : Nat) (f : Partition → Partition) : (s.modPart n f).tasks = s.tasks := rfl
@[simp] theorem State.modPart_captures (s : State) (n : Nat) (f : Partition → Partition) : (s.modPart n f).captures = s.captures := rfl
@[simp] theorem State.modPart_packets (s : State) (n : Nat) (f : Partition → Partition) : (s.modPart n f).packets = s.packets := rfl
@[simp] theorem State.modPart_events (s : State) (n : Nat) (f : Partition → Partition) : (s.modPart n f).events = s.events := rfl
@[simp] theorem State.modPart_reserve (s : State) (n : Nat) (f : Partition → Partition) : (s.modPart n f).reserve = s.reserve := rfl
@[simp] theorem State.modPart_evHeld (s : State) (n : Nat) (f : Partition → Partition) : (s.modPart n f).evHeld = s.evHeld := rfl
@[simp] theorem State.modPart_lostn (s : State) (n : Nat) (f : Partition → Partition) : (s.modPart n f).lostn = s.lostn := rfl
@[simp] theorem State.modPart_evOut (s : State) (n : Nat) (f : Partition → Partition) : (s.modPart n f).evOut = s.evOut := rfl
@[simp] theorem State.modPart_responses (s : State) (n : Nat) (f : Partition → Partition) : (s.modPart n f).responses = s.responses := rfl
@[simp] theorem State.modPart_features (s : State) (n : Nat) (f : Partition → Partition) : (s.modPart n f).features = s.features := rfl
@[simp] theorem State.modPart_cxl (s : State) (n : Nat) (f : Partition → Partition) : (s.modPart n f).cxl = s.cxl := rfl
@[simp] theorem State.modPart_cxlHidden (s : State) (n : Nat) (f : Partition → Partition) : (s.modPart n f).cxlHidden = s.cxlHidden := rfl
@[simp] theorem State.modPart_lto (s : State) (n : Nat) (f : Partition → Partition) : (s.modPart n f).lto = s.lto := rfl
@[simp] theorem State.modPart_peers (s : State) (n : Nat) (f : Partition → Partition) : (s.modPart n f).peers = s.peers := rfl
@[simp] theorem State.modPart_lost (s : State) (n : Nat) (f : Partition → Partition) : (s.modPart n f).lost = s.lost := rfl
@[simp] theorem State.modPart_portsDown (s : State) (n : Nat) (f : Partition → Partition) : (s.modPart n f).portsDown = s.portsDown := rfl
@[simp] theorem State.modPart_swapMem (s : State) (n : Nat) (f : Partition → Partition) : (s.modPart n f).swapMem = s.swapMem := rfl
@[simp] theorem State.modPart_msgOut (s : State) (n : Nat) (f : Partition → Partition) : (s.modPart n f).msgOut = s.msgOut := rfl
@[simp] theorem State.modPart_peerOut (s : State) (n : Nat) (f : Partition → Partition) : (s.modPart n f).peerOut = s.peerOut := rfl
@[simp] theorem State.modPart_boot (s : State) (n : Nat) (f : Partition → Partition) : (s.modPart n f).boot = s.boot := rfl
@[simp] theorem State.modPart_meas (s : State) (n : Nat) (f : Partition → Partition) : (s.modPart n f).meas = s.meas := rfl
@[simp] theorem State.modPart_errlog (s : State) (n : Nat) (f : Partition → Partition) : (s.modPart n f).errlog = s.errlog := rfl
@[simp] theorem State.modPart_corrected (s : State) (n : Nat) (f : Partition → Partition) : (s.modPart n f).corrected = s.corrected := rfl
@[simp] theorem State.modPart_tickAt (s : State) (n : Nat) (f : Partition → Partition) : (s.modPart n f).tickAt = s.tickAt := rfl
@[simp] theorem State.modPart_retired (s : State) (n : Nat) (f : Partition → Partition) : (s.modPart n f).retired = s.retired := rfl
@[simp] theorem State.modPart_poison (s : State) (n : Nat) (f : Partition → Partition) : (s.modPart n f).poison = s.poison := rfl
@[simp] theorem State.modPart_lsPoison (s : State) (n : Nat) (f : Partition → Partition) : (s.modPart n f).lsPoison = s.lsPoison := rfl
@[simp] theorem State.modPart_vrsPoison (s : State) (n : Nat) (f : Partition → Partition) : (s.modPart n f).vrsPoison = s.vrsPoison := rfl
@[simp] theorem State.modPart_mem (s : State) (n : Nat) (f : Partition → Partition) : (s.modPart n f).mem = s.mem := rfl
@[simp] theorem State.modPart_ls (s : State) (n : Nat) (f : Partition → Partition) : (s.modPart n f).ls = s.ls := rfl
@[simp] theorem State.modPart_vrs (s : State) (n : Nat) (f : Partition → Partition) : (s.modPart n f).vrs = s.vrs := rfl
@[simp] theorem State.modPart_acc (s : State) (n : Nat) (f : Partition → Partition) : (s.modPart n f).acc = s.acc := rfl

/-! ### State.modTeam -/

@[simp] theorem State.modTeam_cur (s : State) (cl num : Nat) (f : Team → Team) : (s.modTeam cl num f).cur = s.cur := rfl
@[simp] theorem State.modTeam_next (s : State) (cl num : Nat) (f : Team → Team) : (s.modTeam cl num f).next = s.next := rfl
@[simp] theorem State.modTeam_freeCtr (s : State) (cl num : Nat) (f : Team → Team) : (s.modTeam cl num f).freeCtr = s.freeCtr := rfl
@[simp] theorem State.modTeam_inbox (s : State) (cl num : Nat) (f : Team → Team) : (s.modTeam cl num f).inbox = s.inbox := rfl
@[simp] theorem State.modTeam_sealed (s : State) (cl num : Nat) (f : Team → Team) : (s.modTeam cl num f).sealed = s.sealed := rfl
@[simp] theorem State.modTeam_subj (s : State) (cl num : Nat) (f : Team → Team) : (s.modTeam cl num f).subj = s.subj := rfl
@[simp] theorem State.modTeam_gtime (s : State) (cl num : Nat) (f : Team → Team) : (s.modTeam cl num f).gtime = s.gtime := rfl
@[simp] theorem State.modTeam_ctxs (s : State) (cl num : Nat) (f : Team → Team) : (s.modTeam cl num f).ctxs = s.ctxs := rfl
@[simp] theorem State.modTeam_groups (s : State) (cl num : Nat) (f : Team → Team) : (s.modTeam cl num f).groups = s.groups := rfl
@[simp] theorem State.modTeam_clusters (s : State) (cl num : Nat) (f : Team → Team) : (s.modTeam cl num f).clusters = s.clusters := rfl
@[simp] theorem State.modTeam_domains (s : State) (cl num : Nat) (f : Team → Team) : (s.modTeam cl num f).domains = s.domains := rfl
@[simp] theorem State.modTeam_parts (s : State) (cl num : Nat) (f : Team → Team) : (s.modTeam cl num f).parts = s.parts := rfl
@[simp] theorem State.modTeam_lmap (s : State) (cl num : Nat) (f : Team → Team) : (s.modTeam cl num f).lmap = s.lmap := rfl
@[simp] theorem State.modTeam_longs (s : State) (cl num : Nat) (f : Team → Team) : (s.modTeam cl num f).longs = s.longs := rfl
@[simp] theorem State.modTeam_accesses (s : State) (cl num : Nat) (f : Team → Team) : (s.modTeam cl num f).accesses = s.accesses := rfl
@[simp] theorem State.modTeam_l1 (s : State) (cl num : Nat) (f : Team → Team) : (s.modTeam cl num f).l1 = s.l1 := rfl
@[simp] theorem State.modTeam_l1i (s : State) (cl num : Nat) (f : Team → Team) : (s.modTeam cl num f).l1i = s.l1i := rfl
@[simp] theorem State.modTeam_home (s : State) (cl num : Nat) (f : Team → Team) : (s.modTeam cl num f).home = s.home := rfl
@[simp] theorem State.modTeam_l2 (s : State) (cl num : Nat) (f : Team → Team) : (s.modTeam cl num f).l2 = s.l2 := rfl
@[simp] theorem State.modTeam_tcache (s : State) (cl num : Nat) (f : Team → Team) : (s.modTeam cl num f).tcache = s.tcache := rfl
@[simp] theorem State.modTeam_writes (s : State) (cl num : Nat) (f : Team → Team) : (s.modTeam cl num f).writes = s.writes := rfl
@[simp] theorem State.modTeam_reds (s : State) (cl num : Nat) (f : Team → Team) : (s.modTeam cl num f).reds = s.reds := rfl
@[simp] theorem State.modTeam_scops (s : State) (cl num : Nat) (f : Team → Team) : (s.modTeam cl num f).scops = s.scops := rfl
@[simp] theorem State.modTeam_scSeq (s : State) (cl num : Nat) (f : Team → Team) : (s.modTeam cl num f).scSeq = s.scSeq := rfl
@[simp] theorem State.modTeam_scTs (s : State) (cl num : Nat) (f : Team → Team) : (s.modTeam cl num f).scTs = s.scTs := rfl
@[simp] theorem State.modTeam_copies (s : State) (cl num : Nat) (f : Team → Team) : (s.modTeam cl num f).copies = s.copies := rfl
@[simp] theorem State.modTeam_colls (s : State) (cl num : Nat) (f : Team → Team) : (s.modTeam cl num f).colls = s.colls := rfl
@[simp] theorem State.modTeam_contribs (s : State) (cl num : Nat) (f : Team → Team) : (s.modTeam cl num f).contribs = s.contribs := rfl
@[simp] theorem State.modTeam_decided (s : State) (cl num : Nat) (f : Team → Team) : (s.modTeam cl num f).decided = s.decided := rfl
@[simp] theorem State.modTeam_comms (s : State) (cl num : Nat) (f : Team → Team) : (s.modTeam cl num f).comms = s.comms := rfl
@[simp] theorem State.modTeam_ocq (s : State) (cl num : Nat) (f : Team → Team) : (s.modTeam cl num f).ocq = s.ocq := rfl
@[simp] theorem State.modTeam_ocNext (s : State) (cl num : Nat) (f : Team → Team) : (s.modTeam cl num f).ocNext = s.ocNext := rfl
@[simp] theorem State.modTeam_sinter (s : State) (cl num : Nat) (f : Team → Team) : (s.modTeam cl num f).sinter = s.sinter := rfl
@[simp] theorem State.modTeam_pins (s : State) (cl num : Nat) (f : Team → Team) : (s.modTeam cl num f).pins = s.pins := rfl
@[simp] theorem State.modTeam_compiles (s : State) (cl num : Nat) (f : Team → Team) : (s.modTeam cl num f).compiles = s.compiles := rfl
@[simp] theorem State.modTeam_faults (s : State) (cl num : Nat) (f : Team → Team) : (s.modTeam cl num f).faults = s.faults := rfl
@[simp] theorem State.modTeam_kills (s : State) (cl num : Nat) (f : Team → Team) : (s.modTeam cl num f).kills = s.kills := rfl
@[simp] theorem State.modTeam_killWait (s : State) (cl num : Nat) (f : Team → Team) : (s.modTeam cl num f).killWait = s.killWait := rfl
@[simp] theorem State.modTeam_tasks (s : State) (cl num : Nat) (f : Team → Team) : (s.modTeam cl num f).tasks = s.tasks := rfl
@[simp] theorem State.modTeam_captures (s : State) (cl num : Nat) (f : Team → Team) : (s.modTeam cl num f).captures = s.captures := rfl
@[simp] theorem State.modTeam_packets (s : State) (cl num : Nat) (f : Team → Team) : (s.modTeam cl num f).packets = s.packets := rfl
@[simp] theorem State.modTeam_events (s : State) (cl num : Nat) (f : Team → Team) : (s.modTeam cl num f).events = s.events := rfl
@[simp] theorem State.modTeam_reserve (s : State) (cl num : Nat) (f : Team → Team) : (s.modTeam cl num f).reserve = s.reserve := rfl
@[simp] theorem State.modTeam_evHeld (s : State) (cl num : Nat) (f : Team → Team) : (s.modTeam cl num f).evHeld = s.evHeld := rfl
@[simp] theorem State.modTeam_lostn (s : State) (cl num : Nat) (f : Team → Team) : (s.modTeam cl num f).lostn = s.lostn := rfl
@[simp] theorem State.modTeam_evOut (s : State) (cl num : Nat) (f : Team → Team) : (s.modTeam cl num f).evOut = s.evOut := rfl
@[simp] theorem State.modTeam_responses (s : State) (cl num : Nat) (f : Team → Team) : (s.modTeam cl num f).responses = s.responses := rfl
@[simp] theorem State.modTeam_features (s : State) (cl num : Nat) (f : Team → Team) : (s.modTeam cl num f).features = s.features := rfl
@[simp] theorem State.modTeam_cxl (s : State) (cl num : Nat) (f : Team → Team) : (s.modTeam cl num f).cxl = s.cxl := rfl
@[simp] theorem State.modTeam_cxlHidden (s : State) (cl num : Nat) (f : Team → Team) : (s.modTeam cl num f).cxlHidden = s.cxlHidden := rfl
@[simp] theorem State.modTeam_lto (s : State) (cl num : Nat) (f : Team → Team) : (s.modTeam cl num f).lto = s.lto := rfl
@[simp] theorem State.modTeam_peers (s : State) (cl num : Nat) (f : Team → Team) : (s.modTeam cl num f).peers = s.peers := rfl
@[simp] theorem State.modTeam_lost (s : State) (cl num : Nat) (f : Team → Team) : (s.modTeam cl num f).lost = s.lost := rfl
@[simp] theorem State.modTeam_portsDown (s : State) (cl num : Nat) (f : Team → Team) : (s.modTeam cl num f).portsDown = s.portsDown := rfl
@[simp] theorem State.modTeam_swapMem (s : State) (cl num : Nat) (f : Team → Team) : (s.modTeam cl num f).swapMem = s.swapMem := rfl
@[simp] theorem State.modTeam_msgOut (s : State) (cl num : Nat) (f : Team → Team) : (s.modTeam cl num f).msgOut = s.msgOut := rfl
@[simp] theorem State.modTeam_peerOut (s : State) (cl num : Nat) (f : Team → Team) : (s.modTeam cl num f).peerOut = s.peerOut := rfl
@[simp] theorem State.modTeam_boot (s : State) (cl num : Nat) (f : Team → Team) : (s.modTeam cl num f).boot = s.boot := rfl
@[simp] theorem State.modTeam_meas (s : State) (cl num : Nat) (f : Team → Team) : (s.modTeam cl num f).meas = s.meas := rfl
@[simp] theorem State.modTeam_errlog (s : State) (cl num : Nat) (f : Team → Team) : (s.modTeam cl num f).errlog = s.errlog := rfl
@[simp] theorem State.modTeam_corrected (s : State) (cl num : Nat) (f : Team → Team) : (s.modTeam cl num f).corrected = s.corrected := rfl
@[simp] theorem State.modTeam_tickAt (s : State) (cl num : Nat) (f : Team → Team) : (s.modTeam cl num f).tickAt = s.tickAt := rfl
@[simp] theorem State.modTeam_retired (s : State) (cl num : Nat) (f : Team → Team) : (s.modTeam cl num f).retired = s.retired := rfl
@[simp] theorem State.modTeam_poison (s : State) (cl num : Nat) (f : Team → Team) : (s.modTeam cl num f).poison = s.poison := rfl
@[simp] theorem State.modTeam_lsPoison (s : State) (cl num : Nat) (f : Team → Team) : (s.modTeam cl num f).lsPoison = s.lsPoison := rfl
@[simp] theorem State.modTeam_vrsPoison (s : State) (cl num : Nat) (f : Team → Team) : (s.modTeam cl num f).vrsPoison = s.vrsPoison := rfl
@[simp] theorem State.modTeam_mem (s : State) (cl num : Nat) (f : Team → Team) : (s.modTeam cl num f).mem = s.mem := rfl
@[simp] theorem State.modTeam_ls (s : State) (cl num : Nat) (f : Team → Team) : (s.modTeam cl num f).ls = s.ls := rfl
@[simp] theorem State.modTeam_vrs (s : State) (cl num : Nat) (f : Team → Team) : (s.modTeam cl num f).vrs = s.vrs := rfl
@[simp] theorem State.modTeam_acc (s : State) (cl num : Nat) (f : Team → Team) : (s.modTeam cl num f).acc = s.acc := rfl

/-! ### State.modTask -/

@[simp] theorem State.modTask_cur (s : State) (part idx : Nat) (f : Task → Task) : (s.modTask part idx f).cur = s.cur := rfl
@[simp] theorem State.modTask_next (s : State) (part idx : Nat) (f : Task → Task) : (s.modTask part idx f).next = s.next := rfl
@[simp] theorem State.modTask_freeCtr (s : State) (part idx : Nat) (f : Task → Task) : (s.modTask part idx f).freeCtr = s.freeCtr := rfl
@[simp] theorem State.modTask_inbox (s : State) (part idx : Nat) (f : Task → Task) : (s.modTask part idx f).inbox = s.inbox := rfl
@[simp] theorem State.modTask_sealed (s : State) (part idx : Nat) (f : Task → Task) : (s.modTask part idx f).sealed = s.sealed := rfl
@[simp] theorem State.modTask_subj (s : State) (part idx : Nat) (f : Task → Task) : (s.modTask part idx f).subj = s.subj := rfl
@[simp] theorem State.modTask_gtime (s : State) (part idx : Nat) (f : Task → Task) : (s.modTask part idx f).gtime = s.gtime := rfl
@[simp] theorem State.modTask_ctxs (s : State) (part idx : Nat) (f : Task → Task) : (s.modTask part idx f).ctxs = s.ctxs := rfl
@[simp] theorem State.modTask_groups (s : State) (part idx : Nat) (f : Task → Task) : (s.modTask part idx f).groups = s.groups := rfl
@[simp] theorem State.modTask_teams (s : State) (part idx : Nat) (f : Task → Task) : (s.modTask part idx f).teams = s.teams := rfl
@[simp] theorem State.modTask_clusters (s : State) (part idx : Nat) (f : Task → Task) : (s.modTask part idx f).clusters = s.clusters := rfl
@[simp] theorem State.modTask_domains (s : State) (part idx : Nat) (f : Task → Task) : (s.modTask part idx f).domains = s.domains := rfl
@[simp] theorem State.modTask_parts (s : State) (part idx : Nat) (f : Task → Task) : (s.modTask part idx f).parts = s.parts := rfl
@[simp] theorem State.modTask_lmap (s : State) (part idx : Nat) (f : Task → Task) : (s.modTask part idx f).lmap = s.lmap := rfl
@[simp] theorem State.modTask_longs (s : State) (part idx : Nat) (f : Task → Task) : (s.modTask part idx f).longs = s.longs := rfl
@[simp] theorem State.modTask_accesses (s : State) (part idx : Nat) (f : Task → Task) : (s.modTask part idx f).accesses = s.accesses := rfl
@[simp] theorem State.modTask_l1 (s : State) (part idx : Nat) (f : Task → Task) : (s.modTask part idx f).l1 = s.l1 := rfl
@[simp] theorem State.modTask_l1i (s : State) (part idx : Nat) (f : Task → Task) : (s.modTask part idx f).l1i = s.l1i := rfl
@[simp] theorem State.modTask_home (s : State) (part idx : Nat) (f : Task → Task) : (s.modTask part idx f).home = s.home := rfl
@[simp] theorem State.modTask_l2 (s : State) (part idx : Nat) (f : Task → Task) : (s.modTask part idx f).l2 = s.l2 := rfl
@[simp] theorem State.modTask_tcache (s : State) (part idx : Nat) (f : Task → Task) : (s.modTask part idx f).tcache = s.tcache := rfl
@[simp] theorem State.modTask_writes (s : State) (part idx : Nat) (f : Task → Task) : (s.modTask part idx f).writes = s.writes := rfl
@[simp] theorem State.modTask_reds (s : State) (part idx : Nat) (f : Task → Task) : (s.modTask part idx f).reds = s.reds := rfl
@[simp] theorem State.modTask_scops (s : State) (part idx : Nat) (f : Task → Task) : (s.modTask part idx f).scops = s.scops := rfl
@[simp] theorem State.modTask_scSeq (s : State) (part idx : Nat) (f : Task → Task) : (s.modTask part idx f).scSeq = s.scSeq := rfl
@[simp] theorem State.modTask_scTs (s : State) (part idx : Nat) (f : Task → Task) : (s.modTask part idx f).scTs = s.scTs := rfl
@[simp] theorem State.modTask_copies (s : State) (part idx : Nat) (f : Task → Task) : (s.modTask part idx f).copies = s.copies := rfl
@[simp] theorem State.modTask_colls (s : State) (part idx : Nat) (f : Task → Task) : (s.modTask part idx f).colls = s.colls := rfl
@[simp] theorem State.modTask_contribs (s : State) (part idx : Nat) (f : Task → Task) : (s.modTask part idx f).contribs = s.contribs := rfl
@[simp] theorem State.modTask_decided (s : State) (part idx : Nat) (f : Task → Task) : (s.modTask part idx f).decided = s.decided := rfl
@[simp] theorem State.modTask_comms (s : State) (part idx : Nat) (f : Task → Task) : (s.modTask part idx f).comms = s.comms := rfl
@[simp] theorem State.modTask_ocq (s : State) (part idx : Nat) (f : Task → Task) : (s.modTask part idx f).ocq = s.ocq := rfl
@[simp] theorem State.modTask_ocNext (s : State) (part idx : Nat) (f : Task → Task) : (s.modTask part idx f).ocNext = s.ocNext := rfl
@[simp] theorem State.modTask_sinter (s : State) (part idx : Nat) (f : Task → Task) : (s.modTask part idx f).sinter = s.sinter := rfl
@[simp] theorem State.modTask_pins (s : State) (part idx : Nat) (f : Task → Task) : (s.modTask part idx f).pins = s.pins := rfl
@[simp] theorem State.modTask_compiles (s : State) (part idx : Nat) (f : Task → Task) : (s.modTask part idx f).compiles = s.compiles := rfl
@[simp] theorem State.modTask_faults (s : State) (part idx : Nat) (f : Task → Task) : (s.modTask part idx f).faults = s.faults := rfl
@[simp] theorem State.modTask_kills (s : State) (part idx : Nat) (f : Task → Task) : (s.modTask part idx f).kills = s.kills := rfl
@[simp] theorem State.modTask_killWait (s : State) (part idx : Nat) (f : Task → Task) : (s.modTask part idx f).killWait = s.killWait := rfl
@[simp] theorem State.modTask_captures (s : State) (part idx : Nat) (f : Task → Task) : (s.modTask part idx f).captures = s.captures := rfl
@[simp] theorem State.modTask_packets (s : State) (part idx : Nat) (f : Task → Task) : (s.modTask part idx f).packets = s.packets := rfl
@[simp] theorem State.modTask_events (s : State) (part idx : Nat) (f : Task → Task) : (s.modTask part idx f).events = s.events := rfl
@[simp] theorem State.modTask_reserve (s : State) (part idx : Nat) (f : Task → Task) : (s.modTask part idx f).reserve = s.reserve := rfl
@[simp] theorem State.modTask_evHeld (s : State) (part idx : Nat) (f : Task → Task) : (s.modTask part idx f).evHeld = s.evHeld := rfl
@[simp] theorem State.modTask_lostn (s : State) (part idx : Nat) (f : Task → Task) : (s.modTask part idx f).lostn = s.lostn := rfl
@[simp] theorem State.modTask_evOut (s : State) (part idx : Nat) (f : Task → Task) : (s.modTask part idx f).evOut = s.evOut := rfl
@[simp] theorem State.modTask_responses (s : State) (part idx : Nat) (f : Task → Task) : (s.modTask part idx f).responses = s.responses := rfl
@[simp] theorem State.modTask_features (s : State) (part idx : Nat) (f : Task → Task) : (s.modTask part idx f).features = s.features := rfl
@[simp] theorem State.modTask_cxl (s : State) (part idx : Nat) (f : Task → Task) : (s.modTask part idx f).cxl = s.cxl := rfl
@[simp] theorem State.modTask_cxlHidden (s : State) (part idx : Nat) (f : Task → Task) : (s.modTask part idx f).cxlHidden = s.cxlHidden := rfl
@[simp] theorem State.modTask_lto (s : State) (part idx : Nat) (f : Task → Task) : (s.modTask part idx f).lto = s.lto := rfl
@[simp] theorem State.modTask_peers (s : State) (part idx : Nat) (f : Task → Task) : (s.modTask part idx f).peers = s.peers := rfl
@[simp] theorem State.modTask_lost (s : State) (part idx : Nat) (f : Task → Task) : (s.modTask part idx f).lost = s.lost := rfl
@[simp] theorem State.modTask_portsDown (s : State) (part idx : Nat) (f : Task → Task) : (s.modTask part idx f).portsDown = s.portsDown := rfl
@[simp] theorem State.modTask_swapMem (s : State) (part idx : Nat) (f : Task → Task) : (s.modTask part idx f).swapMem = s.swapMem := rfl
@[simp] theorem State.modTask_msgOut (s : State) (part idx : Nat) (f : Task → Task) : (s.modTask part idx f).msgOut = s.msgOut := rfl
@[simp] theorem State.modTask_peerOut (s : State) (part idx : Nat) (f : Task → Task) : (s.modTask part idx f).peerOut = s.peerOut := rfl
@[simp] theorem State.modTask_boot (s : State) (part idx : Nat) (f : Task → Task) : (s.modTask part idx f).boot = s.boot := rfl
@[simp] theorem State.modTask_meas (s : State) (part idx : Nat) (f : Task → Task) : (s.modTask part idx f).meas = s.meas := rfl
@[simp] theorem State.modTask_errlog (s : State) (part idx : Nat) (f : Task → Task) : (s.modTask part idx f).errlog = s.errlog := rfl
@[simp] theorem State.modTask_corrected (s : State) (part idx : Nat) (f : Task → Task) : (s.modTask part idx f).corrected = s.corrected := rfl
@[simp] theorem State.modTask_tickAt (s : State) (part idx : Nat) (f : Task → Task) : (s.modTask part idx f).tickAt = s.tickAt := rfl
@[simp] theorem State.modTask_retired (s : State) (part idx : Nat) (f : Task → Task) : (s.modTask part idx f).retired = s.retired := rfl
@[simp] theorem State.modTask_poison (s : State) (part idx : Nat) (f : Task → Task) : (s.modTask part idx f).poison = s.poison := rfl
@[simp] theorem State.modTask_lsPoison (s : State) (part idx : Nat) (f : Task → Task) : (s.modTask part idx f).lsPoison = s.lsPoison := rfl
@[simp] theorem State.modTask_vrsPoison (s : State) (part idx : Nat) (f : Task → Task) : (s.modTask part idx f).vrsPoison = s.vrsPoison := rfl
@[simp] theorem State.modTask_mem (s : State) (part idx : Nat) (f : Task → Task) : (s.modTask part idx f).mem = s.mem := rfl
@[simp] theorem State.modTask_ls (s : State) (part idx : Nat) (f : Task → Task) : (s.modTask part idx f).ls = s.ls := rfl
@[simp] theorem State.modTask_vrs (s : State) (part idx : Nat) (f : Task → Task) : (s.modTask part idx f).vrs = s.vrs := rfl
@[simp] theorem State.modTask_acc (s : State) (part idx : Nat) (f : Task → Task) : (s.modTask part idx f).acc = s.acc := rfl

/-! ### State.freshFree -/

@[simp] theorem State.freshFree_fst (s : State) : s.freshFree.1 = Config.free s.freeCtr := rfl
@[simp] theorem State.freshFree_cur (s : State) : s.freshFree.2.cur = s.cur := rfl
@[simp] theorem State.freshFree_next (s : State) : s.freshFree.2.next = s.next := rfl
@[simp] theorem State.freshFree_freeCtr (s : State) : s.freshFree.2.freeCtr = s.freeCtr + 1 := rfl
@[simp] theorem State.freshFree_inbox (s : State) : s.freshFree.2.inbox = s.inbox := rfl
@[simp] theorem State.freshFree_sealed (s : State) : s.freshFree.2.sealed = s.sealed := rfl
@[simp] theorem State.freshFree_subj (s : State) : s.freshFree.2.subj = s.subj := rfl
@[simp] theorem State.freshFree_gtime (s : State) : s.freshFree.2.gtime = s.gtime := rfl
@[simp] theorem State.freshFree_ctxs (s : State) : s.freshFree.2.ctxs = s.ctxs := rfl
@[simp] theorem State.freshFree_groups (s : State) : s.freshFree.2.groups = s.groups := rfl
@[simp] theorem State.freshFree_teams (s : State) : s.freshFree.2.teams = s.teams := rfl
@[simp] theorem State.freshFree_clusters (s : State) : s.freshFree.2.clusters = s.clusters := rfl
@[simp] theorem State.freshFree_domains (s : State) : s.freshFree.2.domains = s.domains := rfl
@[simp] theorem State.freshFree_parts (s : State) : s.freshFree.2.parts = s.parts := rfl
@[simp] theorem State.freshFree_lmap (s : State) : s.freshFree.2.lmap = s.lmap := rfl
@[simp] theorem State.freshFree_longs (s : State) : s.freshFree.2.longs = s.longs := rfl
@[simp] theorem State.freshFree_accesses (s : State) : s.freshFree.2.accesses = s.accesses := rfl
@[simp] theorem State.freshFree_l1 (s : State) : s.freshFree.2.l1 = s.l1 := rfl
@[simp] theorem State.freshFree_l1i (s : State) : s.freshFree.2.l1i = s.l1i := rfl
@[simp] theorem State.freshFree_home (s : State) : s.freshFree.2.home = s.home := rfl
@[simp] theorem State.freshFree_l2 (s : State) : s.freshFree.2.l2 = s.l2 := rfl
@[simp] theorem State.freshFree_tcache (s : State) : s.freshFree.2.tcache = s.tcache := rfl
@[simp] theorem State.freshFree_writes (s : State) : s.freshFree.2.writes = s.writes := rfl
@[simp] theorem State.freshFree_reds (s : State) : s.freshFree.2.reds = s.reds := rfl
@[simp] theorem State.freshFree_scops (s : State) : s.freshFree.2.scops = s.scops := rfl
@[simp] theorem State.freshFree_scSeq (s : State) : s.freshFree.2.scSeq = s.scSeq := rfl
@[simp] theorem State.freshFree_scTs (s : State) : s.freshFree.2.scTs = s.scTs := rfl
@[simp] theorem State.freshFree_copies (s : State) : s.freshFree.2.copies = s.copies := rfl
@[simp] theorem State.freshFree_colls (s : State) : s.freshFree.2.colls = s.colls := rfl
@[simp] theorem State.freshFree_contribs (s : State) : s.freshFree.2.contribs = s.contribs := rfl
@[simp] theorem State.freshFree_decided (s : State) : s.freshFree.2.decided = s.decided := rfl
@[simp] theorem State.freshFree_comms (s : State) : s.freshFree.2.comms = s.comms := rfl
@[simp] theorem State.freshFree_ocq (s : State) : s.freshFree.2.ocq = s.ocq := rfl
@[simp] theorem State.freshFree_ocNext (s : State) : s.freshFree.2.ocNext = s.ocNext := rfl
@[simp] theorem State.freshFree_sinter (s : State) : s.freshFree.2.sinter = s.sinter := rfl
@[simp] theorem State.freshFree_pins (s : State) : s.freshFree.2.pins = s.pins := rfl
@[simp] theorem State.freshFree_compiles (s : State) : s.freshFree.2.compiles = s.compiles := rfl
@[simp] theorem State.freshFree_faults (s : State) : s.freshFree.2.faults = s.faults := rfl
@[simp] theorem State.freshFree_kills (s : State) : s.freshFree.2.kills = s.kills := rfl
@[simp] theorem State.freshFree_killWait (s : State) : s.freshFree.2.killWait = s.killWait := rfl
@[simp] theorem State.freshFree_tasks (s : State) : s.freshFree.2.tasks = s.tasks := rfl
@[simp] theorem State.freshFree_captures (s : State) : s.freshFree.2.captures = s.captures := rfl
@[simp] theorem State.freshFree_packets (s : State) : s.freshFree.2.packets = s.packets := rfl
@[simp] theorem State.freshFree_events (s : State) : s.freshFree.2.events = s.events := rfl
@[simp] theorem State.freshFree_reserve (s : State) : s.freshFree.2.reserve = s.reserve := rfl
@[simp] theorem State.freshFree_evHeld (s : State) : s.freshFree.2.evHeld = s.evHeld := rfl
@[simp] theorem State.freshFree_lostn (s : State) : s.freshFree.2.lostn = s.lostn := rfl
@[simp] theorem State.freshFree_evOut (s : State) : s.freshFree.2.evOut = s.evOut := rfl
@[simp] theorem State.freshFree_responses (s : State) : s.freshFree.2.responses = s.responses := rfl
@[simp] theorem State.freshFree_features (s : State) : s.freshFree.2.features = s.features := rfl
@[simp] theorem State.freshFree_cxl (s : State) : s.freshFree.2.cxl = s.cxl := rfl
@[simp] theorem State.freshFree_cxlHidden (s : State) : s.freshFree.2.cxlHidden = s.cxlHidden := rfl
@[simp] theorem State.freshFree_lto (s : State) : s.freshFree.2.lto = s.lto := rfl
@[simp] theorem State.freshFree_peers (s : State) : s.freshFree.2.peers = s.peers := rfl
@[simp] theorem State.freshFree_lost (s : State) : s.freshFree.2.lost = s.lost := rfl
@[simp] theorem State.freshFree_portsDown (s : State) : s.freshFree.2.portsDown = s.portsDown := rfl
@[simp] theorem State.freshFree_swapMem (s : State) : s.freshFree.2.swapMem = s.swapMem := rfl
@[simp] theorem State.freshFree_msgOut (s : State) : s.freshFree.2.msgOut = s.msgOut := rfl
@[simp] theorem State.freshFree_peerOut (s : State) : s.freshFree.2.peerOut = s.peerOut := rfl
@[simp] theorem State.freshFree_boot (s : State) : s.freshFree.2.boot = s.boot := rfl
@[simp] theorem State.freshFree_meas (s : State) : s.freshFree.2.meas = s.meas := rfl
@[simp] theorem State.freshFree_errlog (s : State) : s.freshFree.2.errlog = s.errlog := rfl
@[simp] theorem State.freshFree_corrected (s : State) : s.freshFree.2.corrected = s.corrected := rfl
@[simp] theorem State.freshFree_tickAt (s : State) : s.freshFree.2.tickAt = s.tickAt := rfl
@[simp] theorem State.freshFree_retired (s : State) : s.freshFree.2.retired = s.retired := rfl
@[simp] theorem State.freshFree_poison (s : State) : s.freshFree.2.poison = s.poison := rfl
@[simp] theorem State.freshFree_lsPoison (s : State) : s.freshFree.2.lsPoison = s.lsPoison := rfl
@[simp] theorem State.freshFree_vrsPoison (s : State) : s.freshFree.2.vrsPoison = s.vrsPoison := rfl
@[simp] theorem State.freshFree_mem (s : State) : s.freshFree.2.mem = s.mem := rfl
@[simp] theorem State.freshFree_ls (s : State) : s.freshFree.2.ls = s.ls := rfl
@[simp] theorem State.freshFree_vrs (s : State) : s.freshFree.2.vrs = s.vrs := rfl
@[simp] theorem State.freshFree_acc (s : State) : s.freshFree.2.acc = s.acc := rfl

end Sys2Proof.Machine
end

