-- ==== Sys2Proof/Tests/Slice0.lean ====
section
/-! SUPPORT. Sys2Proof/Tests/Slice0.lean: small tests. The words and the values they expect come from the manual: the worked encodings of its chapters (with
their rule), and for the words of every constructor the fixed bits and fields of the opcode table. The witnesses show, for each statement with hypotheses, that
they can be met. -/

namespace Sys2Proof.Tests

-- one witness at a time: many kernel evaluations at once need more memory than there is
set_option Elab.async false

open Sys2Proof.Machine

/-! ### Encodings -/

/-- Every word of the list decodes to the instruction beside it, which is written by that word. -/
abbrev Reads (l : List (Nat × Instr)) : Prop := ∀ p ∈ l, decodeWord p.1 = .ok p.2 ∧ encode p.2 = some p.1

/-- No word of the list decodes. -/
abbrev Refused (l : List Nat) : Prop := ∀ w ∈ l, (decodeWord w).toOption = none

/-! The worked encodings of spec/06 (R180), spec/07, spec/08, spec/09, spec/10, spec/11, spec/12, spec/13, spec/16 and spec/17. -/

theorem test_words_06_07 : Reads [
    (0x9A51C000, .ld true 5 3 4 0 0), (0x04318004, .addi false 3 3 4), (0x0473FFFF, .addi false 7 7 0x7FFF), (0x48707FFC, .bne false 7 0 0x7FFC),
    (0x027298DD, .sel false 7 5 6 3), (0x94531C0B, .div true 5 6 7 true), (0x18828885, .fcvt false 8 5 2 true false 0 5),
    (0x22951267, .amoCas false 9 10 4 2 3 true), (0x220512E0, .redAdd false 10 4 2 0 false), (0x289FFFFC, .bp false 2 0x1FFFFC),
    (0x2C078000, .jalr false 0 15 0), (0x3000000A, .fenceFull false 2), (0x30000080, .waitCnt false 0 0), (0x30004160, .rcv false 0x10),
    (0x32000008, .fuse false 8), (0x3450010C, .stgAcq false 5 1 true), (0x42601C28, .vbAcqTry false 6 7 2), (0x44500004, .rdsys false 5 4),
    (0x46000000, .ecall false)] := by decide

theorem test_words_08_09 : Reads [
    (0x36531C61, .vFma false 5 6 7 true), (0x9A61E001, .ld true 6 3 6 0 1), (0xB8828001, .sfu true 8 5 0 false 1), (0x38930012, .sfu false 9 6 1 false 2),
    (0x3A501C00, .mxCfg false 5 7), (0x3A530060, .mxLd false 5 6 0 true false false), (0x3A000089, .mxMma false 0 false true 1),
    (0x3A531D01, .mxSt false 5 6 7 false 1), (0x3A5301A0, .gmGemv false 5 6 0 true), (0x3CD70000, .cpBulk false 13 14 0),
    (0x3C5300C8, .scScat false 5 6 0 1), (0x3C532500, .clAr false 5 6 9 0)] := by decide

theorem test_words_10 : Reads [
    (0x3E531C00, .sqOpen false 5 6 7 0), (0x3E000048, .sqNext false 2), (0x3E000488, .sqEnd false 1 2), (0x3E0014C8, .sqCrd false 5 2),
    (0x3E008188, .sqIsect false 0 1 2), (0x3E532648, .sqDrain false 5 6 9 2 false), (0x40530020, .mxSpmm false 5 6 0 true false 0),
    (0x40531C11, .mxSpmm false 5 6 7 false true 1), (0x40531C40, .spPack false 5 6 7), (0x40502140, .spStat false 5 8 false)] := by decide

theorem test_words_11_12 : Reads [
    (0xC4500002, .rdsys true 5 2), (0x46130003, .wcfg false 1 6), (0xB4003444, .wqNext true 13 1 0), (0x3DAE0000, .cpBulk false 26 28 0),
    (0x3B9D0058, .mxLd false 25 26 0 false true true), (0x3BEF8100, .mxSt false 30 31 0 false 0), (0x373A0041, .vMul false 19 20 0 true),
    (0xB45018C0, .tskSubmit true 5 6), (0x34800080, .tskDone false 8 0), (0x9A556000, .ld true 5 10 6 0 0), (0x2E128000, .pcmp false 1 5 0 0),
    (0x30005560, .rcv false 0x15), (0x28400014, .bp false 1 0x14), (0x30000180, .join false), (0xC4C00044, .rdsys true 12 0x44),
    (0x30070120, .waitNtc false 14), (0x44074045, .wrsys false 14 0x45), (0x46000002, .upret false), (0xBE000488, .sqEnd true 1 2),
    (0xBE002D09, .sqPos true 11 2 true), (0x96863403, .fma true 8 12 13 0 false false), (0x1D38A001, .st false 19 17 2 0 1),
    (0x410A0001, .mxSpmm false 16 20 0 false false 1), (0xC1505D40, .spStat true 21 23 false)] := by decide

theorem test_words_13_16_17 : Reads [
    (0x46000100, .eret false), (0xC6729901, .fqPop true 7 5 6), (0x46029902, .svcDone false 0 5 6), (0x46029903, .xlatInv false 0 5 6),
    (0x46029904, .cacheWb false 0 5 6), (0x46029905, .cacheInv false 0 5 6), (0x46000106, .ctxSave false 0), (0x46000107, .ctxRest false 0),
    (0x46729908, .halt false 7 5 6), (0x46729909, .nbrPut false 7 5 6), (0x4672990A, .nbrGet false 7 5 6), (0x4672990B, .mcast false 7 5 6),
    (0x4672990C, .clReform false 7 5 6), (0xC4A00004, .rdsys true 10 4)] := by decide

/-! One word of every constructor, from the opcode table's fixed bits with a value in every field. -/

theorem test_decode_int_r_1 :
    Reads [(0x832A7600, .add true 18 20 29 true),
    (0x832A7601, .sub true 18 20 29 true),
    (0x832A7402, .and true 18 20 29),
    (0x832A7403, .or true 18 20 29),
    (0x832A7404, .xor true 18 20 29),
    (0x832A7405, .andn true 18 20 29),
    (0x832A7406, .orn true 18 20 29),
    (0x832A7407, .sll true 18 20 29),
    (0x832A7408, .srl true 18 20 29),
    (0x832A7409, .sra true 18 20 29),
    (0x832A740A, .rol true 18 20 29),
    (0x832A740B, .ror true 18 20 29),
    (0x832A740C, .slt true 18 20 29),
    (0x832A740D, .sltu true 18 20 29),
    (0x832A740E, .min true 18 20 29),
    (0x832A740F, .max true 18 20 29)] := by decide
theorem test_decode_int_r_2 :
    Reads [(0x832A7410, .minn true 18 20 29),
    (0x832A7411, .maxn true 18 20 29),
    (0x832A0012, .clz true 18 20),
    (0x832A0013, .ctz true 18 20),
    (0x832A0014, .pop true 18 20),
    (0x832A0015, .brev true 18 20),
    (0x832A0016, .bswap true 18 20),
    (0x832A0017, .sextB true 18 20),
    (0x832A0018, .sextH true 18 20),
    (0x832A0019, .sextW true 18 20),
    (0x832A001A, .zextW true 18 20),
    (0x832A741B, .bfx true 18 20 29),
    (0x832A741C, .bfi true 18 20 29),
    (0x832A75DD, .sel true 18 20 29 7)] := by decide
theorem test_decode_addi :
    Reads [(0x852A159D, .addi true 18 20 5533)] := by decide
theorem test_decode_andi :
    Reads [(0x872A159D, .andi true 18 20 5533)] := by decide
theorem test_decode_ori :
    Reads [(0x892A159D, .ori true 18 20 5533)] := by decide
theorem test_decode_xori :
    Reads [(0x8B2A159D, .xori true 18 20 5533)] := by decide
theorem test_decode_shi :
    Reads [(0x8D2A001D, .slli true 18 20 29),
    (0x8D2A005D, .srli true 18 20 29),
    (0x8D2A009D, .srai true 18 20 29)] := by decide
theorem test_decode_cmpi :
    Reads [(0x8F2A159D, .sltii true 18 20 5533),
    (0x8F2A559D, .sltin true 18 20 5533)] := by decide
theorem test_decode_lih :
    Reads [(0x9124159D, .lih true 18 4 5533)] := by decide
theorem test_decode_adpc :
    Reads [(0x93205674, .adpc true 18 22132)] := by decide
theorem test_decode_muldiv :
    Reads [(0x952A7408, .mul true 18 20 29 true),
    (0x952A7409, .mulh true 18 20 29 true),
    (0x952A740A, .mulhn true 18 20 29 true),
    (0x952A740B, .div true 18 20 29 true),
    (0x952A740C, .divn true 18 20 29 true),
    (0x952A740D, .rem true 18 20 29 true),
    (0x952A740E, .remn true 18 20 29 true)] := by decide
theorem test_decode_fp_r :
    Reads [(0x972A74F0, .fadd true 18 20 29 3 true true),
    (0x972A74F1, .fsub true 18 20 29 3 true true),
    (0x972A74F2, .fmul true 18 20 29 3 true true),
    (0x972A74F3, .fma true 18 20 29 3 true true),
    (0x972A74F4, .fdiv true 18 20 29 3 true true),
    (0x972A0075, .fsqrt true 18 20 1 true true),
    (0x972A7416, .fmin true 18 20 29 true),
    (0x972A7417, .fmax true 18 20 29 true),
    (0x972A7498, .fsign true 18 20 29 2 true),
    (0x972A0019, .fclass true 18 20 true),
    (0x962A74FA, .fcmp true 2 20 29 7 true)] := by decide
theorem test_decode_fp_cvt :
    Reads [(0x992A08E5, .fcvt true 18 20 2 true true 2 5)] := by decide
theorem test_decode_ld :
    Reads [(0x9B2A4959, .ld true 18 20 4 2 345)] := by decide
theorem test_decode_st :
    Reads [(0x9D2A6559, .st true 18 20 6 1 345)] := by decide
theorem test_decode_lda :
    Reads [(0x9F2A5D59, .lda true 18 20 5 3 345)] := by decide
theorem test_decode_stl :
    Reads [(0xA12A2D59, .stl true 18 20 2 3 345)] := by decide
theorem test_decode_amo_1 :
    Reads [(0xA32A7437, .amoAdd true 18 20 29 3 3 true),
    (0xA32A7477, .amoAnd true 18 20 29 3 3 true),
    (0xA32A74B7, .amoOr true 18 20 29 3 3 true),
    (0xA32A74F7, .amoXor true 18 20 29 3 3 true),
    (0xA32A7537, .amoMin true 18 20 29 3 3 true),
    (0xA32A7577, .amoMax true 18 20 29 3 3 true),
    (0xA32A75B7, .amoMinn true 18 20 29 3 3 true),
    (0xA32A75F7, .amoMaxn true 18 20 29 3 3 true),
    (0xA32A7637, .amoSwp true 18 20 29 3 3 true),
    (0xA32A7677, .amoCas true 18 20 29 3 3 true),
    (0xA32A76B7, .amoFadd true 18 20 29 3 3 true),
    (0xA20952D5, .redAdd true 18 20 1 2 true),
    (0xA2095315, .redFadd true 18 20 1 2 true),
    (0xA2095355, .redMin true 18 20 1 2 true),
    (0xA2095395, .redMax true 18 20 1 2 true),
    (0xA20953D5, .redOr true 18 20 1 2 true)] := by decide
theorem test_decode_amo_2 :
    Reads [(0xA209008E, .pf true 18 2)] := by decide
theorem test_decode_beq :
    Reads [(0xA52A159D, .beq true 18 20 5533)] := by decide
theorem test_decode_bgeu :
    Reads [(0xA72A159D, .bgeu true 18 20 5533)] := by decide
theorem test_decode_bp :
    Reads [(0xA8805674, .bp true 2 22132),
    (0xA8A05674, .bnp true 2 22132)] := by decide
theorem test_decode_jal :
    Reads [(0xAB205674, .jal true 18 22132)] := by decide
theorem test_decode_jalr :
    Reads [(0xAD2A159D, .jalr true 18 20 5533)] := by decide
theorem test_decode_pred :
    Reads [(0xAE2A7405, .pcmp true 2 20 29 5),
    (0xAE221440, .pand true 2 4 5),
    (0xAE221480, .por true 2 4 5),
    (0xAE2214C0, .pxor true 2 4 5),
    (0xAE220100, .pnot true 2 4)] := by decide
theorem test_decode_sync_1 :
    Reads [(0xB0000002, .fenceAcq true 2),
    (0xB0000006, .fenceRel true 2),
    (0xB000000A, .fenceFull true 2),
    (0xB000000E, .fenceSc true 2),
    (0xB0090034, .barArv true 18 20),
    (0xB1200054, .barWait true 18 20),
    (0xB12A007D, .barArw true 18 20 29),
    (0xB0074881, .waitCnt true 466 1),
    (0xB00900A0, .tagWany true 18),
    (0xB00900C0, .tagWall true 18),
    (0xB12A00E0, .tagFfr true 18 20),
    (0xB0090100, .tagClr true 18),
    (0xB0090120, .waitNtc true 18),
    (0xB0000140, .yield true),
    (0xB1674960, .rcv true 22994),
    (0xB0000180, .join true)] := by decide
theorem test_decode_sync_2 :
    Reads [(0xB00001A0, .exit true)] := by decide
theorem test_decode_simt :
    Reads [(0xB2000012, .fuse true 18),
    (0xB2000020, .split true),
    (0xB2220040, .voteAny true 2 4),
    (0xB2220060, .voteAll true 2 4),
    (0xB3220080, .voteBal true 18 4),
    (0xB32A74A0, .lget true 18 20 29)] := by decide
theorem test_decode_task :
    Reads [(0xB52A7403, .wqInit true 18 20 29 3),
    (0xB4004851, .wqNext true 18 4 1),
    (0xB5205080, .tskDone true 18 20),
    (0xB52050C0, .tskSubmit true 18 20),
    (0xB5200124, .stgAcq true 18 4 true),
    (0xB5200160, .stgRel true 18 4),
    (0xB40049A0, .stgPeek true 18 4)] := by decide
theorem test_decode_vec_1 :
    Reads [(0xB72A7401, .vAdd true 18 20 29 true),
    (0xB72A7421, .vSub true 18 20 29 true),
    (0xB72A7441, .vMul true 18 20 29 true),
    (0xB72A7461, .vFma true 18 20 29 true),
    (0xB72A7481, .vFms true 18 20 29 true),
    (0xB72A74A1, .vMin true 18 20 29 true),
    (0xB72A74C1, .vMax true 18 20 29 true),
    (0xB72A74E0, .vAbs true 18 20 29),
    (0xB72A7500, .vNeg true 18 20 29),
    (0xB72A7521, .vAnd true 18 20 29 true),
    (0xB72A7541, .vOr true 18 20 29 true),
    (0xB72A7561, .vXor true 18 20 29 true),
    (0xB72A7581, .vShl true 18 20 29 true),
    (0xB72A75A1, .vShr true 18 20 29 true),
    (0xB72A75C1, .vCmp true 18 20 29 true),
    (0xB72A75E1, .vSel true 18 20 29 true)] := by decide
theorem test_decode_vec_2 :
    Reads [(0xB72A7600, .vCvt true 18 20 29),
    (0xB72A7620, .vMov true 18 20 29),
    (0xB72A7640, .vRsum true 18 20 29),
    (0xB72A7660, .vRmax true 18 20 29),
    (0xB72A7680, .vRmin true 18 20 29),
    (0xB72A76A0, .vScan true 18 20 29),
    (0xB72A76C1, .vBcast true 18 20 29 true),
    (0xB72A76E1, .vIota true 18 20 29),
    (0xB72A7701, .vClamp true 18 20 29 true),
    (0xB72A7720, .vSfu true 18 20 29),
    (0xB72A7740, .vGat true 18 20 29),
    (0xB72A7760, .vSct true 18 20 29)] := by decide
theorem test_decode_sfu :
    Reads [(0xB92A001A, .sfu true 18 20 1 true 2)] := by decide
theorem test_decode_mat :
    Reads [(0xBB205000, .mxCfg true 18 20),
    (0xBB2A7478, .mxLd true 18 20 29 true true true),
    (0xBA0048AF, .mxMma true 18 true true 7),
    (0xBA0048E5, .mxZero true 18 true 5),
    (0xBB2A7521, .mxSt true 18 20 29 true 1),
    (0xBB2A7560, .gmLay true 18 20 29 true),
    (0xBB2A75A0, .gmGemv true 18 20 29 true)] := by decide
theorem test_decode_copy :
    Reads [(0xBD2A7400, .cpBulk true 18 20 29),
    (0xBD205040, .cpCancel true 18 20),
    (0xBD2A7480, .gaGath true 18 20 29),
    (0xBD2A74D8, .scScat true 18 20 29 3),
    (0xBD2A7510, .clAr true 18 20 29 2),
    (0xBD2A7540, .clAg true 18 20 29),
    (0xBD2A7588, .clRs true 18 20 29 1),
    (0xBD2A75C0, .clBc true 18 20 29),
    (0xBD2A7600, .clSend true 18 20 29),
    (0xBD2A7640, .clRecv true 18 20 29),
    (0xBD2A7680, .clAbort true 18 20 29)] := by decide
theorem test_decode_strm :
    Reads [(0xBF2A741C, .sqOpen true 18 20 29 7),
    (0xBE000048, .sqNext true 2),
    (0xBE000890, .sqEnd true 2 4),
    (0xBE0048D0, .sqCrd true 18 4),
    (0xBE004911, .sqPos true 18 4 true),
    (0xBF200150, .sqSeek true 18 4),
    (0xBE2201B4, .sqIsect true 2 4 13),
    (0xBE2201F4, .sqUnion true 2 4 13),
    (0xBE000208, .sqClose true 2),
    (0xBF2A765D, .sqDrain true 18 20 29 7 true),
    (0xBF2A7680, .sqPart true 18 20 29),
    (0xBF2002D0, .sqSave true 18 4),
    (0xBF200310, .sqRest true 18 4)] := by decide
theorem test_decode_spar :
    Reads [(0xC12A7436, .mxSpmm true 18 20 29 true true 6),
    (0xC12A7440, .spPack true 18 20 29),
    (0xC12A7480, .spUnpack true 18 20 29),
    (0xC12A74C1, .spInval true 18 20 29 true),
    (0xC12A7501, .spPin true 18 20 29 true),
    (0xC1205141, .spStat true 18 20 true)] := by decide
theorem test_decode_vrb :
    Reads [(0xC3205000, .vbAcq true 18 20),
    (0xC3205034, .vbAcqTry true 18 20 5),
    (0xC3205040, .vbRel true 18 20)] := by decide
theorem test_decode_sysreg :
    Reads [(0xC5200674, .rdsys true 18 1652),
    (0xC4094674, .wrsys true 18 1652)] := by decide
theorem test_decode_sys_1 :
    Reads [(0xC6000000, .ecall true),
    (0xC6000001, .ebreak true),
    (0xC6000002, .upret true),
    (0xC62A0003, .wcfg true 2 20),
    (0xC6000100, .eret true),
    (0xC72A7501, .fqPop true 18 20 29),
    (0xC72A7502, .svcDone true 18 20 29),
    (0xC72A7503, .xlatInv true 18 20 29),
    (0xC72A7504, .cacheWb true 18 20 29),
    (0xC72A7505, .cacheInv true 18 20 29),
    (0xC6090106, .ctxSave true 18),
    (0xC6090107, .ctxRest true 18),
    (0xC72A7508, .halt true 18 20 29),
    (0xC72A7509, .nbrPut true 18 20 29),
    (0xC72A750A, .nbrGet true 18 20 29),
    (0xC72A750B, .mcast true 18 20 29)] := by decide
theorem test_decode_sys_2 :
    Reads [(0xC72A750C, .clReform true 18 20 29)] := by decide
theorem test_decode_bne :
    Reads [(0xC92A159D, .bne true 18 20 5533)] := by decide
theorem test_decode_blt :
    Reads [(0xCB2A159D, .blt true 18 20 5533)] := by decide
theorem test_decode_bge :
    Reads [(0xCD2A159D, .bge true 18 20 5533)] := by decide
theorem test_decode_bltu :
    Reads [(0xCF2A159D, .bltu true 18 20 5533)] := by decide

/-! Words that no encoding assigns (R8, R174, R175, R176, R199, R201, R204, R219, R226). -/

theorem test_reserved_words : Refused [
    0x00000000, 0x50000000, 0x7E000000, 0xD0000000, 0x0200001E, 0x0200003F, 0x02000202, 0x02000041, 0x02000412, 0x0C0000C0, 0x0C000100, 0x1600000B, 0x16000100,
    0x1600060A, 0x2E000006, 0x2E000140, 0x2E000008, 0x2E800000, 0x320000C0, 0x32000021, 0x44008000, 0x44104000, 0x44001000, 0x46000004] := by decide

/-! The fields that a description excludes: for each check of WellFormed a term that it refuses, beside one it admits. -/

theorem test_wf_fsign : (Instr.fsign false 1 2 0 3 true).wf = true ∧ (Instr.fsign false 1 2 3 3 true).wf = false := by decide
theorem test_wf_fcvt : (Instr.fcvt false 1 2 1 false false 0 9).wf = true ∧ (Instr.fcvt false 1 2 0 false false 0 9).wf = false ∧
    (Instr.fcvt false 1 2 10 false false 0 9).wf = false ∧ (Instr.fcvt false 1 2 1 false false 0 0).wf = false ∧
    (Instr.fcvt false 1 2 1 false false 0 10).wf = false ∧ (Instr.fcvt false 1 2 4 false false 0 4).wf = false ∧
    (Instr.fcvt false 1 2 1 true false 0 7).wf = false ∧ (Instr.fcvt false 1 2 1 true false 0 9).wf = false := by decide
theorem test_wf_ld : (Instr.ld false 1 2 6 2 0).wf = true ∧ (Instr.ld false 1 2 7 0 0).wf = false ∧ (Instr.ld false 1 2 6 3 0).wf = false := by decide
theorem test_wf_st : (Instr.st false 1 2 6 2 0).wf = true ∧ (Instr.st false 1 2 1 0 0).wf = false ∧ (Instr.st false 1 2 7 0 0).wf = false ∧
    (Instr.st false 1 2 6 3 0).wf = false := by decide
theorem test_wf_lda : (Instr.lda false 1 2 6 3 0).wf = true ∧ (Instr.lda false 1 2 7 0 0).wf = false := by decide
theorem test_wf_stl : (Instr.stl false 1 2 6 3 0).wf = true ∧ (Instr.stl false 1 2 3 0 0).wf = false := by decide
theorem test_wf_amo : (Instr.amoAdd false 1 2 3 0 4 true).wf = true ∧ (Instr.amoAdd false 1 2 3 0 5 true).wf = false ∧
    (Instr.amoAnd false 1 2 3 0 5 true).wf = false ∧ (Instr.amoOr false 1 2 3 0 5 true).wf = false ∧ (Instr.amoXor false 1 2 3 0 6 true).wf = false ∧
    (Instr.amoMin false 1 2 3 0 5 true).wf = false ∧ (Instr.amoMax false 1 2 3 0 5 true).wf = false ∧ (Instr.amoMinn false 1 2 3 0 5 true).wf = false ∧
    (Instr.amoMaxn false 1 2 3 0 7 true).wf = false ∧ (Instr.amoSwp false 1 2 3 0 5 true).wf = false ∧ (Instr.amoCas false 1 2 3 0 5 true).wf = false ∧
    (Instr.amoFadd false 1 2 3 0 5 true).wf = false := by decide
theorem test_wf_red : (Instr.redAdd false 1 2 0 2 true).wf = true ∧ (Instr.redAdd false 1 2 0 1 true).wf = false ∧
    (Instr.redFadd false 1 2 0 3 true).wf = false ∧ (Instr.redMin false 1 2 0 4 true).wf = false ∧ (Instr.redMax false 1 2 0 1 true).wf = false ∧
    (Instr.redOr false 1 2 0 1 true).wf = false := by decide
theorem test_wf_pf : (Instr.pf false 1 2).wf = true ∧ (Instr.pf false 1 3).wf = false := by decide
theorem test_wf_pcmp : (Instr.pcmp false 1 2 3 5).wf = true ∧ (Instr.pcmp false 1 2 3 6).wf = false := by decide
theorem test_wf_sfu : (Instr.sfu false 1 2 1 false 2).wf = true ∧ (Instr.sfu false 1 2 1 false 1).wf = false := by decide
theorem test_wf_scScat : (Instr.scScat false 1 2 3 4).wf = true ∧ (Instr.scScat false 1 2 3 5).wf = false := by decide
theorem test_wf_clAr : (Instr.clAr false 1 2 3 3).wf = true ∧ (Instr.clAr false 1 2 3 4).wf = false := by decide
theorem test_wf_clRs : (Instr.clRs false 1 2 3 3).wf = true ∧ (Instr.clRs false 1 2 3 4).wf = false := by decide


/-! ### Small states -/

/-- Slot C0 of P0 of cluster 0. -/
def me : CtxId := ⟨0, 0, 0⟩

/-- Slot C0 of pipe k of cluster 0. -/
def lane (k : Nat) : CtxId := ⟨0, k, 0⟩

/-- A context in user mode at 0x1000. -/
def ctxAt (k : Nat) : Ctx := { id := lane k, pc := 0x1000 }

/-- A package that runs, with the contexts given on cluster 0, the first of which issues. -/
def packageOf (l : List Ctx) : State :=
  { State.reset with
    cur := me, next := .ctx me, ctxs := l, clusters := [{ id := 0, released := true, active := true }]
    boot := { State.reset.boot with phase := 9, inReset := false, mode := false } }

/-- One context alone. -/
def alone (f : Ctx → Ctx) : State := packageOf [f (ctxAt 0)]

/-- Values of general registers. -/
def withG (l : List (Reg × Word)) (c : Ctx) : Ctx := { c with g := l.foldl (fun g (x : Reg × Word) => g.set x.1 x.2) c.g }

/-- A fused group of P0 and P1. -/
def fused (gr : Group → Group) (f : Nat → Ctx → Ctx) : State :=
  { packageOf ((List.range 2).map fun k => f k { ctxAt k with grp := some 0, lane := k }) with
    groups := [gr { cl := 0, base := 0, slot := 0, width := 2, members := 3, lm := 3 }] }

/-- What f finds in the next state, where there is one. -/
def after {α : Type} (i : Instr) (s : State) (f : State → α) : Option α := match exec i s with
  | .next t => some (f t)
  | .fault _ => none
  | .refused _ => none

/-- A register of the context in C0 of P0. -/
def reg (r : Reg) (t : State) : Word := (t.ctx me).g.get r

/-- The values that are still to be written. -/
def owed (t : State) : List Word := t.longs.map Long.val

/-! ### One step: values that the manual gives -/

/-- R199: .sat clamps to the signed range. -/
theorem test_add_sat : after (.add false 7 5 6 true) (alone (withG [(5, 0x7FFFFFFFFFFFFFFF), (6, 1)])) (reg 7) = some 0x7FFFFFFFFFFFFFFF := by decide
theorem test_add_wraps : after (.add false 7 5 6 false) (alone (withG [(5, 0xFFFFFFFFFFFFFFFF), (6, 2)])) (fun t => (reg 7 t, (t.ctx me).pc)) =
    some (1, 0x1004) := by decide
/-- R200, its example. -/
theorem test_bfx : after (.bfx false 7 5 6) (alone (withG [(5, 0xABCDEF0123), (6, 0xC1C)])) (reg 7) = some 0xABC := by decide
/-- R201: the immediate is compared as an unsigned number. -/
theorem test_sltin : after (.sltin false 7 5 0x3FFF) (alone (withG [(5, 0xFFFFFFFFFFFFFFFF)])) (reg 7) = some 0 := by decide
theorem test_adpc : after (.adpc false 7 0xFFFFF) (alone id) (reg 7) = some (0x1000 - 0x4000) := by decide
/-- A register that is source and destination. -/
theorem test_jalr_same : after (.jalr false 5 5 4) (alone (withG [(5, 0x2000)])) (fun t => (reg 5 t, (t.ctx me).pc)) = some (0x1004, 0x2004) := by decide
/-- R202: the 32-bit quotient of the least value by −1 wraps. -/
theorem test_div_w : after (.div true 7 5 6 true) (alone (withG [(5, 0x80000000), (6, 0xFFFFFFFF)])) owed = some [0xFFFFFFFF80000000] := by decide
/-- R480: the dividend −7 by 0 under MODE.DZT (spec/18): the trap saves the pc, and EVAL holds the dividend. -/
theorem test_div_trap : after (.div true 5 6 7 true) (alone (withG [(6, 0xFFFFFFFFFFFFFFF9)])) (fun t =>
    ((t.ctx me).tl, (t.ctx me).priv, (t.ctx me).b1.epc, (t.ctx me).b1.eval)) = some (1, .supervisor, 0x1000, 0xFFFFFFFFFFFFFFF9) := by decide
/-- R204: 1.0 + 1.0 in f32 is 2.0; √−0 is −0. -/
theorem test_fadd : after (.fadd true 7 5 6 0 false false) (alone (withG [(5, 0x3F800000), (6, 0x3F800000)])) owed = some [0x40000000] := by decide
theorem test_fsqrt : after (.fsqrt true 7 5 0 false false) (alone (withG [(5, 0x80000000)])) owed = some [0x80000000] := by decide
/-- R205: −0 equals +0. -/
theorem test_fcmp_zero : after (.fcmp true 1 5 6 0 false) (alone (withG [(5, 0x80000000)])) owed = some [1] := by decide
/-- R204: `fsign.xor`. -/
theorem test_fsign : after (.fsign true 7 5 6 2 false) (alone (withG [(5, 0xBF800000), (6, 0x80000000)])) owed = some [0x3F800000] := by decide
/-- R219: `pcmp.geu`. -/
theorem test_pcmp : after (.pcmp false 1 5 6 5) (alone (withG [(5, 0xFFFFFFFFFFFFFFFF), (6, 1)])) (fun t => (t.ctx me).p) = some 2 := by decide
/-- R43: a taken branch backward. -/
theorem test_bne : after (.bne false 7 0 0x7FFC) (alone (withG [(7, 1)])) (fun t => (t.ctx me).pc) = some 0xFF0 := by decide
/-- R226: the ballot of two lanes. -/
theorem test_vote : after (.voteBal true 7 1) (fused id fun k c => { c with p := BitVec.ofNat 8 (2 * k) }) owed = some [2, 2] := by decide

/-! ### Witnesses: contexts, integer and floating-point instructions -/

/-- One context alone is found where it issues, and runs alone. -/
theorem witness_here : (alone id).findCtx (alone id).cur = some (ctxAt 0) ∧ (ctxAt 0).grp = none ∧ (ctxAt 0).rcd = none := by decide

/-- Trappable: in user mode at TL 0, and in machine mode at TL 1. -/
theorem witness_trappable : Trappable (alone id) me ∧ Trappable (alone fun c => { c with priv := .machine, tl := 1 }) me := by
  constructor <;> constructor <;> decide

theorem witness_IntegerRegisterResults : (fld 0x0200001E 25 6 = 1 ∧ 0x1E ≤ fld 0x0200001E 0 6) ∧
    (fld 0x02000202 25 6 = 1 ∧ fld 0x02000202 9 1 = 1 ∧ 2 ≤ fld 0x02000202 0 6) ∧
    (fld 0x0200005E 25 6 = 1 ∧ fld 0x0200005E 6 3 ≠ 0 ∧ fld 0x0200005E 0 6 ≠ 0x1D) ∧
    (fld 0x02000412 25 6 = 1 ∧ fld 0x02000412 10 5 ≠ 0 ∧ 0x12 ≤ fld 0x02000412 0 6 ∧ fld 0x02000412 0 6 ≤ 0x1A) := by decide

theorem witness_IntegerImmediateResults : (fld 0x0C0000C0 25 6 = 6 ∧ fld 0x0C0000C0 6 2 = 3) ∧ (fld 0x0C004000 25 6 = 6 ∧ fld 0x0C004000 8 7 ≠ 0) := by decide

/-- A divisor that is not zero under DZT, and one that is with DZT clear. -/
theorem witness_ProductsAndQuotients :
    (let s := alone (withG [(6, 1)]); ∀ l ∈ s.lanes s.cur, s.rg l 6 = 0 → (s.ctx l).mode.getLsbD 0 = false) ∧
    (let s := alone fun c => { c with mode := 0 }; ∀ l ∈ s.lanes s.cur, (s.rg l 6).setWidth 32 = 0 → (s.ctx l).mode.getLsbD 0 = false) := by decide

theorem witness_ArithmeticTraps :
    (let s := alone id; (s.ctx s.cur).mode.getLsbD 0 = true ∧ s.rg s.cur 6 = 0) ∧
    (let s := alone (withG [(6, 0x100000000)]); (s.ctx s.cur).mode.getLsbD 0 = true ∧ (s.rg s.cur 6).setWidth 32 = 0) ∧
    (let s := alone fun c => withG [(5, 0x7F800000), (6, 0xFF800000), (7, 0xBF800000)] { c with mode := 3 }
     let x := operand .f32 false (s.rg s.cur 5).toNat
     let y := operand .f32 false (s.rg s.cur 6).toNat
     let z := operand .f32 false (s.rg s.cur 0).toNat
     let n := operand .f32 false (s.rg s.cur 7).toNat
     (s.ctx s.cur).mode.getLsbD 1 = true ∧ fpInvalid .add .rne x y x = true ∧ fpInvalid .sub .rne x x x = true ∧ fpInvalid .mul .rne x z x = true ∧
       fpInvalid .fma .rne x z x = true ∧ fpInvalid .div .rne z z x = true ∧ fpInvalid .sqrt .rne n n x = true) := by decide

/-- Finite operands under MODE.FPT, and operands that are no NaN for a conversion. -/
theorem witness_FloatArithmetic :
    (let s := alone fun c => withG [(5, 0x3F800000), (6, 0x40000000)] { c with mode := 3 }
     let x := fun l => operand .f32 false (s.rg l 5).toNat
     let y := fun l => operand .f32 false (s.rg l 6).toNat
     ∀ l ∈ s.lanes s.cur, (s.ctx l).mode.getLsbD 1 = true ∧ fpInvalid .add .rne (x l) (y l) (x l) = false ∧ fpInvalid .sub .rne (x l) (y l) (x l) = false ∧
       fpInvalid .mul .rne (x l) (y l) (x l) = false ∧ fpInvalid .fma .rne (x l) (y l) (x l) = false ∧ fpInvalid .div .rne (x l) (y l) (x l) = false ∧
       fpInvalid .sqrt .rne (x l) (x l) (x l) = false ∧ ∀ g ∈ tyFmt 2, (operand g false (s.rg l 5).toNat).isNan = false) ∧
    ((2 : Fin 16) ≠ 7 ∧ (tyFmt (2 : Fin 16).val).isSome ∧ (tyFmt (7 : Fin 16).val).isSome ∧ (tyFmt (1 : Fin 16).val).isSome) := by decide +kernel

theorem witness_PredicateResults : (5 : Fin 8).val < 6 ∧ (fld 0x2E800000 25 6 = 0x17 ∧ fld 0x2E800000 23 2 ≠ 0) ∧
    (fld 0x2E000008 25 6 = 0x17 ∧ fld 0x2E000008 3 3 ≠ 0) ∧ (fld 0x2E000140 25 6 = 0x17 ∧ 5 ≤ fld 0x2E000140 6 4) ∧
    (fld 0x2E000006 25 6 = 0x17 ∧ fld 0x2E000006 6 4 = 0 ∧ 6 ≤ fld 0x2E000006 0 3) ∧
    (fld 0x2E000041 25 6 = 0x17 ∧ 1 ≤ fld 0x2E000041 6 4 ∧ fld 0x2E000041 0 3 ≠ 0) ∧
    (fld 0x2E000500 25 6 = 0x17 ∧ fld 0x2E000500 6 4 = 4 ∧ fld 0x2E000500 10 5 ≠ 0) := by decide

/-! ### Witnesses: branches, groups -/

/-- A branch taken by both lanes of a group, and one not taken by a context alone. -/
theorem witness_BranchesAndJumps :
    ((fused id fun _ => withG [(5, 1)]).findCtx me).isSome ∧ Agrees (fused id fun _ => withG [(5, 1)]) (fun _ => true) true ∧
    Agrees (alone id) (fun _ => false) false ∧
    (let s := fused id fun _ => withG [(5, 0x2000)]
     (∀ l ∈ s.lanes s.cur, s.rg l 5 + (4 : BitVec 15).signExtend 64 = 0x2004) ∧ s.lanes s.cur ≠ [] ∧ (0x2004 : Word).toNat % 4 = 0) ∧
    (let s := alone (withG [(5, 0x2000)]); (s.rg s.cur 5 + (1 : BitVec 15).signExtend 64).toNat % 4 ≠ 0) := by
  refine ⟨by decide, ⟨by decide, ?_⟩, rfl, by decide, by decide⟩
  decide

/-- A group armed at 0x1100 with three entries on its stack, of which lane 1 alone takes a branch. -/
def divided : State :=
  fused (fun g => { g with armed := some 0x1100, stack := List.replicate 3 { j := 0x1200, pendPc := 0x1000, pend := 0, taken := 3, phaseN := true } })
    fun k => withG [(5, BitVec.ofNat 64 k)]

theorem witness_DivergentBranches : ∃ c g, divided.findCtx divided.cur = some c ∧ divided.groupOf divided.cur = some g ∧ g.armed = some 0x1100 ∧
    g.stack.length < 4 ∧ (2 : BitVec 16) ≠ g.lm ∧ (2 : BitVec 16) ≠ 0 ∧ Takes g (fun l => decide (divided.rg l 5 = divided.rg l 5 ∧ l.pipe = 1)) 2 ∧
    Takes g (fun l => decide (divided.rg l 5 ≠ divided.rg l 0)) 2 := ⟨_, _, rfl, rfl, rfl, by decide, by decide, by decide, by unfold Takes; decide,
    by unfold Takes; decide⟩

/-- A group with no join armed, and one with four entries on its stack. -/
theorem witness_DivergentBranches_split : ∀ arm : Bool,
    let s := fused (fun g => { g with armed := if arm then some 0x1100 else none, stack := if arm then List.replicate 4 { j := 0x1200, pendPc := 0x1000, pend := 0, taken := 3, phaseN := true } else [] })
      fun k => withG [(5, BitVec.ofNat 64 k)]
    ∃ c g, s.findCtx s.cur = some c ∧ s.groupOf s.cur = some g ∧ (2 : BitVec 16) ≠ g.lm ∧ (g.armed = none ∨ 4 ≤ g.stack.length) ∧
      Takes g (fun l => decide (s.rg l 5 ≠ s.rg l 0)) 2 := by
  intro arm
  cases arm <;> exact ⟨_, _, rfl, rfl, by decide, by decide, by unfold Takes; decide⟩

/-- CleanTraps of the states here. -/
theorem clean_fused (gr : Group → Group) (f : Nat → Ctx → Ctx) (h : ∀ c ∈ (fused gr f).ctxs, c.tl < 2 ∧ c.poison = none) : CleanTraps (fused gr f) := by
  constructor
  · rfl
  · exact fun c hc => (h c hc).1
  · exact fun c hc => (h c hc).2
  · intro l hl; cases hl
  · intro p hp; cases hp

/-- Two lanes with different targets, of which both are aligned, or the second is not. -/
theorem witness_Jumps_split : ∀ o : Word, o = 0 ∨ o = 2 →
    let s := fused id fun k => withG [(5, BitVec.ofNat 64 (0x2000 + 4 * k) + if k = 1 then o else 0)]
    let t := fun l => s.rg l 5 + (0 : BitVec 15).signExtend 64
    CleanTraps s ∧ ∃ g, s.groupOf s.cur = some g ∧ (s.findCtx ⟨g.cl, g.base, g.slot⟩).isSome ∧
      ((s.lanes s.cur).all fun l => decide ((t l).toNat % 4 = 0)) = decide (o = 0) ∧ (t (lane 0) ≠ t (lane 1) ∧ lane 0 ∈ s.lanes s.cur ∧ lane 1 ∈ s.lanes s.cur) := by
  rintro o (rfl | rfl)
  · exact ⟨clean_fused _ _ (by decide), _, rfl, by decide, by decide, by decide⟩
  · exact ⟨clean_fused _ _ (by decide), _, rfl, by decide, by decide, by decide⟩

/-- A group at its join, its pending lanes to run; then with both parts there; and one that is not at a join. -/
def joining (phaseN : Bool) : State :=
  fused (fun g => { g with lm := if phaseN then 2 else 1, stack := [{ j := 0x1000, pendPc := 0x1010, pend := 2, taken := 1, phaseN := phaseN }] }) fun _ c => c

/-- Two split lanes at their join, the second of which waits there or has not come; and two with nothing pending. -/
def splitRecord (stack : List DivEntry) : Record := { stack := stack, base := 0, width := 2, members := 3, a := 3 }
def apart (stack : List DivEntry) (there : Bool) : State :=
  packageOf [{ ctxAt 0 with rcd := some (splitRecord stack) }, { ctxAt 1 with rcd := some (splitRecord stack), st := if there then .waiting .joinAt 0 else .ready }]
def entry1 : DivEntry := { j := 0x1000, pendPc := 0x1010, pend := 2, taken := 1, phaseN := true }

theorem witness_JoinsAndExits :
    (∃ c g e r, (joining false).findCtx me = some c ∧ (joining false).groupOf me = some g ∧ me.pipe = g.base ∧ g.stack = e :: r ∧ e.j = c.pc ∧
      e.phaseN = false ∧ e.pend ≠ 0 ∧ e.pend &&& ~~~g.lm ≠ 0 ∧ (joining false).drained me = true ∧ ∀ l ∈ (joining false).lanes me, (joining false).poisonOf l = none) ∧
    (∃ c g e r, (joining true).findCtx me = some c ∧ (joining true).groupOf me = some g ∧ me.pipe = g.base ∧ g.stack = e :: r ∧ e.j = c.pc ∧
      e.phaseN = true ∧ e.taken ||| e.pend ≠ 0) ∧
    (∃ g, (fused id fun _ c => c).groupOf me = some g ∧ g.stack = [] ∧ (∀ e r, g.stack = e :: r → e.j ≠ (0x1000 : Word)) ∧
      (fused id fun _ c => c).drained me = true ∧ ∀ l ∈ (fused id fun _ c => c).lanes me, (fused id fun _ c => c).poisonOf l = none) ∧
    (∀ there : Bool, let s := apart [entry1] there
      s.groupOf me = none ∧ (s.findCtx me).bind Ctx.rcd = some (splitRecord [entry1]) ∧ entry1.j = (s.ctx me).pc ∧ s.mustPark me = false ∧
        (splitRecord [entry1]).members ≠ 0 ∧ entry1.taken ||| entry1.pend ≠ 0 ∧ (∀ m ∈ s.ctxs, m.rcd = some (splitRecord [entry1])) ∧
        (there = false → ∃ m ∈ s.ctxs, m.id ≠ me ∧ m.id.cl = 0 ∧ m.id.slot = 0 ∧ m.st = .ready ∧ (splitRecord [entry1]).a.getLsbD (m.id.pipe - 0) = true) ∧
        (there = true → ∀ m ∈ s.ctxs, m.id ≠ me → m.st = .waiting .joinAt 0)) ∧
    ((alone id).groupOf me = none ∧ (alone id).drained me = true ∧ (alone id).poisonOf me = none ∧ (alone id).teamOf me = none) ∧
    (let s := { apart [] false with cur := lane 1 }
     s.drained s.cur = true ∧ (s.findCtx s.cur).bind Ctx.rcd = some (splitRecord []) ∧ (s.ctx s.cur).grp = none ∧ s.poisonOf s.cur = none ∧
       s.cur.pipe ≠ (splitRecord []).base ∧ (splitRecord []).members &&& ~~~laneBit (s.cur.pipe - 0) ≠ 0 ∧
       (∀ m ∈ s.ctxs, m.rcd = some (splitRecord [])) ∧ ∃ m ∈ s.ctxs, m.id ≠ s.cur ∧ inRecord 0 0 0 m = true) ∧
    ({ alone id with longs := [{ dst := me, dest := .g 5, val := 1 }] } : State).drained me = false := by
  refine ⟨⟨_, _, _, _, rfl, rfl, rfl, rfl, rfl, rfl, by decide, by decide, by decide, by decide⟩, ⟨_, _, _, _, rfl, rfl, rfl, rfl, rfl, rfl, by decide⟩,
    ⟨_, rfl, rfl, ?_, by decide, by decide⟩, by decide, by decide, by decide, by decide⟩
  intro e r h
  cases h

/-- Two contexts of neighbouring pipes, the second of which waits at `fuse 2`, or is elsewhere. -/
def meeting (at_ : Bool) : State :=
  packageOf [ctxAt 0, { ctxAt 1 with st := if at_ then .waiting (.fuse 2) 0 else .ready }]

theorem witness_FusingAndSplitting :
    ((meeting true).findCtx me = some (ctxAt 0) ∧ ((meeting true).waitFor (.fuse 2)).fuseTraps 0 0 = [] ∧
      ∀ m ∈ ((meeting true).waitFor (.fuse 2)).candidates me 2, m.bind Ctx.fusing = some 2) ∧
    ((meeting false).findCtx me = some (ctxAt 0) ∧ ((meeting false).waitFor (.fuse 2)).fuseTraps 0 0 = [] ∧
      ∃ m ∈ ((meeting false).waitFor (.fuse 2)).candidates me 2, m.bind Ctx.fusing ≠ some 2) ∧
    (∃ g, (fused id fun _ c => c).groupOf me = some g ∧ g.lm = g.members ∧ g.stack = []) ∧
    (∃ g, (fused (fun g => { g with lm := 1 }) fun _ c => c).groupOf me = some g ∧ g.lm ≠ g.members) ∧ (∃ g, (joining false).groupOf me = some g ∧ g.stack ≠ []) ∧
    CleanTraps (fused id fun _ c => c) ∧ CleanTraps (meeting true) ∧
    (∀ s ∈ [fused id fun _ c => c, apart [] false, meeting true], (∀ m ∈ s.ctxs, m.fusing.isSome → m.grp = none) ∧ (∀ l ∈ s.lanes s.cur, (s.ctx l).fusing = none)) ∧
    (((apart [] false).findCtx me).bind Ctx.rcd).isSome ∧
    (¬ (0 = 2 ∨ 0 = 4 ∨ 0 = 8 ∨ 0 = 16) ∧ ¬ (31 = 2 ∨ 31 = 4 ∨ 31 = 8 ∨ 31 = 16)) ∧
    (((meeting true).ctx me).grp = none ∧ ((meeting true).ctx me).rcd = none ∧ ((alone fun c => { c with role := 2 }).ctx me).role.getLsbD 1 = true) ∧
    ((alone id).waitFor (.fuse 16)).findCtx ⟨0, 0 + 15, 0⟩ = none ∧ (((meeting true).waitFor (.fuse 4)).findCtx ⟨0, 1, 0⟩).bind Ctx.fusing = some 2 := by
  refine ⟨by decide, by decide, ⟨_, rfl, rfl, rfl⟩, ⟨_, rfl, by decide⟩, ⟨_, rfl, by decide⟩, clean_fused _ _ (by decide), ?_, by decide, by decide, by decide, by decide,
    by decide, by decide⟩
  constructor <;> first | rfl | decide

theorem witness_Votes : (alone id).groupOf me = none ∧ ((fused id fun _ c => c).groupOf me).isSome := by decide

/-! ### Witnesses: local store, paged memory -/

/-- A context of machine mode whose g5 names local store of its own cluster, and which is alone. -/
def local_ (va : Word) : State := { alone fun c => withG [(5, va), (6, 7)] { c with priv := .machine } with lmap := [(0, 0), (1, 1)] }

/-- Local store with a poisoned line, and without one. -/
theorem witness_LocalLoads_poison :
    ({ local_ 0xC1000000000000 with lsPoison := [0] } : State).lsPoisoned 0 63 1 = true ∧ ({ local_ 0xC1000000000000 with lsPoison := [0] } : State).lsPoisoned 0 64 8 = false ∧
    ∀ va n cl off, (local_ va).lsPoisoned cl off n = false := ⟨by decide, by decide, fun _ _ _ _ => rfl⟩

theorem quiet_local (va : Word) : Quiet (local_ va) := by constructor <;> first | rfl | simp [local_, alone, packageOf, State.reset]

/-- The first and the last byte of its own local store, and a word of another cluster's. -/
theorem witness_LocalAccesses :
    (∃ l, LocalAt (local_ 0xC1000000000000) ((local_ 0xC1000000000000).rg me 5 + BitVec.ofNat 64 1 * (0 : BitVec 10).signExtend 64) 1 l ∧ l.cl = me.cl) ∧
    (∃ l, LocalAt (local_ 0xC10000000FFFFE) ((local_ 0xC10000000FFFFE).rg me 5 + BitVec.ofNat 64 1 * (1 : BitVec 10).signExtend 64) 1 l ∧ l.cl = me.cl) ∧
    (∃ l, LocalAt (local_ 0xC0000000800010) ((local_ 0xC0000000800010).rg me 5 + BitVec.ofNat 64 8 * (0x3FF : BitVec 10).signExtend 64) 8 l ∧ l.cl ≠ me.cl) := by
  refine ⟨⟨_, ⟨by decide, by decide, rfl, by decide, by decide, by decide⟩, rfl⟩, ⟨_, ⟨by decide, by decide, rfl, by decide, by decide, by decide⟩, rfl⟩,
    ⟨_, ⟨by decide, by decide, rfl, by decide, by decide, by decide⟩, by decide⟩⟩

theorem witness_AtomicsAndReductions :
    (3 : Fin 8).val < 4 ∧ (∃ l, LocalAt (local_ 0xC10000000FFFF8) ((local_ 0xC10000000FFFF8).rg me 5) 8 l) ∧
    (∃ l, LocalAt (local_ 0xC10000000FFFFC) ((local_ 0xC10000000FFFFC).rg me 5) 4 l) ∧
    2 ^ 56 ≤ ((local_ 0x100000000000000).rg me 5).toNat ∧ regionOf ((local_ 0xC1000000000000).rg me 5).toNat ≠ .paged := by
  refine ⟨by decide, ⟨_, ⟨by decide, by decide, rfl, by decide, by decide, by decide⟩⟩, ⟨_, ⟨by decide, by decide, rfl, by decide, by decide, by decide⟩⟩, by decide, by decide⟩

theorem witness_AccessTraps :
    ((local_ 0).paused me.cl = false ∧ Trappable (local_ 0) me) ∧
    2 ^ 56 ≤ ((local_ 0x100000000000000).rg me 5).toNat ∧ regionOf ((local_ 0x80000000000000).rg me 5).toNat = .unassigned ∧
    regionOf ((local_ 0xC2000000000000).rg me 5).toNat = .vreg ∧
    (let va := (local_ 0x7FFFFFFFFFFFFF).rg me 5; va.toNat < 2 ^ 56 ∧ regionOf va.toNat = .paged ∧ va.toNat % 2 ≠ 0 ∧ va.toNat % 8 ≠ 0) := by
  refine ⟨⟨by decide, by constructor <;> decide⟩, by decide, by decide, by decide, by decide⟩

/-- Partition 0 over band 0, with its page table at 0x10000. -/
def part0 : Partition := { num := 0, lo := 0, hi := 0, ptd := 0, pdd := 0, vbase := 0, tpa := 0x10000, logb := 10, ptdValid := true }

/-- The entry of the page at 0: readable, writable and executable in user mode, its A bit set; of an attribute, clean or dirty. -/
def entry0 (attr : Nat) (dirty : Bool) : Xlat :=
  { cls := 0, w0 := BitVec.ofNat 64 (1 + 8 + 16 + 32 + 64 + 128 + if dirty then 256 else 0), w1 := BitVec.ofNat 64 (0x100 + attr * 2 ^ 52), pte := some 0x10000 }

/-- A partition in which a context of user mode has an access to address 8 on its way. -/
def onItsWay (op : MemOp) (st : Stage) (x : Xlat) : State :=
  { alone (fun c => { c with upvec := 0x4000, st := .parked .check }) with
    parts := [part0], accesses := [{ agent := me, lane := me, va := 8, op := op, stage := st, sm := false }]
    mem := Memory.writeN [] 0x10000 (leBytes 8 x.w0.toNat ++ leBytes 8 x.w1.toNat) }

/-- A load of a page that is clean, a store to it, and one that is about to set D, before and after the entry has changed. -/
theorem witness_TranslationSteps :
    (∀ op ∈ [MemOp.load 8 false 7 0 none, MemOp.store 8 1 0 none],
      let s := onItsWay op .probe (entry0 2 false)
      s.usesBootMap (whoOf (s.ctx me)) = false ∧ s.partOf 0 = some part0 ∧ s.translate (whoOf (s.ctx me)) 8 = .ok (entry0 2 false) ∧ s.lostPeer ((entry0 2 false).pa 8) = false ∧
        BitVec.ofNat 64 (leNat (Memory.readN s.mem 0x10000 8)) = (entry0 2 false).w0 ∧ (entry0 2 false).w0.getLsbD 7 = true ∧
        checkPage (whoOf (s.ctx me)) op.need (entry0 2 false) = .ok ∧ s.invWaits 0 8 = false ∧ s.accesses.eraseIdx s.subj.n = []) ∧
    (let s := onItsWay (.store 8 1 0 none) (.setD (entry0 2 false)) (entry0 2 false)
     (entry0 2 false).w0.getLsbD 8 = false ∧ BitVec.ofNat 64 (leNat (Memory.readN s.mem 0x10000 8)) = (entry0 2 false).w0) ∧
    (let s := onItsWay (.store 8 1 0 none) (.setD (entry0 2 false)) (entry0 2 true)
     BitVec.ofNat 64 (leNat (Memory.readN s.mem 0x10000 8)) ≠ (entry0 2 false).w0) := by decide

/-- A load and a store of an uncacheable page at their check point, one whose target's response has come, and one whose response reports a failure; and an
access of an absent page held for a record, which is free. -/
theorem witness_CheckPoints :
    (∀ op ∈ [MemOp.load 8 true 7 0 none, MemOp.store 8 1 0 none], ∀ st ∈ [Stage.check (entry0 2 true), Stage.remote (entry0 2 true)],
      let s := onItsWay op st (entry0 2 true)
      (s.findCtx me).map (fun c => (c.grp, c.st)) = some (none, .parked .check) ∧ (s.accesses.filter fun b => decide (b.agent = me)) = s.accesses ∧
        s.writes = [] ∧ s.reds = [] ∧ s.longs = [] ∧ (s.noteAgent (some me) 8 ((entry0 2 true).pa 8) (entry0 2 true).w).isAliased me 8 ((entry0 2 true).pa 8) = false ∧ s.lostPeer ((entry0 2 true).pa 8) = false ∧
        s.poisonedAt ((entry0 2 true).pa 8) op.bytes = false ∧ s.findLine me (8 / 64) = none ∧ (entry0 2 true).attr = 2) ∧
    (let s := { onItsWay (.load 8 true 7 0 none) (.remote (entry0 2 true)) (entry0 2 true) with subj := { ok := false } }
     s.subj.ok = false ∧ (MemOp.load 8 true 7 0 none).isPf = false ∧ s.paused me.cl = false ∧ s.poisonOf me = none ∧ (s.findCtx me).isSome ∧
       s.boot.mode = false ∧ (s.ctx me).tl < 2 ∧ s.packets = []) ∧
    (let s := onItsWay (.load 8 true 7 0 none) (.heldFault reasonAbsent) (entry0 2 true)
     s.paused me.cl = false ∧ s.poisonOf me = none ∧ s.partOf me.cl = some part0 ∧ (s.faultDelivery me 0 8 reasonAbsent).isSome ∧ s.packets = [] ∧
       s.faultMatch 0 8 reasonAbsent = none ∧ (s.faults.filter fun f => decide (f.part = 0)).length < 4096) := by decide

/-- A line of the bank of P0, of line 1 of VA space: its valid and dirty bytes, its lease and its last renewal. -/
def lineOf (valid dirty : BitVec 64) (lease tick : Nat) : L1Line where
  cl := 0
  pipe := 0
  line := 1
  data := List.replicate 64 7
  valid := valid
  dirty := dirty
  wts := 0
  lease := lease
  key := 0
  perm := 15
  dset := true
  far := false
  pa := 0x100040
  owner := me
  since := 0
  tick := tick

/-- A context of user mode whose bank holds the line, with its timestamps, after n ticks of its cluster. -/
def banked (l : L1Line) (va pts hb n : Nat) : State :=
  { alone (withG [(5, BitVec.ofNat 64 va)] ∘ fun c => { c with pts := pts, vis := { c.vis with hb := hb } }) with
    l1 := [l], clusters := [{ id := 0, released := true, active := true, ticks := n }] }

theorem held_banked (l : L1Line) (va pts hb n : Nat) (hl : l.cl = 0 ∧ l.pipe = 0 ∧ l.line = va / 64) (h : l.data.length = 64) : LineHeld (banked l va pts hb n) me va l := by
  refine ⟨rfl, ?_, h, rfl, ?_, ?_, ?_⟩
  · show [l].find? (fun x => decide (x.cl = 0 ∧ x.pipe = 0 ∧ x.line = va / 64)) = some l
    simp [hl]
  all_goals (intro x hx; cases hx)

/-- Loads of the first byte, of the last one and of the last eight: of bytes of the bank's own, of a clean line within its lease and at its last admissible age, of one
beyond its age and of one beyond its lease; a store; and at the check point a load, a store and an atomic of a WB page. -/
theorem witness_CachedAccesses :
    (∀ p ∈ [(0, 0), (63, 0), (56, 6)], let va := 64 + p.1; let n := 2 ^ (p.2 / 2)
      let own := BitVec.ofNat 64 ((2 ^ n - 1) * 2 ^ (va % 64))
      va < 2 ^ 56 ∧ regionOf va = .paged ∧ va % n = 0 ∧ ((banked (lineOf own own 0 0) va 0 0 0).rg me 5 + BitVec.ofNat 64 n * (0 : BitVec 10).signExtend 64).toNat = va ∧
      (let l := lineOf own own 0 0; own &&& l.valid = own ∧ own &&& l.dirty = own ∧ checkLine (whoOf ((banked l va 0 0 0).ctx me)) .read l = .ok ∧ l.bad = false) ∧
      (let l := lineOf (BitVec.allOnes 64) 0 64 0
       own &&& l.valid = own ∧ own &&& l.dirty ≠ own ∧ (banked l va 64 0 64).poisonedAt (l.pa + va % 64) n = false ∧
         ((banked l va 64 0 64).cluster l.cl).ticks ≤ l.tick + 64 ∧ ((banked l va 64 0 64).ctx me).pts ≤ l.lease ∧
         l.tick + 64 < ((banked l va 0 0 65).cluster l.cl).ticks ∧ l.lease < ((banked l va 65 65 0).ctx me).pts ∧ l.lease < ((banked l va 65 65 0).ctx me).vis.hb)) ∧
    (∀ l va pts hb n, l.cl = 0 ∧ l.pipe = 0 ∧ l.line = va / 64 → l.data.length = 64 →
      LineHeld (banked l va pts hb n) me va l ∧ ((banked l va pts hb n).findCtx me).isSome ∧ (banked l va pts hb n).accesses = []) ∧
    (let l := lineOf (BitVec.allOnes 64) 0 64 0
     l.perm.getLsbD 3 = true ∧ keyOk (whoOf (ctxAt 0)) l.key = true ∧ l.perm.getLsbD 1 = true ∧ l.dset = true) ∧
    (∀ op ∈ [MemOp.load 8 true 7 0 none, MemOp.store 8 1 0 none], let s := onItsWay op (.check (entry0 0 true)) (entry0 0 true)
      (s.accesses[s.subj.n]?).map Access.op = some op ∧ (s.findCtx me).map (fun c => (c.grp, c.st)) = some (none, .parked .check) ∧
        (s.accesses.filter fun b => decide (b.agent = s.cur)) = s.accesses ∧ s.writes = [] ∧ s.reds = [] ∧ s.longs = [] ∧
        (s.noteAgent (some me) 8 ((entry0 0 true).pa 8) (entry0 0 true).w).isAliased me 8 ((entry0 0 true).pa 8) = false ∧ s.lostPeer ((entry0 0 true).pa 8) = false ∧
        s.findLine me (8 / 64) = none ∧ (entry0 0 true).attr = 0 ∧ s.poisonedAt ((entry0 0 true).pa 8) 8 = false) ∧
    (let l : L1Line := { lineOf 0xFF00 0xFF00 0 0 with line := 0, pa := 0x100000 }
     let op := MemOp.amo .add 8 1 0 7 .grp .rlx
     let s : State := { onItsWay op (.check (entry0 0 true)) (entry0 0 true) with l1 := [l] }
     (s.accesses[s.subj.n]?).map Access.op = some op ∧ s.findLine me (8 / 64) = some l ∧ l.data.length = 64 ∧ s.isAliased me 8 l.pa = false ∧ s.writes = [] ∧ s.reds = [] ∧
       l.bad = false ∧ BitVec.ofNat 64 ((2 ^ 8 - 1) * 2 ^ 8) &&& l.dirty = BitVec.ofNat 64 ((2 ^ 8 - 1) * 2 ^ 8) ∧ l.valid = l.dirty ∧ (entry0 0 true).attr ≠ 2 ∧
       (rmwNew .add 8 (leNat ((l.data.drop 8).take 8)) 1 0).isSome) := by
  refine ⟨by decide, fun l va pts hb n hl h => ⟨held_banked l va pts hb n hl h, rfl, rfl⟩, by decide, by decide, by decide⟩

/-- A result for a register, one for a predicate, and a load whose bytes are still open; writes to local store and to memory, a reduction and a dirty line. -/
theorem witness_ResultsAndWrites :
    (∀ d ∈ [Dest.g 31, Dest.p 7], ∀ q ∈ [none, some (⟨me, .ls 0 0, 8, false⟩ : Late)],
      let s : State := { alone id with longs := [{ dst := me, dest := d, val := 1, late := q }] }
      ∃ l ∈ s.longs, l.poisoned = none ∧ l.abort = none ∧ l.dest = d ∧ l.late = q) ∧
    (let s : State := { alone id with
       writes := [{ agent := me, pipe := 0, place := .ls 0 0xFFFF8, data := leBytes 8 1, mask := 0xFF }, { agent := me, pipe := 0, place := .mem 0 0xFFF0, data := leBytes 8 1, mask := 0xFF }]
       subj := { n := 1 } }
     s.subj.hi ≠ 1 ∧ ∀ q ∈ s.writes.take s.subj.n, ∀ w ∈ s.writes.drop s.subj.n,
       (w.follows q && placesMeet q.place q.data.length w.place w.data.length) = false) ∧
    (let s : State := { alone id with reds := [{ agent := me, place := .ls 0 0, op := .add, n := 4, val := 1 }] }
     s.reds.take s.subj.n = [] ∧ ∃ v, rmwNew .add 4 (leNat (Memory.readN s.ls (lsKey 0 0) 4)) (1 : Word).toNat 0 = some v) ∧
    (let l : L1Line := { cl := 0, pipe := 0, line := 0, data := [], valid := 0, dirty := 1, wts := 0, lease := 0, key := 0, perm := 0, dset := true, far := false, pa := 0, owner := me, since := 0 }
     ({ alone id with l1 := [l] } : State).l1[0]? = some l ∧ l.dirty ≠ 0) := by
  refine ⟨by decide, by decide, ⟨rfl, 1, by decide⟩, by decide⟩

/-- A tick that is due, a window that has ended, and one whose announcement arrives with one `fence.sc` in it. -/
theorem witness_TicksAndWindows :
    (let s : State := { alone id with gtime := 700 }; ((s.cluster 0).ticks + 1) * 1024 ≤ s.cycle 0) ∧
    (let s : State := { alone id with gtime := 16 }; 16 * (s.subj.num + 1) ≤ s.gtime) ∧
    (let s : State := { alone id with gtime := 112, scops := [{ agent := me, window := 0, seq := 0, closed := true, ops := [], sm := false }] }
     16 * (s.subj.num + 1) + 96 ≤ s.gtime ∧ (∃ o, s.scops = [o] ∧ o.closed = true ∧ o.window ≤ s.subj.num ∧ o.ops = [] ∧ (s.findCtx o.agent).isSome) ∧
       (s.cluster 0).active = true ∧ (({ s with clusters := [{ id := 0, released := true }] } : State).cluster 0).active = false) := by
  refine ⟨by decide, by decide, by decide, ⟨_, rfl, rfl, by decide, rfl, by decide⟩, rfl, rfl⟩

/-! ### Witnesses: synchronisation, system registers, traps -/

/-- A team of cluster 0 with two barriers, a ring of four slots, two streams, a work queue and four free blocks of each pool. -/
def team0 : Team where
  cl := 0
  num := 0
  part := 0
  task := none
  trank := 3
  gsize := 8
  domain := 0
  lsBase := 0
  lsSize := 0x4000
  tmpl := { groups := [], nstrm := 2, nbar := 2, rings := [{ slots := 4, size := 256, base := 0 }], nwq := 1, swap := 0, vrs := [4, 4, 4], ls := [], rbsz := 0, rbsrc := 0 }
  bars := [{}, { total := 0xFFFF, arrivals := 1, expected := 2 }]
  rings := [{ slots := 4, size := 256, base := 0, phases := 8 }]
  streams := [{ atEnd := true }, { atEnd := true }]
  wqs := [{}]
  wds := List.replicate 8 0
  pool := [4, 4, 4]

/-- A context of the team, alone, with every role. -/
def inTeam (g : Team → Team) (f : Ctx → Ctx) : State := { alone (fun c => f { c with team := some 0, role := 7 }) with teams := [g team0], lmap := [(0, 0)] }

theorem quiet_team (x : Word) : Quiet (inTeam id (withG [(5, x)])) := by
  constructor <;> first | rfl | simp [inTeam, alone, packageOf, State.reset]

/-- Nothing on its way; a write on its way before a release at CLU; and a lost write. -/
theorem witness_FencesAndAnnouncements :
    Quiet (alone id) ∧ (4 : Fin 8).val ≥ 4 ∧ (∃ l, LocalAt (local_ 0xC1000000000000) ((local_ 0xC1000000000000).rg me 5) 8 l) ∧
    (let s : State := { alone id with writes := [{ agent := me, pipe := 0, place := .ls 0 0, data := [1], mask := 1 }] }
     (ctxAt 0).lostWrite = none ∧ (1 : Fin 4) ≠ 0 ∧ ∃ w ∈ s.writes, s.sameBank s.cur w = true) ∧
    (∃ c, (alone fun c => { c with lostWrite := some 0x2000 }).findCtx me = some c ∧ c.grp = none ∧ c.lostWrite = some 0x2000) ∧
    Trappable (alone fun c => { c with lostWrite := some 0x2000 }) me := by
  refine ⟨?_, by decide, ⟨_, ⟨by decide, by decide, rfl, by decide, by decide, by decide⟩⟩, by decide, ⟨_, rfl, rfl, rfl⟩, by constructor <;> decide⟩
  constructor <;> first | rfl | simp [alone, packageOf, State.reset]

/-- Barrier 0: the first arrival of two, and the only one of one; barrier 1, at the last phase of its counter: the second arrival of two; a wait in the phase of
the ticket, behind it, and woken; `bar.arw` likewise. -/
theorem witness_BarriersAndWaits :
    (∀ x, (inTeam id (withG [(5, x)])).teamOf me = some team0) ∧ (team0.bar 0).arrivals = 0 ∧
    (∀ x, (inTeam id (withG [(5, x)])).rg me 5 = x) ∧ (0 + 1 = (1 : Word).toNat % 256 ∧ 0 + 1 < (2 : Word).toNat % 256 ∧ 0 + 1 < (255 : Word).toNat % 256) ∧
    ((team0.bar 1).arrivals + 1 = (team0.bar 1).expected ∧ 1 < team0.bars.length) ∧
    (ticketOf (ctxAt 0) 0 = (team0.bar 0).phase ∧ (ctxAt 0).woken = false ∧ (ctxAt 0).arrived2 = false) ∧ ticketOf (ctxAt 0) 1 ≠ (team0.bar 1).phase ∧
    (let s : State := { alone fun c => withG [(5, 4), (6, 3)] { c with arrived := 6, notice := 2 } with
       ocq := [{ ticket := 0, ctx := me, cls := .occ, done := false }] }
     let c := s.ctx me
     (s.ocq.filter fun e => decide (e.ctx = me ∧ e.cls = .occ)).length = 1 ∧ c.arrived &&& s.rg me 5 = s.rg me 5 ∧ c.arrived &&& s.rg me 6 ≠ s.rg me 6 ∧
       s.rg me 0 = 0 ∧ c.arrived &&& s.rg me 6 ≠ 0 ∧ c.notice &&& s.rg me 5 = 0 ∧ s.rg me 5 ≠ 0 ∧ c.notice &&& s.rg me 6 ≠ 0 ∧ c.woken = false) ∧
    (let s := alone (withG [(5, 1)]); (s.ctx me).arrived &&& s.rg me 5 = 0 ∧ s.rg me 5 ≠ 0) ∧
    (let s := packageOf [ctxAt 0, { ctxAt 0 with id := ⟨0, 0, 3⟩ }]
     0 < (s.ctxs.filter fun o => decide (o.id.cl = me.cl ∧ o.id.pipe = me.pipe ∧ o.id.slot ≠ me.slot ∧ o.st = .ready)).length ∧ s.mustPark me = false) ∧
    (((alone id).ctxs.filter fun o => decide (o.id.cl = me.cl ∧ o.id.pipe = me.pipe ∧ o.id.slot ≠ me.slot ∧ o.st = .ready)).length = 0) := by
  refine ⟨fun _ => rfl, rfl, fun _ => rfl, ?_, ?_, ?_, ?_, ?_, ?_, ?_, ?_⟩ <;> decide

/-- A context of user mode, one of supervisor mode, one of a team and one of none; numbers at the edges of the table of R182. -/
theorem witness_SystemRegisters :
    ((alone id).ctx me).priv = .user ∧ ((alone fun c => { c with priv := .supervisor }).ctx me).priv ≠ .user ∧
    (inTeam id id).teamOf me = some team0 ∧ (alone id).teamOf me = none ∧
    (0x030 ≤ (0x030 : BitVec 12).toNat ∧ (0x034 : BitVec 12).toNat ≤ 0x034 ∧ 0x039 ≤ (0x039 : BitVec 12).toNat ∧ (0x03C : BitVec 12).toNat ≤ 0x03C) ∧
    (sysAccess (0xFFF : BitVec 12).toNat = none ∧ sysAccess (0x009 : BitVec 12).toNat = none ∧ (0x012 : BitVec 12).toNat ≤ 0x012) ∧
    (let s := alone fun c => withG [(5, 2), (6, 3)] { c with priv := .supervisor }; (s.rg me 5).toNat ≤ 2 ∧ 2 < (s.rg me 6).toNat) := by decide

/-- A fetch that failed, and a fused group that runs as one; a return to user mode from TL 1, to machine mode from TL 2, one at TL 0, one from a PPRIV above the
level; a token in use and one whose service has ended. -/
theorem witness_TrapsAndReturns :
    ((alone id).findCtx (alone id).cur).isSome ∧ (alone id).subj.ok = true ∧
    (∃ g, (fused id fun _ c => c).groupOf me = some g ∧ me = ⟨g.cl, g.base, g.slot⟩ ∧ g.lm = g.members ∧ g.stack = [] ∧
      (fused id fun _ c => c).boot.mode = false ∧ ((fused id fun _ c => c).ctx me).tl < 2 ∧ (fused id fun _ c => c).poisonOf me = none ∧ (fused id fun _ c => c).packets = []) ∧
    (let lacks := fun (w : Nat) (p : Priv) => fld w 25 6 = 0x23 ∧ 0x100 ≤ fld w 0 10 ∧ fld w 0 10 ≤ 0x10C ∧ (p = .user ∨ (0x108 ≤ fld w 0 10 ∧ fld w 0 10 ≤ 0x10B ∧ p ≠ .machine))
     lacks 0x46100100 .user ∧ lacks 0x4610010C .user ∧ lacks 0x46100108 .supervisor ∧ ¬ lacks 0x46100107 .supervisor ∧ ¬ lacks 0x4610010C .supervisor ∧ ¬ lacks 0 .user ∧
       Trappable (alone id) me) ∧
    (let c := (alone fun c => { c with priv := .supervisor, tl := 1 }).ctx me; c.grp = none ∧ c.priv ≠ .user ∧ c.tl ≠ 0 ∧ c.b1.estat.toNat % 4 = 0) ∧
    (let c := (alone fun c => { c with priv := .machine, tl := 2, b2 := { estat := 2 } }).ctx me; c.priv = .machine ∧ c.tl ≠ 0 ∧ c.b2.estat.toNat % 4 = 2) ∧
    (let c := (alone fun c => { c with priv := .supervisor }).ctx me; c.priv ≠ .user ∧ c.tl = 0) ∧
    (let c := (alone fun c => { c with priv := .supervisor, tl := 1, b1 := { estat := 2 } }).ctx me; c.priv = .supervisor ∧ c.tl ≠ 0 ∧ 2 ≤ c.b1.estat.toNat % 4) ∧
    (∀ u ∈ [0, 63, 5], let c := (alone fun c => { c with uptok := BitVec.ofNat 6 u, tokens := [{ t := 0, va := 0, status := some 0 }, { t := 63, va := 0, status := none }] }).ctx me
     let tok := c.tokens.find? fun k => decide (k.t = c.uptok.toNat)
     tok.bind Token.status = none ∨ tok.bind Token.status = some 0) ∧
    (let s := alone fun c => { c with upvec := 0x4000, uptok := 7, tokens := [{ t := 7, va := 0x5000, status := some 2 }] }
     let c := s.ctx me
     (c.tokens.find? fun k => decide (k.t = c.uptok.toNat)).map Token.status = some (some 2) ∧ c.priv = .user ∧ c.tl = 0 ∧ c.upvec ≠ 0 ∧ s.poisonOf me = none ∧ s.packets = []) ∧
    (let s := fused (fun g => { g with lm := 1 }) fun k c => if k = 0 then { c with priv := .supervisor, tl := 1, b1 := { ecause := 0xF, estat := 4, epc := 0x1000 } } else { c with st := .held }
     ∃ g, s.groupOf me = some g ∧ me = ⟨g.cl, g.base, g.slot⟩ ∧ 0 < g.width ∧ g.lm = 1 ∧ g.members ≠ 1 ∧ (s.ctx me).priv ≠ .user ∧ (s.ctx me).tl ≠ 0 ∧
       (s.ctx me).b1.estat.getLsbD 2 = true ∧ (s.ctx me).b1.estat.toNat % 4 = 0) ∧
    (∃ g, (fused (fun g => { g with lm := 1 }) fun _ c => c).groupOf me = some g ∧ g.lm ≠ g.members) ∧ CleanTraps (fused (fun g => { g with lm := 1 }) fun _ c => c) ∧
    (∀ l ∈ (fused id fun _ c => c).lanes me, (fused id fun _ c => c).poisonOf l = none) := by
  refine ⟨by decide, by decide, ⟨_, rfl, by decide, rfl, rfl, by decide, by decide, by decide⟩,
    ⟨by decide, by decide, by decide, by decide, by decide, by decide, by constructor <;> decide⟩, by decide, by decide, by decide, by decide, by decide, by decide,
    ⟨_, rfl, by decide, by decide, rfl, by decide, by decide, by decide, by decide, by decide⟩, ⟨_, rfl, by decide⟩, clean_fused _ _ (by decide), by decide⟩

theorem witness_PrivilegeChecks : ((alone id).ctx me).priv = .user ∧ ((alone fun c => { c with priv := .supervisor }).ctx me).priv ≠ .machine ∧
    Trappable (alone fun c => { c with priv := .supervisor }) me := by
  refine ⟨by decide, by decide, by constructor <;> decide⟩

/-! ### Witnesses: privileged instructions, tasks, rings, blocks -/

/-- A result is an answer, and f holds of what it answers and of the state after it. -/
def okWith {ε α β : Type} (r : Except ε α × β) (f : α → β → Bool) : Bool := match r with
  | (.ok a, u) => f a u
  | (.error _, _) => false

theorem okWith_iff {ε α β : Type} {r : Except ε α × β} {f : α → β → Bool} (h : okWith r f = true) : ∃ a u, r = (.ok a, u) ∧ f a u = true := by
  obtain ⟨_ | a, u⟩ := r
  · cases h
  · exact ⟨a, u, rfl, h⟩

/-- A context of partition 0 whose page at 0 is readable and writable, with its registers. -/
def served (f : Ctx → Ctx) : State :=
  { alone f with
    parts := [part0], lmap := [(0, 0)]
    mem := Memory.writeN [] 0x10000 (leBytes 8 (entry0 2 true).w0.toNat ++ leBytes 8 (entry0 2 true).w1.toNat) }

def fault0 : FaultRec where
  part := 0
  va := 0x5000
  key := 9
  gtime := 0
  kind := 0
  reason := 0
  domain := 0
  merge := 0
  priv := 0
  queued := true
  waiters := [.ctx ⟨0, 1, 0⟩ none 63]

/-- An empty queue, and an entry that is stored in the context's own local store; a key that names no record, and one that does; a page to be dropped; the last
line of a page, and the whole of it. -/
theorem witness_Services :
    (∀ f, (served f).partOf 0 = some part0) ∧
    (let s := served (withG [(5, 0x1000)] ∘ fun c => { c with priv := .supervisor })
     (s.findCtx me).isSome ∧ (s.ctx me).priv ≠ .user ∧ (s.rg me 5).toNat % 32 = 0 ∧
       s.faults.find? (fun f => decide (f.part = 0) && f.queued) = none ∧ (s.faults.find? fun f => decide (f.part = 0 ∧ f.key = s.rg me 5)) = none ∧
       (s.rg me 5).toNat % 2 ^ pageShift 0 = 0 ∧ s.inFlight 0 0x1000 (2 ^ pageShift 0) = false) ∧
    ({ served (withG [(5, 0)] ∘ fun c => { c with priv := .supervisor }) with
       accesses := [{ agent := lane 1, lane := lane 1, va := 0xFFF, op := .load 1 false 7 0 none, stage := .probe, sm := false }] } : State).inFlight 0 0 (2 ^ pageShift 0) = true ∧
    (let s := served (withG [(5, 0x1080), (6, 1)] ∘ fun c => { c with priv := .supervisor })
     (s.rg me 6).toNat = 1 ∧ (s.rg me 5).toNat % 128 = 0 ∧ s.kills.find? (fun k => decide (k.part = 0)) = none) ∧
    (let s : State := { served (withG [(5, 0xC1000000000020)] ∘ fun c => { c with priv := .machine }) with faults := [fault0] }
     (s.rg me 5).toNat % 32 = 0 ∧ notW0 (s.rg me 5).toNat = false ∧ (s.faultHead 0).map FaultRec.key = some 9 ∧
       okWith (s.ownStore (s.ctx me) 0xC1000000000020 (faultEntry fault0)) (fun _ u => ((u.faultHead 0).map FaultRec.key == some 9) && (u.ctx u.cur).grp.isNone) = true) ∧
    (let s : State := { packageOf [withG [(5, 9)] { ctxAt 0 with priv := .supervisor }, ctxAt 1] with parts := [part0], faults := [fault0] }
     ((s.faults.find? fun f => decide (f.part = 0 ∧ f.key = s.rg me 5)).map FaultRec.va) = some 0x5000 ∧ fault0.waiters = [.ctx (lane 1) (s.ctx (lane 1)).team 63] ∧
       (s.findCtx (lane 1)).isSome ∧ lane 1 ≠ me) ∧
    (∀ x y, (served (withG [(5, x), (6, y)] ∘ fun c => { c with priv := .supervisor })).rg me 5 = x ∧
      (served (withG [(5, x), (6, y)] ∘ fun c => { c with priv := .supervisor })).rg me 6 = y) ∧
    (∀ va ∈ [0, 0xFC0], (match (served id).translate { cl := 0, team := none, priv := .supervisor, domain := 0 } va with
       | .ok z => decide (z.cls = 0)
       | _ => false) = true ∧ regionOf va = .paged) ∧
    0xFC0 + 64 ≤ (0xFC0 / 2 ^ pageShift 0 + 1) * 2 ^ pageShift 0 ∧ 0 + 4096 ≤ (0 / 2 ^ pageShift 0 + 1) * 2 ^ pageShift 0 := by
  refine ⟨fun _ => rfl, by decide, by decide, by decide, by decide, by decide, fun _ _ => ⟨rfl, rfl⟩, by decide, by decide, by decide⟩

theorem witness_ContextImages :
    (let s := alone fun c => withG [(5, 0xC1000000000200)] { c with priv := .machine }
     (s.ctx me).priv ≠ .user ∧ (s.rg me 5).toNat % 512 = 0 ∧ (s.rg me 5).toNat < 2 ^ 56 ∧ (5 : Reg) ≠ 0 ∧ notW0 (s.rg me 5).toNat = false ∧
       okWith (s.ownStore (s.ctx me) 0xC1000000000200 (s.ctxImage me 1 ((s.ctx me).bank 1).epc)) (fun _ _ => true) = true ∧
       okWith ((s.drainGroup me).engReads (whoOf (s.ctx me)) 0xC1000000000200 8 64)
         (fun _ u => (u.findCtx u.cur).isSome && decide (u.cur = me) && (u.ctx u.cur).grp.isNone) = true) ∧
    (let s : State := { alone fun c => { c with priv := .supervisor, tl := 1, tvec := 0x10000 } with lmap := [(0, 0)] }
     (s.ctx me).tl ≠ 0 ∧ ((s.ctx me).tvec.toNat / 2 ^ 16 % 2 ^ 40 * 2 ^ 16 + 0x10000 + 512 * (2 * (64 * s.logical 0 + 0) + (s.ctx me).tl - 1)) = 0x20000) := by
  refine ⟨by decide +kernel, by decide⟩

/-- A cluster at the corner of the mesh has no neighbour to the west; one that is gated off does not answer, and one that is fused on and not silent does. -/
theorem witness_FirmwareInstructions :
    (let s : State := { served (withG [(5, 0x10), (6, 3), (7, 4004), (8, 4)] ∘ fun c => { c with priv := .machine }) with
       gtime := 4, clusters := [{ id := 0, released := true, boxes := [(3, List.replicate 64 7)] }, { id := 1, gated := true }]
       packets := [{ cl := 1, dir := 2, data := List.replicate 64 1, from_ := me, dest := 5 }] }
     (s.ctx me).priv = .machine ∧ (s.rg me 5).toNat % 2 ^ 12 / 16 ≠ 0 ∧ (s.partNo 0).map Partition.run = some .running ∧ (s.rg me 8).toNat % 2 ^ 12 / 4 = 1 ∧
       s.gtime + 4000 ≤ (s.rg me 7).toNat ∧ (s.rg me 0).toNat % 2 ^ 12 / 4 = 0 ∧ (s.rg me 6).toNat < 4 ∧
       neighbour 0 3 = none ∧ neighbour 0 0 = some 1 ∧ (s.cluster 1).gated = true ∧
       ((s.cluster 0).boxes.find? fun o => decide (o.1 = 3)) = some (3, List.replicate 64 7) ∧ ((s.cluster 0).boxes.find? fun o => decide (o.1 = 0)) = none) ∧
    (let s : State := { served id with packets := [2, 0].map fun d => { cl := 1, dir := d, data := List.replicate 64 1, from_ := me, dest := 5 } }
     (s.packets[s.subj.n]?).map Packet.dir = some 2 ∧ (s.cluster 1).released = false ∧ (s.cluster 1).boxes = [] ∧ ∃ o ∈ s.packets, o.cl = 1 ∧ o.dir ≤ 2) ∧
    (∀ s : State, (s.cluster 1).gated = true → s.answers 1 = false) ∧
    (enabledByFuse 1 = true → Config.silent 1 = false → (served id).answers 1 = true ∧ ((served id).cluster 1).released = false) ∧
    (let s : State := { served id with clusters := [{ id := 1, released := true, boxes := [(2, [])] }] }
     (s.cluster 1).released = true ∧ ((s.cluster 1).boxes.any fun o => decide (o.1 = 2)) = true ∧ ((s.cluster 1).boxes.any fun o => decide (o.1 = 3)) = false) ∧
    (let x := 2 ^ 20 - 64; let y := 2 ^ 20 * 16383 + 0
     x < 2 ^ 20 ∧ x % 64 = 0 ∧ x + 64 * (0 / 2 ^ 20 + 1) ≤ 2 ^ 20 ∧ 0 + 64 * (y / 2 ^ 20 + 1) ≤ 2 ^ 20 ∧ (y % 2 ^ 20) % 64 = 0) ∧
    (let s : State := { served id with clusters := [{ id := 0, released := true }, { id := 1, released := true }, { id := 2 }, { id := 3, released := true }], boot := { phase := 7 } }
     (s.clusters.filter fun o => o.released && !o.gated && decide (o.id ≠ 0)).map Cluster.id = [1, 3] ∧ s.boot.phase = 7 ∧ s.bootCluster = some 0) := by
  refine ⟨by decide, by decide, fun s h => by simp [State.answers, h], ?_, by decide, by decide, by decide +kernel⟩
  intro h1 h2
  refine ⟨?_, by decide⟩
  simp [State.answers, h1, h2]
  decide

def comm0 : Comm where
  part := 0
  slot := 2
  used := true
  cid := 5
  tms := 1000
  gen := 0xFFFF
  members := List.replicate 3 { peer := 0, pipe := 0, slot := 0, task := 0, trank := 0 }
  issued := []

/-- A handle of an unused slot; and one whose block, in the context's own local store, keeps the ranks 0 and 2. -/
theorem witness_Reforming :
    (let s : State := { served (withG [(5, 0xFFFF0002), (6, 0xC1000000000008)] ∘ fun c => { c with priv := .machine }) with
       comms := [comm0], ls := Memory.writeN [] 8 (leBytes 2 2 ++ leBytes 6 0 ++ leBytes 2 0 ++ leBytes 2 2) }
     (s.rg me 5).toNat < 2 ^ 32 ∧ (s.rg me 6).toNat % 8 = 0 ∧ s.handleSlot 0 (s.rg me 5).toNat = some comm0 ∧ s.handleSlot 0 3 = none ∧
       okWith ((s.drainGroup me).engReads (whoOf (s.ctx me)) 0xC1000000000008 8 1) (fun head u =>
         okWith (u.engReads (whoOf (s.ctx me)) 0xC1000000000010 2 (min (leNat (head.take 2)) 4096)) fun rest w =>
           let v := w.collStale 0 2
           let h : Word := BitVec.ofNat 64 (2 + (comm0.gen + 1).toNat * 2 ^ 16)
           (reformBlock comm0 (head ++ rest) == some (0, [0, 2])) && !w.slotBusy 0 2 && (v.ctx v.cur).lostWrite.isNone && (v.ctx v.cur).grp.isNone && decide (v.cur = me) &&
             (((v.reformComm comm0 0 [0, 2]).modCtx v.cur fun c => { c with reformed := some h }).release v.cur .sys).1) = true ∧ (s.ctx me).reformed = none) := by decide +kernel

/-- The block of a work queue: 2 columns, 3 rows, one shape of one tile. -/
def wqBlock : List Byte := leBytes 4 2 ++ leBytes 4 3 ++ leBytes 2 1 ++ leBytes 2 1 ++ leBytes 1 1 ++ leBytes 3 0 ++ leBytes 2 1 ++ leBytes 2 1 ++ leBytes 12 0

theorem witness_WorkQueues :
    (∀ e ∈ [2, 0], let s : State := { inTeam id (withG [(5, 0xC1000000000000)]) with ls := Memory.writeN [] 0 (leBytes 4 e ++ wqBlock.drop 4) }
     let u := s.settleOwnLs s.cur
     (0 : Fin 4).val < team0.wqs.length ∧ (match u.wqRead (whoOf (u.ctx me)) team0 (u.rg me 5).toNat (u.rg me 0).toNat with
       | .ok q => decide (q.isSome = decide (e = 2))
       | .error _ => false) = true) ∧
    (team0.wqs.map WQ.done) = [true] ∧ team0.wqs.length ≤ (1 : Fin 4).val ∧ (7 : PReg) ≠ 0 ∧
    (wqStart 2 1 [(1, 1)] [3]).done = false ∧
    (∀ p ∈ [(1, 0, 0), (3, 0, 1), (4, 1, 1), (5, 1, 2)], let q := { wqStart 4 2 [(1, 4), (4, 2)] [0, 5, 0, 1] with rem := p.1, col := 2 * p.2.2 }
     q.done = false ∧ ((q.menu[p.2.1]?).map fun y => decide (y.1 ≤ q.rem ∨ p.2.1 = 0)) = some true ∧ ∀ j, j < q.menu.length → ((q.menu[j]?).getD (0, 0)).1 ≤ q.rem → j ≤ p.2.1) := by
  decide +kernel

def task0 (st : TState) (n : Nat) : Task where
  part := 0
  idx := 0
  st := st
  counter := n
  entry := 0
  tmplVa := 0
  args := 0
  grid := 1
  prio := 0
  succs := []
  done := 0
  domain := 0
  cookie := none

/-- An index beyond the table; a record that is loaded, with a counter of one and of two, and one that is Ready; a free record that is loaded from its page. -/
theorem witness_TaskInstructions :
    (let s := served (withG [(5, 4096)]); 4096 ≤ (s.rg me 5).toNat) ∧
    (∀ k ∈ [task0 .loaded 1, task0 .loaded 2, task0 .loaded 0, task0 .ready 1], let s : State := { served id with tasks := [k] }
     (s.rg me 5).toNat < 4096 ∧ (s.task 0 0).map (fun x => (x.st, x.counter)) = some (k.st, k.counter)) ∧
    (let s : State := { served id with
       parts := [{ part0 with ttab := 0x100 }]
       mem := Memory.writeN (Memory.writeN [] 0x10000 (leBytes 8 (entry0 2 true).w0.toNat ++ leBytes 8 (entry0 2 true).w1.toNat)) 0x100118 (leBytes 4 1) }
     let r := s.release me .dev
     let v := r.2.loadTask { part0 with ttab := 0x100 } 0 0 none
     r.1 = true ∧ v.1 = 0 ∧ (v.2.findCtx v.2.cur).isSome ∧ (v.2.ctx v.2.cur).grp = none) := by
  refine ⟨by decide, by decide, by decide +kernel⟩

/-- A slot of ring 0 that shows the phase, one that does not, and one beyond the ring; the last ring and the first one out of range. -/
theorem witness_StageRings :
    (∀ x, (inTeam id (withG [(5, x)])).teamOf me = some team0 ∧ (inTeam id (withG [(5, x)])).rg me 5 = x) ∧
    team0.rings[0]? = some { slots := 4, size := 256, base := 0, phases := 8 } ∧
    ((3 : Word).toNat % 8 < 4 ∧ (8 : BitVec 8).getLsbD 3 = true) ∧ ((0 : Word).toNat % 8 < 4 ∧ (8 : BitVec 8).getLsbD 0 ≠ true) ∧ 4 ≤ (4 : Word).toNat % 8 ∧
    team0.rings.length ≤ (1 : Fin 8).val ∧ (0 : Fin 8).val < team0.rings.length :=
  ⟨fun _ => ⟨rfl, rfl⟩, rfl, by decide, by decide, by decide, by decide, by decide⟩

/-- No block, all of the pool, more than it has free, more than the template gives; blocks that are held, in use or not, and more than are held. -/
theorem witness_VectorBlocks :
    (∀ x, (inTeam id (withG [(5, x)])).teamOf me = some team0 ∧ (inTeam id (withG [(5, x)])).rg me 5 = x) ∧
    ((team0.pool[0]?).getD 0 = 4 ∧ team0.waitersAhead 0 me = false ∧ (team0.tmpl.vrs[0]?).getD 0 = 4 ∧ ((inTeam id id).ctx me).role.getLsbD 0 = true) ∧
    (let m : Team := { team0 with pool := [3, 4, 4] }; (m.pool[0]?).getD 0 < 4 ∧ 4 ≤ (m.tmpl.vrs[0]?).getD 0) ∧ (team0.tmpl.vrs[0]?).getD 0 < 5 ∧
    (let s := inTeam id (withG [(5, 2)] ∘ fun c => { c with vblocks := 2 }); (s.rg me 5).toNat % 512 ≤ (s.ctx me).vblocks ∧ s.blocksUsed me 2 = false) ∧
    (let s := inTeam id (withG [(5, 2)] ∘ fun c => { c with vblocks := 1 }); (s.ctx me).vblocks < (s.rg me 5).toNat % 512) :=
  ⟨fun _ => ⟨rfl, rfl⟩, by decide, by decide, by decide, by decide, by decide⟩

/-! ### Witnesses: the vector engine -/

/-- A record of one dimension: base, type, extent, stride 1. -/
def rec1 (base ty e : Nat) : List Byte := leBytes 8 base ++ leBytes 2 (ty + 0x900) ++ leBytes 6 0 ++ leBytes 4 e ++ leBytes 12 0 ++ leBytes 8 1 ++ leBytes 24 0

/-- A record of two dimensions. -/
def rec2 (base ty e0 e1 : Nat) : List Byte :=
  leBytes 8 base ++ leBytes 2 (ty + 0xA00) ++ leBytes 6 0 ++ leBytes 4 e0 ++ leBytes 4 e1 ++ leBytes 8 0 ++ leBytes 8 1 ++ leBytes 8 e0 ++ leBytes 16 0

/-- A team's context of every role whose allocation begins with the records given. -/
def recorded (l : List (List Byte)) (f : Ctx → Ctx) : State := { inTeam id f with ls := Memory.writeN [] 0 l.flatten }

/-- The conditions of VecReady, without the views that the records name. -/
def vecReady (op : Nat) (scl : Bool) (ga gb : Word) (s : State) : Bool :=
  let v := s.drainGroup s.cur
  (s.findCtx s.cur).isSome && decide (((s.cluster s.cur.cl).vq.filter fun v => decide (v.pipe = s.cur.pipe)).length < 16) &&
    !((wb gb 43 && barBad (s.teamOf s.cur) (wfld gb 44 5)) || (wb gb 49 && ringBad (s.teamOf s.cur) (wfld gb 50 3) (wfld gb 53 3))) &&
    (s.ctx s.cur).role.getLsbD 2 && (List.range 4).all (fun k => decide (vecIdxUsed op scl k = true ↔ vecIndex ga k ≠ 0xFFFF)) &&
    (List.range 4).all (fun k => !vecIdxUsed op scl k || (s.recordBytes (s.teamOf s.cur) (vecIndex ga k)).isSome) &&
    !vecGbBad op scl gb (v.rawType (s.teamOf s.cur) (vecIndex ga 0)) (v.rawType (s.teamOf s.cur) (vecIndex ga 1)) &&
    okWith (v.vecRecords (s.ctx s.cur) op scl ga gb [0, 1, 2, 3] []) fun vs u => match vs with
      | some dv :: r => decide (∀ v ∈ (some dv :: r).filterMap id, v.beyondVrs (s.ctx s.cur).vblocks = false) && !u.vecPartial (s.ctx s.cur) op gb dv
      | _ => false

theorem vecReady_iff {op : Nat} {scl : Bool} {ga gb : Word} {s : State} (h : vecReady op scl ga gb s = true) : ∃ dv r u, VecReady op scl ga gb dv r s u := by
  simp only [vecReady, Bool.and_eq_true, Bool.not_eq_true'] at h
  obtain ⟨⟨⟨⟨⟨⟨⟨h1, h0⟩, h2⟩, h3⟩, h4⟩, h5⟩, h6⟩, h7⟩ := h
  obtain ⟨vs, u, h8, h9⟩ := okWith_iff h7
  rcases vs with _ | ⟨_ | dv, r⟩
  · cases h9
  · cases h9
  · simp only [Bool.and_eq_true, Bool.not_eq_true'] at h9
    exact ⟨dv, r, u, h1, of_decide_eq_true h0, h2, h3, fun k hk => of_decide_eq_true (List.all_eq_true.1 h4 k (List.mem_range.2 hk)),
      fun k hk hu => by simpa [hu] using List.all_eq_true.1 h5 k (List.mem_range.2 hk), h6, h8, of_decide_eq_true h9.1, h9.2⟩

/-- Three i32 views of four elements, one of one element, and an f32 view. -/
def vecRecs : List (List Byte) := [rec1 0xC1000000001000 9 4, rec1 0xC1000000001100 9 4, rec1 0xC1000000001200 9 4, rec1 0xC1000000001300 9 1, rec1 0xC1000000001400 2 4]

/-- The word gA of a function over them: its unused indices are 0xFFFF. -/
def vecGa (op : Nat) (scl : Bool) : Word := BitVec.ofNat 64 (((List.range 4).map fun k =>
  (if (vecIdxUsed op scl k) then (if op = 0x19 then 4 else if k = 0 ∧ 0x12 ≤ op ∧ op ≤ 0x14 then 3 else k % 3) else 0xFFFF) * 2 ^ (16 * k)).sum)

theorem witness_VectorIssue :
    (∀ o : Nat × Bool, o ∈ (List.range 0x1C).map (fun op => (op, op == 0x17)) ++ [(0x00, true), (0x0F, true), (0x18, true), (0x16, true)] →
      ∃ dv r u, VecReady o.1 o.2 ((recorded vecRecs (withG [(5, vecGa o.1 o.2)])).rg me 5) ((recorded vecRecs (withG [(5, vecGa o.1 o.2)])).rg me 0) dv r
        (recorded vecRecs (withG [(5, vecGa o.1 o.2)])) u) ∧
    ((alone fun c => { c with role := 3 }).ctx me).role.getLsbD 2 = false ∧ wb ((alone id).rg me 0) 43 = false ∧ wb ((alone id).rg me 0) 49 = false := by
  refine ⟨fun o h => vecReady_iff ?_, by decide⟩
  revert o
  decide +kernel

/-- A command of P0 over three views, with its parts as they are. -/
def vecCmd (op parts : Nat) (work : List VPart) : VCmd where
  pipe := 0
  by_ := { ctx := me, priv := .user, domain := 0, team := some 0, wds := List.replicate 8 0 }
  op := op
  scl := false
  gb := 0
  d := parseView 0 (rec2 0xC1000000001000 9 2 2)
  s1 := some (parseView 0 (rec2 0xC1000000001100 9 2 2))
  s2 := some (parseView 0 (rec2 0xC1000000001200 9 2 2))
  s3 := none
  weight := 2
  parts := parts
  work := work
  sig := {}
  oc := if op = 0x1A then some 0 else none

/-- The command is the first of the cluster. -/
def heading (c : VCmd) : State := { inTeam id id with clusters := [{ id := 0, released := true, active := true, vq := [c] }], subj := { ok := false } }

/-- An addition of two parts, the second not bound yet; one of one part that is asked to end, and one that is asked to do no step; a gather; an ended one. -/
theorem witness_VectorExecution :
    (let c := vecCmd 0 2 [{ lane := true }, {}]
     ((heading c).cluster 0).nextPipe = some (0, 2) ∧ ((heading c).cluster 0).lanes.length < 8 ∧ ((heading c).cluster 0).head 0 = some c ∧ c.nextPart = some 1) ∧
    (let c := { vecCmd 0 1 [{}] with ended := true }; ((heading c).cluster 0).head 0 = some c ∧ c.finished = true ∧ c.op < 0x19 ∧ c.sig = {} ∧ c.oc = none) ∧
    (∀ n ∈ [0, 1], let c := vecCmd 0 1 [{ lane := true }]; let r := c.advance 0 n (heading c)
      ((heading c).cluster 0).head 0 = some c ∧ c.finished = false ∧ (c.part 0).lane = true ∧ r.1.op = c.op ∧ r.1.pipe = 0 ∧
        r.1.sig = {} ∧ r.1.oc = none ∧ r.1.finished = decide (n = 0) ∧ ((r.2.cluster 0).head 0).isSome) ∧
    (let c := vecCmd 0x1A 0 [{}]; let r := c.advance 0 0 (heading c)
     ((heading c).cluster 0).head 0 = some c ∧ (heading c).subj.ok = false ∧ r.1.op = 0x1A ∧ r.1.pipe = 0 ∧ r.1.sig = {} ∧ r.1.finished = true ∧ r.1.oc = some 0) ∧
    (tyFmt 9 = none ∧ 0 < tyBits 9 ∧ (0x08 ≤ 0x08 ∨ 0x08 = 0x0C ∨ 0x08 = 0x18) ∧ tyFmt 16 = none ∧ 0 < tyBits 16) := by decide +kernel

theorem witness_SpecialFunctions :
    ((inTeam id id).findCtx me = some { ctxAt 0 with team := some 0, role := 7 } ∧ ((inTeam id id).cluster 0).sfuq.length < 32) ∧
    ((alone fun c => { c with role := 3 }).ctx me).role.getLsbD 2 = false ∧ Trappable (alone fun c => { c with role := 3 }) me ∧
    (let k : Cluster := { id := 0, sfuq := [.scalar [(me, 1)] 5 me none, .vec 0], sfuOut := [{ dst := me, dest := .g 5, val := 1 }] }
     k.sfuq = .scalar [(me, 1)] 5 me none :: [.vec 0] ∧ ∃ l, k.sfuOut = l :: [] ∧ l.dest = .g 5 ∧ l.away = none) ∧ (5 : Reg) ≠ 0 ∧
    (let s : State := { inTeam id id with clusters := [{ id := 0, released := true, active := true, sfuOut := [{ dst := me, dest := .g 5, val := 1, away := some (.team 0) }] }] }
     ∃ l m, (s.cluster 0).sfuOut = l :: [] ∧ l.dest = .g 5 ∧ l.away = some (.team 0) ∧ s.team l.dst.cl 0 = some m) :=
  ⟨by decide, by decide, by constructor <;> decide, ⟨rfl, _, rfl, rfl, rfl⟩, by decide, _, _, rfl, rfl, rfl, rfl⟩

/-! ### Witnesses: the matrix engine -/

/-- The conditions of MxReady. -/
def mxReady (arv : Bool) (ring : Option (Nat × Nat)) (recs : MxCheck) (s : State) : Bool :=
  (s.findCtx s.cur).isSome && decide ((s.quad s.cur.cl (mxQueue (s.isFused s.cur) s.cur.pipe)).queue.length < 8) &&
    !(arv && barBad (s.teamOf s.cur) (mcBar (s.icfg (mxQueue (s.isFused s.cur) s.cur.pipe)))) &&
    ring.all (fun x => !ringBad (s.teamOf s.cur) x.1 x.2) && (s.ctx s.cur).role.getLsbD 1 &&
    okWith (recs (s.drainGroup s.cur)) fun _ u => decide ((u.cluster u.cur.cl).quads.length = 4)

theorem mxReady_iff {arv : Bool} {ring : Option (Nat × Nat)} {recs : MxCheck} {s : State} (h : mxReady arv ring recs s = true) :
    ∃ v1 v2 u, MxReady arv ring recs v1 v2 s u := by
  simp only [mxReady, Bool.and_eq_true] at h
  obtain ⟨⟨⟨⟨⟨h1, h2⟩, h3⟩, h4⟩, h5⟩, h6⟩ := h
  obtain ⟨⟨v1, v2⟩, u, h7, h8⟩ := okWith_iff h6
  refine ⟨v1, v2, u, h1, of_decide_eq_true h2, fun ha => by simpa [ha] using h3, fun r i hr => ?_, h5, h7, of_decide_eq_true h8⟩
  subst hr
  simpa using h4

/-- A bf16 tile, an f32 tile, an f32 row and a bf16 vector, with the pair bf16 and bf16 in force in quadrant 0. -/
def matRecs (f : Ctx → Ctx) : State :=
  let s := recorded [rec2 0xC1000000001000 3 4 4, rec2 0xC1000000001100 2 4 4, rec2 0xC1000000001200 2 4 2, rec2 0xC1000000001300 3 4 2] f
  { s with clusters := s.clusters.map fun k => { k with quads := [{ icfg := 0x00030003 }, {}, {}, {}] } }

theorem witness_MatrixIssue :
    (let s := matRecs (withG [(5, 0x00030003)])
     (∃ v1 v2 u, MxReady false none noRecs v1 v2 s u) ∧ (∃ v1 v2 u, MxReady true none noRecs v1 v2 s u) ∧
     wfld (s.rg me 5) 9 7 = 0 ∧ wfld (s.rg me 5) 25 7 = 0 ∧ wfld (s.rg me 5) 46 18 = 0 ∧ (pairOf (s.rg me 5)).isSome = true ∧ mcJoin (s.rg me 5) = false ∧
     (pairOf (s.icfg 0)).isSome = true ∧ mcJoin (s.icfg 0) = false ∧ spmmPair (s.icfg 0) = true ∧ (1 : Fin 8).val / 2 = 0) ∧
    (let s := matRecs (withG [(6, 1)])
     ∀ o : Bool, (∃ v1 v2 u, MxReady true (some (0, 0)) (mxLdRec (s.ctx me) (s.icfg 0) false o (s.rg me 5)) v1 v2 s u) ∧ wfld (s.rg me 5) 16 48 = 0 ∧
       (if wb (s.rg me 6) 0 then some (wfld (s.rg me 6) 1 3, wfld (s.rg me 6) 4 3) else none) = some (0, 0) ∧ wfld (s.rg me 6) 7 57 = 0) ∧
    (let s := matRecs (withG [(5, 1), (6, 0x10)])
     (∃ v1 v2 u, MxReady true (some (0, 0)) (mxStRec (s.ctx me) false (s.rg me 5) (s.rg me 6)) v1 v2 s u) ∧ wfld (s.rg me 5) 16 48 = 0 ∧
       (if wb (s.rg me 6) 4 then some (wfld (s.rg me 6) 5 3, wfld (s.rg me 6) 8 3) else none) = some (0, 0) ∧ wfld (s.rg me 6) 11 53 = 0 ∧
       (dwSat (s.rg me 6) && dwNosat (s.rg me 6)) = false) ∧
    (let s := matRecs (withG [(5, 1)]); (∃ v1 v2 u, MxReady true none (gmLayRec (s.ctx me) (s.rg me 5)) v1 v2 s u) ∧ wfld (s.rg me 5) 16 48 = 0) ∧
    (let s := matRecs (withG [(5, 0x00030002)]); (∃ v1 v2 u, MxReady true none (gmGemvRec (s.ctx me) (s.rg me 5)) v1 v2 s u) ∧ wfld (s.rg me 5) 32 32 = 0) ∧
    (let s := matRecs id; (∃ v1 v2 u, MxReady true none (spmmRec (s.ctx me) (s.icfg 0) false (s.rg me 6)) v1 v2 s u) ∧ wfld (s.rg me 5) 56 8 = 0) ∧
    ((alone fun c => { c with role := 5 }).ctx me).role.getLsbD 1 = false := by
  refine ⟨⟨mxReady_iff ?_, mxReady_iff ?_, ?_⟩, fun o => ⟨mxReady_iff ?_, ?_⟩, ⟨mxReady_iff ?_, ?_⟩, ⟨mxReady_iff ?_, ?_⟩, ⟨mxReady_iff ?_, ?_⟩, ⟨mxReady_iff ?_, ?_⟩, ?_⟩
  all_goals first | decide +kernel | (cases o <;> decide +kernel)

/-- A configuration and `mx.zero` at the head of quadrant 0, which is in error state or not. -/
theorem witness_MatrixEvents : ∀ op ∈ [0, 3], ∀ e : Bool,
    let c : MCmd := { op := op, by_ := { ctx := me, priv := .user, domain := 0, team := some 0, wds := [] }, joined := false, cfg := 0x00030003, oc := 0 }
    let s : State := { inTeam id id with clusters := [{ id := 0, quads := [{ queue := [c], err := e }, {}, {}, {}] }] }
    (s.quad 0 0).queue.head? = some c ∧ (s.cluster 0).quads.length = 4 ∧ c.sig = {} ∧ s.mxEarlier 0 0 c = false ∧ (s.quad 0 0).err = e ∧ c.acc / 2 = 0 ∧ c.prog = 0 := by
  decide +kernel

/-! Views in the vector registers. -/

/-- The test holds of every tuple of a view of two dimensions. -/
def allIdx (v : View) (f : Tup → Bool) : Bool := (List.range (v.ext 0)).all fun a => (List.range (v.ext 1)).all fun b => f (a, b, 0, 0)

theorem allIdx_of {v : View} {f : Tup → Bool} (h2 : v.ext 2 = 1 ∧ v.ext 3 = 1) (h : allIdx v f = true) (i : Tup) (hi : v.holds i) : f i = true := by
  obtain ⟨a, b, c, d⟩ := i
  obtain ⟨h0, h1, hc, hd⟩ := hi
  simp only [allIdx, List.all_eq_true, List.mem_range] at h
  simp only at h0 h1 hc hd
  obtain rfl : c = 0 := by omega
  obtain rfl : d = 0 := by omega
  exact h a h0 b h1

/-- The conditions of InRegs for a view of two dimensions. -/
def inRegsB (v : View) : Bool := decide (v.base / 2 ^ 48 = 0xC2 ∧ 8 ≤ tyBits v.ty) && decide (v.ext 2 = 1 ∧ v.ext 3 = 1) &&
  allIdx v (fun i => decide (0 ≤ v.vrByte i ∧ v.vrByte i + v.width ≤ 2 ^ 18)) && allIdx v fun i => allIdx v fun j => decide (v.off i = v.off j → i = j)

theorem inRegs_of {v : View} (h : inRegsB v = true) : InRegs v := by
  simp only [inRegsB, Bool.and_eq_true, decide_eq_true_eq] at h
  obtain ⟨⟨⟨h1, h2⟩, h3⟩, h4⟩ := h
  exact ⟨h1.1, h1.2, fun i hi => of_decide_eq_true (allIdx_of h2 h3 i hi),
    fun i j hi hj => of_decide_eq_true (allIdx_of h2 (allIdx_of h2 h4 i hi) j hj)⟩

/-- A view of the vector registers over two dimensions. -/
def vrView (off ty e0 e1 : Nat) : View := parseView 0 (rec2 (0xC2000000000000 + off) ty e0 e1)

/-- A command of quadrant 0 and its pair. -/
def mxCmd (op : Nat) (f : MCmd → MCmd) : MCmd :=
  f { op := op, by_ := { ctx := me, priv := .user, domain := 0, team := some 0, wds := List.replicate 8 0 }, joined := false, cfg := 0x00030003, oc := 0 }

/-- The command is the first of its quadrant. -/
def atHead (c : MCmd) (i0 : Bool) : State :=
  { inTeam id id with clusters := [{ id := 0, released := true, active := true, quads := [{ queue := [c], int0 := i0 }, {}, {}, {}] }] }

/-- Commands for each clause of MatrixResults: of one quadrant and of the joined engine, on floats and on integers. -/
def mxCmds : List (MCmd × Bool) := [
  (mxCmd 1 fun c => { c with v1 := some (vrView 0 3 4 4), opB := true }, false),
  (mxCmd 1 fun c => { c with v1 := some (vrView 0x3FF00 11 16 16), set1 := true, joined := true, cfg := 0x1000B000B }, false),
  (mxCmd 2 fun c => { c with acc := 1 }, false), (mxCmd 2 fun c => { c with joined := true, acc := 1, cfg := 0x1000B000B }, true),
  (mxCmd 4 fun c => { c with v1 := some (vrView 0x100 6 4 2), gb := 8 }, false), (mxCmd 4 fun c => { c with v1 := some (vrView 0 9 4 2) }, true),
  (mxCmd 7 fun c => { c with v1 := some (vrView 0x40 3 3 2), going := some (true, [(0, 0, 0), (1, 1, 1), (31, 1, 2)]), vals := 0xC1000000003000 }, false),
  (mxCmd 6 fun c => { c with v1 := some (vrView 0 2 1 1), v2 := some (vrView 0x40 3 1 1), gb := 0x100000 }, false)]

theorem witness_MatrixResults :
    (∀ x ∈ mxCmds, let c := x.1
      let s := atHead c x.2
      ((s.quad 0 0).queue.head? = some c ∧ (s.cluster 0).quads.length = 4 ∧ (∀ i ∈ mxQuads c.joined 0, (s.quad 0 i).err = false) ∧ s.subj.n = 0 ∧
        (if c.joined then (0 : Nat) = 0 ∧ c.acc < 2 else c.acc / 2 = 0) ∧ c.sig = {} ∧ c.prog = 0 ∧ c.by_.ctx.cl = 0 ∧ (pairOf c.cfg).isSome = true ∧
        s.vrsPoison = [] ∧ c.got = [] ∧ c.written = []) ∧
      (c.op = 4 → (∀ y ∈ accParts c.joined c.acc, tileInt (s.cluster 0) y.1 = x.2) ∧
        ∀ v, c.v1 = some v → if x.2 then 9 ≤ v.ty ∧ v.ty ≤ 11 else 2 ≤ v.ty ∧ v.ty ≤ 6)) ∧
    (∀ x ∈ mxCmds, ∀ v, x.1.v1 = some v → InRegs v ∧ v.ext 2 = 1 ∧ v.ext 3 = 1 ∧ 0 < v.ext 1) := by
  refine ⟨by decide +kernel, fun x hx v hv => ?_⟩
  have h : (mxCmds.all fun x => x.1.v1.all fun v => inRegsB v && decide (v.ext 2 = 1 ∧ v.ext 3 = 1 ∧ 0 < v.ext 1)) = true := by decide +kernel
  have := List.all_eq_true.1 h x hx
  rw [hv] at this
  simp only [Option.all_some, Bool.and_eq_true, decide_eq_true_eq] at this
  exact ⟨inRegs_of this.1, this.2⟩

/-- The nonzeros of the `mx.spmm` above, whose values stand in local store, and a row of `gm.lay`. -/
theorem witness_MatrixResults_values :
    (∀ x ∈ mxCmds, ∀ ex nz, x.1.going = some (ex, nz) → (nz.map fun e => (e.1, e.2.1)).Nodup ∧ (∀ e ∈ nz, e.1 < 32 ∧ e.2.1 < 32) ∧
      ∀ e ∈ nz, ∀ a l, readValue (whoB x.1.by_) x.1.vals (wfld x.1.cfg 0 8) e.2.2 { (atHead x.1 x.2) with acc := a, clusters := l } =
        (.ok 0, { (atHead x.1 x.2) with acc := a, clusters := l })) ∧
    (let g : Gmd := { region := 0, rows := 4, kcols := 3, wtype := 3, valid := false, ns := 0, nb := 0 }
     let v := vrView 0 3 3 4
     InRegs v ∧ v.ext 2 = 1 ∧ v.ext 3 = 1 ∧ v.ext 0 = g.kcols ∧ v.ext 1 = g.rows ∧ v.ty = g.wtype) := by
  refine ⟨fun x hx ex nz h => ?_, inRegs_of (by decide +kernel), by decide +kernel⟩
  simp only [mxCmds, List.mem_cons, List.not_mem_nil, or_false] at hx
  rcases hx with rfl | rfl | rfl | rfl | rfl | rfl | rfl | rfl <;> cases h
  refine ⟨by decide, by decide, fun e he a l => ?_⟩
  simp only [List.mem_cons, List.not_mem_nil, or_false] at he
  rcases he with rfl | rfl | rfl <;> rfl

/-- The page of a Gnobin region at 0, of 2 MiB, uncached, channel-local; its slice knows it. -/
def gmX : Xlat := { cls := 2, w0 := BitVec.ofNat 64 (1 + 8 + 16 + 32 + 64 + 128 + 256), w1 := BitVec.ofNat 64 (0x400 + 2 * 2 ^ 52), pte := some 0x10000 }

/-- A `gm.gemv` of one row and one column at the head of its quadrant, whose descriptor and tile stand in the page and have been read before. -/
def gmState : State :=
  let c := mxCmd 6 fun c => { c with v1 := some (vrView 0 2 1 1), v2 := some (vrView 0x40 3 1 1), gb := 0x100000 }
  let s : State := { atHead c false with
    parts := [part0], tcache := [{ slice := 0, part := 0, page := 0, x := gmX }]
    home := [{ line := 0x10000, wts := 0, rts := 0, via := [(0, 0, true)] }, { line := 0x14000, wts := 0, rts := 0, via := [(0, 0x4000, true)] }]
    vrs := Memory.writeN [] (vrsKey me 0x40) [0x80, 0x3F]
    mem := Memory.writeN (Memory.writeN [] 0x500000 (leBytes 8 0 ++ leBytes 4 1 ++ leBytes 4 1 ++ [3, 1, 0, 0] ++ leBytes 4 1 ++ leBytes 4 1 ++ leBytes 36 0)) 0x400000 [0x00, 0x40] }
  s

/-- 2 times 1, in f32, at the destination. -/
def gmDone : State := gmState.putCodes (vrView 0 2 1 1) me false [(0, .vr (vrsKey me 0) 4, 0x40000000)]

theorem witness_MatrixResults_gemv :
    let c := mxCmd 6 fun c => { c with v1 := some (vrView 0 2 1 1), v2 := some (vrView 0x40 3 1 1), gb := 0x100000 }
    let v := vrView 0 2 1 1
    let x := vrView 0x40 3 1 1
    let w := whoB c.by_
    (gmState.quad 0 0).queue.head? = some c ∧
    ∃ b, let g := parseGmd b
      (g.region = 0 ∧ g.rows = 1 ∧ g.kcols = 1 ∧ g.wtype = 3 ∧ g.valid = true ∧ g.ns = 1 ∧ v.ext 0 = g.rows ∧ x.ext 0 = g.kcols ∧ x.ty = 3 ∧ v.ext 1 = 1) ∧
      ∀ u ∈ [gmState, gmDone], readGmd w 0x100000 u = (.ok b, u) ∧ gmPage c.by_ 0 u = (.ok (), u) ∧ x.read c.by_ (x.off (0, 0, 0, 0)) u = (.ok 0x3F80, u) ∧
        readBytes w 0 2 u = (.ok [0x00, 0x40], u) ∧ v.target c.by_ .write (v.off (0, 0, 0, 0)) u = (.ok (.vr (vrsKey me 0) 4), u) ∧
        slabSum (recFmt 3) (recFmt 3) (splitNums 2 [0x00, 0x40]) [0x3F80] = 0x40000000 := by
  refine ⟨by decide +kernel, leBytes 8 0 ++ leBytes 4 1 ++ leBytes 4 1 ++ [3, 1, 0, 0] ++ leBytes 4 1 ++ leBytes 4 1 ++ leBytes 36 0, by decide +kernel, ?_⟩
  decide +kernel

/-! ### Witnesses: copies and collectives -/

/-- The conditions of CopyReady. -/
def copyReady (kind sub : Nat) (ga gb : Word) (s : State) : Bool :=
  (s.findCtx s.cur).isSome && decide (s.copiesIn s.cur.cl < 512) && !s.cwRingBad gb && (s.ctx s.cur).role.getLsbD 0 &&
    decide (wfld ga (if kind = 0 then 32 else 48) (if kind = 0 then 32 else 16) = 0 ∧ wfld gb 13 51 = 0) &&
    (let rest := fun (dv sv : View) (ix : Option View) (u : State) => decide (∀ v ∈ [dv, sv] ++ ix.toList, v.beyondVrs (s.ctx s.cur).vblocks = false) &&
        decide (copyFits kind sub dv sv ix = true ∧ dv.wholeBlocks (u.viewWd (u.behalf (s.ctx s.cur)) dv) = true)
     match State.copyRecords (decide (kind ≠ 3)) (s.drainGroup s.cur) (s.ctx s.cur) ga (List.range (if kind = 0 then 2 else 3)) with
     | ([.ok dv, .ok sv], u) => rest dv sv none u
     | ([.ok dv, .ok sv, .ok x], u) => rest dv sv (some x) u
     | _ => false)

theorem copyReady_iff {kind sub : Nat} {ga gb : Word} {s : State} (h : copyReady kind sub ga gb s = true) :
    ∃ dv sv ix u, CopyReady kind sub ga gb dv sv ix s u := by
  simp only [copyReady, Bool.and_eq_true, Bool.not_eq_true', decide_eq_true_eq] at h
  obtain ⟨⟨⟨⟨⟨h1, h2⟩, h3⟩, h4⟩, h5⟩, h6⟩ := h
  split at h6
  next dv sv u hr =>
    simp only [Bool.and_eq_true, decide_eq_true_eq] at h6
    exact ⟨dv, sv, none, u, h1, h2, h3, h4, h5, hr, h6.1, h6.2⟩
  next dv sv x u hr =>
    simp only [Bool.and_eq_true, decide_eq_true_eq] at h6
    exact ⟨dv, sv, some x, u, h1, h2, h3, h4, h5, hr, h6.1, h6.2⟩
  next => cases h6

/-- Two f32 vectors, a matrix of f32, and an index vector of i32. -/
def copyRecs : List (List Byte) := [rec1 0xC1000000001000 2 4, rec1 0xC1000000001100 2 4, rec2 0xC1000000001200 2 4 3, rec1 0xC1000000001300 9 2, rec2 0xC1000000001400 2 4 2]

/-- A copy between the vectors; a gather of two rows; a scatter of two rows, and of two elements with an addition. -/
theorem witness_CopyIssue :
    (let s := recorded copyRecs (withG [(5, 0x00010000)]); ∃ dv sv ix u, CopyReady 0 0 (s.rg me 5) (s.rg me 0) dv sv ix s u) ∧
    (let s := recorded copyRecs (withG [(5, 0x000300020004)]); ∃ dv sv ix u, CopyReady 2 0 (s.rg me 5) (s.rg me 0) dv sv ix s u) ∧
    (∀ sub ∈ [0, 1], let s := recorded copyRecs (withG [(5, 0x000300040002)]); ∃ dv sv ix u, CopyReady 3 sub (s.rg me 5) (s.rg me 0) dv sv ix s u) ∧
    ((alone fun c => { c with role := 6 }).ctx me).role.getLsbD 0 = false ∧ wb ((alone id).rg me 0) 6 = false := by
  refine ⟨copyReady_iff ?_, copyReady_iff ?_, fun sub h => copyReady_iff ?_, by decide⟩
  · decide +kernel
  · decide +kernel
  · revert sub
    decide +kernel

/-- A bulk copy of two rows of P0's team. -/
def copy0 : Copy where
  by_ := { ctx := me, priv := .user, domain := 0, team := some 0, wds := List.replicate 8 0 }
  kind := 0
  sub := 0
  d := parseView 0 (rec2 0xC1000000001000 2 1 2)
  s := parseView 0 (rec2 0xC1000000001100 2 1 2)
  ix := none
  tag := 63
  ring := none
  oc := 0

/-- One that runs to its end, one that has been cancelled, and one that stalls at an absent page; a cancel of tag 63. -/
theorem witness_CopyEvents :
    (∀ x : Bool, let s : State := { recorded [] id with copies := [{ copy0 with cancelled := x }] }
     let r := ({ copy0 with cancelled := x } : Copy).advance 0 s
     (s.copies[s.subj.n]?).map Copy.cancelled = some x ∧ r.1.kind = 0 ∧ r.1.finished = true ∧ r.1.ring = none ∧
       (r.2.ctxs.any fun x => decide (x.id = r.1.by_.ctx ∧ x.team = r.1.by_.team)) = true) ∧
    (let r := ({ copy0 with s := parseView 0 (rec1 0x5000 2 2) } : Copy).advance 1 { recorded [] id with parts := [part0] }
     r.1.kind = 0 ∧ r.1.finished = false) ∧
    (let s : State := { recorded [] (withG [(5, 0x8000000000000000)]) with copies := [copy0] }
     (s.findCtx me).isSome ∧ (s.ctx me).grp = none ∧ (s.ctx me).role.getLsbD 0 = true ∧ (s.rg me 5).getLsbD copy0.tag = true ∧ ∀ p ∈ s.copies, p.stall = none) := by
  refine ⟨fun x => by cases x <;> decide +kernel, by decide +kernel, by decide⟩

/-- The conditions of CollReady. -/
def collReady (fn sub : Nat) (ga gb : Word) (s : State) : Bool :=
  let d := s.drainGroup s.cur
  (s.findCtx s.cur).isSome && (s.ctx s.cur).role.getLsbD 0 && !s.cwRingBad gb && decide (wfld gb 13 3 = 0 ∧ wfld gb 48 16 = 0) &&
    match s.handleOf (s.ctx s.cur) (wfld gb 16 32), d.lsAt (whoOf (s.ctx s.cur)) ga.toNat with
    | some (k, rank), .ok l =>
      decide (wfld gb 16 32 / 65536 = k.gen.toNat) && (s.collOf (s.ctx s.cur) k.part k.slot k.gen.toNat).isNone && s.inOwnLs (s.ctx s.cur) ga.toNat 64 64 &&
        okWith (d.collView (s.ctx s.cur) (blkNum (d.placeRead (.ls l.cl l.phys) 64) 0 2)) fun send v =>
          okWith (v.collView (s.ctx s.cur) (blkNum (d.placeRead (.ls l.cl l.phys) 64) 2 2)) fun recv u =>
            decide (∀ v ∈ [send, recv].filterMap id, v.beyondVrs (s.ctx s.cur).vblocks = false) &&
              u.inOwnLs (s.ctx s.cur) (blkNum (d.placeRead (.ls l.cl l.phys) 64) 8 8) 16 16 &&
              (collShape fn sub k.members.length rank (blkNum (d.placeRead (.ls l.cl l.phys) 64) 4 2) send recv).isSome &&
              recv.all (fun x => x.wholeBlocks (u.viewWd (u.behalf (s.ctx s.cur)) x)) &&
              (u.decidedAs k.part k.slot k.gen (instKey k fn rank (blkNum (d.placeRead (.ls l.cl l.phys) 64) 4 2)
                (blkNum (d.placeRead (.ls l.cl l.phys) 64) 16 4)).1).isNone
    | _, _ => false

theorem collReady_iff {fn sub : Nat} {ga gb : Word} {s : State} (h : collReady fn sub ga gb s = true) :
    ∃ k rank l send recv ty cnt u, CollReady fn sub ga gb k rank l send recv ty cnt s u := by
  simp only [collReady, Bool.and_eq_true, Bool.not_eq_true', decide_eq_true_eq] at h
  obtain ⟨⟨⟨⟨h1, h2⟩, h3⟩, h4⟩, h5⟩ := h
  split at h5
  next k rank l hh hl =>
    simp only [Bool.and_eq_true, decide_eq_true_eq, Option.isNone_iff_eq_none] at h5
    obtain ⟨⟨⟨h6, h7⟩, h8⟩, h9⟩ := h5
    obtain ⟨send, v, h10, h11⟩ := okWith_iff h9
    obtain ⟨recv, u, h12, h13⟩ := okWith_iff h11
    simp only [Bool.and_eq_true, decide_eq_true_eq, Option.isNone_iff_eq_none] at h13
    obtain ⟨⟨⟨⟨h14, h15⟩, h16⟩, h17⟩, h18⟩ := h13
    obtain ⟨⟨ty, cnt⟩, h19⟩ := Option.isSome_iff_exists.1 h16
    refine ⟨k, rank, l, send, recv, ty, cnt, u, h1, ⟨hh, h6⟩, h7, h3, h2, h4, ⟨h8, hl⟩, ⟨v, h10, h12⟩, h14, h15, h19, fun x hx => ?_, h18⟩
    subst hx
    simpa using h17
  next => cases h5

/-- A communicator of three ranks, of which this context is rank 1, one is on this package and one on package 7. -/
def comm1 : Comm where
  part := 0
  slot := 2
  used := true
  cid := 5
  tms := 1000
  gen := 0xFFFF
  members := [{ peer := 0xFF, pipe := 1, slot := 0, task := 9, trank := 3 }, { peer := 0xFF, pipe := 0, slot := 0, task := 9, trank := 3 },
    { peer := 7, pipe := 0, slot := 0, task := 9, trank := 3 }]
  issued := []

/-- A team bound to it, whose allocation begins with views of four and of twelve f32, and holds at 0x100 a block that names them and a peer. -/
def bound (send recv peer : Nat) (f : Ctx → Ctx) : State :=
  { inTeam (fun m => { m with task := some 9 }) f with
    parts := [part0], comms := [comm1], gtime := 10 ^ 12
    ls := Memory.writeN (Memory.writeN [] 0 ([rec1 0xC1000000001000 2 4, rec1 0xC1000000001100 2 12].flatten)) 0x100
      (leBytes 2 send ++ leBytes 2 recv ++ leBytes 4 peer ++ leBytes 8 0xC1000000002000) }

/-- Registers that name the block and the communicator. -/
def naming (c : Ctx) : Ctx := withG [(5, 0xC1000000000100), (6, 0xFFFF00020000)] c

theorem witness_CollectiveIssue :
    (∀ o ∈ [(4, 0, 0, 0, 0), (5, 0, 0, 1, 0), (6, 2, 1, 0, 0), (7, 0, 0, 0xFFFF, 1), (7, 0, 0xFFFF, 0, 2), (8, 0, 0, 0xFFFF, 2), (9, 0, 0xFFFF, 0, 0)],
      ∃ k rank l send recv ty cnt u, CollReady o.1 o.2.1 ((bound o.2.2.1 o.2.2.2.1 o.2.2.2.2 naming).rg me 5) ((bound o.2.2.1 o.2.2.2.1 o.2.2.2.2 naming).rg me 6)
        k rank l send recv ty cnt (bound o.2.2.1 o.2.2.2.1 o.2.2.2.2 naming) u) ∧
    ((alone fun c => { c with role := 6 }).ctx me).role.getLsbD 0 = false ∧
    (let s := bound 0 0 0 id; wb (s.rg me 6) 6 = false ∧ wfld (s.rg me 6) 13 3 = 0 ∧ wfld (s.rg me 6) 48 16 = 0 ∧ s.handleOf (s.ctx me) (wfld (s.rg me 6) 16 32) = none ∧
      s.collRoom (s.ctx me) (s.rg me 6) = none) := by
  refine ⟨fun o h => collReady_iff ?_, by decide, by decide⟩
  revert o
  decide +kernel

/-- A command on the communicator's first instance. -/
def coll0 : Coll where
  by_ := { ctx := me, priv := .user, domain := 0, team := some 0, wds := List.replicate 8 0 }
  part := 0
  cslot := 2
  gen := 0xFFFF
  inst := 1
  fn := 4
  sub := 0
  send := none
  recv := none
  peer := 0
  crec := 0xC1000000002000
  mtch := 0
  tag := 0
  ring := none
  oc := 0
  rank := 1
  since := 0
  data := []
  sent := true
  wrote := true
  etype := 2
  count := 0

/-- A command of the slot is outstanding when it is re-formed. -/
theorem witness_Reforming_waits :
    let s : State := { served (withG [(5, 0xFFFF0002), (6, 0xC1000000000008)] ∘ fun c => { c with priv := .machine }) with
      comms := [comm0], colls := [coll0], ls := Memory.writeN [] 8 (leBytes 2 2 ++ leBytes 6 0 ++ leBytes 2 0 ++ leBytes 2 2) }
    s.handleSlot 0 (s.rg me 5).toNat = some comm0 ∧ okWith ((s.drainGroup me).engReads (whoOf (s.ctx me)) 0xC1000000000008 8 1) (fun head u =>
      okWith (u.engReads (whoOf (s.ctx me)) 0xC1000000000010 2 (min (leNat (head.take 2)) 4096)) fun rest w =>
        (reformBlock comm0 (head ++ rest) == some (0, [0, 2])) && (w.collStale 0 2).colls.any fun o => decide (o.part = 0 ∧ o.cslot = 2 ∧ o.away = none)) = true := by decide +kernel

/-- An abort of it, with a handle of another generation, and with none outstanding; a message about it; its time-out; a coordinator on another package that
does not answer; all of its members having written; and a decision. -/
theorem witness_CollectiveEvents :
    (let s := bound 0 0 0 naming
     (s.handleOf (s.ctx me) (wfld (s.rg me 6) 16 32)).map (fun x => (x.1.slot, x.2)) = some (2, 1) ∧ wfld (s.rg me 6) 0 16 = 0 ∧ wfld (s.rg me 6) 48 16 = 0 ∧
       wfld (s.rg me 6) 16 32 / 65536 = comm1.gen.toNat ∧ wfld (s.rg me 0) 8 56 = 0 ∧ (s.collOf (s.ctx me) 0 2 0xFFFF).isNone) ∧
    (let s := bound 0 0 0 (withG [(6, 0xFFFE00020000)])
     (s.handleOf (s.ctx me) (wfld (s.rg me 6) 16 32)).map (fun x => (x.1.slot, x.2)) = some (2, 1) ∧ wfld (s.rg me 6) 16 32 / 65536 ≠ comm1.gen.toNat) ∧
    (let m : CollMsg := { cid := 5, gen := 0xFFFF, rank := 2, inst := 1, fn := 4, sub := 0, etype := 2, count := 0, mtch := 0, since := 0, data := [] }
     let s : State := { bound 0 0 0 id with colls := [coll0], subj := { part := 0, num := 2, n := 0, msg := some m } }
     (s.collOf (s.ctx me) 0 2 0xFFFF) = some coll0 ∧ coll0.asked = false ∧ (s.verdictOf coll0).isNone ∧ s.coordLocal comm1 1 = true ∧
       ((s.comms.find? fun k => k.used && decide (k.part = s.subj.part ∧ k.cid = m.cid ∧ k.gen = m.gen)).map Comm.slot) = some 2 ∧
       (s.decidedAs 0 2 0xFFFF 1).isNone ∧ s.standsStill 0 = false ∧ (s.colls[s.subj.n]?).map Coll.rank = some 1) ∧
    (let s : State := { bound 0 0 0 id with colls := [coll0], subj := { part := 0, num := 2, n := 1 } }
     (s.comm s.subj.part s.subj.num) = some comm1 ∧ s.coordLocal comm1 s.subj.n = true ∧ firstIssue (s.shares 0 2 0xFFFF s.subj.n) = some 0 ∧
       comm1.tms * 1000000 ≤ s.gtime ∧ (s.decidedAs 0 2 0xFFFF s.subj.n).isNone) ∧
    (let k := { comm1 with members := comm1.members.reverse }
     let s : State := { bound 0 0 0 id with comms := [k], colls := [coll0] }
     s.coordLocal k 1 = false ∧ 2 * comm1.tms * 1000000 ≤ s.gtime ∧ (s.verdictOf coll0).isNone) ∧
    (let k := { comm1 with members := comm1.members.take 2 }
     let s : State := { bound 0 0 0 id with comms := [k], colls := [{ coll0 with rank := 0 }, coll0] }
     s.allWrote coll0 = true ∧ s.coordLocal k 1 = true ∧ coll0.nomem = false) ∧
    (bound 0 0 0 id).verdictOf { coll0 with verdict := some (0, 0, 0xFFFF) } = some (0, 0, 0xFFFF) := by
  refine ⟨by decide +kernel, by decide +kernel, by decide +kernel, by decide +kernel, by decide +kernel, by decide +kernel, rfl⟩

/-- A copy that has not completed names a register of the context's block 1. -/
theorem witness_VectorBlocks_used :
    let s : State := { inTeam id (withG [(5, 1)] ∘ fun c => { c with vblocks := 2 }) with copies := [{ copy0 with d := parseView 0 (rec1 0xC2000000000400 2 4) }] }
    (s.rg me 5).toNat % 512 ≤ (s.ctx me).vblocks ∧ s.blocksUsed me 1 = true := by decide +kernel

/-- Views of two dimensions that share no byte. -/
theorem disjoint2_of {v w : View} (hv : v.ext 2 = 1 ∧ v.ext 3 = 1) (hw : w.ext 2 = 1 ∧ w.ext 3 = 1)
    (h : allIdx v (fun i => allIdx w fun j => decide (v.vrByte i + v.width ≤ w.vrByte j ∨ w.vrByte j + w.width ≤ v.vrByte i)) = true) : Disjoint2 v w :=
  fun i j hi hj => of_decide_eq_true (allIdx_of hw (allIdx_of hv h i hi) j hj)

/-- A bulk copy, a gather of two rows of three, and a scatter of two rows to two of three, between views of the vector registers. -/
def moves : List Copy := [
  { copy0 with d := vrView 0 2 4 2, s := vrView 0x100 2 4 2 },
  { copy0 with kind := 2, d := vrView 0 2 4 2, s := vrView 0x100 2 4 3, ix := some (parseView 0 (rec1 0xC2000000000200 9 2)) },
  { copy0 with kind := 3, d := vrView 0 2 4 3, s := vrView 0x100 2 4 2, ix := some (parseView 0 (rec1 0xC2000000000200 9 2)) }]

/-- The indices 2 and -1 stand in the registers. -/
def moving (c : Copy) : State :=
  { recorded [] id with copies := [c], subj := { ok := true }, vrs := Memory.writeN [] (vrsKey me 0x200) (leBytes 4 2 ++ leBytes 4 0xFFFFFFFF) }

theorem witness_CopyMoves :
    (∀ c ∈ moves, let s := moving c
      s.copies[s.subj.n]? = some c ∧ s.subj.num = 0 ∧ c.stall = none ∧ c.cancelled = false ∧ c.nomem = false ∧ c.chunk = 0 ∧ c.seen = [] ∧ c.ring = none ∧
      s.vrsPoison = [] ∧ c.d.ty = c.s.ty ∧ s.subj.ok = true ∧ 0 < c.s.count ∧ 0 < c.d.count ∧ (c.kind = 0 → c.d.count = c.s.count) ∧
      ∀ x, c.ix = some x → copyFits c.kind c.sub c.d c.s (some x) = true ∧
        intVal (tyBits x.ty) (tyUns x.ty false) (vrCode s me x (x.tup 0)) = 2 ∧ intVal (tyBits x.ty) (tyUns x.ty false) (vrCode s me x (x.tup 1)) = -1 ∧ x.count = 2) ∧
    (∀ c ∈ moves, InRegs c.d ∧ InRegs c.s ∧ Disjoint2 c.d c.s ∧ ∀ x, c.ix = some x → InRegs x ∧ Disjoint2 c.d x) := by
  refine ⟨by decide +kernel, fun c hc => ?_⟩
  simp only [moves, List.mem_cons, List.not_mem_nil, or_false] at hc
  rcases hc with rfl | rfl | rfl
  all_goals refine ⟨inRegs_of (by decide +kernel), inRegs_of (by decide +kernel),
    disjoint2_of (by decide +kernel) (by decide +kernel) (by decide +kernel), fun x hx => ?_⟩
  all_goals cases hx
  all_goals exact ⟨inRegs_of (by decide +kernel), disjoint2_of (by decide +kernel) (by decide +kernel) (by decide +kernel)⟩

/-! ### Witnesses: streams and Sinter -/

/-- A matrix of 2 rows and 8 columns: D over S, its arrays of the addresses given, with 3 nonzeros. -/
def descOf (pos crd val : Nat) : List Byte :=
  [4, 10, 0xFF, 0, 2, 0, 0, 0] ++ leBytes 8 7 ++ leBytes 4 2 ++ leBytes 4 8 ++ leBytes 16 0 ++ leBytes 8 pos ++ leBytes 24 0 ++ leBytes 8 crd ++ leBytes 16 0 ++
    leBytes 8 val ++ leBytes 8 3 ++ leBytes 16 0

def descBytes : List Byte := descOf 0xC1000000000300 0xC1000000000400 0xC1000000000500

/-- A stream at the first entry of row 0 of it; one of its rows; a combination at its end. -/
def level1 : Stream := { desc := 0xC1000000000200, level := 1, end_ := 2, crd := 1, kind := 2, d := some (parseDesc 0xC1000000000200 descBytes) }
def level0 : Stream := { desc := 0xC1000000000200, level := 0, end_ := 2, kind := 1, d := some (parseDesc 0xC1000000000200 descBytes) }

/-- A team with six stream registers, whose allocation holds a dense view of the matrix, the descriptor, the images of a closed stream and of level1, and
the arrays. -/
def sparse (f : Ctx → Ctx) : State :=
  { inTeam (fun m => { m with streams := [level1, level0, {}, { kind := 5, atEnd := true }, { level0 with crd := 1, pos := 1 }, { level1 with atEnd := true, crd := 0xFFFFFFFF }] }) f with
    ls := Memory.writeN (Memory.writeN (Memory.writeN (Memory.writeN (Memory.writeN [] 0 (rec2 0xC1000000001000 2 8 2)) 0x200 descBytes) 0x300 (leBytes 4 0 ++ leBytes 4 2 ++ leBytes 4 3))
      0x400 (leBytes 2 1 ++ leBytes 2 3 ++ leBytes 2 2)) 0x640 (((streamWords level1).flatMap (leBytes 8))) }

/-- StoodBy, as a test. -/
def kept (s v : State) : Bool :=
  decide (v.cur = s.cur) && (v.findCtx s.cur == (s.findCtx s.cur).map fun c => { c with
    pts := (v.ctx s.cur).pts, mts := (v.ctx s.cur).mts, vis := (v.ctx s.cur).vis })

theorem kept_iff {s v : State} (h : kept s v = true) : StoodBy s v := by
  simp only [kept, Bool.and_eq_true, decide_eq_true_eq, beq_iff_eq] at h
  exact h

/-- Streaming: each of the numbers of the team. -/
theorem witness_Streaming : ∃ m, Streaming m 5 (sparse id) ∧ (sparse id).teamOf me = some m ∧ m.streams.length ≤ (6 : Fin 16).val :=
  ⟨_, ⟨by decide, by decide, by decide, by decide, rfl, by decide⟩, rfl, by decide⟩

/-- Their descriptor is as it was at the opening, and, where a write has made its extent of columns 9, it is not. -/
theorem witness_Streaming_changed :
    (∀ n ∈ List.range 6, ((sparse id).drainGroup me).changed (whoOf ((sparse id).ctx me)) (((sparse id).teamOf me).getD team0).streams sqDepth n = false) ∧
    (let s : State := { sparse id with ls := Memory.writeN (sparse id).ls 0x214 [9] }
     (s.drainGroup me).changed (whoOf (s.ctx me)) ((s.teamOf me).getD team0).streams sqDepth 0 = true) := by decide +kernel

/-- A level is opened, moved to its next entry, sought; two streams that agree, and one that is at its end. -/
theorem witness_StreamLevels :
    (let s := sparse (withG [(5, 0x01C1000000000200)])
     let u := s.drainGroup me
     okWith (readDesc (whoOf (s.ctx me)) (wfld (s.rg me 5) 0 56) u) (fun d u1 => decide (wfld (s.rg me 5) 56 2 < d.nlvl) &&
       okWith (lvOpen (whoOf (s.ctx me)) d (wfld (s.rg me 5) 56 2) (s.rg me 6).toNat u1) fun _ v => kept s v) = true ∧
     wfld (s.rg me 5) 0 6 = 0 ∧ wfld (s.rg me 5) 58 6 = 0) ∧
    (let s := sparse (withG [(5, 3)])
     let u := s.drainGroup me
     okWith (lvNext (whoOf (s.ctx me)) level1 u) (fun _ v => kept s v) = true ∧ okWith (lvSeek (whoOf (s.ctx me)) level1 (s.rg me 5).toNat u) (fun _ v => kept s v) = true ∧
     level1.crd.toNat < (s.rg me 5).toNat ∧ wfld (s.rg me 5) 32 32 = 0 ∧ level1.ordered = true ∧ level0.ordered = true) ∧
    (level0.d.isSome ∧ level0.pos.toNat + 1 < level0.end_.toNat ∧ level0.crd.toNat < (1 : Word).toNat ∧ (1 : Word).toNat < level0.e) ∧
    ((({} : Stream).kind = 0 ∧ level0.kind < 5) ∧ level1.ordUnq = true ∧ level0.ordUnq = true ∧ level1.bound = false ∧
      level1.crd = ({ level0 with crd := 1, pos := 1 } : Stream).crd) := by
  refine ⟨by decide +kernel, by decide +kernel, by decide, by decide⟩

theorem witness_StreamImages :
    (let s := sparse (withG [(5, 0xC1000000000800), (6, 3)])
     let u := s.drainGroup me
     okWith (drainSq (whoOf (s.ctx me)) 0 true 3 false [level1, level0, {}] u) (fun r v => r.2.2.isNone && kept s v &&
       !v.changed (whoOf (s.ctx me)) [level1, level0, {}] sqDepth 0) = true ∧
     ((s.teamOf me).bind fun m => u.ownBad (s.ctx me) m (s.rg me 5).toNat (24 * 3)) = none ∧ sqMovable [level1, level0, {}] 0 = true ∧ wfld (s.rg me 6) 13 51 = 0) ∧
    (let s := sparse (withG [(5, 0x01C1000000000200), (6, 0x00010002)])
     okWith (readDesc (whoOf (s.ctx me)) (wfld (s.rg me 5) 0 56) (s.drainGroup me)) (fun d u1 => decide (wfld (s.rg me 5) 56 2 < d.nlvl ∧ d.kind 1 = 1 ∧ d.kind 0 = 0) &&
       okWith (shareBound (whoOf (s.ctx me)) d 1 1 2 u1) fun _ v => kept s v) = true) ∧
    (let s := sparse (withG [(5, 0xC1000000000600), (6, 0xC1000000000640)])
     let u := s.drainGroup me
     (imageAddr (s.rg me 5).toNat).isNone ∧ okWith (u.engWrite (whoOf (s.ctx me)) (some me) (s.rg me 5).toNat ((streamWords level1).flatMap (leBytes 8))) (fun _ v => kept s v) = true ∧
     okWith (u.engRead (whoOf (s.ctx me)) (s.rg me 5).toNat 32) (fun i v => !imageBad i && decide ((imageStream i).kind = 0) && kept s v) = true ∧
     okWith (u.engRead (whoOf (s.ctx me)) (s.rg me 6).toNat 32) (fun i u1 => !imageBad i && decide ((imageStream i).kind = 2 ∧ (imageStream i).level = 1) &&
       okWith (readDesc (whoOf (s.ctx me)) (imageStream i).desc u1) fun d v => decide (d.kind 1 + 1 = 2 ∧ (imageStream i).crd.toNat < d.extent 1) && kept s v) = true) ∧
    (let o := (sparse id).behalf ((sparse id).ctx me)
     let w := whoB o
     ({ level1 with agent := some o } : Stream).agent = some o ∧ okWith (sqAhead w { level1 with agent := some o } (sparse id)) (fun _ v => v.subj == (sparse id).subj) = true ∧
     (match sqAhead w { level1 with agent := some o, d := some (parseDesc 0 (descOf 0 0x5000 0)) } { sparse id with parts := [part0] } with
     | (.error (.stall _ _ _), v) => v.subj == (sparse id).subj
     | _ => false) = true) := by
  refine ⟨by decide +kernel, by decide +kernel, by decide +kernel, by decide +kernel⟩

def tile0 : TileId := { desc := 0xC1000000000200, tr := 0, tc := 0, gen := 7, t := 32, domain := 0 }

/-- A counter; a generation that is read; marks below and at the limit; a matrix that is packed and unpacked; a compile, spoiled or not. -/
theorem witness_Sinter :
    ((0 : Word).toNat < 5 ∧ ((sparse id).ctx me).role = 7 ∧ ((alone fun c => { c with role := 5 }).ctx me).role.getLsbD 1 = false ∧
      ((alone fun c => { c with role := 5 }).ctx me).grp = none) ∧
    (let s := sparse (withG [(5, 0xC1000000000200)])
     okWith (readGen (whoOf (s.ctx me)) (s.rg me 5).toNat (s.drainGroup me)) (fun g v => decide (g = 7) && kept s v &&
       decide ((v.pins.filter fun p => decide (p.cl = 0)).length < 64)) = true ∧ wfld (s.rg me 5) 56 8 = 0) ∧
    64 ≤ ((List.replicate 64 ({ cl := 0, tile := { tile0 with gen := 8 }, team := 0 } : Pin)).filter fun p => decide (p.cl = 0)).length ∧
    (let s := sparse (withG [(6, 0xC1000000000200)])
     okWith (readBytes (whoOf (s.ctx me)) (s.rg me 6).toNat 128 (s.drainGroup me)) (fun blk u1 => !descBad blk &&
       match u1.spView (s.ctx me) (s.rg me 5) with
       | (.ok view, u2) => packOk (parseDesc (s.rg me 6).toNat blk) view && u2.ownView (s.ctx me) view &&
         okWith (packRun (whoOf (s.ctx me)) (u2.behalf (s.ctx me)) (parseDesc (s.rg me 6).toNat blk) blk view u2) fun _ v => kept s v
       | _ => false) = true) ∧
    (let s := sparse (withG [(6, 0xC1000000000200)])
     (match (s.drainGroup me).spView (s.ctx me) (s.rg me 5) with
     | (.ok view, u1) => !view.beyondVrs (s.ctx me).vblocks && okWith (readDesc (whoOf (s.ctx me)) (s.rg me 6).toNat u1) (fun d u2 => unpackOk d view &&
         match unpackRows (whoOf (s.ctx me)) (u2.behalf (s.ctx me)) d view (view.ext 1) 0 u2 with
         | (none, v) => kept s v
         | _ => false) && decide (u1.cur = me ∧ u1.rg (u1.lowest u1.cur) 6 = s.rg me 6)
     | _ => false) = true) ∧
    (∀ b : Bool, let k : Compile := { cl := 0, tile := tile0, team := 0, part := 4, nz := [(0, 1, 0)], len := 10, ranges := [], spoiled := b }
     (([k].find? fun k => decide (k.cl = 0)).map Compile.spoiled) = some b ∧ progLines k.len + 0 ≤ 2048) := by
  refine ⟨by decide, by decide +kernel, by decide +kernel, by decide +kernel, by decide +kernel, by decide⟩

/-! ### Witnesses: teams, clocks, gang switches -/

/-- A template of one context that takes every stream register of a cluster, and a record with one more team to place. -/
def tmpl1 : Template := { groups := [{ base := 0, width := 1, role := 7, weight := 1 }], nstrm := 16, nbar := 0, rings := [], nwq := 0, swap := 1, vrs := [0, 0, 0], ls := [1], rbsz := 0, rbsrc := 0 }
def queued : Task := { task0 .placing 0 with tmpl := some tmpl1, grid := 2, placed := 1 }

/-- A team of it that has waited for ten milliseconds. -/
def stuck (gone : Bool) : State :=
  let c : Ctx := { ctxAt 0 with team := some 0, st := .waiting (.fuse 2) 0 }
  { packageOf (if gone then [] else [c]) with
    gtime := 10 ^ 7, parts := [part0], lmap := [(0, 0)], tasks := [queued]
    teams := [{ team0 with task := some 0, tmpl := tmpl1, lsSize := 4096, candidate := true, swapped := gone, saved := if gone then [c] else [] }] }

/-- A cluster with room and the step of FLOOR, or another step, for the head record's next team, for which it has been chosen before or not. -/
def toPlace (step : Nat) (ch : Option Nat) : State :=
  { stuck true with teams := [], clusters := [{ id := 0, released := true, active := true, step := step }], tasks := [{ queued with chosen := ch }] }

theorem witness_TeamEvents :
    (∃ m, (stuck false).team 0 0 = some m ∧ (stuck false).swapDue m = true ∧ (stuck false).sliceDue part0 m = true) ∧ (stuck false).partOf 0 = some part0 ∧
    (let s : State := (stuck false).stopTeam (((stuck false).team 0 0).getD team0)
     ∃ m, s.team 0 0 = some m ∧ s.swapReady m = true) ∧
    (∃ m, ({ stuck true with tasks := [{ queued with placed := 2 }] } : State).team 0 0 = some m ∧
      ({ stuck true with tasks := [{ queued with placed := 2 }] } : State).canRestore m = true) ∧
    (let s := stuck false; (s.partNo 0).map Partition.run = some .running ∧ s.subj.num = 0 ∧ (s.queueHead 0).map Task.tmpl = some (some tmpl1) ∧ s.eligible part0 tmpl1 = []) ∧
    (∀ ch ∈ [none, some 0, some 1], ∀ step ∈ [0, 5], let s := toPlace step ch
     (s.partNo 0).map Partition.run = some .running ∧ s.subj.num = 0 ∧ tmpl1.rbsz = 0 ∧ (s.queueHead 0).map Task.tmpl = some (some tmpl1) ∧ (s.queueHead 0).map Task.chosen = some ch ∧
       (if ch = some 0 then (s.eligible part0 tmpl1).contains 0 = true else s.bestOf (s.eligible part0 tmpl1) = some 0 ∧ ∀ c, ch = some c → (s.eligible part0 tmpl1).contains c = false) ∧
       (s.roomFor 0 tmpl1).isSome ∧ (s.ctxs.any fun c => decide (c.id.cl = 0)) = false ∧ (s.cluster 0).change = none ∧ (s.cluster 0).changes = [] ∧
       decide ((s.cluster 0).step = part0.floor) = decide (step = 0)) ∧
    (let s : State := { alone fun c => { c with priv := .supervisor, tl := 1 } with gtime := 10 ^ 10 }
     (s.findCtx me).isSome ∧ s.watchDue (s.ctx me) = true ∧ Trappable s me) ∧
    (let s : State := { alone fun c => { c with st := .dead } with killWait := [(me, { part := 0, words := [] })] }
     (s.killWait[s.subj.n]?).map Prod.fst = some me ∧ s.killRoom { part := 0, words := [] } = true ∧ (s.ctx me).grp = none ∧ (s.ctx me).rcd = none) := by
  refine ⟨⟨_, rfl, by decide +kernel, by decide +kernel⟩, rfl, ⟨_, rfl, by decide +kernel⟩, ⟨_, rfl, by decide +kernel⟩, by decide +kernel, by decide +kernel,
    ⟨by decide, by decide +kernel, by constructor <;> decide⟩, by decide +kernel⟩

/-- A cluster that has been empty since time 0, and one in a pause, in a domain that is droopy until 5. -/
def clocked (c : Option (Nat × Nat × Option Nat)) : State :=
  { packageOf [] with
    gtime := 10 ^ 6, parts := [{ part0 with idlestep := 3 }], clusters := [{ id := 0, released := true, emptySince := some 0, change := c }]
    domains := [{ id := 0, code := Config.vmin 0 3, target := Config.vmin 0 3, droopy := some 5 }] }

theorem witness_ClocksAndPower :
    ((clocked none).idleDue ((clocked none).cluster 0) = true ∧ ((clocked none).cluster 0).step ≠ 3 ∧ (clocked none).partOf 0 = some { part0 with idlestep := 3 } ∧
      Config.vmin (domainOf 0) 3 ≤ ((clocked none).domain (domainOf 0)).code) ∧
    (((clocked none).domain 0).droopy = some 5 ∧ 5 ≤ (clocked none).gtime) ∧
    (∀ x ∈ [(30, 32), (31, 32), (33, 32)], let s : State := { clocked (some (3, 1, none)) with domains := [{ id := 0, code := x.1, target := x.2, moved := 7 }] }
      let d := s.domain 0
      d.code ≠ d.target ∧ d.moved + 50 ≤ s.gtime ∧ (s.cluster 0).change = some (3, 1, none) ∧ domainOf 0 = 0) ∧
    (∀ c ∈ (clocked none).clusters, c.released = true ∧ c.gated = false) ∧
    (let s : State := { clocked none with clusters := [{ id := 0, released := true, asks := some (0, 5) }, { id := 1, released := true, asks := some (0, 4) }, { id := 2, released := true, asks := some (0, 3) }] }
     ((s.clusters.filter fun k => decide (domainOf k.id = 0) && k.asks.isSome && !s.paused k.id).map Cluster.id) = [0, 1, 2]) ∧
    (((clocked (some (3, 1, some 9))).cluster 0).change = some (3, 1, some 9) ∧ ((clocked (some (3, 1, some 9))).cluster 0).changes = [] ∧
      ∀ a ∈ (clocked (some (3, 1, some 9))).accesses, a.agent.cl ≠ 0) := by
  refine ⟨⟨by decide, by decide, rfl, Nat.le_refl _⟩, ⟨rfl, by decide⟩, by decide, by decide, by decide +kernel, rfl, rfl, ?_⟩
  intro a h
  cases h

/-- A partition that is being taken out, and one that comes back, in place or from an area; a `gm.lay` that a switch out waits for, and a result of the SFU that a
switch in waits for. -/
theorem witness_GangSwitches :
    (∀ r ∈ [RunState.stopping 0 0x100000, .entering 0 0x100000, .entering 0 0],
      let s : State := { served id with parts := [{ part0 with run := r }] }
      (s.partNo 0).map Partition.run = some r ∧ 0 ≤ s.gtime ∧ s.scops = [] ∧ s.gmLeft { part0 with run := r } = false ∧ s.sfuLeft part0 0x100000 = false ∧
        (s.findCtx me).isSome ∧ me.pipe < 16 ∧ me.slot < 4 ∧ ((s.ctxs.filter fun x => decide (x.id.cl = me.cl)).map Ctx.vblocks).sum ≤ 256) ∧
    ({ atHead (mxCmd 5 id) false with parts := [part0] } : State).gmLeft part0 = true ∧
    ({ served id with clusters := [{ id := 0, sfuOut := [{ dst := me, dest := .g 5, val := 1, away := some (.area 0 0x100000) }] }] } : State).sfuLeft part0 0x100000 = true := by decide +kernel

/-! ### Witnesses: the host, links, the start -/

/-- A request: its header and its payload. -/
def ask (fn queue op : Nat) (payload : List Byte) : HostReq :=
  { fn := fn, queue := queue, data := leBytes 2 op ++ leBytes 6 0 ++ leBytes 8 9 ++ payload, room := 16 }

/-- A request with the opcode is Asked, whatever its payload. -/
theorem asked (fn queue op : Nat) (h : op < 65536) (payload : List Byte) (s : State) :
    Asked op (ask fn queue op payload) { s with subj := { req := some (ask fn queue op payload) } } ∧ (ask fn queue op payload).payload = payload := by
  refine ⟨⟨rfl, Nat.le_refl _, (by show 2 ≤ 1024; decide), ?_, ?_⟩, rfl⟩
  · show op % 256 + 256 * (op / 256 % 256 + 256 * 0) = op
    omega
  · simp [HostReq.bad, ask, blkAt, leBytes, leNat]

/-- A memory with a descriptor of budgets at 0x20000. -/
def configured : State := { packageOf [] with mem := Memory.writeN [] 0x20010 (leBytes 2 100 ++ leBytes 2 10) }

/-- A request that names no opcode of the table, one that does, on the function and the queue that the table gives it and on others, with and without room for
the response, whose header is sound or not. -/
theorem witness_HostRefusals :
    (ask 0 0 0x99 []).op = 0x99 ∧ (ask 0 0 0x01 []).op = 0x01 ∧ (ask 6 0 0x10 []).op = 0x10 ∧ (ask 9 129 0x31 []).op = 0x31 ∧ (ask 5 0 0x31 []).op = 0x31 ∧
    (ask 1 4 0x30 []).op = 0x30 ∧ (ask 0 9 0x99 []).descs ≤ 1024 ∧ (ask 0 9 0x99 []).room = 16 ∧ ({ ask 0 9 0x99 [] with room := 15 } : HostReq).room < 16 ∧
    ({ fn := 0, queue := 0, data := leBytes 8 1, room := 16 } : HostReq).bad = true ∧
    ({ fn := 0, queue := 0, data := leBytes 8 0x10001 ++ leBytes 8 9, room := 16 } : HostReq).bad = true ∧ (ask 6 0 0x11 []).bad = false ∧ configured.partNo (6 % 5 - 1) = none := by decide

/-- PART_SET that removes partition 1, that sets it over band 7, and entries each of which fails one check; two peers; a window of CXL memory that takes over a
host's range at another offset; queries; a stop and a resume; features. -/
theorem witness_HostConfiguration :
    (let b := leBytes 8 0x01 ++ leBytes 8 0x10000 ++ leBytes 8 0x20000 ++ leBytes 8 0; let at_ := fun (i n : Nat) => leNat ((b.drop i).take n)
     32 ≤ b.length ∧ at_ 4 4 = 0 ∧ at_ 0 1 = 1 ∧ at_ 3 1 = 0 ∧ at_ 1 1 ≤ at_ 2 1 ∧ at_ 2 1 ≤ 7 ∧ at_ 8 8 < 2 ^ 40 ∧ at_ 8 8 % 2 ^ 31 < 0x60000000 ∧ at_ 8 8 / 2 ^ 36 / 2 = 0 ∧
       configured.boot.minimal = false ∧ configured.partNo 1 = none ∧ configured.ctxs = [] ∧
       ({ configured with parts := [{ part0 with num := 1 }] } : State).partBusy { part0 with num := 1 } = false) ∧
    (∀ b ∈ [leBytes 8 0x02000000 ++ leBytes 24 0, leBytes 8 0x100000000 ++ leBytes 24 0, leBytes 8 0x04 ++ leBytes 24 0, leBytes 8 0x000100 ++ leBytes 24 0,
        leBytes 8 0x080000 ++ leBytes 24 0, leBytes 8 0 ++ leBytes 8 0x60000000 ++ leBytes 16 0, leBytes 8 0 ++ leBytes 8 0 ++ leBytes 8 0x2000000000 ++ leBytes 8 0,
        leBytes 8 0x010101 ++ leBytes 24 0, leBytes 16 0], let at_ := fun (i n : Nat) => leNat ((b.drop i).take n)
     b.length < 32 ∨ 1 < at_ 3 1 ∨ at_ 4 4 ≠ 0 ∨ 3 < at_ 0 1 ∨ at_ 2 1 < at_ 1 1 ∨ 7 < at_ 2 1 ∨ 0x60000000 ≤ at_ 8 8 % 2 ^ 31 ∨ at_ 2 1 < at_ 16 8 / 2 ^ 36 / 2 ∨ at_ 8 8 / 2 ^ 36 / 2 < at_ 1 1) ∧
    (let b := leBytes 8 0x01000000 ++ leBytes 8 0x10000 ++ leBytes 8 0x20000 ++ leBytes 8 0; let at_ := fun (i n : Nat) => leNat ((b.drop i).take n)
     32 ≤ b.length ∧ at_ 4 4 = 0 ∧ at_ 0 1 = 0 ∧ at_ 3 1 = 1 ∧ at_ 1 1 ≤ at_ 2 1 ∧ at_ 2 1 ≤ 7 ∧ configured.parts = [] ∧
       ((configured.newPart (at_ 0 1) (at_ 1 1) (at_ 2 1) (at_ 8 8) (at_ 16 8) (at_ 24 8)).map fun p =>
         decide (configured.partBusy p = false ∧ p.run = .running ∧ paInBands false p 0x10000 = true ∧ paInBands false p 0x20000 = true)) = some true) ∧
    (let b := leBytes 8 10 ++ (leBytes 8 5 ++ leBytes 8 7); b.length = 8 + 16 * 1 ∧ leNat (b.take 4) = 10 ∧ (parsePeers b 1 8).isSome ∧ configured.portsOff { num := 5, mask := 7, ident := 0 } = false) ∧
    (let b := leBytes 8 1 ++ leBytes 8 0x80000000 ++ leBytes 8 0x10000000
     let old : List (Nat × Nat) := [(0x40000000, 0x10000000), (0x80000000, 0x20000000)]
     0 < b.length ∧ leNat (b.take 1) = 1 ∧ 8 + 16 * 1 ≤ b.length ∧ ({ configured with cxl := old } : State).namesCxl = false ∧ leNat ((b.drop 16).take 8) % 2 ^ 28 = 0 ∧
       (leNat ((b.drop 8).take 8), leNat ((b.drop 16).take 8)) = (0x80000000, 0x10000000) ∧ Memory.wf configured.mem = true ∧ configured.cxlHidden = [] ∧
       old.Pairwise (fun x y => x.1 + x.2 ≤ y.1 ∨ y.1 + y.2 ≤ x.1)) ∧
    (ShownAt [(0x40000000, 0x10000000), (0x80000000, 0x20000000)] 0x80000010 0x10000010 ∧ ShownAt [(0x80000000, 0x10000000)] 0x80000010 0x10) ∧
    (∀ r ∈ [RunState.running, .stopped 2, .stopping 0 8, .entering 0 8, .away 8], let s : State := { configured with parts := [{ part0 with run := r }], comms := [comm1] }
     (s.partNo (6 % 5 - 1)).map Partition.run = some r ∧ (s.handleSlot 0 0xFFFF0002).map Comm.slot = some 2) ∧
    ((0x700000000 : Nat) &&& (7 <<< 32) = 7 <<< 32 ∧ (0x700000000 : Nat) &&& (2 + 23 <<< 32) = 0x700000000 ∧ (0x700000001 : Nat) &&& (2 + 23 <<< 32 + 1) = 0x700000001 ∧
      (0x300000000 : Nat) &&& (7 <<< 32) ≠ 7 <<< 32 ∧ (0x708000000 : Nat) &&& (2 + 23 <<< 32 + 1) ≠ 0x708000000) := by
  refine ⟨by decide +kernel, by decide +kernel, by decide +kernel, by decide +kernel, by decide +kernel, ⟨⟨1, _, rfl, by decide, by decide, by decide⟩, 0, _, rfl, by decide, by decide, by decide⟩,
    by decide +kernel, by decide⟩

/-- A running partition whose table of pages is empty, or holds one page at 0x40000000. -/
def mapping (full : Bool) : State :=
  { packageOf [] with
    parts := [part0], mem := if full then Memory.writeN [] 0x10000 (leBytes 8 (entry0 2 true).w0.toNat ++ leBytes 8 (entry0 2 true).w1.toNat) else [] }

theorem witness_HostWork :
    (let b := leBytes 8 0 ++ leBytes 8 4096 ++ leBytes 8 0x100000 ++ leBytes 8 0x0100
     (match parseMap b with
     | some m => decide (m.alloc = false ∧ m.va % m.size = 0 ∧ m.len = m.size ∧ m.target % m.size = 0 ∧ m.va + m.len ≤ 2 ^ 55) && !(mapping false).mappedAny part0 m.va m.cls &&
         !((mapping false).freeEntries part0 m.va m.cls).isEmpty
     | none => false) = true ∧ Memory.wf (mapping false).mem = true) ∧
    (let b := leBytes 8 0 ++ leBytes 8 4096; 16 ≤ b.length ∧ ((mapping true).found part0 0 4096).length = 1 ∧ Memory.wf (mapping true).mem = true ∧ (mapping true).l1 = [] ∧
      (mapping true).writes = [] ∧ (mapping true).reds = [] ∧ (∀ k ∈ (mapping true).clusters, k.vq = []) ∧ (mapping true).teams = [] ∧ ((mapping false).found part0 0 4096) = []) ∧
    (let r := (mapping true).loadChunks part0 (2 ^ 48) 0 0 1 0; r.1 = true) ∧
    (let b := leBytes 8 1 ++ leBytes 64 0; 72 ≤ b.length ∧ leNat ((b.drop 2).take 6) = 0 ∧ leNat (b.take 2) < 4096 ∧
       okWith ({ mapping true with parts := [{ part0 with ttab := 0 }] }.engWrites (sysWho part0) none (0 + 64 * 1) 8 8 ((b.drop 8).take 64)) (fun _ _ => true) = true) ∧
    (∀ k ∈ [task0 .loaded 1, task0 .loaded 2], let s : State := { mapping true with tasks := [k] }
     (s.task 0 0).map Task.st = some .loaded ∧ (s.task 0 0).map Task.counter = some k.counter ∧ 0 < k.counter ∧ (s.task 0 1).isNone) ∧
    (let b := leBytes 8 5 ++ leBytes 4 0 ++ leBytes 4 2 ++ leBytes 8 0xFF ++ leBytes 8 0x01FF
     16 + 8 * 2 ≤ b.length ∧ distinct ((List.range 2).map fun j => parseMember b (16 + 8 * j)) = true ∧
       ((List.range 1024).find? fun i => ({ mapping true with comms := [{ comm1 with slot := 0 }] }.comm 0 i).isNone) = some 1) ∧
    (let s : State := { mapping true with comms := [comm1] }
     let b := leBytes 4 0xFFFF0002 ++ (leBytes 2 2 ++ leBytes 6 0 ++ leBytes 2 0 ++ leBytes 2 2)
     12 ≤ b.length ∧ (s.handleSlot 0 (leNat (b.take 4))).map Comm.gen = some 0xFFFF ∧ reformBlock comm1 (b.drop 4) = some (0, [0, 2]) ∧ s.colls = []) ∧
    (let s : State := { mapping true with events := [{ fn := 1, kind := 6, gtime := 0, d0 := 0, d1 := 0 }], subj := { num := 1 } }
     (s.events.find? fun e => decide (e.fn = s.subj.num % 5)).map Event.kind = some 6 ∧ s.evHeld = [] ∧
       (({ (s : State) with events := [], reserve := s.events, subj := { num := 6 } } : State).reserve.find? fun e => decide (e.fn = 6 % 5)).map Event.kind = some 6) ∧
    ((([(1, 4, []), (6, 8, [1, 2, 3, 4])] : List (Nat × Nat × List Word)).find? fun e => decide (e.1 = 6 ∧ e.2.1 = 8)) = some (6, 8, [1, 2, 3, 4]) ∧
      (3 ≤ 129 ∧ 129 % 2 = 1 ∧ 6 < 10 ∧ 0 < 6 % 5 ∧ (mapping true).partNo (6 % 5 - 1) = some part0)) := by
  refine ⟨by decide +kernel, by decide +kernel, by decide +kernel, by decide +kernel, by decide +kernel, by decide +kernel, by decide +kernel, by decide, by decide⟩

/-- A translation to region r, package 5. -/
def farX (r : Nat) : Xlat := { cls := 0, w0 := 0, w1 := BitVec.ofNat 64 (r * 2 ^ 36 + 5 * 2 ^ 28), pte := none }

/-- A load that has waited for an answer from there since time 0, on port 7 where it goes to a peer. -/
def waiting (r : Nat) : State :=
  let s := onItsWay (.load 8 false 7 0 none) (.remote (farX r)) (farX r)
  { s with gtime := 1000 * s.lto, accesses := s.accesses.map fun (a : Access) => { a with port := if r = 3 then some 7 else none } }

theorem waiting_lone (r : Nat) (h : r = 1 ∨ r = 2 ∨ r = 3) : ∃ a c, (waiting r).accesses[(waiting r).subj.n]? = some a ∧ LoneRequest (waiting r) a c [] ∧
    (waiting r).accesses = [a] ∧ a.stage = .remote (farX r) ∧ a.port = (if r = 3 then some 7 else none) ∧ a.since + 1000 * (waiting r).lto ≤ (waiting r).gtime := by
  rcases h with rfl | rfl | rfl
  all_goals refine ⟨_, (waiting 1).ctx me, rfl, ?_, rfl, rfl, rfl, by decide⟩
  all_goals exact { here := rfl, own := rfl, waits := rfl, only := rfl, others := rfl, traps := by constructor <;> decide, pause := by decide, kind := rfl }

/-- A request that waits for the host, for CXL memory, for package 5; ports with and without another that lives; a write and a reduction, with a release that
waits for them and with none; a peer's read at the top of a stack and its writes at the edges of the regions; an error that has been corrected 15 times; a running
partition and a package that has not started. -/
theorem witness_LinksAndErrors :
    ((∀ r ∈ [1, 2], (farX r).pa 8 / 2 ^ 48 ≠ 3) ∧ (farX 3).pa 8 / 2 ^ 48 = 3 ∧ fld ((farX 3).pa 8) 40 8 = 5 ∧ 5 ∉ (waiting 3).lost ∧ (waiting 3).writes = [] ∧
      (waiting 3).reds = [] ∧ (waiting 3).colls = [] ∧ (waiting 3).contribs = [] ∧ (waiting 3).boot.mode = false ∧ (waiting 3).boot.minimal = false) ∧
    (∀ r ∈ [1, 2, 3], let w : PWrite := { agent := me, pipe := 0, place := .mem 0x8000 (r * 2 ^ 48 + 5 * 2 ^ 40), data := leBytes 8 7, mask := 0xFE }
     let q : PRed := { agent := me, place := .mem 0x8000 (r * 2 ^ 48 + 5 * 2 ^ 40), op := .add, n := 8, val := 1 }
     let s : State := { waiting 1 with writes := [w], reds := [q] }
     s.writes[s.subj.n]? = some w ∧ w.target = some (0x8001, r * 2 ^ 48 + 5 * 2 ^ 40 + 1) ∧ w.since + 1000 * s.lto ≤ s.gtime ∧ s.reds[s.subj.n]? = some q ∧
       q.since + 1000 * s.lto ≤ s.gtime) ∧
    ((let s := alone fun c => { c with st := .waiting (.performed .sys) 0 }
      ((s.ctx (s.leader me)).st == .waiting (.performed .sys) 0) = true ∧ (s.findCtx (s.leader me)).isSome ∧ (s.ctx (s.leader me)).lostWrite = none) ∧
     ((served id).partOf me.cl).isSome ∧ ((served id).ctx ((served id).leader me)).st = .ready) ∧
    (let s : State := { waiting 3 with peers := [{ num := 5, mask := 0xC0, ident := 0 }, { num := 6, mask := 0x40, ident := 0 }] }
     s.deadPort 7 = false ∧ (∀ p ∈ s.peers, p.mask.testBit 7 = true → (List.range 8).any fun j => decide (j ≠ 7) && p.mask.testBit j && !s.deadPort j) ∧
       s.deadPort 6 = false ∧ ((s.peers.find? fun p => p.mask.testBit 6 && (List.range 8).all fun j => decide (j = 6) || !p.mask.testBit j || s.deadPort j).map Peer.num) = some 6) ∧
    (0 :: (served id).parts.map fun p => p.num + 1).Nodup ∧
    (∀ x ∈ [(0xF5FFFFFF8, 8), (0, 64)], x.1 + x.2 ≤ 2 ^ 40 ∧ x.1 % 2 ^ 31 + x.2 ≤ 0x60000000) ∧
    (∀ x ∈ [(2 ^ 48, 8), (2 ^ 50 - 8, 8), (3 * 2 ^ 48 - 64, 64)], 2 ^ 48 ≤ x.1 ∧ x.1 / 2 ^ 48 = (x.1 + x.2 - 1) / 2 ^ 48 ∧ x.1 + x.2 ≤ 2 ^ 50) ∧
    (let s : State := { alone id with gtime := 100, corrected := List.replicate 15 (7, (1, 2, 0x40)) }
     15 ≤ (s.corrected.filter fun x => decide (s.gtime < x.1 + 10 ^ 9 ∧ x.2 = (1, 2, 0x40))).length) ∧
    ((served id).partNo 0 = some part0 ∧ part0.run = .running ∧ 9 ≤ (served id).boot.phase ∧ State.reset.boot.phase < 9 ∧ State.reset.partNo State.reset.subj.part = none) := by
  refine ⟨by decide +kernel, by decide +kernel, by decide +kernel, by decide +kernel, by decide +kernel, by decide +kernel, by decide +kernel, by decide +kernel, by decide +kernel⟩

/-- The start out of reset, with a word of memory. -/
def starting (b : Boot) (addr v : Nat) : State :=
  { State.reset with boot := { b with inReset := false }, gtime := 10 ^ 10, mem := Memory.writeN [] addr (leBytes 8 v) }

/-- Phase 1; phase 2 beside another holder, beside none, as the holder, as one that has lost the lease, before the check of a package that is none, and where
another has marked one as copied that is none; phases 5 and 8 with their words written. -/
theorem witness_StartOfPackage :
    State.reset.boot.inReset = true ∧ 0x2FFFFFFF < 0x30000000 ∧ (starting { State.reset.boot with phase := 1 } 0 0).boot.phase = 1 ∧
    (let s := starting { State.reset.boot with phase := 2 } regionPa 0x500000007
     s.boot.phase = 2 ∧ s.subj.ok = true ∧ s.boot.lead = none ∧ wb s.lease 63 = false ∧ wfld s.lease 0 32 ≠ 0 ∧ s.lease ≠ s.boot.seen ∧
       s.boot.t3 + 5 * 10 ^ 9 ≤ s.gtime ∧ s.boot.inReset = false ∧ s.boot.phase < 9 ∧ s.boot.t0 + 10 ^ 10 ≤ s.gtime) ∧
    (let s := starting { State.reset.boot with phase := 2 } regionPa 0
     s.boot.lead = none ∧ wb s.lease 63 = false ∧ wfld s.lease 0 32 = 0 ∧ Memory.wf s.mem = true) ∧
    (∀ v ∈ [0x500000007, 0x500000008], let s := starting { State.reset.boot with phase := 2, lead := some 0x500000007 } regionPa v
     s.boot.lead = some 0x500000007 ∧ s.boot.checked = false ∧ (s.lease = 0x500000007 ↔ v = 0x500000007) ∧ Memory.wf s.mem = true) ∧
    (let s := starting { State.reset.boot with phase := 2 } regionPa (2 ^ 63 + 1); s.boot.lead = none ∧ wb s.lease 63 = true) ∧
    (let s := starting { State.reset.boot with phase := 5 } (bpb 12) 1; s.boot.phase = 5 ∧ leNat (Memory.readN s.mem (bpb 12) 4) = 1) ∧
    (let s := starting { State.reset.boot with phase := 8 } (bpb 20) 1; s.boot.phase = 8 ∧ leNat (Memory.readN s.mem (bpb 20) 4) = 1) := by
  refine ⟨rfl, by decide, rfl, by decide +kernel, by decide +kernel, by decide +kernel, by decide +kernel, by decide +kernel, by decide +kernel⟩

/-- Both slots of that package are empty: no header is found there. -/
theorem witness_StartOfPackage_slots : ∀ pa ∈ [stageSlot, execSlot], (starting { State.reset.boot with phase := 2 } regionPa 0).verifySlot pa = .error 3 := by
  decide +kernel

/-- A start whose map names no cluster is refused. -/
theorem witness_StartOfPackage_map : (starting { State.reset.boot with phase := 6 } (bpb 12) 1).boot.phase = 6 ∧
    leNat (Memory.readN (starting { State.reset.boot with phase := 6 } (bpb 12) 1).mem (bpb 8) 4) = 0 := by decide +kernel

theorem flat_pair (l : List Nat) : ∀ i x : Nat, l[i]? = some x →
    (l.flatMap (leBytes 2))[2 * i]? = some (BitVec.ofNat 8 x) ∧ (l.flatMap (leBytes 2))[2 * i + 1]? = some (BitVec.ofNat 8 (x / 256)) := by
  induction l with
  | nil => intro i x h; cases h
  | cons a l ih =>
    intro i x h
    cases i with
    | zero => cases h; simp [leBytes]
    | succ i =>
      have := ih i x h
      rw [show 2 * (i + 1) = 2 * i + 1 + 1 from by omega, show 2 * i + 1 + 1 + 1 = 2 * i + 1 + 1 + 1 from rfl]
      simpa [leBytes, List.flatMap_cons] using this

theorem flat_length (l : List Nat) : (l.flatMap (leBytes 2)).length = 2 * l.length := by
  induction l with
  | nil => rfl
  | cons a l ih => rw [List.flatMap_cons, List.length_append, ih]; simp only [leBytes, List.length_cons, List.length_nil]; omega

/-- The number of clusters below a physical id that are enabled by fuse: its place among them. -/
def rank (i : Nat) : Nat := ((List.range i).filter enabledByFuse).length

theorem rank_succ (i : Nat) : rank (i + 1) = rank i + if enabledByFuse i then 1 else 0 := by
  unfold rank
  rw [List.range_succ, List.filter_append, List.length_append]
  cases h : enabledByFuse i <;> simp [h]

theorem rank_le (i : Nat) : rank i ≤ i := by
  have := List.length_filter_le enabledByFuse (List.range i)
  rwa [List.length_range] at this

/-- R1: at most 24 clusters are disabled, whatever the fuses are. -/
theorem rank_fusedOff (i : Nat) : rank i + fusedOff i = i ∧ fusedOff i ≤ 24 := by
  induction i with
  | zero => exact ⟨rfl, Nat.zero_le _⟩
  | succ i ih =>
    have e : rank (i + 1) = rank i + if enabledByFuse i then 1 else 0 := rank_succ i
    have f : fusedOff (i + 1) = if enabledByFuse i then fusedOff i else fusedOff i + 1 := by simp [fusedOff, enabledByFuse, or_assoc]
    rw [e, f]
    by_cases h : enabledByFuse i = true
    · rw [if_pos h, if_pos h]; omega
    · rw [if_neg h, if_neg h]
      have : ¬ 24 ≤ fusedOff i := fun g => h (by simp [enabledByFuse, g])
      omega

/-- The enabled clusters in ascending order have the places 0, 1, … -/
theorem rank_map (i : Nat) : ((List.range i).filter enabledByFuse).map rank = List.range (rank i) := by
  induction i with
  | zero => rfl
  | succ i ih =>
    rw [List.range_succ, List.filter_append, List.map_append, ih, rank_succ]
    cases h : enabledByFuse i
    · simp [List.filter, h]
    · simp [List.filter, h, List.range_succ]

/-- What the map says of a cluster. -/
def placeOf (i : Nat) : Nat := if enabledByFuse i then rank i else 0xFFFF

@[irreducible] def mapAll : List Byte := ((List.range 1024).map placeOf).flatMap (leBytes 2)

theorem mapAll_length : mapAll.length = 2048 := by
  unfold mapAll
  rw [flat_length, List.length_map, List.length_range]

/-- N and MAPREADY. -/
@[irreducible] def counts : List Byte := leBytes 4 (rank 1024) ++ leBytes 4 1

/-- A boot cluster in phase 6 has written N, MAPREADY and the map of every enabled cluster. -/
def mappedAll : State := { starting { State.reset.boot with phase := 6 } 0 0 with
  mem := Memory.writeN (Memory.writeN [] (bpb 8) counts) (bpb 0x3000) mapAll }

theorem mappedAll_entry (i : Nat) (h : i < 1024) : mappedAll.mapEntry i = placeOf i := by
  have hw : Memory.wf (Memory.writeN [] (bpb 8) counts) = true := Memory.wf_writeN rfl _ _
  have hl : ∀ j, j < 2048 → Memory.read mappedAll.mem (bpb 0x3000 + j) = (mapAll[j]?).getD 0 := by
    intro j hj
    show Memory.read (Memory.writeN _ _ _) _ = _
    rw [Memory.read_writeN hw, mapAll_length, if_pos (by omega), show bpb 0x3000 + j - bpb 0x3000 = j from by omega]
  obtain ⟨h0, h1⟩ := flat_pair ((List.range 1024).map placeOf) i (placeOf i) (by rw [List.getElem?_map, List.getElem?_range h]; rfl)
  have e : Memory.readN mappedAll.mem (bpb (0x3000 + 2 * i)) 2 = [BitVec.ofNat 8 (placeOf i), BitVec.ofNat 8 (placeOf i / 256)] := by
    have h2 : Memory.readN mappedAll.mem (bpb (0x3000 + 2 * i)) 2 =
      [Memory.read mappedAll.mem (bpb 0x3000 + 2 * i), Memory.read mappedAll.mem (bpb 0x3000 + (2 * i + 1))] := rfl
    rw [h2, hl _ (by omega), hl _ (by omega)]
    unfold mapAll
    rw [h0, h1]
    rfl
  have hp : placeOf i < 65536 := by
    unfold placeOf
    have := rank_le i
    split <;> omega
  show leNat (Memory.readN mappedAll.mem (bpb (0x3000 + 2 * i)) 2) = placeOf i
  rw [e]
  simp only [leNat, BitVec.toNat_ofNat]
  omega

/-- The map holds, whatever the fuses are. -/
theorem witness_mapCheck : mappedAll.mapOk = some (rank 1024) ∧ mappedAll.boot.phase = 6 ∧ leNat (Memory.readN mappedAll.mem (bpb 12) 4) = 1 := by
  have hw : Memory.wf (Memory.writeN [] (bpb 8) counts) = true := Memory.wf_writeN rfl _ _
  have hc : ∀ j, j < 8 → Memory.read mappedAll.mem (bpb 8 + j) = (counts[j]?).getD 0 := by
    intro j hj
    show Memory.read (Memory.writeN _ _ _) _ = _
    rw [Memory.read_writeN hw, if_neg (by simp only [bpb]; omega), Memory.read_writeN rfl, if_pos ⟨by omega, by simp [counts, leBytes]; omega⟩,
      show bpb 8 + j - bpb 8 = j from by omega]
  have hn := rank_fusedOff 1024
  have hm : mappedAll.mapped = (List.range 1024).filter enabledByFuse := by
    refine List.filter_congr fun i hi => ?_
    have := List.mem_range.1 hi
    have := rank_le i
    rw [mappedAll_entry i (by omega), placeOf]
    cases enabledByFuse i
    · rfl
    · exact decide_eq_true (by show rank i ≠ 65535; omega)
  have h8 : leNat (Memory.readN mappedAll.mem (bpb 8) 4) = rank 1024 := by
    show leNat [Memory.read mappedAll.mem (bpb 8 + 0), Memory.read mappedAll.mem (bpb 8 + 1), Memory.read mappedAll.mem (bpb 8 + 2),
      Memory.read mappedAll.mem (bpb 8 + 3)] = _
    rw [hc 0 (by omega), hc 1 (by omega), hc 2 (by omega), hc 3 (by omega)]
    simp only [counts, leBytes, List.cons_append, List.getElem?_cons_zero, List.getElem?_cons_succ, Option.getD_some, leNat, BitVec.toNat_ofNat]
    omega
  have h12 : leNat (Memory.readN mappedAll.mem (bpb 12) 4) = 1 := by
    show leNat [Memory.read mappedAll.mem (bpb 8 + 4), Memory.read mappedAll.mem (bpb 8 + 5), Memory.read mappedAll.mem (bpb 8 + 6),
      Memory.read mappedAll.mem (bpb 8 + 7)] = _
    rw [hc 4 (by omega), hc 5 (by omega), hc 6 (by omega), hc 7 (by omega)]
    simp [counts, leBytes, leNat]
  refine ⟨?_, rfl, h12⟩
  unfold State.mapOk
  rw [hm, h8]
  refine if_pos ⟨rfl, ?_, ?_, ?_⟩
  · refine (List.map_congr_left fun i hi => ?_).trans (rank_map 1024)
    obtain ⟨h1, h2⟩ := List.mem_filter.1 hi
    rw [mappedAll_entry i (List.mem_range.1 h1), placeOf, if_pos h2]
  · refine List.all_eq_true.2 fun i hi => ?_
    simp only [State.usable, (List.mem_filter.1 hi).2, Bool.true_and]
    rfl
  · show 1000 ≤ rank 1024
    omega

/-! ### Witnesses and tests: steps, memory, encodings -/

/-- A package that runs in partition 0 the word at VA 0x800, PA 0x100800. -/
def fetching (w : Nat) : State :=
  { served (fun c => { c with pc := 0x800 }) with mem := Memory.writeN (served id).mem 0x100800 (leBytes 4 w), next := .ctx me }

/-- A word of `addi` that is fetched where it is translated, and one that is refused. -/
theorem witness_StepRunsDecoded :
    (∀ w ∈ [0x04318004, 0], let s := fetching w
     s.next = .ctx me ∧ (s.findCtx me).map Ctx.pc = some 0x800 ∧ (0x800 : Word).toNat < 2 ^ 56 ∧ regionOf (0x800 : Word).toNat = .paged ∧
       (({ (s : State) with cur := me } : State).findILine me (0x800 / 64)).isNone ∧
       (match ({ s with cur := me } : State).lookup (whoOf (s.ctx me)) 0x800 with
       | (.ok x, u) => decide (checkPage (whoOf (s.ctx me)) .fetch x = .ok ∧ x.pa 0x800 = 0x100800) && !u.poisonedAt (x.pa 0x800) 4 &&
         !u.lostPeer (x.pa 0x800) && decide (leNat (Memory.readN u.mem (x.pa 0x800) 4) = w)
       | _ => false) = true) ∧
    (let s : State := { fetching 0 with l1i := [{ cl := 0, pipe := 0, line := 0x20, data := leBytes 64 0x04318004, x := entry0 2 true }] }
     (({ (s : State) with cur := me } : State).findILine me (0x800 / 64)).map (fun l => lineWord l.data 0) = some 0x04318004 ∧
       checkPage (whoOf (s.ctx me)) .fetch (entry0 2 true) = .ok) ∧
    decodeBytes [4, 0x80, 0x31, 4] = .ok (.addi false 3 3 4, []) ∧ (match decodeBytes [0, 0, 0, 0] with
     | .error _ => true
     | .ok _ => false) = true := by
  refine ⟨by decide +kernel, by decide +kernel, by decide +kernel, by decide +kernel⟩

theorem witness_StepsKeepNext : ∃ t, step State.reset = .next t := ⟨_, rfl⟩

theorem witness_MemoryLaws : Memory.wf [] = true ∧ Memory.wf [((0 : Nat), (1 : Byte)), (7, 255)] = true := by decide

theorem witness_EncodeDecode : (Instr.addi false 3 3 4).wf = true ∧ encode (.addi false 3 3 4) = some 0x04318004 ∧ 0x04318004 < 2 ^ 32 ∧
    decodeWord 0x04318004 = .ok (.addi false 3 3 4) := by decide

theorem witness_DecodeEncode : (0x9A51C000 : Nat) < 2 ^ 32 ∧ decodeWord 0x9A51C000 = .ok (.ld true 5 3 4 0 0) := by decide

/-- withFetchWord: the step after reset runs the word. -/
theorem test_fetch : (match step (State.reset.withFetchWord 32 0x04318004) with
    | .next _ => true
    | _ => false) = true ∧ decodeTableWord 32 0x04318004 = some (.addi false 3 3 4) := by
  refine ⟨rfl, by decide⟩

end Sys2Proof.Tests
end

section
/-! The decoder and the encoder (O60): every word that decodes is the word of the instruction it decodes to. -/
namespace Sys2Proof

/-- What is left of the word above its lowest k bits, as an integer: a field is the difference of two of them. -/
def above (w k : Nat) : Int := (w / 2 ^ k : Nat)

theorem above_zero (w : Nat) : above w 0 = w := by simp [above]

theorem above_top {w : Nat} (hw : w < 2 ^ 32) : above w 32 = 0 := by
  rw [above, Nat.div_eq_of_lt hw, Nat.cast_zero]

@[push_cast] theorem fld_eq_above (w lo k : Nat) : (fld w lo k : Int) = above w lo - 2 ^ k * above w (lo + k) := by
  have h := Nat.div_add_mod (w / 2 ^ lo) (2 ^ k)
  rw [Nat.div_div_eq_div_mul, ← Nat.pow_add] at h
  have hz : (2 ^ k : Int) * above w (lo + k) + fld w lo k = above w lo := by
    simp only [above, fld]; exact_mod_cast h
  omega

theorem fld_eq_iff (w lo k c : Nat) : fld w lo k = c ↔ above w lo = c + 2 ^ k * above w (lo + k) := by
  rw [← @Nat.cast_inj Int, fld_eq_above]; omega

@[simp, push_cast] theorem finAt_val (k w lo : Nat) : (finAt k w lo).val = fld w lo k := rfl

@[simp, push_cast] theorem bvAt_toNat (k w lo : Nat) : (bvAt k w lo).toNat = fld w lo k := by
  simp [bvAt, fld]

@[simp, push_cast] theorem bitAt_toNat (w lo : Nat) : (bitAt w lo).toNat = fld w lo 1 := by
  rcases (by simp only [fld]; omega : fld w lo 1 = 0 ∨ fld w lo 1 = 1) with h | h <;> simp [bitAt, h]

/-- What a decoder of words answers for w is an instruction whose word is w. -/
def Encodes (w : Nat) (o : Option Instr) : Prop := ∀ i, o = some i → encode i = some w

theorem encodes_none (w : Nat) : Encodes w none := nofun

theorem encodes_some {w e : Nat} {i : Instr} (he : encode i = some e) (h : (e : Int) = above w 0) : Encodes w (some i) := by
  rintro _ ⟨⟩
  rw [he, Nat.cast_inj.1 (h.trans (above_zero w))]

theorem encodes_row {w e : Nat} {p : Prop} [Decidable p] {i : Instr} {r : Option Instr} (he : encode i = some e) (h : p → (e : Int) = above w 0)
    (hr : Encodes w r) : Encodes w (if p then some i else r) := by
  split
  · exact encodes_some he (h ‹_›)
  · exact hr

/-- The rows of a major, as the decoder reads them, are the rows as the encoder writes them. -/
def RowsEncode (major : Nat) (rows : Nat → Option Instr) : Prop := ∀ w, w < 2 ^ 32 → fld w 25 6 = major → Encodes w (rows w)

theorem rowsEncode_of_above {m : Nat} {rows : Nat → Option Instr}
    (h : ∀ w, above w 32 = 0 → above w 25 = m + 2 ^ 6 * above w 31 → Encodes w (rows w)) : RowsEncode m rows :=
  fun w hw hm => h w (above_top hw) ((fld_eq_iff w 25 6 m).1 hm)

/-! ### The rows of the majors (R175): the bits tested and the fields read, each a difference of two remainders, add up to the word -/

/-- The majors of one row. -/
theorem plainRows_encode :
    RowsEncode 2 decAddi ∧ RowsEncode 3 decAndi ∧ RowsEncode 4 decOri ∧ RowsEncode 5 decXori ∧ RowsEncode 8 decLih ∧ RowsEncode 9 decAdpc ∧
    RowsEncode 13 decLd ∧ RowsEncode 14 decSt ∧ RowsEncode 15 decLda ∧ RowsEncode 16 decStl ∧ RowsEncode 18 decBeq ∧ RowsEncode 19 decBgeu ∧
    RowsEncode 21 decJal ∧ RowsEncode 22 decJalr ∧ RowsEncode 36 decBne ∧ RowsEncode 37 decBlt ∧ RowsEncode 38 decBge ∧ RowsEncode 39 decBltu := by
  refine ⟨?_, ?_, ?_, ?_, ?_, ?_, ?_, ?_, ?_, ?_, ?_, ?_, ?_, ?_, ?_, ?_, ?_, ?_⟩ <;> refine rowsEncode_of_above fun w h32 hm => ?_
  all_goals
    refine encodes_some rfl ?_
    push_cast at *
    omega

/-- The scalar majors of several rows: INT-R, SHI, CMPI, MULDIV, FP, AMO, BP and PRED. -/
theorem scalarRows_encode :
    RowsEncode 1 decIntR ∧ RowsEncode 6 decShi ∧ RowsEncode 7 decCmpi ∧ RowsEncode 10 decMulDiv ∧ RowsEncode 11 decFpR ∧ RowsEncode 12 decFpCvt ∧
    RowsEncode 17 decAmo ∧ RowsEncode 20 decBp ∧ RowsEncode 23 decPred := by
  refine ⟨?_, ?_, ?_, ?_, ?_, ?_, ?_, ?_, ?_⟩ <;> refine rowsEncode_of_above fun w h32 hm => ?_
  all_goals
    simp only [decIntR, decShi, decCmpi, decMulDiv, decFpR, decFpCvt, decAmo, decBp, decPred, fld_eq_iff]
    repeat' refine encodes_row rfl (fun h => ?_) ?_
  any_goals exact encodes_none w
  all_goals
    push_cast at *
    omega

/-- SYNC, SIMT, TASK, VEC and SFU. -/
theorem controlAndVectorRows_encode :
    RowsEncode 24 decSync ∧ RowsEncode 25 decSimt ∧ RowsEncode 26 decTask ∧ RowsEncode 27 decVec ∧ RowsEncode 28 decSfu := by
  refine ⟨?_, ?_, ?_, ?_, ?_⟩ <;> refine rowsEncode_of_above fun w h32 hm => ?_
  all_goals
    simp only [decSync, decSimt, decTask, decVec, decSfu, fld_eq_iff]
    repeat' refine encodes_row rfl (fun h => ?_) ?_
  any_goals exact encodes_none w
  all_goals
    push_cast at *
    omega

/-- MAT, COPY, STRM, SPAR, VRB, SYSREG and SYS. -/
theorem engineAndSystemRows_encode :
    RowsEncode 29 decMat ∧ RowsEncode 30 decCopy ∧ RowsEncode 31 decStrm ∧ RowsEncode 32 decSpar ∧ RowsEncode 33 decVrb ∧ RowsEncode 34 decSysReg ∧
    RowsEncode 35 decSys := by
  refine ⟨?_, ?_, ?_, ?_, ?_, ?_, ?_⟩ <;> refine rowsEncode_of_above fun w h32 hm => ?_
  all_goals
    simp only [decMat, decCopy, decStrm, decSpar, decVrb, decSysReg, decSys, fld_eq_iff]
    repeat' refine encodes_row rfl (fun h => ?_) ?_
  any_goals exact encodes_none w
  all_goals
    push_cast at *
    omega

/-- Whatever a word decodes to, well formed or not, is encoded as that word. -/
theorem decMajor_encodes {w : Nat} (hw : w < 2 ^ 32) : Encodes w (decMajor w) := by
  obtain ⟨r1, r6, r7, r10, r11, r12, r17, r20, r23⟩ := scalarRows_encode
  obtain ⟨r24, r25, r26, r27, r28⟩ := controlAndVectorRows_encode
  obtain ⟨r29, r30, r31, r32, r33, r34, r35⟩ := engineAndSystemRows_encode
  obtain ⟨r2, r3, r4, r5, r8, r9, r13, r14, r15, r16, r18, r19, r21, r22, r36, r37, r38, r39⟩ := plainRows_encode
  unfold decMajor
  split <;> rename_i h
  exacts [r1 w hw h, r2 w hw h, r3 w hw h, r4 w hw h, r5 w hw h, r6 w hw h, r7 w hw h, r8 w hw h, r9 w hw h, r10 w hw h, r11 w hw h, r12 w hw h,
    r13 w hw h, r14 w hw h, r15 w hw h, r16 w hw h, r17 w hw h, r18 w hw h, r19 w hw h, r20 w hw h, r21 w hw h, r22 w hw h, r23 w hw h, r24 w hw h,
    r25 w hw h, r26 w hw h, r27 w hw h, r28 w hw h, r29 w hw h, r30 w hw h, r31 w hw h, r32 w hw h, r33 w hw h, r34 w hw h, r35 w hw h, r36 w hw h,
    r37 w hw h, r38 w hw h, r39 w hw h, encodes_none w]

/-- A word decodes to the instruction that its major reads, where its fields are ones that the manual assigns (R176). -/
theorem decodeWord_ok_iff {w : Nat} {i : Instr} : decodeWord w = .ok i ↔ decMajor w = some i ∧ i.wf = true := by
  unfold decodeWord
  cases decMajor w with
  | none => simp only [reduceCtorEq, false_and, iff_false]; split <;> nofun
  | some j =>
    simp only [Option.some.injEq]
    split
    next hj => exact ⟨fun h => by cases h; exact ⟨rfl, hj⟩, fun ⟨h, _⟩ => by rw [h]⟩
    next hj => exact ⟨nofun, fun ⟨h, hw⟩ => absurd (h ▸ hw) hj⟩

/-- Settles O60: the fields that a row reads and the bits it tests make up the whole word, major by major. -/
theorem decodeEncode : Obligations.DecodeEncode := by
  intro i w hw h
  obtain ⟨hi, hwf⟩ := decodeWord_ok_iff.1 h
  exact ⟨hwf, decMajor_encodes hw i hi⟩

end Sys2Proof
end

section
/-! Memory (O58) and the words of the worked example (O57). -/

namespace Sys2Proof.Machine

/-- The bytes written from an address on are the bytes read from there. -/
theorem Memory.readN_writeN {m : List Host.Cell} (h : Memory.wf m = true) (a : Nat) (l : List Byte) :
    Memory.readN (Memory.writeN m a l) a l.length = l := by
  apply List.ext_getElem
  · simp [Memory.readN]
  · intro i _ hi
    simp [Memory.readN, Memory.read_writeN h, hi]

/-- The low bytes of a number hold what it leaves modulo the numbers that fit in them. -/
theorem leNat_leBytes_mod (n v : Nat) : leNat (leBytes n v) = v % 256 ^ n := by
  induction n generalizing v with
  | zero => simp [leBytes, leNat, Nat.mod_one]
  | succ n ih => rw [leBytes, leNat, ih, BitVec.toNat_ofNat, show 256 ^ (n + 1) = 256 * 256 ^ n from Nat.pow_succ', Nat.mod_mul]

/-- Settles O58, by the laws of one byte's write and of a write of many. -/
theorem memoryLaws : Obligations.MemoryLaws := by
  intro m a hm
  refine ⟨fun b v => Memory.read_write hm a v b, Memory.wf_write hm a, fun n v => ⟨?_, leNat_leBytes_mod n v⟩, fun l => ⟨Memory.wf_writeN hm a l, ?_⟩⟩
  · have h := Memory.readN_writeN hm a (leBytes n v)
    rwa [length_leBytes] at h
  · intro b hb
    rw [Memory.read_writeN hm, if_neg (by omega)]

/-- Settles O57: each word by running the decoder, the excluded fields as the well-formedness of the four forms says. -/
theorem decodedWords : Obligations.DecodedWords := by
  refine ⟨by decide, by decide, by decide, by decide, by decide, by decide, by decide, by decide, fun sm d a w h o => ⟨rfl, rfl, rfl, rfl⟩⟩

end Sys2Proof.Machine
end

section
/-! The step of a context runs the word that its fetch finds (O56). -/

namespace Sys2Proof.Machine

/-! ### What a fetch and a lookup change -/

theorem fillSlice_rest (s : State) (w : Who) (va : Nat) (x : Xlat) : s.fillSlice w va x = { s with l2 := (s.fillSlice w va x).l2 } := by
  unfold State.fillSlice State.sput
  split
  · rfl
  · split
    · split <;> rfl
    · rfl

@[simp] theorem sput_cur (s : State) (part va : Nat) (x : Xlat) : (s.sput part va x).cur = s.cur := by
  unfold State.sput
  split <;> rfl

@[simp] theorem tkeep_cur (s : State) (part va : Nat) (x : Xlat) : (s.tkeep part va x).cur = s.cur := by
  unfold State.tkeep
  split <;> rfl

theorem sliceHit_cur {s u : State} {part va : Nat} {x : Xlat} (h : s.sliceHit part va = some (x, u)) : u.cur = s.cur := by
  unfold State.sliceHit at h
  split at h
  · cases h; exact sput_cur _ _ _ _
  · obtain ⟨y, -, hy⟩ := Option.map_eq_some_iff.1 h
    cases hy; rfl

theorem setEntryBits_cur {s u : State} {p : Partition} {x y : Xlat} {bits : Nat} (h : s.setEntryBits p x bits = some (y, u)) : u.cur = s.cur := by
  unfold State.setEntryBits at h
  split at h
  · cases h; rfl
  · dsimp only at h
    split at h
    · cases h
    · cases h
      split
      · rfl
      · exact (settled_placeWrite _ _ _ _).cur

/-- A lookup leaves the issuing agent as it is. -/
theorem lookup_cur (s : State) (w : Who) (va : Nat) : (s.lookup w va).2.cur = s.cur := by
  unfold State.lookup
  split
  · rfl
  · split
    next h =>
      obtain ⟨p, -, hp⟩ := Option.bind_eq_some_iff.1 h
      exact sliceHit_cur hp
    · unfold State.probeSet
      split
      · split
        · rfl
        · split
          · rfl
          · split
            next h => exact (tkeep_cur _ _ _ _).trans (setEntryBits_cur h)
            · rfl
      · rfl

/-- A fetch whose page is translated and executable reads the four bytes at its frame, and fills the caches. -/
theorem fetchHome_word {s u : State} {w : Who} {agent : CtxId} {va : Nat} {x : Xlat} (h : s.lookup w va = (.ok x, u)) (hc : checkPage w .fetch x = .ok)
    (hp : u.poisonedAt (x.pa va) 4 = false) (hl : u.lostPeer (x.pa va) = false) :
    ∃ v : State, v = { u with l1i := v.l1i, l2 := v.l2 } ∧ s.fetchHome w agent va = (.word (leNat (Memory.readN u.mem (x.pa va) 4)), v) := by
  have hfill : ∀ l : ILine, (u.fillSlice w va x).putILine l = { u with l1i := ((u.fillSlice w va x).putILine l).l1i, l2 := (u.fillSlice w va x).l2 } := by
    intro l; rw [fillSlice_rest]; rfl
  unfold State.fetchHome
  simp only [h, hc, hp, hl, Bool.false_eq_true, if_false]
  split
  · exact ⟨u, rfl, rfl⟩
  · exact ⟨_, hfill _, by rw [hfill]⟩

/-! ### The fetch at a paged pc (R10, R18) -/

section
variable {s : State} {id : CtxId} {c : Ctx} (hc : s.findCtx id = some c) (hva : c.pc.toNat < 2 ^ 56) (hr : regionOf c.pc.toNat = .paged)
include hc hva hr

theorem fetch_of_no_line (hl : s.findILine id (c.pc.toNat / 64) = none) : s.fetch id = s.fetchHome (whoOf c) id c.pc.toNat := by
  simp only [State.fetch, ctx_of_find hc, Nat.not_le.2 hva, hr, hl, if_false, ne_eq, not_true_eq_false]

theorem fetch_past_line {l : ILine} (hl : s.findILine id (c.pc.toNat / 64) = some l) (hf : (Config.free s.freeCtr).getLsbD 0 = false) :
    s.fetch id = State.fetchHome { s with freeCtr := s.freeCtr + 1 } (whoOf c) id c.pc.toNat := by
  simp only [State.fetch, State.freshFree, ctx_of_find hc, Nat.not_le.2 hva, hr, hl, hf, if_false, ne_eq, not_true_eq_false, Bool.false_eq_true]

theorem fetch_from_line {l : ILine} (hl : s.findILine id (c.pc.toNat / 64) = some l) (hf : (Config.free s.freeCtr).getLsbD 0 = true)
    (hk : checkPage (whoOf c) .fetch l.x = .ok) :
    s.fetch id = (.word (lineWord l.data (c.pc.toNat % 64)), { s with freeCtr := s.freeCtr + 1 }) := by
  simp only [State.fetch, State.freshFree, ctx_of_find hc, Nat.not_le.2 hva, hr, hl, hf, hk, if_true, if_false, ne_eq, not_true_eq_false]

end

/-! ### The step of a context -/

/-- The step of state s runs, in state v, what the word w decodes to: the instruction, which joins the run of context id, or ILLEGAL's event. -/
def StepRuns (s : State) (id : CtxId) (w : Nat) (v : State) : Prop :=
  (∀ i, decodeWord w = .ok i → i.wf = true ∧ step s = afterMove (exec i (v.noteRun id w))) ∧
    ∀ e, decodeWord w = .error e → step s = afterMove (exec .illegalEncoding { v with subj := { num := w } })

theorem stepRuns_of_fetch {s v : State} {id : CtxId} {w : Nat} (hn : s.next = .ctx id) (hf : State.fetch { s with cur := id } id = (.word w, v)) :
    StepRuns s id w v := by
  have hs : step s = afterMove (exec (State.issue { s with cur := id } id).1 (State.issue { s with cur := id } id).2) := by
    unfold step; rw [hn]
  refine ⟨fun i hi => ⟨(decodeWord_ok_iff.1 hi).2, ?_⟩, fun e he => ?_⟩
  · rw [hs]; simp only [State.issue, hf, hi]
  · rw [hs]; simp only [State.issue, hf, he]

/-- A fetch from the home slice leaves the issuing agent as it is, and its word runs. -/
theorem stepRuns_of_fetchHome {s s' u : State} {id : CtxId} {w : Who} {va : Nat} {x : Xlat} (hn : s.next = .ctx id) (hcur : s'.cur = id)
    (hf : State.fetch { s with cur := id } id = s'.fetchHome w id va) (h : s'.lookup w va = (.ok x, u)) (hc : checkPage w .fetch x = .ok)
    (hp : u.poisonedAt (x.pa va) 4 = false) (hl : u.lostPeer (x.pa va) = false) :
    ∃ v : State, v = { u with l1i := v.l1i, l2 := v.l2 } ∧ v.cur = id ∧ StepRuns s id (leNat (Memory.readN u.mem (x.pa va) 4)) v := by
  obtain ⟨v, hv, hw⟩ := fetchHome_word (agent := id) h hc hp hl
  refine ⟨v, hv, ?_, stepRuns_of_fetch hn (hf.trans hw)⟩
  have hu := lookup_cur s' w va
  rw [h] at hu
  rw [hv]
  exact hu.trans hcur

/-- Settles O56: the fetch is the home slice's, or, by a free value, that of the line which the instruction bank holds. -/
theorem stepRunsDecoded : Obligations.StepRunsDecoded := by
  intro s
  refine ⟨fun id c hn hc hva hr => ?_, fun i a h => by unfold step; rw [h], fun h => by unfold step; rw [h]⟩
  have hc' : State.findCtx { s with cur := id } id = some c := hc
  refine ⟨fun hl x u h hk hp hlost => ?_, fun l hl => ⟨fun hf x u h hk hp hlost => ?_, fun hf hk => ?_⟩⟩
  · exact stepRuns_of_fetchHome hn rfl (fetch_of_no_line hc' hva hr hl) h hk hp hlost
  · exact stepRuns_of_fetchHome hn rfl (fetch_past_line hc' hva hr hl hf) h hk hp hlost
  · exact stepRuns_of_fetch hn (fetch_from_line hc' hva hr hl hf hk)

end Sys2Proof.Machine
end

section
/-! System registers (O24): the access of the level, the value read, the field written. -/
namespace Sys2Proof.Machine

theorem lateOf_alone {s : State} (ha : (s.ctx s.cur).grp = none) (d : Reg) (f : CtxId → Word) : lateOf s d f = oneLate s d (f s.cur) none := by
  unfold lateOf oneLate
  rw [lanes_alone (groupOf_alone ha)]
  simp [leader_alone ha]

/-- One late result of a context that runs alone. -/
theorem addLongs_alone {s : State} (ha : (s.ctx s.cur).grp = none) (d : Reg) (v : Word) :
    s.addLongs d [(s.cur, v)] = { s with longs := s.longs ++ oneLate s d v none } := by
  have h := addLongs_eq s d fun _ => v
  rwa [State.laneVals, lanes_alone (groupOf_alone ha), lateOf_alone ha] at h

/-- A cause of its own each, for one lane: its trap, with a free EVAL. -/
theorem tookTrap_causeHits {s : State} (h : Trappable s s.cur) {bad : CtxId → Option Nat} {cause : Nat} (hb : bad s.cur = some cause) (sm : Bool) :
    ∃ v, TookTrap s.cur cause 0 v (s.ctx s.cur).pc s ((s.causeHits bad [s.cur]).2.trapSome (s.causeHits bad [s.cur]).1 sm) := by
  have h' : Trappable { s with freeCtr := s.freeCtr + 1 } s.cur := ⟨h.here, h.alone, h.booted, h.level, h.clean, h.answered⟩
  have e : s.causeHits bad [s.cur] = ([(s.cur, .trap cause 0 (Config.free s.freeCtr))], { s with freeCtr := s.freeCtr + 1 }) := by
    simp only [State.causeHits, hb, State.freshFree]
  refine ⟨Config.free s.freeCtr, ?_⟩
  rw [e]
  unfold State.trapSome
  rw [hitLanes_alone (groupOf_alone h'.alone)]
  exact (tookTrap_takeTrap h' cause 0 _ _ false false).of_free

/-! ### Access to system registers (R182, R183) -/

theorem sysReadTrap_none {c : Ctx} {n : Nat} {a b : SysAcc} (h : sysAccess n = some (a, b)) (ha : c.priv = .user → a ≠ .none) (hb : b ≠ .none) :
    sysReadTrap c n = none := by
  unfold sysReadTrap sysAccOf
  rw [h]
  by_cases hp : c.priv = .user
  · cases a <;> simp_all
  · cases b <;> simp_all

theorem sysWriteTrap_none {c : Ctx} {n : Nat} {v : Word} {a b : SysAcc} (h : sysAccess n = some (a, b)) (ha : c.priv = .user → a = .rw ∨ a = .w1c)
    (hb : b = .rw ∨ b = .w1c) (hn : n = 0x023 → v.toNat ≤ 2) : sysWriteTrap c n v = none := by
  have hx : sysAccOf c n = some .rw ∨ sysAccOf c n = some .w1c := by
    unfold sysAccOf
    rw [h]
    by_cases hp : c.priv = .user
    · simpa [hp] using ha hp
    · simpa [hp] using hb
  unfold sysWriteTrap
  rcases hx with hx | hx
  · rw [hx]; exact if_neg fun ⟨h1, h2⟩ => absurd (hn h1) (by omega)
  · rw [hx]

theorem sysReadTrap_unlisted {n : Nat} (h : sysAccess n = none) (c : Ctx) : sysReadTrap c n = some cILLEGAL := by
  simp [sysReadTrap, sysAccOf, h]

/-- A register that no level may write, or that is not in the table. -/
theorem sysWriteTrap_nowhere {n : Nat} (h : sysAccess n = some (.ro, .ro) ∨ sysAccess n = none) (c : Ctx) (v : Word) :
    sysWriteTrap c n v = some cILLEGAL := by
  rcases h with h | h <;> simp [sysWriteTrap, sysAccOf, h]

/-- A register that a higher level may write. -/
theorem sysWriteTrap_userRo {c : Ctx} {n : Nat} {v : Word} (h : sysAccess n = some (.ro, .rw)) (hp : c.priv = .user) :
    sysWriteTrap c n v = some cPRIV := by
  simp [sysWriteTrap, sysAccOf, h, hp]

theorem sysWriteTrap_tl {c : Ctx} {v : Word} (hp : c.priv ≠ .user) (hv : 2 < v.toNat) : sysWriteTrap c 0x023 v = some cILLEGAL := by
  have h : sysAccOf c 0x023 = some .rw := by
    rw [sysAccOf, show sysAccess 0x023 = some (.ro, .rw) from rfl, Option.map_some, if_neg hp]
  simp only [sysWriteTrap, h, hv, and_self, if_true]

/-- The registers of the trap banks are out of reach at user level. -/
theorem sysAccess_banked {n : Nat} (h : (0x030 ≤ n ∧ n ≤ 0x034) ∨ (0x039 ≤ n ∧ n ≤ 0x03C)) : sysAccess n = some (.none, .rw) := by
  unfold sysAccess
  rw [if_neg (by omega), if_neg (by omega), if_neg (by omega), if_neg (by omega), if_pos h]

theorem sysReadTrap_banked {c : Ctx} {n : Nat} (hp : c.priv = .user) (h : (0x030 ≤ n ∧ n ≤ 0x034) ∨ (0x039 ≤ n ∧ n ≤ 0x03C)) :
    sysReadTrap c n = some cPRIV := by
  simp only [sysReadTrap, sysAccOf, sysAccess_banked h, Option.map_some, if_pos hp]

theorem sysWriteTrap_banked {c : Ctx} {n : Nat} {v : Word} (hp : c.priv = .user) (h : (0x030 ≤ n ∧ n ≤ 0x034) ∨ (0x039 ≤ n ∧ n ≤ 0x03C)) :
    sysWriteTrap c n v = some cPRIV := by
  simp only [sysWriteTrap, sysAccOf, sysAccess_banked h, Option.map_some, if_pos hp]

/-- The registers of the windows and of the measurement are read-only at every level. -/
theorem sysAccess_listed {n : Nat} (h : (0x060 ≤ n ∧ n ≤ 0x067) ∨ (0x078 ≤ n ∧ n ≤ 0x07F)) : sysAccess n = some (.ro, .ro) := by
  unfold sysAccess
  rw [if_neg (by omega), if_neg (by omega), if_neg (by omega), if_neg (by omega), if_neg (by omega), if_neg (by omega), if_neg (by omega),
    if_pos (by omega)]

theorem sysAccess_low {n : Nat} (h : n ≤ 0x012) : sysAccess n = some (.ro, .ro) ∨ sysAccess n = none := by
  interval_cases n <;> decide

theorem modCluster_rest (s : State) (cl : Nat) (f : Cluster → Cluster) : s.modCluster cl f = { s with clusters := (s.modCluster cl f).clusters } := by
  unfold State.modCluster
  split <;> rfl

theorem readGtime_snd (s : State) (cl : Nat) : (s.readGtime cl).2 =
    State.modCluster { s with freeCtr := s.freeCtr + 1 } cl fun k => { k with gLast := (s.readGtime cl).1 } := rfl

/-- A reading of a cluster's copy of GTIME is a stamp of it, and draws a free value. -/
theorem readGtime_eq (s : State) (cl : Nat) : ∃ g k, Stamp s cl g ∧ s.readGtime cl = (g, { s with freeCtr := s.freeCtr + 1, clusters := k }) := by
  refine ⟨max (s.cluster cl).gLast (s.gtime + (Config.free s.freeCtr).toNat % 5 - 2), (s.readGtime cl).2.clusters, ?_, Prod.ext rfl ?_⟩
  · unfold Stamp
    omega
  · rw [readGtime_snd]
    exact modCluster_rest _ _ _

/-! ### `rdsys` -/

section
variable {s : State} {c : Ctx} (hc : s.findCtx s.cur = some c) (ha : c.grp = none)
include hc ha

theorem grp_cur : (s.ctx s.cur).grp = none := by rw [ctx_of_find hc]; exact ha

theorem rdsys_reads {r : BitVec 12} {a b : SysAcc} {v : Word} (sm : Bool) (d : Reg) (hr : r.toNat ≠ 0x010) (hacc : sysAccess r.toNat = some (a, b))
    (hu : c.priv = .user → a ≠ .none) (hb : b ≠ .none) (hv : ∀ f, s.sysVal s.cur r.toNat f 0 = v) :
    Runs (.rdsys sm d r) s fun t => ∃ f, Owes (oneLate s d v none) sm (c.pc + 4) { s with freeCtr := f } t := by
  have hg := grp_cur hc ha
  have hok : sysReadTrap (s.ctx s.cur) r.toNat = none := by rw [ctx_of_find hc]; exact sysReadTrap_none hacc hu hb
  have hs : exec (.rdsys sm d r) s = .next (State.retire { s with freeCtr := s.freeCtr + 1, longs := s.longs ++ oneLate s d v none } sm) := by
    refine (onCtx_some hc _).trans ?_
    simp only [lanes_alone (groupOf_alone hg), State.freshFree, if_neg hr, hok, List.filter_cons, List.filter_nil, Option.isNone_none, if_true,
      List.map_cons, List.map_nil, List.all_cons, List.all_nil, Bool.and_true]
    have := addLongs_alone (s := { s with freeCtr := s.freeCtr + 1 }) hg d v
    rw [← hv (Config.free s.freeCtr)] at this ⊢
    exact congrArg (fun u => Host.Outcome.next (State.retire u sm)) this
  refine ⟨_, hs, s.freeCtr + 1, ?_⟩
  rw [← ctx_of_find hc]
  exact owes_advance { s with freeCtr := s.freeCtr + 1 } _ sm _

theorem rdsys_gtime (sm : Bool) (d : Reg) : Runs (.rdsys sm d 0x010) s fun t => ∃ f g k, Stamp s s.cur.cl g ∧
    Owes (oneLate s d (BitVec.ofNat 64 g) none) sm (c.pc + 4) { s with freeCtr := f, clusters := k } t := by
  have hg := grp_cur hc ha
  obtain ⟨g, k, hst, hk⟩ := readGtime_eq { s with freeCtr := s.freeCtr + 1 } s.cur.cl
  have hok : sysReadTrap (s.ctx s.cur) 0x010 = none := sysReadTrap_none (a := .ro) (b := .ro) rfl nofun nofun
  have hs : exec (.rdsys sm d 0x010) s =
      .next (State.retire { s with freeCtr := s.freeCtr + 1 + 1, clusters := k, longs := s.longs ++ oneLate s d (BitVec.ofNat 64 g) none } sm) := by
    refine (onCtx_some hc _).trans ?_
    simp only [lanes_alone (groupOf_alone hg), State.freshFree, show (0x010 : BitVec 12).toNat = 0x010 from rfl, if_true, hk, hok, List.filter_cons,
      List.filter_nil, Option.isNone_none, List.map_cons, List.map_nil, List.all_cons, List.all_nil, Bool.and_true]
    exact congrArg (fun u => Host.Outcome.next (State.retire u sm))
      (addLongs_alone (s := { s with freeCtr := s.freeCtr + 1 + 1, clusters := k }) hg d (BitVec.ofNat 64 g))
  refine ⟨_, hs, s.freeCtr + 1 + 1, g, k, hst, ?_⟩
  rw [← ctx_of_find hc]
  exact owes_advance { s with freeCtr := s.freeCtr + 1 + 1, clusters := k } _ sm _

omit hc ha in
theorem rdsys_traps {r : BitVec 12} {cause : Nat} (sm : Bool) (d : Reg) (hr : r.toNat ≠ 0x010) (h : sysReadTrap (s.ctx s.cur) r.toNat = some cause) :
    Traps (.rdsys sm d r) cause s := by
  intro ht
  obtain ⟨c, hc⟩ := Option.isSome_iff_exists.mp ht.here
  have h' : Trappable { s with freeCtr := s.freeCtr + 1 } s.cur := ⟨ht.here, ht.alone, ht.booted, ht.level, ht.clean, ht.answered⟩
  obtain ⟨v, hv⟩ := tookTrap_causeHits (s := { s with freeCtr := s.freeCtr + 1 }) h' (bad := fun i => sysReadTrap (s.ctx i) r.toNat) h sm
  refine ⟨_, (onCtx_some hc _).trans ?_, v, hv.of_free⟩
  simp only [lanes_alone (groupOf_alone ht.alone), State.freshFree, if_neg hr, h, List.filter_cons, List.filter_nil, Option.isNone_some,
    Bool.false_eq_true, if_false, List.map_nil, List.all_cons, Bool.false_and, addLongs_nil]

/-! ### `wrsys` -/

theorem wrsys_writes {r : BitVec 12} {a : Reg} {f : Ctx → Ctx} {x y : SysAcc} (sm : Bool) (hacc : sysAccess r.toNat = some (x, y))
    (hu : c.priv = .user → x = .rw ∨ x = .w1c) (hb : y = .rw ∨ y = .w1c) (hn : r.toNat = 0x023 → (s.rg s.cur a).toNat ≤ 2)
    (hput : s.sysPut s.cur r.toNat (s.rg s.cur a) = s.modCtx s.cur f) (hid : ∀ c, (f c).id = c.id) (hpc : ∀ c, (f c).pc = c.pc) :
    Runs (.wrsys sm a r) s fun t => t = { s with ctxs := t.ctxs } ∧ t.cur = s.cur ∧
      ∀ id, t.findCtx id = (s.findCtx id).map fun o => if id = s.cur then wentOn sm (c.pc + 4) t (f o) else o := by
  have hg := grp_cur hc ha
  have hok : sysWriteTrap (s.ctx s.cur) r.toNat (s.rg s.cur a) = none := by rw [ctx_of_find hc]; exact sysWriteTrap_none hacc hu hb hn
  have hs : exec (.wrsys sm a r) s = .next ((s.modCtx s.cur f).advance sm (c.pc + 4)) := by
    have hpc' : ((s.modCtx s.cur f).ctx s.cur).pc = c.pc := by rw [ctx_modCtx_self hc hid, hpc]
    refine (onCtx_some hc _).trans ?_
    simp only [lanes_alone (groupOf_alone hg), hok, List.filter_cons, List.filter_nil, Option.isNone_none, if_true, List.foldl_cons, List.foldl_nil,
      List.all_cons, List.all_nil, Bool.and_true, hput, ← hpc']
    rfl
  refine ⟨_, hs, rfl, rfl, fun id => ?_⟩
  rw [findCtx_advance, findCtx_modCtx s s.cur id hid, show (s.modCtx s.cur f).cur = s.cur from rfl]
  by_cases h : id = s.cur
  · simp only [h, if_true, Option.map_map, Function.comp_def]
  · simp only [h, if_false]

omit hc ha in
theorem wrsys_traps {r : BitVec 12} {a : Reg} {cause : Nat} (sm : Bool) (h : sysWriteTrap (s.ctx s.cur) r.toNat (s.rg s.cur a) = some cause) :
    Traps (.wrsys sm a r) cause s := by
  intro ht
  obtain ⟨c, hc⟩ := Option.isSome_iff_exists.mp ht.here
  obtain ⟨v, hv⟩ := tookTrap_causeHits ht (bad := fun i => sysWriteTrap (s.ctx i) r.toNat (s.rg i a)) h sm
  refine ⟨_, (onCtx_some hc _).trans ?_, v, hv⟩
  simp only [lanes_alone (groupOf_alone ht.alone), h, List.filter_cons, List.filter_nil, Option.isNone_some, Bool.false_eq_true, if_false,
    List.foldl_nil, List.all_cons, Bool.false_and]

/-! ### `wcfg` -/

omit hc ha in
/-- The team that a context belongs to is found under its own numbers. -/
theorem team_of_teamOf {m : Team} {id : CtxId} (h : s.teamOf id = some m) : s.team m.cl m.num = some m := by
  unfold State.teamOf at h
  split at h
  · have hm := List.find?_some h
    simp only [decide_eq_true_eq] at hm
    rw [hm.1, hm.2]; exact h
  · cases h

omit hc ha in
theorem team_modTeam {cl num : Nat} {m : Team} (h : s.team cl num = some m) (f : Team → Team) (hcl : ∀ t, (f t).cl = t.cl) (hnum : ∀ t, (f t).num = t.num) :
    (s.modTeam cl num f).team cl num = some (f m) := by
  have hm := List.find?_some h
  simp only [decide_eq_true_eq] at hm
  unfold State.team at h ⊢
  have e : (fun t : Team => decide (t.cl = cl ∧ t.num = num)) ∘ (fun t : Team => if t.cl = cl ∧ t.num = num then f t else t) =
      fun t => decide (t.cl = cl ∧ t.num = num) := by
    funext t
    simp only [Function.comp]
    split
    · rw [hcl, hnum]
    · rfl
  simp only [State.modTeam, List.find?_map, e, h, Option.map_some, if_pos hm]

theorem wcfg_writes {m : Team} (sm : Bool) (k : Fin 8) (a : Reg) (hm : s.teamOf s.cur = some m) :
    Runs (.wcfg sm k a) s fun t => Moved sm (c.pc + 4) s t ∧ t = { s with ctxs := t.ctxs, teams := t.teams } ∧
      t.team m.cl m.num = some { m with wds := m.wds.mapIdx fun i w => if i = k.val then s.rg s.cur a &&& 0x003FFFFFFFFFFFFF else w } := by
  have hs : exec (.wcfg sm k a) s = .next (State.retire (s.modTeam m.cl m.num fun t =>
      { t with wds := t.wds.mapIdx fun i w => if i = k.val then s.rg s.cur a &&& 0x003FFFFFFFFFFFFF else w }) sm) := by
    refine (onCtx_some hc _).trans ?_
    simp only [hm, lowest_alone (groupOf_alone (grp_cur hc ha))]
  refine ⟨_, hs, ?_, rfl, team_modTeam (team_of_teamOf hm) _ (fun _ => rfl) fun _ => rfl⟩
  rw [← ctx_of_find hc]
  exact ⟨rfl, findCtx_advance (s.modTeam m.cl m.num _) sm _⟩

omit hc ha in
theorem wcfg_traps (sm : Bool) (k : Fin 8) (a : Reg) (h : s.teamOf s.cur = none) : Traps (.wcfg sm k a) cILLEGAL s :=
  traps_of fun _ hc => (onCtx_some hc _).trans (by simp only [h])

end

/-! ### The values of the registers for a context that runs alone (R182) -/

section
variable {s : State} (ha : (s.ctx s.cur).grp = none) (f : Word) (t : Nat)
include ha

theorem sysVal_width : s.sysVal s.cur 0x001 f t = 1 := by
  show BitVec.ofNat 64 (2 ^ s.wlog s.cur) = 1
  rw [State.wlog, groupOf_alone ha]; rfl

theorem sysVal_mask : s.sysVal s.cur 0x008 f t = (BitVec.ofNat 16 (2 ^ (s.ctx s.cur).lane)).setWidth 64 := by
  show (s.lmOf s.cur).setWidth 64 = _
  rw [State.lmOf, groupOf_alone ha]; rfl

theorem sysVal_arrived : s.sysVal s.cur 0x050 f t = (s.ctx s.cur).arrived := by
  show (s.ctx (s.leader s.cur)).arrived = _
  rw [leader_alone ha]

theorem sysVal_errtags : s.sysVal s.cur 0x051 f t = (s.ctx s.cur).errtags := by
  show (s.ctx (s.leader s.cur)).errtags = _
  rw [leader_alone ha]

theorem sysVal_ocnt : s.sysVal s.cur 0x052 f t = BitVec.ofNat 64 (s.count s.cur .occ % 2 ^ 16 + 2 ^ 16 * (s.count s.cur .ocm % 2 ^ 16) +
    2 ^ 32 * (s.count s.cur .ocg % 2 ^ 16) + 2 ^ 48 * (s.count s.cur .ocl % 2 ^ 16)) := by
  show s.ocnt (s.leader s.cur) = _
  rw [leader_alone ha, State.ocnt]
  congr 1
  omega

end

/-- The registers of the team read what the team holds. -/
theorem sysVal_team {s : State} {m : Team} (hm : s.teamOf s.cur = some m) (f : Word) (t : Nat) :
    s.sysVal s.cur 0x005 f t = BitVec.ofNat 64 m.num ∧ s.sysVal s.cur 0x006 f t = BitVec.ofNat 64 m.trank ∧
      s.sysVal s.cur 0x007 f t = BitVec.ofNat 64 m.gsize := by
  simp only [State.sysVal, hm, and_self]

theorem sysVal_window {s : State} {m : Team} (hm : s.teamOf s.cur = some m) (f : Word) (t : Nat) {i : Nat} (hi : i < 8) :
    s.sysVal s.cur (0x060 + i) f t = (m.wds[i]?).getD 0 := by
  interval_cases i <;> simp only [State.sysVal, hm] <;> rfl

theorem sysVal_measured (s : State) (f : Word) (t : Nat) {i : Nat} (hi : i < 8) : s.sysVal s.cur (0x078 + i) f t = (s.meas[i]?).getD 0 := by
  interval_cases i <;> rfl

/-- The 12-bit number of a register in one of the two ranges of eight. -/
theorem toNat_regNum {b i : Nat} (hb : b ≤ 0x078) (hi : i < 8) : (BitVec.ofNat 12 (b + i)).toNat = b + i := by
  rw [BitVec.toNat_ofNat]
  omega

/-- Settles O24: each register by its access and its value, in the order of R182; a trap where the access is not the level's. -/
theorem systemRegisters : Obligations.SystemRegisters := by
  refine ⟨fun s c sm d r hc ha => ?_, fun s c sm a r k hc ha => ?_⟩
  · have hg : (s.ctx s.cur).grp = none := grp_cur hc ha
    obtain rfl : s.ctx s.cur = c := ctx_of_find hc
    refine ⟨?_, fun m hm => ?_, fun hp => ?_, rdsys_gtime hc ha sm d, fun hp h => ?_, fun h => ?_⟩
    · refine ⟨?_, ?_, ?_, ?_, ?_, ?_, ?_, ?_, ?_, ?_, ?_, ?_, ?_, ?_, ?_, ?_, ?_, ?_, ?_, ?_, ?_, ?_, fun i hi => ?_⟩
      on_goal 23 =>
        have hn := toNat_regNum (b := 0x078) (by omega) hi
        exact rdsys_reads hc ha sm d (by omega) (sysAccess_listed (by omega)) nofun nofun fun f => by rw [hn]; exact sysVal_measured s f 0 hi
      all_goals refine rdsys_reads hc ha sm d (by decide) rfl nofun nofun fun f => ?_
      exacts [rfl, sysVal_width hg f 0, rfl, rfl, rfl, sysVal_mask hg f 0, rfl, rfl, rfl, rfl, rfl, rfl, rfl, rfl, rfl, rfl, rfl, rfl,
        sysVal_arrived hg f 0, sysVal_errtags hg f 0, sysVal_ocnt hg f 0, rfl]
    · refine ⟨?_, ?_, ?_, fun i hi => ?_⟩
      on_goal 4 =>
        have hn := toNat_regNum (b := 0x060) (by omega) hi
        exact rdsys_reads hc ha sm d (by omega) (sysAccess_listed (by omega)) nofun nofun fun f => by rw [hn]; exact sysVal_window hm f 0 hi
      all_goals refine rdsys_reads hc ha sm d (by decide) rfl nofun nofun fun f => ?_
      all_goals obtain ⟨hnum, hrank, hsize⟩ := sysVal_team hm f 0
      exacts [hnum, hrank, hsize]
    · refine ⟨?_, ?_, ?_, ?_, ?_, ?_, ?_, ?_, ?_⟩
      all_goals exact rdsys_reads hc ha sm d (by decide) rfl (fun h => absurd h hp) nofun fun f => rfl
    · exact rdsys_traps sm d (by omega) (sysReadTrap_banked hp h)
    · refine rdsys_traps sm d (fun hr => ?_) (sysReadTrap_unlisted h _)
      rw [hr] at h
      exact absurd h (by decide)
  · have hg : (s.ctx s.cur).grp = none := grp_cur hc ha
    obtain rfl : s.ctx s.cur = c := ctx_of_find hc
    refine ⟨?_, fun hp => ⟨?_, fun hv => ?_, ?_⟩, fun hp hv => ?_, fun hp => ⟨?_, ?_, ?_⟩, fun h => ?_, fun m hm => wcfg_writes hc ha sm k a hm,
      wcfg_traps sm k a⟩
    · refine ⟨?_, ?_, ?_, ?_, ?_, ?_, ?_, ?_⟩
      all_goals refine wrsys_writes hc ha sm rfl (fun _ => by decide) (by decide) (fun h => absurd h (by decide)) ?_ (fun _ => rfl) fun _ => rfl
      on_goal 8 => rw [State.sysPut, if_pos (by rfl), leader_alone hg]
      all_goals rfl
    · exact wrsys_writes hc ha sm rfl (fun h => absurd h hp) (by decide) (fun h => absurd h (by decide)) rfl (fun _ => rfl) fun _ => rfl
    · exact wrsys_writes hc ha sm rfl (fun h => absurd h hp) (by decide) (fun _ => hv) rfl (fun _ => rfl) fun _ => rfl
    · refine ⟨?_, ?_, ?_, ?_, ?_, ?_, ?_, ?_, ?_⟩
      all_goals exact wrsys_writes hc ha sm rfl (fun h => absurd h hp) (by decide) (fun h => absurd h (by decide)) rfl (fun _ => rfl) fun _ => rfl
    · exact wrsys_traps sm (sysWriteTrap_tl hp hv)
    · exact wrsys_traps sm (sysWriteTrap_userRo rfl hp)
    · exact wrsys_traps sm (sysWriteTrap_userRo rfl hp)
    · exact wrsys_traps sm (sysWriteTrap_banked hp (by decide))
    · exact wrsys_traps sm (sysWriteTrap_nowhere (h.elim sysAccess_low .inr) _ _)

end Sys2Proof.Machine
end

section
/-! Traps and returns (O25): a state that its clause of SYSCALL_DIVERGENT admits and should not. -/
namespace Sys2Proof.Machine

/-- Slot C0 of pipe k of cluster 0. -/
def slotOf (k : Nat) : CtxId := ⟨0, k, 0⟩

/-- A group of lanes 0 to 2, of which lanes 0 and 1 are active. -/
def strayGroup : Group := { cl := 0, base := 0, slot := 0, width := 3, members := 7, lm := 3 }

/-- The lane that is not active. -/
def idleLane : Ctx := { id := slotOf 2, grp := some 0 }

/-- Lane 1 is active in `strayGroup`, but its context names the group of lane 2, and lane 2 waits for a long result in g5. -/
def strayLane : State :=
  { State.reset with
    ctxs := [{ id := slotOf 0, grp := some 0 }, { id := slotOf 1, grp := some 2 }, idleLane]
    groups := [strayGroup]
    longs := [{ dst := slotOf 2, dest := .g 5, val := 1 }]
    boot := { State.reset.boot with mode := false } }

theorem strayLane_clean : CleanTraps strayLane where
  booted := rfl
  level := by simp [strayLane, idleLane]
  poison := by simp [strayLane, idleLane]
  longs := by simp [strayLane]
  packets := by simp [strayLane, State.reset]

/-- g5 of the idle lane. -/
def idleG5 (t : State) : Option Word := (t.findCtx (slotOf 2)).map fun n => n.g.get 5

/-- Lane 1's trap flushes what its leader, lane 2, has outstanding. -/
theorem ecall_strayLane_writes_idle {t : State} (ht : exec (.ecall false) strayLane = .next t) : idleG5 t = some 1 := by
  have run : (match exec (.ecall false) strayLane with | .next t => decide (idleG5 t = some 1) | _ => false) = true := by decide
  rw [ht] at run
  exact of_decide_eq_true run

/-- Refutes O25: nothing in its clause of SYSCALL_DIVERGENT makes the context of an active lane a member of the group. In `strayLane` the trap of such a lane
takes another lane, that is not active, for its leader, and writes that lane's outstanding result; the split of R46 leaves the lane its registers. -/
theorem not_trapsAndReturns : ¬ Obligations.TrapsAndReturns := by
  unfold Obligations.TrapsAndReturns
  intro h
  obtain ⟨hExceptions, -⟩ := h
  obtain ⟨-, -, -, -, hGroup, -⟩ := hExceptions strayLane false (by decide)
  obtain ⟨t, ht, hSplit⟩ := hGroup strayGroup rfl (.inl (by decide)) strayLane_clean
  obtain ⟨n, hn, -, -, hLane⟩ := hSplit 2 idleLane (by decide) (by decide) (by decide) rfl rfl
  rw [if_neg (by decide)] at hLane
  obtain ⟨-, -, hRegs, -⟩ := hLane
  have kept : n.g.get 5 = 0 := (hRegs 5).trans (by decide)
  have hIdle : t.findCtx (slotOf 2) = some n := hn
  have unwritten : idleG5 t = some 0 := by simp [idleG5, hIdle, kept]
  rw [ecall_strayLane_writes_idle ht] at unwritten
  exact absurd unwritten (by decide)

end Sys2Proof.Machine
end

section
/-! The fixed registers (O1). -/
namespace Sys2Proof.Machine

@[simp] theorem rg_zero (s : State) (l : CtxId) : s.rg l 0 = 0 := if_pos rfl

@[simp] theorem wg_zero (s : State) (l : CtxId) (v : Word) : s.wg l 0 v = s := if_pos rfl

@[simp] theorem rp_zero (s : State) (l : CtxId) : s.rp l 0 = true := by simp [State.rp]

@[simp] theorem wp_zero (s : State) (l : CtxId) (b : Bool) : s.wp l 0 b = s := if_pos rfl

/-- Settles O1, by the four laws of g0 and p0. -/
theorem fixedRegisters : Obligations.FixedRegisters :=
  fun s l v b => ⟨rg_zero s l, rp_zero s l, wg_zero s l v, wp_zero s l b⟩

end Sys2Proof.Machine
end

section
/-! Who moves next (O55): a change of step for PLACE that waits for its voltage does not keep the contexts of its cluster from issuing. -/
namespace Sys2Proof.Machine

/-! ### Units that have nothing to do -/

theorem head_of_no_vector {k : Cluster} (h : k.vq = []) (p : Nat) : k.head p = none := by simp [Cluster.head, h]

theorem sfuEnter_of_no_vector {k : Cluster} (h : k.vq = []) : sfuEnter k = k :=
  List.foldl_fixed' (fun p => by simp only [head_of_no_vector h]) _

theorem gsEnter_of_idle {s : State} {k : Cluster} (hv : k.vq = []) (hg : k.gsq = []) (hc : s.copies = []) : s.gsEnter k = k := by
  have hh : (List.range 16).filterMap (fun p => (k.head p).bind fun v => if v.op = 0x1A ∨ v.op = 0x1B then v.oc else none) = [] := by
    simp [head_of_no_vector hv]
  simp [State.gsEnter, hh, hg, hc]

theorem replace_of_no_line {s : State} (h : s.l1 = []) : s.replace = { s with freeCtr := s.freeCtr + 1 } := by
  simp [State.replace, State.freshFree, h]

/-- Nothing of an unfrozen cluster may happen whose queues are empty. -/
theorem mayCluster_of_idle {s : State} {k : Cluster} (f : Nat) (hz : s.frozen k.id = false) (hv : k.vq = []) (hs : k.sfuq = []) (ho : k.sfuOut = [])
    (hq : ∀ q, (s.quad k.id q).queue = []) (hc : s.compiles = []) : s.mayCluster f k = [] := by
  have hn : k.nextPipe = none := by simp [Cluster.nextPipe, Cluster.waits, head_of_no_vector hv]
  have hm : s.mayMatrix f k = [] := by simp [State.mayMatrix, State.mayQuad, hq, hc]
  simp [State.mayCluster, hz, hn, hm, State.mayHead, head_of_no_vector hv, State.maySfu, hs, ho]

/-! ### A package whose only context may issue -/

/-- The context of cluster 0. -/
def readyCtx : Ctx := { id := ⟨0, 0, 0⟩ }

/-- Its cluster: the change to step 5 for PLACE (R438) waits for its voltage (R437). Its timestamps tick after more than e nanoseconds. -/
def waitingStep (e : Nat) : Cluster := { id := 0, released := true, active := true, ticks := e, change := some (5, 2, none) }

/-- A started package of that cluster alone, at GTIME g, with n free values drawn. Nobody moves, and nothing falls due up to GTIME e. -/
def stepPending (e g n : Nat) : State :=
  { State.reset with
    next := .idle, freeCtr := n, gtime := g, ctxs := [readyCtx], clusters := [waitingStep e], tickAt := e + 1
    boot := { State.reset.boot with phase := 9, inReset := false } }

section
variable (e g n : Nat)

theorem stepPending_settle : (stepPending e g n).settle = stepPending e g n := by
  have hf : (stepPending e g n).endFuses.endRuns = stepPending e g n := rfl
  have hk : (stepPending e g n).clusters.map (fun k =>
      if (stepPending e g n).frozen k.id then k else (stepPending e g n).gsEnter (sfuEnter k)) = [waitingStep e] := by
    show [ite _ _ ((stepPending e g n).gsEnter (sfuEnter (waitingStep e)))] = _
    rw [sfuEnter_of_no_vector rfl, gsEnter_of_idle rfl rfl rfl, ite_self]
  unfold State.settle
  simp only [show (stepPending e g n).next = .idle from rfl, hf]
  exact congrArg (fun l => { stepPending e g n with clusters := l }) hk

theorem stepPending_activity : (stepPending e g n).activity = stepPending e g n := rfl

theorem stepPending_domainsUsed : (stepPending e g n).domainsUsed = [0] := by
  simp [State.domainsUsed, stepPending, waitingStep, domainOf, clX, clY, List.eraseDups_cons]

theorem stepPending_admissible : (stepPending e g n).admissible 0 = [] := by simp [State.admissible, stepPending, waitingStep]

/-- What falls due in it: the control tick, and the tick of its cluster's timestamps. -/
theorem stepPending_dues : (stepPending e g n).dues =
    [(e + 1, .controlTick, noSub), ((stepPending e g n).timeOf 0 ((e + 1) * 1024), .ptsTick, subCl 0)] := by
  have hslot : (stepPending e g n).domainsUsed.filterMap (stepPending e g n).dueSlot = [] := by
    simp [stepPending_domainsUsed, State.dueSlot, stepPending_admissible]
  rw [State.dues, show (stepPending e g n).dueBoot = [] from rfl, show (stepPending e g n).dueRest = [] from rfl, State.dueClocks, hslot]
  rfl

variable {e g} in
/-- The tick of the timestamps falls due after e. -/
theorem stepPending_timeOf (h : g ≤ e) : e < (stepPending e g n).timeOf 0 ((e + 1) * 1024) := by
  have hcycle : (stepPending e g n).cycle 0 = 0 + (g - 0) * 144 / (5 * (16 + 0)) := rfl
  have hstep : ((stepPending e g n).cluster 0).step = 0 := rfl
  have hgtime : (stepPending e g n).gtime = g := rfl
  simp only [State.timeOf, hcycle, hstep, hgtime]
  split <;> omega

/-- Time passes up to the GTIME e, where that is what the move takes. -/
theorem stepPending_passTime (h : Config.elapsed n = e) : (stepPending e 0 n).passTime = stepPending e e (n + 1) := by
  have hasked : ((stepPending e 0 n).domainsUsed.any fun m => (stepPending e 0 n).slotOpen m && !((stepPending e 0 n).admissible m).isEmpty) = false := by
    simp [stepPending_domainsUsed, stepPending_admissible]
  have ht := stepPending_timeOf n (Nat.zero_le e)
  simp only [State.passTime, hasked, stepPending_dues, List.foldl_cons, List.foldl_nil, Bool.false_eq_true, and_false, if_false,
    show (stepPending e 0 n).gtime = 0 from rfl, show (stepPending e 0 n).sealed = none from rfl, show (stepPending e 0 n).freeCtr = n from rfl, h]
  have hmin : min (min (0 + max e (if decide ((none : Option Nat) = some 0) = true then 1 else 0)) (max 0 (e + 1)))
      (max 0 ((stepPending e 0 n).timeOf 0 ((e + 1) * 1024))) = e := by
    simp; omega
  rw [hmin]
  rfl

theorem stepPending_mayHappen (f : Nat) : (stepPending e g n).mayHappen f = [] := by
  have hcluster : (stepPending e g n).clusters.flatMap ((stepPending e g n).mayCluster f) = [] := by
    have hq : ∀ q, ((stepPending e g n).quad 0 q).queue = [] := fun q => by
      match q with
      | 0 | 1 | 2 | 3 | _ + 4 => rfl
    show [waitingStep e].flatMap _ = []
    rw [List.flatMap_singleton, mayCluster_of_idle f rfl rfl rfl rfl hq rfl]
  rw [State.mayHappen, hcluster]
  rfl

/-- Up to the GTIME e only its context may move. -/
theorem stepPending_movers (f : Nat) : (stepPending e e n).movers f = [.ctx readyCtx.id] := by
  have hdue : ((stepPending e e n).dues.filter fun d => decide (d.1 ≤ (stepPending e e n).gtime)) = [] := by
    have ht := stepPending_timeOf n (Nat.le_refl e)
    simp [stepPending_dues, show (stepPending e e n).gtime = e from rfl, ht]
  rw [State.movers, hdue, stepPending_mayHappen]
  rfl

theorem pickActor_singleton (a : Actor) (n : Nat) : pickActor [a] n = a := by simp [pickActor, Nat.mod_one]

theorem stepPending_choose : (stepPending e e n).choose = { stepPending e e (n + 2) with next := .ctx readyCtx.id } := by
  rw [State.choose, stepPending_movers, pickActor_singleton]
  rfl

end

/-- Refutes O55: R438 lets a team that PLACE has placed issue only after the change of step, and NextOk says so; in the model such a change keeps no context
from issuing while it waits for its voltage, before its pause begins. A step of `stepPending` picks the context of such a cluster. -/
theorem not_stepsKeepNext : ¬ Obligations.StepsKeepNext := by
  unfold Obligations.StepsKeepNext
  intro h
  have hreplace : (stepPending (Config.elapsed 1) 0 0).replace = stepPending (Config.elapsed 1) 0 1 := replace_of_no_line rfl
  have hfinish : (stepPending (Config.elapsed 1) 0 0).finish = { stepPending (Config.elapsed 1) (Config.elapsed 1) 4 with next := .ctx readyCtx.id } := by
    rw [State.finish, stepPending_settle, stepPending_activity, hreplace, stepPending_passTime _ _ rfl, stepPending_choose]
  have hok := h (stepPending (Config.elapsed 1) 0 0) _ rfl
  rw [hfinish] at hok
  obtain ⟨_, _, _, _, _, _, _, _, _, hchange, _⟩ := hok readyCtx.id rfl
  exact hchange (5, 2, none) rfl rfl

end Sys2Proof.Machine
end

section
/-! Vector blocks (O34): `vb.acq`, `vb.acq.try` and `vb.rel` of a context that runs alone. -/
namespace Sys2Proof.Machine

/-! ### Filling a range of a memory, in canonical form or not -/

theorem kvRead_unlisted {α : Type} {z : α} {a : Nat} : ∀ {m : List (Nat × α)}, (∀ p ∈ m, p.1 ≠ a) → kvRead z m a = z
  | [], _ => rfl
  | p :: r, h => by
    rw [kvRead, if_neg (h p (by simp))]
    exact kvRead_unlisted fun q hq => h q (by simp [hq])

theorem kvRead_filter_append {α : Type} {z : α} {a : Nat} {f : Nat × α → Bool} {r : List (Nat × α)} (hf : ∀ v, f (a, v) = true) (hr : ∀ p ∈ r, p.1 ≠ a) :
    ∀ m : List (Nat × α), kvRead z (m.filter f ++ r) a = kvRead z m a
  | [] => kvRead_unlisted hr
  | (k, v) :: m => by
    have ih := kvRead_filter_append (z := z) hf hr m
    by_cases hk : k = a
    · subst hk
      simp [hf, kvRead]
    · rw [List.filter_cons, kvRead, if_neg hk, ← ih]
      split
      · rw [List.cons_append, kvRead, if_neg hk]
      · rfl

/-- A byte below the range reads as before. -/
theorem Memory.read_fill_below {a lo : Nat} (h : a < lo) (m : List Host.Cell) (n : Nat) (f : Nat → Byte) :
    Memory.read (Memory.fill m lo n f) a = Memory.read m a := by
  unfold Memory.read Memory.fill
  rw [List.append_assoc]
  refine kvRead_filter_append (by simpa using h) (fun p hp => ?_) m
  rcases List.mem_append.mp hp with hp | hp
  · obtain ⟨i, -, hi⟩ := List.mem_filterMap.mp hp
    split at hi
    · cases hi
    · cases hi; simp only; omega
  · have := (List.mem_filter.mp hp).2
    simp only [decide_eq_true_eq] at this
    omega

/-! ### Results of a context that runs alone -/

/-- Results that are owed one after the other. -/
theorem Owes.append {first later : List Long} {sm : Bool} {pc : Word} {s t : State} (h : Owes later sm pc { s with longs := s.longs ++ first } t) :
    Owes (first ++ later) sm pc s t :=
  ⟨by rw [h.rest, List.append_assoc], h.moved.cur, h.moved.ctxs⟩

/-- The agent after an instruction that owes results: its context has gone on. -/
theorem Owes.ctx {late : List Long} {sm : Bool} {pc : Word} {s t : State} {c : Ctx} (h : Owes late sm pc s t) (hc : s.findCtx s.cur = some c) :
    t.ctx s.cur = wentOn sm pc t c :=
  ctx_of_find (by rw [h.moved.ctxs, hc, Option.map_some, if_pos rfl])

section
variable {s : State} (ha : (s.ctx s.cur).grp = none)
include ha

theorem owes_longOnce_alone (sm : Bool) (d : Reg) (v : Word) : Owes (oneLate s d v none) sm ((s.ctx s.cur).pc + 4) s (s.longOnce sm d v) := by
  have h := owes_longR s sm d fun _ => v
  rwa [lateOf_alone ha] at h

theorem owes_tryDone_alone (sm : Bool) (d : Reg) {q : PReg} (hq : q ≠ 0) (ok : Bool) :
    Owes ({ dst := s.cur, dest := .p q, val := if ok then 1 else 0 } :: oneLate s d (BitVec.ofNat 64 (s.ctx s.cur).vblocks) none) sm
      ((s.ctx s.cur).pc + 4) s (s.tryDone sm d q ok) := by
  have hp : s.addLongPs q ((s.lanes s.cur).map fun i => (i, ok)) =
      { s with longs := s.longs ++ [{ dst := s.cur, dest := .p q, val := if ok then 1 else 0 }] } := by
    simp [State.addLongPs, hq, lanes_alone (groupOf_alone ha)]
  rw [State.tryDone, hp]
  exact Owes.append (first := [_]) (owes_longOnce_alone (s := { s with longs := s.longs ++ [_] }) ha sm d _)

theorem blockCount_alone (a : Reg) : s.blockCount a = (s.rg s.cur a).toNat % 512 := by
  simp [State.blockCount, lowest_alone (groupOf_alone ha), wfld, fld]

end

/-! ### A trap behind a wait for blocks -/

theorem writeLongs_ctxs : ∀ (ls : List Long) {s t : State}, t.ctxs = s.ctxs → (ls.foldl State.writeLong t).ctxs = (ls.foldl State.writeLong s).ctxs
  | [], _, _, h => h
  | l :: r, s, t, h => writeLongs_ctxs r (by
      unfold State.writeLong State.wp State.modCtx
      split <;> split <;> simp [h])

/-- What writing outstanding results leaves of the contexts does not depend on the teams. -/
theorem flushLongs_ctxs (s : State) (ts : List Team) (id : CtxId) : (State.flushLongs { s with teams := ts } id).ctxs = (s.flushLongs id).ctxs :=
  writeLongs_ctxs _ rfl

/-- Leaving a wait twice is leaving it once. -/
theorem leaveBlocks_leaveBlocks (s : State) (id : CtxId) : (s.leaveBlocks id).leaveBlocks id = s.leaveBlocks id := by
  have hteam : ((s.leaveBlocks id).ctx id).team = (s.ctx id).team := by rw [leaveBlocks_rest]; rfl
  rw [leaveBlocks_rest (s.leaveBlocks id)]
  unfold State.leaveBlocks State.modTeamOf at hteam ⊢
  rw [hteam]
  cases (s.ctx id).team with
  | none => rfl
  | some n =>
    simp only [State.modTeam, List.map_map]
    congr 1
    apply List.map_congr_left
    intro t _
    simp only [Function.comp]
    split <;> simp_all

/-- A trap taken where the context has just left its wait for blocks is the trap that it would have taken before. -/
theorem TookTrap.of_leaveBlocks {id : CtxId} {cause status : Nat} {val pc : Word} {s t : State}
    (h : TookTrap id cause status val pc (s.leaveBlocks id) t) : TookTrap id cause status val pc s t := by
  have hwaits := h.waits
  rw [leaveBlocks_leaveBlocks] at hwaits
  rw [leaveBlocks_rest] at h
  have hflush : (State.flushLongs { s with teams := (s.leaveBlocks id).teams } id).ctx id = (s.flushLongs id).ctx id := by
    simp only [State.ctx, State.findCtx, flushLongs_ctxs]
  refine ⟨h.tl, h.epc, h.ecause, h.eval, h.estat, h.bank, h.priv, h.pc, h.ready, ?_, h.kept, h.others, hwaits, h.rest⟩
  rw [← hflush]
  exact h.regs

theorem Trappable.leaveBlocks {s : State} {id : CtxId} (h : Trappable s id) (j : CtxId) : Trappable (s.leaveBlocks j) id := by
  rw [leaveBlocks_rest]
  exact ⟨h.here, h.alone, h.booted, h.level, h.clean, h.answered⟩

theorem traps_of_leaveBlocks {i : Instr} {s : State} {cause : Nat} (h : exec i s = .next ((s.leaveBlocks s.cur).trapOpen cause)) : Traps i cause s := by
  intro ht
  have hcur : (s.leaveBlocks s.cur).cur = s.cur := by rw [leaveBlocks_rest]
  have hpc : ((s.leaveBlocks s.cur).ctx s.cur).pc = (s.ctx s.cur).pc := by rw [leaveBlocks_rest]; rfl
  obtain ⟨v, hv⟩ := tookTrap_trapOpen (s := s.leaveBlocks s.cur) (hcur.symm ▸ ht.leaveBlocks s.cur) cause
  rw [hcur, hpc] at hv
  exact ⟨_, h, v, hv.of_leaveBlocks⟩

/-! ### Taking and giving back blocks (R53, R234, R235) -/

theorem takeBlocks_rest (s : State) (m : Team) (p k : Nat) : s.takeBlocks m p k =
    { s with
      ctxs := (s.takeBlocks m p k).ctxs, teams := (s.takeBlocks m p k).teams, vrs := (s.takeBlocks m p k).vrs
      freeCtr := (s.takeBlocks m p k).freeCtr } := rfl

theorem giveBlocks_rest (s : State) (id : CtxId) (k : Nat) : s.giveBlocks id k =
    { s with ctxs := (s.giveBlocks id k).ctxs, teams := (s.giveBlocks id k).teams } := by
  unfold State.giveBlocks State.modTeamOf
  dsimp only
  split <;> rfl

theorem findCtx_modCtx_self {s : State} {id : CtxId} {c : Ctx} (h : s.findCtx id = some c) {f : Ctx → Ctx} (hf : ∀ c, (f c).id = c.id) :
    (s.modCtx id f).findCtx id = some (f c) := by
  rw [findCtx_modCtx s id id hf, if_pos rfl, h, Option.map_some]

section
variable {s : State} {c : Ctx} (hc : s.findCtx s.cur = some c)
include hc

theorem findCtx_takeBlocks (m : Team) (p k : Nat) :
    (s.takeBlocks m p k).findCtx s.cur = some { c with vblocks := c.vblocks + k, vpool := p } := by
  obtain rfl := ctx_of_find hc
  unfold State.takeBlocks
  exact findCtx_modCtx_self hc fun _ => rfl

theorem findCtx_giveBlocks (k : Nat) : (s.giveBlocks s.cur k).findCtx s.cur = some { c with vblocks := c.vblocks - k } := by
  unfold State.giveBlocks State.modTeamOf
  dsimp only
  split <;> exact findCtx_modCtx_self hc fun _ => rfl

variable (ha : c.grp = none) (m : Team) (p k : Nat) (sm : Bool) (d : Reg)
include ha

/-- The two answers of a context that has taken blocks. -/
theorem owes_takeBlocks {q : PReg} (hq : q ≠ 0) :
    Owes (oneLate s d (BitVec.ofNat 64 (c.vblocks + k)) none) sm (c.pc + 4) (s.takeBlocks m p k)
        ((s.takeBlocks m p k).longOnce sm d (BitVec.ofNat 64 (c.vblocks + k))) ∧
      Owes ({ dst := s.cur, dest := .p q, val := 1 } :: oneLate s d (BitVec.ofNat 64 (c.vblocks + k)) none) sm (c.pc + 4) (s.takeBlocks m p k)
        ((s.takeBlocks m p k).tryDone sm d q true) := by
  have hcur : (s.takeBlocks m p k).cur = s.cur := rfl
  have hctx := ctx_of_find (findCtx_takeBlocks hc m p k)
  have hg : ((s.takeBlocks m p k).ctx (s.takeBlocks m p k).cur).grp = none := by rw [hcur, hctx]; exact ha
  have hOnce := owes_longOnce_alone hg sm d (BitVec.ofNat 64 (c.vblocks + k))
  have hTry := owes_tryDone_alone hg sm d hq true
  simp only [hcur, hctx] at hOnce hTry
  exact ⟨hOnce, hTry⟩

/-- The answer of a context that has given blocks back. -/
theorem owes_giveBlocks : Owes (oneLate s d (BitVec.ofNat 64 (c.vblocks - k)) none) sm (c.pc + 4) (s.giveBlocks s.cur k)
    ((s.giveBlocks s.cur k).longOnce sm d (BitVec.ofNat 64 (c.vblocks - k))) := by
  have hcur : (s.giveBlocks s.cur k).cur = s.cur := by rw [giveBlocks_rest]
  have hctx := ctx_of_find (findCtx_giveBlocks hc k)
  have hOnce := owes_longOnce_alone (s := s.giveBlocks s.cur k) (by rw [hcur, hctx]; exact ha) sm d (BitVec.ofNat 64 (c.vblocks - k))
  simp only [oneLate, hcur, hctx] at hOnce
  exact hOnce

end

theorem team_takeBlocks {s : State} {m : Team} (hm : s.team m.cl m.num = some m) (p k : Nat) :
    ((s.takeBlocks m p k).team m.cl m.num).map Team.pool = some (m.pool.mapIdx fun i b => if i = p then b - k else b) := by
  have h := team_modTeam hm (fun t => { t with
    pool := t.pool.mapIdx fun i b => if i = p then b - k else b
    vwait := t.vwait.filter fun w => !decide (w.1 = s.cur) }) (fun _ => rfl) fun _ => rfl
  exact congrArg (Option.map Team.pool) h

theorem team_giveBlocks {s : State} {m : Team} (hm : s.teamOf s.cur = some m) (k : Nat) :
    ((s.giveBlocks s.cur k).team m.cl m.num).map Team.pool =
      some (m.pool.mapIdx fun i b => if i = (s.ctx s.cur).vpool then b + k else b) := by
  have ht := team_of_teamOf hm
  have hid : ∃ n, (s.ctx s.cur).team = some n ∧ s.cur.cl = m.cl ∧ n = m.num := by
    unfold State.teamOf at hm
    split at hm
    next n hn =>
      have h := List.find?_some hm
      simp only [decide_eq_true_eq] at h
      exact ⟨n, hn, h.1.symm, h.2.symm⟩
    next => cases hm
  obtain ⟨n, hn, hcl, hnum⟩ := hid
  unfold State.giveBlocks State.modTeamOf
  simp only [hn, hcl, hnum]
  have h := team_modTeam ht (fun t => { t with pool := t.pool.mapIdx fun i b => if i = (s.ctx s.cur).vpool then b + k else b })
    (fun _ => rfl) fun _ => rfl
  exact congrArg (Option.map Team.pool) h

/-- The contents of the blocks held stay. -/
theorem read_takeBlocks (s : State) (m : Team) (p k : Nat) {o : Nat} (ho : o < 1024 * (s.ctx s.cur).vblocks) :
    Memory.read (s.takeBlocks m p k).vrs (vrsKey s.cur o) = Memory.read s.vrs (vrsKey s.cur o) :=
  Memory.read_fill_below (lo := vrsKey s.cur (1024 * (s.ctx s.cur).vblocks)) (by unfold vrsKey; omega) _ _ _

/-! ### What the three instructions do (R233 to R236) -/

theorem ctx_waitFor {s : State} {c : Ctx} (hc : s.findCtx s.cur = some c) (w : Wait) :
    (s.waitFor w).ctx s.cur = { c with st := .waiting w s.gtime } := ctx_of_find (findCtx_modCtx_self hc fun _ => rfl)

/-- The context joins those that wait for blocks of a pool, or keeps its place there (R234). -/
def Team.joinWait (p k : Nat) (id : CtxId) (t : Team) : Team := { t with
  vwait := if t.vwait.any fun w => decide (w.1 = id) then t.vwait.map fun w => if w.1 = id then (id, p, k) else w else t.vwait ++ [(id, p, k)] }

section
variable {s : State} {c : Ctx} {m : Team} {a : Reg} (hc : s.findCtx s.cur = some c) (hm : s.teamOf s.cur = some m) (sm : Bool) (d : Reg) (q : PReg)
include hc

theorem exec_vbAcq_zero (hk : s.blockCount a = 0) :
    exec (.vbAcq sm a d) s = .next ((s.leaveBlocks s.cur).longOnce sm d (BitVec.ofNat 64 c.vblocks)) :=
  (onCtx_some hc _).trans (by simp only [hk, if_true])

theorem exec_vbAcqTry_zero (hk : s.blockCount a = 0) : exec (.vbAcqTry sm a d q) s = .next (s.tryDone sm d q true) :=
  (onCtx_some hc _).trans (by simp only [hk, if_true])

theorem exec_vbRel_free (hk : s.blockCount a ≤ c.vblocks) (hu : s.blocksUsed s.cur (s.blockCount a) = false) :
    exec (.vbRel sm a d) s = .next ((s.giveBlocks s.cur (s.blockCount a)).longOnce sm d (BitVec.ofNat 64 (c.vblocks - s.blockCount a))) :=
  (onCtx_some hc _).trans (by simp only [Nat.not_lt.2 hk, hu, if_false, Bool.false_eq_true])

theorem exec_vbRel_used (hk : s.blockCount a ≤ c.vblocks) (hu : s.blocksUsed s.cur (s.blockCount a) = true) :
    exec (.vbRel sm a d) s = .next (s.waitFor (.blockUse (s.blockCount a))) :=
  (onCtx_some hc _).trans (by simp only [Nat.not_lt.2 hk, hu, if_false, if_true])

theorem exec_vbRel_beyond (hk : c.vblocks < s.blockCount a) : exec (.vbRel sm a d) s = .next (s.trapOpen cVREG) :=
  (onCtx_some hc _).trans (by simp only [hk, if_true])

include hm

section
variable (hk : 0 < s.blockCount a)
include hk

/-- The pool has the blocks, and nobody waits for it ahead. -/
theorem exec_vbAcq_room (hs : s.blockCount a ≤ m.poolSize (poolOf c.role)) (hw : m.waitersAhead (poolOf c.role) s.cur = false)
    (hf : s.blockCount a ≤ m.poolFree (poolOf c.role)) :
    exec (.vbAcq sm a d) s = .next ((s.takeBlocks m (poolOf c.role) (s.blockCount a)).longOnce sm d (BitVec.ofNat 64 (c.vblocks + s.blockCount a))) ∧
      exec (.vbAcqTry sm a d q) s = .next ((s.takeBlocks m (poolOf c.role) (s.blockCount a)).tryDone sm d q true) := by
  constructor <;> refine (onCtx_some hc _).trans ?_ <;>
    simp only [hk.ne', hm, Nat.not_lt.2 hs, Nat.not_lt.2 hf, hw, decide_false, Bool.or_false, Bool.false_eq_true, if_false]

/-- The pool does not have the blocks: the plain form waits in the pool's order. -/
theorem exec_vbAcq_wait (hs : s.blockCount a ≤ m.poolSize (poolOf c.role)) (hf : m.poolFree (poolOf c.role) < s.blockCount a) :
    exec (.vbAcq sm a d) s =
        .next ((s.modTeam m.cl m.num (Team.joinWait (poolOf c.role) (s.blockCount a) s.cur)).waitFor (.blocks (s.blockCount a))) ∧
      exec (.vbAcqTry sm a d q) s = .next (s.tryDone sm d q false) := by
  constructor <;> refine (onCtx_some hc _).trans ?_ <;>
    simp only [hk.ne', hm, Nat.not_lt.2 hs, hf, decide_true, Bool.or_true, if_true, if_false]
  rfl

/-- The pool is too small. -/
theorem exec_vbAcq_beyond (hs : m.poolSize (poolOf c.role) < s.blockCount a) :
    exec (.vbAcq sm a d) s = .next ((s.leaveBlocks s.cur).trapOpen cVREG) ∧ exec (.vbAcqTry sm a d q) s = .next (s.trapOpen cVREG) := by
  constructor <;> refine (onCtx_some hc _).trans ?_ <;> simp only [hk.ne', hm, hs, if_true, if_false]

end
end

/-- What holds once a context that has taken blocks goes on. -/
theorem Owes.of_takeBlocks {s t : State} {c : Ctx} {m : Team} {late : List Long} {sm : Bool} {pc : Word} {p k : Nat} (hc : s.findCtx s.cur = some c)
    (hm : s.teamOf s.cur = some m) (h : Owes late sm pc (s.takeBlocks m p k) t) :
    ((t.ctx s.cur).vblocks = c.vblocks + k ∧ (t.ctx s.cur).vpool = p ∧
      (t.team m.cl m.num).map Team.pool = some (m.pool.mapIdx fun i b => if i = p then b - k else b) ∧
      ∀ o, o < 1024 * c.vblocks → Memory.read t.vrs (vrsKey s.cur o) = Memory.read s.vrs (vrsKey s.cur o)) ∧
    t.longs = s.longs ++ late ∧ (t.ctx s.cur).pc = pc ∧
    t = { s with ctxs := t.ctxs, teams := t.teams, vrs := t.vrs, freeCtr := t.freeCtr, longs := t.longs } := by
  have hctx : t.ctx s.cur = _ := h.ctx (findCtx_takeBlocks hc m p k)
  have hteam := team_takeBlocks (team_of_teamOf hm) p k
  have hrest := h.rest
  rw [takeBlocks_rest] at hrest
  obtain rfl := ctx_of_find hc
  refine ⟨⟨by rw [hctx]; rfl, by rw [hctx]; rfl, ?_, fun o ho => ?_⟩, by rw [hrest], by rw [hctx]; rfl, by rw [hrest]⟩
  · rw [h.rest]; exact hteam
  · rw [h.rest]; exact read_takeBlocks s m p k ho

/-- What holds once a context that has given blocks back goes on. -/
theorem Owes.of_giveBlocks {s t : State} {c : Ctx} {m : Team} {late : List Long} {sm : Bool} {pc : Word} {k : Nat} (hc : s.findCtx s.cur = some c)
    (hm : s.teamOf s.cur = some m) (h : Owes late sm pc (s.giveBlocks s.cur k) t) :
    (t.ctx s.cur).vblocks = c.vblocks - k ∧
    (t.team m.cl m.num).map Team.pool = some (m.pool.mapIdx fun i b => if i = c.vpool then b + k else b) ∧
    t.longs = s.longs ++ late ∧ (t.ctx s.cur).pc = pc ∧ t = { s with ctxs := t.ctxs, teams := t.teams, longs := t.longs } := by
  have hcur : (s.giveBlocks s.cur k).cur = s.cur := by rw [giveBlocks_rest]
  have hctx := h.ctx ((congrArg _ hcur).trans (findCtx_giveBlocks hc k))
  rw [hcur] at hctx
  have hteam := team_giveBlocks hm k
  have hrest := h.rest
  rw [giveBlocks_rest] at hrest
  obtain rfl := ctx_of_find hc
  refine ⟨by rw [hctx]; rfl, ?_, by rw [hrest], by rw [hctx]; rfl, by rw [hrest]⟩
  rw [h.rest]; exact hteam

/-- Settles O34: each case of the three instructions, with what taking and giving back blocks leaves. -/
theorem vectorBlocks : Obligations.VectorBlocks := by
  intro s c m sm a d q hc ha hm hq
  have hg : (s.ctx s.cur).grp = none := grp_cur hc ha
  obtain rfl : s.ctx s.cur = c := ctx_of_find hc
  rw [← blockCount_alone hg a]
  intro k pool late said room took
  refine ⟨fun h0 => ⟨?_, ?_⟩, fun h0 ⟨hf, hw, hs⟩ => ?_, fun h0 hs hf => ?_, fun hs => ?_, fun hle hu => ?_, fun hle hu => ?_, fun hlt => ?_⟩
  · refine ⟨_, exec_vbAcq_zero hc sm d h0, ?_⟩
    rw [leaveBlocks_rest]
    exact owes_longOnce_alone (s := { s with teams := (s.leaveBlocks s.cur).teams }) hg sm d (BitVec.ofNat 64 (s.ctx s.cur).vblocks)
  · exact ⟨_, exec_vbAcqTry_zero hc sm d q h0, owes_tryDone_alone hg sm d hq true⟩
  · obtain ⟨hAcq, hTry⟩ := exec_vbAcq_room hc hm sm d q h0 hs hw hf
    obtain ⟨hOnce, hDone⟩ := owes_takeBlocks hc ha m pool k sm d hq
    exact ⟨⟨_, hAcq, hOnce.of_takeBlocks hc hm⟩, ⟨_, hTry, hDone.of_takeBlocks hc hm⟩⟩
  · obtain ⟨hAcq, hTry⟩ := exec_vbAcq_wait hc hm sm d q h0 hs hf
    refine ⟨⟨_, hTry, owes_tryDone_alone hg sm d hq false⟩, ⟨_, hAcq, ?_⟩⟩
    have hctx := ctx_waitFor (s := s.modTeam m.cl m.num (Team.joinWait pool k s.cur)) hc (.blocks k)
    exact ⟨(congrArg Ctx.st hctx :), (congrArg Ctx.pc hctx :), rfl⟩
  · obtain ⟨hAcq, hTry⟩ := exec_vbAcq_beyond hc hm sm d q (Nat.zero_lt_of_lt hs) hs
    exact ⟨traps_of_leaveBlocks hAcq, traps_of fun _ _ => hTry⟩
  · exact ⟨_, exec_vbRel_free hc sm d hle hu, (owes_giveBlocks hc ha k sm d).of_giveBlocks hc hm⟩
  · exact ⟨_, exec_vbRel_used hc sm d hle hu, rfl⟩
  · exact traps_of fun _ _ => exec_vbRel_beyond hc sm d hlt

end Sys2Proof.Machine
end

section
/-! Matrix events (O39): `mx.st` into vector registers whose bytes are not in canonical form. -/
namespace Sys2Proof.Machine

/-- One f32 element at the start of the vector registers. -/
def oneF32 : View :=
  { addr := 0, base := 0xC2 * 2 ^ 48, ty := 2, rank := 1, e := Vector.replicate 4 1, s := Vector.replicate 4 0 }

/-- An `mx.st` of an accumulator element to `oneF32`, on bf16 operands. -/
def storeOne : MCmd :=
  { op := 4, by_ := { ctx := ⟨0, 0, 0⟩, priv := .user, domain := 0, team := none, wds := [] }, joined := false, cfg := 0x00030003, oc := 0
    v1 := some oneF32 }

/-- It stands at the head of the first queue of cluster 0, over accumulators that read 0. The keys of the vector registers' bytes do not rise. -/
def unsortedVrs : State :=
  { State.reset with clusters := [{ id := 0, quads := [{ queue := [storeOne] }, {}, {}, {}] }], vrs := [(5, 1), (0, 7)] }

theorem oneF32_inRegs : InRegs oneF32 := by
  have one : ∀ {i : Tup}, oneF32.holds i → i = (0, 0, 0, 0) := by
    rintro ⟨i0, i1, i2, i3⟩ ⟨h0, h1, h2, h3⟩
    have e : ∀ k < 4, oneF32.ext k = 1 := by decide
    rw [e 0 (by decide)] at h0
    rw [e 1 (by decide)] at h1
    rw [e 2 (by decide)] at h2
    rw [e 3 (by decide)] at h3
    simp only [Nat.lt_one_iff] at h0 h1 h2 h3
    rw [h0, h1, h2, h3]
  refine ⟨by decide, by decide, fun i hi => ?_, fun i j hi hj _ => (one hi).trans (one hj).symm⟩
  rw [one hi]
  decide

/-- Writing a zero over a byte whose key stands behind a greater one leaves the byte. -/
theorem storeOne_leaves_byte {t : State} (ht : exec .matrixCommandComplete unsortedVrs = .next t) : vrCode t ⟨0, 0, 0⟩ oneF32 (0, 0, 0, 0) = 7 := by
  have run : (match exec .matrixCommandComplete unsortedVrs with
    | .next t => decide (vrCode t ⟨0, 0, 0⟩ oneF32 (0, 0, 0, 0) = 7)
    | _ => false) = true := by decide
  rw [ht] at run
  exact of_decide_eq_true run

/-- Refutes O39: its clause of `mx.st` does not ask for the canonical form of the vector registers, without which a byte that is written as 0 may read as
before. In `unsortedVrs` an element of value 0 is stored, and the code in its place stays 7. -/
theorem not_matrixEvents : ¬ Obligations.MatrixEvents := by
  unfold Obligations.MatrixEvents
  rintro ⟨-, h⟩
  obtain ⟨-, -, hStore, -⟩ := h unsortedVrs storeOne .plain oneF32 (fun _ => 0) rfl rfl (by decide) (by decide) rfl rfl rfl rfl rfl rfl rfl
  obtain ⟨t, ht, -, hCode⟩ := hStore false rfl rfl oneF32_inRegs rfl rfl (by decide) (by decide)
  have code := hCode 0 0 _ (by decide) (by decide) rfl
  have zero : vrCode t ⟨0, 0, 0⟩ oneF32 (0, 0, 0, 0) = 0 := code.trans (by decide)
  rw [storeOne_leaves_byte ht] at zero
  exact absurd zero (by decide)

end Sys2Proof.Machine
end

section
/-! Branches and jumps (O9), joins and exits (O11), fusing and splitting (O12): states that their clauses about fused groups admit and should not. -/
namespace Sys2Proof.Machine

/-! ### Traps of a group with a lane that names another group -/

/-- The lane that is not active in `strayLane` keeps its registers in a split, whatever the active lanes do. -/
theorem strayLane_split_keeps_idle {sm : Bool} {pcs : CtxId → Word} {hit : CtxId → Option (Nat × Option Word)} {file : CtxId → Reg → Word} {t : State}
    (hFile : file (slotOf 2) 5 = 0) (h : SplitTo strayGroup sm pcs hit file strayLane t) : idleG5 t = some 0 := by
  obtain ⟨n, hn, -, -, hLane⟩ := h 2 idleLane (by decide) (by decide) (by decide) rfl rfl
  rw [if_neg (by decide)] at hLane
  obtain ⟨-, -, hRegs, -⟩ := hLane
  have kept : n.g.get 5 = 0 := (hRegs 5).trans hFile
  have hIdle : t.findCtx (slotOf 2) = some n := hn
  simp [idleG5, hIdle, kept]

/-- An instruction that writes the result which that lane has outstanding does not split the group as `SplitTo` says. -/
theorem strayLane_not_splitTo {i : Instr} {sm : Bool} {pcs : CtxId → Word} {hit : CtxId → Option (Nat × Option Word)} {file : CtxId → Reg → Word}
    (run : (match exec i strayLane with | .next t => decide (idleG5 t = some 1) | _ => false) = true) (hFile : file (slotOf 2) 5 = 0) :
    ¬ Runs i strayLane (SplitTo strayGroup sm pcs hit file strayLane) := by
  rintro ⟨t, ht, hSplit⟩
  rw [ht] at run
  have written : idleG5 t = some 1 := of_decide_eq_true run
  rw [strayLane_split_keeps_idle hFile hSplit] at written
  exact absurd written (by decide)

/-- Refutes O9: nothing in its clause of misaligned targets makes the context of an active lane a member of the group. In `strayLane` a `jalr` to address 2
traps in both active lanes, and the trap of the one that names the group of the idle lane writes that lane's outstanding result, where the split leaves the
lane its registers. -/
theorem not_branchesAndJumps : ¬ Obligations.BranchesAndJumps := by
  unfold Obligations.BranchesAndJumps
  rintro ⟨-, hJumps⟩
  obtain ⟨-, -, -, hGroup⟩ := hJumps strayLane _ false 0 0 0 2 0 rfl
  obtain ⟨-, hTraps⟩ := hGroup strayGroup rfl rfl
  exact strayLane_not_splitTo (by decide) rfl (hTraps strayLane_clean (by decide))

/-- Refutes O12: in `strayLane`, where a lane of the group is not active, the FUSE traps of a `split` write that lane's outstanding result. -/
theorem not_fusingAndSplitting : ¬ Obligations.FusingAndSplitting := by
  unfold Obligations.FusingAndSplitting
  rintro ⟨-, hSplits⟩
  obtain ⟨-, hTraps, -⟩ := hSplits strayLane _ false rfl
  exact strayLane_not_splitTo (by decide) rfl (hTraps strayGroup rfl (.inl (by decide)) strayLane_clean)

/-! ### The end of an active lane whose slot is listed twice -/

/-- A group of lanes 0 and 1, of which lane 1 is active and lane 0 pending. -/
def endingGroup : Group :=
  { cl := 0, base := 0, slot := 0, width := 2, members := 3, lm := 2, stack := [{ j := 0, pendPc := 0, pend := 1, taken := 2, phaseN := false }] }

/-- The member in lane 1. -/
def listedTwice : Ctx := { id := slotOf 1, grp := some 0 }

/-- Before the member in lane 1, the list of contexts holds another one of the same slot, which runs alone. -/
def twinSlot : State :=
  { State.reset with ctxs := [{ id := slotOf 0, grp := some 0 }, { id := slotOf 1 }, listedTwice], groups := [endingGroup] }

/-- The slot's context is Ready after the `exit`. -/
theorem exit_twinSlot_keeps_ready {t : State} (ht : exec (.exit false) twinSlot = .next t) : (t.ctx (slotOf 1)).st = .ready := by
  have run : (match exec (.exit false) twinSlot with | .next t => decide ((t.ctx (slotOf 1)).st = .ready) | _ => false) = true := by decide
  rw [ht] at run
  exact of_decide_eq_true run

/-- Refutes O11: its clause of an `exit` with pending lanes speaks of every listed context of the group, and reads its state by its slot. In `twinSlot` the
slot of the ending lane is listed twice, and the first of the two is no member: it stays Ready. -/
theorem not_joinsAndExits : ¬ Obligations.JoinsAndExits := by
  unfold Obligations.JoinsAndExits
  rintro ⟨-, hExits⟩
  obtain ⟨-, -, -, -, hPending⟩ := hExits twinSlot _ false rfl
  obtain ⟨t, ht, -, -, hEnded⟩ := hPending endingGroup _ [] (by decide) rfl rfl (by decide) rfl rfl (by decide)
  have ended : (t.ctx (slotOf 1)).st = .exited := hEnded listedTwice (by decide) (by decide) (by decide) (by decide) (by decide)
  rw [exit_twinSlot_keeps_ready ht] at ended
  exact absurd ended (by decide)

end Sys2Proof.Machine
end

section
/-! The special-function unit (O37). -/
namespace Sys2Proof.Machine

/-- A cluster that has been changed reads as changed, listed before or not. -/
theorem cluster_modCluster_self (s : State) (cl : Nat) {f : Cluster → Cluster} (hf : ∀ k, (f k).id = k.id) :
    (s.modCluster cl f).cluster cl = f (s.cluster cl) := by
  unfold State.modCluster State.cluster
  have e : (fun k : Cluster => decide (k.id = cl)) ∘ (fun k => if k.id = cl then f k else k) = fun k => decide (k.id = cl) := by
    funext k
    simp only [Function.comp]
    split <;> simp [hf]
  cases h : s.clusters.find? fun k => decide (k.id = cl) with
  | none =>
    have hn : (s.clusters.any fun k => decide (k.id = cl)) = false := by simpa using h
    simp [hn, List.find?_append, h, hf]
  | some k =>
    have hid : k.id = cl := by simpa using List.find?_some h
    have hy : (s.clusters.any fun k => decide (k.id = cl)) = true := List.any_eq_true.mpr ⟨k, List.mem_of_find?_eq_some h, by simpa using hid⟩
    simp only [hy, if_true, List.find?_map, e, h, Option.map_some, Option.getD_some, hid]

theorem modCluster_findCtx (s : State) (cl : Nat) (f : Cluster → Cluster) (id : CtxId) : (s.modCluster cl f).findCtx id = s.findCtx id := by
  simp [State.findCtx]

/-- The results of a scalar request are the late writes of a long instruction with its destination (R40, R271). -/
theorem sfuDests_eq (s : State) (d : Reg) (v : Word) :
    (if d = 0 then [] else s.sfuDests d v) = (lateOf s d fun _ => v).map fun l => (l.dst, l.val) := by
  unfold lateOf State.sfuDests State.laneVals uniformVals
  by_cases h0 : d = 0
  · simp [h0]
  · by_cases hd : d.val < 16
    · have h16 : ¬ 16 ≤ d.val := Nat.not_le.2 hd
      simp [h0, hd, h16, fileOf_low]
    · have h16 : 16 ≤ d.val := Nat.not_lt.1 hd
      cases hl : s.lanes s.cur <;> simp [h0, hd, h16, fileOf_high]

/-- Going on once a cluster has changed. -/
theorem moved_retire_modCluster {s : State} {c : Ctx} (hc : s.findCtx s.cur = some c) (cl : Nat) (f : Cluster → Cluster) (sm : Bool) :
    Moved sm (c.pc + 4) s ((s.modCluster cl f).retire sm) := by
  have hpc : ((s.modCluster cl f).ctx (s.modCluster cl f).cur).pc = c.pc := by
    rw [State.modCluster_cur, State.ctx, modCluster_findCtx, hc]; rfl
  refine ⟨State.modCluster_cur s cl f, fun id => ?_⟩
  rw [State.retire, hpc, findCtx_advance, modCluster_findCtx, State.modCluster_cur]

theorem sfu_enters {s : State} {c : Ctx} (hc : s.findCtx s.cur = some c) (hrole : c.role.getLsbD 2 = true)
    (hroom : (s.cluster s.cur.cl).sfuq.length < 32) (sm z : Bool) (d a : Reg) (r : Fin 4) (f : Fin 8) :
    let v := BitVec.ofNat 64 (sfuEval f.val z (rmodeOf r.val) ((s.rg (s.lowest s.cur) a).toNat % 2 ^ 32))
    Runs (.sfu sm d a r z f) s fun t => t = { s with ctxs := t.ctxs, clusters := t.clusters } ∧ Moved sm (c.pc + 4) s t ∧
      (t.cluster s.cur.cl).sfuq = (s.cluster s.cur.cl).sfuq ++ [.scalar ((lateOf s d fun _ => v).map fun l => (l.dst, l.val)) d s.cur none] := by
  intro v
  have hx : exec (.sfu sm d a r z f) s = .next ((s.modCluster s.cur.cl fun k => { k with
      sfuq := k.sfuq ++ [.scalar ((lateOf s d fun _ => v).map fun l => (l.dst, l.val)) d s.cur none] }).retire sm) := by
    refine (onCtx_some hc _).trans ?_
    simp only [Nat.not_le.2 hroom, if_false, lacks, hrole, Bool.not_true, Bool.false_eq_true, sfuDests_eq]
    simp only [wfld, fld, pow_zero, Nat.div_one, v]
  refine ⟨_, hx, ?_, moved_retire_modCluster hc _ _ sm, ?_⟩
  · unfold State.retire State.advance State.modCtx
    rw [modCluster_rest]
  · exact congrArg Cluster.sfuq (cluster_modCluster_self s s.cur.cl (by intro; rfl))

theorem sfu_traps {s : State} (hrole : (s.ctx s.cur).role.getLsbD 2 = false) (hroom : (s.cluster s.cur.cl).sfuq.length < 32) (sm z : Bool) (d a : Reg)
    (r : Fin 4) (f : Fin 8) : Traps (.sfu sm d a r z f) cROLE s :=
  traps_of fun c hc => (onCtx_some hc _).trans (by
    rw [ctx_of_find hc] at hrole
    simp only [Nat.not_le.2 hroom, if_false, lacks, hrole, Bool.not_false, if_true])

/-- Settles O37: what enters the queue, what is served, and the two places where a result is written. -/
theorem specialFunctions : Obligations.SpecialFunctions := by
  intro s sm z d a r f v
  refine ⟨fun c hc hrole hroom => sfu_enters hc hrole hroom sm z d a r f, fun hroom hrole => sfu_traps hrole hroom sm z d a r f,
    fun vs e g w q hq => ?_, fun l q e n m hl he h0 hw hm => ?_, fun l q e hl he h0 hw => ?_⟩
  · have hx : exec .sfuEntryServe s = .next (s.modCluster s.subj.cl fun k => { k with
        sfuq := q, sfuOut := k.sfuOut ++ vs.map fun v => { dst := v.1, dest := .g e, val := v.2, away := w } }) := by
      show execSfuEntryServe s = _
      simp only [execSfuEntryServe, hq]
    have hk := cluster_modCluster_self s s.subj.cl (f := fun k => { k with
        sfuq := q, sfuOut := k.sfuOut ++ vs.map fun v => { dst := v.1, dest := .g e, val := v.2, away := w } }) fun _ => rfl
    exact ⟨_, hx, modCluster_rest _ _ _, congrArg Cluster.sfuq hk, congrArg Cluster.sfuOut hk⟩
  all_goals
    have hx : exec .sfuResultWrite s = .next ((s.modCluster s.subj.cl fun k => { k with sfuOut := q }).writeSaved l) := by
      show execSfuResultWrite s = _
      simp only [execSfuResultWrite, hl]
    have hk := congrArg Cluster.sfuOut (cluster_modCluster_self s s.subj.cl (f := fun k => { k with sfuOut := q }) fun _ => rfl)
  · have hput : putSaved l = fun c => if c.id = l.dst then { c with g := c.g.set e l.val } else c := by
      funext c
      simp [putSaved, he, h0]
    simp only [State.writeSaved, hw, hput] at hx
    have hteam : (s.modCluster s.subj.cl fun k => { k with sfuOut := q }).team l.dst.cl n = some m := by simpa [State.team] using hm
    refine ⟨_, hx, ?_, hk, team_modTeam hteam _ (fun _ => rfl) fun _ => rfl⟩
    rw [modCluster_rest]
    rfl
  · simp only [State.writeSaved, hw, State.writeLong, he, h0, if_false] at hx
    refine ⟨_, hx, ?_, hk, fun id => ?_⟩
    · rw [modCluster_rest]
      rfl
    · rw [findCtx_modCtx _ _ _ (by intro; rfl), modCluster_findCtx]
      by_cases h : id = l.dst
      · simp only [h, if_true]
      · simp only [h, if_false, Option.map_id']

end Sys2Proof.Machine
end

section
/-! Releases and acquires of a context none of whose memory traffic is on its way, and the ends of instructions that owe nothing. -/
namespace Sys2Proof.Machine

theorem owes_retire (s : State) (sm : Bool) : Owes [] sm ((s.ctx s.cur).pc + 4) s (s.retire sm) := by
  have h := owes_advance s [] sm ((s.ctx s.cur).pc + 4)
  rwa [List.append_nil] at h

/-! ### Releases and acquires (R147) -/

/-- Late loads that the test does not pick stay as they are. -/
theorem settleLate_of_none {s : State} {f : Late → Bool} (h : ∀ l ∈ s.longs, ∀ t, l.late = some t → f t = false) : s.settleLate f = s := by
  have hnow : (s.longs.filterMap Long.late).filter f = [] := by
    rw [List.filter_eq_nil_iff]
    intro t ht
    obtain ⟨l, hl, e⟩ := List.mem_filterMap.mp ht
    simp [h l hl t e]
  have hmap : (s.longs.map fun l => match l.late with
      | some t => if f t then { l with val := s.readLate t, late := none } else l
      | none => l) = s.longs := by
    refine (List.map_congr_left fun l hl => ?_).trans (List.map_id' _)
    split
    next t ht => simp [h l hl t ht]
    next => rfl
  unfold State.settleLate
  simp only [hnow, List.foldl_nil]
  exact congrArg (fun x => { s with longs := x }) hmap

theorem foldl_writeBack_clean (s : State) : ∀ {ls : List L1Line}, (∀ l ∈ ls, l.dirty = 0) → ls.foldl State.writeBack s = s
  | [], _ => rfl
  | l :: r, h => by
    have hl : s.writeBack l = s := if_pos (h l List.mem_cons_self)
    rw [List.foldl_cons, hl]
    exact foldl_writeBack_clean s fun x hx => h x (List.mem_cons_of_mem _ hx)

theorem acquire_clu_of_none {s : State} {a : CtxId} (h : ∀ l ∈ s.longs, ∀ t, l.late = some t → t.agent ≠ a) :
    s.acquire a .clu = s.raisePts a .clu := by
  unfold State.acquire
  rw [settleLate_of_none fun l hl t ht => by simpa using h l hl t ht]

section
variable {s : State} (h : Quiet s)
include h

theorem Quiet.settleLate : (s.settleLate fun t => decide (t.agent = s.cur)) = s :=
  settleLate_of_none fun l hl t ht => by simpa using h.longs l hl t ht

/-- A release of a quiet context is done at once: its group's timestamps alone change. -/
theorem Quiet.release {sc : Scope} (hsc : sc ≠ .grp) : s.release s.cur sc = (true, s.releasePts s.cur sc) := by
  have hstart : s.releaseStart s.cur = s := by
    unfold State.releaseStart
    rw [h.settleLate]
    exact foldl_writeBack_clean s fun l hl => h.lines l (List.mem_filter.mp hl).1 (List.mem_filter.mp hl).2
  have hdone : s.unperformed s.cur = false := by
    unfold State.unperformed
    rw [h.scatters, leader_alone h.alone, Bool.or_false, Bool.or_eq_false_iff]
    exact ⟨List.any_eq_false.mpr fun w hw => by simp [h.writes w hw], List.any_eq_false.mpr fun r hr => by simp [h.reds r hr]⟩
  simp [State.release, hsc, hstart, hdone]

theorem Quiet.releaseThen {sc : Scope} (hsc : sc ≠ .grp) (k : State → State) : s.releaseThen sc k = k (s.releasePts s.cur sc) := by
  unfold State.releaseThen
  rw [h.lost, h.release hsc]

end

end Sys2Proof.Machine
end

section
/-! Stage rings (O33). -/
namespace Sys2Proof.Machine

theorem ringOf_team {s : State} {m : Team} (hm : s.teamOf s.cur = some m) (r : Nat) : s.ringOf r = m.rings[r]? := by
  rw [State.ringOf, hm, Option.bind_some]

theorem slotOf_alone {s : State} (ha : (s.ctx s.cur).grp = none) (a : Reg) : s.slotOf a = (s.rg s.cur a).toNat % 8 := by
  simp [State.slotOf, lowest_alone (groupOf_alone ha), wfld, fld]

/-- The numbers under which a context finds its team. -/
theorem teamOf_numbers {s : State} {m : Team} {id : CtxId} (h : s.teamOf id = some m) : (s.ctx id).team = some m.num ∧ m.cl = id.cl := by
  unfold State.teamOf at h
  split at h
  next n hn =>
    have hm := List.find?_some h
    simp only [decide_eq_true_eq] at hm
    exact ⟨by rw [hn, hm.2], hm.1⟩
  next => cases h

/-! ### `stg.acq` -/

section
variable {s : State} {c : Ctx} (hc : s.findCtx s.cur = some c) (ha : c.grp = none)
include hc ha

theorem findCtx_observe (ts : Nat) : (s.observe s.cur ts).findCtx s.cur =
    some { c with mts := max c.mts ts, vis := { c.vis with own := max c.vis.own ts } } := by
  unfold State.observe
  rw [leader_alone (grp_cur hc ha)]
  exact findCtx_modCtx_self hc fun _ => rfl

theorem findCtx_raisePts (sc : Scope) : (s.raisePts s.cur sc).findCtx s.cur =
    some { c with pts := max c.pts c.mts, vis := c.vis.acquired sc } := by
  unfold State.raisePts
  rw [leader_alone (grp_cur hc ha)]
  exact findCtx_modCtx_self hc fun _ => rfl

end

/-- An acquire at CLU scope behind an observation: the context's pts is not below what it has observed. -/
theorem findCtx_acquire_observe {s : State} {c : Ctx} (hc : s.findCtx s.cur = some c) (h : Quiet s) (ts : Nat) :
    ∃ v, ((s.observe s.cur ts).acquire s.cur .clu).findCtx s.cur =
      some { c with pts := max c.pts (max c.mts ts), mts := max c.mts ts, vis := v } := by
  have ha : c.grp = none := by rw [← ctx_of_find hc]; exact h.alone
  rw [acquire_clu_of_none (s := s.observe s.cur ts) h.longs]
  exact ⟨_, findCtx_raisePts (s := s.observe s.cur ts) (findCtx_observe hc ha ts) ha .clu⟩

theorem acquire_observe_rest {s : State} (h : Quiet s) (ts : Nat) :
    (s.observe s.cur ts).acquire s.cur .clu = { s with ctxs := ((s.observe s.cur ts).acquire s.cur .clu).ctxs } := by
  rw [acquire_clu_of_none (s := s.observe s.cur ts) h.longs]
  rfl

/-- The context's timestamp after an instruction that goes on. -/
theorem Owes.pts {late : List Long} {sm : Bool} {pc : Word} {s t : State} {c : Ctx} (h : Owes late sm pc s t) (hc : s.findCtx s.cur = some c) :
    (t.ctx s.cur).pts = c.pts := by
  rw [h.ctx hc]; rfl

section
variable {s : State} {c : Ctx} {m : Team} {g : Ring} {a : Reg} {r : Fin 8} (hc : s.findCtx s.cur = some c) (h : Quiet s)
  (hm : s.teamOf s.cur = some m) (sm p : Bool)
include hc h hm

theorem stgAcq_passes (hg : m.rings[r.val]? = some g) (hi : (s.rg s.cur a).toNat % 8 < g.slots) (hp : g.phases.getLsbD ((s.rg s.cur a).toNat % 8) = p) :
    Runs (.stgAcq sm a r p) s fun t => (t.ctx s.cur).pts = max c.pts (max c.mts g.ts) ∧
      ∃ u, Settled s u ∧ u.mem = s.mem ∧ u.ls = s.ls ∧ Owes [] sm (c.pc + 4) u t := by
  have hx : exec (.stgAcq sm a r p) s = .next (((s.observe s.cur g.ts).acquire s.cur .clu).retire sm) := by
    refine (onCtx_some hc _).trans ?_
    simp only [ringOf_team hm, hg, slotOf_alone h.alone, Nat.not_le.2 hi, if_false, hp, true_or, if_true]
  have hs : Settled s ((s.observe s.cur g.ts).acquire s.cur .clu) := (settled_observe _ _ _).trans (settled_acquire _ _ _)
  obtain ⟨v, hv⟩ := findCtx_acquire_observe hc h g.ts
  have hrest := acquire_observe_rest h g.ts
  have howes := owes_retire ((s.observe s.cur g.ts).acquire s.cur .clu) sm
  rw [hs.pc, hs.cur, ctx_of_find hc] at howes
  have hpts := howes.pts (by rw [hs.cur]; exact hv)
  rw [hs.cur] at hpts
  exact ⟨_, hx, hpts, _, hs, by rw [hrest], by rw [hrest], howes⟩

theorem stgAcq_waits (hg : m.rings[r.val]? = some g) (hi : (s.rg s.cur a).toNat % 8 < g.slots) (hp : g.phases.getLsbD ((s.rg s.cur a).toNat % 8) ≠ p)
    (hw : c.woken = false) : Runs (.stgAcq sm a r p) s fun t => t = s.waitFor (.ring r.val ((s.rg s.cur a).toNat % 8) p) :=
  ⟨_, (onCtx_some hc _).trans (by
    simp only [ringOf_team hm, hg, slotOf_alone h.alone, Nat.not_le.2 hi, if_false, hp, hw, Bool.false_eq_true, or_self]), rfl⟩

/-! ### `stg.rel` -/

omit hc h hm in
/-- Inverting a phase bit inverts that one. -/
theorem getLsbD_invert (x : BitVec 8) {i j : Nat} (hi : i < 8) (hj : j < 8) :
    (x ^^^ BitVec.ofNat 8 (2 ^ i)).getLsbD j = if j = i then !x.getLsbD j else x.getLsbD j := by
  rw [BitVec.getLsbD_xor, BitVec.getLsbD_ofNat, Nat.testBit_two_pow]
  by_cases e : j = i
  · simp [e, hi]
  · simp [e, Ne.symm e, hj]

omit hc h hm in
/-- The ring of a team behind the inversion of one of its slots: its slots are as many, and the others' phases as they were. -/
theorem team_invertSlot {u : State} {x : Team} (hx : u.team x.cl x.num = some x) (ts : Nat) {k i : Nat} (hk : x.rings[k]? = some g) (hi : i < 8) :
    ∃ m' g', (u.invertSlot x.cl x.num k i ts).team x.cl x.num = some m' ∧ m'.rings[k]? = some g' ∧ g'.slots = g.slots ∧
      ∀ j, j < 8 → g'.phases.getLsbD j = if j = i then !g.phases.getLsbD j else g.phases.getLsbD j := by
  have hteam := team_modTeam hx (fun t => { t with rings := t.rings.mapIdx fun j r =>
    if j = k then { r with phases := r.phases ^^^ BitVec.ofNat 8 (2 ^ i), ts := max r.ts ts } else r }) (fun _ => rfl) fun _ => rfl
  refine ⟨_, { g with phases := g.phases ^^^ BitVec.ofNat 8 (2 ^ i), ts := max g.ts ts }, hteam, ?_, rfl, fun j hj => getLsbD_invert g.phases hi hj⟩
  simp only [List.getElem?_mapIdx, hk, Option.map_some, if_true]

theorem stgRel_inverts (hg : m.rings[r.val]? = some g) (hi : (s.rg s.cur a).toNat % 8 < g.slots) :
    Runs (.stgRel sm a r) s fun t => ∃ u, Settled s u ∧ u.mem = s.mem ∧ u.ls = s.ls ∧ Owes [] sm (c.pc + 4) { u with teams := t.teams } t ∧
      ∃ m' g', t.team m.cl m.num = some m' ∧ m'.rings[r.val]? = some g' ∧ g'.slots = g.slots ∧ ∀ j, j < 8 →
        g'.phases.getLsbD j = if j = (s.rg s.cur a).toNat % 8 then !g.phases.getLsbD j else g.phases.getLsbD j := by
  obtain ⟨hnum, hcl⟩ := teamOf_numbers hm
  rw [ctx_of_find hc] at hnum
  have hx : exec (.stgRel sm a r) s = .next (((s.releasePts s.cur .clu).invertSlot m.cl m.num r.val ((s.rg s.cur a).toNat % 8)
      ((s.releasePts s.cur .clu).relTs s.cur)).retire sm) := by
    refine (onCtx_some hc _).trans ?_
    simp only [ringOf_team hm, hg, slotOf_alone h.alone, Nat.not_le.2 hi, if_false, h.releaseThen (sc := .clu) nofun, hnum, hcl]
    rfl
  have hs : Settled s (s.releasePts s.cur .clu) := settled_releasePts _ _ _
  have howes := owes_retire ((s.releasePts s.cur .clu).invertSlot m.cl m.num r.val ((s.rg s.cur a).toNat % 8) ((s.releasePts s.cur .clu).relTs s.cur)) sm
  have hpc : ((s.releasePts s.cur .clu).ctx s.cur).pc = c.pc := by rw [hs.pc, ctx_of_find hc]
  refine ⟨_, hx, _, hs, rfl, rfl, ?_, ?_⟩
  · rw [← hpc]; exact howes
  · have hteam : (s.releasePts s.cur .clu).team m.cl m.num = some m := team_of_teamOf (s := s) hm
    exact team_invertSlot hteam _ hg (Nat.mod_lt _ (by decide))

/-! ### `stg.peek`, and rings and slots out of range -/

theorem stgPeek_reads (d : Reg) (hg : m.rings[r.val]? = some g) :
    Runs (.stgPeek sm d r) s (Owes (oneLate s d (g.phases.setWidth 64) none) sm (c.pc + 4) s) := by
  have hx : exec (.stgPeek sm d r) s = .next (s.longOnce sm d (g.phases.setWidth 64)) := (onCtx_some hc _).trans (by simp only [ringOf_team hm, hg])
  refine ⟨_, hx, ?_⟩
  rw [← ctx_of_find hc]
  exact owes_longOnce_alone h.alone sm d _

omit hc h in
theorem stg_traps_of_no_ring (d : Reg) (hr : m.rings.length ≤ r.val) :
    Traps (.stgAcq sm a r p) cILLEGAL s ∧ Traps (.stgRel sm a r) cILLEGAL s ∧ Traps (.stgPeek sm d r) cILLEGAL s := by
  have hn : s.ringOf r.val = none := by rw [ringOf_team hm, List.getElem?_eq_none hr]
  refine ⟨traps_of fun c hc => ?_, traps_of fun c hc => ?_, traps_of fun c hc => ?_⟩
  all_goals exact (onCtx_some hc _).trans (by simp only [hn])

omit hc in
theorem stg_traps_of_no_slot (hg : m.rings[r.val]? = some g) (hi : g.slots ≤ (s.rg s.cur a).toNat % 8) :
    Traps (.stgAcq sm a r p) cILLEGAL s ∧ Traps (.stgRel sm a r) cILLEGAL s := by
  refine ⟨traps_of fun c hc => ?_, traps_of fun c hc => ?_⟩
  all_goals exact (onCtx_some hc _).trans (by simp only [ringOf_team hm, hg, slotOf_alone h.alone, hi, if_true])

end

/-- Settles O33: each case of the three instructions. -/
theorem stageRings : Obligations.StageRings := by
  intro s c m sm a d r p hc h hm i
  refine ⟨stg_traps_of_no_ring hm sm p d, fun g hg => ⟨stgAcq_passes hc h hm sm p hg, stgAcq_waits hc h hm sm p hg, stgRel_inverts hc h hm sm hg,
    stgPeek_reads hc h hm sm d hg, stg_traps_of_no_slot h hm sm p hg⟩⟩

end Sys2Proof.Machine
end

section
/-! Task instructions (O32). -/
namespace Sys2Proof.Machine

/-! ### A trap behind a release -/

theorem modCtx_modCtx_comm (s : State) (a b : CtxId) {f g : Ctx → Ctx} (hf : ∀ c, (f c).id = c.id) (hg : ∀ c, (g c).id = c.id)
    (h : ∀ c, f (g c) = g (f c)) : (s.modCtx a f).modCtx b g = (s.modCtx b g).modCtx a f := by
  unfold State.modCtx
  simp only [List.map_map]
  congr 1
  refine List.map_congr_left fun c _ => ?_
  simp only [Function.comp]
  by_cases ha : c.id = a
  · by_cases hb : c.id = b
    · rw [if_pos ha, if_pos hb, if_pos ((hf c).trans hb), if_pos ((hg c).trans ha), h]
    · rw [if_pos ha, if_neg hb, if_neg fun e => hb ((hf c).symm.trans e), if_pos ha]
  · by_cases hb : c.id = b
    · rw [if_neg ha, if_pos hb, if_neg fun e => ha ((hg c).symm.trans e)]
    · rw [if_neg ha, if_neg hb, if_neg ha]

section
variable {f : Ctx → Ctx} (hf : ∀ c, (f c).id = c.id) (hg : ∀ c (r : Reg) v, f { c with g := c.g.set r v } = { f c with g := (f c).g.set r v })
  (hp : ∀ c n b, f { c with p := setPBit c.p n b } = { f c with p := setPBit (f c).p n b })
include hf hg hp

theorem writeLong_modCtx (s : State) (id : CtxId) (l : Long) : (s.modCtx id f).writeLong l = (s.writeLong l).modCtx id f := by
  unfold State.writeLong State.wp
  split
  · split
    · rfl
    · exact modCtx_modCtx_comm s id _ hf (fun _ => rfl) fun c => hg c _ _
  · split
    · rfl
    · exact modCtx_modCtx_comm s id _ hf (fun _ => rfl) fun c => hp c _ _

theorem writeLongs_modCtx (id : CtxId) : ∀ (ls : List Long) (s : State),
    ls.foldl State.writeLong (s.modCtx id f) = (ls.foldl State.writeLong s).modCtx id f
  | [], _ => rfl
  | l :: r, s => by rw [List.foldl_cons, List.foldl_cons, writeLong_modCtx hf hg hp, writeLongs_modCtx id r]

/-- Writing outstanding results does not depend on what it does not write. -/
theorem flushLongs_modCtx (s : State) (id : CtxId) (hgrp : ∀ c, (f c).grp = c.grp) : (s.modCtx id f).flushLongs id = (s.flushLongs id).modCtx id f := by
  unfold State.flushLongs
  rw [leader_modCtx s id id hf hgrp]
  simp only [State.modCtx_longs, State.modCtx_clusters, writeLongs_modCtx hf hg hp]
  rfl

end

/-- A context after a release at a scope: its timestamps are raised (R124). -/
def releaseStamp (sc : Scope) (c : Ctx) : Ctx :=
  { c with pts := max c.pts c.mts, vis := { c.vis with relC := max c.pts c.mts, relD := if sc = .clu then c.vis.relD else max c.pts c.mts } }

section
variable {s : State} {c : Ctx} (hc : s.findCtx s.cur = some c) (ha : c.grp = none)
include hc ha

theorem releasePts_alone (sc : Scope) : s.releasePts s.cur sc = s.modCtx s.cur (releaseStamp sc) := by
  unfold State.releasePts
  rw [leader_alone (grp_cur hc ha)]
  rfl

theorem findCtx_releasePts (sc : Scope) : (s.releasePts s.cur sc).findCtx s.cur = some (releaseStamp sc c) := by
  rw [releasePts_alone hc ha]
  exact findCtx_modCtx_self hc fun _ => rfl

theorem findCtx_releasePts_ne (sc : Scope) {j : CtxId} (hj : j ≠ s.cur) : (s.releasePts s.cur sc).findCtx j = s.findCtx j := by
  rw [releasePts_alone hc ha, findCtx_modCtx _ _ _ (by intro; rfl), if_neg hj]

/-- The registers that a trap leaves are the same whether the release came before it or not. -/
theorem flushLongs_releasePts (sc : Scope) : (((s.releasePts s.cur sc).flushLongs s.cur).ctx s.cur).g = ((s.flushLongs s.cur).ctx s.cur).g ∧
    (((s.releasePts s.cur sc).flushLongs s.cur).ctx s.cur).p = ((s.flushLongs s.cur).ctx s.cur).p := by
  obtain ⟨u, hu, hfl⟩ := flush_alone s (grp_cur hc ha)
  have hf : (s.flushLongs s.cur).findCtx s.cur = some { c with g := (u.ctx s.cur).g, p := (u.ctx s.cur).p } := by
    have e : (s.flushLongs s.cur).findCtx s.cur = u.findCtx s.cur := by rw [hfl]; rfl
    rw [e, hu.ctxs, hc, Option.map_some, if_pos rfl]
  rw [releasePts_alone hc ha, flushLongs_modCtx (by intro; rfl) (by intros; rfl) (by intros; rfl) s s.cur (by intro; rfl),
    ctx_modCtx_self hf (by intro; rfl), ctx_of_find hf]
  exact ⟨rfl, rfl⟩

/-- A trap taken behind a release is the trap that the context would have taken before: its timestamps are no part of it. -/
theorem TookTrap.of_releasePts {cause status : Nat} {val pc : Word} {sc : Scope} {t : State}
    (h : TookTrap s.cur cause status val pc (s.releasePts s.cur sc) t) : TookTrap s.cur cause status val pc s t := by
  have hctx := ctx_of_find (findCtx_releasePts hc ha sc)
  have hteam : ((s.releasePts s.cur sc).ctx s.cur).team = (s.ctx s.cur).team := by rw [hctx, ctx_of_find hc]; rfl
  obtain ⟨hg, hp⟩ := flushLongs_releasePts hc ha sc
  obtain ⟨htl, hepc, hcause, heval, hestat, hbank, hpriv, hpc, hready, hregs, hkept, hothers, hwaits, hrest⟩ := h
  rw [hctx] at htl hepc hcause heval hestat hbank hpriv hpc hkept
  rw [hg, hp] at hregs
  obtain rfl := ctx_of_find hc
  exact ⟨htl, hepc, hcause, heval, hestat, hbank, hpriv, hpc, hready, hregs, hkept, fun j hj => (hothers j hj).trans (findCtx_releasePts_ne hc ha sc hj),
    hwaits.trans (leaveBlocks_teams hteam rfl), hrest⟩

theorem Trappable.releasePts (h : Trappable s s.cur) (sc : Scope) : Trappable (s.releasePts s.cur sc) s.cur := by
  have hv := findCtx_releasePts hc ha sc
  have hctx := ctx_of_find hv
  obtain ⟨-, -, booted, level, clean, answered⟩ := h
  rw [ctx_of_find hc] at level
  unfold State.poisonOf at clean
  rw [ctx_of_find hc] at clean
  exact ⟨by rw [hv]; rfl, by rw [hctx]; exact ha, booted, by rw [hctx]; exact level, by rw [State.poisonOf, hctx]; exact clean, answered⟩

theorem traps_of_releasePts {i : Instr} {cause : Nat} {sc : Scope} (h : exec i s = .next ((s.releasePts s.cur sc).trapOpen cause)) :
    Traps i cause s := by
  intro ht
  obtain ⟨v, hv⟩ := tookTrap_trapOpen (s := s.releasePts s.cur sc) (ht.releasePts hc ha sc) cause
  have hpc : ((s.releasePts s.cur sc).ctx s.cur).pc = (s.ctx s.cur).pc := (settled_releasePts _ _ _).pc _
  refine ⟨_, h, v, TookTrap.of_releasePts (sc := sc) hc ha ?_⟩
  rw [← hpc]
  exact hv

end

/-! ### Task records -/

theorem find?_map_if {α : Type} {p : α → Bool} {q : α → Prop} (hq : ∀ x, p x = true ↔ q x) (dec : ∀ x, Decidable (q x)) {f : α → α} (hf : ∀ x, p (f x) = p x) (l : List α) :
    (l.map fun x => @ite _ (q x) (dec x) (f x) x).find? p = (l.find? p).map f := by
  have e : p ∘ (fun x => @ite _ (q x) (dec x) (f x) x) = p := by
    funext x
    simp only [Function.comp]
    split <;> simp [hf]
  rw [List.find?_map, e]
  cases h : l.find? p with
  | none => rfl
  | some x => rw [Option.map_some, Option.map_some, if_pos ((hq x).mp (List.find?_some h))]

/-- What a decrement leaves of a record. -/
def decremented (k : Task) : Task := { k with counter := k.counter - 1, st := if k.counter = 1 then .ready else .loaded }

theorem decTask_loaded {ts : List Task} {part i : Nat} {k : Task} (hk : ts.find? (fun t => decide (t.part = part ∧ t.idx = i)) = some k)
    (hl : k.st = .loaded) (h0 : 0 < k.counter) :
    ∃ us, decTask ts part i = (true, us) ∧ us.find? (fun t => decide (t.part = part ∧ t.idx = i)) = some (decremented k) := by
  refine ⟨ts.map fun u => if u.part = part ∧ u.idx = i then decremented u else u, by simp only [decTask, hk, hl, h0, and_self, if_true]; rfl, ?_⟩
  refine (find?_map_if (f := decremented) (by simp) (fun _ => inferInstance) (by intro; rfl) ts).trans ?_
  rw [hk, Option.map_some]

theorem decTask_refused {ts : List Task} {part i : Nat} {k : Task} (hk : ts.find? (fun t => decide (t.part = part ∧ t.idx = i)) = some k)
    (h : k.st ≠ .loaded ∨ k.counter = 0) : decTask ts part i = (false, ts) := by
  have hn : ¬ (k.st = .loaded ∧ 0 < k.counter) := fun ⟨hl, h0⟩ => h.elim (fun n => n hl) fun z => h0.ne' z
  simp only [decTask, hk, hn, if_false]

/-- A record that is loaded stands in the table from then on. -/
theorem task_of_loaded {s v : State} {p : Partition} {i : Nat} {dom : BitVec 12} {ck : Option (BitVec 64 × Nat × Nat)}
    (h : s.loadTask p i dom ck = (0, v)) : (v.task p.num i).isSome := by
  unfold State.loadTask at h
  split at h
  · cases h
  · split at h
    · cases h
    · dsimp only at h
      split at h
      · cases h
      · cases h
      · split at h
        · cases h
          simp only [State.task, State.putTasks, State.modPart, List.find?_append, List.find?_singleton, and_self, decide_true, if_true]
          cases List.find? _ _ <;> rfl
        · cases h

/-! ### `tsk.done` and `tsk.submit` -/

section
variable {s : State} {c : Ctx} {p : Partition} {a : Reg} (hc : s.findCtx s.cur = some c) (sm : Bool) (d : Reg)
include hc

theorem tsk_beyond (ha : c.grp = none) (hi : 4096 ≤ (s.rg s.cur a).toNat) :
    Runs (.tskDone sm a d) s (Owes (oneLate s d 1 none) sm (c.pc + 4) s) ∧ Runs (.tskSubmit sm a d) s (Owes (oneLate s d 1 none) sm (c.pc + 4) s) := by
  have hg := grp_cur hc ha
  have howes := owes_longOnce_alone hg sm d 1
  rw [ctx_of_find hc] at howes
  constructor
  all_goals exact ⟨_, (onCtx_some hc _).trans (by simp only [lowest_alone (groupOf_alone hg), hi, if_true]), howes⟩

variable (h : Quiet s) (hp : s.partOf s.cur.cl = some p) (hi : (s.rg s.cur a).toNat < 4096)
include h hp hi

omit hp hi in
theorem quiet_grp : c.grp = none := by rw [← ctx_of_find hc]; exact h.alone

theorem tskDone_counts {k : Task} (hk : s.task p.num (s.rg s.cur a).toNat = some k) (hl : k.st = .loaded) (h0 : 0 < k.counter) :
    Runs (.tskDone sm a d) s fun t => ∃ u, Settled s u ∧
      (t.task p.num (s.rg s.cur a).toNat).map (fun x => (x.counter, x.st)) = some (k.counter - 1, if k.counter = 1 then .ready else .loaded) ∧
      Owes (oneLate s d 0 none) sm (c.pc + 4) { u with tasks := t.tasks, parts := t.parts } t := by
  obtain ⟨us, hus, hfound⟩ := decTask_loaded hk hl h0
  have hs := settled_releasePts s s.cur .dev
  have hx : exec (.tskDone sm a d) s = .next (((s.releasePts s.cur .dev).putTasks p.num us).longOnce sm d 0) := by
    refine (onCtx_some hc _).trans ?_
    have hp' : (s.releasePts s.cur .dev).partOf s.cur.cl = some p := hp
    have hus' : decTask (s.releasePts s.cur .dev).tasks p.num (s.rg s.cur a).toNat = (true, us) := hus
    simp only [lowest_alone (groupOf_alone h.alone), Nat.not_le.2 hi, if_false, h.releaseThen (sc := .dev) nofun, hs.cur, hp', hus']
  have hg : (((s.releasePts s.cur .dev).putTasks p.num us).ctx s.cur).grp = none := (hs.grp _).trans h.alone
  have hpc : ((s.releasePts s.cur .dev).ctx s.cur).pc = c.pc := by rw [hs.pc, ctx_of_find hc]
  have howes := owes_longOnce_alone (s := (s.releasePts s.cur .dev).putTasks p.num us) hg sm d 0
  refine ⟨_, hx, _, hs, ?_, ?_⟩
  · have htasks : (((s.releasePts s.cur .dev).putTasks p.num us).longOnce sm d 0).tasks = us := by rw [howes.rest]; rfl
    rw [State.task, htasks, hfound]
    rfl
  · rw [← hpc]
    generalize ((s.releasePts s.cur .dev).putTasks p.num us).longOnce sm d 0 = t at howes
    have e : { s.releasePts s.cur .dev with tasks := t.tasks, parts := t.parts } = (s.releasePts s.cur .dev).putTasks p.num us := by
      rw [howes.rest]; rfl
    rw [e]
    exact howes

theorem tskDone_underflows {k : Task} (hk : s.task p.num (s.rg s.cur a).toNat = some k) (hl : k.st ≠ .loaded ∨ k.counter = 0) :
    Traps (.tskDone sm a d) cTASK_UNDERFLOW s := by
  refine traps_of_releasePts (sc := .dev) hc (quiet_grp hc h) ((onCtx_some hc _).trans ?_)
  have hp' : (s.releasePts s.cur .dev).partOf s.cur.cl = some p := hp
  have hus' : decTask (s.releasePts s.cur .dev).tasks p.num (s.rg s.cur a).toNat = (false, s.tasks) := decTask_refused hk hl
  simp only [lowest_alone (groupOf_alone h.alone), Nat.not_le.2 hi, if_false, h.releaseThen (sc := .dev) nofun,
    (settled_releasePts s s.cur .dev).cur, hp', hus']

/-- A submission answers what loading the record answers. -/
theorem exec_tskSubmit {st : Nat} {v : State} (hv : (s.releasePts s.cur .dev).loadTask p (s.rg s.cur a).toNat c.domain none = (st, v)) :
    exec (.tskSubmit sm a d) s = .next (v.longOnce sm d (BitVec.ofNat 64 st)) := by
  have hs := settled_releasePts s s.cur .dev
  have hg : ((s.releasePts s.cur .dev).ctx s.cur).grp = none := (hs.grp _).trans h.alone
  have hp' : (s.releasePts s.cur .dev).partOf s.cur.cl = some p := hp
  have hdom : ((s.releasePts s.cur .dev).ctx s.cur).domain = c.domain := by
    rw [ctx_of_find (findCtx_releasePts hc (quiet_grp hc h) .dev)]; rfl
  refine (onCtx_some hc _).trans ?_
  simp only [lowest_alone (groupOf_alone h.alone), lowest_alone (groupOf_alone hg), Nat.not_le.2 hi, if_false, h.releaseThen (sc := .dev) nofun,
    hs.cur, hp', hdom, hv]

theorem tskSubmit_loaded_before {k : Task} (hk : s.task p.num (s.rg s.cur a).toNat = some k) :
    Runs (.tskSubmit sm a d) s fun t => ∃ u, Settled s u ∧ Owes (oneLate s d 2 none) sm (c.pc + 4) u t := by
  have hs := settled_releasePts s s.cur .dev
  have hv : (s.releasePts s.cur .dev).loadTask p (s.rg s.cur a).toNat c.domain none = (2, s.releasePts s.cur .dev) := by
    have hk' : ((s.releasePts s.cur .dev).task p.num (s.rg s.cur a).toNat).isSome = true := by
      rw [show (s.releasePts s.cur .dev).task p.num (s.rg s.cur a).toNat = some k from hk]; rfl
    rw [State.loadTask, if_pos hk']
  have howes := owes_longOnce_alone (s := s.releasePts s.cur .dev) ((hs.grp _).trans h.alone) sm d 2
  rw [hs.cur, hs.pc, ctx_of_find hc] at howes
  exact ⟨_, exec_tskSubmit hc sm d h hp hi hv, _, hs, howes⟩

theorem tskSubmit_loads {u v : State} {o : Ctx} (hu : s.release s.cur .dev = (true, u)) (hv : u.loadTask p (s.rg s.cur a).toNat c.domain none = (0, v))
    (ho : v.findCtx v.cur = some o) (hg : o.grp = none) :
    Runs (.tskSubmit sm a d) s fun t => (t.task p.num (s.rg s.cur a).toNat).isSome ∧ Owes (oneLate v d 0 none) sm (o.pc + 4) v t := by
  rw [h.release (sc := .dev) nofun] at hu
  obtain rfl : s.releasePts s.cur .dev = u := congrArg Prod.snd hu
  have howes := owes_longOnce_alone (grp_cur ho hg) sm d 0
  rw [ctx_of_find ho] at howes
  refine ⟨_, exec_tskSubmit hc sm d h hp hi hv, ?_, howes⟩
  have htasks : (v.longOnce sm d 0).tasks = v.tasks := by rw [howes.rest]
  rw [State.task, show (v.longOnce sm d (BitVec.ofNat 64 0)).tasks = v.tasks from htasks]
  exact task_of_loaded hv

end

/-- Settles O32: each case of the two instructions. -/
theorem taskInstructions : Obligations.TaskInstructions := by
  intro s c p k sm a d hc hp i
  refine ⟨tsk_beyond hc sm d, fun h hi hk => ⟨tskDone_counts hc sm d h hp hi hk, tskDone_underflows hc sm d h hp hi hk,
    tskSubmit_loaded_before hc sm d h hp hi hk⟩, fun u v o h hi => tskSubmit_loads hc sm d h hp hi⟩

end Sys2Proof.Machine
end

section
/-! Work queues (O31). -/
namespace Sys2Proof.Machine

/-! ### The shape and the tile that a queue hands out (R62, R63) -/

/-- The greatest member of an ascending list is its last. -/
theorem getLast?_of_greatest {l : List Nat} (hs : l.Pairwise (· < ·)) {i : Nat} (hi : i ∈ l) (hmax : ∀ j ∈ l, j ≤ i) : l.getLast? = some i := by
  have hne : l ≠ [] := List.ne_nil_of_mem hi
  have hle : i ≤ l.getLast hne := (hs.imp Nat.le_of_lt).rel_getLast hi
  rw [List.getLast?_eq_some_getLast hne, Nat.le_antisymm (hmax _ (List.getLast_mem hne)) hle]

theorem wqShape_eq {menu : List (Nat × Nat)} {rem i h x : Nat} (hi : menu[i]? = some (h, x)) (hfit : h ≤ rem ∨ i = 0)
    (hmax : ∀ j y, menu[j]? = some y → y.1 ≤ rem → j ≤ i) : wqShape menu rem = i := by
  have hmem : ∀ j, j ∈ (List.range menu.length).filter (fun i => decide (((menu[i]?).getD (0, 0)).1 ≤ rem)) → ∃ y, menu[j]? = some y ∧ y.1 ≤ rem := by
    intro j hj
    obtain ⟨hlt, hle⟩ := List.mem_filter.mp hj
    have hy := List.getElem?_eq_getElem (List.mem_range.mp hlt)
    exact ⟨_, hy, by simpa [hy] using hle⟩
  by_cases hle : h ≤ rem
  · have hin : i ∈ (List.range menu.length).filter (fun i => decide (((menu[i]?).getD (0, 0)).1 ≤ rem)) :=
      List.mem_filter.mpr ⟨List.mem_range.mpr (List.getElem?_eq_some_iff.mp hi).1, by simpa [hi] using hle⟩
    rw [wqShape, getLast?_of_greatest (List.pairwise_lt_range.filter _) hin fun j hj => ?_]
    · rfl
    · obtain ⟨y, hy, hyr⟩ := hmem j hj
      exact hmax j y hy hyr
  · obtain rfl : i = 0 := hfit.resolve_left hle
    have hnil : (List.range menu.length).filter (fun i => decide (((menu[i]?).getD (0, 0)).1 ≤ rem)) = [] := by
      refine List.eq_nil_iff_forall_not_mem.mpr fun j hj => ?_
      obtain ⟨y, hy, hyr⟩ := hmem j hj
      obtain rfl : j = 0 := Nat.le_zero.mp (hmax j y hy hyr)
      rw [hi] at hy
      cases hy
      exact hle hyr
    rw [wqShape, hnil]
    rfl

/-- The segment search of the model is that of the specification. -/
theorem nextSeg_eq (counts : List Nat) (i : Nat) {f : Nat → Bool} (hf : ∀ j, f j = (decide (i ≤ j) && decide (0 < (counts[j]?).getD 0))) :
    nextSeg counts i = ((List.range counts.length).find? f).map fun j => (j, (counts.take j).sum, (counts[j]?).getD 0) := by
  rw [nextSeg, show f = _ from funext hf]

/-- The queue behind its segment's last row goes to the next segment with rows, to the next batch, or is done. -/
theorem wqSeek_empty (q : WQ) (h : q.rem = 0) : match nextSeg q.counts (q.seg + 1), nextSeg q.counts 0 with
    | some (i, before, n), _ => wqSeek q = { q with seg := i, row := before, rem := n, col := 0 }
    | none, some (i, before, n) =>
      if q.b + 1 < q.batches then wqSeek q = { q with b := q.b + 1, seg := i, row := before, rem := n, col := 0 } else (wqSeek q).done = true
    | none, none => (wqSeek q).done = true := by
  rw [nextSeg_eq q.counts (q.seg + 1) (f := fun i => decide (q.seg < i) && decide (0 < (q.counts[i]?).getD 0)) fun _ => rfl,
    nextSeg_eq q.counts 0 (f := fun i => decide (0 < (q.counts[i]?).getD 0)) fun _ => by simp]
  have h0 : ¬ 0 < q.rem := by omega
  unfold wqSeek
  rw [if_neg h0]
  cases (List.range q.counts.length).find? fun i => decide (q.seg < i) && decide (0 < (q.counts[i]?).getD 0) with
  | some i => rfl
  | none =>
    cases (List.range q.counts.length).find? fun i => decide (0 < (q.counts[i]?).getD 0) with
    | some i =>
      simp only [Option.map_none, Option.map_some]
      split <;> rfl
    | none =>
      simp only [Option.map_none]
      split <;> rfl

/-- The queue behind a tile of the shape h by x. -/
def wqAfter (q : WQ) (h x : Nat) : WQ :=
  if q.col + x < q.e0 then { q with col := q.col + x } else wqSeek { q with col := 0, row := q.row + min h q.rem, rem := q.rem - min h q.rem }

theorem wqBehind_wqAfter (q : WQ) (h x : Nat) : wqBehind q h x (wqAfter q h x) := by
  unfold wqBehind wqAfter
  split
  · rfl
  · split
    next hlt =>
      have hmin : min h q.rem = h := by omega
      rw [hmin, wqSeek, if_pos (by simp only; omega)]
    next hge =>
      have hrem : q.rem - min h q.rem = 0 := by omega
      have hs := wqSeek_empty { q with col := 0, row := q.row + min h q.rem, rem := q.rem - min h q.rem } hrem
      exact hs

/-- The handout word of a tile (R63). -/
def wqWord (q : WQ) (i h x : Nat) : Word :=
  BitVec.ofNat 64 (q.row % 2 ^ 20 + q.col % 2 ^ 16 * 2 ^ 20 + (min h q.rem - 1) % 256 * 2 ^ 36 + (min x (q.e0 - q.col) - 1) % 256 * 2 ^ 44 +
    i % 4 * 2 ^ 52 + q.b % 1024 * 2 ^ 54)

theorem wqTake_eq {q : WQ} {i h x : Nat} (hd : q.done = false) (hk : wqShape q.menu q.rem = i) (hi : q.menu[i]? = some (h, x)) :
    wqTake q = some (wqWord q i h x, wqAfter q h x) := by
  cases q
  cases hd
  simp only [wqTake, Bool.false_eq_true, if_false, hk, hi, Option.getD_some]
  rfl

theorem wqWord_fields (q : WQ) (i h x : Nat) : let w := (wqWord q i h x).toNat
    w % 2 ^ 20 = q.row % 2 ^ 20 ∧ w / 2 ^ 20 % 2 ^ 16 = q.col % 2 ^ 16 ∧ w / 2 ^ 36 % 256 = (min h q.rem - 1) % 256 ∧
      w / 2 ^ 44 % 256 = (min x (q.e0 - q.col) - 1) % 256 ∧ w / 2 ^ 52 % 4 = i % 4 ∧ w / 2 ^ 54 = q.b % 1024 := by
  intro w
  have hw : w = (wqWord q i h x).toNat := rfl
  rw [wqWord, BitVec.toNat_ofNat] at hw
  generalize min h q.rem - 1 = rows at hw ⊢
  generalize min x (q.e0 - q.col) - 1 = cols at hw ⊢
  omega

/-- What `wq.init` sets up stands at its first tile. -/
theorem wqParse_first {blk : List Byte} {counts : Option (List Nat)} {q : WQ} (h : wqParse blk counts = some q) :
    match nextSeg q.counts 0 with
    | some (i, before, n) => q.done = false ∧ q.b = 0 ∧ q.seg = i ∧ q.row = before ∧ q.rem = n ∧ q.col = 0
    | none => q.done = true := by
  unfold wqParse at h
  dsimp only at h
  split at h
  case isFalse => cases h
  rw [Option.some.injEq] at h
  subst h
  generalize counts.getD _ = cs
  have hcounts : ∀ e n m, (wqStart e n m cs).counts = cs := by
    intro e n m
    unfold wqStart
    split <;> rfl
  rw [hcounts, nextSeg_eq cs 0 (f := fun i => decide (0 < (cs[i]?).getD 0)) fun _ => by simp]
  unfold wqStart
  cases hf : (List.range cs.length).find? fun i => decide (0 < (cs[i]?).getD 0) with
  | none => rfl
  | some i =>
    refine ⟨rfl, rfl, rfl, (List.sum_eq_zero fun n hn => ?_).symm, rfl, rfl⟩
    obtain ⟨j, hj⟩ := List.mem_iff_getElem?.mp hn
    obtain ⟨-, -, hbefore⟩ := List.find?_range_eq_some.mp hf
    rw [List.getElem?_take] at hj
    split at hj
    next hlt => simpa [hj] using hbefore j hlt
    next => cases hj

/-- Where `wq.init` reads a queue, its block has set one up. -/
theorem wqRead_parsed {s : State} {w : Who} {m : Team} {a b : Nat} {q : WQ} (h : s.wqRead w m a b = .ok (some q)) :
    ∃ blk counts, wqParse blk counts = some q := by
  unfold State.wqRead at h
  split at h
  · cases h
  · split at h
    · cases h
    · split at h
      · cases h
      · split at h
        · exact ⟨_, _, Except.ok.inj h⟩
        · split at h
          · cases h
          · split at h
            · cases h
            · dsimp only at h
              split at h
              · cases h
              · split at h
                · cases h
                · exact ⟨_, _, Except.ok.inj h⟩

/-! ### The team's queue, and the answers -/

theorem wqTeam_team {s : State} {m : Team} (hm : s.teamOf s.cur = some m) (k : Nat) : s.wqTeam k = if k < m.wqs.length then some m else none := by
  rw [State.wqTeam, hm]
  simp [Option.filter]

theorem settled_settleOwnLs (s : State) (a : CtxId) : Settled s (s.settleOwnLs a) := by
  unfold State.settleOwnLs
  exact (settled_drainWrites _ _).trans (settled_drainReds _ _)

/-- A team is found after settling, with all but its counters as before. -/
theorem Settled.team {s t : State} (h : Settled s t) (cl num : Nat) :
    (t.team cl num).map (fun m => { m with stats := [] }) = (s.team cl num).map fun m => { m with stats := [] } := by
  have hfind : ∀ l : List Team, (l.find? fun m => decide (m.cl = cl ∧ m.num = num)).map (fun m => { m with stats := [] }) =
      (l.map fun m => { m with stats := [] }).find? fun m => decide (m.cl = cl ∧ m.num = num) := fun l => by rw [List.find?_map]; rfl
  unfold State.team
  rw [hfind, hfind, h.teams]

/-- The state in which an instruction owes its results need only be named up to the teams that it leaves. -/
theorem Owes.of_teams {late : List Long} {sm : Bool} {pc : Word} {u v t : State} (h : Owes late sm pc v t) (hv : v = { u with teams := v.teams }) :
    Owes late sm pc { u with teams := t.teams } t := by
  have ht : t.teams = v.teams := by rw [h.rest]
  rw [ht, ← hv]
  exact h

/-- A predicate and a register that a context alone is answered with. -/
theorem owes_longPs_longOnce_alone {s : State} (ha : (s.ctx s.cur).grp = none) (sm : Bool) (d : Reg) {n : PReg} (hn : n ≠ 0) (more : Bool) (v : Word) :
    Owes ({ dst := s.cur, dest := .p n, val := if more then 1 else 0 } :: oneLate s d v none) sm ((s.ctx s.cur).pc + 4) s
      ((s.addLongPs n ((s.lanes s.cur).map fun i => (i, more))).longOnce sm d v) := by
  rw [addLongPs_eq s n fun _ => more, lateOfPred, if_neg hn, lanes_alone (groupOf_alone ha)]
  exact Owes.append (first := [_]) (owes_longOnce_alone (s := { s with longs := s.longs ++ [_] }) ha sm d v)

/-! ### `wq.init` and `wq.next` -/

section
variable {s : State} {c : Ctx} {m : Team} (hc : s.findCtx s.cur = some c) (ha : c.grp = none) (hm : s.teamOf s.cur = some m) (sm : Bool)
  (a b d : Reg) {k : Fin 4}

theorem team_setWq {u : State} {o : Team} (ho : u.team m.cl m.num = some o) (j : Nat) (q : WQ) :
    (u.setWq m j q).team m.cl m.num = some { o with wqs := o.wqs.mapIdx fun i x => if i = j then q else x } :=
  team_modTeam ho _ (fun _ => rfl) fun _ => rfl

include hm

theorem wq_traps (n : PReg) (hk : m.wqs.length ≤ k.val) : Traps (.wqInit sm a b d k) cILLEGAL s ∧ Traps (.wqNext sm d n k) cILLEGAL s := by
  constructor
  all_goals exact traps_of fun c hc => (onCtx_some hc _).trans (by simp only [wqTeam_team hm, Nat.not_lt.2 hk, if_false])

include hc ha

/-- `wq.init` leaves the queue that it reads, or an empty one, in the team's slot. -/
theorem wqInit_sets (hk : k.val < m.wqs.length) {r : Option WQ} (hr : (s.settleOwnLs s.cur).wqRead (whoOf ((s.settleOwnLs s.cur).ctx s.cur)) m
      ((s.settleOwnLs s.cur).rg s.cur a).toNat ((s.settleOwnLs s.cur).rg s.cur b).toNat = .ok r) :
    Runs (.wqInit sm a b d k) s fun t =>
      (∃ o, (s.settleOwnLs s.cur).team m.cl m.num = some o ∧
        t.team m.cl m.num = some { o with wqs := o.wqs.mapIdx fun i x => if i = k.val then r.getD {} else x }) ∧
      Owes (oneLate s d (if r.isSome then 0 else 1) none) sm (c.pc + 4) { s.settleOwnLs s.cur with teams := t.teams } t := by
  have hg := grp_cur hc ha
  have hs := settled_settleOwnLs s s.cur
  have hx : exec (.wqInit sm a b d k) s =
      .next (((s.settleOwnLs s.cur).setWq m k.val (r.getD {})).longOnce sm d (if r.isSome then 0 else 1)) := by
    refine (onCtx_some hc _).trans ?_
    cases r <;> simp only [wqTeam_team hm, if_pos hk, lowest_alone (groupOf_alone hg), hr] <;> rfl
  generalize s.settleOwnLs s.cur = u at hs hx ⊢
  have hpc : (u.ctx u.cur).pc = c.pc := by rw [hs.pc, hs.cur, ctx_of_find hc]
  have howes := owes_longOnce_alone (s := u.setWq m k.val (r.getD {})) (by
    show (u.ctx u.cur).grp = none
    rw [hs.grp, hs.cur, hg]) sm d (if r.isSome then 0 else 1)
  refine ⟨_, hx, ?_, ?_⟩
  · obtain ⟨o, ho⟩ : ∃ o, u.team m.cl m.num = some o := by
      have h := hs.team m.cl m.num
      rw [team_of_teamOf hm] at h
      obtain ⟨o, ho, -⟩ := Option.map_eq_some_iff.mp h
      exact ⟨o, ho⟩
    have ht : (((u.setWq m k.val (r.getD {})).longOnce sm d (if r.isSome then 0 else 1))).teams = (u.setWq m k.val (r.getD {})).teams := by
      rw [howes.rest]
    refine ⟨o, ho, ?_⟩
    rw [State.team, ht]
    exact team_setWq ho k.val _
  · have hlate : oneLate s d (if r.isSome then 0 else 1) none = oneLate u d (if r.isSome then 0 else 1) none := by rw [oneLate, oneLate, hs.cur]
    have := howes.of_teams (u := u) rfl
    rw [← hpc, hlate]
    exact this

theorem wqNext_done {n : PReg} (hn : n ≠ 0) (hk : k.val < m.wqs.length) (hd : ((m.wqs[k.val]?).getD {}).done = true) :
    Runs (.wqNext sm d n k) s (Owes ({ dst := s.cur, dest := .p n, val := 0 } :: oneLate s d 0 none) sm (c.pc + 4) s) := by
  have hg := grp_cur hc ha
  have howes := owes_longPs_longOnce_alone hg sm d hn false 0
  rw [ctx_of_find hc] at howes
  refine ⟨_, (onCtx_some hc _).trans ?_, howes⟩
  simp only [wqTeam_team hm, if_pos hk, wqTake, hd, if_true]

theorem wqNext_takes {n : PReg} (hn : n ≠ 0) {q q' : WQ} {w : Word} (hq : m.wqs[k.val]? = some q) (ht : wqTake q = some (w, q')) :
    Runs (.wqNext sm d n k) s fun t =>
      (∃ o, s.team m.cl m.num = some o ∧ t.team m.cl m.num = some { o with wqs := o.wqs.mapIdx fun i x => if i = k.val then q' else x }) ∧
      Owes ({ dst := s.cur, dest := .p n, val := 1 } :: oneLate s d w none) sm (c.pc + 4) { s with teams := t.teams } t := by
  have hg := grp_cur hc ha
  have hk : k.val < m.wqs.length := (List.getElem?_eq_some_iff.mp hq).1
  have hx : exec (.wqNext sm d n k) s =
      .next (((s.setWq m k.val q').addLongPs n (((s.setWq m k.val q').lanes (s.setWq m k.val q').cur).map fun i => (i, true))).longOnce sm d w) := by
    refine (onCtx_some hc _).trans ?_
    simp only [wqTeam_team hm, if_pos hk, hq, Option.getD_some, ht]
    rfl
  have howes := owes_longPs_longOnce_alone (s := s.setWq m k.val q') hg sm d hn true w
  refine ⟨_, hx, ⟨m, team_of_teamOf hm, ?_⟩, ?_⟩
  · rw [State.team, howes.rest]
    exact team_setWq (team_of_teamOf hm) k.val q'
  · have := howes.of_teams (u := s) rfl
    rw [← ctx_of_find hc]
    exact this

end

/-- Settles O31: what `wq.init` reads and leaves, and what `wq.next` takes. -/
theorem workQueues : Obligations.WorkQueues := by
  intro s c m sm a b d n k hc ha hm hn u setTo late
  refine ⟨fun hk q hq => ⟨?_, ?_⟩, fun hk hr => wqInit_sets hc ha hm sm a b d hk hr, fun hk hd => wqNext_done hc ha hm sm d hn hk hd,
    fun q i h x hq hd hi hfit hmax => ?_, wq_traps hm sm a b d n⟩
  · obtain ⟨blk, counts, hp⟩ := wqRead_parsed hq
    exact wqParse_first hp
  · obtain ⟨t, ht, hset, howes⟩ := wqInit_sets hc ha hm sm a b d hk hq
    exact ⟨t, ht, hset, settled_settleOwnLs s s.cur, howes⟩
  · have hk := wqShape_eq hi hfit hmax
    obtain ⟨t, ht, hset, howes⟩ := wqNext_takes hc ha hm sm d hn hq (wqTake_eq hd hk hi)
    exact ⟨t, ht, _, _, wqBehind_wqAfter q h x, hset, howes, wqWord_fields q i h x⟩

end Sys2Proof.Machine
end

section
/-! Barriers and waits of a context that runs alone (O23). -/
namespace Sys2Proof.Machine

/-! ### Waits on counters, tags and NOTICE (R153, R154, R223 to R225) -/

theorem lateSeen_rest (s : State) (l : Late) : s.lateSeen l = { s with ctxs := (s.lateSeen l).ctxs } := by
  unfold State.lateSeen
  split
  · split <;> rfl
  · rfl

theorem foldl_lateSeen_rest : ∀ (ls : List Late) (s : State), ls.foldl State.lateSeen s = { s with ctxs := (ls.foldl State.lateSeen s).ctxs }
  | [], _ => rfl
  | l :: r, s => (foldl_lateSeen_rest r (s.lateSeen l)).trans (by
      rw [List.foldl_cons]
      generalize (r.foldl State.lateSeen (s.lateSeen l)).ctxs = x
      rw [lateSeen_rest])

/-- Late loads that read their bytes now change contexts and what is outstanding alone. -/
theorem settleLate_rest (s : State) (f : Late → Bool) :
    s.settleLate f = { s with ctxs := (s.settleLate f).ctxs, longs := (s.settleLate f).longs } := by
  unfold State.settleLate
  dsimp only
  have h := foldl_lateSeen_rest ((s.longs.filterMap Long.late).filter f) { s with longs := s.longs.map fun l => match l.late with
    | some t => if f t then { l with val := s.readLate t, late := none } else l
    | none => l }
  generalize ((s.longs.filterMap Long.late).filter f).foldl State.lateSeen _ = u at h ⊢
  have hl := congrArg State.longs h
  rw [hl]
  exact h

theorem acquireLocal_rest (s : State) (a : CtxId) :
    s.acquireLocal a = { s with ctxs := (s.acquireLocal a).ctxs, longs := (s.acquireLocal a).longs } := by
  unfold State.acquireLocal State.raisePts State.modCtx
  rw [settleLate_rest]

theorem clsOf_eq (k : Fin 4) : clsOf k.val = if k = 0 then Cls.occ else if k = 1 then .ocm else if k = 2 then .ocg else .ocl := by
  revert k; decide

theorem lowBit_le (w : Word) : lowBit w ≤ 64 := by
  unfold lowBit
  cases h : (List.range 64).find? fun i => w.getLsbD i with
  | none => rfl
  | some i => exact (List.mem_range.mp (List.mem_of_find?_eq_some h)).le

/-- Below the lowest set bit all are clear. -/
theorem getLsbD_below_lowBit {w : Word} {i : Nat} (hi : i < lowBit w) : w.getLsbD i = false := by
  have h64 := hi.trans_le (lowBit_le w)
  unfold lowBit at hi
  cases h : (List.range 64).find? fun i => w.getLsbD i with
  | none => simpa using List.find?_eq_none.mp h i (List.mem_range.mpr h64)
  | some j =>
    rw [h] at hi
    simpa using (List.find?_range_eq_some.mp h).2.2 i hi

theorem getLsbD_lowBit {w : Word} (h : lowBit w < 64) : w.getLsbD (lowBit w) = true := by
  unfold lowBit at h ⊢
  cases hf : (List.range 64).find? fun i => w.getLsbD i with
  | none => rw [hf] at h; exact absurd h (by decide)
  | some i => exact List.find?_some hf

section
variable {s : State} {c : Ctx} (hc : s.findCtx s.cur = some c) (ha : c.grp = none) (sm : Bool)
include hc ha

omit ha in
/-- Going on behind an acquire at GRP scope. -/
theorem ends_acquireLocal : ∃ u, Settled s u ∧ u.mem = s.mem ∧ u.ls = s.ls ∧ Owes [] sm (c.pc + 4) u ((s.acquireLocal s.cur).retire sm) := by
  have hs := settled_acquireLocal s s.cur
  have howes := owes_retire (s.acquireLocal s.cur) sm
  rw [hs.pc, hs.cur, ctx_of_find hc] at howes
  refine ⟨_, hs, ?_, ?_, howes⟩
  all_goals rw [acquireLocal_rest]

omit ha in
theorem waitCnt_ends {n : BitVec 10} {k : Fin 4} (h : s.count s.cur (clsOf k.val) ≤ n.toNat) :
    Runs (.waitCnt sm n k) s fun t => ∃ u, Settled s u ∧ u.mem = s.mem ∧ u.ls = s.ls ∧ Owes [] sm (c.pc + 4) u t :=
  ⟨_, (onCtx_some hc _).trans (by rw [if_pos h]), ends_acquireLocal hc sm⟩

omit ha in
theorem waitCnt_waits {n : BitVec 10} {k : Fin 4} (h : n.toNat < s.count s.cur (clsOf k.val)) :
    Runs (.waitCnt sm n k) s fun t => t = s.waitFor (.cnt (clsOf k.val) n.toNat) :=
  ⟨_, (onCtx_some hc _).trans (by rw [if_neg (Nat.not_le.2 h)]), rfl⟩

/-- A tag wait whose condition holds ends. -/
theorem tagWait_ends {a : Reg} {wait : Word → Wait} {ok : Word → Word → Bool} (h : ok c.arrived (s.rg s.cur a) = true) :
    ∃ t, tagWait s sm a wait ok = .next t ∧ ∃ u, Settled s u ∧ u.mem = s.mem ∧ u.ls = s.ls ∧ Owes [] sm (c.pc + 4) u t := by
  refine ⟨_, onCtx_some hc _, ?_⟩
  simp only [lanes_alone (groupOf_alone (grp_cur hc ha)), List.map_cons, List.map_nil, List.find?_cons, List.find?_nil, h, Bool.not_true, List.all_cons,
    List.all_nil, Bool.and_true]
  split
  · have howes := owes_retire s sm
    rw [ctx_of_find hc] at howes
    exact ⟨s, Settled.refl s, rfl, rfl, howes⟩
  · exact ends_acquireLocal hc sm

/-- A tag wait whose condition does not hold waits. -/
theorem tagWait_waits {a : Reg} {wait : Word → Wait} {ok : Word → Word → Bool} (h : ok c.arrived (s.rg s.cur a) = false) :
    ∃ t, tagWait s sm a wait ok = .next t ∧ t = s.waitFor (wait (s.rg s.cur a)) := by
  refine ⟨_, onCtx_some hc _, ?_⟩
  simp only [lanes_alone (groupOf_alone (grp_cur hc ha)), List.map_cons, List.map_nil, List.find?_cons, h, Bool.not_false]

theorem tagFfr_finds (d a : Reg) : Runs (.tagFfr sm d a) s fun t => ∃ u, Settled s u ∧ u.mem = s.mem ∧ u.ls = s.ls ∧
    Owes (oneLate s d (BitVec.ofNat 64 (lowBit (c.arrived &&& s.rg s.cur a))) none) sm (c.pc + 4) u t := by
  have hg := grp_cur hc ha
  have hany : ((s.lanes s.cur).any fun i => c.arrived &&& s.rg i a != 0) = (c.arrived &&& s.rg s.cur a != 0) := by
    rw [lanes_alone (groupOf_alone hg), List.any_cons, List.any_nil, Bool.or_false]
  have hlate : ∀ {u : State}, Settled s u → Owes (oneLate s d (BitVec.ofNat 64 (lowBit (c.arrived &&& s.rg s.cur a))) none) sm (c.pc + 4) u
      (u.longR sm d fun i => BitVec.ofNat 64 (lowBit (c.arrived &&& u.rg i a))) := by
    intro u hs
    have howes := owes_longR u sm d fun i => BitVec.ofNat 64 (lowBit (c.arrived &&& u.rg i a))
    rw [lateOf_alone (by rw [hs.grp, hs.cur, hg]), hs.pc, hs.cur, ctx_of_find hc, hs.rg] at howes
    rw [oneLate, ← hs.cur] at howes ⊢
    exact howes
  by_cases hz : (c.arrived &&& s.rg s.cur a != 0) = true
  · have hs := settled_acquireLocal s s.cur
    refine ⟨_, (onCtx_some hc _).trans (by rw [hany, if_pos hz]), _, hs, ?_, ?_, hlate hs⟩
    all_goals rw [acquireLocal_rest]
  · exact ⟨_, (onCtx_some hc _).trans (by rw [hany, if_neg hz]), s, Settled.refl s, rfl, rfl, hlate (Settled.refl s)⟩

theorem tagClr_clears (a : Reg) : Runs (.tagClr sm a) s fun t => t = { s with ctxs := t.ctxs } ∧ t.cur = s.cur ∧ ∀ id, t.findCtx id =
    (s.findCtx id).map fun o => if id = s.cur then { wentOn sm (c.pc + 4) t o with arrived := o.arrived &&& ~~~s.rg s.cur a } else o := by
  have hx : exec (.tagClr sm a) s = .next ((s.modCtx s.cur fun c => { c with arrived := c.arrived &&& ~~~s.rg s.cur a }).retire sm) := by
    have h0 : (0 : Word) ||| s.rg s.cur a = s.rg s.cur a := BitVec.zero_or
    refine (onCtx_some hc _).trans ?_
    simp only [lanes_alone (groupOf_alone (grp_cur hc ha)), List.map_cons, List.map_nil, List.foldl_cons, List.foldl_nil, h0]
  have hpc : ((s.modCtx s.cur fun c => { c with arrived := c.arrived &&& ~~~s.rg s.cur a }).ctx s.cur).pc = c.pc := by
    rw [part_modCtx Ctx.pc s s.cur s.cur (by intro; rfl) (by intro; rfl), ctx_of_find hc]
  refine ⟨_, hx, rfl, rfl, fun id => ?_⟩
  rw [State.retire, State.modCtx_cur, hpc, findCtx_advance, findCtx_modCtx s s.cur id (by intro; rfl), State.modCtx_cur]
  by_cases h : id = s.cur
  · simp only [h, if_true, Option.map_map]
    rfl
  · simp only [h, if_false]

theorem waitNtc_ends {a : Reg} (h : s.rg s.cur a = 0 ∨ c.notice &&& s.rg s.cur a ≠ 0 ∨ c.woken = true) :
    Runs (.waitNtc sm a) s (Owes [] sm (c.pc + 4) s) := by
  have howes := owes_retire s sm
  rw [ctx_of_find hc] at howes
  refine ⟨_, (onCtx_some hc _).trans ?_, howes⟩
  simp only [lowest_alone (groupOf_alone (grp_cur hc ha)), ctx_of_find hc, h, if_true]

theorem waitNtc_waits {a : Reg} (h0 : s.rg s.cur a ≠ 0) (hn : c.notice &&& s.rg s.cur a = 0) (hw : c.woken = false) :
    Runs (.waitNtc sm a) s fun t => t = s.waitFor (.notice (s.rg s.cur a)) :=
  ⟨_, (onCtx_some hc _).trans (by
    simp only [lowest_alone (groupOf_alone (grp_cur hc ha)), ctx_of_find hc, h0, hn, hw, ne_eq, not_true_eq_false, Bool.false_eq_true, or_self,
      if_false]), rfl⟩

omit ha in
theorem yield_alone (h : s.readyBeside s.cur = 0) : Runs (.yield sm) s (Owes [] sm (c.pc + 4) s) := by
  have howes := owes_retire s sm
  rw [ctx_of_find hc] at howes
  refine ⟨_, (onCtx_some hc _).trans ?_, howes⟩
  simp only [h, Nat.lt_irrefl, and_false, if_false]

omit ha in
theorem yield_passes (h : 0 < s.readyBeside s.cur) (hp : (sm && s.mustPark s.cur) = false) :
    Runs (.yield sm) s fun t => ∃ u, Owes [] sm (c.pc + 4) s u ∧ t = u.waitFor (.pass (s.readyBeside s.cur)) := by
  have howes := owes_retire s sm
  rw [ctx_of_find hc] at howes
  have hst : ((s.retire sm).ctx (s.retire sm).cur).st = .ready := by
    have hctx : (s.retire sm).ctx (s.retire sm).cur = _ := howes.ctx hc
    rw [hctx, wentOn]
    simp only [State.retire, mustPark_advance, show (s.advance sm _).cur = s.cur from rfl, hp, Bool.false_eq_true, if_false]
  refine ⟨_, (onCtx_some hc _).trans ?_, _, howes, rfl⟩
  simp only [hst, h, and_self, if_true]

end

end Sys2Proof.Machine
end

section
/-! Barriers of a team, by a context that runs alone (O23). -/
namespace Sys2Proof.Machine

/-! ### The barrier counter (R222) and a context's tickets -/

theorem ticketTotal_setTicket (n v : Nat) (c : Ctx) : ticketTotal (setTicket n v c) n = v := by
  have hnone : (c.tickets.filter fun p => !decide (p.1 = n)).find? (fun p => decide (p.1 = n)) = none := by
    simp [List.find?_eq_none]
  unfold ticketTotal setTicket
  rw [List.find?_append, hnone]
  by_cases hv : v = 0 <;> simp [hv]

/-- The expected count of a barrier that another arrival reaches. -/
def Barrier.awaits (b : Barrier) (exp : Nat) : Nat := if b.arrivals = 0 then exp else b.expected

theorem barrierRun_open {b : Barrier} (h : b.arrivals < b.expected) (fuel carry : Nat) : barrierRun fuel carry b = b := by
  cases fuel with
  | zero => rfl
  | succ k => simp [barrierRun, Nat.not_le.2 h]

theorem barrierArrive_eq (b : Barrier) (exp : Nat) : barrierArrive b 1 exp none =
    barrierRun (b.arrivals + 1) exp { b with expected := b.awaits exp, arrivals := b.arrivals + 1 } := by
  unfold barrierArrive Barrier.awaits
  by_cases h0 : b.arrivals = 0 <;> cases he : b.err <;> simp [h0, he]

/-- An arrival below the expected count leaves the phase open. -/
theorem barrierArrive_open {b : Barrier} {exp : Nat} (h : b.arrivals + 1 < b.awaits exp) :
    barrierArrive b 1 exp none = { b with expected := b.awaits exp, arrivals := b.arrivals + 1 } := by
  rw [barrierArrive_eq, barrierRun_open h]

/-- The arrival that reaches the expected count ends the phase. -/
theorem barrierArrive_closes {b : Barrier} {exp : Nat} (h : b.arrivals + 1 = b.awaits exp) : barrierArrive b 1 exp none =
    { b with expected := b.awaits exp, arrivals := 0, status := b.err.getD 0, err := none, total := b.total + 1 } := by
  rw [barrierArrive_eq, barrierRun, if_pos h.ge]
  simp only [h, Nat.sub_self, if_true]
  exact barrierRun_open (by dsimp only; omega) _ _

/-- Consecutive phase counts differ. -/
theorem ofNat_succ_ne (k : Nat) : BitVec.ofNat 16 k ≠ BitVec.ofNat 16 (k + 1) := by
  intro h
  have := congrArg BitVec.toNat h
  simp only [BitVec.toNat_ofNat] at this
  omega

section
variable {s : State} {c : Ctx} {m : Team} {n : Nat} (hc : s.findCtx s.cur = some c) (ha : c.grp = none)
include hc ha

theorem setTickets_alone (v : Nat) : s.setTickets n v = s.modCtx s.cur (setTicket n v) := by
  unfold State.setTickets
  rw [lanes_alone (groupOf_alone (grp_cur hc ha))]
  rfl

theorem barPending_alone (hm : s.teamOf s.cur = some m) : s.barPending s.cur n = decide (ticketOf c n = (m.bar n).phase) := by
  unfold State.barPending
  simp only [hm, lanes_alone (groupOf_alone (grp_cur hc ha)), List.any_cons, List.any_nil, Bool.or_false, ctx_of_find hc]

omit hc ha in
theorem teamOf_eq {id : CtxId} {k : Nat} (h : (s.ctx id).team = some k) : s.teamOf id = s.team id.cl k := by
  rw [State.teamOf, h]

omit hc ha in
theorem barTeam_team (hm : s.teamOf s.cur = some m) (hn : n < m.bars.length) : s.barTeam n = some m := by
  unfold State.barTeam
  rw [hm, Option.filter_some, if_pos (decide_eq_true hn)]

/-! ### The end of a wait -/

/-- Behind the observation of what the arrivals released, the context's ticket is that of the phases completed. -/
theorem findCtx_barAcquire (hl : ∀ l ∈ s.longs, ∀ t, l.late = some t → t.agent ≠ s.cur) (v ts : Nat) :
    ∃ x, (((s.setTickets n v).observe s.cur ts).acquire s.cur .clu).findCtx s.cur =
      some { setTicket n v c with pts := max c.pts (max c.mts ts), mts := max c.mts ts, vis := x } := by
  rw [acquire_clu_of_none (s := (s.setTickets n v).observe s.cur ts) (by rw [setTickets_alone hc ha]; exact hl), setTickets_alone hc ha]
  exact ⟨_, findCtx_raisePts (s := (s.modCtx s.cur (setTicket n v)).observe s.cur ts)
    (findCtx_observe (s := s.modCtx s.cur (setTicket n v)) (findCtx_modCtx_self hc (by intro; rfl)) ha ts) ha .clu⟩

theorem findCtx_barAcquire_ne (hl : ∀ l ∈ s.longs, ∀ t, l.late = some t → t.agent ≠ s.cur) (v ts : Nat) {j : CtxId} (hj : j ≠ s.cur) :
    (((s.setTickets n v).observe s.cur ts).acquire s.cur .clu).findCtx j = s.findCtx j := by
  rw [acquire_clu_of_none (s := (s.setTickets n v).observe s.cur ts) (by rw [setTickets_alone hc ha]; exact hl), setTickets_alone hc ha]
  have hv : (s.modCtx s.cur (setTicket n v)).findCtx s.cur = some (setTicket n v c) := findCtx_modCtx_self hc (by intro; rfl)
  have ho := findCtx_observe (s := s.modCtx s.cur (setTicket n v)) hv ha ts
  have hlead : ((s.modCtx s.cur (setTicket n v)).observe s.cur ts).leader s.cur = s.cur := leader_alone (grp_cur ho ha)
  have hlead' : (s.modCtx s.cur (setTicket n v)).leader s.cur = s.cur := leader_alone (grp_cur hv ha)
  rw [State.raisePts, hlead, findCtx_modCtx _ _ _ (by intro; rfl), if_neg hj, State.observe, hlead', findCtx_modCtx _ _ _ (by intro; rfl), if_neg hj,
    findCtx_modCtx _ _ _ (by intro; rfl), if_neg hj]

theorem barAcquire_rest (hl : ∀ l ∈ s.longs, ∀ t, l.late = some t → t.agent ≠ s.cur) (v ts : Nat) :
    ((s.setTickets n v).observe s.cur ts).acquire s.cur .clu =
      { s with ctxs := (((s.setTickets n v).observe s.cur ts).acquire s.cur .clu).ctxs } := by
  rw [acquire_clu_of_none (s := (s.setTickets n v).observe s.cur ts) (by rw [setTickets_alone hc ha]; exact hl), setTickets_alone hc ha]
  rfl

/-- A wait that has ended with a status word: the word is owed, and the context's ticket is the one of the phases completed. -/
structure Passed (s : State) (c : Ctx) (b : Barrier) (n : Nat) (sm : Bool) (d : Reg) (v : Word) (t : State) : Prop where
  rest : t = { s with ctxs := t.ctxs, longs := s.longs ++ oneLate s d v none, freeCtr := t.freeCtr }
  others : ∀ j, j ≠ s.cur → t.findCtx j = s.findCtx j
  ctx : ∃ x, t.ctx s.cur = wentOn sm (c.pc + 4) t { setTicket n b.total c with pts := max c.pts (max c.mts b.ts), mts := max c.mts b.ts, vis := x }

/-- The wait ends behind the draw of a free status word, where there is one. -/
theorem passed_of_status (hl : ∀ l ∈ s.longs, ∀ t, l.late = some t → t.agent ≠ s.cur) (b : Barrier) (sm : Bool) (d : Reg) (f : CtxId → Word) :
    Passed s c b n sm d (f s.cur) ((((s.setTickets n b.total).observe s.cur b.ts).acquire s.cur .clu).longR sm d f) := by
  obtain ⟨x, hx⟩ := findCtx_barAcquire (n := n) hc ha hl b.total b.ts
  have hrest := barAcquire_rest (n := n) hc ha hl b.total b.ts
  have hne := fun j (hj : j ≠ s.cur) => findCtx_barAcquire_ne (n := n) hc ha hl b.total b.ts hj
  generalize ((s.setTickets n b.total).observe s.cur b.ts).acquire s.cur .clu = u at hx hrest hne ⊢
  have hcur : u.cur = s.cur := by rw [hrest]
  have howes := owes_longR u sm d f
  rw [← hcur] at hx
  rw [lateOf_alone (grp_cur hx ha), ctx_of_find hx, hcur] at howes
  have hctx := howes.ctx hx
  rw [hcur] at hctx
  refine ⟨?_, fun j hj => ?_, x, hctx⟩
  · have hr := howes.rest
    rw [oneLate, hcur, ← oneLate] at hr
    generalize u.longR sm d f = t at hr ⊢
    rw [hrest] at hr
    rw [hr]
  · rw [howes.moved.ctxs, hcur]
    simp only [if_neg hj, Option.map_id', hne j hj]

/-- The end of a wait answers the barrier's status, unless 65,536 phases have passed. -/
theorem barEnd_alone (hl : ∀ l ∈ s.longs, ∀ t, l.late = some t → t.agent ≠ s.cur) (sm : Bool) (d : Reg) :
    ∃ v, Passed s c (m.bar n) n sm d v (s.barEnd sm d m n) ∧ ((m.bar n).total - ticketTotal c n ≤ 65535 → v = (m.bar n).status) := by
  have hlate : s.barLate m n = if 65535 < (m.bar n).total - ticketTotal c n then [s.cur] else [] := by
    unfold State.barLate
    rw [lanes_alone (groupOf_alone (grp_cur hc ha)), List.filter_singleton, ctx_of_find hc]
    by_cases h : 65535 < (m.bar n).total - ticketTotal c n
    · rw [if_pos h, decide_eq_true h]; rfl
    · rw [if_neg h, decide_eq_false h]; rfl
  unfold State.barEnd
  by_cases h : 65535 < (m.bar n).total - ticketTotal c n
  · rw [if_pos h] at hlate
    have hp := passed_of_status (s := { s with freeCtr := s.freeCtr + 1 }) (n := n) hc ha hl (m.bar n) sm d
      fun i => if [s.cur].contains i then Config.free s.freeCtr else (m.bar n).status
    refine ⟨Config.free s.freeCtr, ?_, fun h' => absurd h' (Nat.not_le.2 h)⟩
    rw [hlate]
    simp only [List.contains_cons, BEq.rfl, Bool.true_or, if_true] at hp
    exact ⟨hp.rest, hp.others, hp.ctx⟩
  · rw [if_neg h] at hlate
    have hp := passed_of_status (n := n) hc ha hl (m.bar n) sm d fun _ => (m.bar n).status
    refine ⟨_, ?_, fun _ => rfl⟩
    rw [hlate]
    exact hp

/-! ### `bar.wait` -/

variable (hm : s.teamOf s.cur = some m) (sm : Bool) (d a : Reg)
include hm

theorem barWait_waits (hw : c.woken = false) (ht : ticketOf c n = (m.bar n).phase) :
    s.barWait sm d m n = s.waitFor (.bar n) := by
  simp only [State.barWait, barPending_alone hc ha hm, decide_eq_true ht, ctx_of_find hc, hw, Bool.not_false, Bool.and_self, if_true]

theorem barWait_ends (h : ticketOf c n ≠ (m.bar n).phase ∨ c.woken = true) : s.barWait sm d m n = s.barEnd sm d m n := by
  have hf : (decide (ticketOf c n = (m.bar n).phase) && !c.woken) = false := by
    rcases h with h | h
    · rw [decide_eq_false h, Bool.false_and]
    · rw [h, Bool.not_true, Bool.and_false]
  simp only [State.barWait, barPending_alone hc ha hm, ctx_of_find hc, hf, Bool.false_eq_true, if_false]

/-! ### The arrival -/

/-- The barrier behind one arrival of the context: the counter, and the timestamp of the release that the arrival is. -/
def arrivedBar (b : Barrier) (exp ts : Nat) : Barrier := { barrierArrive b 1 exp none with ts := max b.ts ts }

/-- The expected count that the register gives (R222). -/
def countOf (m : Team) (x : Word) : Nat := if x.toNat % 256 = 0 then m.tmpl.contexts else x.toNat % 256

omit hc ha hm in
theorem arrivedBar_open {b : Barrier} {exp : Nat} (h : b.arrivals + 1 < b.awaits exp) (ts : Nat) :
    arrivedBar b exp ts = { b with expected := b.awaits exp, arrivals := b.arrivals + 1, ts := max b.ts ts } := by
  rw [arrivedBar, barrierArrive_open h]

omit hc ha hm in
theorem arrivedBar_closes {b : Barrier} {exp : Nat} (h : b.arrivals + 1 = b.awaits exp) (ts : Nat) : arrivedBar b exp ts =
    { b with expected := b.awaits exp, arrivals := 0, status := b.err.getD 0, err := none, total := b.total + 1, ts := max b.ts ts } := by
  rw [arrivedBar, barrierArrive_closes h]

omit hm in
theorem barArrive_alone : s.barArrive m a n = (s.modCtx s.cur (setTicket n (m.bar n).total)).arriveAt m.cl m.num n 1 (countOf m (s.rg s.cur a)) none
    (max c.pts c.mts) := by
  have hset := setTickets_alone (n := n) hc ha (m.bar n).total
  have hcnt : wfld (s.rg s.cur a) 0 8 = (s.rg s.cur a).toNat % 256 := by simp [wfld, fld]
  unfold State.barArrive State.relTs
  rw [lanes_alone (groupOf_alone (grp_cur hc ha)), lowest_alone (groupOf_alone (grp_cur hc ha)), leader_alone (grp_cur hc ha), hset, ctx_of_find hc, hcnt]
  rfl

omit hc ha hm in
theorem team_arriveAt (hm : s.team m.cl m.num = some m) (hn : n < m.bars.length) (exp ts : Nat) : ∃ m',
    (s.arriveAt m.cl m.num n 1 exp none ts).team m.cl m.num = some m' ∧ m'.cl = m.cl ∧ m'.num = m.num ∧ m'.bars.length = m.bars.length ∧
    m'.bar n = arrivedBar (m.bar n) exp ts := by
  refine ⟨_, team_modTeam hm _ (fun _ => rfl) fun _ => rfl, rfl, rfl, List.length_mapIdx, ?_⟩
  simp only [Team.bar, List.getElem?_mapIdx, List.getElem?_eq_getElem hn, Option.map_some, if_true, Option.getD_some]
  rfl

/-- What an arrival leaves: the context with its ticket, its team with the barrier's counter, and everything else as it was. -/
structure Arrival (s : State) (c : Ctx) (m : Team) (n exp : Nat) (u : State) : Prop where
  rest : u = { s with ctxs := u.ctxs, teams := u.teams }
  ctx : u.findCtx s.cur = some (setTicket n (m.bar n).total (releaseStamp .clu c))
  others : ∀ j, j ≠ s.cur → u.findCtx j = s.findCtx j
  team : ∃ m' ts, u.teamOf s.cur = some m' ∧ m'.cl = m.cl ∧ m'.num = m.num ∧ m'.bars.length = m.bars.length ∧ m'.bar n = arrivedBar (m.bar n) exp ts

theorem arrival (hn : n < m.bars.length) :
    Arrival s c m n (countOf m (s.rg s.cur a)) ((s.releasePts s.cur .clu).barArrive m a n) := by
  obtain ⟨hnum, hcl⟩ := teamOf_numbers hm
  rw [ctx_of_find hc] at hnum
  have hrel := findCtx_releasePts hc ha .clu
  have hrg : (s.releasePts s.cur .clu).rg s.cur a = s.rg s.cur a := (settled_releasePts _ _ _).rg s.cur a
  have hteam : ((s.releasePts s.cur .clu).modCtx s.cur (setTicket n (m.bar n).total)).team m.cl m.num = some m :=
    show s.team m.cl m.num = some m from team_of_teamOf hm
  have hself := findCtx_modCtx_self (s := s.releasePts s.cur .clu) (f := setTicket n (m.bar n).total) hrel (by intro; rfl)
  have hne := fun j (hj : j ≠ s.cur) => (findCtx_modCtx (s.releasePts s.cur .clu) s.cur j (f := setTicket n (m.bar n).total) (by intro; rfl)).trans
    ((if_neg hj).trans (findCtx_releasePts_ne hc ha .clu hj))
  have he : (s.releasePts s.cur .clu).barArrive m a n = _ := barArrive_alone (s := s.releasePts s.cur .clu) (n := n) hrel ha a
  rw [he, show (s.releasePts s.cur .clu).cur = s.cur from rfl, hrg]
  obtain ⟨m', hm', hcl', hnum', hlen, hbar⟩ := team_arriveAt hteam hn (countOf m (s.rg s.cur a))
    (max (releaseStamp .clu c).pts (releaseStamp .clu c).mts)
  refine ⟨rfl, hself, hne, m', _, ?_, hcl', hnum', hlen, hbar⟩
  have hct : (((s.releasePts s.cur .clu).modCtx s.cur (setTicket n (m.bar n).total)).ctx s.cur).team = some m.num := by
    rw [ctx_of_find hself]
    exact hnum
  rw [hcl] at hm' ⊢
  refine (teamOf_eq (k := m.num) ?_).trans hm'
  exact hct

/-- What a context's barrier instruction goes on with: the status word owed, nothing else of it changed, and no other context. -/
structure Ended (s : State) (c : Ctx) (d : Reg) (status : Word) (t : State) : Prop where
  longs : t.longs = s.longs ++ oneLate s d status none
  pc : (t.ctx s.cur).pc = c.pc + 4
  g : (t.ctx s.cur).g = c.g
  p : (t.ctx s.cur).p = c.p
  mem : t.mem = s.mem
  ls : t.ls = s.ls
  others : ∀ j, j ≠ s.cur → t.findCtx j = s.findCtx j

omit hc ha hm in
theorem Passed.ended {b : Barrier} {v : Word} {t : State} (h : Passed s c b n sm d v t) : Ended s c d v t := by
  obtain ⟨x, hx⟩ := h.ctx
  exact ⟨by rw [h.rest], by rw [hx]; rfl, by rw [hx]; rfl, by rw [hx]; rfl, by rw [h.rest], by rw [h.rest], h.others⟩

omit hc ha hm in
theorem Passed.ticket {b : Barrier} {v : Word} {t : State} (h : Passed s c b n sm d v t) : ticketOf (t.ctx s.cur) n = b.phase := by
  obtain ⟨x, hx⟩ := h.ctx
  rw [hx]
  exact congrArg (BitVec.ofNat 16) (ticketTotal_setTicket n b.total c)

theorem barWait_passes (hl : ∀ l ∈ s.longs, ∀ t, l.late = some t → t.agent ≠ s.cur) (h : ticketOf c n ≠ (m.bar n).phase ∨ c.woken = true) :
    ∃ v, Passed s c (m.bar n) n sm d v (s.barWait sm d m n) ∧ ((m.bar n).total - ticketTotal c n ≤ 65535 → v = (m.bar n).status) := by
  rw [barWait_ends hc ha hm sm d h]
  exact barEnd_alone hc ha hl sm d

end

/-! ### The instructions -/

section
variable {s : State} {c : Ctx} {m : Team} {n : Fin 32} (hc : s.findCtx s.cur = some c) (h : Quiet s) (hm : s.teamOf s.cur = some m)
  (hn : n.val < m.bars.length) (sm : Bool) (d a : Reg)
include hc h hm hn

theorem execBarArv_arrives : exec (.barArv sm a n) s = .next (((s.releasePts s.cur .clu).barArrive m a n.val).retire sm) :=
  (onCtx_some hc _).trans (by simp only [barTeam_team hm hn, h.releaseThen (sc := .clu) nofun])

theorem barArv_arrives : Runs (.barArv sm a n) s fun t =>
    ticketOf (t.ctx s.cur) n.val = (m.bar n.val).phase ∧ (t.ctx s.cur).pc = c.pc + 4 ∧ (t.ctx s.cur).g = c.g ∧
    t.mem = s.mem ∧ t.ls = s.ls ∧ t.longs = s.longs ∧ (∀ j, j ≠ s.cur → t.findCtx j = s.findCtx j) ∧
    ∃ ts, (t.team m.cl m.num).map (fun x => x.bar n.val) = some (arrivedBar (m.bar n.val) (countOf m (s.rg s.cur a)) ts) := by
  have ha : c.grp = none := by rw [← ctx_of_find hc]; exact h.alone
  refine ⟨_, execBarArv_arrives hc h hm hn sm a, ?_⟩
  obtain ⟨hrest, hctx, hne, m', ts, hm', hcl, hnum, -, hbar⟩ := arrival hc ha hm a hn
  generalize (s.releasePts s.cur .clu).barArrive m a n.val = u at hrest hctx hne hm' ⊢
  have hcur : u.cur = s.cur := by rw [hrest]
  have howes := owes_retire u sm
  rw [← hcur] at hctx
  rw [ctx_of_find hctx] at howes
  have ht := howes.ctx hctx
  have hteam : (u.retire sm).team m'.cl m'.num = some m' := by
    rw [howes.rest]
    exact team_of_teamOf (s := u) hm'
  rw [hcl, hnum] at hteam
  rw [hcur] at ht
  refine ⟨?_, by rw [ht]; rfl, by rw [ht]; rfl, ?_, ?_, ?_, fun j hj => ?_, ts, ?_⟩
  · rw [ht]
    exact congrArg (BitVec.ofNat 16) (ticketTotal_setTicket n.val (m.bar n.val).total (releaseStamp .clu c))
  · rw [howes.rest, hrest]
  · rw [howes.rest, hrest]
  · rw [howes.rest, hrest, List.append_nil]
  · rw [howes.moved.ctxs, hcur]
    simp only [if_neg hj, Option.map_id', hne j hj]
  · rw [hteam, Option.map_some, hbar]

omit h in
theorem execBarWait_eq : exec (.barWait sm d n) s = .next (s.barWait sm d m n.val) :=
  (onCtx_some hc _).trans (by simp only [barTeam_team hm hn])

theorem barWait_ended (ht : ticketOf c n.val ≠ (m.bar n.val).phase ∨ c.woken = true) :
    Runs (.barWait sm d n) s fun t => ∃ v, Passed s c (m.bar n.val) n.val sm d v t ∧
      ((m.bar n.val).total - ticketTotal c n.val ≤ 65535 → v = (m.bar n.val).status) :=
  ⟨_, execBarWait_eq hc hm hn sm d, barWait_passes hc (by rw [← ctx_of_find hc]; exact h.alone) hm sm d h.longs ht⟩

/-- The state in which `bar.arw`, its arrival made, begins to wait. -/
def arrivedOnce (s : State) (m : Team) (a : Reg) (n : Nat) : State :=
  ((s.releasePts s.cur .clu).barArrive m a n).modCtx s.cur fun c => { c with arrived2 := true, woken := false }

theorem arrivedOnce_arrival : ∃ m' ts, (arrivedOnce s m a n.val).teamOf s.cur = some m' ∧ n.val < m'.bars.length ∧
    m'.bar n.val = arrivedBar (m.bar n.val) (countOf m (s.rg s.cur a)) ts ∧
    (arrivedOnce s m a n.val).findCtx s.cur =
      some { setTicket n.val (m.bar n.val).total (releaseStamp .clu c) with arrived2 := true, woken := false } ∧
    (∀ j, j ≠ s.cur → (arrivedOnce s m a n.val).findCtx j = s.findCtx j) ∧
    arrivedOnce s m a n.val = { s with ctxs := (arrivedOnce s m a n.val).ctxs, teams := (arrivedOnce s m a n.val).teams } := by
  have ha : c.grp = none := by rw [← ctx_of_find hc]; exact h.alone
  obtain ⟨hnum0, hcl0⟩ := teamOf_numbers hm
  rw [ctx_of_find hc] at hnum0
  obtain ⟨hrest, hctx, hne, m', ts, hm', hcl, hnum, hlen, hbar⟩ := arrival hc ha hm a hn
  unfold arrivedOnce
  generalize (s.releasePts s.cur .clu).barArrive m a n.val = u at hrest hctx hne hm' ⊢
  have hself := findCtx_modCtx_self (f := fun c : Ctx => { c with arrived2 := true, woken := false }) hctx (by intro; rfl)
  refine ⟨m', ts, ?_, by rw [hlen]; exact hn, hbar, hself, fun j hj => ?_, ?_⟩
  · rw [teamOf_eq (k := m.num) (by rw [ctx_of_find hself]; exact hnum0), ← hcl0, ← hnum, ← hcl]
    exact team_of_teamOf (s := u) hm'
  · rw [findCtx_modCtx _ _ _ (by intro; rfl), if_neg hj, hne j hj]
  · unfold State.modCtx
    rw [hrest]

theorem execBarArw_first (hf : c.arrived2 = false) {m' : Team} (hm' : (arrivedOnce s m a n.val).barTeam n.val = some m') :
    exec (.barArw sm d a n) s = .next ((arrivedOnce s m a n.val).barWait sm d m' n.val) := by
  refine (onCtx_some hc _).trans ?_
  simp only [barTeam_team hm hn, hf, Bool.false_eq_true, if_false, h.releaseThen (sc := .clu) nofun]
  unfold arrivedOnce at hm' ⊢
  simp only [show (s.releasePts s.cur .clu).cur = s.cur from rfl, hm']

/-- The arrival that ends the phase passes the barrier at once. -/
theorem barArw_passes (hf : c.arrived2 = false) (hlast : (m.bar n.val).arrivals + 1 = (m.bar n.val).awaits (countOf m (s.rg s.cur a))) :
    Runs (.barArw sm d a n) s fun t => Ended s c d ((m.bar n.val).err.getD 0) t ∧ ticketOf (t.ctx s.cur) n.val = (m.bar n.val).phase + 1 := by
  have ha : c.grp = none := by rw [← ctx_of_find hc]; exact h.alone
  obtain ⟨m', ts, hm', hn', hbar, hctx, hne, hrest⟩ := arrivedOnce_arrival hc h hm hn a
  have hx := execBarArw_first hc h hm hn sm d a hf (m' := m')
  generalize arrivedOnce s m a n.val = u at hm' hctx hne hrest hx
  have hcur : u.cur = s.cur := by rw [hrest]
  rw [← hcur] at hm' hctx
  have hlongs : u.longs = s.longs := by rw [hrest]
  have hl := h.longs
  rw [← hlongs, ← hcur] at hl
  have hbar' := hbar.trans (arrivedBar_closes hlast ts)
  have htk : ticketTotal { setTicket n.val (m.bar n.val).total (releaseStamp .clu c) with arrived2 := true, woken := false } n.val =
      (m.bar n.val).total := ticketTotal_setTicket n.val _ (releaseStamp .clu c)
  obtain ⟨v, hp, hv⟩ := barWait_passes (n := n.val) hctx ha hm' sm d hl (.inl (by
    rw [ticketOf, htk, Barrier.phase, hbar']
    exact ofNat_succ_ne _))
  rw [htk, hbar'] at hv
  have hv' := hv (by dsimp only; omega)
  have hvar : v = (m.bar n.val).err.getD 0 := hv'
  obtain ⟨hlong, hpc, hg, hp', hmem, hls, hoth⟩ := hp.ended
  have ht := hp.ticket
  rw [hcur] at ht hpc hg hp' hm' hoth
  rw [oneLate, hcur, ← oneLate, hlongs, hvar] at hlong
  refine ⟨_, hx (barTeam_team (by rw [hcur]; exact hm') hn'), ⟨hlong, hpc, hg, hp', by rw [hmem, hrest], by rw [hls, hrest],
    fun j hj => (hoth j hj).trans (hne j hj)⟩, ?_⟩
  rw [ht, hbar']
  exact BitVec.ofNat_add _ 1

/-- An arrival that leaves the phase open waits. -/
theorem barArw_waits (hf : c.arrived2 = false) (hopen : (m.bar n.val).arrivals + 1 < (m.bar n.val).awaits (countOf m (s.rg s.cur a))) :
    Runs (.barArw sm d a n) s fun t => (t.ctx s.cur).st = .waiting (.bar n.val) s.gtime ∧ (t.ctx s.cur).arrived2 = true ∧
      (t.ctx s.cur).pc = c.pc ∧ ticketOf (t.ctx s.cur) n.val = (m.bar n.val).phase := by
  have ha : c.grp = none := by rw [← ctx_of_find hc]; exact h.alone
  obtain ⟨m', ts, hm', hn', hbar, hctx, hne, hrest⟩ := arrivedOnce_arrival hc h hm hn a
  have hx := execBarArw_first hc h hm hn sm d a hf (m' := m')
  generalize arrivedOnce s m a n.val = u at hm' hctx hne hrest hx
  have hcur : u.cur = s.cur := by rw [hrest]
  have hgt : u.gtime = s.gtime := by rw [hrest]
  rw [← hcur] at hm' hctx
  have hbar' := hbar.trans (arrivedBar_open hopen ts)
  have htk : ticketTotal { setTicket n.val (m.bar n.val).total (releaseStamp .clu c) with arrived2 := true, woken := false } n.val =
      (m.bar n.val).total := ticketTotal_setTicket n.val _ (releaseStamp .clu c)
  have hwait := barWait_waits (n := n.val) hctx ha hm' sm d rfl (by rw [ticketOf, htk, Barrier.phase, hbar'])
  have hself := ctx_waitFor hctx (.bar n.val)
  rw [hcur, hgt] at hself
  refine ⟨_, (hx (barTeam_team hm' hn')).trans (by rw [hwait]), ?_, ?_, ?_, ?_⟩
  · rw [hself]
  · rw [hself]
  · rw [hself]; rfl
  · rw [hself, ticketOf]
    exact congrArg (BitVec.ofNat 16) htk

end

/-- Settles O23, clause by clause: the arrival closes the phase or leaves it open by the recursion of the barrier's counter, and each wait ends or waits
by the condition that it tests. -/
theorem barriersAndWaits : Obligations.BarriersAndWaits := by
  unfold Obligations.BarriersAndWaits
  refine ⟨?_, ?_⟩
  · intro s c m sm d a n hc hq hm hn b cnt expd arrived passed
    have hend : ∀ t v, Ended s c d v t → passed t v := fun t v h => ⟨h.longs, h.pc, h.g, h.p, h.mem, h.ls, h.others⟩
    refine ⟨fun _ => ?_, ?_, ?_, ?_, ?_⟩
    · obtain ⟨t, hx, htk, hpc, hg, hmem, hls, hlongs, hoth, ts, ht⟩ := barArv_arrives hc hq hm hn sm a
      refine ⟨t, hx, htk, hpc, hg, hmem, hls, hlongs, hoth, fun hopen => ?_, fun hclose => ?_⟩
      · exact ⟨_, ht.trans (congrArg some (arrivedBar_open hopen ts)), rfl, rfl, rfl, rfl⟩
      · exact ⟨_, ht.trans (congrArg some (arrivedBar_closes hclose ts)), BitVec.ofNat_add _ 1, rfl, rfl, rfl⟩
    · intro ht hw
      exact ⟨_, execBarWait_eq hc hm hn sm d, barWait_waits hc (by rw [← ctx_of_find hc]; exact hq.alone) hm sm d hw ht⟩
    · intro ht
      obtain ⟨t, hx, v, hp, hv⟩ := barWait_ended hc hq hm hn sm d ht
      refine ⟨t, hx, ⟨v, hend t v hp.ended, hv⟩, hp.ticket, ?_, ?_⟩
      · obtain ⟨x, h⟩ := hp.ctx
        rw [h]; rfl
      · rw [hp.ended.longs]
        exact hp.rest
    · intro hf hlast
      obtain ⟨t, hx, he, ht⟩ := barArw_passes hc hq hm hn sm d a hf hlast
      exact ⟨t, hx, hend t _ he, ht⟩
    · exact barArw_waits hc hq hm hn sm d a
  · intro s c sm d a n k hc ha x cls pending ends waits beside
    have hcls : clsOf k.val = cls := clsOf_eq k
    have hcnt : s.count s.cur (clsOf k.val) = pending := by rw [hcls]; rfl
    refine ⟨fun h => waitCnt_ends hc sm (hcnt.trans_le h), fun h => ?_, fun h => ?_, fun h0 h => ?_, fun h => ?_, fun h => ?_,
      ⟨_, tagFfr_finds hc ha sm d a, ?_, fun i hi => ?_, fun hv => ?_⟩, tagClr_clears hc ha sm a, waitNtc_ends hc ha sm, waitNtc_waits hc ha sm,
      yield_alone hc sm, yield_passes hc sm⟩
    · rw [← hcnt] at h
      have := waitCnt_waits hc sm h
      rwa [hcls] at this
    · exact tagWait_ends hc ha sm (wait := .tagAny) (ok := fun v m => m == 0 || v &&& m != 0) (by simpa [x] using h)
    · exact tagWait_waits hc ha sm (wait := .tagAny) (ok := fun v m => m == 0 || v &&& m != 0) (by simpa [x] using And.intro h0 h)
    · exact tagWait_ends hc ha sm (wait := .tagAll) (ok := fun v m => v &&& m == m) (by simpa [x] using h)
    · exact tagWait_waits hc ha sm (wait := .tagAll) (ok := fun v m => v &&& m == m) (by simpa [x] using h)
    all_goals rw [BitVec.toNat_ofNat, Nat.mod_eq_of_lt ((lowBit_le _).trans_lt (by decide))] at *
    · exact lowBit_le _
    · exact getLsbD_below_lowBit hi
    · exact getLsbD_lowBit hv

end Sys2Proof.Machine
end

section
/-! Divergent branches of a fused group (O10): the taken mask, a pushed entry, a split. -/
namespace Sys2Proof.Machine

/-! ### The mask of the lanes that take the branch -/

theorem getLsbD_foldl_laneBit {j : Nat} (hj : j < 16) : ∀ (l : List Nat) (m : BitVec 16),
    (l.foldl (fun m i => m ||| laneBit i) m).getLsbD j = (m.getLsbD j || decide (j ∈ l))
  | [], m => by simp
  | i :: l, m => by
    rw [List.foldl_cons, getLsbD_foldl_laneBit hj l, BitVec.getLsbD_or, laneBit, BitVec.getLsbD_ofNat, Nat.testBit_two_pow, decide_eq_true hj,
      Bool.true_and, Bool.or_assoc]
    simp only [List.mem_cons, Bool.decide_or, eq_comm]

theorem laneMask_eq {g : Group} {cond : CtxId → Bool} {T : BitVec 16} (h : Takes g cond T) : laneMask g cond = T := by
  refine BitVec.eq_of_getLsbD_eq fun i hi => ?_
  rw [laneMask, getLsbD_foldl_laneBit hi, h i hi]
  simp [List.mem_filter, Bool.and_assoc]

/-! ### Contexts under a change of the mask and under parking -/

theorem findCtx_mapCtxs (s : State) {f : Ctx → Ctx} (hf : ∀ c, (f c).id = c.id) (j : CtxId) :
    State.findCtx { s with ctxs := s.ctxs.map f } j = (s.findCtx j).map f := by
  simp only [State.findCtx, List.find?_map, Function.comp_def, hf]

/-- A member other than the leader runs where the mask has its lane, and is Held elsewhere. -/
def maskCtx (g : Group) (lm : BitVec 16) (c : Ctx) : Ctx :=
  if inGroup g c && decide (c.id.pipe ≠ g.base) && g.members.getLsbD (c.id.pipe - g.base) then
    { c with st := if lm.getLsbD (c.id.pipe - g.base) then .ready else .held }
  else c

theorem maskCtx_kept (g : Group) (lm : BitVec 16) (c : Ctx) : ∃ st, maskCtx g lm c = { c with st := st } := by
  unfold maskCtx
  split
  · exact ⟨_, rfl⟩
  · exact ⟨c.st, rfl⟩

theorem maskCtx_id (g : Group) (lm : BitVec 16) (c : Ctx) : (maskCtx g lm c).id = c.id := by
  obtain ⟨st, h⟩ := maskCtx_kept g lm c
  rw [h]

theorem findCtx_setMask (s : State) (g : Group) (lm : BitVec 16) (j : CtxId) : (s.setMask g lm).findCtx j = (s.findCtx j).map (maskCtx g lm) :=
  findCtx_mapCtxs (s.setGroup { g with lm := lm }) (maskCtx_id g lm) j

/-- A context has parked, or waits for the results owed to it; nothing else has changed. -/
structure Parks (id : CtxId) (s t : State) : Prop where
  rest : t = { s with ctxs := t.ctxs }
  here : ∃ f : Ctx → Ctx, (∀ c, ∃ st ow, f c = { c with st := st, owed := ow }) ∧ t.findCtx id = (s.findCtx id).map f
  others : ∀ j, j ≠ id → t.findCtx j = s.findCtx j

theorem Parks.refl (id : CtxId) (s : State) : Parks id s s := ⟨rfl, ⟨fun c => c, fun c => ⟨c.st, c.owed, rfl⟩, by rw [Option.map_id']⟩, fun _ _ => rfl⟩

theorem parks_modCtx (s : State) (id : CtxId) {f : Ctx → Ctx} (hf : ∀ c, ∃ st ow, f c = { c with st := st, owed := ow }) : Parks id s (s.modCtx id f) := by
  have hid : ∀ c, (f c).id = c.id := fun c => by obtain ⟨st, ow, h⟩ := hf c; rw [h]
  refine ⟨rfl, ⟨f, hf, ?_⟩, fun j hj => ?_⟩
  · rw [findCtx_modCtx _ _ _ hid, if_pos rfl]
  · rw [findCtx_modCtx _ _ _ hid, if_neg hj]

theorem Parks.trans {id : CtxId} {s t u : State} (h : Parks id s t) (k : Parks id t u) : Parks id s u := by
  obtain ⟨f, hf, hst⟩ := h.here
  obtain ⟨f', hf', htu⟩ := k.here
  refine ⟨by rw [k.rest, h.rest], ⟨f' ∘ f, fun c => ?_, by rw [htu, hst, Option.map_map]⟩, fun j hj => (k.others j hj).trans (h.others j hj)⟩
  obtain ⟨st, ow, h1⟩ := hf c
  obtain ⟨st', ow', h2⟩ := hf' (f c)
  exact ⟨st', ow', by rw [Function.comp, h2, h1]⟩

theorem parks_parkOwed (s : State) (sm : Bool) (id : CtxId) (were : List CtxId) : Parks id s (s.parkOwed sm id were) := by
  unfold State.parkOwed
  split
  · dsimp only
    have h := parks_modCtx s id (f := fun c => { c with owed := were }) fun c => ⟨c.st, were, rfl⟩
    split
    · exact h.trans (parks_modCtx _ id fun c => ⟨_, c.owed, rfl⟩)
    · exact Parks.refl id s
  · exact Parks.refl id s

/-- What a context has but its state, the results owed to it and its pc. -/
theorem Parks.ctx {id : CtxId} {s t : State} (h : Parks id s t) (j : CtxId) : ∃ st ow, t.ctx j = { s.ctx j with st := st, owed := ow } := by
  by_cases hj : j = id
  · subst hj
    obtain ⟨f, hf, hfind⟩ := h.here
    unfold State.ctx
    rw [hfind]
    cases s.findCtx j with
    | none => exact ⟨_, _, rfl⟩
    | some c => exact hf c
  · unfold State.ctx
    rw [h.others j hj]
    exact ⟨_, _, rfl⟩

/-- A lane of the ids may have parked behind a switch marker; the others are as they were. -/
theorem findCtx_parkMarked (sm : Bool) (j : CtxId) : ∀ (ids : List CtxId) (s : State), (s.parkMarked sm ids).findCtx j = s.findCtx j ∨
    sm = true ∧ j ∈ ids ∧ (s.parkMarked sm ids).findCtx j = (s.findCtx j).map fun c => { c with st := .parked .results } := by
  cases sm with
  | false => exact fun _ _ => .inl rfl
  | true =>
    intro ids
    induction ids with
    | nil => exact fun _ => .inl rfl
    | cons i r ih =>
      intro s
      have hstep : s.parkMarked true (i :: r) = State.parkMarked (if s.mustPark i then s.modCtx i fun c => { c with st := .parked .results } else s) true r := rfl
      rw [hstep]
      by_cases hp : s.mustPark i = true
      · rw [if_pos hp]
        have hfind := findCtx_modCtx s i j (f := fun c => { c with st := .parked .results }) (by intro; rfl)
        by_cases hj : j = i
        · rw [if_pos hj] at hfind
          rcases ih (s.modCtx i fun c => { c with st := .parked .results }) with h | ⟨-, -, h⟩
          · exact .inr ⟨rfl, hj ▸ List.mem_cons_self, by rw [h, hfind]⟩
          · exact .inr ⟨rfl, hj ▸ List.mem_cons_self, by rw [h, hfind, Option.map_map]; rfl⟩
        · rw [if_neg hj] at hfind
          rcases ih (s.modCtx i fun c => { c with st := .parked .results }) with h | ⟨-, hm, h⟩
          · exact .inl (h.trans hfind)
          · exact .inr ⟨rfl, List.mem_cons_of_mem i hm, by rw [h, hfind]⟩
      · rw [if_neg hp]
        exact (ih s).imp_right fun ⟨h, hm, hf⟩ => ⟨h, List.mem_cons_of_mem i hm, hf⟩

/-! ### A pushed entry -/

theorem findGroup_setGroup {s : State} {cl base slot : Nat} {g : Group} (h : s.findGroup cl base slot = some g) {g' : Group}
    (hcl : g'.cl = cl) (hbase : g'.base = base) (hslot : g'.slot = slot) : (s.setGroup g').findGroup cl base slot = some g' := by
  have hm := List.find?_some h
  simp only [decide_eq_true_eq] at hm
  unfold State.findGroup at h ⊢
  subst hcl hbase hslot
  have e : (fun x : Group => decide (x.cl = g'.cl ∧ x.base = g'.base ∧ x.slot = g'.slot)) ∘
      (fun x : Group => if x.cl = g'.cl ∧ x.base = g'.base ∧ x.slot = g'.slot then g' else x) =
      fun x => decide (x.cl = g'.cl ∧ x.base = g'.base ∧ x.slot = g'.slot) := by
    funext x
    simp only [Function.comp]
    by_cases hx : x.cl = g'.cl ∧ x.base = g'.base ∧ x.slot = g'.slot <;> simp [hx]
  simp only [State.setGroup, List.find?_map, e, h, Option.map_some, if_pos hm]

/-- The group a context is a member of has its numbers. -/
theorem groupOf_numbers {s : State} {id : CtxId} {g : Group} (h : s.groupOf id = some g) :
    (s.ctx id).grp = some g.base ∧ g.cl = id.cl ∧ g.slot = id.slot ∧ s.findGroup id.cl g.base id.slot = some g := by
  unfold State.groupOf at h
  split at h
  next b hb =>
    have hm := List.find?_some h
    simp only [decide_eq_true_eq] at hm
    obtain ⟨hcl, hbase, hslot⟩ := hm
    exact ⟨by rw [hb, hbase], hcl, hslot, by rw [hbase]; exact h⟩
  next => cases h

theorem groupOf_of_findGroup {s : State} {id : CtxId} {b : Nat} (hb : (s.ctx id).grp = some b) : s.groupOf id = s.findGroup id.cl b id.slot := by
  rw [State.groupOf, hb]

/-- The group behind a pushed entry. -/
def Group.pushed (g : Group) (j pc : Word) (T : BitVec 16) : Group :=
  { g with armed := none, lm := T, stack := { j := j, pendPc := pc, pend := g.lm &&& ~~~T, taken := T, phaseN := false } :: g.stack }

theorem ctx_setMask (s : State) (g : Group) (lm : BitVec 16) (j : CtxId) : ∃ st, (s.setMask g lm).ctx j = { s.ctx j with st := st } := by
  unfold State.ctx
  rw [findCtx_setMask]
  cases s.findCtx j with
  | none => exact ⟨_, rfl⟩
  | some c => exact maskCtx_kept g lm c

/-- A member other than the leader runs or is Held as the mask says. -/
theorem st_setMask {s : State} {g : Group} {lm : BitVec 16} {k : Nat} {c : Ctx} (hc : s.findCtx ⟨g.cl, g.base + k, g.slot⟩ = some c)
    (hg : c.grp = some g.base) (hk : 0 < k) (hm : g.members.getLsbD k = true) :
    ∃ v, (s.setMask g lm).findCtx ⟨g.cl, g.base + k, g.slot⟩ = some v ∧ v.st = if lm.getLsbD k then .ready else .held := by
  have hid := findCtx_id hc
  have hin : (inGroup g c && decide (c.id.pipe ≠ g.base) && g.members.getLsbD (c.id.pipe - g.base)) = true := by
    simp [inGroup, hid, hg, hm, hk.ne']
  refine ⟨_, (findCtx_setMask s g lm _).trans (by rw [hc]; rfl), ?_⟩
  rw [maskCtx, if_pos hin, hid, Nat.add_sub_cancel_left]

theorem advance_kept (s : State) (sm : Bool) (pc : Word) (id : CtxId) : ((s.advance sm pc).ctx id).g = (s.ctx id).g ∧
    ((s.advance sm pc).ctx id).p = (s.ctx id).p ∧ ((s.advance sm pc).ctx id).grp = (s.ctx id).grp := by
  unfold State.advance
  exact ⟨part_modCtx Ctx.g s s.cur id (by intro; rfl) (by intro; rfl), part_modCtx Ctx.p s s.cur id (by intro; rfl) (by intro; rfl),
    part_modCtx Ctx.grp s s.cur id (by intro; rfl) (by intro; rfl)⟩

theorem diverged {s : State} {c : Ctx} {g : Group} {j target : Word} {T : BitVec 16} (hc : s.findCtx s.cur = some c) (hg : s.groupOf s.cur = some g)
    (sm : Bool) : Diverged g j target T s (((s.setMask (g.pushed j (c.pc + 4) T) T).advance false target).parkOwed sm s.cur (s.lanes s.cur)) := by
  obtain ⟨hgrp, hcl, hslot, hfind⟩ := groupOf_numbers hg
  have hpark := parks_parkOwed ((s.setMask (g.pushed j (c.pc + 4) T) T).advance false target) sm s.cur (s.lanes s.cur)
  generalize ((s.setMask (g.pushed j (c.pc + 4) T) T).advance false target).parkOwed sm s.cur (s.lanes s.cur) = t at hpark ⊢
  have hadv := fun id => findCtx_advance (s.setMask (g.pushed j (c.pc + 4) T) T) false target id
  have hkept : ∀ id, (t.ctx id).g = (s.ctx id).g ∧ (t.ctx id).p = (s.ctx id).p ∧ (t.ctx id).grp = (s.ctx id).grp := by
    intro id
    obtain ⟨st, ow, hp⟩ := hpark.ctx id
    obtain ⟨st', hm⟩ := ctx_setMask s (g.pushed j (c.pc + 4) T) T id
    obtain ⟨hg', hp', hgrp'⟩ := advance_kept (s.setMask (g.pushed j (c.pc + 4) T) T) false target id
    rw [hm] at hg' hp' hgrp'
    rw [hp]
    exact ⟨hg', hp', hgrp'⟩
  have hrest : t = { s with ctxs := t.ctxs, groups := (s.setGroup (g.pushed j (c.pc + 4) T)).groups } := hpark.rest
  refine ⟨?_, ?_, ?_, ?_, fun id => ⟨(hkept id).1, (hkept id).2.1⟩⟩
  · rw [groupOf_of_findGroup ((hkept s.cur).2.2.trans hgrp), ctx_of_find hc]
    have h := findGroup_setGroup hfind (g' := g.pushed j (c.pc + 4) T) hcl rfl hslot
    rw [hrest]
    exact h
  · obtain ⟨st, ow, hp⟩ := hpark.ctx s.cur
    have hw := hadv s.cur
    rw [show (s.setMask (g.pushed j (c.pc + 4) T) T).cur = s.cur from rfl, findCtx_setMask, hc] at hw
    simp only [Option.map_some, if_true] at hw
    rw [hp, ctx_of_find hw]
    rfl
  · intro k hk h16 hmem hne hsome hgk
    obtain ⟨o, ho⟩ := Option.isSome_iff_exists.mp hsome
    obtain ⟨v, hv, hst⟩ := st_setMask (g := g.pushed j (c.pc + 4) T) (lm := T) ho (by rw [← ctx_of_find ho]; exact hgk) hk hmem
    have ht := (hpark.others _ hne).trans (hadv _)
    rw [show (s.setMask (g.pushed j (c.pc + 4) T) T).findCtx ⟨g.cl, g.base + k, g.slot⟩ = some v from hv, Option.map_some,
      show (s.setMask (g.pushed j (c.pc + 4) T) T).cur = s.cur from rfl, if_neg hne] at ht
    rw [ctx_of_find ht]
    exact hst
  · rw [hrest]

/-! ### A split (R46) -/

/-- A member of a split group: a single context with the group's record, the leader's uniform registers and timestamps. -/
def splitCtx (g : Group) (pcs : CtxId → Word) (l c : Ctx) : Ctx :=
  let k := c.id.pipe - g.base
  let act := g.lm.getLsbD k
  { c with
    grp := none, rcd := some { stack := g.stack, base := g.base, width := g.width, members := g.members, a := g.lm }, woken := false, arrived2 := false
    g := Vector.ofFn fun i => (if 16 ≤ i.val then l.g[i] else c.g[i])
    pc := if act then pcs c.id else heldPc l.pc k g.stack
    st := if act then .ready else if g.members.getLsbD k then .held else .exited
    pts := l.pts, mts := l.mts, vis := l.vis, fixedW := l.fixedW }

theorem settled_emptyBanks (s : State) (cl base w : Nat) : Settled s (s.emptyBanks cl base w) :=
  (((settled_flushLines s false _).trans (settled_drainWrites _ _)).trans (settled_drainReds _ _)).trans (settled_mem _ rfl)

/-- A split makes every member of the group a context of its own. -/
theorem findCtx_split (s : State) (g : Group) (pcs : CtxId → Word) : ∃ l : Ctx, l.g = (s.ctx ⟨g.cl, g.base, g.slot⟩).g ∧
    ∀ id m, s.findCtx id = some m → inGroup g m = true → (s.split g pcs).findCtx id = some (splitCtx g pcs l m) := by
  have hs : Settled s (((s.settleLate fun t => decide (t.agent = ⟨g.cl, g.base, g.slot⟩)).emptyBanks g.cl g.base g.width).raisePts
      ⟨g.cl, g.base, g.slot⟩ .grp) := ((settled_settleLate s _).trans (settled_emptyBanks _ _ _ _)).trans (settled_raisePts _ _ _)
  unfold State.split
  dsimp only
  generalize (((s.settleLate fun t => decide (t.agent = ⟨g.cl, g.base, g.slot⟩)).emptyBanks g.cl g.base g.width).raisePts
      ⟨g.cl, g.base, g.slot⟩ .grp) = u at hs ⊢
  have hleave := findCtx_leaveBlocks u ⟨g.cl, g.base, g.slot⟩
  generalize u.leaveBlocks ⟨g.cl, g.base, g.slot⟩ = v at hleave ⊢
  refine ⟨v.ctx ⟨g.cl, g.base, g.slot⟩, ?_, fun id m hm hin => ?_⟩
  · unfold State.ctx
    rw [hleave, hs.ctxs]
    cases s.findCtx ⟨g.cl, g.base, g.slot⟩ <;> rfl
  · refine (findCtx_mapCtxs v (f := fun c => if inGroup g c = true then splitCtx g pcs (v.ctx ⟨g.cl, g.base, g.slot⟩) c else c) (fun c => ?_) id).trans ?_
    · by_cases h : inGroup g c = true
      · rw [if_pos h]; rfl
      · rw [if_neg h]
    · rw [hleave, hs.ctxs, hm]
      exact congrArg some (if_pos hin)

/-- Every lane of a group that splits goes on alone (R46). -/
theorem splitTo_split (s : State) (g : Group) (sm : Bool) (pcs : CtxId → Word) :
    SplitTo g sm pcs (fun _ => none) (fun l r => (s.ctx l).g.get r) s ((s.split g pcs).parkMarked sm (g.ids g.lm)) := by
  obtain ⟨l, hl, hsplit⟩ := findCtx_split s g pcs
  intro k m hk h16 hmem hm hgrp
  have hid := findCtx_id hm
  have hin : inGroup g m = true := by simp [inGroup, hid, hgrp]
  have hn := hsplit _ m hm hin
  have hlane : m.id.pipe - g.base = k := by rw [hid, Nat.add_sub_cancel_left]
  have hlead : s.leader m.id = ⟨g.cl, g.base, g.slot⟩ := by
    rw [State.leader, hid, ctx_of_find hm, hgrp]
  have hself : s.ctx m.id = m := by rw [hid, ctx_of_find hm]
  have hg : ∀ r : Reg, (splitCtx g pcs l m).g.get r = (s.ctx (s.fileOf m.id r)).g.get r := by
    intro r
    have hget : (splitCtx g pcs l m).g.get r = if 16 ≤ r.val then l.g.get r else m.g.get r := by
      simp [splitCtx, Vector.get_eq_getElem]
    rw [hget, State.fileOf]
    by_cases hr : 16 ≤ r.val
    · rw [if_pos hr, if_pos hr, hl, hlead]
    · rw [if_neg hr, if_neg hr, hself]
  have hpc : ∀ h : g.lm.getLsbD k = true, (splitCtx g pcs l m).pc = pcs m.id ∧ (splitCtx g pcs l m).st = .ready := fun h => by
    simp only [splitCtx, hlane, h, if_true, and_self]
  rcases findCtx_parkMarked sm ⟨g.cl, g.base + k, g.slot⟩ (g.ids g.lm) (s.split g pcs) with hp | ⟨hsm, hact, hp⟩
  · refine ⟨_, hp.trans hn, rfl, rfl, ?_⟩
    by_cases h : g.lm.getLsbD k = true
    · rw [if_pos h]
      exact ⟨(hpc h).1, .inl (hpc h).2, rfl, hg⟩
    · rw [if_neg h]
      have hpc' : (splitCtx g pcs l m).pc = heldPc l.pc k g.stack ∧ (splitCtx g pcs l m).st = .held := by
        simp only [splitCtx, hlane, h, hmem, Bool.false_eq_true, if_false, if_true, and_self]
      refine ⟨hpc'.2, rfl, hg, fun e r he => ⟨fun hT hb => ?_, fun hN hb => ?_⟩⟩
      · rw [hpc'.1, he, heldPc, hT, hb]; rfl
      · rw [hpc'.1, he, heldPc, hN, hb]; rfl
  · have h : g.lm.getLsbD k = true := by
      simp only [Group.ids, List.mem_map, List.mem_filter, CtxId.mk.injEq] at hact
      obtain ⟨i, ⟨-, hi⟩, -, hik, -⟩ := hact
      rwa [Nat.add_left_cancel hik] at hi
    refine ⟨_, hp.trans (by rw [hn]; rfl), rfl, rfl, ?_⟩
    rw [if_pos h]
    exact ⟨(hpc h).1, .inr ⟨hsm, rfl⟩, rfl, hg⟩

/-! ### The branches -/

/-- A branch that part of the lanes take pushes an entry, or splits the group. -/
theorem branch_diverges {s : State} {c : Ctx} {g : Group} {j : Word} {T : BitVec 16} (hc : s.findCtx s.cur = some c) (hg : s.groupOf s.cur = some g)
    (hlm : T ≠ g.lm) (h0 : T ≠ 0) (sm : Bool) (target : Word) {cond : CtxId → Bool} (hT : Takes g cond T) :
    (g.armed = some j → g.stack.length < 4 → ∃ t, s.branch sm target cond = .next t ∧ Diverged g j target T s t) ∧
    (g.armed = none ∨ 4 ≤ g.stack.length → ∃ t, s.branch sm target cond = .next t ∧
      SplitTo g sm (fun l => if cond l then target else c.pc + 4) (fun _ => none) (fun l r => (s.ctx l).g.get r) s t) := by
  have hb : s.branch sm target cond = _ := onCtx_some hc _
  simp only [hg, laneMask_eq hT, hlm, h0, if_false] at hb
  refine ⟨fun harm hroom => ⟨_, hb.trans ?_, diverged hc hg sm⟩, fun h => ⟨_, hb.trans ?_, splitTo_split s g sm _⟩⟩
  · simp only [harm, hroom, if_true]
    rfl
  · cases ha : g.armed with
    | none => rfl
    | some j =>
      have hfull : ¬ g.stack.length < 4 := Nat.not_lt.2 (h.resolve_left (by rw [ha]; nofun))
      simp only [hfull, if_false]
      rfl

theorem intCond_slt (a b : Word) : intCond 2 a b = decide (a.toInt < b.toInt) := rfl
theorem intCond_ult (a b : Word) : intCond 4 a b = decide (a.toNat < b.toNat) := rfl
theorem intCond_ne (a b : Word) : intCond 1 a b = decide (a ≠ b) := by simp [intCond, bne, beq_eq_decide]
theorem intCond_sge (a b : Word) : intCond 3 a b = decide (b.toInt ≤ a.toInt) := by
  simp [intCond, BitVec.slt, ← decide_not]
theorem intCond_uge (a b : Word) : intCond 5 a b = decide (b.toNat ≤ a.toNat) := by
  simp [intCond, BitVec.ult, ← decide_not]

/-- Settles O10: each branch is one of two conditions over the active lanes, and the entry or the split follows from the mask that it takes. -/
theorem divergentBranches : Obligations.DivergentBranches := by
  unfold Obligations.DivergentBranches
  intro s c g j T sm a b p o q hc hg hlm h0 x y goes near far
  have hpc : (s.ctx s.cur).pc = c.pc := by rw [ctx_of_find hc]
  have hgo : ∀ {i : Instr} {target : Word} {cond cond' : CtxId → Bool}, exec i s = s.branch sm target cond → (∀ l, cond l = cond' l) →
      goes i target cond' := by
    intro i target cond cond' hx he hT
    obtain rfl : cond = cond' := funext he
    unfold Runs
    rw [hx]
    exact branch_diverges hc hg hlm h0 sm target hT
  have hnear : targetPc (s.ctx s.cur).pc o = near := by rw [hpc]; rfl
  have hfar : targetPc (s.ctx s.cur).pc q = far := by rw [hpc]; rfl
  rw [← hnear, ← hfar]
  exact ⟨hgo rfl fun _ => rfl, hgo rfl fun _ => intCond_ne _ _, hgo rfl fun _ => intCond_slt _ _, hgo rfl fun _ => intCond_sge _ _,
    hgo rfl fun _ => intCond_ult _ _, hgo rfl fun _ => intCond_uge _ _, hgo rfl fun _ => rfl, hgo rfl fun _ => rfl⟩

end Sys2Proof.Machine
end

section
/-! What performing writes, reductions and late loads leaves of the contexts, in the list, and of the poisoned results. -/
namespace Sys2Proof.Machine

/-- A context without its timestamps. -/
def Ctx.untimed (c : Ctx) : Ctx := { c with pts := 0, mts := 0, vis := {} }

/-- State t has the contexts of s, in their order, but for timestamps, and the same results outstanding, of the same poison. -/
structure Retimed (s t : State) : Prop where
  ctxs : t.ctxs.map Ctx.untimed = s.ctxs.map Ctx.untimed
  longs : t.longs.map (fun l => (l.dst, l.poisoned)) = s.longs.map fun l => (l.dst, l.poisoned)

theorem Retimed.refl (s : State) : Retimed s s := ⟨rfl, rfl⟩

theorem Retimed.trans {s t u : State} (h : Retimed s t) (k : Retimed t u) : Retimed s u := ⟨k.ctxs.trans h.ctxs, k.longs.trans h.longs⟩

theorem retimed_of_eq {s t : State} (hc : t.ctxs = s.ctxs) (hl : t.longs = s.longs) : Retimed s t := ⟨by rw [hc], by rw [hl]⟩

theorem retimed_mapCtx (s : State) (f : Ctx → Ctx) (hf : ∀ c, ∃ p m v, f c = { c with pts := p, mts := m, vis := v }) :
    Retimed s { s with ctxs := s.ctxs.map f } := by
  refine ⟨?_, rfl⟩
  dsimp only
  rw [List.map_map]
  refine List.map_congr_left fun c _ => ?_
  obtain ⟨p, m, v, h⟩ := hf c
  rw [Function.comp, h]
  rfl

theorem retimed_modCtx (s : State) (id : CtxId) (f : Ctx → Ctx) (hf : ∀ c, ∃ p m v, f c = { c with pts := p, mts := m, vis := v }) :
    Retimed s (s.modCtx id f) := by
  unfold State.modCtx
  refine retimed_mapCtx s _ fun c => ?_
  split
  · exact hf c
  · exact ⟨_, _, _, rfl⟩

theorem retimed_foldl {α : Type} (f : State → α → State) (h : ∀ s a, Retimed s (f s a)) : ∀ (l : List α) (s : State), Retimed s (l.foldl f s)
  | [], s => Retimed.refl s
  | a :: r, s => (h s a).trans (retimed_foldl f h r (f s a))

theorem retimed_modCluster (s : State) (cl : Nat) (f : Cluster → Cluster) : Retimed s (s.modCluster cl f) := by
  rw [modCluster_rest]
  exact retimed_of_eq rfl rfl

theorem retimed_invalidate (s : State) (f : Nat → Option Nat × Nat × Nat → Bool) : Retimed s (s.invalidate f) := by
  unfold State.invalidate State.dropSinter
  dsimp only
  split <;> exact retimed_of_eq rfl rfl

theorem retimed_noteRace (s : State) (f : Nat → Bool) (r : Option Nat × Nat × Nat) : Retimed s (s.noteRace f r) := by
  unfold State.noteRace
  split <;> exact retimed_of_eq rfl rfl

theorem retimed_modHome (s : State) (line : Nat) (f : HomeLine → HomeLine) : Retimed s (s.modHome line f) := by
  unfold State.modHome
  split <;> exact retimed_of_eq rfl rfl

theorem retimed_stampWrite (s : State) (a : Option CtxId) (pipe pa : Nat) (f : List Rel → List Rel) : Retimed s (s.stampWrite a pipe pa f) := by
  unfold State.stampWrite
  cases a with
  | none => exact retimed_modHome _ _ _
  | some a =>
    refine (retimed_modHome _ _ _).trans (retimed_mapCtx _ _ fun c => ?_)
    split <;> exact ⟨_, _, _, rfl⟩

theorem retimed_noteAgent (s : State) (a : Option CtxId) (va pa : Nat) (w : Bool) : Retimed s (s.noteAgent a va pa w) := by
  unfold State.noteAgent State.noteVia
  split
  · split
    · exact Retimed.refl _
    · exact retimed_modHome _ _ _
  · exact Retimed.refl _

theorem retimed_lsWrite (s : State) (cl off n : Nat) (a : Option CtxId) (k : WKind) : Retimed s (s.lsWrite cl off n a k) := by
  unfold State.lsWrite
  cases a <;> dsimp only <;> split
  · exact Retimed.refl _
  · exact retimed_modCluster _ _ _
  · exact Retimed.refl _
  · exact retimed_modCluster _ _ _

theorem retimed_watchMem (s : State) (agent : Option CtxId) (va pa n : Nat) : Retimed s (s.watchMem agent va pa n) := by
  unfold State.watchMem
  exact (retimed_invalidate _ _).trans (retimed_noteRace _ _ _)

theorem retimed_watchWrite (s : State) (cl a n : Nat) : Retimed s (s.watchWrite cl a n) := by
  unfold State.watchWrite
  exact (retimed_invalidate _ _).trans (retimed_noteRace _ _ _)

theorem retimed_placeWriteAs (s : State) (a : Option CtxId) (pipe : Nat) (k : WKind) (p : Place) (data : List Byte) :
    Retimed s (s.placeWriteAs a pipe k p data) := by
  cases p with
  | mem va pa =>
    exact (((retimed_stampWrite s a pipe pa _).trans (retimed_noteAgent _ _ _ _ _)).trans (retimed_watchMem _ _ _ _ _)).trans (retimed_of_eq rfl rfl)
  | ls cl off =>
    exact ((retimed_of_eq (s := s) (t := { s with ls := Memory.writeN s.ls (lsKey cl off) data }) rfl rfl).trans (retimed_lsWrite _ _ _ _ _ _)).trans (retimed_watchWrite _ _ _ _)

theorem retimed_performWrite (s : State) (w : PWrite) : Retimed s (s.performWrite w) := by
  unfold State.performWrite
  split
  · exact (((retimed_stampWrite s _ _ _ _).trans (retimed_noteAgent _ _ _ _ _)).trans (retimed_watchMem _ _ _ _ _)).trans (retimed_of_eq rfl rfl)
  · exact retimed_placeWriteAs _ _ _ _ _ _

theorem retimed_placeRmw (s : State) (a : CtxId) (k : WKind) (p : Place) (op : RmwOp) (n b cmp : Nat) : Retimed s (s.placeRmw a k p op n b cmp).2 := by
  unfold State.placeRmw
  simp only
  split
  · exact retimed_placeWriteAs _ _ _ _ _ _
  · exact Retimed.refl _

theorem retimed_drainWrites (s : State) (f : PWrite → Bool) : Retimed s (s.drainWrites f) :=
  (retimed_foldl _ retimed_performWrite _ s).trans (retimed_of_eq rfl rfl)

theorem retimed_drainReds (s : State) (f : PRed → Bool) : Retimed s (s.drainReds f) :=
  (retimed_foldl _ (fun s _ => retimed_placeRmw s _ _ _ _ _ _ _) _ s).trans (retimed_of_eq rfl rfl)

theorem retimed_writeBack (s : State) (l : L1Line) : Retimed s (s.writeBack l) := by
  unfold State.writeBack
  split <;> exact retimed_of_eq rfl rfl

theorem retimed_flushLines (s : State) (keep : Bool) (f : L1Line → Bool) : Retimed s (s.flushLines keep f) := by
  have h := retimed_foldl State.writeBack retimed_writeBack (s.l1.filter f) s
  cases keep with
  | true => exact h
  | false => exact h.trans (retimed_of_eq rfl rfl)

theorem retimed_emptyBanks (s : State) (cl base w : Nat) : Retimed s (s.emptyBanks cl base w) :=
  (((retimed_flushLines s false _).trans (retimed_drainWrites _ _)).trans (retimed_drainReds _ _)).trans (retimed_of_eq rfl rfl)

theorem retimed_lateSeen (s : State) (l : Late) : Retimed s (s.lateSeen l) := by
  unfold State.lateSeen
  split
  · split <;> exact retimed_modCtx _ _ _ fun _ => ⟨_, _, _, rfl⟩
  · exact Retimed.refl _

theorem retimed_settleLate (s : State) (f : Late → Bool) : Retimed s (s.settleLate f) := by
  refine Retimed.trans (t := { s with longs := s.longs.map fun l => match l.late with
    | some t => if f t then { l with val := s.readLate t, late := none } else l
    | none => l }) ⟨rfl, ?_⟩ (retimed_foldl _ retimed_lateSeen _ _)
  dsimp only
  rw [List.map_map]
  refine List.map_congr_left fun l _ => ?_
  dsimp only [Function.comp]
  split
  · split <;> rfl
  · rfl

theorem retimed_drainGroup (s : State) (a : CtxId) : Retimed s (s.drainGroup a) := by
  unfold State.drainGroup State.releaseStart
  exact (((retimed_settleLate s _).trans (retimed_flushLines _ _ _)).trans (retimed_drainWrites _ _)).trans (retimed_drainReds _ _)

/-- The deferred poison trap of a context is the same. -/
theorem Retimed.poisonOf {s t : State} (h : Retimed s t) {id : CtxId} (hp : (t.ctx id).poison = (s.ctx id).poison) : t.poisonOf id = s.poisonOf id := by
  have hfind : ∀ l : List Long, (l.find? fun x => decide (x.dst = id) && x.poisoned.isSome).bind Long.poisoned =
      ((l.map fun x => (x.dst, x.poisoned)).find? fun x => decide (x.1 = id) && x.2.isSome).bind Prod.snd := by
    intro l
    rw [List.find?_map, Option.bind_map]
    rfl
  unfold State.poisonOf
  rw [hp, hfind, h.longs, ← hfind]

end Sys2Proof.Machine
end

section
/-! Accesses of a context alone at their check point (O18). -/
namespace Sys2Proof.Machine

/-! ### One access of the agent in the list of accesses -/

theorem filter_set_single {α : Type} {p : α → Bool} {a b : α} (hp : p a = true) (hb : p b = true) : ∀ {l : List α} {n : Nat}, l[n]? = some a →
    l.filter p = [a] → (l.set n b).filter p = [b]
  | [], _, h, _ => by simp at h
  | x :: l, 0, h, hf => by
    obtain rfl : x = a := by simpa using h
    rw [List.filter_cons_of_pos hp] at hf
    rw [List.set_cons_zero, List.filter_cons_of_pos hb, (List.cons.inj hf).2]
  | x :: l, n + 1, h, hf => by
    rw [List.getElem?_cons_succ] at h
    have hmem : a ∈ l.filter p := List.mem_filter.mpr ⟨List.mem_of_getElem? h, hp⟩
    have hx : p x = false := by
      cases hx : p x with
      | false => rfl
      | true =>
        rw [List.filter_cons_of_pos hx] at hf
        rw [(List.cons.inj hf).2] at hmem
        cases hmem
    rw [List.filter_cons_of_neg (by rw [hx]; nofun)] at hf
    rw [List.set_cons_succ, List.filter_cons_of_neg (by rw [hx]; nofun), filter_set_single hp hb h hf]

theorem filter_set_other {α : Type} {p : α → Bool} {a b : α} (hp : p a = false) (hb : p b = false) : ∀ {l : List α} {n : Nat}, l[n]? = some a →
    (l.set n b).filter p = l.filter p
  | [], _, h => by simp at h
  | x :: l, 0, h => by
    obtain rfl : x = a := by simpa using h
    rw [List.set_cons_zero, List.filter_cons_of_neg (by rw [hb]; nofun), List.filter_cons_of_neg (by rw [hp]; nofun)]
  | x :: l, n + 1, h => by
    rw [List.getElem?_cons_succ] at h
    rw [List.set_cons_succ, List.filter_cons, List.filter_cons, filter_set_other hp hb h]

/-- The accesses of the other agents. -/
def State.otherAccesses (s : State) (agent : CtxId) : List Access := s.accesses.filter fun b => !decide (b.agent = agent)

theorem redsOf_single (s : State) (agent : CtxId) {a : Access} (h : ∀ p, a.stage ≠ .passed (some p)) : s.redsOf agent [a] = [] := by
  unfold State.redsOf
  rw [List.mergeSort_singleton, List.filterMap_cons, List.filterMap_nil]
  split
  · rfl
  next _ hs =>
    split at hs
    next hst _ => exact absurd hst (h _)
    next => cases hs

theorem scOf_single {a : Access} (h : ∀ p, a.stage ≠ .passed (some p)) : scOf [a] = [] := by
  unfold scOf
  rw [List.mergeSort_singleton, List.filterMap_cons, List.filterMap_nil]
  split
  · rfl
  next _ hs =>
    split at hs
    next hst _ => exact absurd hst (h _)
    next => cases hs

/-- The one access of an agent has passed: the instruction goes on. -/
theorem finishAccess_passed {s : State} {a : Access} (honly : (s.accesses.filter fun b => decide (b.agent = a.agent)) = [a])
    (hs : a.stage = .passed none) (hacq : a.op.acq = none) :
    s.finishAccess a.agent false = State.retire { s with accesses := s.otherAccesses a.agent, cur := a.agent } a.sm := by
  have hhit : a.hit = none := by rw [Access.hit, hs]
  have hpass : ∀ p, a.stage ≠ .passed (some p) := by rw [hs]; nofun
  unfold State.finishAccess
  rw [honly]
  simp only [redsOf_single s a.agent hpass, scOf_single hpass, List.findSome?_cons, List.findSome?_nil, hacq, List.any_cons, List.any_nil, hhit,
    Option.isSome_none, Bool.or_false, Bool.not_false, Bool.true_or, Bool.and_true, List.isEmpty_nil, Bool.not_true, Bool.false_eq_true, if_false,
    List.foldl_nil, List.append_nil]
  rfl

/-- The one lane that was hit takes its trap or its upcall where the agent stands. -/
theorem finishHits_single {s : State} {a : Access} (honly : (s.accesses.filter fun b => decide (b.agent = a.agent)) = [a])
    (hgrp : (s.ctx a.agent).grp = none) {lane : CtxId} {x : Hit} (hhit : a.hit = some (lane, x)) : s.finishHits a.agent false =
      State.takeHit { s with accesses := s.otherAccesses a.agent, cur := a.agent } lane x (s.ctx a.agent).pc false := by
  unfold State.finishHits State.hitLanes
  rw [honly]
  have hg : State.groupOf { s with accesses := s.otherAccesses a.agent, cur := a.agent } a.agent = none := groupOf_alone hgrp
  unfold State.otherAccesses at hg ⊢
  simp only [hg, List.filterMap_cons, List.filterMap_nil, hhit, List.foldl_cons, List.foldl_nil]
  rfl

/-- The one access of an agent is hit: the trap or the upcall is taken where the agent stands. -/
theorem finishAccess_hit {s : State} {a : Access} (honly : (s.accesses.filter fun b => decide (b.agent = a.agent)) = [a])
    (hgrp : (s.ctx a.agent).grp = none) {lane : CtxId} {x : Hit} (hhit : a.hit = some (lane, x)) : s.finishAccess a.agent false =
      State.takeHit { s with accesses := s.otherAccesses a.agent, cur := a.agent } lane x (s.ctx a.agent).pc false := by
  have hpass : ∀ p, a.stage ≠ .passed (some p) := by
    intro p hp
    rw [Access.hit, hp] at hhit
    cases hhit
  have hkeep : (s.accesses.filter fun b => !(decide (b.agent = a.agent) && b.hit.isNone)) = s.accesses := by
    rw [List.filter_eq_self]
    intro b hb
    by_cases hag : b.agent = a.agent
    · have hmem : b ∈ s.accesses.filter fun b => decide (b.agent = a.agent) := List.mem_filter.mpr ⟨hb, decide_eq_true hag⟩
      rw [honly, List.mem_singleton] at hmem
      rw [hmem, hhit]
      simp
    · simp [hag]
  unfold State.finishAccess
  rw [honly]
  rcases ho : List.findSome? (fun b : Access => b.op.acq) [a] with _ | sc
  all_goals
    simp only [ho, redsOf_single s a.agent hpass, scOf_single hpass, List.any_cons, List.any_nil, hhit, Option.isSome_some,
      Option.isNone_some, Bool.or_false, Bool.not_true, List.isEmpty_nil, Bool.false_eq_true, if_false, if_true, List.foldl_nil, List.append_nil,
      Bool.false_or, hkeep]
    exact finishHits_single (s := { s with cur := a.agent }) honly hgrp hhit

section
variable {w : State} {n : Nat} {a : Access} (h : w.accesses[n]? = some a) (honly : (w.accesses.filter fun b => decide (b.agent = a.agent)) = [a])
  (hst : (w.ctx a.agent).st = .parked .check)
include h honly hst

/-- An access that has passed its check point ends its instruction, which goes on. -/
theorem setStage_passed (hacq : a.op.acq = none) :
    w.setStage n a (.passed none) = State.retire { w with accesses := w.otherAccesses a.agent, cur := a.agent } a.sm := by
  have hmine := filter_set_single (p := fun b : Access => decide (b.agent = a.agent)) (b := { a with stage := .passed none, since := w.gtime })
    (decide_eq_true rfl) (decide_eq_true rfl) h honly
  have hrest := filter_set_other (p := fun b : Access => !decide (b.agent = a.agent)) (b := { a with stage := .passed none, since := w.gtime })
    (by simp) (by simp) h
  have hfin := finishAccess_passed (s := { w with accesses := w.accesses.set n { a with stage := .passed none, since := w.gtime } })
    (a := { a with stage := .passed none, since := w.gtime }) hmine rfl hacq
  unfold State.setStage State.accessCheck
  dsimp only at hfin ⊢
  rw [hmine, hfin, State.otherAccesses, hrest]
  have hst' : (State.ctx { w with accesses := w.accesses.set n { a with stage := .passed none, since := w.gtime } } a.agent).st = .parked .check := hst
  simp only [hst', bne_self_eq_false, Bool.false_eq_true, if_false, List.all_cons, List.all_nil, Stage.resolved, Bool.and_true, if_true, List.any_cons,
    List.any_nil, Access.hit, Option.isSome_none, Bool.or_false, Bool.false_and]
  rfl

/-- An access that is hit, in no pause of the cluster, ends its instruction in the trap or the upcall. -/
theorem setStage_hit (hgrp : (w.ctx a.agent).grp = none) (hp : w.paused a.agent.cl = false) {st : Stage} {lane : CtxId} {x : Hit}
    (hhit : Access.hit { a with stage := st, since := w.gtime } = some (lane, x)) (hport : ∀ y, st ≠ .remote y) :
    w.setStage n a st = State.takeHit { w with accesses := w.otherAccesses a.agent, cur := a.agent } lane x (w.ctx a.agent).pc false := by
  have hmine := filter_set_single (p := fun b : Access => decide (b.agent = a.agent)) (b := { a with stage := st, since := w.gtime })
    (decide_eq_true rfl) (decide_eq_true rfl) h honly
  have hrest := filter_set_other (p := fun b : Access => !decide (b.agent = a.agent)) (b := { a with stage := st, since := w.gtime })
    (by simp) (by simp) h
  have hfin := finishAccess_hit (s := { w with accesses := w.accesses.set n { a with stage := st, since := w.gtime } })
    (a := { a with stage := st, since := w.gtime }) hmine hgrp hhit
  have hres : st.resolved = true := by
    cases st <;> simp_all [Access.hit, Stage.resolved]
  have hst' : (State.ctx { w with accesses := w.accesses.set n { a with stage := st, since := w.gtime } } a.agent).st = .parked .check := hst
  have hp' : State.paused { w with accesses := w.accesses.set n { a with stage := st, since := w.gtime } } a.agent.cl = false := hp
  have hset : w.setStage n a st = State.accessCheck { w with accesses := w.accesses.set n { a with stage := st, since := w.gtime } } a.agent := by
    unfold State.setStage
    cases st with
    | remote y => exact absurd rfl (hport y)
    | _ => rfl
  rw [hset]
  unfold State.accessCheck
  dsimp only at hfin ⊢
  rw [hmine, hfin, State.otherAccesses, hrest]
  simp only [hst', bne_self_eq_false, Bool.false_eq_true, if_false, List.all_cons, List.all_nil, hres, Bool.and_true, if_true, List.any_cons,
    List.any_nil, hhit, Option.isSome_some, Bool.or_false, hp', Bool.and_false]
  rfl
end

end Sys2Proof.Machine
end

section
/-! The check point of a load and of a store of an uncacheable page (O18). -/
namespace Sys2Proof.Machine

theorem drainWrites_of_none {s : State} {f : PWrite → Bool} (h : ∀ w ∈ s.writes, f w = false) : s.drainWrites f = s := by
  have hno : ∀ w ∈ s.writes, (f w && !s.placeLost w.place && !w.mute) = false := fun w hw => by rw [h w hw, Bool.false_and, Bool.false_and]
  have hnow : (s.writes.filter fun w => f w && !s.placeLost w.place && !w.mute) = [] :=
    List.filter_eq_nil_iff.mpr fun w hw => by rw [hno w hw]; nofun
  have hlater : (s.writes.filter fun w => !(f w && !s.placeLost w.place && !w.mute)) = s.writes :=
    List.filter_eq_self.mpr fun w hw => by rw [hno w hw]; rfl
  unfold State.drainWrites
  dsimp only
  rw [hnow, hlater]
  rfl

theorem drainReds_of_none {s : State} {f : PRed → Bool} (h : ∀ r ∈ s.reds, f r = false) : s.drainReds f = s := by
  have hno : ∀ r ∈ s.reds, (f r && !s.placeLost r.place) = false := fun r hr => by rw [h r hr, Bool.false_and]
  have hnow : (s.reds.filter fun r => f r && !s.placeLost r.place) = [] := List.filter_eq_nil_iff.mpr fun r hr => by rw [hno r hr]; nofun
  have hlater : (s.reds.filter fun r => !(f r && !s.placeLost r.place)) = s.reds := List.filter_eq_self.mpr fun r hr => by rw [hno r hr]; rfl
  unfold State.drainReds
  dsimp only
  rw [hnow, hlater]
  rfl

theorem noteAgent_rest (s : State) (a : Option CtxId) (va pa : Nat) (w : Bool) :
    s.noteAgent a va pa w = { s with home := (s.noteAgent a va pa w).home } := by
  unfold State.noteAgent State.noteVia State.modHome
  split
  · split
    · rfl
    · split <;> rfl
  · rfl

theorem renew_rest (s : State) (a : CtxId) (pa : Nat) :
    (s.renew a pa).2 = { s with home := (s.renew a pa).2.home, ctxs := (s.renew a pa).2.ctxs } := by
  unfold State.renew State.setTs State.modHome
  dsimp only
  split <;> rfl

theorem settled_renew (s : State) (a : CtxId) (pa : Nat) : Settled s (s.renew a pa).2 := (settled_modHome s _ _).trans (settled_hasRead _ _ _)

theorem renew_freeCtr (s : State) (a : CtxId) (pa f : Nat) :
    (State.renew { s with freeCtr := f } a pa).2 = { (s.renew a pa).2 with freeCtr := f } := by
  unfold State.renew State.setTs State.modHome
  dsimp only
  split <;> rfl

theorem fillSlice_uncached (s : State) (w : Who) (va : Nat) {x : Xlat} (h : x.attr = 2) : s.fillSlice w va x = s := by
  unfold State.fillSlice State.sput
  simp only [h, true_or, if_true]
  split
  · rfl
  · split <;> rfl

section
variable {s : State} {id : CtxId} (ha : (s.ctx id).grp = none)
include ha

theorem laneLong_alone (d : Reg) (v : Word) (late : Option Late) : s.laneLong id id d v late =
    { s with longs := s.longs ++ if d = 0 then [] else [{ dst := id, dest := .g d, val := v, late := late }] } := by
  unfold State.laneLong State.fileOf
  rw [lowest_alone (groupOf_alone ha), leader_alone ha]
  by_cases hd : d = 0
  · simp [hd]
  · simp [hd]

theorem bankPipe_alone (line : Nat) : s.bankPipe id line = id.pipe := by
  rw [State.bankPipe, groupOf_alone ha]

variable (hw : ∀ w ∈ s.writes, s.sameBank id w = false) (hr : ∀ r ∈ s.reds, r.agent ≠ id)
  (hl : ∀ l ∈ s.longs, ∀ q, l.late = some q → q.agent ≠ id)

omit ha in
include hw hr hl in
theorem orderOwn_of_none (p : Place) (n : Nat) : s.orderOwn id p n = s := by
  have h1 : (s.settleLate fun t => decide (t.agent = id) && placesMeet t.place t.n p n) = s :=
    settleLate_of_none fun l hm t ht => by rw [decide_eq_false (hl l hm t ht), Bool.false_and]
  have h2 : (s.drainWrites fun w => s.sameBank id w && placesMeet w.place w.data.length p n) = s :=
    drainWrites_of_none fun w hm => by rw [hw w hm, Bool.false_and]
  have h3 : (s.drainReds fun r => decide (r.agent = id) && placesMeet r.place r.n p n) = s :=
    drainReds_of_none fun r hm => by rw [decide_eq_false (hr r hm), Bool.false_and]
  unfold State.orderOwn
  dsimp only
  rw [h1, h2, h3]

variable {va : Nat} {x : Xlat} (hattr : x.attr = 2) (hline : s.findLine id (va / 64) = none)
include hw hr hl hattr hline

omit ha hw hr hl hattr in
theorem findLine_noteAgent (pa : Nat) (w : Bool) : (s.noteAgent (some id) va pa w).findLine id (va / 64) = none := by
  rw [noteAgent_rest]
  exact hline

/-- A load of an uncacheable page reads its bytes at the home slice, now or later. -/
theorem pagedPerform_load (hal : (s.noteAgent (some id) va (x.pa va) x.w).isAliased id va (x.pa va) = false) (n : Nat) (sext : Bool) (d : Reg)
    (hint : Nat) : ∃ u f late, Settled s u ∧ (late = none ∨ late = some ⟨id, .mem va (x.pa va), n, sext⟩) ∧
      s.pagedPerform id id va (.load n sext d hint none) x = (.passed none, { u with
        freeCtr := f, longs := u.longs ++ if d = 0 then [] else [{
          dst := id, dest := .g d, val := extend n sext (leNat (Memory.readN u.mem (x.pa va) n)), late := late }] }) := by
  have hn := settled_noteAgent s (some id) va (x.pa va) x.w
  have hnl := findLine_noteAgent hline (x.pa va) x.w
  unfold State.pagedPerform
  dsimp only
  rw [orderOwn_of_none hw hr hl]
  generalize s.noteAgent (some id) va (x.pa va) x.w = v at hn hal hnl ⊢
  have hs := hn.trans (settled_renew v id (x.pa va))
  have hval : extend n sext (leNat (Memory.readN (v.renew id (x.pa va)).2.mem (x.pa va) n)) = extend n sext (leNat (Memory.readN v.mem (x.pa va) n)) := by
    rw [renew_rest]
  have hren := renew_freeCtr v id (x.pa va) (v.freeCtr + 1)
  generalize (v.renew id (x.pa va)).2 = u at hs hval hren
  have hlate := fun l : Option Late => laneLong_alone (s := { u with freeCtr := v.freeCtr + 1 }) (id := id)
    (show (u.ctx id).grp = none by rw [hs.grp, ha]) d (extend n sext (leNat (Memory.readN v.mem (x.pa va) n))) l
  refine ⟨u, v.freeCtr + 1, if (Config.free v.freeCtr).getLsbD 0 then some ⟨id, .mem va (x.pa va), n, sext⟩ else none, hs, ?_, ?_⟩
  · split
    · exact .inr rfl
    · exact .inl rfl
  · rw [hval]
    simp only [hal, hnl, hattr, State.freshFree, Bool.false_eq_true, if_false, Option.isNone_none, Bool.true_and, hren, OfNat.ofNat_ne_zero, false_and]
    split
    · exact congrArg (Prod.mk _) (hlate _)
    · exact congrArg (Prod.mk _) (hlate _)

/-- A store to an uncacheable page leaves for the home slice. -/
theorem pagedPerform_store (n : Nat) (v : Word) (hint : Nat) (rel : Option Scope) : ∃ u, Settled s u ∧
      s.pagedPerform id id va (.store n v hint rel) x = (.passed none, { u with writes := u.writes ++ [{
          agent := id, pipe := id.pipe, place := .mem va (x.pa va), data := leBytes n v.toNat, mask := BitVec.ofNat 64 (2 ^ n - 1)
          since := s.gtime, port := s.portTo (x.pa va), kind := u.wkind id rel false }] }) := by
  have hn := settled_noteAgent s (some id) va (x.pa va) x.w
  have hrest := noteAgent_rest s (some id) va (x.pa va) x.w
  have hnl := findLine_noteAgent hline (x.pa va) x.w
  refine ⟨_, hn, ?_⟩
  unfold State.pagedPerform
  dsimp only
  rw [orderOwn_of_none hw hr hl]
  generalize s.noteAgent (some id) va (x.pa va) x.w = u at hn hrest hnl ⊢
  have hbank := bankPipe_alone (s := u) (id := id) (by rw [hn.grp, ha]) (va / 64)
  simp only [hnl, hattr, Option.isSome_none, Bool.false_and, Bool.false_eq_true, if_false, OfNat.ofNat_ne_zero, false_and,
    State.sendWrite, State.bankOf, hbank, length_leBytes, byteMask, pow_zero, Nat.mul_one]
  have hport : u.portTo (x.pa va) = s.portTo (x.pa va) := by rw [hrest]; rfl
  have htime : u.gtime = s.gtime := by rw [hrest]
  rw [hport, htime]

end

end Sys2Proof.Machine
end

section
/-! Check points (O18): an access passes, fails, or enters the fault unit. -/
namespace Sys2Proof.Machine

theorem stageStep_some {s w : State} {n : Nat} {a : Access} {f : Access → Option (Stage × State)} {st : Stage} (h : s.accesses[n]? = some a)
    (hf : f a = some (st, w)) : s.stageStep n f = w.setStage n a st := by
  simp only [State.stageStep, h, hf]

theorem exec_checkPointPass {s : State} {a : Access} {x : Xlat} (h : s.accesses[s.subj.n]? = some a) (hst : a.stage = .check x) :
    exec .checkPointPass s = .next ((s.checkStage a.agent a.lane a.va a.op x).2.setStage s.subj.n a (s.checkStage a.agent a.lane a.va a.op x).1) :=
  congrArg Host.Outcome.next (stageStep_some h (by simp only [hst]))

theorem exec_remoteResponse {s : State} {a : Access} {x : Xlat} (h : s.accesses[s.subj.n]? = some a) (hst : a.stage = .remote x) :
    exec .remoteResponse s = .next (if s.subj.ok then
      (s.checkStage a.agent a.lane a.va a.op x).2.setStage s.subj.n a (s.checkStage a.agent a.lane a.va a.op x).1
      else s.setStage s.subj.n a (trapStage a.op cPROTECTION 4 a.va)) := by
  refine congrArg Host.Outcome.next ?_
  cases hok : s.subj.ok with
  | true => exact stageStep_some h (by simp only [hst, if_true])
  | false => exact stageStep_some h (by simp only [hst, Bool.false_eq_true, if_false])

theorem checkStage_performs {s : State} {agent : CtxId} {va : Nat} {op : MemOp} {x : Xlat} (hattr : x.attr = 2) (hlost : s.lostPeer (x.pa va) = false)
    (hpoison : s.poisonedAt (x.pa va) op.bytes = false) (hop : op.isRmw = false) :
    s.checkStage agent agent va op x = s.pagedPerform agent agent va op x := by
  simp only [State.checkStage, hlost, hpoison, hop, Bool.false_and, Bool.false_or, Bool.false_eq_true, if_false, fillSlice_uncached _ _ _ hattr]

/-- A context alone whose one access, its own, waits for its check point. -/
structure AtCheck (s : State) (a : Access) (c : Ctx) : Prop where
  at_ : s.accesses[s.subj.n]? = some a
  ctx : s.findCtx a.agent = some c
  lane : a.lane = a.agent
  alone : c.grp = none
  parked : c.st = .parked .check
  only : (s.accesses.filter fun b => decide (b.agent = a.agent)) = [a]

section
variable {s : State} {a : Access} {c : Ctx} (h : AtCheck s a c)
include h

theorem AtCheck.grp : (s.ctx a.agent).grp = none := by rw [ctx_of_find h.ctx, h.alone]

/-- The access has passed in a state that is the settled one but for free values, results and writes: the instruction goes on. -/
theorem AtCheck.passes {u w : State} (hs : Settled s u) (hacc : w.accesses = u.accesses) (hctx : w.ctxs = u.ctxs) (hacq : a.op.acq = none) :
    ∃ t, w.setStage s.subj.n a (.passed none) = t ∧ Owes [] a.sm (c.pc + 4) { w with cur := a.agent, accesses := s.otherAccesses a.agent } t := by
  have hacc' : w.accesses = s.accesses := by rw [hacc, hs.rest]
  have hfind : w.findCtx a.agent = u.findCtx a.agent := by rw [State.findCtx, hctx]; rfl
  have hu := hs.ctxs a.agent
  rw [h.ctx, Option.map_some, ← hfind] at hu
  have hst : (w.ctx a.agent).st = .parked .check := by rw [ctx_of_find hu]; exact h.parked
  have hpc : (w.ctx a.agent).pc = c.pc := by rw [ctx_of_find hu]
  refine ⟨_, setStage_passed (w := w) (n := s.subj.n) (by rw [hacc']; exact h.at_) (by rw [hacc']; exact h.only) hst hacq, ?_⟩
  have howes := owes_retire { w with accesses := s.otherAccesses a.agent, cur := a.agent } a.sm
  have hother : w.otherAccesses a.agent = s.otherAccesses a.agent := by rw [State.otherAccesses, hacc']; rfl
  rw [hother, ← hpc]
  exact howes

variable {x : Xlat} (hw : ∀ w ∈ s.writes, s.sameBank a.agent w = false) (hr : ∀ r ∈ s.reds, r.agent ≠ a.agent)
  (hl : ∀ l ∈ s.longs, ∀ q, l.late = some q → q.agent ≠ a.agent) (hlost : s.lostPeer (x.pa a.va) = false)
  (hpoison : s.poisonedAt (x.pa a.va) a.op.bytes = false) (hline : s.findLine a.agent (a.va / 64) = none) (hattr : x.attr = 2)
include hw hr hl hlost hpoison hline hattr

/-- A load of an uncacheable page that passes its check point. -/
theorem AtCheck.load_passes (hal : (s.noteAgent (some a.agent) a.va (x.pa a.va) x.w).isAliased a.agent a.va (x.pa a.va) = false) {n : Nat} {sext : Bool}
    {d : Reg} {hint : Nat} (hop : a.op = .load n sext d hint none) :
    ∃ t, (s.checkStage a.agent a.lane a.va a.op x).2.setStage s.subj.n a (s.checkStage a.agent a.lane a.va a.op x).1 = t ∧ ∃ u f late,
      Settled s u ∧ (late = none ∨ late = some ⟨a.agent, .mem a.va (x.pa a.va), n, sext⟩) ∧
      Owes (if d = 0 then [] else [{ dst := a.agent, dest := .g d, val := extend n sext (leNat (Memory.readN u.mem (x.pa a.va) n)), late := late }]) a.sm
        (c.pc + 4) { u with cur := a.agent, freeCtr := f, accesses := s.otherAccesses a.agent } t := by
  obtain ⟨u, f, late, hs, hlate, hp⟩ := pagedPerform_load h.grp hw hr hl hattr hline hal n sext d hint
  rw [h.lane, checkStage_performs hattr hlost hpoison (by rw [hop]; rfl), hop, hp]
  obtain ⟨t, ht, howes⟩ := h.passes (w := { u with freeCtr := f, longs := u.longs ++ if d = 0 then [] else [{
    dst := a.agent, dest := .g d, val := extend n sext (leNat (Memory.readN u.mem (x.pa a.va) n)), late := late }] }) hs rfl rfl (by rw [hop]; rfl)
  refine ⟨t, ht, u, f, late, hs, hlate, ?_⟩
  have := Owes.append (s := { u with cur := a.agent, freeCtr := f, accesses := s.otherAccesses a.agent }) howes
  rwa [List.append_nil] at this

/-- A store to an uncacheable page that passes its check point. -/
theorem AtCheck.store_passes {n : Nat} {v : Word} {hint : Nat} {rel : Option Scope} (hop : a.op = .store n v hint rel) :
    ∃ t, (s.checkStage a.agent a.lane a.va a.op x).2.setStage s.subj.n a (s.checkStage a.agent a.lane a.va a.op x).1 = t ∧ ∃ u, Settled s u ∧
      Owes [] a.sm (c.pc + 4) { u with
        cur := a.agent, accesses := s.otherAccesses a.agent
        writes := u.writes ++ [{
          agent := a.agent, pipe := a.agent.pipe, place := .mem a.va (x.pa a.va), data := leBytes n v.toNat, mask := BitVec.ofNat 64 (2 ^ n - 1)
          since := s.gtime, port := s.portTo (x.pa a.va), kind := u.wkind a.agent rel false }] } t := by
  obtain ⟨u, hs, hp⟩ := pagedPerform_store h.grp hw hr hl hattr hline n v hint rel
  rw [h.lane, checkStage_performs hattr hlost hpoison (by rw [hop]; rfl), hop, hp]
  obtain ⟨t, ht, howes⟩ := h.passes (w := { u with writes := u.writes ++ [{
          agent := a.agent, pipe := a.agent.pipe, place := .mem a.va (x.pa a.va), data := leBytes n v.toNat, mask := BitVec.ofNat 64 (2 ^ n - 1)
          since := s.gtime, port := s.portTo (x.pa a.va), kind := u.wkind a.agent rel false }] }) hs rfl rfl (by rw [hop]; rfl)
  exact ⟨t, ht, u, hs, howes⟩

omit hw hr hl hlost hpoison hline hattr in
/-- A response that reports a failure traps. -/
theorem AtCheck.fails (hpf : a.op.isPf = false) (hp : s.paused a.agent.cl = false) (ht : Trappable s a.agent) :
    ∃ t, s.setStage s.subj.n a (trapStage a.op cPROTECTION 4 a.va) = t ∧ t.cur = a.agent ∧ t.accesses = s.otherAccesses a.agent ∧
      TookTrap a.agent cPROTECTION 4 (BitVec.ofNat 64 a.va) c.pc { s with cur := a.agent, accesses := s.otherAccesses a.agent } t := by
  have hst : trapStage a.op cPROTECTION 4 a.va = .trapped cPROTECTION 4 (BitVec.ofNat 64 a.va) := by simp [trapStage, hpf]
  obtain ⟨here, alone, booted, level, clean, answered⟩ := ht
  have ht' : Trappable { s with cur := a.agent, accesses := s.otherAccesses a.agent } a.agent := ⟨here, alone, booted, level, clean, answered⟩
  have htook := tookTrap_takeTrap ht' cPROTECTION 4 (BitVec.ofNat 64 a.va) c.pc false false
  rw [hst, setStage_hit h.at_ h.only (by rw [ctx_of_find h.ctx]; exact h.parked) h.grp hp
    (lane := a.agent) (x := .trap cPROTECTION 4 (BitVec.ofNat 64 a.va)) (by rw [← h.lane]; rfl) (fun y hy => by cases hy), ctx_of_find h.ctx]
  refine ⟨_, rfl, ?_, ?_, htook⟩
  · exact (congrArg State.cur htook.rest)
  · exact (congrArg State.accesses htook.rest)

end
end Sys2Proof.Machine
end

section
/-! A held access that enters the fault unit, and the upcall of its context (O18). -/
namespace Sys2Proof.Machine

/-- An upcall of a context that runs alone: its outstanding results are written first. -/
theorem takeUpcall_alone {s : State} {id : CtxId} {m : Ctx} (hm : s.findCtx id = some m) (ha : m.grp = none) (hp : s.poisonOf id = none)
    (hans : ∀ q ∈ s.packets, q.from_ = id → q.dest = 0) (tok status : Nat) (va pc : Word) (fd : Bool) :
    (∃ g p, (s.takeUpcall id tok status va pc fd).findCtx id = some (upcallCtx { m with g := g, p := p } tok status va pc)) ∧
    (∀ j, j ≠ id → (s.takeUpcall id tok status va pc fd).findCtx j = s.findCtx j) ∧
    (s.takeUpcall id tok status va pc fd).faults = s.faults ∧ (s.takeUpcall id tok status va pc fd).accesses = s.accesses := by
  have hgrp : (s.ctx id).grp = none := by rw [ctx_of_find hm, ha]
  obtain ⟨u, hu, hfl⟩ := flush_alone s hgrp
  have hfind : ∀ j, ((s.flushLongs id).leaveBlocks id).findCtx j = u.findCtx j := fun j => by
    rw [findCtx_leaveBlocks, hfl]; rfl
  have hself : ((s.flushLongs id).leaveBlocks id).findCtx id = some { m with g := (u.ctx id).g, p := (u.ctx id).p } := by
    rw [hfind, hu.ctxs, hm, Option.map_some, if_pos rfl]
  unfold State.takeUpcall
  simp only [hp, deliverFor_none hgrp hans]
  refine ⟨⟨_, _, findCtx_modCtx_self hself (by intro; rfl)⟩, fun j hj => ?_, ?_, ?_⟩
  · rw [findCtx_modCtx _ _ _ (by intro; rfl), if_neg hj, hfind, hu.ctxs]
    simp only [if_neg hj, Option.map_id']
  · rw [leaveBlocks_rest, hfl, hu.rest]
    rfl
  · rw [leaveBlocks_rest, hfl, hu.rest]
    rfl

/-- A stamp of a cluster that has settled is a stamp of the cluster before. -/
theorem Stamp.of_settled {s u : State} (hs : Settled s u) {cl g : Nat} (h : Stamp u cl g) : Stamp s cl g := by
  have hc := congrArg Cluster.gLast (hs.clusters cl)
  have ht : u.gtime = s.gtime := by rw [hs.rest]
  unfold Stamp at h ⊢
  rw [ht, show (u.cluster cl).gLast = (s.cluster cl).gLast from hc] at h
  exact h

theorem paused_congr {s u : State} {cl : Nat} (h : (u.cluster cl).change = (s.cluster cl).change) : u.paused cl = s.paused cl := by
  unfold State.paused
  rw [h]

/-- The record that a context's fault makes, and nothing else of the fault unit (R422). -/
theorem ctxFault_new {s : State} {part va reason : Nat} (hnone : s.faultMatch part va reason = none)
    (hroom : (s.faults.filter fun f => decide (f.part = part)).length < 4096) (kind : BitVec 4) (c : Ctx) (tok : Nat) :
    ∃ (g : Nat) (u : State) (ts : Nat), Stamp s c.id.cl g ∧ u = { s with freeCtr := u.freeCtr, clusters := u.clusters } ∧ (u.cluster c.id.cl).change = (s.cluster c.id.cl).change ∧
      s.ctxFault part va reason kind c tok = some { u with faults := s.faults ++ [{
        part := part, va := va, key := faultKey tok false (s.logical c.id.cl) c.id.pipe c.id.slot, gtime := g
        kind := kind, reason := reason, domain := c.domain, merge := 0, priv := privNum c.priv, queued := true
        waiters := [.ctx c.id c.team tok], ts := ts }] } := by
  obtain ⟨g, k, hg, hr⟩ := readGtime_eq s c.id.cl
  have hsnd := readGtime_snd s c.id.cl
  have hchange : ((s.readGtime c.id.cl).2.cluster c.id.cl).change = (s.cluster c.id.cl).change := by
    rw [hsnd]
    have hk := cluster_modCluster_self { s with freeCtr := s.freeCtr + 1 } c.id.cl (f := fun k => { k with gLast := (s.readGtime c.id.cl).1 }) (by intro; rfl)
    exact (congrArg Cluster.change hk).trans rfl
  rw [hr] at hchange
  refine ⟨g, { s with freeCtr := s.freeCtr + 1, clusters := k }, s.relTs c.id, hg, rfl, hchange, ?_⟩
  unfold State.ctxFault
  simp only [hnone, hroom, if_true, hr]
  rfl

theorem faultDelivery_user {s : State} {id : CtxId} {part va reason k : Nat} (h : s.faultDelivery id part va reason = some k) :
    (s.ctx id).priv = .user ∧ (s.ctx id).tl = 0 := by
  unfold State.faultDelivery at h
  dsimp only at h
  split at h
  next hu => exact ⟨hu.1, hu.2.1⟩
  next => cases h

section
variable {s : State} {a : Access} {c : Ctx} {p : Partition} {reason k : Nat} (h : AtCheck s a c) (hstage : a.stage = .heldFault reason)
  (hpf : a.op.isPf = false) (hp : s.paused a.agent.cl = false) (hpoison : s.poisonOf a.agent = none) (hpart : s.partOf a.agent.cl = some p)
  (hdel : s.faultDelivery a.agent p.num a.va reason = some k) (hnone : s.faultMatch p.num a.va reason = none)
  (hroom : (s.faults.filter fun f => decide (f.part = p.num)).length < 4096)
include h hpf hp hpoison hpart hdel hnone hroom

/-- The access that is held makes its record, and its context takes the token. -/
theorem faultStage_enters : ∃ (v u : State) (ts g : Nat), Settled s v ∧ Retimed s v ∧ Stamp s a.agent.cl g ∧ u = { v with freeCtr := u.freeCtr, clusters := u.clusters } ∧
    (u.cluster a.agent.cl).change = (s.cluster a.agent.cl).change ∧
    s.faultStage a.lane a.va a.op reason = (.upcall k 0, State.modCtx { u with faults := s.faults ++ [{
        part := p.num, va := a.va, key := faultKey k false (s.logical a.agent.cl) a.agent.pipe a.agent.slot, gtime := g
        kind := a.op.kind, reason := reason, domain := c.domain, merge := 0, priv := privNum c.priv, queued := true
        waiters := [.ctx a.agent c.team k], ts := ts }] } a.agent (useToken k a.va)) := by
  have hs := settled_drainGroup s a.agent
  have hre := retimed_drainGroup s a.agent
  have hfaults : (s.drainGroup a.agent).faults = s.faults := by rw [hs.rest]
  have hlog : (s.drainGroup a.agent).logical a.agent.cl = s.logical a.agent.cl := by rw [hs.rest]; rfl
  have hmatch : (s.drainGroup a.agent).faultMatch p.num a.va reason = none := by rw [State.faultMatch, hfaults]; exact hnone
  have hu := hs.ctxs a.agent
  rw [h.ctx, Option.map_some] at hu
  have hid := findCtx_id h.ctx
  unfold State.faultStage
  simp only [hpf, h.lane, hpoison, Option.isSome_none, Bool.false_eq_true, if_false, hp, hpart, hdel, leader_alone h.grp]
  generalize s.drainGroup a.agent = v at hs hre hfaults hlog hmatch hu ⊢
  obtain ⟨g, u, ts, hg, hrest, hchange, hct⟩ := ctxFault_new hmatch (by rw [hfaults]; exact hroom) a.op.kind (v.ctx a.agent) k
  rw [ctx_of_find hu] at hg hchange hct ⊢
  rw [show ({ c with pts := (v.ctx a.agent).pts, mts := (v.ctx a.agent).mts, vis := (v.ctx a.agent).vis } : Ctx).id = a.agent from hid, hlog] at *
  have hc := congrArg Cluster.change (hs.clusters a.agent.cl)
  refine ⟨v, u, ts, g, hs, hre, hg.of_settled hs, hrest, hchange.trans hc, ?_⟩
  simp only [hct, hfaults]

include hstage in
/-- The record enters the fault unit, and the context takes its upcall. -/
theorem faultRecordAdmit_upcalls (hans : ∀ q ∈ s.packets, q.from_ = a.agent → q.dest = 0) : Runs .faultRecordAdmit s fun t =>
    (∃ f, t.faults = s.faults ++ [f] ∧ f.part = p.num ∧ f.va = a.va ∧ f.reason = reason ∧ f.kind = a.op.kind ∧ f.merge = 0 ∧ f.queued = true ∧
      f.priv = 0 ∧ f.domain = c.domain ∧ Stamp s a.agent.cl f.gtime ∧ f.waiters = [.ctx a.agent c.team k] ∧
      f.key = BitVec.ofNat 64 (k + a.agent.slot * 2 ^ 7 + a.agent.pipe * 2 ^ 9 + s.logical a.agent.cl * 2 ^ 13)) ∧
    t.accesses = s.otherAccesses a.agent ∧ (∃ m, t.findCtx a.agent = some (upcallCtx m k 0 (BitVec.ofNat 64 a.va) c.pc) ∧
      m.mode = c.mode ∧ m.upvec = c.upvec ∧ m.tl = 0) ∧
    ∀ j, j ≠ a.agent → ∃ q m v, t.findCtx j = (s.findCtx j).map fun o => { o with pts := q, mts := m, vis := v } := by
  obtain ⟨huser, htl⟩ := faultDelivery_user hdel
  rw [ctx_of_find h.ctx] at huser htl
  obtain ⟨v, u, ts, g, hs, hre, hg, hrest, hchange, hstep⟩ := faultStage_enters h hpf hp hpoison hpart hdel hnone hroom
  have hx : exec .faultRecordAdmit s = .next ((s.faultStage a.lane a.va a.op reason).2.setStage s.subj.n a (s.faultStage a.lane a.va a.op reason).1) :=
    congrArg Host.Outcome.next (stageStep_some h.at_ (by simp only [hstage]))
  rw [hstep] at hx
  dsimp only at hx
  have hv := hs.ctxs a.agent
  rw [h.ctx, Option.map_some] at hv
  have hfind : ∀ j, u.findCtx j = v.findCtx j := fun j => by rw [hrest]; rfl
  have hacc : u.accesses = s.accesses := by rw [hrest, hs.rest]
  have hpackets : u.packets = s.packets := by rw [hrest, hs.rest]
  have hlongs : u.longs = v.longs := by rw [hrest]
  generalize hF : ({ part := p.num, va := a.va, key := _, gtime := g, kind := _, reason := reason, domain := _, merge := 0, priv := _, queued := true, waiters := _, ts := ts } : FaultRec) = F at hx
  have hself := findCtx_modCtx_self (s := { u with faults := s.faults ++ [F] }) (f := useToken k a.va) ((hfind a.agent).trans hv) (by intro; rfl)
  have hothers : ∀ j, j ≠ a.agent → (State.modCtx { u with faults := s.faults ++ [F] } a.agent (useToken k a.va)).findCtx j = v.findCtx j := fun j hj => by
    rw [findCtx_modCtx _ _ _ (by intro; rfl), if_neg hj]
    exact hfind j
  have hpaused : (State.modCtx { u with faults := s.faults ++ [F] } a.agent (useToken k a.va)).paused a.agent.cl = false :=
    (paused_congr (s := s) hchange).trans hp
  have hclean : State.poisonOf { State.modCtx { u with faults := s.faults ++ [F] } a.agent (useToken k a.va) with
      accesses := s.otherAccesses a.agent, cur := a.agent } a.agent = none := by
    have hvp := (hre.poisonOf (id := a.agent) (by rw [ctx_of_find hv, ctx_of_find h.ctx])).trans hpoison
    rw [State.poisonOf, ctx_of_find hv, ← hlongs] at hvp
    rw [State.poisonOf, ctx_of_find (s := { State.modCtx { u with faults := s.faults ++ [F] } a.agent (useToken k a.va) with
      accesses := s.otherAccesses a.agent, cur := a.agent }) hself]
    exact hvp
  have hother : (State.modCtx { u with faults := s.faults ++ [F] } a.agent (useToken k a.va)).otherAccesses a.agent = s.otherAccesses a.agent := by
    unfold State.otherAccesses State.modCtx
    rw [hacc]
  have hfin := setStage_hit (w := State.modCtx { u with faults := s.faults ++ [F] } a.agent (useToken k a.va)) (n := s.subj.n) (a := a) (st := .upcall k 0)
    (lane := a.agent) (x := .upcall k 0 (BitVec.ofNat 64 a.va)) (by rw [State.modCtx, hacc]; exact h.at_) (by rw [State.modCtx, hacc]; exact h.only)
    (by rw [ctx_of_find hself]; exact h.parked) (by rw [ctx_of_find hself]; exact h.alone) hpaused (by rw [← h.lane]; rfl) (fun y hy => by cases hy)
  rw [hfin, hother, ctx_of_find hself] at hx
  obtain ⟨⟨gr, pr, hup⟩, hne, hfaults, haccs⟩ := takeUpcall_alone (s := { State.modCtx { u with faults := s.faults ++ [F] } a.agent (useToken k a.va) with
      accesses := s.otherAccesses a.agent, cur := a.agent }) (id := a.agent) hself h.alone hclean (by rw [← hpackets] at hans; exact hans) k 0
      (BitVec.ofNat 64 a.va) c.pc false
  refine ⟨_, hx, ⟨F, hfaults, ?_⟩, haccs, ⟨_, hup, rfl, rfl, htl⟩, fun j hj => ⟨_, _, _, ((hne j hj).trans (hothers j hj)).trans (hs.ctxs j)⟩⟩
  subst hF
  exact ⟨rfl, rfl, rfl, rfl, rfl, rfl, by rw [huser]; rfl, rfl, hg, rfl, by simp [faultKey]⟩

end

/-- Settles O18, case by case: an access that passes is performed where it was checked, one that fails traps, and one that is held enters the fault unit. -/
theorem checkPoints : Obligations.CheckPoints := by
  unfold Obligations.CheckPoints
  refine ⟨?_, ?_⟩
  · intro s a c x hat hc hlane ha hst honly hw hr hl pa rest passes
    have h : AtCheck s a c := ⟨hat, hc, hlane, ha, hst, honly⟩
    have hpass : ∀ i, exec i s = .next ((s.checkStage a.agent a.lane a.va a.op x).2.setStage s.subj.n a (s.checkStage a.agent a.lane a.va a.op x).1) →
        passes i := by
      intro i hx hlost hpoison hal hline hattr
      refine ⟨fun n sext d hint hop => ?_, fun n v hint rel hop => ?_⟩
      · obtain ⟨t, ht, hu⟩ := h.load_passes hw hr hl hlost hpoison hline hattr hal hop
        exact ⟨t, by rw [hx, ht], hu⟩
      · obtain ⟨t, ht, hu⟩ := h.store_passes hw hr hl hlost hpoison hline hattr hop
        exact ⟨t, by rw [hx, ht], hu⟩
    refine ⟨fun hs => hpass _ (exec_checkPointPass hat hs), fun hs hok => hpass _ ?_, fun hs hok hpf hp htrap => ?_⟩
    · rw [exec_remoteResponse hat hs, if_pos hok]
    · obtain ⟨t, ht, hcur, hacc, htook⟩ := h.fails hpf hp htrap
      exact ⟨t, by rw [exec_remoteResponse hat hs, if_neg (by rw [hok]; nofun), ht], hcur, hacc, htook⟩
  · intro s a c p reason k hat hstage hc hlane ha hst hpf hans honly hp hpoison hpart hdel hnone hroom
    have h : AtCheck s a c := ⟨hat, hc, hlane, ha, hst, honly⟩
    obtain ⟨t, hx, hf, hacc, ⟨m, hm, hmode, hupvec, htl⟩, hoth⟩ := faultRecordAdmit_upcalls h hstage hpf hp hpoison hpart hdel hnone hroom hans
    refine ⟨t, hx, hf, hacc, ?_⟩
    rw [ctx_of_find hm]
    exact ⟨rfl, rfl, rfl, rfl, congrArg (· ||| 4) hmode, congrArg instrPc hupvec, rfl, htl, hoth⟩

end Sys2Proof.Machine
end

section
/-! A team that a swap takes out, and that returns (O47). -/
namespace Sys2Proof.Machine

/-! ### A team's record and contexts -/

theorem filter_map_congr {α β : Type} {f : α → β} {q : β → Bool} {l k : List α} (h : l.map f = k.map f) :
    (l.filter fun x => q (f x)).map f = (k.filter fun x => q (f x)).map f := by
  have e : ∀ l : List α, (l.filter fun x => q (f x)).map f = (l.map f).filter q := fun l => by rw [List.filter_map]; rfl
  rw [e, e, h]

theorem find?_map_congr {α β : Type} {f : α → β} {q : β → Bool} {l k : List α} (h : l.map f = k.map f) :
    (l.find? fun x => q (f x)).map f = (k.find? fun x => q (f x)).map f := by
  have e : ∀ l : List α, (l.find? fun x => q (f x)).map f = (l.map f).find? q := fun l => by rw [List.find?_map]; rfl
  rw [e, e, h]

section
variable {s u : State} (h : Retimed s u)
include h

theorem Retimed.teamCtxs (m : Team) : (u.teamCtxs m).map Ctx.untimed = (s.teamCtxs m).map Ctx.untimed :=
  filter_map_congr (q := fun c : Ctx => decide (c.id.cl = m.cl ∧ c.team = some m.num)) h.ctxs

theorem Retimed.findCtx (id : CtxId) : (u.findCtx id).map Ctx.untimed = (s.findCtx id).map Ctx.untimed :=
  find?_map_congr (q := fun c : Ctx => decide (c.id = id)) h.ctxs

/-- The numbers of a team's contexts. -/
theorem Retimed.ids (m : Team) : (u.teamCtxs m).map Ctx.id = (s.teamCtxs m).map Ctx.id := by
  have e := congrArg (List.map Ctx.id) (h.teamCtxs m)
  rwa [List.map_map, List.map_map] at e

end

/-- Contexts that are not of the ids stay found as they are. -/
theorem findCtx_filter_ids (s : State) (ids : List CtxId) {id : CtxId} (hid : id ∉ ids) :
    State.findCtx { s with ctxs := s.ctxs.filter fun c => !ids.contains c.id } id = s.findCtx id := by
  unfold State.findCtx
  rw [List.find?_filter]
  congr 1
  funext c
  by_cases hc : c.id = id
  · simp [hc, hid]
  · simp [hc]

/-! ### The swap begins -/

theorem team_numbers {s : State} {cl num : Nat} {m : Team} (h : s.team cl num = some m) : m.cl = cl ∧ m.num = num := by
  have hm := List.find?_some h
  simpa only [decide_eq_true_eq] using hm

section
variable {s : State} {m : Team} (hm : s.team s.subj.cl s.subj.team = some m)
include hm

theorem swapThresholdExpiry_marks : Runs .swapThresholdExpiry s fun t => t = { s with teams := t.teams } ∧
    t.team m.cl m.num = some { m with candidate := decide (1000 * m.tmpl.swap < s.longestWait m) } := by
  obtain ⟨hcl, hnum⟩ := team_numbers hm
  refine ⟨s.modTeam m.cl m.num fun t => { t with candidate := s.overThreshold t }, by rw [hcl, hnum]; rfl, rfl, ?_⟩
  rw [← hcl, ← hnum] at hm
  exact team_modTeam hm (fun t => { t with candidate := s.overThreshold t }) (fun _ => rfl) fun _ => rfl

theorem stopTeam_stops : s.stopTeam m = { s with teams := (s.stopTeam m).teams } ∧
    (s.stopTeam m).team m.cl m.num = some { m with swapping := true } := by
  obtain ⟨hcl, hnum⟩ := team_numbers hm
  refine ⟨rfl, ?_⟩
  unfold State.stopTeam
  rw [← hcl, ← hnum] at hm
  exact team_modTeam hm (fun t => { t with swapping := true }) (fun _ => rfl) fun _ => rfl

theorem teamSwapOut_stops (hd : s.swapDue m = true) : Runs .teamSwapOut s fun t => t = { s with teams := t.teams } ∧
    t.team m.cl m.num = some { m with swapping := true } := by
  have hno : s.swapReady m = false := by
    simp only [State.swapDue, State.swapWanted, Bool.and_eq_true, Bool.not_eq_true'] at hd
    obtain ⟨⟨⟨⟨⟨⟨-, hswapping⟩, -⟩, -⟩, -⟩, -⟩, -⟩ := hd
    rw [State.swapReady, hswapping, Bool.false_and]
  refine ⟨s.stopTeam m, congrArg Host.Outcome.next ?_, stopTeam_stops hm⟩
  simp only [hm, hno, hd, Bool.false_eq_true, if_false, if_true]

theorem residencySliceEnd_stops {p : Partition} (hp : s.partOf s.subj.cl = some p) (hd : s.sliceDue p m = true) :
    Runs .residencySliceEnd s fun t => t = { s with teams := t.teams } ∧ t.team m.cl m.num = some { m with swapping := true } := by
  refine ⟨s.stopTeam m, congrArg Host.Outcome.next ?_, stopTeam_stops hm⟩
  simp only [hm, hp, hd, if_true]

end

/-! ### The swap is carried out -/

/-- State t has the contexts of s but for timestamps, and teams of the same numbers. -/
structure Stands (s t : State) : Prop where
  retimed : Retimed s t
  teams : ∀ cl num, (t.team cl num).isSome = (s.team cl num).isSome

theorem Stands.trans {s t u : State} (h : Stands s t) (k : Stands t u) : Stands s u :=
  ⟨h.retimed.trans k.retimed, fun cl num => (k.teams cl num).trans (h.teams cl num)⟩

theorem stands_of_settled {s t : State} (h : Settled s t) (k : Retimed s t) : Stands s t :=
  ⟨k, fun cl num => by simpa only [Option.isSome_map] using congrArg Option.isSome (h.team cl num)⟩

theorem stands_of_eq {s t : State} (hc : t.ctxs = s.ctxs) (hl : t.longs = s.longs) (ht : t.teams = s.teams) : Stands s t :=
  ⟨retimed_of_eq hc hl, fun cl num => by rw [State.team, ht]; rfl⟩

theorem stands_modCluster (s : State) (cl : Nat) (f : Cluster → Cluster) : Stands s (s.modCluster cl f) := by
  rw [modCluster_rest]
  exact stands_of_eq rfl rfl rfl

theorem stands_foldl {α : Type} (f : State → α → State) (h : ∀ s a, Stands s (f s a)) : ∀ (l : List α) (s : State), Stands s (l.foldl f s)
  | [], _ => stands_of_eq rfl rfl rfl
  | a :: r, s => (h s a).trans (stands_foldl f h r (f s a))

theorem stands_emptyBanks (s : State) (cl base w : Nat) : Stands s (s.emptyBanks cl base w) :=
  stands_of_settled (settled_emptyBanks _ _ _ _) (retimed_emptyBanks _ _ _ _)

/-- What a swap writes back and takes away before it saves the team. -/
def State.quiesce (s : State) (t : Team) : State :=
  let ids := (s.teamCtxs t).map Ctx.id
  let own := fun (i : CtxId) => ids.contains i
  let s := s.modCluster t.cl (sfuAway own (.team t.num))
  let s := s.settleLate fun x => own x.agent
  let s := ids.foldl (fun (s : State) i => s.emptyBanks t.cl i.pipe 1) s
  let s := s.drainWrites fun w => own w.agent
  let s := s.drainReds fun r => own r.agent
  let s := if decide ((s.cluster t.cl).mxTeam = some t.num) then s.spill t.cl [0, 1, 2, 3] else s
  let s := s.dropSinter fun e => decide (e.cl = t.cl ∧ e.team = some t.num)
  let s := s.dropPins fun p => decide (p.cl = t.cl ∧ p.team = t.num)
  { s with compiles := s.compiles.filter fun c => !decide (c.cl = t.cl ∧ c.team = t.num) }

theorem stands_quiesce (s : State) (t : Team) : Stands s (s.quiesce t) := by
  unfold State.quiesce
  dsimp only
  generalize (s.teamCtxs t).map Ctx.id = ids
  have h1 := stands_modCluster s t.cl (sfuAway (fun i => ids.contains i) (.team t.num))
  generalize s.modCluster _ _ = s1 at h1 ⊢
  have h2 := h1.trans (stands_of_settled (settled_settleLate s1 fun x => ids.contains x.agent) (retimed_settleLate _ _))
  generalize s1.settleLate _ = s2 at h2 ⊢
  have h3 := h2.trans (stands_foldl (fun (s : State) i => s.emptyBanks t.cl i.pipe 1) (fun s i => stands_emptyBanks s _ _ _) ids s2)
  generalize ids.foldl _ s2 = s3 at h3 ⊢
  have h4 := h3.trans (stands_of_settled (settled_drainWrites s3 fun w => ids.contains w.agent) (retimed_drainWrites _ _))
  generalize s3.drainWrites _ = s4 at h4 ⊢
  have h5 := h4.trans (stands_of_settled (settled_drainReds s4 fun r => ids.contains r.agent) (retimed_drainReds _ _))
  generalize s4.drainReds _ = s5 at h5 ⊢
  have h6 : Stands s (if decide ((s5.cluster t.cl).mxTeam = some t.num) = true then s5.spill t.cl [0, 1, 2, 3] else s5) := by
    split
    · exact h5.trans (stands_of_eq rfl rfl rfl)
    · exact h5
  generalize (if decide ((s5.cluster t.cl).mxTeam = some t.num) = true then s5.spill t.cl [0, 1, 2, 3] else s5) = s6 at h6 ⊢
  have h7 := h6.trans (stands_of_settled (settled_dropSinter s6 fun e => decide (e.cl = t.cl ∧ e.team = some t.num)) (retimed_of_eq rfl rfl))
  generalize s6.dropSinter _ = s7 at h7 ⊢
  exact h7.trans (stands_of_eq rfl rfl rfl)

theorem noteEmpty_ctxs (s : State) (cl : Nat) : (s.noteEmpty cl).ctxs = s.ctxs := by
  unfold State.noteEmpty
  split
  · rfl
  · exact State.modCluster_ctxs _ _ _

theorem noteEmpty_teams (s : State) (cl : Nat) : (s.noteEmpty cl).teams = s.teams := by
  unfold State.noteEmpty
  split
  · rfl
  · exact State.modCluster_teams _ _ _

theorem swapOut_ctxs (s : State) (t : Team) :
    (s.swapOut t).ctxs = (s.quiesce t).ctxs.filter fun c => !((s.teamCtxs t).map Ctx.id).contains c.id := by
  unfold State.swapOut State.placeAgain
  dsimp only
  rw [State.modPart_ctxs, noteEmpty_ctxs, State.modCluster_ctxs]
  rfl

/-- The team as a swap leaves it: swapped, with its contexts saved. -/
theorem swapOut_team (s : State) {t : Team} (hx : ((s.quiesce t).team t.cl t.num).isSome) : ∃ x, (s.swapOut t).team t.cl t.num = some x ∧
    x.swapped = true ∧ x.saved = (s.quiesce t).teamCtxs t := by
  obtain ⟨y, hy⟩ := Option.isSome_iff_exists.mp hx
  have hteams : ∀ v w : State, v.teams = w.teams → v.team t.cl t.num = w.team t.cl t.num := fun v w h => by rw [State.team, h]; rfl
  unfold State.swapOut State.placeAgain
  dsimp only
  rw [hteams _ _ (State.modPart_teams _ _ _), hteams _ _ (noteEmpty_teams _ _), hteams _ _ (State.modCluster_teams _ _ _)]
  exact ⟨_, team_modTeam (s := s.quiesce t) hy _ (fun _ => rfl) (fun _ => rfl), rfl, rfl⟩

/-- Where a swap has taken the team out, none of its contexts is left, every other context stands, and the team has its contexts saved. -/
theorem teamSwapOut_leaves {s : State} {m : Team} (hm : s.team s.subj.cl s.subj.team = some m) (hr : s.swapReady m = true) :
    Runs .teamSwapOut s fun t => (∀ c ∈ t.ctxs, ¬ (c.id.cl = m.cl ∧ c.team = some m.num)) ∧
      (∀ id, (∀ c ∈ s.teamCtxs m, c.id ≠ id) → (t.findCtx id).map Ctx.untimed = (s.findCtx id).map Ctx.untimed) ∧
      ∃ x, t.team m.cl m.num = some x ∧ x.swapped = true ∧ x.saved.map Ctx.id = (s.teamCtxs m).map Ctx.id ∧
        x.saved.map Ctx.untimed = (s.teamCtxs m).map Ctx.untimed := by
  obtain ⟨hcl, hnum⟩ := team_numbers hm
  have hq := stands_quiesce s m
  refine ⟨s.swapOut m, congrArg Host.Outcome.next (by simp only [hm, hr, if_true]), fun c hmem => ?_, fun id hid => ?_, ?_⟩
  · rw [swapOut_ctxs, List.mem_filter] at hmem
    obtain ⟨hmem, hown⟩ := hmem
    intro hteam
    have hc : c ∈ (s.quiesce m).teamCtxs m := List.mem_filter.mpr ⟨hmem, decide_eq_true hteam⟩
    have hin : c.id ∈ (s.teamCtxs m).map Ctx.id := by
      rw [← hq.retimed.ids m]
      exact List.mem_map_of_mem hc
    rw [List.contains_iff_mem.mpr hin] at hown
    cases hown
  · have hnot : id ∉ (s.teamCtxs m).map Ctx.id := by
      rw [List.mem_map]
      exact fun ⟨c, hc, he⟩ => hid c hc he
    have hfind : (s.swapOut m).findCtx id = (s.quiesce m).findCtx id := by
      rw [← findCtx_filter_ids (s.quiesce m) _ hnot, State.findCtx, swapOut_ctxs]
      rfl
    rw [hfind, hq.retimed.findCtx]
  · have hx : ((s.quiesce m).team m.cl m.num).isSome := by
      rw [hq.teams, hcl, hnum, hm]
      rfl
    obtain ⟨x, hx, hsw, hsaved⟩ := swapOut_team s hx
    exact ⟨x, hx, hsw, by rw [hsaved, hq.retimed.ids], by rw [hsaved, hq.retimed.teamCtxs]⟩

/-! ### The team returns -/

theorem kvRead_append {α : Type} (z : α) {l k : List (Nat × α)} {a : Nat} (h : ∀ c ∈ l, c.1 ≠ a) : kvRead z (l ++ k) a = kvRead z k a := by
  induction l with
  | nil => rfl
  | cons c l ih =>
    rw [List.cons_append, kvRead, if_neg (h c List.mem_cons_self), ih fun x hx => h x (List.mem_cons_of_mem _ hx)]

theorem kvRead_append_other {α : Type} (z : α) {k : List (Nat × α)} {a : Nat} (h : ∀ c ∈ k, c.1 ≠ a) : ∀ l : List (Nat × α), kvRead z (l ++ k) a = kvRead z l a
  | [] => by
    rw [List.nil_append, ← List.append_nil k, kvRead_append z h]
  | c :: l => by
    rw [List.cons_append, kvRead, kvRead, kvRead_append_other z h l]

/-- Within the keys put back, a memory reads what was saved. -/
theorem read_putBack (m saved : List Host.Cell) {lo n a : Nat} (hlo : lo ≤ a) (hhi : a < lo + n) :
    Memory.read (putBack m saved lo n) a = Memory.read saved a := by
  unfold Memory.read putBack
  rw [kvRead_append_other, kvRead_append]
  · intro c hc
    have := of_decide_eq_true (List.mem_filter.mp hc).2
    omega
  · intro c hc
    have := of_decide_eq_true (List.mem_filter.mp hc).2
    omega

theorem invalidate_rest (s : State) (f : Nat → Option Nat × Nat × Nat → Bool) : s.invalidate f = { s with
    sinter := (s.invalidate f).sinter, teams := (s.invalidate f).teams, clusters := (s.invalidate f).clusters, compiles := (s.invalidate f).compiles } := by
  unfold State.invalidate State.dropSinter
  dsimp only
  split <;> rfl

theorem stands_lsChanged (s : State) (cl a n : Nat) : Stands s (s.lsChanged cl a n) :=
  stands_of_settled (settled_invalidate _ _) (retimed_invalidate _ _)

/-- The state in which a returning team is put back. -/
def State.readied (s : State) (t : Team) : State := (t.saved.map Ctx.id).foldl (fun (s : State) i => s.emptyBanks t.cl i.pipe 1) s

theorem stands_readied (s : State) (t : Team) : Stands s (s.readied t) := stands_foldl _ (fun s _ => stands_emptyBanks s _ _ _) _ s

theorem gtime_readied (s : State) (t : Team) : (s.readied t).gtime = s.gtime := by
  have h : ∀ (l : List CtxId) (s : State), (l.foldl (fun (s : State) i => s.emptyBanks t.cl i.pipe 1) s).gtime = s.gtime := by
    intro l
    induction l with
    | nil => exact fun _ => rfl
    | cons i r ih =>
      intro s
      have h := congrArg State.gtime (settled_emptyBanks s t.cl i.pipe 1).rest
      exact (ih _).trans h
  exact h _ s

theorem restore_ctxs (s : State) (t : Team) : (s.restore t).ctxs = (s.readied t).ctxs ++ t.saved.map fun (c : Ctx) => { c with drain := true } := by
  unfold State.restore State.lsChanged State.placeAgain
  dsimp only
  rw [State.modTeam_ctxs, invalidate_rest]
  dsimp only
  rw [State.modPart_ctxs, State.modCluster_ctxs]
  rfl

theorem restore_ls (s : State) (t : Team) : (s.restore t).ls = putBack (s.readied t).ls t.savedLs (lsKey t.cl t.lsBase) t.lsSize := by
  unfold State.restore State.lsChanged State.placeAgain
  dsimp only
  rw [State.modTeam_ls, invalidate_rest]
  dsimp only
  rw [State.modPart_ls, State.modCluster_ls]
  rfl

theorem restore_team (s : State) {t : Team} (hx : (s.team t.cl t.num).isSome) : ∃ x, (s.restore t).team t.cl t.num = some x ∧
    x.swapped = false ∧ x.since = s.gtime ∧ x.saved = [] := by
  have hr := (stands_readied s t).teams t.cl t.num
  have htime := gtime_readied s t
  unfold State.restore State.placeAgain
  dsimp only
  generalize hv : State.modPart (State.modCluster _ _ _) _ _ = v
  have hteams : v.teams = (s.readied t).teams := by
    rw [← hv, State.modPart_teams, State.modCluster_teams]
    rfl
  have hnow : (v.lsChanged t.cl t.lsBase t.lsSize).gtime = s.gtime := by
    rw [State.lsChanged, invalidate_rest, ← hv]
    dsimp only
    rw [State.modPart_gtime, State.modCluster_gtime]
    exact htime
  have hsome : ((v.lsChanged t.cl t.lsBase t.lsSize).team t.cl t.num).isSome := by
    rw [(stands_lsChanged v _ _ _).teams, State.team, hteams]
    exact hr.trans hx
  obtain ⟨y, hy⟩ := Option.isSome_iff_exists.mp hsome
  exact ⟨_, team_modTeam hy _ (fun _ => rfl) (fun _ => rfl), rfl, hnow, rfl⟩

/-- A team that returns stands there again as it was saved. -/
theorem teamRestore_returns {s : State} {m : Team} (hm : s.team s.subj.cl s.subj.team = some m) (hr : s.canRestore m = true) :
    Runs .teamRestore s fun t =>
      t.ctxs.map Ctx.untimed = (s.ctxs ++ m.saved.map fun (c : Ctx) => { c with drain := true }).map Ctx.untimed ∧
      (∃ x, t.team m.cl m.num = some x ∧ x.swapped = false ∧ x.since = s.gtime ∧ x.saved = []) ∧
      ∀ o, o < m.lsSize → Memory.read t.ls (lsKey m.cl m.lsBase + o) = Memory.read m.savedLs (lsKey m.cl m.lsBase + o) := by
  obtain ⟨hcl, hnum⟩ := team_numbers hm
  refine ⟨s.restore m, congrArg Host.Outcome.next (by simp only [hm, hr, if_true]), ?_, ?_, fun o ho => ?_⟩
  · rw [restore_ctxs, List.map_append, List.map_append, (stands_readied s m).retimed.ctxs]
  · exact restore_team s (by rw [hcl, hnum, hm]; rfl)
  · rw [restore_ls]
    exact read_putBack _ _ (Nat.le_add_right _ _) (Nat.add_lt_add_left ho _)

end Sys2Proof.Machine
end

section
/-! Geyser places the next team of the head record, or waits (O47). -/
namespace Sys2Proof.Machine

theorem task_modTask (s : State) (part idx : Nat) {f : Task → Task} (hp : ∀ t, (f t).part = t.part) (hi : ∀ t, (f t).idx = t.idx) :
    (s.modTask part idx f).task part idx = (s.task part idx).map f :=
  find?_map_if (p := fun t : Task => decide (t.part = part ∧ t.idx = idx)) (fun t => decide_eq_true_iff) (fun _ => inferInstance)
    (fun t => by rw [hp, hi]) s.tasks

theorem partNo_modPart (s : State) (n : Nat) {f : Partition → Partition} (hf : ∀ p, (f p).num = p.num) :
    (s.modPart n f).partNo n = (s.partNo n).map f :=
  find?_map_if (p := fun p : Partition => decide (p.num = n)) (fun p => decide_eq_true_iff) (fun _ => inferInstance) (fun p => by rw [hf]) s.parts

/-! ### The cluster for the next team -/

theorem nextPlace_none {s : State} {p : Partition} {tm : Template} (k : Task) (h : s.eligible p tm = []) : s.nextPlace p k tm = none := by
  unfold State.nextPlace
  rw [h]
  cases k.chosen with
  | none => rfl
  | some c => rfl

theorem nextPlace_some {s : State} {p : Partition} {tm : Template} {k : Task} {cl : Nat}
    (h : (k.chosen = some cl ∧ cl ∈ s.eligible p tm) ∨ ((∀ c, k.chosen = some c → c ∉ s.eligible p tm) ∧ s.bestOf (s.eligible p tm) = some cl)) :
    s.nextPlace p k tm = some cl := by
  unfold State.nextPlace
  rcases h with ⟨hc, hin⟩ | ⟨hc, hbest⟩
  · simp only [hc, List.contains_iff_mem.mpr hin, if_true]
  · cases hch : k.chosen with
    | none => exact hbest
    | some c =>
      have hnot : (s.eligible p tm).contains c = false := by
        rw [← Bool.not_eq_true, List.contains_iff_mem]
        exact hc c hch
      simp only [hnot, Bool.false_eq_true, if_false, hbest]

/-- What the choice of a cluster looks at is not the task records. -/
theorem eligible_tasks (s : State) (ts : List Task) (p : Partition) (tm : Template) : State.eligible { s with tasks := ts } p tm = s.eligible p tm := rfl

theorem bestOf_tasks (s : State) (ts : List Task) : ∀ l : List Nat, State.bestOf { s with tasks := ts } l = s.bestOf l
  | [] => rfl
  | c :: r => by
    rw [State.bestOf, State.bestOf, bestOf_tasks s ts r]
    rfl

theorem nextPlace_tasks (s : State) (ts : List Task) (p : Partition) (k : Task) (tm : Template) :
    State.nextPlace { s with tasks := ts } p k tm = s.nextPlace p k tm := by
  simp only [State.nextPlace, eligible_tasks, bestOf_tasks]

section
variable {s : State} {p : Partition} {k : Task} {tm : Template} (hk : s.queueHead p.num = some k) (ht : k.tmpl = some tm)
include hk ht

/-- The head record with its template. -/
def State.headed (s : State) (p : Partition) (k : Task) (tm : Template) : State := s.modTask p.num k.idx fun t => { t with tmpl := some tm }

theorem placeNext_waits (h : s.eligible p tm = []) :
    s.placeNext p = (s.headed p k tm).modPart p.num fun p => { p with placeWait := some k.idx } := by
  have hn : (s.modTask p.num k.idx fun t => { t with tmpl := some tm }).nextPlace p k tm = none :=
    (nextPlace_tasks s _ p k tm).trans (nextPlace_none k h)
  simp only [State.placeNext, hk, ht, hn]
  rfl

theorem placeNext_chooses {cl : Nat} (hn : s.nextPlace p k tm = some cl) (hf : s.atFloor p cl = false) :
    s.placeNext p = (s.headed p k tm).choosePlace p k cl := by
  have hn' : (s.modTask p.num k.idx fun t => { t with tmpl := some tm }).nextPlace p k tm = some cl :=
    (nextPlace_tasks s _ p k tm).trans hn
  have hf' : (s.modTask p.num k.idx fun t => { t with tmpl := some tm }).atFloor p cl = false := hf
  simp only [State.placeNext, hk, ht, hn', hf', if_true]
  rfl

theorem placeNext_puts {cl num off : Nat} {gs : List (TGroup × Nat)} (hn : s.nextPlace p k tm = some cl) (hf : s.atFloor p cl = true)
    (hroom : s.roomFor cl tm = some (num, gs, off)) (hblk : tm.rbsz = 0) :
    s.placeNext p = (s.headed p k tm).putTeam p k tm cl num gs off [] := by
  have hn' : (s.modTask p.num k.idx fun t => { t with tmpl := some tm }).nextPlace p k tm = some cl :=
    (nextPlace_tasks s _ p k tm).trans hn
  have hf' : (s.modTask p.num k.idx fun t => { t with tmpl := some tm }).atFloor p cl = true := hf
  have hroom' : (s.modTask p.num k.idx fun t => { t with tmpl := some tm }).roomFor cl tm = some (num, gs, off) := hroom
  simp only [State.placeNext, hk, ht, hn', hf', hroom', Bool.true_eq_false, if_false, State.readBlock, hblk, if_true]
  rfl

variable (hp : s.partNo s.subj.part = some p) (hrun : p.run = .running) (hnum : s.subj.num = 0)
include hp hrun hnum

omit hk ht in
theorem exec_teamPlacement : exec .teamPlacement s = .next (s.placeNext p) := by
  refine congrArg Host.Outcome.next ?_
  simp only [hp, hrun, hnum, ne_eq, not_true_eq_false, if_false, if_true]

/-- With no cluster eligible the record waits. -/
theorem teamPlacement_waits (h : s.eligible p tm = []) : Runs .teamPlacement s fun t => t.ctxs = s.ctxs ∧
    (t.partNo p.num).map Partition.placeWait = some (some k.idx) := by
  have hpn : p.num = s.subj.part := by
    have h := List.find?_some hp
    rwa [decide_eq_true_eq] at h
  have hx := exec_teamPlacement hp hrun hnum
  rw [placeNext_waits hk ht h] at hx
  refine ⟨_, hx, rfl, ?_⟩
  rw [partNo_modPart _ _ (by intro; rfl), show (s.headed p k tm).partNo p.num = s.partNo p.num from rfl, hpn, hp]
  rfl

end

/-! ### An empty cluster goes to FLOOR first (R438) -/

theorem requestStep_ctxs (s : State) (cl new reason : Nat) : (s.requestStep cl new reason).ctxs = s.ctxs := by
  unfold State.requestStep State.startChange State.moveVoltage
  dsimp only
  split
  · exact State.modCluster_ctxs _ _ _
  · split
    · rfl
    · rw [State.modDomain_ctxs, State.modCluster_ctxs]

theorem requestStep_tasks (s : State) (cl new reason : Nat) : (s.requestStep cl new reason).tasks = s.tasks := by
  unfold State.requestStep State.startChange State.moveVoltage
  dsimp only
  split
  · exact State.modCluster_tasks _ _ _
  · split
    · rfl
    · rw [State.modDomain_tasks, State.modCluster_tasks]

/-- Once every change of the cluster has taken effect, its step is the one requested last. -/
theorem lastStep_requestStep (s : State) (cl new reason : Nat) : ((s.requestStep cl new reason).cluster cl).lastStep = new := by
  unfold State.requestStep
  dsimp only
  split
  · rw [cluster_modCluster_self s cl (by intro; rfl)]
    simp [Cluster.lastStep]
  next hbusy =>
    rw [Bool.not_eq_true, Bool.or_eq_false_iff, Option.isSome_eq_false_iff, Bool.not_eq_false', Option.isNone_iff_eq_none, List.isEmpty_iff] at hbusy
    obtain ⟨hchange, hchanges⟩ := hbusy
    split
    next hstep => rw [Cluster.lastStep, hchanges, hchange]; exact hstep
    next =>
      unfold State.startChange State.moveVoltage
      dsimp only
      have hc : ∀ v w : State, v.clusters = w.clusters → v.cluster cl = w.cluster cl := fun v w h => by rw [State.cluster, h]; rfl
      rw [hc _ _ (State.modDomain_clusters _ _ _), cluster_modCluster_self s cl (by intro; rfl), Cluster.lastStep, hchanges]
      rfl

theorem choosePlace_floor (s : State) (p : Partition) (k : Task) (cl : Nat) : (s.choosePlace p k cl).ctxs = s.ctxs ∧
    ((s.choosePlace p k cl).cluster cl).lastStep = p.floor ∧
    (s.choosePlace p k cl).task p.num k.idx = (s.task p.num k.idx).map fun t => { t with chosen := some cl } := by
  unfold State.choosePlace
  dsimp only
  rw [task_modTask _ _ _ (by intro; rfl) (by intro; rfl), State.modTask_ctxs]
  split
  next hfloor => exact ⟨rfl, hfloor, rfl⟩
  next =>
    refine ⟨requestStep_ctxs _ _ _ _, lastStep_requestStep s cl p.floor 2, ?_⟩
    rw [State.task, requestStep_tasks]
    rfl

theorem atFloor_false {s : State} {p : Partition} {cl : Nat} (hempty : (s.ctxs.any fun c => decide (c.id.cl = cl)) = false)
    (h : ¬ ((s.cluster cl).change = none ∧ (s.cluster cl).changes = [] ∧ (s.cluster cl).step = p.floor)) : s.atFloor p cl = false := by
  rw [State.atFloor, hempty, Bool.false_or, ← Bool.not_eq_true, Bool.and_eq_true, decide_eq_true_eq, Cluster.steady, Bool.and_eq_true,
    Option.isNone_iff_eq_none, List.isEmpty_iff, and_assoc]
  exact h

theorem atFloor_true {s : State} {p : Partition} {cl : Nat} (h : (s.ctxs.any fun c => decide (c.id.cl = cl)) = false →
    (s.cluster cl).change = none ∧ (s.cluster cl).changes = [] ∧ (s.cluster cl).step = p.floor) : s.atFloor p cl = true := by
  rw [State.atFloor, Bool.or_eq_true, Bool.and_eq_true, decide_eq_true_eq, Cluster.steady, Bool.and_eq_true,
    Option.isNone_iff_eq_none, List.isEmpty_iff, and_assoc]
  cases hany : s.ctxs.any fun c => decide (c.id.cl = cl) with
  | true => exact .inl rfl
  | false => exact .inr (h hany)

/-! ### A team is placed -/

/-- The number that a team would get is not in use on the cluster. -/
theorem roomFor_fresh {s : State} {cl num off : Nat} {tm : Template} {gs : List (TGroup × Nat)} (h : s.roomFor cl tm = some (num, gs, off)) :
    s.team cl num = none := by
  unfold State.roomFor at h
  split at h
  · split at h
    next n g o hn _ _ =>
      obtain ⟨rfl, -, -⟩ : n = num ∧ g = gs ∧ o = off := by simpa using h
      have hfree := List.find?_some hn
      rw [Bool.not_eq_true', List.any_eq_false] at hfree
      exact List.find?_eq_none.mpr hfree
    next => cases h
  · cases h

theorem mem_newCtxs {p : Partition} {k : Task} {cl num : Nat} {gs : List (TGroup × Nat)} {c : Ctx} (h : c ∈ newCtxs p k cl num gs) :
    ∃ slot g pipe, c = newCtx p k cl num slot g pipe := by
  obtain ⟨x, -, hc⟩ := List.mem_flatMap.mp h
  obtain ⟨i, -, rfl⟩ := List.mem_map.mp hc
  exact ⟨_, _, _, rfl⟩

theorem length_newCtxs (p : Partition) (k : Task) (cl num : Nat) (gs : List (TGroup × Nat)) :
    (newCtxs p k cl num gs).length = (gs.map fun x => x.1.width).sum := by
  unfold newCtxs
  rw [List.length_flatMap]
  simp

/-- The banks that a placement empties before the contexts stand. -/
def State.emptied (s : State) (cl : Nat) (gs : List (TGroup × Nat)) : State :=
  gs.foldl (fun (s : State) x => s.emptyBanks cl x.1.base x.1.width) s

theorem settled_emptied (s : State) (cl : Nat) (gs : List (TGroup × Nat)) : Settled s (s.emptied cl gs) :=
  settled_foldl _ (fun s _ => settled_emptyBanks s _ _ _) gs s

theorem stands_emptied (s : State) (cl : Nat) (gs : List (TGroup × Nat)) : Stands s (s.emptied cl gs) :=
  stands_foldl _ (fun s _ => stands_emptyBanks s _ _ _) gs s

/-- What a placement on a cluster leaves. -/
structure Placed (p : Partition) (k : Task) (tm : Template) (cl num : Nat) (gs : List (TGroup × Nat)) (off : Nat) (s t : State) : Prop where
  ctxs : t.ctxs.map Ctx.untimed = s.ctxs.map Ctx.untimed ++ (newCtxs p k cl num gs).map Ctx.untimed
  team : ∃ x, t.team cl num = some x ∧ x.part = p.num ∧ x.task = some k.idx ∧ x.trank = k.placed ∧ x.gsize = k.grid ∧ x.lsBase = off ∧
    x.lsSize = tm.lsBytes ∧ x.wds = List.replicate 8 0
  task : t.task p.num k.idx = (s.task p.num k.idx).map fun x =>
    { x with placed := x.placed + 1, st := if x.placed + 1 = x.grid then .running else .placing, chosen := none }

theorem placed_putTeam (s : State) (p : Partition) (k : Task) (tm : Template) (cl num : Nat) (gs : List (TGroup × Nat)) (off : Nat) (blk : List Byte)
    (hfree : s.team cl num = none) : Placed p k tm cl num gs off s (s.putTeam p k tm cl num gs off blk) := by
  have hs := settled_emptied s cl gs
  have hst := stands_emptied s cl gs
  unfold State.putTeam
  dsimp only
  rw [show gs.foldl (fun (s : State) x => s.emptyBanks cl x.1.base x.1.width) s = s.emptied cl gs from rfl]
  generalize s.emptied cl gs = s1 at hs hst ⊢
  have hnone : s1.team cl num = none := by
    rw [← Option.isNone_iff_eq_none, ← Option.not_isSome, hst.teams, hfree]
    rfl
  generalize hF : ({ cl := cl, num := num, part := p.num, task := some k.idx, trank := k.placed, gsize := k.grid, domain := k.domain, lsBase := off, lsSize := tm.lsBytes, tmpl := tm, bars := _, rings := _, streams := _, wqs := _, wds := _, pool := _, since := _ } : Team) = m
  generalize h2 : ({ s1 with freeCtr := _, ls := _, teams := s1.teams ++ [m], ctxs := s1.ctxs ++ newCtxs p k cl num gs } : State) = s2
  have hctxs2 : s2.ctxs = s1.ctxs ++ newCtxs p k cl num gs := by rw [← h2]
  have htasks2 : s2.tasks = s.tasks := by rw [← h2, hs.rest]
  have hteam2 : s2.team cl num = some m := by
    have happ : s2.teams = s1.teams ++ [m] := by rw [← h2]
    have hm : decide (m.cl = cl ∧ m.num = num) = true := by rw [← hF]; exact decide_eq_true ⟨rfl, rfl⟩
    rw [State.team] at hnone ⊢
    rw [happ, List.find?_append, hnone, Option.none_or, List.find?_singleton, if_pos hm]
  have hs3 := (settled_invalidate s2 fun _ => rangeHit (some cl) off tm.lsBytes).trans (settled_placeWrite _ none (.ls cl off) blk)
  have hre3 := (retimed_invalidate s2 fun _ => rangeHit (some cl) off tm.lsBytes).trans (retimed_placeWriteAs _ none 0 {} (.ls cl off) blk)
  rw [show s2.lsChanged cl off tm.lsBytes = s2.invalidate fun _ => rangeHit (some cl) off tm.lsBytes from rfl]
  rw [show State.placeWriteAs (s2.invalidate fun _ => rangeHit (some cl) off tm.lsBytes) none 0 {} (.ls cl off) blk =
    State.placeWrite (s2.invalidate fun _ => rangeHit (some cl) off tm.lsBytes) none (.ls cl off) blk from rfl] at hre3
  generalize State.placeWrite _ none (.ls cl off) blk = s3 at hs3 hre3 ⊢
  refine ⟨?_, ?_, ?_⟩
  · rw [State.modTask_ctxs, State.modPart_ctxs, State.modCluster_ctxs, hre3.ctxs, hctxs2, List.map_append, hst.retimed.ctxs]
  · have hteam := hs3.team cl num
    rw [hteam2, Option.map_some] at hteam
    obtain ⟨x, hx, he⟩ := Option.map_eq_some_iff.mp hteam
    refine ⟨x, ?_, ?_⟩
    · rw [← hx]
      unfold State.team
      rw [State.modTask_teams, State.modPart_teams, State.modCluster_teams]
    · subst hF
      exact ⟨congrArg Team.part he, congrArg Team.task he, congrArg Team.trank he, congrArg Team.gsize he, congrArg Team.lsBase he,
        congrArg Team.lsSize he, congrArg Team.wds he⟩
  · rw [task_modTask _ _ _ (by intro; rfl) (by intro; rfl)]
    congr 1
    rw [State.task, State.modPart_tasks, State.modCluster_tasks, hs3.rest]
    rw [State.task, ← htasks2]

section
variable {s : State} {p : Partition} {k : Task} {tm : Template} {cl : Nat} (hk : s.queueHead p.num = some k) (ht : k.tmpl = some tm)
  (hp : s.partNo s.subj.part = some p) (hrun : p.run = .running) (hnum : s.subj.num = 0) (hn : s.nextPlace p k tm = some cl)
include hk ht hp hrun hnum hn

omit hk ht hp hrun hnum hn in
theorem task_headed : (s.headed p k tm).task p.num k.idx = (s.task p.num k.idx).map fun x => { x with tmpl := some tm } :=
  task_modTask s _ _ (by intro; rfl) (by intro; rfl)

/-- An empty cluster that is not at FLOOR goes there first. -/
theorem teamPlacement_chooses (hf : s.atFloor p cl = false) : Runs .teamPlacement s fun t => t.ctxs = s.ctxs ∧ (t.cluster cl).lastStep = p.floor ∧
    t.task p.num k.idx = (s.task p.num k.idx).map fun x => { x with tmpl := some tm, chosen := some cl } := by
  have hx := exec_teamPlacement hp hrun hnum
  rw [placeNext_chooses hk ht hn hf] at hx
  obtain ⟨hctxs, hstep, htask⟩ := choosePlace_floor (s.headed p k tm) p k cl
  refine ⟨_, hx, hctxs, hstep, ?_⟩
  rw [htask, task_headed, Option.map_map]
  rfl

/-- The team is placed, and its contexts begin at ENTRY. -/
theorem teamPlacement_places {num off : Nat} {gs : List (TGroup × Nat)} (hf : s.atFloor p cl = true) (hroom : s.roomFor cl tm = some (num, gs, off))
    (hblk : tm.rbsz = 0) : Runs .teamPlacement s fun t =>
      (∃ new, t.ctxs.map Ctx.untimed = s.ctxs.map Ctx.untimed ++ new ∧ new.length = (gs.map fun x => x.1.width).sum ∧ ∀ c ∈ new, c.id.cl = cl ∧
        c.team = some num ∧ c.pc = instrPc k.entry ∧ c.priv = .user ∧ c.st = .ready ∧ c.domain = k.domain ∧ c.g.get 3 = k.args ∧
        c.g.get 4 = 0x00C1000000000000) ∧
      (∃ x, t.team cl num = some x ∧ x.part = p.num ∧ x.task = some k.idx ∧ x.trank = k.placed ∧ x.gsize = k.grid ∧ x.lsBase = off ∧
        x.lsSize = tm.lsBytes ∧ x.wds = List.replicate 8 0) ∧
      t.task p.num k.idx = (s.task p.num k.idx).map fun x =>
        { x with tmpl := some tm, placed := x.placed + 1, st := if x.placed + 1 = x.grid then .running else .placing, chosen := none } := by
  have hx := exec_teamPlacement hp hrun hnum
  rw [placeNext_puts hk ht hn hf hroom hblk] at hx
  obtain ⟨hctxs, hteam, htask⟩ := placed_putTeam (s.headed p k tm) p k tm cl num gs off [] (roomFor_fresh hroom)
  refine ⟨_, hx, ⟨_, hctxs, ?_, fun c hc => ?_⟩, hteam, ?_⟩
  · rw [List.length_map, length_newCtxs]
  · obtain ⟨c', hc', rfl⟩ := List.mem_map.mp hc
    obtain ⟨slot, g, pipe, rfl⟩ := mem_newCtxs hc'
    have hg3 : (((Vector.replicate 32 (0 : Word)).set 3 k.args).set 4 0x00C1000000000000).get 3 = k.args := rfl
    have hg4 : (((Vector.replicate 32 (0 : Word)).set 3 k.args).set 4 0x00C1000000000000).get 4 = 0x00C1000000000000 := rfl
    exact ⟨rfl, rfl, rfl, rfl, rfl, rfl, hg3, hg4⟩
  · rw [htask, task_headed, Option.map_map]
    rfl

end

end Sys2Proof.Machine
end

section
/-! A kill record that joins its queue, and the watchdog's trap (O47). -/
namespace Sys2Proof.Machine

/-! ### Changes that reach neither the kill queue nor the contexts -/

/-- State t has the kill records of s, queued and waiting. -/
structure SameKills (s t : State) : Prop where
  kills : t.kills = s.kills
  killWait : t.killWait = s.killWait

theorem SameKills.refl (s : State) : SameKills s s := ⟨rfl, rfl⟩
theorem SameKills.trans {s t u : State} (h : SameKills s t) (k : SameKills t u) : SameKills s u := ⟨k.kills.trans h.kills, k.killWait.trans h.killWait⟩

theorem Settled.sameKills {s t : State} (h : Settled s t) : SameKills s t := ⟨by rw [h.rest], by rw [h.rest]⟩

theorem sameKills_foldl {α : Type} (f : State → α → State) (h : ∀ s a, SameKills s (f s a)) : ∀ (l : List α) (s : State), SameKills s (l.foldl f s)
  | [], s => .refl s
  | a :: r, s => (h s a).trans (sameKills_foldl f h r (f s a))

theorem sameKills_modCluster (s : State) (cl : Nat) (f : Cluster → Cluster) : SameKills s (s.modCluster cl f) := by
  rw [modCluster_rest]
  exact ⟨rfl, rfl⟩

theorem sameKills_modTeamOf (s : State) (id : CtxId) (f : Team → Team) : SameKills s (s.modTeamOf id f) := by
  unfold State.modTeamOf
  split <;> exact ⟨rfl, rfl⟩

theorem sameKills_raiseEvent (s : State) (e : Event) : SameKills s (s.raiseEvent e) := by
  unfold State.raiseEvent State.addLost
  dsimp only
  repeat' split
  all_goals exact ⟨rfl, rfl⟩

/-- State t has the kill records and, but for timestamps, the contexts of s. -/
structure Background (s t : State) : Prop where
  same : SameKills s t
  ctxs : t.ctxs.map Ctx.untimed = s.ctxs.map Ctx.untimed

theorem Background.refl (s : State) : Background s s := ⟨.refl s, rfl⟩
theorem Background.trans {s t u : State} (h : Background s t) (k : Background t u) : Background s u := ⟨h.same.trans k.same, k.ctxs.trans h.ctxs⟩

/-- A change of other parts comes before. -/
theorem Background.after {s t u : State} (h : Background t u) (hk : t.kills = s.kills) (hw : t.killWait = s.killWait) (hc : t.ctxs = s.ctxs) :
    Background s u := ⟨⟨h.same.kills.trans hk, h.same.killWait.trans hw⟩, h.ctxs.trans (by rw [hc])⟩

theorem background_of_settled {s t : State} (h : Settled s t) (k : Retimed s t) : Background s t := ⟨h.sameKills, k.ctxs⟩

theorem background_placeWriteAs (s : State) (a : Option CtxId) (pipe : Nat) (k : WKind) (p : Place) (data : List Byte) :
    Background s (s.placeWriteAs a pipe k p data) := background_of_settled (settled_placeWriteAs _ _ _ _ _ _) (retimed_placeWriteAs _ _ _ _ _ _)

theorem background_placeWrite_none (s : State) (p : Place) (data : List Byte) : Background s (s.placeWrite none p data) := by
  cases p with
  | mem va pa =>
    unfold State.placeWrite
    exact background_placeWriteAs _ none 0 {} _ _
  | ls cl off =>
    unfold State.placeWrite
    exact background_placeWriteAs _ none 0 {} _ _

theorem background_sput (s : State) (part va : Nat) (x : Xlat) : Background s (s.sput part va x) := by
  unfold State.sput
  split <;> exact ⟨⟨rfl, rfl⟩, rfl⟩

theorem background_fillSlice (s : State) (w : Who) (va : Nat) (x : Xlat) : Background s (s.fillSlice w va x) := by
  unfold State.fillSlice
  split
  · exact .refl s
  · split
    · exact background_sput _ _ _ _
    · exact .refl s

theorem background_tkeep (s : State) (part va : Nat) (x : Xlat) : Background s (s.tkeep part va x) := by
  unfold State.tkeep
  split
  · exact .refl s
  · exact ⟨⟨rfl, rfl⟩, rfl⟩

theorem background_setEntryBits {s t : State} {p : Partition} {x y : Xlat} {bits : Nat} (h : s.setEntryBits p x bits = some (y, t)) : Background s t := by
  unfold State.setEntryBits at h
  dsimp only at h
  split at h
  · cases h
    exact .refl s
  · split at h
    · cases h
    · obtain ⟨-, rfl⟩ := Prod.mk.inj (Option.some.inj h)
      split
      · exact .refl s
      · exact background_placeWrite_none _ _ _

theorem background_dirtySet {s t : State} {w : Who} {va : Nat} {x y : Xlat} (h : s.dirtySet w va x = some (y, t)) : Background s t := by
  unfold State.dirtySet at h
  split at h
  · cases h
    exact .refl s
  · split at h
    · cases h
      exact .refl s
    · split at h
      next hset =>
        cases h
        exact (background_setEntryBits hset).trans ((background_tkeep _ _ _ _).trans ⟨⟨rfl, rfl⟩, rfl⟩)
      next => cases h

theorem background_probeSet (s : State) (w : Who) (va : Nat) : Background s (s.probeSet w va).2 := by
  unfold State.probeSet
  split
  · split
    · exact .refl s
    · split
      · exact .refl s
      · split
        next hset => exact (background_setEntryBits hset).trans (background_tkeep _ _ _ _)
        next => exact .refl s
  · exact .refl s

theorem background_sliceHit {s t : State} {part va : Nat} {x : Xlat} (h : s.sliceHit part va = some (x, t)) : Background s t := by
  unfold State.sliceHit at h
  split at h
  · cases h
    exact background_sput _ _ _ _
  · obtain ⟨y, -, he⟩ := Option.map_eq_some_iff.mp h
    obtain ⟨-, rfl⟩ := Prod.mk.inj he
    exact ⟨⟨rfl, rfl⟩, rfl⟩

theorem background_lookup (s : State) (w : Who) (va : Nat) : Background s (s.lookup w va).2 := by
  unfold State.lookup
  split
  · exact .refl s
  · split
    next h =>
      obtain ⟨p, -, hp⟩ := Option.bind_eq_some_iff.mp h
      exact background_sliceHit hp
    next => exact background_probeSet _ _ _

theorem background_noteWho (s : State) (w : Who) (va pa : Nat) (wr : Bool) : Background s (s.noteWho w va pa wr) := by
  unfold State.noteWho State.noteVia State.modHome
  repeat' split
  all_goals exact ⟨⟨rfl, rfl⟩, rfl⟩

theorem background_pagedPlace (w : Who) (need : Need) (va n : Nat) {again : State → Except Fail Place × State} (ha : ∀ s, Background s (again s).2)
    (r : Tr × State) : Background r.2 (pagedPlace w need va n again r).2 := by
  obtain ⟨tr, s⟩ := r
  cases tr with
  | absent => exact .refl s
  | malformed => exact .refl s
  | noMap => exact .refl s
  | ok x =>
    unfold pagedPlace
    dsimp only
    split
    · exact .refl s
    · exact .refl s
    · split
      · exact .refl s
      · split
        · exact .refl s
        · split
          · exact (background_fillSlice _ _ _ _).trans (background_noteWho _ _ _ _ _)
          · split
            next hd => exact (background_dirtySet hd).trans ((background_fillSlice _ _ _ _).trans (background_noteWho _ _ _ _ _))
            next => exact ha s

theorem background_engPlace (s : State) (w : Who) (need : Need) (va n : Nat) : Background s (s.engPlace w need va n).2 := by
  have hpaged := (background_lookup s w va).trans (background_pagedPlace w need va n
    (again := fun s => pagedPlace w need va n (fun s => (.error (.stall va reasonAbsent true), s)) (s.probeSet w va))
    (fun s => (background_probeSet s w va).trans (background_pagedPlace w need va n (fun s => .refl s) _)) (s.lookup w va))
  unfold State.engPlace
  split
  · exact hpaged
  all_goals repeat' split
  all_goals exact .refl s

theorem background_engWrite (s : State) (w : Who) (va : Nat) (data : List Byte) : Background s (s.engWrite w none va data).2 := by
  have h := background_engPlace s w .write va data.length
  unfold State.engWrite
  split
  next he =>
    rw [he] at h
    exact h.trans (background_placeWrite_none _ _ _)
  next he =>
    rw [he] at h
    exact h

/-! ### A team retires -/

theorem background_completeTask (s : State) (part idx : Nat) : Background s (s.completeTask part idx) := by
  unfold State.completeTask
  split
  · dsimp only
    split
    · exact ⟨⟨rfl, rfl⟩, rfl⟩
    · exact (background_engWrite _ _ _ _).trans ⟨⟨rfl, rfl⟩, rfl⟩
  · exact .refl s

theorem background_taskCheck (s : State) (part idx : Nat) : Background s (s.taskCheck part idx) := by
  unfold State.taskCheck
  split
  · dsimp only
    split
    · exact background_completeTask _ _ _
    · exact .refl s
  · exact .refl s

theorem background_modCluster (s : State) (cl : Nat) (f : Cluster → Cluster) : Background s (s.modCluster cl f) := by
  rw [modCluster_rest]
  exact ⟨⟨rfl, rfl⟩, rfl⟩

theorem background_noteEmpty (s : State) (cl : Nat) : Background s (s.noteEmpty cl) := by
  unfold State.noteEmpty
  split
  · exact .refl s
  · exact background_modCluster _ _ _

theorem background_retireTeam (s : State) (t : Team) : Background s (s.retireTeam t) := by
  unfold State.retireTeam
  dsimp only
  generalize hv : State.placeAgain (State.modCluster _ _ _) t.part = v
  have h : Background s v := by
    rw [← hv]
    have hagain : ∀ u : State, Background u (u.placeAgain t.part) := fun _ => ⟨⟨rfl, rfl⟩, rfl⟩
    refine Background.trans ?_ (hagain _)
    exact (background_modCluster _ _ _).after rfl rfl rfl
  split
  · exact h.trans ((background_taskCheck _ _ _).after rfl rfl rfl)
  · exact h

/-! ### A slot is released -/

theorem sameKills_giveBlocks (s : State) (id : CtxId) (n : Nat) : SameKills s (s.giveBlocks id n) :=
  (sameKills_modTeamOf s id _).trans ⟨rfl, rfl⟩

theorem Background.findCtx_none {s t : State} (h : Background s t) {id : CtxId} (hs : s.findCtx id = none) : t.findCtx id = none := by
  have hf : (t.findCtx id).map Ctx.untimed = (s.findCtx id).map Ctx.untimed := find?_map_congr (q := fun c : Ctx => decide (c.id = id)) h.ctxs
  rw [hs] at hf
  exact Option.map_eq_none_iff.mp hf

/-- Releasing a slot leaves the kill records, and the slot empty. -/
theorem freeSlot_frees (s : State) (id : CtxId) : SameKills s (s.freeSlot id) ∧ (s.freeSlot id).findCtx id = none := by
  have hv0 := (sameKills_giveBlocks s id (s.ctx id).vblocks).trans (sameKills_modTeamOf _ id fun t => { t with vwait := t.vwait.filter fun w => !decide (w.1 = id) })
  rw [show State.modTeamOf _ id _ = (s.giveBlocks id (s.ctx id).vblocks).leaveBlocks id from rfl] at hv0
  unfold State.freeSlot
  dsimp only
  generalize (s.giveBlocks id (s.ctx id).vblocks).leaveBlocks id = v at hv0 ⊢
  have hgone : State.findCtx (v.dropCtx id) id = none := by
    refine List.find?_eq_none.mpr fun c hc => ?_
    have := (List.mem_filter.mp hc).2
    simpa using this
  generalize hw : State.noteEmpty { v.dropCtx id with longs := _, accesses := _, faults := _ } id.cl = w
  have hb : Background (v.dropCtx id) w := by
    rw [← hw]
    exact (background_noteEmpty _ _).after rfl rfl rfl
  have h : SameKills s w ∧ w.findCtx id = none := ⟨(hv0.trans (t := v) (u := v.dropCtx id) ⟨rfl, rfl⟩).trans hb.same, hb.findCtx_none hgone⟩
  split
  · split
    · have hr := background_retireTeam w
      exact ⟨h.1.trans (hr _).same, (hr _).findCtx_none h.2⟩
    · exact h
  · exact h

/-! ### A context ends -/

theorem sameKills_freeSlot (s : State) (id : CtxId) : SameKills s (s.freeSlot id) := (freeSlot_frees s id).1

/-- A change of contexts and groups alone, and what follows it. -/
theorem SameKills.after {s t u : State} (h : SameKills t u) (hk : t.kills = s.kills) (hw : t.killWait = s.killWait) : SameKills s u :=
  ⟨h.kills.trans hk, h.killWait.trans hw⟩

theorem sameKills_endGroup (s : State) (g : Group) : SameKills s (s.endGroup g) := by
  unfold State.endGroup
  exact (sameKills_foldl _ sameKills_freeSlot _ _).after rfl rfl

theorem sameKills_passJoin (s : State) (g : Group) : SameKills s (s.passJoin g) := by
  unfold State.passJoin
  split
  next g' pc _ =>
    dsimp only
    have h := ((settled_settleLate (s.setMask g' g'.lm) fun t => decide (t.agent.cl = g.cl ∧ t.agent.slot = g.slot)).trans
      (settled_raisePts _ ⟨g.cl, g.base, g.slot⟩ .grp)).sameKills
    refine SameKills.after (t := s.setMask g' g'.lm) (h.trans ?_) rfl rfl
    exact ⟨rfl, rfl⟩
  next => exact sameKills_endGroup _ _

theorem sameKills_endLanes (s : State) (g : Group) : SameKills s (s.endLanes g) := by
  unfold State.endLanes
  exact (sameKills_passJoin _ _).after rfl rfl

theorem sameKills_refuse (s : State) (cl slot : Nat) (r : Record) : SameKills s (s.refuse cl slot r) := by
  have h := ((settled_settleLate s fun t => decide (t.agent.cl = cl ∧ t.agent.slot = slot ∧ r.base ≤ t.agent.pipe ∧ t.agent.pipe < r.base + r.width)).trans
    (settled_emptyBanks _ cl r.base r.width)).sameKills
  unfold State.refuse
  exact h.trans ((sameKills_passJoin _ _).after rfl rfl)

theorem sameKills_checkRefuse (s : State) (cl slot base : Nat) : SameKills s (s.checkRefuse cl slot base) := by
  unfold State.checkRefuse
  dsimp only
  split
  · exact .refl s
  · split
    · exact sameKills_foldl _ sameKills_freeSlot _ _
    · split
      · exact .refl s
      · split
        · exact sameKills_refuse _ _ _ _
        · exact .refl s

theorem sameKills_endContext (s : State) (id : CtxId) : SameKills s (s.endContext id) := by
  unfold State.endContext
  split
  · exact sameKills_endLanes _ _
  · exact sameKills_freeSlot _ _
  · dsimp only
    split
    · exact (sameKills_checkRefuse _ _ _ _).after rfl rfl
    · exact ((sameKills_freeSlot _ _).trans (sameKills_checkRefuse _ _ _ _)).after rfl rfl

theorem raiseEvent_ctxs (s : State) (e : Event) : (s.raiseEvent e).ctxs = s.ctxs := by
  unfold State.raiseEvent State.addLost
  dsimp only
  repeat' split
  all_goals rfl

/-- A kill record that waited joins its queue, and a context alone leaves its slot. -/
theorem killRecordAppend_appends {s : State} {id : CtxId} {r : KillRec} (h : s.killWait[s.subj.n]? = some (id, r)) (hr : s.killRoom r = true) :
    Runs .killRecordAppend s fun t => t.kills = s.kills ++ [r] ∧ t.killWait = s.killWait.eraseIdx s.subj.n ∧
      ((s.ctx id).grp = none → (s.ctx id).rcd = none → t.findCtx id = none) := by
  refine ⟨State.appendKill { s with killWait := s.killWait.eraseIdx s.subj.n } id r, congrArg Host.Outcome.next (by simp only [h, hr, if_true]), ?_⟩
  unfold State.appendKill
  generalize hv : State.raiseEvent _ _ = v
  have hsame : SameKills { s with killWait := s.killWait.eraseIdx s.subj.n, kills := s.kills ++ [r] } v := by
    rw [← hv]
    exact sameKills_raiseEvent _ _
  have hctxs : v.ctxs = s.ctxs := by
    rw [← hv, raiseEvent_ctxs]
  have hend := hsame.trans (sameKills_endContext v id)
  refine ⟨hend.kills, hend.killWait, fun hgrp hrcd => ?_⟩
  have hctx : v.ctx id = s.ctx id := by rw [State.ctx, State.findCtx, hctxs]; rfl
  have hfree : v.endContext id = v.freeSlot id := by
    unfold State.endContext
    rw [groupOf_alone (by rw [hctx]; exact hgrp), hctx, hrcd]
  rw [hfree]
  exact (freeSlot_frees v id).2

/-! ### The watchdog -/

/-- A context that has been in a handler for too long takes a WATCHDOG trap where it stands. -/
theorem watchdogExpiry_traps {s : State} {c : Ctx} (hc : s.findCtx ⟨s.subj.cl, s.subj.pipe, s.subj.slot⟩ = some c) (hd : s.watchDue c = true)
    (ht : Trappable s ⟨s.subj.cl, s.subj.pipe, s.subj.slot⟩) :
    Runs .watchdogExpiry s (TookTrap ⟨s.subj.cl, s.subj.pipe, s.subj.slot⟩ cWATCHDOG c.tl 0 c.pc { s with
      accesses := s.accesses.filter fun a => !decide (a.agent = ⟨s.subj.cl, s.subj.pipe, s.subj.slot⟩)
      scops := s.scops.filter fun o => !decide (o.agent = ⟨s.subj.cl, s.subj.pipe, s.subj.slot⟩) }) := by
  have hx : exec .watchdogExpiry s = .next (s.watchTrap c) := congrArg Host.Outcome.next (by simp only [hc, hd, if_true])
  generalize (⟨s.subj.cl, s.subj.pipe, s.subj.slot⟩ : CtxId) = id at hc ht ⊢
  have hid := findCtx_id hc
  obtain ⟨here, alone, booted, level, clean, answered⟩ := ht
  have ht' : Trappable { s with accesses := s.accesses.filter fun a => !decide (a.agent = id), scops := s.scops.filter fun o => !decide (o.agent = id) } id :=
    ⟨here, alone, booted, level, clean, answered⟩
  refine ⟨_, hx, ?_⟩
  unfold State.watchTrap
  dsimp only
  rw [hid, leader_alone alone]
  rw [hitLanes_alone (groupOf_alone (s := { s with accesses := s.accesses.filter fun a => !decide (a.agent = id), scops := s.scops.filter fun o => !decide (o.agent = id) }) alone)]
  have htook := tookTrap_takeTrap ht' cWATCHDOG c.tl 0 c.pc false false
  have hpc : (s.ctx id).pc = c.pc := by rw [ctx_of_find hc]
  rw [← hpc] at htook ⊢
  exact htook

/-- Settles O47, event by event. -/
theorem teamEvents : Obligations.TeamEvents := by
  unfold Obligations.TeamEvents
  intro s m strip
  refine ⟨?_, ?_, ?_, ?_, ?_⟩
  · intro hm left stops
    exact ⟨swapThresholdExpiry_marks hm, teamSwapOut_stops hm, teamSwapOut_leaves hm, fun p hp hd => residencySliceEnd_stops hm hp hd,
      teamRestore_returns hm⟩
  · intro p k tm hp hrun hnum hk ht hnone
    exact teamPlacement_waits hk ht hp hrun hnum hnone
  · intro p k tm cl hp hrun hnum hk ht hchosen empty atFloor
    have hn := nextPlace_some hchosen
    exact ⟨fun he hf => teamPlacement_chooses hk ht hp hrun hnum hn (atFloor_false he hf),
      fun num gs off hroom hblk hf => teamPlacement_places hk ht hp hrun hnum hn (atFloor_true hf) hroom hblk⟩
  · intro c id hc hd ht
    exact watchdogExpiry_traps hc hd ht
  · exact fun id r h hr => killRecordAppend_appends h hr

end Sys2Proof.Machine
end

section
/-! Integers of n bits: the model's readings of a natural or integer as a number of n bits, and the `BitVec` that each is. -/
namespace Sys2Proof.Machine

theorem signedOf_eq_toInt (n v : Nat) : signedOf n v = (BitVec.ofNat n v).toInt := by
  rw [signedOf, BitVec.toInt_eq_toNat_cond, BitVec.toNat_ofNat]
  have hlt : v % 2 ^ n < 2 ^ n := Nat.mod_lt _ (Nat.two_pow_pos n)
  have hhalf : 2 ^ (n - 1) ≤ v % 2 ^ n ↔ ¬ 2 * (v % 2 ^ n) < 2 ^ n := by
    cases n with
    | zero => omega
    | succ k => rw [Nat.add_sub_cancel, Nat.pow_succ]; omega
  simp only [hhalf, ite_not]
  push_cast
  rfl

theorem wrapNat_eq_toNat (n : Nat) (i : Int) : wrapNat n i = (BitVec.ofInt n i).toNat := by
  rw [wrapNat, BitVec.toNat_ofInt]
  push_cast
  rfl

theorem ofNat_wrapNat (n : Nat) (i : Int) : BitVec.ofNat n (wrapNat n i) = BitVec.ofInt n i := by
  rw [wrapNat_eq_toNat, BitVec.ofNat_toNat, BitVec.setWidth_eq]

theorem signedOf_wrapNat (n : Nat) (i : Int) : signedOf n (wrapNat n i) = (BitVec.ofInt n i).toInt := by
  rw [signedOf_eq_toInt, ofNat_wrapNat]

theorem signedOf_toNat (n : Nat) (x : Word) : signedOf n x.toNat = (x.setWidth n).toInt := by
  rw [signedOf_eq_toInt, BitVec.ofNat_toNat]

theorem cast_wrapNat (n : Nat) (i : Int) : (wrapNat n i : Int) = i % 2 ^ n :=
  Int.toNat_of_nonneg (Int.emod_nonneg _ (by positivity))

theorem clampInt_eq {lo hi : Int} (h : lo ≤ hi) (i : Int) : clampInt lo hi i = max lo (min hi i) := by
  unfold clampInt
  split
  · omega
  · split <;> omega

theorem intLo_le_intHi (w : Nat) (uns : Bool) : intLo w uns ≤ intHi w uns := by
  have h1 : (1 : Int) ≤ 2 ^ w := one_le_pow₀ (by norm_num)
  have h2 : (1 : Int) ≤ 2 ^ (w - 1) := one_le_pow₀ (by norm_num)
  cases uns <;> simp only [intLo, intHi, if_true, if_false, Bool.false_eq_true] <;> omega

end Sys2Proof.Machine
end

section
/-! Products and quotients (O4), arithmetic traps (O5). -/
namespace Sys2Proof.Machine

/-! ### Long instructions that some lanes trap on -/

theorem longTrap_of_none {s : State} {d : Reg} {cause : Nat} {bad : CtxId → Option Word} (h : ∀ l ∈ s.lanes s.cur, bad l = none) (sm : Bool)
    (f : CtxId → Word) : s.longTrap sm d cause bad f = s.longR sm d f := by
  have hits : ((s.lanes s.cur).filterMap fun i => (bad i).map fun v => (i, Hit.trap cause 0 v)) = [] :=
    List.filterMap_eq_nil_iff.2 fun l hl => by rw [h l hl]; rfl
  simp only [State.longTrap, hits, List.isEmpty_nil, if_true]

theorem longTrapOpen_of_none {s : State} {d : Reg} {cause : Nat} {bad : CtxId → Bool} (h : ∀ l ∈ s.lanes s.cur, bad l = false) (sm : Bool)
    (f : CtxId → Word) : s.longTrapOpen sm d cause bad f = s.longR sm d f := by
  have hits : (s.lanes s.cur).any bad = false := List.any_eq_false.2 fun l hl => by simp [h l hl]
  simp only [State.longTrapOpen, hits, Bool.false_eq_true, if_false]

/-! ### Operands and results of MULDIV at the width that `.w` chooses -/

section
variable {w : Bool} {n : Nat} (hn : mdBits w = n)
include hn

theorem sOp_eq (x : Word) : sOp w x = (x.setWidth n).toInt := by
  rw [← hn]
  exact signedOf_toNat _ x

theorem uOp_eq (x : Word) : uOp w x = (x.setWidth n).toNat := by
  rw [← hn]
  exact (BitVec.toNat_setWidth _ x).symm

theorem sOp_eq_zero (x : Word) : sOp w x = 0 ↔ x.setWidth n = 0 := by
  have h := BitVec.toInt_inj (x := x.setWidth n) (y := 0#n)
  rwa [BitVec.toInt_zero, ← sOp_eq hn] at h

theorem uOp_eq_zero (x : Word) : uOp w x = 0 ↔ x.setWidth n = 0 := by
  rw [uOp_eq hn]
  exact BitVec.toNat_inj (y := 0#n)

theorem mdWord_eq (v : Nat) : mdWord w v = (BitVec.ofNat n v).signExtend 64 := by
  subst hn
  cases w with
  | false => exact (BitVec.signExtend_eq _).symm
  | true => exact congrArg (BitVec.ofInt 64) (signedOf_eq_toInt 32 v)

theorem mdWord_toNat (v : BitVec n) : mdWord w v.toNat = v.signExtend 64 := by
  rw [mdWord_eq hn, BitVec.ofNat_toNat, BitVec.setWidth_eq]

theorem mdWord_wrapNat (i : Int) : mdWord w (wrapNat n i) = (BitVec.ofInt n i).signExtend 64 := by
  rw [mdWord_eq hn, ofNat_wrapNat]

theorem mdWord_allOnes : mdWord w (2 ^ n - 1) = (-1 : BitVec n).signExtend 64 := by
  rw [← BitVec.toNat_allOnes, mdWord_toNat hn, ← BitVec.neg_one_eq_allOnes]
  rfl

end

theorem ofInt_tdiv {n : Nat} (x y : BitVec n) : BitVec.ofInt n (x.toInt.tdiv y.toInt) = x.sdiv y :=
  BitVec.eq_of_toInt_eq (by rw [BitVec.toInt_ofInt, BitVec.toInt_sdiv])

theorem ofInt_tmod {n : Nat} (x y : BitVec n) : BitVec.ofInt n (x.toInt.tmod y.toInt) = x.srem y := by
  rw [← BitVec.toInt_srem, BitVec.ofInt_toInt]

/-! ### The functions of MULDIV (R90, R202) -/

section
variable {w : Bool} {n : Nat} (hn : mdBits w = n) (x y : Word)
include hn

theorem divS_eq : divS w x y = (if y.setWidth n = 0 then -1 else (x.setWidth n).sdiv (y.setWidth n)).signExtend 64 := by
  rw [divS, apply_ite (BitVec.signExtend 64)]
  simp only [sOp_eq_zero hn, hn, mdWord_allOnes hn, mdWord_wrapNat hn]
  rw [sOp_eq hn, sOp_eq hn, ofInt_tdiv]

theorem remS_eq : remS w x y = (if y.setWidth n = 0 then x.setWidth n else (x.setWidth n).srem (y.setWidth n)).signExtend 64 := by
  rw [remS, apply_ite (BitVec.signExtend 64)]
  simp only [sOp_eq_zero hn, hn, uOp_eq hn, mdWord_toNat hn, mdWord_wrapNat hn]
  rw [sOp_eq hn, sOp_eq hn, ofInt_tmod]

theorem divU_eq : divU w x y = (if y.setWidth n = 0 then -1 else (x.setWidth n).udiv (y.setWidth n)).signExtend 64 := by
  rw [divU, uOp_eq hn x, apply_ite (BitVec.signExtend 64)]
  simp only [uOp_eq_zero hn, hn, mdWord_allOnes hn]
  rw [uOp_eq hn, ← BitVec.toNat_udiv, mdWord_toNat hn]
  rfl

theorem remU_eq : remU w x y = (if y.setWidth n = 0 then x.setWidth n else (x.setWidth n).umod (y.setWidth n)).signExtend 64 := by
  rw [remU, uOp_eq hn x, apply_ite (BitVec.signExtend 64)]
  simp only [uOp_eq_zero hn, mdWord_toNat hn]
  rw [uOp_eq hn, ← BitVec.toNat_umod, mdWord_toNat hn]
  rfl

theorem mulLow_eq : mdWord w ((uOp w x * uOp w y) % 2 ^ mdBits w) = (x.setWidth n * y.setWidth n).signExtend 64 := by
  rw [hn, uOp_eq hn, uOp_eq hn, ← BitVec.toNat_mul, mdWord_toNat hn]

theorem mulHighUnsigned_eq : mdWord w (uOp w x * uOp w y / 2 ^ mdBits w) =
    (BitVec.ofNat n ((x.setWidth n).toNat * (y.setWidth n).toNat / 2 ^ n)).signExtend 64 := by
  rw [hn, uOp_eq hn, uOp_eq hn, mdWord_eq hn]

end

theorem mulHigh_eq (x y : Word) : mdWord false (wrapNat 64 (sOp false x * sOp false y / 2 ^ 64)) = BitVec.ofInt 64 (x.toInt * y.toInt / 2 ^ 64) := by
  rw [mdWord_wrapNat (n := 64) rfl, BitVec.signExtend_eq, sOp_eq (n := 64) rfl, sOp_eq (n := 64) rfl, BitVec.setWidth_eq, BitVec.setWidth_eq]

/-- The high half of a signed product of 32 bits fits 32 bits, so that it is the same integer at 64. -/
theorem mulHighWord_eq (x y : Word) : mdWord true (wrapNat 32 (sOp true x * sOp true y / 2 ^ 32)) =
    BitVec.ofInt 64 ((x.setWidth 32).toInt * (y.setWidth 32).toInt / 2 ^ 32) := by
  have hle := BitVec.toInt_mul_toInt_le (x := x.setWidth 32) (y := y.setWidth 32)
  have hge := BitVec.le_toInt_mul_toInt (x := x.setWidth 32) (y := y.setWidth 32)
  rw [mdWord_wrapNat (n := 32) rfl, sOp_eq (n := 32) rfl, sOp_eq (n := 32) rfl]
  generalize (x.setWidth 32).toInt * (y.setWidth 32).toInt = z at hle hge ⊢
  exact congrArg (BitVec.ofInt 64) (BitVec.toInt_ofInt_eq_self (by omega) (by omega) (by omega))

/-! ### The instructions -/

theorem longReg_mulOp {i : Instr} {s : State} {sm : Bool} {d a b : Reg} {f : Word → Word → Word} {v : CtxId → Word}
    (h : exec i s = mulOp s sm d a b f) (hv : ∀ l, f (s.rg l a) (s.rg l b) = v l) : LongReg i sm d v s :=
  longReg_of (h.trans (by rw [mulOp, funext hv]))

section
variable (s : State) (sm : Bool) (d a b : Reg) (w : Bool)

theorem exec_mul : exec (.mul sm d a b w) s = mulOp s sm d a b fun x y => mdWord w ((uOp w x * uOp w y) % 2 ^ mdBits w) := rfl

theorem exec_mulh : exec (.mulh sm d a b w) s =
    mulOp s sm d a b fun x y => mdWord w (wrapNat (mdBits w) ((sOp w x * sOp w y) / 2 ^ mdBits w)) := rfl

theorem exec_mulhn : exec (.mulhn sm d a b w) s = mulOp s sm d a b fun x y => mdWord w (uOp w x * uOp w y / 2 ^ mdBits w) := rfl

end

theorem longReg_divOp {i : Instr} {s : State} {sm : Bool} {d a b : Reg} {w : Bool} {n : Nat} {f : Word → Word → Word} {v : CtxId → Word}
    (h : exec i s = divOp s sm d a b w f) (hn : mdBits w = n)
    (hq : ∀ l ∈ s.lanes s.cur, (s.rg l b).setWidth n = 0 → (s.ctx l).mode.getLsbD 0 = false)
    (hv : ∀ l, f (s.rg l a) (s.rg l b) = v l) : LongReg i sm d v s := by
  have hbad : ∀ l ∈ s.lanes s.cur, (if uOp w (s.rg l b) = 0 ∧ modeDzt (s.ctx l).mode = true then some (s.rg l a) else none) = none :=
    fun l hl => if_neg fun ⟨hz, hm⟩ => Bool.false_ne_true ((hq l hl ((uOp_eq_zero hn _).1 hz)).symm.trans hm)
  refine longReg_of (h.trans ?_)
  rw [divOp, funext hv]
  simp only [longTrap_of_none hbad]

/-- A division by zero under MODE.DZT traps with gA in EVAL (R90, R478). -/
theorem trapsWith_divOp {i : Instr} {s : State} {sm : Bool} {d a b : Reg} {w : Bool} {n : Nat} {f : Word → Word → Word}
    (h : exec i s = divOp s sm d a b w f) (hn : mdBits w = n) (hm : (s.ctx s.cur).mode.getLsbD 0 = true) (hz : (s.rg s.cur b).setWidth n = 0) :
    TrapsWith i cINT_DIV0 0 (s.rg s.cur a) s := by
  intro ht
  obtain ⟨c, hc⟩ := Option.isSome_iff_exists.mp ht.here
  exact ⟨_, h.trans (onCtx_some hc _), longTrap_alone ht _ _ _ _ _ _ (if_pos ⟨(uOp_eq_zero hn _).2 hz, hm⟩)⟩

/-- Settles O4: each function of MULDIV at both widths, and the trap's condition false in every lane. -/
theorem productsAndQuotients : Obligations.ProductsAndQuotients := by
  refine ⟨fun s sm d a b => ⟨?_, ?_, ?_, ?_, ?_, ?_⟩, fun s sm d a b => ⟨fun hq => ?_, fun hq => ?_⟩⟩
  · refine longReg_mulOp (exec_mul s sm d a b false) fun l => ?_
    rw [mulLow_eq (n := 64) rfl, BitVec.setWidth_eq, BitVec.setWidth_eq, BitVec.signExtend_eq]
  · exact longReg_mulOp (exec_mul s sm d a b true) fun l => mulLow_eq rfl _ _
  · exact longReg_mulOp (exec_mulh s sm d a b false) fun l => mulHigh_eq _ _
  · exact longReg_mulOp (exec_mulh s sm d a b true) fun l => mulHighWord_eq _ _
  · refine longReg_mulOp (exec_mulhn s sm d a b false) fun l => ?_
    rw [mulHighUnsigned_eq (n := 64) rfl, BitVec.setWidth_eq, BitVec.setWidth_eq, BitVec.signExtend_eq]
  · exact longReg_mulOp (exec_mulhn s sm d a b true) fun l => mulHighUnsigned_eq rfl _ _
  · have hz : ∀ l ∈ s.lanes s.cur, (s.rg l b).setWidth 64 = 0 → (s.ctx l).mode.getLsbD 0 = false := by
      simpa only [BitVec.setWidth_eq] using hq
    refine ⟨longReg_divOp rfl rfl hz fun l => ?_, longReg_divOp rfl rfl hz fun l => ?_, longReg_divOp rfl rfl hz fun l => ?_,
      longReg_divOp rfl rfl hz fun l => ?_⟩
    · rw [divS_eq (n := 64) rfl, BitVec.setWidth_eq, BitVec.setWidth_eq, BitVec.signExtend_eq]
    · rw [divU_eq (n := 64) rfl, BitVec.setWidth_eq, BitVec.setWidth_eq, BitVec.signExtend_eq]
    · rw [remS_eq (n := 64) rfl, BitVec.setWidth_eq, BitVec.setWidth_eq, BitVec.signExtend_eq]
    · rw [remU_eq (n := 64) rfl, BitVec.setWidth_eq, BitVec.setWidth_eq, BitVec.signExtend_eq]
  · exact ⟨longReg_divOp rfl rfl hq fun l => divS_eq rfl _ _, longReg_divOp rfl rfl hq fun l => divU_eq rfl _ _,
      longReg_divOp rfl rfl hq fun l => remS_eq rfl _ _, longReg_divOp rfl rfl hq fun l => remU_eq rfl _ _⟩

/-! ### FP-R (R81, R204) -/

theorem longReg_fpOp {i : Instr} {s : State} {sm : Bool} {op : FpOp} {d a b : Reg} {r : Fin 4} {z t : Bool}
    (h : exec i s = fpOp s sm op d a b r z t)
    (hq : ∀ l ∈ s.lanes s.cur, (s.ctx l).mode.getLsbD 1 = true → fpInvalid op (rmodeOf r.val) (operand (fpFmt t) z (s.rg l a).toNat)
      (operand (fpFmt t) z (s.rg l b).toNat) (operand (fpFmt t) z (s.rg l d).toNat) = false) :
    LongReg i sm d (fun l => BitVec.ofNat 64 (result (fpFmt t) (rmodeOf r.val) false z (fpExact op (rmodeOf r.val)
      (operand (fpFmt t) z (s.rg l a).toNat) (operand (fpFmt t) z (s.rg l b).toNat) (operand (fpFmt t) z (s.rg l d).toNat)))) s := by
  have hbad : ∀ l ∈ s.lanes s.cur, (modeFpt (s.ctx l).mode && fpInvalid op (rmodeOf r.val) (fpOperand (fpFmt t) z (s.rg l a))
      (fpOperand (fpFmt t) z (s.rg l b)) (fpOperand (fpFmt t) z (s.rg l d))) = false := by
    intro l hl
    cases hm : modeFpt (s.ctx l).mode with
    | false => rfl
    | true => exact hq l hl hm
  refine longReg_of (h.trans ?_)
  simp only [fpOp, longTrapOpen_of_none hbad]
  rfl

theorem traps_fpOp {i : Instr} {s : State} {sm : Bool} {op : FpOp} {d a b : Reg} {r : Fin 4} {z t : Bool}
    (h : exec i s = fpOp s sm op d a b r z t) (hm : (s.ctx s.cur).mode.getLsbD 1 = true)
    (hi : fpInvalid op (rmodeOf r.val) (operand (fpFmt t) z (s.rg s.cur a).toNat) (operand (fpFmt t) z (s.rg s.cur b).toNat)
      (operand (fpFmt t) z (s.rg s.cur d).toNat) = true) : Traps i cFP s := by
  intro ht
  obtain ⟨c, hc⟩ := Option.isSome_iff_exists.mp ht.here
  have hb : (modeFpt (s.ctx s.cur).mode && fpInvalid op (rmodeOf r.val) (fpOperand (fpFmt t) z (s.rg s.cur a))
      (fpOperand (fpFmt t) z (s.rg s.cur b)) (fpOperand (fpFmt t) z (s.rg s.cur d))) = true :=
    Bool.and_eq_true_iff.2 ⟨hm, hi⟩
  exact ⟨_, h.trans (onCtx_some hc _), longTrapOpen_alone ht _ _ _ _ _ hb⟩

/-- Settles O5: the condition of the trap holds in the only lane. -/
theorem arithmeticTraps : Obligations.ArithmeticTraps := by
  refine ⟨fun s sm d a b hm => ⟨fun hz => ?_, fun hz => ?_⟩, fun s sm d a b r z t hm => ?_⟩
  · have hz' : (s.rg s.cur b).setWidth 64 = 0 := (BitVec.setWidth_eq _).trans hz
    exact ⟨trapsWith_divOp rfl rfl hm hz', trapsWith_divOp rfl rfl hm hz', trapsWith_divOp rfl rfl hm hz', trapsWith_divOp rfl rfl hm hz'⟩
  · exact ⟨trapsWith_divOp rfl rfl hm hz, trapsWith_divOp rfl rfl hm hz, trapsWith_divOp rfl rfl hm hz, trapsWith_divOp rfl rfl hm hz⟩
  · exact ⟨traps_fpOp rfl hm, traps_fpOp rfl hm, traps_fpOp rfl hm, traps_fpOp rfl hm, traps_fpOp rfl hm, traps_fpOp rfl hm⟩

end Sys2Proof.Machine
end

section
/-! Float arithmetic and conversions (O6). -/
namespace Sys2Proof.Machine

/-! ### Codes by their fields -/

theorem bitAt_eq_testBit (w lo : Nat) : bitAt w lo = w.testBit lo := by
  rw [bitAt, fld, Nat.pow_one, Nat.testBit_eq_decide_div_mod_eq, beq_eq_decide]

theorem fld_zero (w k : Nat) : fld w 0 k = w % 2 ^ k := by
  rw [fld, Nat.pow_zero, Nat.div_one]

theorem sgn_eq (f : FFmt) (neg : Bool) : f.sgn neg = 2 ^ (f.width - 1) * neg.toNat := by
  cases neg <;> simp [FFmt.sgn]

theorem scale2_eq (neg : Bool) (m : Nat) (e : Int) : scale2 neg m e = .fin neg (m * 2 ^ e.toNat) (2 ^ (-e).toNat) := by
  unfold scale2
  split
  · rename_i h
    rw [Int.toNat_of_nonpos h.le, Nat.pow_zero, Nat.mul_one]
  · rename_i h
    rw [Int.toNat_of_nonpos (z := -e) (by omega), Nat.pow_zero]

theorem isInt_scale2 (neg : Bool) (m : Nat) (e : Int) : (scale2 neg m e).isInt = decide (m % 2 ^ (-e).toNat = 0) := by
  rw [scale2_eq, Ex.isInt, beq_eq_decide]
  rcases le_total e 0 with h | h
  · rw [Int.toNat_of_nonpos h, Nat.pow_zero, Nat.mul_one]
  · rw [Int.toNat_of_nonpos (z := -e) (by omega), Nat.pow_zero, Nat.mod_one, Nat.mod_one]

/-- The significand of a finite code, with the hidden bit of a normal one (R75). -/
def FFmt.sig (f : FFmt) (code : Nat) : Nat :=
  if fld code f.mbits f.ebits = 0 then fld code 0 f.mbits else 2 ^ f.mbits + fld code 0 f.mbits

/-- DecodeFloat of a format whose all-ones exponent is infinity or NaN: a subnormal code has the exponent of the code above it. -/
theorem decodeFloat_ieee {f : FFmt} (hf : f.ieee = true) (code : Nat) :
    decodeFloat f code =
      if fld code f.mbits f.ebits = 2 ^ f.ebits - 1 then
        (if fld code 0 f.mbits = 0 then .inf (bitAt code (f.width - 1)) else .nan)
      else scale2 (bitAt code (f.width - 1)) (f.sig code) (((max (fld code f.mbits f.ebits) 1 : Nat) : Int) - f.bias - f.mbits) := by
  have hne : (f == .e4m3) = false := by
    refine beq_false_of_ne ?_
    rintro rfl
    cases hf
  simp only [decodeFloat, hf, hne, Bool.true_and, Bool.false_and, Bool.false_eq_true, if_false, beq_iff_eq, FFmt.sig]
  split
  · rfl
  · split
    · rename_i h
      rw [h]
      rfl
    · rename_i h
      rw [max_eq_left (by omega)]

/-! ### `fclass` (R206) -/

theorem fClassOf_ieee {f : FFmt} (hf : f.ieee = true) (code : Nat) :
    fClassOf f code = if fld code f.mbits f.ebits = 2 ^ f.ebits - 1 then (if fld code 0 f.mbits = 0 then 3 else 4)
      else if fld code f.mbits f.ebits = 0 then (if fld code 0 f.mbits = 0 then 0 else 1) else 2 := by
  rw [fClassOf, decodeFloat_ieee hf]
  by_cases he : fld code f.mbits f.ebits = 2 ^ f.ebits - 1
  · simp only [he, if_true]
    by_cases hn : fld code 0 f.mbits = 0 <;> simp only [hn, if_true, if_false]
  · rw [if_neg he, if_neg he, scale2_eq]
    by_cases h0 : fld code f.mbits f.ebits = 0
    · by_cases hn : fld code 0 f.mbits = 0 <;> simp [h0, hn, FFmt.sig, isSubnormal]
    · simp [h0, FFmt.sig, isSubnormal]

theorem isInt_decodeFloat_ieee {f : FFmt} (hf : f.ieee = true) (code : Nat) :
    (decodeFloat f code).isInt = decide (fld code f.mbits f.ebits ≠ 2 ^ f.ebits - 1 ∧
      f.sig code % 2 ^ (f.bias + f.mbits - max (fld code f.mbits f.ebits) 1) = 0) := by
  rw [decodeFloat_ieee hf]
  split
  · rename_i h
    split <;> simp [Ex.isInt, h]
  · rename_i h
    have he : (-(((max (fld code f.mbits f.ebits) 1 : Nat) : Int) - f.bias - f.mbits)).toNat =
        f.bias + f.mbits - max (fld code f.mbits f.ebits) 1 := by omega
    rw [isInt_scale2, he]
    simp only [ne_eq, h, not_false_eq_true, true_and]

theorem bitAt_top {w code : Nat} (hw : 0 < w) (h : code < 2 ^ w) : bitAt code (w - 1) = decide (code / 2 ^ (w - 1) = 1) := by
  obtain ⟨k, rfl⟩ := Nat.exists_eq_add_of_lt hw
  have hd : code / 2 ^ (0 + k + 1 - 1) < 2 := Nat.div_lt_of_lt_mul (by rw [← Nat.pow_succ]; exact h)
  rw [bitAt, fld, beq_eq_decide, Nat.pow_one, Nat.mod_eq_of_lt hd]

/-- The class word by the fields of the code. -/
theorem fClassWord_ieee {f : FFmt} (hf : f.ieee = true) {code : Nat} (hw : 0 < f.width) (h : code < 2 ^ f.width) :
    fClassWord f code = BitVec.ofNat 64 (
      (if code / 2 ^ f.mbits % 2 ^ f.ebits = 2 ^ f.ebits - 1 then (if code % 2 ^ f.mbits = 0 then 3 else 4)
        else if code / 2 ^ f.mbits % 2 ^ f.ebits = 0 then (if code % 2 ^ f.mbits = 0 then 0 else 1) else 2) +
      (if code / 2 ^ (f.width - 1) = 1 then 8 else 0) + (if code = f.nan then 16 else 0) +
      (if code / 2 ^ f.mbits % 2 ^ f.ebits ≠ 2 ^ f.ebits - 1 ∧
          (if code / 2 ^ f.mbits % 2 ^ f.ebits = 0 then code % 2 ^ f.mbits else 2 ^ f.mbits + code % 2 ^ f.mbits) %
            2 ^ (f.bias + f.mbits - max (code / 2 ^ f.mbits % 2 ^ f.ebits) 1) = 0 then 32 else 0)) := by
  simp only [fClassWord, fClassOf_ieee hf, isInt_decodeFloat_ieee hf, bitAt_top hw h, FFmt.sig, fld_zero, decide_eq_true_eq]
  rfl

/-! ### `fsign` (R206) -/

/-- The sign that `fsign` gives, by its mode and the signs of its operands. -/
def fsignBit (m : Fin 4) (sa sb : Bool) : Bool := if m = 0 then sb else if m = 1 then !sb else if m = 2 then sa != sb else false

theorem fsignCode_eq (f : FFmt) (m : Fin 4) (a b : Nat) :
    fsignCode f m.val a b = 2 ^ (f.width - 1) * (fsignBit m (bitAt a (f.width - 1)) (bitAt b (f.width - 1))).toNat + a % 2 ^ (f.width - 1) := by
  rw [← sgn_eq, Nat.add_comm]
  match m with
  | 0 => rfl
  | 1 => rfl
  | 2 => rfl
  | 3 => rfl

theorem testBit_fsignCode (f : FFmt) (hw : 0 < f.width) (m : Fin 4) (a b i : Nat) :
    (fsignCode f m.val a b).testBit i = if i + 1 < f.width then a.testBit i
      else if i + 1 = f.width then fsignBit m (a.testBit i) (b.testBit i) else false := by
  rw [fsignCode_eq, Nat.testBit_two_pow_mul_add _ (Nat.mod_lt _ (Nat.two_pow_pos _)), Nat.testBit_bool_toNat, bitAt_eq_testBit, bitAt_eq_testBit,
    Nat.testBit_mod_two_pow]
  by_cases hlt : i + 1 < f.width
  · rw [if_pos (by omega), if_pos hlt, decide_eq_true (by omega : i < f.width - 1), Bool.true_and]
  · rw [if_neg (by omega), if_neg hlt]
    by_cases heq : i + 1 = f.width
    · have hi : f.width - 1 = i := by omega
      rw [if_pos heq, hi, Nat.sub_self, decide_eq_true rfl, Bool.true_and]
    · rw [if_neg heq, decide_eq_false (by omega : ¬ i - (f.width - 1) = 0), Bool.false_and]

theorem testBit_fpCode (f : FFmt) (x : Word) {i : Nat} (hi : i < f.width) : (fpCode f x).testBit i = x.getLsbD i := by
  rw [fpCode, Nat.testBit_mod_two_pow, decide_eq_true hi, Bool.true_and]
  rfl

/-- Each bit of the result of `fsign`. -/
theorem getLsbD_fsign (f : FFmt) (hw : 0 < f.width) (m : Fin 4) (x y : Word) {i : Nat} (hi : i < 64) :
    (BitVec.ofNat 64 (fsignCode f m.val (fpCode f x) (fpCode f y))).getLsbD i =
      if i + 1 < f.width then x.getLsbD i else if i + 1 = f.width then fsignBit m (x.getLsbD i) (y.getLsbD i) else false := by
  rw [BitVec.getLsbD_ofNat, decide_eq_true hi, Bool.true_and, testBit_fsignCode f hw]
  split
  · exact testBit_fpCode f x (by omega)
  · split
    · rw [testBit_fpCode f x (by omega), testBit_fpCode f y (by omega)]
    · rfl

/-! ### `fcvt` (R83, R84, R207) -/

section
variable {c t : Nat} {f g : FFmt}

theorem satDefault_of_tyFmt (hg : tyFmt t = some g) : g.satDefault = decide (5 ≤ t) := by
  unfold tyFmt at hg
  split at hg <;> cases hg
  all_goals rfl

theorem fcvtVal_floats (hf : tyFmt c = some f) (hg : tyFmt t = some g) (x z : Bool) (m : RMode) (w : Word) :
    fcvtVal c t x z m w = BitVec.ofNat 64 (result g m (if 5 ≤ t then !x else x) z (operand f z w.toNat)) := by
  simp only [fcvtVal, hf, hg, satDefault_of_tyFmt hg, decide_eq_true_eq, fpOperand]

theorem fcvtVal_toInt (hf : tyFmt c = some f) (ht : tyFmt t = none) (x z : Bool) (m : RMode) (w : Word) :
    fcvtVal c t x z m w = BitVec.ofInt 64 (Ex.toInt m (intLo (tyBits t) false) (intHi (tyBits t) false) (operand f z w.toNat)) := by
  simp only [fcvtVal, hf, ht, fpOperand]

theorem fcvtVal_ofInt (hc : tyFmt c = none) (hg : tyFmt t = some g) (x z : Bool) (m : RMode) (w : Word) :
    fcvtVal c t x z m w = BitVec.ofNat 64 (result g m (if 5 ≤ t then !x else x) z (Ex.ofInt ((w.setWidth (tyBits c)).toInt))) := by
  simp only [fcvtVal, hc, hg, satDefault_of_tyFmt hg, decide_eq_true_eq, intVal, Bool.false_eq_true, if_false, signedOf_toNat]

theorem fcvtVal_ints (hc : tyFmt c = none) (ht : tyFmt t = none) (x z : Bool) (m : RMode) (w : Word) :
    fcvtVal c t x z m w = (BitVec.ofInt (tyBits t)
      (if x then clampInt (intLo (tyBits t) false) (intHi (tyBits t) false) (w.setWidth (tyBits c)).toInt
        else (w.setWidth (tyBits c)).toInt)).signExtend 64 := by
  simp only [fcvtVal, hc, ht, narrowInt, signedOf_wrapNat, intVal, Bool.false_eq_true, if_false, signedOf_toNat]
  rfl

end

/-- No NaN is converted under MODE.FPT, so that no lane traps (R81). -/
theorem longReg_fcvt {s : State} {d a : Reg} {c t : Fin 16} {x z : Bool} {r : Fin 4} {v : CtxId → Word} (sm : Bool)
    (hq : ∀ f, tyFmt c.val = some f → ∀ l ∈ s.lanes s.cur, (s.ctx l).mode.getLsbD 1 = true → (operand f z (s.rg l a).toNat).isNan = false)
    (hv : ∀ l, fcvtVal c.val t.val x z (rmodeOf r.val) (s.rg l a) = v l) : LongReg (.fcvt sm d a c x z r t) sm d v s := by
  have hx : exec (.fcvt sm d a c x z r t) s = execFcvt sm d a c x z r t s := rfl
  refine longReg_of (hx.trans ?_)
  rw [execFcvt, funext hv]
  refine congrArg (onCtx s) (funext fun _ => longTrapOpen_of_none (fun l hl => ?_) sm v)
  cases hm : modeFpt (s.ctx l).mode with
  | false => rfl
  | true =>
    rw [Bool.true_and]
    split
    · rename_i f hf
      exact hq f hf l hl hm
    · rfl

/-! ### The obligation -/

/-- Settles O6: the arithmetic by its exact results, `fsign` and `fclass` by the bits and fields of their operands, `fcvt` by the kinds of its types. -/
theorem floatArithmetic : Obligations.FloatArithmetic := by
  refine ⟨fun s sm d a b r z t => ⟨longReg_fpOp rfl, longReg_fpOp rfl, longReg_fpOp rfl, longReg_fpOp rfl, longReg_fpOp rfl, longReg_fpOp rfl⟩,
    fun s sm d a b m t => ⟨longReg_of rfl, longReg_of rfl, fun _ => ⟨_, longReg_of rfl, fun l i hi => ?_⟩, longReg_of ?_⟩,
    fun s sm d a r cs ct x z => ⟨fun f g _ _ hf hg hq => ?_, fun f ht hf hq => ?_, fun g hc _ hg => ?_, ?_, ?_, ?_⟩⟩
  · cases t with
    | false => exact getLsbD_fsign .f32 (by decide) m _ _ hi
    | true => exact getLsbD_fsign .f64 (by decide) m _ _ hi
  · refine congrArg (onCtx s) (funext fun _ => congrArg (s.longR sm d) (funext fun l => ?_))
    cases t with
    | false => exact fClassWord_ieee rfl (by decide) (Nat.mod_lt _ (by decide))
    | true => exact fClassWord_ieee rfl (by decide) (Nat.mod_lt _ (by decide))
  · exact longReg_fcvt sm (fun f' hf' => by cases hf.symm.trans hf'; exact hq) fun l => fcvtVal_floats hf hg x z _ _
  · refine longReg_fcvt sm (fun f' hf' => by cases hf.symm.trans hf'; exact hq) fun l => ?_
    rcases ht with rfl | rfl
    all_goals
      refine (fcvtVal_toInt hf rfl _ z _ _).trans (congrArg (BitVec.ofInt 64) ?_)
      cases operand f z (s.rg l a).toNat with
      | nan => rfl
      | inf neg => rfl
      | fin neg n k => cases neg <;> exact clampInt_eq (intLo_le_intHi _ false) _
  · refine longReg_fcvt sm (fun f' hf' => ?_) fun l => ?_
    · rcases hc with rfl | rfl <;> cases hf'
    · rcases hc with rfl | rfl
      · rw [fcvtVal_ofInt rfl hg, show tyBits (8 : Fin 16).val = 64 from rfl, BitVec.setWidth_eq]
        rfl
      · exact fcvtVal_ofInt rfl hg x z _ _
  · refine longReg_fcvt sm (fun f' hf' => by cases hf') fun l => (fcvtVal_ints rfl rfl false false _ _).trans ?_
    show (BitVec.ofInt 32 ((s.rg l a).setWidth 64).toInt).signExtend 64 = _
    rw [BitVec.setWidth_eq]
    exact congrArg (BitVec.signExtend 64) (BitVec.signExtend_eq_setWidth_of_le (s.rg l a) (by decide))
  · refine longReg_fcvt sm (fun f' hf' => by cases hf') fun l => (fcvtVal_ints rfl rfl true false _ _).trans ?_
    show (BitVec.ofInt 32 (clampInt (intLo 32 false) (intHi 32 false) ((s.rg l a).setWidth 64).toInt)).signExtend 64 = _
    rw [BitVec.setWidth_eq, clampInt_eq (intLo_le_intHi 32 false)]
    exact congrArg (BitVec.ofInt 64) (BitVec.toInt_ofInt_eq_self (by decide) (le_max_left _ _)
      (max_lt (by decide) (min_lt_of_left_lt (by decide))))
  · exact longReg_fcvt sm (fun f' hf' => by cases hf') fun l => (fcvtVal_ints rfl rfl false false _ _).trans (BitVec.signExtend_eq _)

end Sys2Proof.Machine
end

section
/-! Vector execution (O36): the arbiter, the steps and ends of commands, and integer elements. -/
namespace Sys2Proof.Machine

/-! ### The heads of the queues -/

theorem dropFirst_eq_erase {α : Type} [DecidableEq α] (a : α) (l : List α) : dropFirst (fun x => decide (x = a)) l = l.erase a := by
  induction l with
  | nil => rfl
  | cons b r ih => simp only [dropFirst, List.erase_cons, decide_eq_true_eq, beq_iff_eq, ih]

theorem filter_dropFirst {α : Type} (f : α → Bool) (l : List α) : (dropFirst f l).filter f = (l.filter f).drop 1 := by
  induction l with
  | nil => rfl
  | cons b r ih =>
    rw [dropFirst]
    split
    · rename_i h
      rw [List.filter_cons_of_pos h, List.drop_one, List.tail_cons]
    · rename_i h
      rw [List.filter_cons_of_neg h, List.filter_cons_of_neg h, ih]

theorem length_modHead (pipe : Nat) (f : VCmd → VCmd) (l : List VCmd) : (modHead pipe f l).length = l.length := by
  induction l with
  | nil => rfl
  | cons v r ih =>
    rw [modHead]
    split
    · rfl
    · rw [List.length_cons, ih, List.length_cons]

theorem head_modHead {pipe : Nat} {f : VCmd → VCmd} (hf : ∀ v, v.pipe = pipe → (f v).pipe = pipe) (k : Cluster) :
    ({ k with vq := modHead pipe f k.vq } : Cluster).head pipe = (k.head pipe).map f := by
  show (modHead pipe f k.vq).find? _ = (k.vq.find? _).map f
  induction k.vq with
  | nil => rfl
  | cons v r ih =>
    rw [modHead]
    split
    · rename_i h
      simp only [List.find?_cons, decide_eq_true (hf v h), decide_eq_true h, Option.map_some]
    · rename_i h
      simp only [List.find?_cons, decide_eq_false h, ih]

theorem head_pipe {k : Cluster} {pipe : Nat} {c : VCmd} (h : k.head pipe = some c) : c.pipe = pipe :=
  of_decide_eq_true (List.find?_some h :)

/-! ### The arbiter binds a part (R253, R258) -/

theorem bindPart_id (k : Cluster) : (bindPart k).id = k.id := by
  unfold bindPart
  split
  · split <;> rfl
  · rfl

theorem bindPart_eq {k : Cluster} {p cr : Nat} (hn : k.nextPipe = some (p, cr)) (hl : k.lanes.length < 8) :
    bindPart k = { k with rho := p, credit := cr - 1, lanes := k.lanes ++ [p], vq := modHead p VCmd.bindNext k.vq } := by
  simp only [bindPart, hn, hl, if_true]

theorem bindNext_eq {v : VCmd} {i : Nat} (h : v.nextPart = some i) : v.bindNext = v.setPart i { v.part i with lane := true } := by
  simp only [VCmd.bindNext, h]

theorem bindNext_pipe (v : VCmd) : v.bindNext.pipe = v.pipe := by
  unfold VCmd.bindNext
  split <;> rfl

theorem vectorPartBind_binds {s : State} {p cr : Nat} {v : VCmd} {i : Nat} (hn : (s.cluster s.subj.cl).nextPipe = some (p, cr))
    (hl : (s.cluster s.subj.cl).lanes.length < 8) (hh : (s.cluster s.subj.cl).head p = some v) (hi : v.nextPart = some i) :
    Runs .vectorPartBind s fun t => t = { s with clusters := t.clusters } ∧
      (t.cluster s.subj.cl).lanes = (s.cluster s.subj.cl).lanes ++ [p] ∧
      (t.cluster s.subj.cl).head p = some (v.setPart i { v.part i with lane := true }) ∧
      (t.cluster s.subj.cl).rho = p ∧ (t.cluster s.subj.cl).credit = cr - 1 ∧
      (t.cluster s.subj.cl).vq.length = (s.cluster s.subj.cl).vq.length := by
  have hk := (cluster_modCluster_self s s.subj.cl bindPart_id).trans (bindPart_eq hn hl)
  refine ⟨s.modCluster s.subj.cl bindPart, rfl, modCluster_rest _ _ _, congrArg Cluster.lanes hk, ?_, congrArg Cluster.rho hk,
    congrArg Cluster.credit hk, (congrArg (List.length ∘ Cluster.vq) hk).trans (length_modHead _ _ _)⟩
  calc ((s.modCluster s.subj.cl bindPart).cluster s.subj.cl).head p
      = (modHead p VCmd.bindNext (s.cluster s.subj.cl).vq).find? fun v => decide (v.pipe = p) := by rw [hk]; rfl
    _ = ((s.cluster s.subj.cl).head p).map VCmd.bindNext := head_modHead (fun v h => (bindNext_pipe v).trans h) (s.cluster s.subj.cl)
    _ = some (v.setPart i { v.part i with lane := true }) := by rw [hh, Option.map_some, bindNext_eq hi]

/-! ### Commands end (R254, R255) -/

/-- The head of a pipe's queue leaves, and gives back its lane groups. -/
def Cluster.dropHead (pipe : Nat) (k : Cluster) : Cluster :=
  { k with vq := dropFirst (fun v : VCmd => decide (v.pipe = pipe)) k.vq, lanes := k.lanes.filter fun p => !decide (p = pipe) }

theorem head_dropHead (pipe : Nat) (k : Cluster) :
    (k.dropHead pipe).head pipe = ((k.vq.filter fun v => decide (v.pipe = pipe)).drop 1).head? := by
  rw [← filter_dropFirst]
  exact List.head?_filter.symm

theorem lanes_dropHead (pipe : Nat) (k : Cluster) : ∀ q ∈ (k.dropHead pipe).lanes, q ≠ pipe := by
  intro q hq
  simpa using (List.mem_filter.1 hq).2

theorem signalDone_none (s : State) (b : Behalf) (err : Option Word) : s.signalDone b {} err = s := by
  unfold State.signalDone State.ringRelease
  cases b.team <;> rfl

section
variable {c : VCmd} (hop : c.op ≠ 0x1B) (hsig : c.sig = {}) (u : State) (cl : Nat)
include hop hsig

/-- A command that signals nothing and scatters nothing leaves its queue with its lane groups. -/
theorem vecEnd_uncounted (hoc : c.oc = none) : u.vecEnd cl c = u.modCluster cl (Cluster.dropHead c.pipe) := by
  simp only [State.vecEnd, hop, false_and, if_false, hsig, signalDone_none, hoc]
  rfl

/-- The same of a command that counts: its counter may retire (R153). -/
theorem vecEnd_counted {o : Nat} (hoc : c.oc = some o) : u.vecEnd cl c = (u.modCluster cl (Cluster.dropHead c.pipe)).ocDone o := by
  simp only [State.vecEnd, hop, false_and, if_false, hsig, signalDone_none, hoc]
  rfl

end

/-- A state that has the clusters of one whose head has left. -/
theorem ends_of_dropHead {u t : State} {cl pipe : Nat} (hc : t.clusters = (u.modCluster cl (Cluster.dropHead pipe)).clusters) (hm : t.mem = u.mem)
    (hl : t.ls = u.ls) (hv : t.vrs = u.vrs) :
    (t.cluster cl).head pipe = (((u.cluster cl).vq.filter fun v => decide (v.pipe = pipe)).drop 1).head? ∧
      (∀ q ∈ (t.cluster cl).lanes, q ≠ pipe) ∧ t.mem = u.mem ∧ t.ls = u.ls ∧ t.vrs = u.vrs := by
  have hk : t.cluster cl = (u.cluster cl).dropHead pipe := by
    rw [← cluster_modCluster_self u cl (f := Cluster.dropHead pipe) fun _ => rfl]
    unfold State.cluster
    rw [hc]
  rw [hk]
  exact ⟨head_dropHead _ _, lanes_dropHead _ _, hm, hl, hv⟩

theorem ends_modCluster (u : State) (cl pipe : Nat) :
    ((u.modCluster cl (Cluster.dropHead pipe)).cluster cl).head pipe = (((u.cluster cl).vq.filter fun v => decide (v.pipe = pipe)).drop 1).head? ∧
      (∀ q ∈ ((u.modCluster cl (Cluster.dropHead pipe)).cluster cl).lanes, q ≠ pipe) ∧ (u.modCluster cl (Cluster.dropHead pipe)).mem = u.mem ∧
      (u.modCluster cl (Cluster.dropHead pipe)).ls = u.ls ∧ (u.modCluster cl (Cluster.dropHead pipe)).vrs = u.vrs :=
  ends_of_dropHead rfl (State.modCluster_mem _ _ _) (State.modCluster_ls _ _ _) (State.modCluster_vrs _ _ _)

/-! ### A part runs its steps (R252, R253) -/

/-- The head of a pipe's queue is now c, whose part k gives its lane group back once it is done. -/
def Cluster.runOn (pipe k : Nat) (c : VCmd) (x : Cluster) : Cluster :=
  { x with
    vq := modHead pipe (fun _ => c.unbind k) x.vq
    lanes := if c.partDone k = true ∧ (c.part k).lane = true then x.lanes.erase pipe else x.lanes }

section
variable {s u : State} {cl pipe k n : Nat} {c c' : VCmd} (h : c.advance k n s = (c', u))
include h

theorem vecRun_finished (hf : c'.finished = true) : s.vecRun cl pipe k n c = u.vecEnd cl c' := by
  simp only [State.vecRun, h, hf, if_true]

theorem vecRun_unfinished (hf : c'.finished = false) : s.vecRun cl pipe k n c = u.modCluster cl (Cluster.runOn pipe k c') := by
  simp only [State.vecRun, h, hf, Bool.false_eq_true, if_false, Bool.and_eq_true, dropFirst_eq_erase]
  rfl

end

theorem unbind_pipe (c : VCmd) (k : Nat) : (c.unbind k).pipe = c.pipe := by
  unfold VCmd.unbind
  split <;> rfl

theorem head_runOn {pipe k : Nat} {c : VCmd} {x : Cluster} (hp : c.pipe = pipe) (hx : (x.head pipe).isSome = true) :
    (x.runOn pipe k c).head pipe = some (c.unbind k) := by
  obtain ⟨e, he⟩ := Option.isSome_iff_exists.1 hx
  have hm := head_modHead (f := fun _ => c.unbind k) (fun _ _ => (unbind_pipe c k).trans hp) x
  rwa [he, Option.map_some] at hm

section
variable {s : State} {c : VCmd} (hc : (s.cluster s.subj.cl).head s.subj.pipe = some c)
include hc

theorem exec_vectorCommandComplete_finished (hop : c.op < 0x19) (hf : c.finished = true) :
    exec .vectorCommandComplete s = .next (s.vecEnd s.subj.cl c) := by
  have hA : c.op ≠ 0x1A := by omega
  have hB : c.op ≠ 0x1B := by omega
  have h9 : c.op ≠ 0x19 := by omega
  show execVectorCommandComplete s = _
  simp only [execVectorCommandComplete, hc, hA, hB, h9, hf, or_self, false_and, if_true, if_false]

theorem exec_vectorCommandComplete_runs (hop : c.op < 0x1A) (hf : c.finished = false) (hl : (c.part s.subj.lo).lane = true) :
    exec .vectorCommandComplete s = .next (s.vecRun s.subj.cl s.subj.pipe s.subj.lo s.subj.num c) := by
  have hA : c.op ≠ 0x1A := by omega
  have hB : c.op ≠ 0x1B := by omega
  show execVectorCommandComplete s = _
  simp only [execVectorCommandComplete, hc, hA, hB, hf, hl, or_self, if_true, if_false, Bool.false_eq_true]

theorem exec_gatherScatterComplete_runs (hop : c.op = 0x1A) (ho : s.subj.ok = false) :
    exec .gatherScatterComplete s = .next (s.vecRun s.subj.cl s.subj.pipe 0 s.subj.num c) := by
  show execGatherScatterComplete s = _
  simp only [execGatherScatterComplete, ho, Bool.false_eq_true, if_false, State.vecGsRun, hc, hop, true_or, if_true]

end

/-! ### Integer elements (R90, R244, R259, R260) -/

theorem cast_narrowInt (w : Nat) (uns sat : Bool) (i : Int) :
    (narrowInt w uns sat i : Int) = (if sat then max (intLo w uns) (min (intHi w uns) i) else i) % 2 ^ w := by
  rw [narrowInt, cast_wrapNat, clampInt_eq (intLo_le_intHi w uns)]

/-- The width of an element type is a power of two, so that it divides two to the width. -/
theorem tyBits_dvd_two_pow {ty : Nat} (hw : 0 < tyBits ty) : tyBits ty ∣ 2 ^ tyBits ty := by
  unfold tyBits at hw ⊢
  split at hw
  case h_17 => exact absurd hw (Nat.lt_irrefl 0)
  all_goals decide

/-- A wrapped integer read at its width. -/
theorem intVal_wrapNat (w : Nat) (uns : Bool) (i : Int) :
    intVal w uns (wrapNat w i) = if (!uns) = true ∧ 2 ^ (w - 1) ≤ i % 2 ^ w then i % 2 ^ w - 2 ^ w else i % 2 ^ w := by
  have hc : ((wrapNat w i % 2 ^ w : Nat) : Int) = i % 2 ^ w := by
    push_cast
    rw [cast_wrapNat, Int.emod_emod_of_dvd _ (dvd_refl _)]
  cases uns with
  | true => simp only [intVal, if_true, hc, Bool.not_true, Bool.false_eq_true, false_and, if_false]
  | false =>
    have hle : 2 ^ (w - 1) ≤ wrapNat w i % 2 ^ w ↔ (2 : Int) ^ (w - 1) ≤ i % 2 ^ w := by
      rw [← hc]
      exact_mod_cast Iff.rfl
    simp only [intVal, Bool.false_eq_true, if_false, signedOf, hle, Bool.not_false, true_and]
    push_cast at hc
    rw [hc]

/-- The amount of a left shift: the operand modulo the width. -/
theorem wrapNat_mod_width {ty : Nat} (hw : 0 < tyBits ty) (i : Int) :
    wrapNat (tyBits ty) i % tyBits ty = (i % tyBits ty).toNat := by
  have hd : (tyBits ty : Int) ∣ 2 ^ tyBits ty := by exact_mod_cast tyBits_dvd_two_pow hw
  have hn : 0 ≤ i % tyBits ty := Int.emod_nonneg _ (by omega)
  zify
  rw [cast_wrapNat, Int.emod_emod_of_dvd _ hd, Int.toNat_of_nonneg hn]

/-- The integer that an elementwise arithmetic operation or left shift computes before it is narrowed (R259). -/
def vecExactInt (op w : Nat) (uns : Bool) (a b c : Int) : Int :=
  if op = 0x0C then intVal w uns (wrapNat w a) * 2 ^ (wrapNat w b % w) else vecI op a b c

/-- The operations with a meaning of their own, from `v.cmp` on, are not among these. -/
theorem vecElem_int {op dty : Nat} (hf : tyFmt dty = none) (hop : op ≤ 0x08 ∨ op = 0x0C ∨ op = 0x18) (g : Word) (duns : Bool) (x y z : Src) (flat : Nat) :
    vecElem op g dty duns x y z flat = putI g dty duns (vecExactInt op (tyBits dty) (tyUns dty duns) x.int y.int z.int) := by
  have hbits : ¬ (0x09 ≤ op ∧ op ≤ 0x0D) ∨ op = 0x0C := by omega
  unfold vecElem vecExactInt
  split
  all_goals try omega
  rw [hf]
  dsimp only
  split
  · rfl
  · rename_i h
    rw [if_neg (hbits.resolve_right h)]

/-- The values of the operations, as R259 lists them. -/
theorem vecExactInt_eq {op dty : Nat} (hw : 0 < tyBits dty) (hop : op ≤ 0x08 ∨ op = 0x0C ∨ op = 0x18) (uns : Bool) (a b c : Int) :
    vecExactInt op (tyBits dty) uns a b c =
      if op = 0x00 then a + b else if op = 0x01 then a - b else if op = 0x02 then a * b else if op = 0x03 then a * b + c
      else if op = 0x04 then a * b - c else if op = 0x05 then min a b else if op = 0x06 then max a b else if op = 0x07 then (a.natAbs : Int)
      else if op = 0x08 then -a
      else if op = 0x0C then
        (if (!uns) = true ∧ 2 ^ (tyBits dty - 1) ≤ a % 2 ^ tyBits dty then a % 2 ^ tyBits dty - 2 ^ tyBits dty else a % 2 ^ tyBits dty) *
          2 ^ (b % tyBits dty).toNat
      else min (max a b) c := by
  by_cases hshl : op = 0x0C
  · subst hshl
    rw [vecExactInt, if_pos rfl, intVal_wrapNat, wrapNat_mod_width hw]
    rfl
  · rw [vecExactInt, if_neg hshl]
    unfold vecI
    split
    case h_8 =>
      show (if a < 0 then -a else a) = (a.natAbs : Int)
      split <;> omega
    case h_11 =>
      simp only [imp_false] at *
      omega
    all_goals rfl

theorem intLo_eq (w : Nat) (uns : Bool) : intLo w uns = if (!uns) = true then -(2 ^ (w - 1) : Int) else 0 := by
  cases uns <;> rfl

theorem intHi_eq (w : Nat) (uns : Bool) : intHi w uns = if (!uns) = true then 2 ^ (w - 1) - 1 else 2 ^ w - 1 := by
  cases uns <;> rfl

/-- Settles O36: the arbiter's binding, the three ways a command goes on, and the integer operations by their exact results. -/
theorem vectorExecution : Obligations.VectorExecution := by
  refine ⟨fun s u p => ⟨fun cr v i hn hl hh hi => vectorPartBind_binds hn hl hh hi, fun c hc hf hop hsig hoc => ?_,
    fun c c' hc hf hop hlane hadv hop' hpipe hsig hoc => ?_, fun c c' tk hc hop hok hadv hop' hpipe hsig hoc hf => ?_⟩,
    fun op dty flat g duns x y z hf hw hop => ?_⟩
  · refine ⟨_, exec_vectorCommandComplete_finished hc hop hf, ?_⟩
    rw [vecEnd_uncounted (by omega) hsig _ _ hoc, head_pipe hc]
    exact ⟨ends_modCluster _ _ _, modCluster_rest _ _ _⟩
  · have hp : c'.pipe = s.subj.pipe := hpipe.trans (head_pipe hc)
    have hx := exec_vectorCommandComplete_runs hc hop hf hlane
    refine ⟨fun hf' => ⟨_, hx, ?_⟩, fun hf' => ⟨_, hx, ?_⟩⟩
    · rw [vecRun_finished hadv hf', vecEnd_uncounted (by omega) hsig _ _ hoc, hp]
      exact ⟨ends_modCluster _ _ _, modCluster_rest _ _ _⟩
    · rw [vecRun_unfinished hadv hf']
      have hk := cluster_modCluster_self u s.subj.cl (f := Cluster.runOn s.subj.pipe s.subj.lo c') fun _ => rfl
      refine ⟨modCluster_rest _ _ _, fun hh => ?_, fun _ => congrArg Cluster.lanes hk⟩
      rw [hk, head_runOn hp hh]
      rfl
  · have hp : c'.pipe = s.subj.pipe := hpipe.trans (head_pipe hc)
    refine ⟨_, exec_gatherScatterComplete_runs hc hop hok, ?_⟩
    rw [vecRun_finished hadv hf, vecEnd_counted (by omega) hsig _ _ hoc, hp]
    refine ⟨ends_of_dropHead rfl (State.modCluster_mem _ _ _) (State.modCluster_ls _ _ _) (State.modCluster_vrs _ _ _), ?_, ?_⟩
    · unfold State.ocDone
      rw [modCluster_rest]
    · simp only [State.ocDone, State.modCluster_ocq]
  · rw [vecElem_int hf hop, putI, cast_narrowInt, vecExactInt_eq hw hop, intLo_eq, intHi_eq]
    rfl

end Sys2Proof.Machine
end

section
/-! Bytes of a memory in canonical form or not, and what writing bytes at their places leaves. -/
namespace Sys2Proof.Machine

/-! ### Bytes -/

theorem kvRead_kvWrite_ne {α : Type} [DecidableEq α] (z : α) {a x : Nat} (h : x ≠ a) (v : α) : ∀ m : List (Nat × α),
    kvRead z (kvWrite z m a v) x = kvRead z m x
  | [] => by
    rw [kvWrite]
    split
    · rfl
    · simp only [kvRead, if_neg h.symm]
  | (k, w) :: r => by
    rw [kvWrite]
    split
    · split
      · rfl
      · rw [kvRead, if_neg h.symm]
    · split
      next hk =>
        subst hk
        split
        · rw [kvRead, if_neg h.symm]
        · rw [kvRead, if_neg h.symm, kvRead, if_neg h.symm]
      next => rw [kvRead, kvRead, kvRead_kvWrite_ne z h v r]

/-- A byte outside those written reads as before, of a list in canonical form or not. -/
theorem Memory.read_writeN_outside {k : Nat} : ∀ {l : List Byte} {a : Nat} (_ : k < a ∨ a + l.length ≤ k) (m : List Host.Cell),
    Memory.read (Memory.writeN m a l) k = Memory.read m k
  | [], _, _, _ => rfl
  | b :: r, a, h, m => by
    rw [List.length_cons] at h
    rw [Memory.writeN, Memory.read_writeN_outside (by omega) (Memory.write m a b)]
    exact kvRead_kvWrite_ne 0 (by omega) b m

@[simp] theorem Memory.length_readN (m : List Host.Cell) (a n : Nat) : (Memory.readN m a n).length = n := by simp [Memory.readN]

@[simp] theorem length_maskBytes (old data : List Byte) (mask : BitVec 64) : (maskBytes old data mask).length = old.length := by simp [maskBytes]

theorem leNat_lt : ∀ l : List Byte, leNat l < 2 ^ (8 * l.length)
  | [] => Nat.one_pos
  | b :: r => by
    have h := leNat_lt r
    have hb := b.isLt
    rw [leNat, List.length_cons, Nat.mul_succ, Nat.pow_add]
    omega

/-- A loaded value is its bytes' number, extended from their width (R208). -/
theorem extend_eq {n : Nat} {l : List Byte} (h : l.length ≤ n) (sext : Bool) : extend n sext (leNat l) =
    if sext = true then (BitVec.ofNat (8 * n) (leNat l)).signExtend 64 else (BitVec.ofNat (8 * n) (leNat l)).setWidth 64 := by
  unfold extend
  split
  · rw [signedOf_eq_toInt]
    rfl
  · have hlt : leNat l < 2 ^ (8 * n) := (leNat_lt l).trans_le (Nat.pow_le_pow_right (by decide) (by omega))
    apply BitVec.eq_of_toNat_eq
    rw [BitVec.toNat_setWidth, BitVec.toNat_ofNat, BitVec.toNat_ofNat, Nat.mod_eq_of_lt hlt]

theorem LocalPut.of_ls {s u : State} {l : LsAt} {n v : Nat} (h : u.ls = Memory.writeN s.ls (lsKey l.cl l.phys) (leBytes n v)) : LocalPut s u l n v :=
  ⟨h, fun k hk => by rw [h]; exact Memory.read_writeN_outside (by rwa [length_leBytes]) _⟩

/-! ### What a write to local store or to memory leaves (R124, R354) -/

theorem noteRace_rest (s : State) (f : Nat → Bool) (r : Option Nat × Nat × Nat) : s.noteRace f r = { s with clusters := (s.noteRace f r).clusters } := by
  unfold State.noteRace
  split <;> rfl

theorem lsWrite_rest (s : State) (cl off n : Nat) (a : Option CtxId) (k : WKind) :
    s.lsWrite cl off n a k = { s with clusters := (s.lsWrite cl off n a k).clusters } := by
  unfold State.lsWrite
  cases a <;> dsimp only <;> split
  · rfl
  · exact modCluster_rest _ _ _
  · rfl
  · exact modCluster_rest _ _ _

/-- A change of what is watched alone: Sinter's entries, its compiles and counters, and what clusters keep of writes. -/
structure Watched (s t : State) : Prop where
  rest : t = { s with sinter := t.sinter, teams := t.teams, clusters := t.clusters, compiles := t.compiles }

theorem Watched.trans {s t u : State} (h : Watched s t) (k : Watched t u) : Watched s u := ⟨by rw [k.rest, h.rest]⟩

theorem watched_noteRace (s : State) (f : Nat → Bool) (r : Option Nat × Nat × Nat) : Watched s (s.noteRace f r) := ⟨by rw [noteRace_rest]⟩

theorem watched_lsWrite (s : State) (cl off n : Nat) (a : Option CtxId) (k : WKind) : Watched s (s.lsWrite cl off n a k) := ⟨by rw [lsWrite_rest]⟩

theorem watched_watchWrite (s : State) (cl a n : Nat) : Watched s (s.watchWrite cl a n) :=
  Watched.trans ⟨invalidate_rest s _⟩ (watched_noteRace _ _ _)

theorem watched_watchMem (s : State) (a : Option CtxId) (va pa n : Nat) : Watched s (s.watchMem a va pa n) := by
  unfold State.watchMem
  exact Watched.trans ⟨invalidate_rest s _⟩ (watched_noteRace _ _ _)

/-- A write to local store changes its bytes, and what is watched. -/
theorem watched_placeWriteAs_ls (s : State) (a : Option CtxId) (pipe : Nat) (k : WKind) (cl off : Nat) (data : List Byte) :
    Watched { s with ls := Memory.writeN s.ls (lsKey cl off) data } (s.placeWriteAs a pipe k (.ls cl off) data) :=
  (watched_lsWrite _ _ _ _ _ _).trans (watched_watchWrite _ _ _ _)

theorem stampWrite_rest (s : State) (a : CtxId) (pipe pa : Nat) (f : List Rel → List Rel) : s.stampWrite (some a) pipe pa f =
    { s with home := (s.stampWrite (some a) pipe pa f).home, ctxs := (s.stampWrite (some a) pipe pa f).ctxs } := by
  unfold State.stampWrite State.modHome
  dsimp only
  split <;> rfl

end Sys2Proof.Machine
end

section
/-! Results that return, writes and reductions that are performed, lines that are written back (O20). -/
namespace Sys2Proof.Machine

/-! ### A result returns (R142, R179) -/

/-- The value of an outstanding result as it returns: a late load reads its bytes now (R142). -/
def Long.now (s : State) (l : Long) : Word := match l.late with
  | some q => s.readLate q
  | none => l.val

/-- The contexts of t are those of s, with what some of them have observed raised. -/
def Observed (s t : State) : Prop := ∀ id, ∃ m, t.findCtx id = (s.findCtx id).map fun c => { c with mts := m }

theorem Observed.refl (s : State) : Observed s s := by
  refine fun id => ⟨(s.ctx id).mts, ?_⟩
  cases h : s.findCtx id with
  | none => rfl
  | some c => rw [ctx_of_find h]; rfl

theorem observed_hasRead (s : State) (a : CtxId) (wts : Nat) : Observed s (s.hasRead a wts) := by
  intro id
  unfold State.hasRead
  rw [findCtx_modCtx _ _ _ (by intro; rfl)]
  split
  · refine ⟨max (s.ctx id).mts wts, ?_⟩
    cases h : s.findCtx id with
    | none => rfl
    | some c => rw [ctx_of_find h]; rfl
  · exact Observed.refl s id

theorem observed_lateSeen (s : State) (q : Late) : Observed s (s.lateSeen q) := by
  unfold State.lateSeen
  split
  · split
    · exact observed_hasRead _ _ _
    · exact observed_hasRead _ _ _
  · exact Observed.refl s

theorem writeLong_rest (s : State) (l : Long) : s.writeLong l = { s with ctxs := (s.writeLong l).ctxs } := by
  unfold State.writeLong State.wp
  split <;> split <;> rfl

theorem lateSeen_longs (s : State) (q : Late) : (s.lateSeen q).longs = s.longs := by rw [lateSeen_rest]

/-- The state after a result has left the list, its bytes read. -/
def State.unlist (s : State) (n : Nat) (l : Long) : State :=
  { (match l.late with
    | some q => s.lateSeen q
    | none => s) with longs := s.longs.eraseIdx n }

theorem unlist_rest (s : State) (n : Nat) (l : Long) : s.unlist n l = { s with ctxs := (s.unlist n l).ctxs, longs := s.longs.eraseIdx n } := by
  unfold State.unlist
  cases l.late with
  | none => rfl
  | some q =>
    dsimp only
    rw [lateSeen_rest]

theorem observed_unlist (s : State) (n : Nat) (l : Long) : Observed s (s.unlist n l) := by
  unfold State.unlist
  cases l.late with
  | none => exact Observed.refl s
  | some q => exact observed_lateSeen s q

section
variable {s : State} {l : Long} (hl : s.longs[s.subj.n]? = some l) (hp : l.poisoned = none) (ha : l.abort = none)
include hl hp ha

theorem returnLong_eq : s.returnLong s.subj.n =
    if (s.ctx (s.leader l.dst)).fixedW.contains l.dest = true then
      if (s.unlist s.subj.n l).freshFree.1.getLsbD 0 = true then (s.unlist s.subj.n l).freshFree.2
      else (s.unlist s.subj.n l).freshFree.2.writeLong { l with val := l.now s }
    else (s.unlist s.subj.n l).writeLong { l with val := l.now s } := by
  obtain ⟨dst, dest, val, poisoned, abort, late, away⟩ := l
  subst hp ha
  unfold State.returnLong
  rw [hl]
  cases late with
  | none => rfl
  | some q =>
    dsimp only [State.unlist, Long.now]
    rw [lateSeen_longs]
    rfl

/-- A result that returns is written; where a fixed instruction has written its destination, that is left to a free value. -/
theorem longResultReturn_writes : ∃ (u : State) (w : Bool), Observed s u ∧
    u = { s with ctxs := u.ctxs, longs := s.longs.eraseIdx s.subj.n, freeCtr := u.freeCtr } ∧
    (w = false → (s.ctx (s.leader l.dst)).fixedW.contains l.dest = true) ∧
    exec .longResultReturn s = .next (if w = true then u.writeLong { l with val := l.now s } else u) := by
  have hx : exec .longResultReturn s = .next (s.returnLong s.subj.n) := rfl
  rw [returnLong_eq hl hp ha] at hx
  have ho := observed_unlist s s.subj.n l
  have hr := unlist_rest s s.subj.n l
  generalize s.unlist s.subj.n l = u at hx ho hr
  by_cases hfix : (s.ctx (s.leader l.dst)).fixedW.contains l.dest = true
  · refine ⟨u.freshFree.2, !u.freshFree.1.getLsbD 0, ho, by rw [hr]; rfl, fun _ => hfix, ?_⟩
    rw [hx, if_pos hfix]
    cases u.freshFree.1.getLsbD 0 <;> rfl
  · exact ⟨u, true, ho, by rw [hr], nofun, by rw [hx, if_neg hfix, if_pos rfl]⟩

end

/-- What is found in each slot once a result for a register has been written, or left out. -/
theorem findCtx_written_reg {s u : State} (ho : Observed s u) {l : Long} {r : Reg} (hd : l.dest = .g r) (hr : r ≠ 0)
    (w : Bool) {t : State} (ht : t = if w = true then u.writeLong l else u) (id : CtxId) :
    t.findCtx id = (s.findCtx id).map fun c =>
      { (if id = l.dst ∧ w = true then { c with g := c.g.set r l.val } else c) with mts := (t.ctx id).mts, vis := (t.ctx id).vis } := by
  obtain ⟨m, hm⟩ := ho id
  have hf : t.findCtx id = (s.findCtx id).map fun c => { (if id = l.dst ∧ w = true then { c with g := c.g.set r l.val } else c) with mts := m } := by
    cases w with
    | false =>
      rw [ht, if_neg nofun, hm]
      simp only [Bool.false_eq_true, and_false, if_false]
    | true =>
      rw [ht, if_pos rfl, State.writeLong, hd]
      dsimp only
      rw [if_neg hr, findCtx_modCtx _ _ _ (by intro; rfl), hm]
      by_cases hid : id = l.dst
      · rw [if_pos hid, Option.map_map]
        simp only [hid, true_and, if_true]
        rfl
      · simp only [hid, false_and, if_false]
  rw [hf]
  cases h : s.findCtx id with
  | none => rfl
  | some c =>
    rw [h] at hf
    rw [ctx_of_find hf, Option.map_some]
    split <;> rfl

/-- What is found in each slot once a result for a predicate has been written, or left out. -/
theorem findCtx_written_pred {s u : State} (ho : Observed s u) {l : Long} {n : PReg} (hd : l.dest = .p n)
    (hn : n ≠ 0) (w : Bool) {t : State} (ht : t = if w = true then u.writeLong l else u) (id : CtxId) :
    t.findCtx id = (s.findCtx id).map (fun c => { c with p := (t.ctx id).p, mts := (t.ctx id).mts, vis := (t.ctx id).vis }) ∧
    ((s.findCtx id).isSome → ∀ k, k < 8 → (t.ctx id).p.getLsbD k =
      if id = l.dst ∧ w = true ∧ k = n.val then decide (l.val ≠ 0) else (s.ctx id).p.getLsbD k) := by
  obtain ⟨m, hm⟩ := ho id
  have hf : t.findCtx id = (s.findCtx id).map fun c =>
      { c with p := if id = l.dst ∧ w = true then setPBit c.p n (decide (l.val ≠ 0)) else c.p, mts := m } := by
    cases w with
    | false =>
      rw [ht, if_neg nofun, hm]
      simp only [Bool.false_eq_true, and_false, if_false]
    | true =>
      rw [ht, if_pos rfl, State.writeLong, hd]
      dsimp only
      rw [State.wp, if_neg hn, findCtx_modCtx _ _ _ (by intro; rfl), hm]
      by_cases hid : id = l.dst
      · rw [if_pos hid, Option.map_map]
        simp only [hid, true_and, if_true]
        rfl
      · simp only [hid, false_and, if_false]
  rw [hf]
  cases h : s.findCtx id with
  | none => exact ⟨rfl, nofun⟩
  | some c =>
    rw [h] at hf
    rw [ctx_of_find hf, ctx_of_find h]
    refine ⟨rfl, fun _ k hk => ?_⟩
    dsimp only
    by_cases hw : id = l.dst ∧ w = true
    · rw [if_pos hw]
      by_cases hkn : k = n.val
      · rw [if_pos ⟨hw.1, hw.2, hkn⟩, hkn, setPBit_self]
      · rw [if_neg fun h => hkn h.2.2]
        exact setPBit_ne c.p (m := ⟨k, hk⟩) (n := n) (fun h => hkn (congrArg Fin.val h)) _
    · rw [if_neg hw, if_neg fun h => hw ⟨h.1, h.2.1⟩]

/-! ### A write on its way is performed (R123, R147) -/

theorem performWrite_ls {s : State} {w : PWrite} {cl off : Nat} (h : w.place = .ls cl off) :
    Watched { s with ls := Memory.writeN s.ls (lsKey cl off) (maskBytes (Memory.readN s.ls (lsKey cl off) w.data.length) w.data w.mask) } (s.performWrite w) := by
  unfold State.performWrite
  simp only [h]
  exact watched_placeWriteAs_ls s _ _ _ _ _ _

theorem performWrite_mem {s : State} {w : PWrite} {va pa : Nat} (h : w.place = .mem va pa) : s.performWrite w = { s with
    mem := Memory.writeN s.mem pa (maskBytes (Memory.readN s.mem pa w.data.length) w.data w.mask)
    home := (s.performWrite w).home, ctxs := (s.performWrite w).ctxs, sinter := (s.performWrite w).sinter, teams := (s.performWrite w).teams
    clusters := (s.performWrite w).clusters, compiles := (s.performWrite w).compiles } := by
  unfold State.performWrite
  simp only [h]
  rw [(watched_watchMem _ _ _ _ _).rest, noteAgent_rest, stampWrite_rest]
  rfl

section
variable {s : State} {w : PWrite} (hw : s.writes[s.subj.n]? = some w)
  (hturn : ∀ q ∈ s.writes.take s.subj.n, (w.follows q && placesMeet q.place q.data.length w.place w.data.length) = false)
include hw hturn

/-- A write that no earlier one of its bank must precede is the one that is performed. -/
theorem oldestWrite_in_turn : s.oldestWrite s.writes.length s.subj.n = s.subj.n := by
  obtain ⟨m, hm⟩ : ∃ m, s.writes.length = m + 1 := Nat.exists_eq_succ_of_ne_zero fun h => by simp [List.length_eq_zero_iff.mp h] at hw
  have hno : (s.writes.take s.subj.n).findIdx? (fun q => w.follows q && placesMeet q.place q.data.length w.place w.data.length) = none :=
    List.findIdx?_eq_none_iff.mpr hturn
  rw [hm, State.oldestWrite]
  simp only [hw, hno]

theorem exec_writePerformed (hhi : s.subj.hi ≠ 1) (hnear : ∀ va pa, w.target = some (va, pa) → pa / 2 ^ 48 = 0) :
    exec .writePerformed s = .next (State.performWrite { s with writes := s.writes.eraseIdx s.subj.n } w) := by
  refine congrArg Host.Outcome.next ((if_neg hhi).trans ?_)
  unfold State.writeEvent
  simp only [oldestWrite_in_turn hw hturn, hw]
  split
  next va pa ht => rw [if_neg fun h => h.1 (hnear va pa ht)]
  next => rfl

end

/-- A write of at most a line near the package's memory names no frame outside it. -/
theorem target_near {w : PWrite} {va pa x y : Nat} (hp : w.place = .mem va pa) (hpa : pa + 64 < 2 ^ 48) (h : w.target = some (x, y)) : y / 2 ^ 48 = 0 := by
  have hk : ((List.range 64).find? fun i => w.mask.getLsbD i).getD 0 < 64 := by
    cases hf : (List.range 64).find? fun i => w.mask.getLsbD i with
    | none => decide
    | some i => exact List.mem_range.mp (List.mem_of_find?_eq_some hf)
  simp only [PWrite.target, hp, Option.some.injEq, Prod.mk.injEq] at h
  omega

/-! ### A reduction is applied (R156) -/

section
variable {s : State} {r : PRed} (hr : s.reds[s.subj.n]? = some r) (hfirst : ∀ q ∈ s.reds.take s.subj.n, q.before r = false)
include hr hfirst

/-- A reduction that no earlier one of its group at its location precedes is the one that is applied. -/
theorem oldestRed_in_turn (hn : 0 < r.n) {cl off : Nat} (hp : r.place = .ls cl off) :
    (if r.loose = true then s.subj.n else (s.reds.findIdx? fun q => q.before r).getD s.subj.n) = s.subj.n := by
  split
  · rfl
  next hloose =>
    have hself : r.before r = true := by
      simp only [PRed.before, hloose, hp, placesMeet]
      simp
      omega
    obtain ⟨hlt, hget⟩ := List.getElem?_eq_some_iff.mp hr
    have hfind : s.reds.findIdx? (fun q => q.before r) = some s.subj.n := by
      rw [List.findIdx?_eq_some_iff_getElem]
      refine ⟨hlt, by rw [hget]; exact hself, fun j hj => ?_⟩
      have hmem : s.reds[j] ∈ s.reds.take s.subj.n := List.mem_take_iff_getElem.mpr ⟨j, by omega, rfl⟩
      rw [hfirst _ hmem]
      nofun
    rw [hfind]
    rfl

/-- A reduction to local store changes its bytes, and what is watched. -/
theorem reductionApply_applies (hn : 0 < r.n) {cl off v : Nat} (hp : r.place = .ls cl off)
    (hv : rmwNew r.op r.n (leNat (Memory.readN s.ls (lsKey cl off) r.n)) r.val.toNat 0 = some v) :
    ∃ t, exec .reductionApply s = .next t ∧
      Watched { s with reds := s.reds.eraseIdx s.subj.n, ls := Memory.writeN s.ls (lsKey cl off) (leBytes r.n v) } t := by
  have hx : exec .reductionApply s = .next (s.applyOldest s.subj.n s.subj.ok) := rfl
  unfold State.applyOldest at hx
  simp only [hr, oldestRed_in_turn hr hfirst hn hp, hp, State.applyRed, State.placeRmw, State.placeRead, hv] at hx
  exact ⟨_, hx, watched_placeWriteAs_ls { s with reds := s.reds.eraseIdx s.subj.n } _ _ _ _ _ _⟩

end

/-- Settles O20, event by event. -/
theorem resultsAndWrites : Obligations.ResultsAndWrites := by
  unfold Obligations.ResultsAndWrites
  refine ⟨fun s l hl hp ha => ?_, fun s => ⟨fun w hw hhi hturn => ?_, fun r cl off v hr hfirst hn hp hv => ?_, fun l hl hd => ?_⟩⟩
  · intro v rest either
    have hv : v = l.now s := by
      simp only [v, Long.now]
      cases l.late <;> rfl
    obtain ⟨u, w, ho, hr, hw, hx⟩ := longResultReturn_writes hl hp ha
    have hrest : rest (if w = true then u.writeLong { l with val := l.now s } else u) := by
      dsimp only [rest]
      split
      · rw [writeLong_rest, hr]
      · exact hr
    rw [hv]
    exact ⟨fun r hd hr => ⟨_, hx, hrest, w, hw, findCtx_written_reg (l := { l with val := l.now s }) ho hd hr w rfl⟩,
      fun n hd hn => ⟨_, hx, hrest, w, hw, findCtx_written_pred (l := { l with val := l.now s }) ho hd hn w rfl⟩⟩
  · refine ⟨fun cl off hp => ?_, fun va pa hp hpa => ?_⟩
    · have hwat := performWrite_ls (s := { s with writes := s.writes.eraseIdx s.subj.n }) hp
      refine ⟨_, exec_writePerformed hw hturn hhi fun va pa ht => by simp [PWrite.target, hp] at ht, ?_⟩
      rw [hwat.rest]
      exact ⟨rfl, rfl, rfl, fun k hk => Memory.read_writeN_outside (by simpa using hk) _⟩
    · refine ⟨_, exec_writePerformed hw hturn hhi fun x y ht => target_near hp hpa ht, ?_⟩
      rw [performWrite_mem hp]
      exact ⟨rfl, rfl, rfl, fun k hk => Memory.read_writeN_outside (by simpa using hk) _⟩
  · obtain ⟨t, hx, hwat⟩ := reductionApply_applies hr hfirst hn hp hv
    refine ⟨t, hx, ?_⟩
    rw [hwat.rest]
    exact ⟨rfl, rfl, rfl, rfl, rfl, rfl, fun k hk => Memory.read_writeN_outside (by rwa [length_leBytes]) _⟩
  · refine ⟨_, (congrArg Host.Outcome.next (by simp only [hl]) : exec .l1WritebackDeadline s = .next (s.writeBack l)), ?_⟩
    rw [State.writeBack, if_neg hd]
    rfl

end Sys2Proof.Machine
end

section
/-! Ticks, windows, and a sole `fence.sc` that completes (O21). -/
namespace Sys2Proof.Machine

theorem writeFrom_end (s : State) : s.writeFrom s.longs.length = s := by
  unfold State.writeFrom
  rw [List.drop_length, List.take_length]
  rfl

/-- The state in which the group of a context has acquired what the earlier operations of S carried. -/
def State.scAcquired (s : State) (a : CtxId) : State := (s.observe a s.scTs).raisePts a .grp

theorem settled_scAcquired (s : State) (a : CtxId) : Settled s (s.scAcquired a) := (settled_observe _ _ _).trans (settled_raisePts _ _ _)

/-- A context whose operation completes in an idle cluster waits for the admission of its cluster (R439). -/
def untilAdmitted (a : CtxId) (now : Nat) (c : Ctx) : Ctx :=
  if [a].contains c.id && c.st == .ready then { c with st := .waiting .scDone now, woken := true } else c

theorem untilAdmitted_id (a : CtxId) (now : Nat) (c : Ctx) : (untilAdmitted a now c).id = c.id := by
  unfold untilAdmitted
  split <;> rfl

section
variable {s : State} {o : ScOp} {c : Ctx} (hc : s.findCtx o.agent = some c) (ha : c.grp = none)
include hc ha

theorem findCtx_scAcquired : ∃ v, (s.scAcquired o.agent).findCtx o.agent =
    some { c with pts := max c.pts (max c.mts s.scTs), mts := max c.mts s.scTs, vis := v } :=
  ⟨_, findCtx_raisePts (s := State.observe { s with cur := o.agent } o.agent s.scTs) (findCtx_observe (s := { s with cur := o.agent }) hc ha s.scTs) ha .grp⟩

variable (hops : o.ops = []) (hacc : ∀ a ∈ s.accesses, a.agent ≠ o.agent) (hl : ∀ l ∈ s.longs, ∀ q, l.late = some q → q.agent ≠ o.agent)
include hops hacc hl

/-- A `fence.sc` completes: its context acquires and goes on, in an idle cluster once that is admitted. -/
theorem scComplete_fence : s.scComplete o =
    (let v := State.retire { s.scAcquired o.agent with scTs := max s.scTs (max c.pts (max c.mts s.scTs)), cur := o.agent } o.sm
     if (s.cluster o.agent.cl).active = true then v else { v with ctxs := v.ctxs.map (untilAdmitted o.agent s.gtime) }) := by
  have hgrp : (s.ctx o.agent).grp = none := by rw [ctx_of_find hc, ha]
  have hmem : s.members o.agent = [o.agent] := by rw [State.members, groupOf_alone hgrp]
  have hacq : (s.observe o.agent s.scTs).acquireLocal o.agent = s.scAcquired o.agent := by
    unfold State.acquireLocal
    rw [settleLate_of_none (s := s.observe o.agent s.scTs) fun l hm t ht => decide_eq_false (hl l hm t ht)]
    rfl
  have hts : (s.scAcquired o.agent).relTs o.agent = max c.pts (max c.mts s.scTs) := by
    obtain ⟨v, hv⟩ := findCtx_scAcquired hc ha
    unfold State.relTs
    rw [leader_alone (by rw [(settled_scAcquired s _).grp]; exact hgrp), ctx_of_find hv]
    simp
  have hnone : ((s.scAcquired o.agent).accesses.any fun a => decide (a.agent = o.agent)) = false :=
    List.any_eq_false.mpr fun a hm => by simpa using hacc a hm
  unfold State.scComplete
  simp only [hops, List.foldl_nil, List.findSome?_nil, writeFrom_end, hacq, hts, hmem, hnone, Bool.false_eq_true, if_false]
  rfl

end

/-- The only announcement that has arrived is the one that completes. -/
theorem fumaroleArrival_sole {s : State} {o : ScOp} (hdue : 16 * (s.subj.num + 1) + 96 ≤ s.gtime) (hs : s.scops = [o]) (hcl : o.closed = true)
    (hw : o.window ≤ s.subj.num) : exec .fumaroleArrival s = .next (State.scComplete { s with scops := [] } o) := by
  refine congrArg Host.Outcome.next ((if_pos hdue).trans ?_)
  simp only [hs, List.filter_cons, hcl, hw, decide_true, Bool.and_true, Bool.not_true, Bool.false_eq_true, if_false, if_true, List.filter_nil,
    List.mergeSort_singleton, List.foldl_cons, List.foldl_nil]

/-- A context that has gone on behind its `fence.sc`, in an idle cluster. -/
theorem untilAdmitted_wentOn {a : CtxId} {now : Nat} {sm : Bool} {pc : Word} {t : State} {c : Ctx} (hid : c.id = a) :
    let d := untilAdmitted a now (wentOn sm pc t c)
    d.pc = pc ∧ d.g = c.g ∧ ((d.st = .waiting .scDone now ∧ d.woken = true) ∨ (sm = true ∧ d.st = .parked .results)) := by
  unfold untilAdmitted wentOn
  cases sm with
  | false => simp [hid]
  | true => cases t.mustPark t.cur <;> simp [hid]

/-- Settles O21, event by event. -/
theorem ticksAndWindows : Obligations.TicksAndWindows := by
  unfold Obligations.TicksAndWindows
  refine fun s => ⟨fun hdue => ?_, fun hdue => ⟨_, congrArg Host.Outcome.next (if_pos hdue), rfl⟩, fun o c hdue hs hcl hw hops hc ha hacc hl => ?_⟩
  · refine ⟨_, congrArg Host.Outcome.next (if_pos hdue), rfl, ?_, ?_⟩
    · exact congrArg Cluster.ticks (cluster_modCluster_self s s.subj.cl (f := fun k => { k with ticks := k.ticks + 1 }) fun _ => rfl)
    · rw [modCluster_rest]
  · have hx := fumaroleArrival_sole hdue hs hcl hw
    rw [scComplete_fence (s := { s with scops := [] }) hc ha hops hacc hl] at hx
    obtain ⟨v, hv⟩ := findCtx_scAcquired hc ha
    have hpc : ((s.scAcquired o.agent).ctx o.agent).pc = c.pc := by rw [ctx_of_find hv]
    have hpts : ((s.scAcquired o.agent).ctx o.agent).pts = max c.pts (max c.mts s.scTs) := by rw [ctx_of_find hv]
    have howes := owes_retire { s.scAcquired o.agent with scops := [], scTs := max s.scTs (max c.pts (max c.mts s.scTs)), cur := o.agent } o.sm
    rw [show (State.ctx { s.scAcquired o.agent with scops := [], scTs := max s.scTs (max c.pts (max c.mts s.scTs)), cur := o.agent } o.agent).pc = c.pc
      from hpc] at howes
    have hactive : (State.cluster { s with scops := [] } o.agent.cl).active = (s.cluster o.agent.cl).active := rfl
    refine ⟨_, hx, _, settled_scAcquired s o.agent, rfl, rfl, hpts, ?_, fun hact => ?_, fun hact => ?_⟩
    · dsimp only
      split <;> rfl
    · rw [hactive, if_pos hact]
      exact howes
    · rw [hactive, if_neg (by rw [hact]; nofun)]
      have hwent := howes.moved.ctxs o.agent
      rw [show State.findCtx { s.scAcquired o.agent with scops := [], scTs := max s.scTs (max c.pts (max c.mts s.scTs)), cur := o.agent } o.agent = _
        from hv, Option.map_some, if_pos rfl] at hwent
      have hfind := findCtx_mapCtxs (State.retire { s.scAcquired o.agent with scops := [], scTs := max s.scTs (max c.pts (max c.mts s.scTs)), cur := o.agent } o.sm)
        (untilAdmitted_id o.agent s.gtime) o.agent
      rw [hwent] at hfind
      exact (ctx_of_find hfind).symm ▸ untilAdmitted_wentOn (findCtx_id hv)

end Sys2Proof.Machine
end

section
/-! A memory instruction of a context that runs alone: its release, its one access, and how it ends at its issue. -/
namespace Sys2Proof.Machine

/-! ### The release before an access, and the acquire behind it (R147) -/

/-- The instruction once its release is done, with its one access. -/
def State.issueOne (s : State) (sm : Bool) (va : Word) (op : MemOp) : State :=
  ((s.startLanes s.cur sm [(s.cur, va, op)]).stay (.parked .check)).accessCheck s.cur

/-- The state after the release of an operation by a context whose traffic is all performed. -/
def State.released (s : State) (op : MemOp) : State := match op.casRel, op.rel with
  | none, some sc => if sc = .grp then s else s.releasePts s.cur sc
  | _, _ => s

theorem issueMem_unreleased (s : State) (sm : Bool) (va : Word) {op : MemOp} (hrel : op.rel = none) (hcas : op.casRel = none) :
    s.issueMem sm [(s.cur, va, op)] = s.issueOne sm va op := by
  unfold State.issueMem
  simp only [List.findSome?_cons, hrel, hcas, List.findSome?_nil, State.shuffle]
  rfl

section
variable {s : State} (h : Quiet s)
include h

theorem Quiet.releaseStart : s.releaseStart s.cur = s := by
  unfold State.releaseStart
  rw [h.settleLate]
  exact foldl_writeBack_clean s fun l hl => h.lines l (List.mem_filter.mp hl).1 (List.mem_filter.mp hl).2

theorem Quiet.unperformed : s.unperformed s.cur = false := by
  unfold State.unperformed
  rw [h.scatters, leader_alone h.alone, Bool.or_false, Bool.or_eq_false_iff]
  exact ⟨List.any_eq_false.mpr fun w hw => by simp [h.writes w hw], List.any_eq_false.mpr fun r hr => by simp [h.reds r hr]⟩

/-- What a compare-and-swap with a release waits for is performed. -/
theorem Quiet.writesThen (sc : Scope) (k : State → State) : s.writesThen sc k = k s := by
  unfold State.writesThen
  rw [h.settleLate, h.releaseStart]
  simp only [h.unperformed, Bool.false_eq_true, if_false, ite_self]

theorem Quiet.issueMem (sm : Bool) (va : Word) (op : MemOp) : s.issueMem sm [(s.cur, va, op)] = (s.released op).issueOne sm va op := by
  unfold State.issueMem State.released
  simp only [List.findSome?_cons, List.findSome?_nil, State.shuffle]
  cases op.casRel with
  | some sc => exact h.writesThen sc _
  | none =>
    cases op.rel with
    | none => rfl
    | some sc =>
      by_cases hsc : sc = .grp
      · subst hsc
        show s.releaseThen .grp _ = _
        unfold State.releaseThen
        simp only [State.release, if_true, h.settleLate]
        generalize (s.ctx s.cur).lostWrite = w
        cases w <;> rfl
      · dsimp only
        rw [if_neg hsc]
        exact h.releaseThen hsc _

theorem Quiet.orderOwn (p : Place) (n : Nat) : s.orderOwn s.cur p n = s := orderOwn_of_none h.writes h.reds h.longs p n

end

/-! ### States that differ in a context's timestamps alone -/

/-- Contexts differ in timestamps alone, and nothing else does. -/
structure Stamped (s t : State) : Prop where
  settled : Settled s t
  rest : t = { s with ctxs := t.ctxs }
  mts : ∀ id, (s.ctx id).mts ≤ (t.ctx id).mts

theorem Stamped.refl (s : State) : Stamped s s := ⟨Settled.refl s, rfl, fun _ => le_rfl⟩

theorem Stamped.trans {s t u : State} (h : Stamped s t) (k : Stamped t u) : Stamped s u := 
  ⟨h.settled.trans k.settled, by rw [k.rest, h.rest], fun id => (h.mts id).trans (k.mts id)⟩

theorem stamped_modCtx (s : State) (id : CtxId) (f : Ctx → Ctx) (hf : ∀ c, ∃ p m v, c.mts ≤ m ∧ f c = { c with pts := p, mts := m, vis := v }) :
    Stamped s (s.modCtx id f) := by
  refine ⟨settled_modCtx s id f fun c => ?_, rfl, fun j => ?_⟩
  · obtain ⟨p, m, v, -, h⟩ := hf c
    exact ⟨p, m, v, h⟩
  · have hid : ∀ c, (f c).id = c.id := fun c => by obtain ⟨p, m, v, -, h⟩ := hf c; rw [h]
    unfold State.ctx
    rw [findCtx_modCtx s id j hid]
    cases s.findCtx j with
    | none => split <;> rfl
    | some c =>
      simp only [Option.map_some, Option.getD_some]
      split
      · obtain ⟨p, m, v, hm, h⟩ := hf c
        rw [h]
        exact hm
      · rfl

theorem stamped_released (s : State) (op : MemOp) : Stamped s (s.released op) := by
  unfold State.released
  split
  · split
    · exact Stamped.refl s
    · exact stamped_modCtx _ _ _ fun _ => ⟨_, _, _, le_rfl, rfl⟩
  · exact Stamped.refl s

theorem stamped_takeRels (s : State) (a : CtxId) (sc : Scope) (l : List Rel) (lo n : Nat) : Stamped s (s.takeRels a sc l lo n) := by
  unfold State.takeRels
  dsimp only
  split
  · exact Stamped.refl s
  · exact stamped_modCtx _ _ _ fun _ => ⟨_, _, _, le_max_left _ _, rfl⟩

section
variable {s t : State} (h : Stamped s t)
include h

theorem Stamped.cur : t.cur = s.cur := h.settled.cur

theorem Stamped.who (id : CtxId) : whoOf (t.ctx id) = whoOf (s.ctx id) := by
  unfold State.ctx
  rw [h.settled.ctxs]
  cases s.findCtx id <;> rfl

theorem Stamped.ownsPipe (a : CtxId) (cl pipe : Nat) : t.ownsPipe a cl pipe = s.ownsPipe a cl pipe := by
  unfold State.ownsPipe
  rw [h.settled.groupOf]

theorem Stamped.quiet (hq : Quiet s) : Quiet t := by
  have hlost : (t.ctx s.cur).lostWrite = (s.ctx s.cur).lostWrite := by
    unfold State.ctx
    rw [h.settled.ctxs]
    cases s.findCtx s.cur <;> rfl
  have hsame : ∀ w, t.sameBank s.cur w = s.sameBank s.cur w := fun w => h.ownsPipe _ _ _
  have hbank : ∀ l, t.bankLine s.cur l = s.bankLine s.cur l := fun l => h.ownsPipe _ _ _
  have hscat : t.scattering s.cur = s.scattering s.cur := by
    unfold State.scattering
    rw [h.settled.leader, h.rest]
  obtain ⟨alone, writes, reds, lines, longs, accesses, scatters, lost⟩ := hq
  rw [← h.settled.grp] at alone
  rw [← hlost] at lost
  rw [← hscat] at scatters
  simp only [← hsame] at writes
  simp only [← hbank] at lines
  rw [show s.writes = t.writes by rw [h.rest]] at writes
  rw [show s.reds = t.reds by rw [h.rest]] at reds
  rw [show s.l1 = t.l1 by rw [h.rest]] at lines
  rw [show s.longs = t.longs by rw [h.rest]] at longs
  rw [show s.accesses = t.accesses by rw [h.rest]] at accesses
  rw [← h.cur] at alone writes reds lines longs accesses scatters lost
  exact ⟨alone, writes, reds, lines, longs, accesses, scatters, lost⟩

theorem Stamped.localAt {va : Word} {n : Nat} {l : LsAt} (hl : LocalAt s va n l) : LocalAt t va n l := by
  have hpriv := congrArg Who.priv (h.who s.cur)
  have hls : t.lsAt (whoOf (t.ctx t.cur)) va.toNat = s.lsAt (whoOf (s.ctx s.cur)) va.toNat := by
    rw [h.cur, h.who, h.rest]
    rfl
  obtain ⟨range, region, found, plain, aligned, inside⟩ := hl
  refine ⟨range, region, hls.trans found, plain, aligned, ?_⟩
  rw [h.cur, show (t.ctx s.cur).priv = (s.ctx s.cur).priv from hpriv]
  exact inside

end

/-! ### An acquire of a context none of whose loads are late -/

/-- Writing lines back reads nothing of contexts, accesses and results. -/
theorem foldl_writeBack_frame (cs : List Ctx) (as : List Access) (rs : List Long) : ∀ (ls : List L1Line) (s : State),
    ls.foldl State.writeBack { s with ctxs := cs, accesses := as, longs := rs } =
      { ls.foldl State.writeBack s with ctxs := cs, accesses := as, longs := rs }
  | [], _ => rfl
  | l :: r, s => by
    have hl : State.writeBack { s with ctxs := cs, accesses := as, longs := rs } l = { s.writeBack l with ctxs := cs, accesses := as, longs := rs } := by
      unfold State.writeBack
      split <;> rfl
    rw [List.foldl_cons, List.foldl_cons, hl, foldl_writeBack_frame cs as rs r]

/-- The bank of a context that runs alone: its own pipe's. -/
def ownBank (a : CtxId) (cl pipe : Nat) : Bool := decide (a.cl = cl) && decide (a.pipe = pipe)

theorem ownsPipe_alone {s : State} {a : CtxId} (ha : (s.ctx a).grp = none) (cl pipe : Nat) : s.ownsPipe a cl pipe = ownBank a cl pipe := by
  unfold State.ownsPipe
  rw [groupOf_alone ha]
  rfl

/-- A SYS acquire's drop of the lines of frames outside region 0x0, by a context that runs alone (R412). -/
def State.dropFar (s : State) (a : CtxId) : State :=
  let s := s.flushLines false fun l => ownBank a l.cl l.pipe && l.far
  { s with l1i := s.l1i.filter fun l => !(ownBank a l.cl l.pipe && l.x.far) }

theorem dropFar_frame (s : State) (a : CtxId) (cs : List Ctx) (as : List Access) (rs : List Long) :
    State.dropFar { s with ctxs := cs, accesses := as, longs := rs } a = { s.dropFar a with ctxs := cs, accesses := as, longs := rs } := by
  unfold State.dropFar State.flushLines
  dsimp only
  rw [foldl_writeBack_frame]
  rfl

theorem dropFar_rest (s : State) (a : CtxId) : s.dropFar a = { s.dropFar a with ctxs := s.ctxs, accesses := s.accesses, longs := s.longs } :=
  dropFar_frame s a s.ctxs s.accesses s.longs

/-- A context's timestamps behind an acquire at a scope (R124). -/
def acquireStamp (sc : Scope) (c : Ctx) : Ctx := { c with pts := max c.pts c.mts, vis := c.vis.acquired sc }

/-- An acquire of a context that runs alone and has no late loads. -/
def State.acquireAlone (s : State) (a : CtxId) (sc : Scope) : State := match sc with
  | .grp => s
  | .clu => s.modCtx a (acquireStamp .clu)
  | .dev => s.modCtx a (acquireStamp .dev)
  | .sys => (s.modCtx a (acquireStamp .sys)).dropFar a

theorem acquire_alone {s : State} {a : CtxId} (ha : (s.ctx a).grp = none) (hl : ∀ l ∈ s.longs, ∀ t, l.late = some t → t.agent ≠ a) (sc : Scope) :
    s.acquire a sc = s.acquireAlone a sc := by
  have hraise : ∀ sc, s.raisePts a sc = s.modCtx a (acquireStamp sc) := fun sc => by rw [State.raisePts, leader_alone ha]; rfl
  unfold State.acquire
  rw [settleLate_of_none fun l hm t ht => by simpa using hl l hm t ht]
  cases sc with
  | grp => rfl
  | clu => exact hraise .clu
  | dev => exact hraise .dev
  | sys =>
    have hs := (settled_raisePts s a .sys).trans (settled_flushLines _ false fun l => ownBank a l.cl l.pipe && l.far)
    rw [hraise] at hs
    dsimp only
    simp only [hraise, State.bankLine, ownsPipe_alone ha]
    simp only [State.bankILine, ownsPipe_alone ((hs.grp a).trans ha)]
    rfl

theorem acquireAlone_rest (s : State) (a : CtxId) (sc : Scope) :
    s.acquireAlone a sc = { s.acquireAlone a sc with accesses := s.accesses, longs := s.longs } := by
  cases sc with
  | sys => exact congrArg (fun t : State => { t with ctxs := (s.acquireAlone a .sys).ctxs }) (dropFar_rest (s.modCtx a (acquireStamp .sys)) a)
  | _ => rfl

@[simp] theorem acquireAlone_accesses (s : State) (a : CtxId) (sc : Scope) : (s.acquireAlone a sc).accesses = s.accesses := by rw [acquireAlone_rest]

/-- An acquire does not depend on how the context stands, nor on its accesses and results. -/
theorem acquireAlone_frame (s : State) (a b : CtxId) (st : CState) (as : List Access) (rs : List Long) (sc : Scope) :
    (State.modCtx { s with accesses := as, longs := rs } b fun c => { c with st := st }).acquireAlone a sc =
      State.modCtx { s.acquireAlone a sc with accesses := as, longs := rs } b fun c => { c with st := st } := by
  have hcomm : ∀ sc, (State.modCtx { s with accesses := as, longs := rs } b fun c => { c with st := st }).modCtx a (acquireStamp sc) =
      State.modCtx { s.modCtx a (acquireStamp sc) with accesses := as, longs := rs } b fun c => { c with st := st } := fun sc =>
    modCtx_modCtx_comm { s with accesses := as, longs := rs } b a (by intro; rfl) (by intro; rfl) (by intro; rfl)
  cases sc with
  | grp => rfl
  | clu => exact hcomm .clu
  | dev => exact hcomm .dev
  | sys =>
    unfold State.acquireAlone
    dsimp only
    rw [hcomm]
    have hc : ((s.modCtx a (acquireStamp .sys)).dropFar a).ctxs = (s.modCtx a (acquireStamp .sys)).ctxs :=
      (congrArg State.ctxs (dropFar_rest (s.modCtx a (acquireStamp .sys)) a) :)
    unfold State.modCtx at hc ⊢
    dsimp only at hc ⊢
    rw [hc]
    exact dropFar_frame (s.modCtx a (acquireStamp .sys)) a _ as rs

/-- An acquire leaves results that are outstanding. -/
theorem acquireAlone_longs (s : State) (a : CtxId) (rs : List Long) (sc : Scope) :
    State.acquireAlone { s with longs := rs } a sc = { s.acquireAlone a sc with longs := rs } := by
  cases sc with
  | sys =>
    have h := dropFar_rest (s.modCtx a (acquireStamp .sys)) a
    refine (dropFar_frame (s.modCtx a (acquireStamp .sys)) a (s.modCtx a (acquireStamp .sys)).ctxs s.accesses rs).trans ?_
    exact (congrArg (fun t : State => { t with longs := rs }) h :).symm
  | _ => rfl

theorem settled_acquireAlone {s : State} {a : CtxId} (ha : (s.ctx a).grp = none) (hl : ∀ l ∈ s.longs, ∀ t, l.late = some t → t.agent ≠ a) (sc : Scope) :
    Settled s (s.acquireAlone a sc) := by
  rw [← acquire_alone ha hl]
  exact settled_acquire s a sc

theorem foldl_writeBack_mem : ∀ (ls : List L1Line) (s : State), (ls.foldl State.writeBack s).mem = s.mem ∧ (ls.foldl State.writeBack s).ls = s.ls
  | [], _ => ⟨rfl, rfl⟩
  | l :: r, s => by
    have hl : (s.writeBack l).mem = s.mem ∧ (s.writeBack l).ls = s.ls := by
      unfold State.writeBack
      split <;> exact ⟨rfl, rfl⟩
    rw [List.foldl_cons, (foldl_writeBack_mem r _).1, (foldl_writeBack_mem r _).2]
    exact hl

/-- An acquire changes no byte. -/
theorem acquireAlone_bytes (s : State) (a : CtxId) (sc : Scope) : (s.acquireAlone a sc).mem = s.mem ∧ (s.acquireAlone a sc).ls = s.ls := by
  cases sc with
  | sys => exact foldl_writeBack_mem _ (s.modCtx a (acquireStamp .sys))
  | _ => exact ⟨rfl, rfl⟩

/-- Above GRP scope, an acquire raises the context's pts to what its group has read (R124). -/
theorem acquireAlone_pts {s : State} {a : CtxId} {c : Ctx} (hc : s.findCtx a = some c) {sc : Scope} (hsc : sc ≠ .grp) :
    c.mts ≤ ((s.acquireAlone a sc).ctx a).pts := by
  have hctxs : (s.acquireAlone a sc).ctxs = (s.modCtx a (acquireStamp sc)).ctxs := by
    cases sc with
    | grp => exact absurd rfl hsc
    | clu => rfl
    | dev => rfl
    | sys => exact (congrArg State.ctxs (dropFar_rest (s.modCtx a (acquireStamp .sys)) a) :)
  have hf : (s.acquireAlone a sc).findCtx a = some (acquireStamp sc c) := by
    unfold State.findCtx
    rw [hctxs]
    exact findCtx_modCtx_self hc (by intro; rfl)
  rw [ctx_of_find hf]
  exact le_max_right _ _

/-! ### The one access of an instruction, decided at its issue -/

/-- The one access of an agent has passed, and is an acquire: the instruction goes on behind it. -/
theorem finishAccess_acquired {s : State} {a : Access} (honly : (s.accesses.filter fun b => decide (b.agent = a.agent)) = [a])
    (hs : a.stage = .passed none) {sc : Scope} (hacq : a.op.acq = some sc) (ha : (s.ctx a.agent).grp = none)
    (hl : ∀ l ∈ s.longs, ∀ t, l.late = some t → t.agent ≠ a.agent) :
    s.finishAccess a.agent false =
      State.retire { State.acquireAlone { s with cur := a.agent } a.agent sc with accesses := s.otherAccesses a.agent } a.sm := by
  have hhit : a.hit = none := by rw [Access.hit, hs]
  have hpass : ∀ p, a.stage ≠ .passed (some p) := by rw [hs]; nofun
  have hfin := acquire_alone (s := { s with cur := a.agent }) (a := a.agent) ha hl sc
  unfold State.finishAccess
  rw [honly]
  simp only [redsOf_single s a.agent hpass, scOf_single hpass, List.findSome?_cons, hacq, List.any_cons, List.any_nil, hhit, Option.isNone_none,
    Option.isSome_none, Bool.or_false, Bool.not_false, Bool.true_or, Bool.and_true, List.isEmpty_nil, Bool.not_true, Bool.false_eq_true, if_false,
    if_true, List.foldl_nil, List.append_nil, hfin, acquireAlone_accesses]
  rfl

/-- The access that an instruction begins with, at a stage. -/
def State.firstAccess (s : State) (sm : Bool) (va : Word) (op : MemOp) (st : Stage) : Access :=
  { agent := s.cur, lane := s.cur, va := va.toNat, op := op, stage := st, sm := sm, since := s.gtime }

/-- The state with that access begun: the context stands at it. -/
def State.begun (s : State) (sm : Bool) (va : Word) (op : MemOp) (st : Stage) : State :=
  State.stay { s with accesses := s.accesses ++ [s.firstAccess sm va op st] } (.parked .check)

section
variable {u : State} {c : Ctx} (hc : u.findCtx u.cur = some c) (hn : ∀ x ∈ u.accesses, x.agent ≠ u.cur) (sm : Bool) (va : Word) (op : MemOp) (st : Stage)

include hn in
theorem begun_only : ((u.begun sm va op st).accesses.filter fun b => decide (b.agent = u.cur)) = [u.firstAccess sm va op st] := by
  show ((u.accesses ++ [u.firstAccess sm va op st]).filter fun b => decide (b.agent = u.cur)) = _
  rw [List.filter_append, filter_none (fun x hx => by simp [hn x hx])]
  simp [State.firstAccess]

include hn in
theorem begun_others : (u.begun sm va op st).otherAccesses u.cur = u.accesses := by
  show ((u.accesses ++ [u.firstAccess sm va op st]).filter fun b => !decide (b.agent = u.cur)) = _
  rw [List.filter_append, filter_all (fun x hx => by simp [hn x hx])]
  simp [State.firstAccess]

include hc in
theorem begun_ctx : (u.begun sm va op st).ctx u.cur = { c with st := .parked .check } :=
  ctx_modCtx_self (s := { u with accesses := u.accesses ++ [u.firstAccess sm va op st] }) (f := fun c => { c with st := .parked .check }) hc fun _ => rfl

include hc hn in
/-- An access decided at its issue ends its instruction, unless it is to trap in a pause of its cluster (R393). -/
theorem begun_decided (hres : st.resolved = true) (hpause : (u.firstAccess sm va op st).hit = none ∨ u.paused u.cur.cl = false) :
    (u.begun sm va op st).accessCheck u.cur = (u.begun sm va op st).finishAccess u.cur false := by
  have hp : (u.begun sm va op st).paused u.cur.cl = u.paused u.cur.cl := rfl
  unfold State.accessCheck
  simp only [begun_only hn, begun_ctx hc, hp, bne_self_eq_false, Bool.false_eq_true, if_false, List.all_cons, List.all_nil, Bool.and_true, List.any_cons,
    List.any_nil, Bool.or_false, show (u.firstAccess sm va op st).stage = st from rfl, hres, if_true]
  rcases hpause with h | h <;> simp [h]

include hc hn in
/-- An access that is no reduction passes at its issue: the instruction goes on, behind its acquire. -/
theorem begun_passed (ha : c.grp = none) (hl : op.acq ≠ none → ∀ l ∈ u.longs, ∀ t, l.late = some t → t.agent ≠ u.cur) :
    (u.begun sm va op (.passed none)).finishAccess u.cur false = ((match op.acq with
      | some sc => u.acquireAlone u.cur sc
      | none => u).retire sm) := by
  have hother := begun_others hn sm va op (.passed none)
  have hmine := begun_only hn sm va op (.passed none)
  have hctx := begun_ctx hc sm va op (.passed none)
  cases hacq : op.acq with
  | none =>
    have h := finishAccess_passed (a := u.firstAccess sm va op (.passed none)) hmine rfl hacq
    rw [show (u.firstAccess sm va op (.passed none)).agent = u.cur from rfl, hother] at h
    exact h.trans (retire_stay u _ sm)
  | some sc =>
    have hl := hl (by rw [hacq]; nofun)
    have h := finishAccess_acquired (s := u.begun sm va op (.passed none)) (a := u.firstAccess sm va op (.passed none)) hmine rfl hacq
      (by rw [show (u.firstAccess sm va op (.passed none)).agent = u.cur from rfl, hctx]; exact ha) hl
    have hcur := (settled_acquireAlone (grp_cur hc ha : (u.ctx u.cur).grp = none) hl sc).cur
    have hframe := acquireAlone_frame u u.cur u.cur (.parked .check) (u.accesses ++ [u.firstAccess sm va op (.passed none)]) u.longs sc
    rw [show (u.firstAccess sm va op (.passed none)).agent = u.cur from rfl, hother] at h
    refine h.trans ?_
    show State.retire { (u.begun sm va op (.passed none)).acquireAlone u.cur sc with accesses := u.accesses } sm = _
    rw [show (u.begun sm va op (.passed none)).acquireAlone u.cur sc = _ from hframe]
    show State.retire (State.modCtx { u.acquireAlone u.cur sc with accesses := u.accesses, longs := u.longs } u.cur _) sm = _
    rw [← acquireAlone_rest]
    have hstay := retire_stay (u.acquireAlone u.cur sc) (.parked .check) sm
    unfold State.stay at hstay
    rwa [hcur] at hstay

end

theorem issueOne_begun {s u : State} {va : Word} {op : MemOp} {st : Stage} (hst : s.startStage s.cur s.cur va op = (st, u)) (hcur : u.cur = s.cur) (sm : Bool) :
    s.issueOne sm va op = (u.begun sm va op st).accessCheck u.cur := by
  simp only [State.issueOne, State.startLanes, hst, State.begun, State.firstAccess, hcur]

/-- The state with further results outstanding. -/
def State.withLate (s : State) (late : List Long) : State := { s with longs := s.longs ++ late }

/-- The one access of an instruction has passed at its issue, with the results `late`: the instruction goes on behind its acquire, if it is one, which
raises the context's pts to what its group has read. -/
theorem issueOne_passes {s w : State} {c : Ctx} (hcur : w.cur = s.cur) (hw : w.findCtx w.cur = some c) (ha : c.grp = none)
    (hn : ∀ x ∈ w.accesses, x.agent ≠ w.cur) {va : Word} {op : MemOp} {late : List Long}
    (hst : s.startStage s.cur s.cur va op = (.passed none, w.withLate late))
    (hl : op.acq ≠ none → ∀ l ∈ w.longs ++ late, ∀ t, l.late = some t → t.agent ≠ w.cur) (sm : Bool) :
    ∃ u, Settled w u ∧ u.mem = w.mem ∧ u.ls = w.ls ∧ (op.acq = none → u = w) ∧
      (∀ sc, op.acq = some sc → sc ≠ .grp → c.mts ≤ (u.ctx w.cur).pts) ∧ Owes late sm (c.pc + 4) u (s.issueOne sm va op) := by
  have hgrp : (w.ctx w.cur).grp = none := grp_cur hw ha
  have hpass := begun_passed (u := w.withLate late) hw hn sm va op ha hl
  rw [issueOne_begun hst hcur, begun_decided (u := w.withLate late) hw hn sm va op _ rfl (.inl rfl), hpass]
  have hretire : ∀ u : State, Settled w u → Owes late sm (c.pc + 4) u ((u.withLate late).retire sm) := fun u hu => by
    have h := Owes.append (s := u) (owes_retire (u.withLate late) sm)
    rw [List.append_nil] at h
    have hpc : (u.ctx u.cur).pc = c.pc := by rw [hu.cur, hu.pc, ctx_of_find hw]
    rwa [show ((u.withLate late).ctx (u.withLate late).cur).pc = c.pc from hpc] at h
  cases hacq : op.acq with
  | none => exact ⟨w, Settled.refl w, rfl, rfl, fun _ => rfl, nofun, hretire w (Settled.refl w)⟩
  | some sc =>
    have hu := settled_acquireAlone hgrp (fun l hm t ht => hl (by rw [hacq]; nofun) l (List.mem_append_left _ hm) t ht) sc
    refine ⟨w.acquireAlone w.cur sc, hu, (acquireAlone_bytes w _ sc).1, (acquireAlone_bytes w _ sc).2, nofun, ?_, ?_⟩
    · rintro sc' ⟨⟩ hsc
      exact acquireAlone_pts hw hsc
    · have h := hretire _ hu
      have hlongs : (w.acquireAlone w.cur sc).longs = w.longs := by rw [acquireAlone_rest]
      have hlate : (w.withLate late).acquireAlone w.cur sc = (w.acquireAlone w.cur sc).withLate late := by
        unfold State.withLate
        rw [hlongs]
        exact acquireAlone_longs w w.cur (w.longs ++ late) sc
      rw [← hlate] at h
      exact h

/-- A result whose bytes are known is no late load. -/
theorem notLate_append {ls : List Long} {a : CtxId} (h : ∀ l ∈ ls, ∀ t, l.late = some t → t.agent ≠ a) (s : State) (d : Reg) (v : Word) :
    ∀ l ∈ ls ++ oneLate s d v none, ∀ t, l.late = some t → t.agent ≠ a := by
  intro l hl t ht
  rcases List.mem_append.mp hl with hm | hm
  · exact h l hm t ht
  · unfold oneLate at hm
    split at hm
    · cases hm
    · rw [List.mem_singleton.mp hm] at ht
      cases ht

/-- Where it is no acquire, nothing else happens. -/
theorem issueOne_goesOn {s w : State} {c : Ctx} (hcur : w.cur = s.cur) (hw : w.findCtx w.cur = some c) (ha : c.grp = none)
    (hn : ∀ x ∈ w.accesses, x.agent ≠ w.cur) {va : Word} {op : MemOp} (hacq : op.acq = none) (late : List Long)
    (hst : s.startStage s.cur s.cur va op = (.passed none, w.withLate late)) (sm : Bool) :
    Owes late sm (c.pc + 4) w (s.issueOne sm va op) := by
  obtain ⟨u, -, -, -, heq, -, howes⟩ := issueOne_passes hcur hw ha hn hst (fun h => absurd hacq h) sm
  rwa [heq hacq] at howes

/-! ### An access that traps at its issue -/

section
variable {u : State} {c : Ctx} (hc : u.findCtx u.cur = some c) (st : CState)
include hc

theorem findCtx_stay : (u.stay st).findCtx u.cur = some { c with st := st } := findCtx_modCtx_self hc fun _ => rfl

omit hc in
theorem findCtx_stay_ne {j : CtxId} (hj : j ≠ u.cur) : (u.stay st).findCtx j = u.findCtx j := by
  unfold State.stay
  rw [findCtx_modCtx _ _ _ (by intro; rfl), if_neg hj]

theorem Trappable.stay (h : Trappable u u.cur) : Trappable (u.stay st) u.cur := by
  have hctx := ctx_of_find (findCtx_stay hc st)
  obtain ⟨-, alone, booted, level, clean, answered⟩ := h
  rw [ctx_of_find hc] at level alone
  unfold State.poisonOf at clean
  rw [ctx_of_find hc] at clean
  exact ⟨by rw [findCtx_stay hc]; rfl, by rw [hctx]; exact alone, booted, by rw [hctx]; exact level, by rw [State.poisonOf, hctx]; exact clean, answered⟩

/-- A trap taken where the context stands at its access is the trap that it would have taken before. -/
theorem TookTrap.of_stay (ha : c.grp = none) {cause status : Nat} {val pc : Word} {t : State} (h : TookTrap u.cur cause status val pc (u.stay st) t) :
    TookTrap u.cur cause status val pc u t := by
  have hctx := ctx_of_find (findCtx_stay hc st)
  have hteam : ((u.stay st).ctx u.cur).team = (u.ctx u.cur).team := by rw [hctx, ctx_of_find hc]
  obtain ⟨v, hv, hfl⟩ := flush_alone u (grp_cur hc ha)
  have hf : (u.flushLongs u.cur).findCtx u.cur = some { c with g := (v.ctx u.cur).g, p := (v.ctx u.cur).p } := by
    have e : (u.flushLongs u.cur).findCtx u.cur = v.findCtx u.cur := by rw [hfl]; rfl
    rw [e, hv.ctxs, hc, Option.map_some, if_pos rfl]
  have hflush : (u.stay st).flushLongs u.cur = (u.flushLongs u.cur).modCtx u.cur fun c => { c with st := st } :=
    flushLongs_modCtx (by intro; rfl) (by intros; rfl) (by intros; rfl) u u.cur (by intro; rfl)
  have hregs' : (((u.stay st).flushLongs u.cur).ctx u.cur).g = ((u.flushLongs u.cur).ctx u.cur).g ∧
      (((u.stay st).flushLongs u.cur).ctx u.cur).p = ((u.flushLongs u.cur).ctx u.cur).p := by
    rw [hflush, ctx_modCtx_self hf (by intro; rfl), ctx_of_find hf]
    exact ⟨rfl, rfl⟩
  obtain ⟨htl, hepc, hcause, heval, hestat, hbank, hpriv, hpc, hready, hregs, hkept, hothers, hwaits, hrest⟩ := h
  rw [hctx] at htl hepc hcause heval hestat hbank hpriv hpc hkept
  rw [hregs'.1, hregs'.2] at hregs
  obtain rfl := ctx_of_find hc
  exact ⟨htl, hepc, hcause, heval, hestat, hbank, hpriv, hpc, hready, hregs, hkept, fun j hj => (hothers j hj).trans (findCtx_stay_ne st hj),
    hwaits.trans (leaveBlocks_teams hteam rfl), hrest⟩

end

/-- An access that traps at its issue, in no pause of its cluster: the instruction ends in the trap. -/
theorem issueOne_trapped {s u : State} {va : Word} {op : MemOp} {cause status : Nat} {v : Word}
    (hst : s.startStage s.cur s.cur va op = (.trapped cause status v, u)) (hcur : u.cur = s.cur) (hn : ∀ x ∈ u.accesses, x.agent ≠ u.cur)
    (ht : Trappable u u.cur) (hp : u.paused u.cur.cl = false) (sm : Bool) :
    TookTrap u.cur cause status v (u.ctx u.cur).pc u (s.issueOne sm va op) := by
  obtain ⟨c, hc⟩ := Option.isSome_iff_exists.mp ht.here
  have ha : c.grp = none := by rw [← ctx_of_find hc]; exact ht.alone
  have hctx := begun_ctx hc sm va op (.trapped cause status v)
  have hfin := finishAccess_hit (s := u.begun sm va op (.trapped cause status v)) (a := u.firstAccess sm va op (.trapped cause status v))
    (begun_only hn sm va op _) (by rw [show (u.firstAccess sm va op (.trapped cause status v)).agent = u.cur from rfl, hctx]; exact ha) rfl
  rw [issueOne_begun hst hcur, begun_decided hc hn sm va op _ rfl (.inr hp)]
  rw [show (u.firstAccess sm va op (.trapped cause status v)).agent = u.cur from rfl, begun_others hn] at hfin
  rw [hfin, hctx, ctx_of_find hc]
  exact (tookTrap_takeTrap (ht.stay hc _) cause status v c.pc false false).of_stay hc _ ha

/-! ### Memory instructions of a context that runs alone -/

theorem accBytes_eq (w : Fin 8) : accBytes w.val = 2 ^ (w.val / 2) := by decide +revert

theorem accSigned_eq (w : Nat) : accSigned w = decide (w % 2 = 0) := rfl

/-- The address of a load or store: gA and the offset in units of its width (R173). -/
def State.accAddr (s : State) (a : Reg) (w : Fin 8) (o : BitVec 10) : Word := s.rg s.cur a + BitVec.ofNat 64 (2 ^ (w.val / 2)) * o.signExtend 64

/-- A load by the issuing context, of the width and sign that W names (R174). -/
def accLoad (d : Reg) (w : Fin 8) (hint : Nat) (acq : Option Scope) : MemOp := .load (2 ^ (w.val / 2)) (decide (w.val % 2 = 0)) d hint acq

/-- A store of gD by the issuing context. -/
def State.accStore (s : State) (d : Reg) (w : Fin 8) (hint : Nat) (rel : Option Scope) : MemOp := .store (2 ^ (w.val / 2)) (s.rg s.cur d) hint rel

section
variable {s : State} {c : Ctx} (hc : s.findCtx s.cur = some c) (ha : (s.ctx s.cur).grp = none)
include hc ha

theorem loadOp_alone (sm : Bool) (d a : Reg) (w : Fin 8) (o : BitVec 10) (hint : Nat) (acq : Option Scope) :
    loadOp s sm d a w.val o hint acq = .next (s.issueMem sm [(s.cur, s.accAddr a w o, accLoad d w hint acq)]) := by
  have hlanes : s.loadLanes d = [s.cur] := by
    unfold State.loadLanes
    rw [lanes_alone (groupOf_alone ha)]
    split <;> rfl
  unfold loadOp
  rw [onCtx_some hc, hlanes]
  simp only [List.map_cons, List.map_nil, memAddr, accBytes_eq, accSigned_eq]
  rfl

theorem storeOp_alone (sm : Bool) (d a : Reg) (w : Fin 8) (o : BitVec 10) (hint : Nat) (rel : Option Scope) :
    storeOp s sm d a w.val o hint rel = .next (s.issueMem sm [(s.cur, s.accAddr a w o, s.accStore d w hint rel)]) := by
  unfold storeOp
  rw [onCtx_some hc, lanes_alone (groupOf_alone ha)]
  simp only [List.map_cons, List.map_nil, memAddr, accBytes_eq]
  rfl

theorem amoOp_alone (sm : Bool) (op : RmwOp) (d a b : Reg) (sc : Fin 4) (o : Fin 8) (w : Bool) : amoOp s sm op d a b sc o w =
    .next (s.issueMem sm [(s.cur, s.rg s.cur a, .amo op (amoBytes w) (s.rg s.cur b) (s.rg s.cur d) d (scopeOf sc.val) (orderOf o.val))]) := by
  unfold amoOp
  rw [onCtx_some hc, lanes_alone (groupOf_alone ha)]
  rfl

theorem redOp_alone (sm : Bool) (op : RmwOp) (a b : Reg) (sc : Fin 4) (o : Fin 8) (w : Bool) : redOp s sm op a b sc o w =
    .next (s.issueMem sm [(s.cur, s.rg s.cur a, .red op (amoBytes w) (s.rg s.cur b) (scopeOf sc.val) (orderOf o.val))]) := by
  unfold redOp
  rw [onCtx_some hc, lanes_alone (groupOf_alone ha)]
  rfl

end

end Sys2Proof.Machine
end

section
/-! Access traps (O16). -/
namespace Sys2Proof.Machine

theorem startStage_outside {s : State} {va : Word} (h : 2 ^ 56 ≤ va.toNat ∨ regionOf va.toNat = .unassigned ∨ regionOf va.toNat = .vreg) (agent lane : CtxId)
    (op : MemOp) : s.startStage agent lane va op = (trapStage op cPROTECTION 0 va.toNat, s) := by
  unfold State.startStage
  by_cases hlow : 2 ^ 56 ≤ va.toNat
  · exact if_pos hlow
  · dsimp only
    rw [if_neg hlow]
    rcases h with h | h | h
    · exact absurd h hlow
    · rw [h]
    · rw [h]

theorem startStage_misaligned {s : State} {va : Word} (hlow : va.toNat < 2 ^ 56) (hreg : regionOf va.toNat = .paged) {op : MemOp} (hpf : op.isPf = false)
    (hn : va.toNat % op.bytes ≠ 0) (agent lane : CtxId) : s.startStage agent lane va op = (trapStage op cMISALIGN 0 va.toNat, s) := by
  unfold State.startStage
  dsimp only
  rw [if_neg (by omega), hreg]
  exact if_pos ⟨hpf, hn⟩

theorem trapStage_traps {op : MemOp} (hpf : op.isPf = false) (cause status : Nat) (va : Word) :
    trapStage op cause status va.toNat = .trapped cause status va := by
  simp [trapStage, hpf]

/-- An instruction of one access, with no release, whose checks fail traps: nothing is written. -/
theorem trapsWith_of_startStage {s : State} (hq : Quiet s) (hp : s.paused s.cur.cl = false) {i : Instr} {sm : Bool} {va : Word} {op : MemOp} {cause : Nat}
    (hexec : ∀ c, s.findCtx s.cur = some c → exec i s = .next (s.issueMem sm [(s.cur, va, op)])) (hpf : op.isPf = false) (hrel : op.rel = none)
    (hcas : op.casRel = none) (hst : s.startStage s.cur s.cur va op = (trapStage op cause 0 va.toNat, s)) : TrapsWith i cause 0 va s := by
  intro ht
  obtain ⟨c, hc⟩ := Option.isSome_iff_exists.mp ht.here
  rw [trapStage_traps hpf] at hst
  refine ⟨_, hexec c hc, ?_⟩
  rw [issueMem_unreleased s sm va hrel hcas]
  exact issueOne_trapped hst rfl hq.accesses ht hp sm

/-- Settles O16: the check fails before anything is read or written, and the one access of the instruction takes its trap where it issued. -/
theorem accessTraps : Obligations.AccessTraps := by
  unfold Obligations.AccessTraps
  intro s sm d a b w h o sc x hq hp n va
  have hld : ∀ c, s.findCtx s.cur = some c → exec (.ld sm d a w h o) s = .next (s.issueMem sm [(s.cur, va, accLoad d w h.val none)]) :=
    fun c hc => loadOp_alone hc hq.alone sm d a w o h.val none
  have hst : ∀ c, s.findCtx s.cur = some c → exec (.st sm d a w h o) s = .next (s.issueMem sm [(s.cur, va, s.accStore d w h.val none)]) :=
    fun c hc => storeOp_alone hc hq.alone sm d a w o h.val none
  have hamo : ∀ op c, s.findCtx s.cur = some c → amoOp s sm op d a b sc 0 x =
      .next (s.issueMem sm [(s.cur, s.rg s.cur a, .amo op (amoBytes x) (s.rg s.cur b) (s.rg s.cur d) d (scopeOf sc.val) .rlx)]) :=
    fun op c hc => amoOp_alone hc hq.alone sm op d a b sc 0 x
  refine ⟨fun hout => ⟨?_, ?_⟩, fun hlow hreg hn => ⟨?_, ?_⟩, fun hlow hreg hn => ⟨?_, ?_⟩⟩
  · exact trapsWith_of_startStage hq hp hld rfl rfl rfl (startStage_outside hout _ _ _)
  · exact trapsWith_of_startStage hq hp hst rfl rfl rfl (startStage_outside hout _ _ _)
  · exact trapsWith_of_startStage hq hp hld rfl rfl rfl (startStage_misaligned hlow hreg (op := accLoad d w h.val none) rfl hn _ _)
  · exact trapsWith_of_startStage hq hp hst rfl rfl rfl (startStage_misaligned hlow hreg (op := s.accStore d w h.val none) rfl hn _ _)
  · exact trapsWith_of_startStage hq hp (hamo .add) rfl rfl rfl
      (startStage_misaligned hlow hreg (op := .amo .add (amoBytes x) _ _ d (scopeOf sc.val) .rlx) rfl hn _ _)
  · exact trapsWith_of_startStage hq hp (hamo .cas) rfl rfl rfl
      (startStage_misaligned hlow hreg (op := .amo .cas (amoBytes x) _ _ d (scopeOf sc.val) .rlx) rfl hn _ _)

end Sys2Proof.Machine
end

section
/-! Accesses to local store through W0 by a context that runs alone (O14). -/
namespace Sys2Proof.Machine

/-- An access to local store through W0 is performed at its issue, unless the data that it reads are poisoned. -/
theorem LocalAt.startStage {s : State} {va : Word} {n : Nat} {l : LsAt} (h : LocalAt s va n l) {op : MemOp} (hn : op.bytes = n) (hpf : op.isPf = false) :
    s.startStage s.cur s.cur va op =
      if s.lsPoisoned l.cl l.phys n && op.reads then s.meetPoison s.cur va.toNat op else s.lsPerform s.cur s.cur l op := by
  obtain ⟨range, region, found, ⟨plain, window⟩, aligned, inside⟩ := h
  have hspan : lsBad (whoOf (s.ctx s.cur)) l n = none := by
    unfold lsBad
    rw [if_neg ?_, if_pos (.inl plain)]
    rw [plain, winSpan, if_pos (.inl rfl)]
    rcases inside with hm | hi
    · simp [whoOf, hm]
    · simp [hi]
  have halign : fld va.toNat 0 20 % winAlign (fld va.toNat 20 3) n = 0 := by
    rw [window, winAlign, if_pos rfl]
    simpa [fld] using aligned
  subst hn
  unfold State.startStage
  simp only [if_neg (show ¬ 2 ^ 56 ≤ va.toNat by omega)]
  rcases region with hr | hr
  all_goals
    simp only [hr, hpf, Bool.false_eq_true, if_false, found, halign, ne_eq, not_true_eq_false, plain, bne_self_eq_false, Bool.and_false,
      winPartial, if_true, hspan, lsFrom, winSpan, true_or]

theorem scopeOf_ne_grp : ∀ sc : Fin 4, sc.val ≠ 0 → scopeOf sc.val ≠ .grp := by decide

/-- The state with a further write on its way. -/
def State.sent (s : State) (w : PWrite) : State := { s with writes := s.writes ++ [w] }

/-- A store of the issuing context to the local store of another cluster, on its way. -/
def State.farStore (s : State) (l : LsAt) (n : Nat) (v : Word) (rel : Option Scope) : PWrite := {
  agent := s.cur, pipe := s.cur.pipe, place := .ls l.cl l.phys, data := leBytes n v.toNat, mask := BitVec.ofNat 64 (2 ^ n - 1), since := s.gtime
  kind := s.wkind s.cur rel false }

theorem LocalAt.performs {s : State} {va : Word} {n : Nat} {l : LsAt} (h : LocalAt s va n l) {op : MemOp} (hn : op.bytes = n) (hpf : op.isPf = false)
    (hclean : s.lsPoisoned l.cl l.phys n = false ∨ op.reads = false) : s.startStage s.cur s.cur va op = s.lsPerform s.cur s.cur l op := by
  rw [h.startStage hn hpf, if_neg (by rcases hclean with hp | hp <;> simp [hp])]

section
variable {s : State} (hq : Quiet s) {va : Word} {n : Nat} {l : LsAt} (hl : LocalAt s va n l)
include hq hl

/-! ### What each operation does at the place -/

theorem lsPerform_load (sext : Bool) (d : Reg) (hint : Nat) : ∃ late, (late = none ∨ late = some ⟨s.cur, .ls l.cl l.phys, n, sext⟩) ∧
    s.lsPerform s.cur s.cur l (.load n sext d hint none) = (.passed none, State.withLate { s with freeCtr := s.freeCtr + 1 }
      (oneLate s d (extend n sext (leNat (Memory.readN s.ls (lsKey l.cl l.phys) n))) late)) := by
  refine ⟨if (Config.free s.freeCtr).getLsbD 0 then some ⟨s.cur, .ls l.cl l.phys, n, sext⟩ else none, ?_, ?_⟩
  · split
    · exact .inr rfl
    · exact .inl rfl
  · unfold State.lsPerform
    simp only [hq.orderOwn, hl.plain.1, ne_eq, not_true_eq_false, if_false, Option.isSome_none, Bool.false_eq_true, State.freshFree]
    rw [laneLong_alone (s := { s with freeCtr := s.freeCtr + 1 }) hq.alone]
    rfl

theorem lsPerform_loadAcquire (sext : Bool) (d : Reg) (hint : Nat) (sc : Scope) : ∃ w, Stamped s w ∧
    s.lsPerform s.cur s.cur l (.load n sext d hint (some sc)) =
      (.passed none, w.withLate (oneLate s d (extend n sext (leNat (Memory.readN s.ls (lsKey l.cl l.phys) n))) none)) := by
  have hw := stamped_takeRels s s.cur sc (s.relsAt (.ls l.cl l.phys)).1 (s.relsAt (.ls l.cl l.phys)).2 n
  refine ⟨_, hw, ?_⟩
  unfold State.lsPerform
  simp only [hq.orderOwn, hl.plain.1, ne_eq, not_true_eq_false, if_false, Option.isSome_some, if_true]
  generalize s.takeRels s.cur sc (s.relsAt (.ls l.cl l.phys)).1 (s.relsAt (.ls l.cl l.phys)).2 n = w at hw ⊢
  have hread : w.placeRead (.ls l.cl l.phys) n = Memory.readN s.ls (lsKey l.cl l.phys) n := by rw [hw.rest]; rfl
  rw [hread, laneLong_alone ((hw.settled.grp s.cur).trans hq.alone)]
  rfl

theorem lsPerform_storeNear (hnear : l.cl = s.cur.cl) (v : Word) (hint : Nat) (rel : Option Scope) : ∃ w, Settled s w ∧ w.mem = s.mem ∧
    w.ls = Memory.writeN s.ls (lsKey l.cl l.phys) (leBytes n v.toNat) ∧ s.lsPerform s.cur s.cur l (.store n v hint rel) = (.passed none, w) := by
  have hw := watched_placeWriteAs_ls s (some s.cur) s.cur.pipe (s.wkind s.cur rel false) l.cl l.phys (leBytes n v.toNat)
  refine ⟨_, settled_placeWriteAs s (some s.cur) s.cur.pipe (s.wkind s.cur rel false) (.ls l.cl l.phys) (leBytes n v.toNat), ?_, ?_, ?_⟩
  · rw [hw.rest]
  · rw [hw.rest]
  · unfold State.lsPerform
    simp only [hq.orderOwn, hl.plain.1, ne_eq, not_true_eq_false, if_false, if_pos hnear]

theorem lsPerform_storeFar (hfar : l.cl ≠ s.cur.cl) (v : Word) (hint : Nat) (rel : Option Scope) :
    s.lsPerform s.cur s.cur l (.store n v hint rel) = (.passed none, s.sent (s.farStore l n v rel)) := by
  unfold State.lsPerform
  simp only [hq.orderOwn, hl.plain.1, ne_eq, not_true_eq_false, if_false, if_neg hfar, State.sendWrite, State.bankOf, length_leBytes, byteMask, pow_zero,
    Nat.mul_one]
  rfl

end

/-! ### Loads -/

section
variable {s : State} {c : Ctx} (hc : s.findCtx s.cur = some c) (hq : Quiet s) {va : Word} {n : Nat} {l : LsAt} (hl : LocalAt s va n l)
include hc hq hl

theorem issueMem_loadLocal (hp : s.lsPoisoned l.cl l.phys n = false) (sm sext : Bool) (d : Reg) (hint : Nat) :
    ∃ f late, (late = none ∨ late = some ⟨s.cur, .ls l.cl l.phys, n, sext⟩) ∧
      Owes (oneLate s d (extend n sext (leNat (Memory.readN s.ls (lsKey l.cl l.phys) n))) late) sm (c.pc + 4) { s with freeCtr := f }
        (s.issueMem sm [(s.cur, va, .load n sext d hint none)]) := by
  obtain ⟨late, hlate, hperf⟩ := lsPerform_load hq hl sext d hint
  have hst := hl.performs (op := .load n sext d hint none) rfl rfl (.inl hp)
  rw [hperf] at hst
  rw [issueMem_unreleased s sm va rfl rfl]
  exact ⟨s.freeCtr + 1, late, hlate, issueOne_goesOn (s := s) (w := { s with freeCtr := s.freeCtr + 1 }) rfl hc (by rw [← ctx_of_find hc]; exact hq.alone)
    hq.accesses rfl _ hst sm⟩

theorem issueMem_loadPoisoned (hp : s.lsPoisoned l.cl l.phys n = true) (ht : Trappable s s.cur) (hpause : s.paused s.cur.cl = false) (sm sext : Bool)
    (d : Reg) (hint : Nat) : TookTrap s.cur cPROTECTION 4 va c.pc s (s.issueMem sm [(s.cur, va, .load n sext d hint none)]) ∨
      ∃ f, Owes [{ dst := s.cur, dest := .g d, val := 0, poisoned := some va }] sm (c.pc + 4) { s with freeCtr := f }
        (s.issueMem sm [(s.cur, va, .load n sext d hint none)]) := by
  have hst := hl.startStage (op := .load n sext d hint none) rfl rfl
  have hva : BitVec.ofNat 64 va.toNat = va := by simp
  have ht' : Trappable { s with freeCtr := s.freeCtr + 1 } s.cur := ⟨ht.here, ht.alone, ht.booted, ht.level, ht.clean, ht.answered⟩
  rw [hp, Bool.true_and, if_pos (show MemOp.reads (.load n sext d hint none) = true from rfl)] at hst
  unfold State.meetPoison State.freshFree at hst
  simp only [State.poisonLong, hva] at hst
  rw [issueMem_unreleased s sm va rfl rfl]
  by_cases hf : (Config.free s.freeCtr).getLsbD 0 = true
  · rw [if_pos hf] at hst
    have h := issueOne_trapped hst rfl hq.accesses ht' hpause sm
    left
    rw [← ctx_of_find hc]
    exact h.of_free
  · rw [if_neg hf] at hst
    exact .inr ⟨s.freeCtr + 1, issueOne_goesOn (s := s) (w := { s with freeCtr := s.freeCtr + 1 }) rfl hc (by rw [← ctx_of_find hc]; exact hq.alone)
      hq.accesses rfl _ hst sm⟩

theorem issueMem_loadAcquire (hp : s.lsPoisoned l.cl l.phys n = false) (sm sext : Bool) (d : Reg) (hint : Nat) (sc : Fin 4) :
    ∃ u, Settled s u ∧ u.mem = s.mem ∧ u.ls = s.ls ∧ Acquired sc.val s u ∧
      Owes (oneLate s d (extend n sext (leNat (Memory.readN s.ls (lsKey l.cl l.phys) n))) none) sm (c.pc + 4) u
        (s.issueMem sm [(s.cur, va, .load n sext d hint (some (scopeOf sc.val)))]) := by
  obtain ⟨w, hw, hperf⟩ := lsPerform_loadAcquire hq hl sext d hint (scopeOf sc.val)
  have hst := hl.performs (op := .load n sext d hint (some (scopeOf sc.val))) rfl rfl (.inl hp)
  rw [hperf] at hst
  have hq' := hw.quiet hq
  have hfind := hw.settled.here hc
  rw [← hw.cur] at hfind
  obtain ⟨u, hu, hmem, hls, -, hpts, howes⟩ := issueOne_passes hw.cur hfind (by rw [← ctx_of_find hc]; exact hq.alone) hq'.accesses hst
    (fun _ => notLate_append hq'.longs _ _ _) sm
  rw [issueMem_unreleased s sm va rfl rfl]
  refine ⟨u, hw.settled.trans hu, by rw [hmem, hw.rest], by rw [hls, hw.rest], fun hsc => ?_, howes⟩
  have := hpts _ rfl (scopeOf_ne_grp sc hsc)
  rw [hw.cur] at this
  exact (hw.mts s.cur).trans this
end

/-! ### Stores -/

section
variable {s : State} {c : Ctx} (hc : s.findCtx s.cur = some c) (hq : Quiet s) {va : Word} {n : Nat} {l : LsAt} (hl : LocalAt s va n l)
include hc hq hl

theorem issueMem_storeNear (hnear : l.cl = s.cur.cl) (sm : Bool) (v : Word) (hint : Nat) (rel : Option Scope) :
    ∃ u, Settled s u ∧ u.mem = s.mem ∧ LocalPut s u l n v.toNat ∧ Owes [] sm (c.pc + 4) u (s.issueMem sm [(s.cur, va, .store n v hint rel)]) := by
  have hr := stamped_released s (.store n v hint rel)
  rw [hq.issueMem]
  generalize s.released (.store n v hint rel) = r at hr ⊢
  obtain ⟨w, hw, hmem, hls, hperf⟩ := lsPerform_storeNear (hr.quiet hq) (hr.localAt hl) (by rw [hr.cur]; exact hnear) v hint rel
  have hst := (hr.localAt hl).performs (op := .store n v hint rel) rfl rfl (.inr rfl)
  have hs := hr.settled.trans hw
  have hfind := hs.here hc
  rw [← hs.cur] at hfind
  have hacc : ∀ x ∈ w.accesses, x.agent ≠ w.cur := by rw [hs.cur, hs.rest]; exact hq.accesses
  refine ⟨w, hs, by rw [hmem, hr.rest], LocalPut.of_ls (by rw [hls, hr.rest]), ?_⟩
  exact issueOne_goesOn hw.cur hfind (by rw [← ctx_of_find hc]; exact hq.alone) hacc rfl [] (by rw [hst, hperf, State.withLate, List.append_nil]) sm

theorem issueMem_storeFar (hfar : l.cl ≠ s.cur.cl) (sm : Bool) (v : Word) (hint : Nat) (rel : Option Scope) :
    ∃ u, Settled s u ∧ u.mem = s.mem ∧ u.ls = s.ls ∧ u.writes = s.writes ++ [{
      agent := s.cur, pipe := s.cur.pipe, place := .ls l.cl l.phys, data := leBytes n v.toNat, mask := BitVec.ofNat 64 (2 ^ n - 1), since := s.gtime
      kind := u.wkind s.cur rel false }] ∧ Owes [] sm (c.pc + 4) u (s.issueMem sm [(s.cur, va, .store n v hint rel)]) := by
  have hr := stamped_released s (.store n v hint rel)
  rw [hq.issueMem]
  generalize s.released (.store n v hint rel) = r at hr ⊢
  have hperf := lsPerform_storeFar (hr.quiet hq) (hr.localAt hl) (by rw [hr.cur]; exact hfar) v hint rel
  have hst := (hr.localAt hl).performs (op := .store n v hint rel) rfl rfl (.inr rfl)
  rw [hperf] at hst
  have hfind := hr.settled.here hc
  rw [← hr.cur] at hfind
  refine ⟨r.sent (r.farStore l n v rel), hr.settled.trans (settled_mem r rfl), ?_, ?_, ?_, ?_⟩
  · exact (congrArg State.mem hr.rest :)
  · exact (congrArg State.ls hr.rest :)
  · rw [← hr.cur, ← (congrArg State.gtime hr.rest :), ← (congrArg State.writes hr.rest :)]
    rfl
  · exact issueOne_goesOn (s := r) (w := r.sent (r.farStore l n v rel)) rfl hfind (by rw [← ctx_of_find hc]; exact hq.alone) (hr.quiet hq).accesses rfl []
      (by rw [hst, State.withLate, List.append_nil]) sm
end

/-- Settles O14: the release raises timestamps alone, the access is performed at its issue, and the instruction goes on behind its acquire. -/
theorem localAccesses : Obligations.LocalAccesses := by
  unfold Obligations.LocalAccesses
  refine ⟨?_, ?_⟩
  · intro s c sm d a w h o l hc hq n hl m v va
    have hv : extend n (decide (w.val % 2 = 0)) m = v := by
      rw [extend_eq (Memory.length_readN _ _ _).le]
      simp only [decide_eq_true_eq]
      rfl
    have hld : exec (.ld sm d a w h o) s = .next (s.issueMem sm [(s.cur, va, .load n (decide (w.val % 2 = 0)) d h.val none)]) :=
      loadOp_alone hc hq.alone sm d a w o h.val none
    have hlda : exec (.lda sm d a w h o) s = .next (s.issueMem sm [(s.cur, va, .load n (decide (w.val % 2 = 0)) d 0 (some (scopeOf h.val)))]) :=
      loadOp_alone hc hq.alone sm d a w o 0 (some (scopeOf h.val))
    refine ⟨fun hp ht hpause => ⟨_, hld, issueMem_loadPoisoned hc hq hl hp ht hpause sm _ d h.val⟩, fun hp => ⟨⟨_, hld, ?_⟩, ⟨_, hlda, ?_⟩⟩⟩
    · rw [← hv]
      exact issueMem_loadLocal hc hq hl hp sm _ d h.val
    · rw [← hv]
      exact issueMem_loadAcquire hc hq hl hp sm _ d 0 h
  · intro s c sm d a w h o l hc hq n hl v near far
    have hst : exec (.st sm d a w h o) s = .next (s.issueMem sm [(s.cur, _, .store n (s.rg s.cur d) h.val none)]) :=
      storeOp_alone hc hq.alone sm d a w o h.val none
    have hstl : exec (.stl sm d a w h o) s = .next (s.issueMem sm [(s.cur, _, .store n (s.rg s.cur d) 0 (some (scopeOf h.val)))]) :=
      storeOp_alone hc hq.alone sm d a w o 0 (some (scopeOf h.val))
    refine ⟨fun hnear => ⟨⟨_, hst, ?_⟩, ⟨_, hstl, ?_⟩⟩, fun hfar => ⟨⟨_, hst, ?_⟩, ⟨_, hstl, ?_⟩⟩⟩
    · exact issueMem_storeNear hc hq hl hnear sm _ h.val none
    · exact issueMem_storeNear hc hq hl hnear sm _ 0 (some (scopeOf h.val))
    · exact issueMem_storeFar hc hq hl hfar sm _ h.val none
    · exact issueMem_storeFar hc hq hl hfar sm _ 0 (some (scopeOf h.val))

end Sys2Proof.Machine
end

section
/-! What read-modify-writes compute, as words of their width (R210 to R213). -/
namespace Sys2Proof.Machine

section
variable {n m : Nat} (hm : m < 2 ^ (8 * n)) (v cmp : Word)
include hm

theorem toNat_ofNat_lt : (BitVec.ofNat (8 * n) m).toNat = m := by rw [BitVec.toNat_ofNat, Nat.mod_eq_of_lt hm]

theorem rmwNew_add : rmwNew .add n m v.toNat cmp.toNat = some (BitVec.ofNat (8 * n) m + v.setWidth (8 * n)).toNat := by
  rw [BitVec.toNat_add, toNat_ofNat_lt hm, BitVec.toNat_setWidth]
  rfl

theorem rmwNew_and : rmwNew .and n m v.toNat cmp.toNat = some (BitVec.ofNat (8 * n) m &&& v.setWidth (8 * n)).toNat := by
  rw [BitVec.toNat_and, toNat_ofNat_lt hm, BitVec.toNat_setWidth]
  rfl

theorem rmwNew_or : rmwNew .or n m v.toNat cmp.toNat = some (BitVec.ofNat (8 * n) m ||| v.setWidth (8 * n)).toNat := by
  rw [BitVec.toNat_or, toNat_ofNat_lt hm, BitVec.toNat_setWidth]
  rfl

theorem rmwNew_xor : rmwNew .xor n m v.toNat cmp.toNat = some (BitVec.ofNat (8 * n) m ^^^ v.setWidth (8 * n)).toNat := by
  rw [BitVec.toNat_xor, toNat_ofNat_lt hm, BitVec.toNat_setWidth]
  rfl

omit hm in
theorem signedOf_operand (n : Nat) (v : Word) : signedOf (8 * n) (v.toNat % 2 ^ (8 * n)) = (v.setWidth (8 * n)).toInt := by
  rw [signedOf_eq_toInt, ← BitVec.toNat_setWidth, BitVec.ofNat_toNat, BitVec.setWidth_eq]

theorem rmwNew_min : rmwNew .min n m v.toNat cmp.toNat =
    some (if (BitVec.ofNat (8 * n) m).toInt ≤ (v.setWidth (8 * n)).toInt then BitVec.ofNat (8 * n) m else v.setWidth (8 * n)).toNat := by
  rw [apply_ite BitVec.toNat, toNat_ofNat_lt hm, BitVec.toNat_setWidth, ← signedOf_operand, ← signedOf_eq_toInt]
  rfl

theorem rmwNew_max : rmwNew .max n m v.toNat cmp.toNat =
    some (if (BitVec.ofNat (8 * n) m).toInt ≤ (v.setWidth (8 * n)).toInt then v.setWidth (8 * n) else BitVec.ofNat (8 * n) m).toNat := by
  rw [apply_ite BitVec.toNat, toNat_ofNat_lt hm, BitVec.toNat_setWidth, ← signedOf_operand, ← signedOf_eq_toInt]
  rfl

theorem rmwNew_minn : rmwNew .minn n m v.toNat cmp.toNat =
    some (if (BitVec.ofNat (8 * n) m).toNat ≤ (v.setWidth (8 * n)).toNat then BitVec.ofNat (8 * n) m else v.setWidth (8 * n)).toNat := by
  rw [apply_ite BitVec.toNat, toNat_ofNat_lt hm, BitVec.toNat_setWidth]
  rfl

theorem rmwNew_maxn : rmwNew .maxn n m v.toNat cmp.toNat =
    some (if (BitVec.ofNat (8 * n) m).toNat ≤ (v.setWidth (8 * n)).toNat then v.setWidth (8 * n) else BitVec.ofNat (8 * n) m).toNat := by
  rw [apply_ite BitVec.toNat, toNat_ofNat_lt hm, BitVec.toNat_setWidth]
  rfl

omit hm in
theorem rmwNew_swp : rmwNew .swp n m v.toNat cmp.toNat = some (v.setWidth (8 * n)).toNat := by
  rw [BitVec.toNat_setWidth]
  rfl

theorem rmwNew_cas : rmwNew .cas n m v.toNat cmp.toNat =
    if BitVec.ofNat (8 * n) m = cmp.setWidth (8 * n) then some (v.setWidth (8 * n)).toNat else none := by
  have hiff : (BitVec.ofNat (8 * n) m = cmp.setWidth (8 * n)) = (m = cmp.toNat % 2 ^ (8 * n)) := by
    rw [← BitVec.toNat_inj, toNat_ofNat_lt hm, BitVec.toNat_setWidth]
  rw [BitVec.toNat_setWidth]
  simp only [hiff]
  rfl

theorem rmwNew_fadd : rmwNew .fadd n m v.toNat cmp.toNat =
    (let f := if n = 4 then FFmt.f32 else .f64
     some (roundTo f .rne false (Ex.add .rne (decodeFloat f (BitVec.ofNat (8 * n) m).toNat) (decodeFloat f (v.setWidth (8 * n)).toNat)))) := by
  rw [toNat_ofNat_lt hm, BitVec.toNat_setWidth]
  rfl

end

/-- The old value of an atomic as gD receives it: sign-extended from its width. -/
theorem rmwOld_eq {op : RmwOp} (hop : op ≠ .fadd) {n : Nat} (hn : n = 4 ∨ n = 8) (m : Nat) : rmwOld op n m = (BitVec.ofNat (8 * n) m).signExtend 64 := by
  unfold rmwOld
  rcases hn with rfl | rfl
  · rw [if_pos (by simpa using hop), signedOf_eq_toInt]
    rfl
  · exact (BitVec.signExtend_eq _).symm

theorem rmwOld_fadd {n m : Nat} (hm : m < 2 ^ (8 * n)) : rmwOld .fadd n m = (BitVec.ofNat (8 * n) m).setWidth 64 := by
  apply BitVec.eq_of_toNat_eq
  rw [BitVec.toNat_setWidth, toNat_ofNat_lt hm, rmwOld, if_neg (by simp), BitVec.toNat_ofNat]

end Sys2Proof.Machine
end

section
/-! Atomics and reductions in local store through W0, by a context that runs alone (O15). -/
namespace Sys2Proof.Machine

theorem stamped_relWhere (s : State) (a : CtxId) (op : RmwOp) (rel : Option Scope) (writes : Bool) : Stamped s (s.relWhere a op rel writes) := by
  unfold State.relWhere
  split
  · split
    · exact stamped_modCtx _ _ _ fun _ => ⟨_, _, _, le_rfl, rfl⟩
    · exact Stamped.refl s
  · exact Stamped.refl s

section
variable {s : State} (hq : Quiet s)
include hq

theorem Quiet.casLost (op : RmwOp) (rel : Option Scope) (writes : Bool) : s.casLost s.cur op rel writes = none := by
  unfold State.casLost
  split
  · rw [leader_alone hq.alone, hq.lost, ite_self]
  · rfl

theorem Quiet.casReport (op : RmwOp) (rel : Option Scope) (writes : Bool) : s.casReport s.cur op rel writes = s := by
  unfold State.casReport
  rw [leader_alone hq.alone]
  dsimp only
  rw [hq.lost]
  split
  next h => cases h
  next => rfl

omit hq in
/-- A read-modify-write of n bytes of local store, at its place. -/
theorem placeRmw_local (k : WKind) (cl off : Nat) (op : RmwOp) (n b cmp : Nat) :
    ∃ w, Settled s w ∧ w.mem = s.mem ∧ w.longs = s.longs ∧
      (match rmwNew op n (leNat (Memory.readN s.ls (lsKey cl off) n)) b cmp with
        | some x => w.ls = Memory.writeN s.ls (lsKey cl off) (leBytes n x)
        | none => w.ls = s.ls) ∧
      s.placeRmw s.cur k (.ls cl off) op n b cmp = (leNat (Memory.readN s.ls (lsKey cl off) n), w) := by
  unfold State.placeRmw
  rw [show s.placeRead (.ls cl off) n = Memory.readN s.ls (lsKey cl off) n from rfl]
  dsimp only
  cases rmwNew op n (leNat (Memory.readN s.ls (lsKey cl off) n)) b cmp with
  | none => exact ⟨s, Settled.refl s, rfl, rfl, rfl, rfl⟩
  | some x =>
    have hw := watched_placeWriteAs_ls s (some s.cur) (s.bankOf s.cur (.ls cl off)) k cl off (leBytes n x)
    exact ⟨_, settled_placeWriteAs s _ _ k _ _, by rw [hw.rest], by rw [hw.rest], by rw [hw.rest], rfl⟩

/-- An atomic of n bytes of local store, at its place. -/
theorem homeRmw_local (cl off : Nat) (op : RmwOp) (n : Nat) (v cmp : Word) (d : Reg) (sc : Scope) (rel : Option Scope) :
    ∃ w, Settled s w ∧ w.mem = s.mem ∧ w.longs = s.longs ∧
      (match rmwNew op n (leNat (Memory.readN s.ls (lsKey cl off) n)) v.toNat cmp.toNat with
        | some x => w.ls = Memory.writeN s.ls (lsKey cl off) (leBytes n x)
        | none => w.ls = s.ls) ∧
      s.homeRmw s.cur s.cur (.ls cl off) op n v cmp d sc rel =
        (.passed none, w.withLate (oneLate s d (rmwOld op n (leNat (Memory.readN s.ls (lsKey cl off) n))) none)) := by
  unfold State.homeRmw
  simp only [hq.orderOwn, hq.casLost]
  generalize (rmwNew op n (leNat (s.placeRead (.ls cl off) n)) v.toNat cmp.toNat).isSome = writes
  have hr : Stamped s ((s.takeRels s.cur sc (s.relsAt (.ls cl off)).1 (s.relsAt (.ls cl off)).2 n).relWhere s.cur op rel writes) :=
    (stamped_takeRels s s.cur sc _ _ n).trans (stamped_relWhere _ _ _ _ _)
  generalize (s.takeRels s.cur sc (s.relsAt (.ls cl off)).1 (s.relsAt (.ls cl off)).2 n).relWhere s.cur op rel writes = r at hr ⊢
  have hrep := (hr.quiet hq).casReport op rel writes
  obtain ⟨w, hw, hmem, hlongs, hls, hrmw⟩ := placeRmw_local (s := r) (r.wkind s.cur (some sc) true) cl off op n v.toNat cmp.toNat
  rw [hr.cur] at hrep hrmw
  rw [hrep, hrmw]
  have hrls : r.ls = s.ls := by rw [hr.rest]
  rw [hrls] at hls ⊢
  have hs := hr.settled.trans hw
  refine ⟨w, hs, by rw [hmem, hr.rest], by rw [hlongs, hr.rest], hls, ?_⟩
  dsimp only
  rw [laneLong_alone ((hs.grp s.cur).trans hq.alone)]
  rfl

end

section
variable {s : State} (hq : Quiet s) {va : Word} {n : Nat} {l : LsAt} (hl : LocalAt s va n l)
include hq hl

/-- An atomic in local store through W0 by the issuing context, at any order but sc. -/
theorem atomic_local (hp : s.lsPoisoned l.cl l.phys n = false) {i : Instr} {sm : Bool} {op : RmwOp} {v cmp : Word} {d : Reg} {sc : Scope} {o : Order}
    (ho : o ≠ .sc) (hexec : ∀ c, s.findCtx s.cur = some c → exec i s = .next (s.issueMem sm [(s.cur, va, .amo op n v cmp d sc o)])) {old : Nat → Word}
    {new : Nat → Option Nat} (hold : ∀ m, m < 2 ^ (8 * n) → rmwOld op n m = old m)
    (hnew : ∀ m, m < 2 ^ (8 * n) → rmwNew op n m v.toNat cmp.toNat = new m) : Atomic i sm d l n old new s := by
  intro c hc
  refine ⟨_, hexec c hc, ?_⟩
  have hr := stamped_released s (.amo op n v cmp d sc o)
  rw [hq.issueMem]
  generalize s.released (.amo op n v cmp d sc o) = r at hr ⊢
  have hrq := hr.quiet hq
  have hrls : r.ls = s.ls := by rw [hr.rest]
  obtain ⟨w, hw, hmem, hlongs, hls, hperf⟩ := homeRmw_local hrq l.cl l.phys op n v cmp d sc (if orderReleases o then some sc else none)
  have hst := (hr.localAt hl).performs (op := .amo op n v cmp d sc o) rfl rfl (.inl (by rw [hr.rest]; exact hp))
  have hlt : leNat (Memory.readN s.ls (lsKey l.cl l.phys) n) < 2 ^ (8 * n) := by
    have := leNat_lt (Memory.readN s.ls (lsKey l.cl l.phys) n)
    rwa [Memory.length_readN] at this
  have hstart : r.startStage r.cur r.cur va (.amo op n v cmp d sc o) = (.passed none, w.withLate
      (oneLate r d (rmwOld op n (leNat (Memory.readN r.ls (lsKey l.cl l.phys) n))) none)) := by
    rw [hst, ← hperf]
    unfold State.lsPerform
    simp only [hrq.orderOwn, if_neg ho]
  have hs := hr.settled.trans hw
  have hfind := hs.here hc
  rw [← hs.cur] at hfind
  obtain ⟨u, hu, humem, huls, -, -, howes⟩ := issueOne_passes hw.cur hfind (by rw [← ctx_of_find hc]; exact hq.alone)
    (by rw [hs.cur, hs.rest]; exact hq.accesses) hstart (fun _ => notLate_append (by rw [hlongs, hw.cur]; exact hrq.longs) _ _ _) sm
  rw [hrls] at hls howes
  rw [hnew _ hlt] at hls
  rw [hold _ hlt, show ∀ x, oneLate r d x none = oneLate s d x none from fun x => by rw [oneLate, hr.cur]; rfl] at howes
  refine ⟨u, hs.trans hu, by rw [humem, hmem, hr.rest], howes, ?_⟩
  cases hx : new (leNat (Memory.readN s.ls (lsKey l.cl l.phys) n)) with
  | none => rw [hx] at hls; exact huls.trans hls
  | some x => rw [hx] at hls; exact LocalPut.of_ls (huls.trans hls)

end

/-- A reduction of the issuing context to local store, on its way. -/
def State.localRed (s : State) (l : LsAt) (op : RmwOp) (n : Nat) (v : Word) (sc : Scope) : PRed := {
  agent := s.cur, place := .ls l.cl l.phys, op := op, n := n, val := v, since := s.gtime, kind := s.wkind s.cur (some sc) true }

/-- A reduction to local store through W0 by the issuing context leaves. -/
theorem issueMem_reduce {s : State} {c : Ctx} (hc : s.findCtx s.cur = some c) (hq : Quiet s) {va : Word} {n : Nat} {l : LsAt} (hl : LocalAt s va n l)
    (sm : Bool) (op : RmwOp) (v : Word) (sc : Scope) (o : Order) :
    ∃ u, Stamped s u ∧ Owes [] sm (c.pc + 4) { u with reds := u.reds ++ [u.localRed l op n v sc] } (s.issueMem sm [(s.cur, va, .red op n v sc o)]) := by
  have hr := stamped_released s (.red op n v sc o)
  rw [hq.issueMem]
  generalize s.released (.red op n v sc o) = r at hr ⊢
  have hrq := hr.quiet hq
  have hst := (hr.localAt hl).performs (op := .red op n v sc o) rfl rfl (.inr rfl)
  have hperf : r.lsPerform r.cur r.cur l (.red op n v sc o) = (.passed (some (.ls l.cl l.phys)), r) := by
    unfold State.lsPerform
    simp only [hrq.orderOwn]
  have hfind := hr.settled.here hc
  rw [← hr.cur] at hfind
  have hsc : scOf [r.firstAccess sm va (.red op n v sc o) (.passed (some (.ls l.cl l.phys)))] = [] := by
    unfold scOf
    rw [List.mergeSort_singleton]
    rfl
  have hreds : r.redsOf r.cur [r.firstAccess sm va (.red op n v sc o) (.passed (some (.ls l.cl l.phys)))] = [r.localRed l op n v sc] := by
    unfold State.redsOf
    rw [List.mergeSort_singleton]
    rfl
  have hpass := accessCheck_passed hfind (a := r.firstAccess sm va (.red op n v sc o) (.passed (some (.ls l.cl l.phys)))) rfl rfl hrq.accesses rfl hsc
  rw [hreds] at hpass
  rw [issueOne_begun (hst.trans hperf) rfl]
  refine ⟨r, hr, ?_⟩
  have howes := owes_retire { r with reds := r.reds ++ [r.localRed l op n v sc] } sm
  have hpc : (r.ctx r.cur).pc = c.pc := by rw [hr.cur, hr.settled.pc, ctx_of_find hc]
  rw [show (State.ctx { r with reds := r.reds ++ [r.localRed l op n v sc] } r.cur).pc = c.pc from hpc] at howes
  exact hpass ▸ howes

/-- A prefetch of an address that is not paged. -/
theorem startStage_prefetch {s : State} {va : Word} (h : 2 ^ 56 ≤ va.toNat ∨ regionOf va.toNat ≠ .paged) (agent lane : CtxId) (k : Nat) :
    s.startStage agent lane va (.prefetch k) = (.passed none, s) := by
  by_cases hlow : 2 ^ 56 ≤ va.toNat
  · exact startStage_outside (.inl hlow) _ _ _
  · have hreg : regionOf va.toNat ≠ .paged := h.resolve_left hlow
    unfold State.startStage
    dsimp only
    rw [if_neg hlow]
    cases hr : regionOf va.toNat with
    | paged => exact absurd hr hreg
    | _ => rfl

theorem amoBytes_eq (w : Bool) : amoBytes w = 4 ∨ amoBytes w = 8 := by decide +revert

theorem orderOf_ne_sc : ∀ o : Fin 8, o.val < 4 → orderOf o.val ≠ .sc := by decide

/-- The format that `amo.fadd` computes in: that of its width. -/
theorem amoFmt_eq (w : Bool) : (if amoBytes w = 4 then FFmt.f32 else .f64) = if w then .f64 else .f32 := by decide +revert

/-- The atomics in local store, at any order but sc. -/
theorem atomicsLocal {s : State} (sm : Bool) (d a b : Reg) (sc : Fin 4) {o : Fin 8} (w : Bool) {l : LsAt} (ho : o.val < 4) (hq : Quiet s)
    (hl : LocalAt s (s.rg s.cur a) (amoBytes w) l) (hp : s.lsPoisoned l.cl l.phys (amoBytes w) = false) {i : Instr} {op : RmwOp} {old : Nat → Word}
    {new : Nat → Option Nat} (hexec : exec i s = amoOp s sm op d a b sc o w)
    (hold : ∀ m, m < 2 ^ (8 * amoBytes w) → rmwOld op (amoBytes w) m = old m)
    (hnew : ∀ m, m < 2 ^ (8 * amoBytes w) → rmwNew op (amoBytes w) m (s.rg s.cur b).toNat (s.rg s.cur d).toNat = new m) :
    Atomic i sm d l (amoBytes w) old new s :=
  atomic_local hq hl hp (orderOf_ne_sc o ho) (fun _ hc => hexec.trans (amoOp_alone hc hq.alone sm op d a b sc o w)) hold hnew

/-- Settles O15: an atomic is performed at its place between its release and its acquire; a reduction leaves; a prefetch does nothing. -/
theorem atomicsAndReductions : Obligations.AtomicsAndReductions := by
  unfold Obligations.AtomicsAndReductions
  refine ⟨?_, ?_⟩
  · intro s sm d a b sc o w l ho hq n hl hp x y z f goes
    have hold : ∀ op, op ≠ .fadd → ∀ m, m < 2 ^ (8 * amoBytes w) → rmwOld op (amoBytes w) m = (x m).signExtend 64 :=
      fun op hop m _ => rmwOld_eq hop (amoBytes_eq w) m
    have hgo : ∀ i op r, op ≠ .fadd → exec i s = amoOp s sm op d a b sc o w →
        (∀ m, m < 2 ^ (8 * amoBytes w) → rmwNew op (amoBytes w) m (s.rg s.cur b).toNat (s.rg s.cur d).toNat = some (r (x m)).toNat) → goes i r :=
      fun i op r hop hexec hnew => atomicsLocal sm d a b sc w ho hq hl hp hexec (hold op hop) hnew
    refine ⟨?_, ?_, ?_, ?_, ?_, ?_, ?_, ?_, ?_, ?_, ?_⟩
    · exact hgo (.amoAdd sm d a b sc o w) .add (fun m => m + y) nofun rfl fun m hm => rmwNew_add hm _ _
    · exact hgo (.amoAnd sm d a b sc o w) .and (fun m => m &&& y) nofun rfl fun m hm => rmwNew_and hm _ _
    · exact hgo (.amoOr sm d a b sc o w) .or (fun m => m ||| y) nofun rfl fun m hm => rmwNew_or hm _ _
    · exact hgo (.amoXor sm d a b sc o w) .xor (fun m => m ^^^ y) nofun rfl fun m hm => rmwNew_xor hm _ _
    · exact hgo (.amoMin sm d a b sc o w) .min (fun m => if m.toInt ≤ y.toInt then m else y) nofun rfl fun m hm => rmwNew_min hm _ _
    · exact hgo (.amoMax sm d a b sc o w) .max (fun m => if m.toInt ≤ y.toInt then y else m) nofun rfl fun m hm => rmwNew_max hm _ _
    · exact hgo (.amoMinn sm d a b sc o w) .minn (fun m => if m.toNat ≤ y.toNat then m else y) nofun rfl fun m hm => rmwNew_minn hm _ _
    · exact hgo (.amoMaxn sm d a b sc o w) .maxn (fun m => if m.toNat ≤ y.toNat then y else m) nofun rfl fun m hm => rmwNew_maxn hm _ _
    · exact hgo (.amoSwp sm d a b sc o w) .swp (fun _ => y) nofun rfl fun m _ => rmwNew_swp _ _
    · exact atomicsLocal sm d a b sc w ho hq hl hp rfl (hold .cas nofun) fun m hm => rmwNew_cas hm _ _
    · refine atomicsLocal sm d a b sc w ho hq hl hp rfl (fun m hm => rmwOld_fadd hm) fun m hm => ?_
      rw [rmwNew_fadd hm, amoFmt_eq]
      rfl
  · intro s c sm a b sc o w k l hc hq n goes
    have hgo : ∀ i op, exec i s = redOp s sm op a b sc o w → goes i op := by
      intro i op hexec hl
      obtain ⟨u, hu, howes⟩ := issueMem_reduce hc hq hl sm op (s.rg s.cur b) (scopeOf sc.val) (orderOf o.val)
      refine ⟨_, hexec.trans (redOp_alone hc hq.alone sm op a b sc o w), u, hu.settled, by rw [hu.rest], by rw [hu.rest], ?_⟩
      have hred : u.localRed l op n (s.rg s.cur b) (scopeOf sc.val) = {
          agent := s.cur, place := .ls l.cl l.phys, op := op, n := n, val := s.rg s.cur b, since := s.gtime
          kind := u.wkind s.cur (some (scopeOf sc.val)) true } := by
        rw [State.localRed, hu.cur, show u.gtime = s.gtime by rw [hu.rest]]
      rw [← hred]
      exact howes
    refine ⟨hgo _ .add rfl, hgo _ .fadd rfl, hgo _ .min rfl, hgo _ .max rfl, hgo _ .or rfl, fun hout => ?_⟩
    have hexec : exec (.pf sm a k) s = .next (s.issueMem sm [(s.cur, s.rg s.cur a, .prefetch k.val)]) := by
      show execPf sm a k s = _
      unfold execPf
      rw [onCtx_some hc, lanes_alone (groupOf_alone hq.alone)]
      rfl
    refine ⟨_, hexec, ?_⟩
    rw [issueMem_unreleased s sm _ rfl rfl]
    exact issueOne_goesOn (s := s) rfl hc (by rw [← ctx_of_find hc]; exact hq.alone) hq.accesses rfl []
      (by rw [startStage_prefetch hout, State.withLate, List.append_nil]) sm

end Sys2Proof.Machine
end

section
/-! The L1 bank of a context that runs alone (R121 to R124): what it orders before an access, its lines, and what a read or a write of a line does. -/
namespace Sys2Proof.Machine

/-! ### A bank with no traffic of its own on its way -/

/-- Context a runs alone, and no writes of its bank, reductions of its pipe or late loads of its own are on their way. -/
structure BankIdle (s : State) (a : CtxId) : Prop where
  alone : (s.ctx a).grp = none
  writes : ∀ w ∈ s.writes, ownBank a w.agent.cl w.pipe = false
  reds : ∀ r ∈ s.reds, ownBank a r.agent.cl r.agent.pipe = false
  longs : ∀ l ∈ s.longs, ∀ t, l.late = some t → t.agent ≠ a

theorem bankIdle_of {s : State} {a : CtxId} (ha : (s.ctx a).grp = none) (hw : ∀ w ∈ s.writes, s.sameBank a w = false)
    (hr : ∀ r ∈ s.reds, ¬ (r.agent.cl = a.cl ∧ r.agent.pipe = a.pipe)) (hl : ∀ l ∈ s.longs, ∀ t, l.late = some t → t.agent ≠ a) : BankIdle s a := by
  refine ⟨ha, fun w hm => ?_, fun r hm => ?_, hl⟩
  · rw [← ownsPipe_alone ha]
    exact hw w hm
  · have h := hr r hm
    unfold ownBank
    rw [Bool.and_eq_false_iff, decide_eq_false_iff_not, decide_eq_false_iff_not]
    by_cases hcl : a.cl = r.agent.cl
    · exact .inr fun hp => h ⟨hcl.symm, hp.symm⟩
    · exact .inl hcl

theorem LineHeld.idle {s : State} {a : CtxId} {va : Nat} {l : L1Line} (h : LineHeld s a va l) : BankIdle s a := bankIdle_of h.alone h.writes h.reds h.longs

section
variable {s : State} {a : CtxId} (h : BankIdle s a)
include h

theorem BankIdle.congr {t : State} (hg : (t.ctx a).grp = (s.ctx a).grp) (hw : t.writes = s.writes) (hr : t.reds = s.reds) (hl : t.longs = s.longs) :
    BankIdle t a := by
  obtain ⟨alone, writes, reds, longs⟩ := h
  exact ⟨hg.trans alone, by rwa [hw], by rwa [hr], by rwa [hl]⟩

theorem BankIdle.sameBank : ∀ w ∈ s.writes, s.sameBank a w = false := fun w hm => (ownsPipe_alone h.alone _ _).trans (h.writes w hm)

theorem BankIdle.redAgents : ∀ r ∈ s.reds, r.agent ≠ a := by
  rintro r hm rfl
  have := h.reds r hm
  simp [ownBank] at this

theorem BankIdle.orderOwn (p : Place) (n : Nat) : s.orderOwn a p n = s := orderOwn_of_none h.sameBank h.redAgents h.longs p n

theorem BankIdle.orderLine (va pa : Nat) : s.orderLine a va pa = s := by
  have h1 : (s.drainWrites fun w => s.sameBank a w && placesMeet w.place w.data.length (.mem va pa) 64) = s :=
    drainWrites_of_none fun w hm => by rw [h.sameBank w hm, Bool.false_and]
  have h2 : (s.drainReds fun r => s.ownsPipe a r.agent.cl r.agent.pipe && placesMeet r.place r.n (.mem va pa) 64) = s :=
    drainReds_of_none fun r hm => by rw [ownsPipe_alone h.alone, h.reds r hm, Bool.false_and]
  unfold State.orderLine
  dsimp only
  rw [h1, h2]

theorem BankIdle.renew (pa : Nat) : BankIdle (s.renew a pa).2 a := by
  refine h.congr ((settled_renew s a pa).grp a) ?_ ?_ ?_ <;> rw [renew_rest]

end

/-! ### Reads of a line -/

theorem stamped_hasRead (s : State) (a : CtxId) (wts : Nat) : Stamped s (s.hasRead a wts) := stamped_modCtx _ _ _ fun _ => ⟨_, _, _, le_max_left _ _, rfl⟩

theorem hasRead_mts {s : State} {a : CtxId} {c : Ctx} (hc : s.findCtx a = some c) (ha : (s.ctx a).grp = none) (wts : Nat) :
    wts ≤ ((s.hasRead a wts).ctx a).mts := by
  unfold State.hasRead
  rw [leader_alone ha, ctx_modCtx_self hc (by intro; rfl)]
  exact le_max_right _ _

/-- A wholly valid line of region 0x0 once it is renewed at its home slice (R124). -/
def State.renewed (s : State) (a : CtxId) (l : L1Line) : L1Line :=
  let r := s.renew a l.pa
  let m := { l with
    lease := r.1.2, tick := (s.cluster a.cl).ticks, rels := relsOut (r.2.homeRels (l.pa / 64)) l.dirty ++ relsIn l.rels l.dirty }
  if r.1.1 = l.wts then m else { m with data := maskBytes (Memory.readN s.mem l.pa 64) l.data l.dirty, valid := BitVec.allOnes 64, wts := r.1.1 }

section
variable {s : State} {a : CtxId} {l : L1Line} {va n : Nat}

/-- Bytes of the bank's own, and a line within its age and lease, are read as they are. -/
theorem renewLine_held (ha : (s.ctx a).grp = none)
    (h : maskHas l.dirty (va % 64) n = true ∨ ((s.cluster l.cl).ticks ≤ l.tick + 64 ∧ (s.ctx a).pts ≤ l.lease)) :
    s.renewLine a l va n = (l, s.sawLine a l) := by
  unfold State.renewLine
  by_cases hd : maskHas l.dirty (va % 64) n = true
  · rw [if_pos hd]
  · obtain ⟨hyoung, hlease⟩ := h.resolve_left hd
    have hy : s.lineYoung l = true := decide_eq_true hyoung
    rw [if_neg hd, if_neg (by simp [hy]), leader_alone ha, if_pos hlease]

/-- A line past its age, or past its lease with a later write that the context must see, is renewed. -/
theorem renewLine_renewNow (ha : (s.ctx a).grp = none) (hd : maskHas l.dirty (va % 64) n = false)
    (h : l.tick + 64 < (s.cluster l.cl).ticks ∨ (l.lease < (s.ctx a).pts ∧ l.lease < (s.ctx a).vis.hb)) : s.renewLine a l va n = s.renewNow a l := by
  unfold State.renewLine
  rw [if_neg (by simp [hd])]
  by_cases hy : s.lineYoung l = false
  · rw [if_pos hy]
  · have hyoung : (s.cluster l.cl).ticks ≤ l.tick + 64 := by simpa [State.lineYoung] using hy
    obtain ⟨hpts, hhb⟩ := h.resolve_left (by omega)
    rw [if_neg hy, leader_alone ha, if_neg (by omega), if_neg ?_]
    simp [State.staleOk, leader_alone ha, hhb]

theorem renewNow_whole (h : BankIdle s a) (hvalid : l.valid = BitVec.allOnes 64) (hfar : l.far = false) :
    s.renewNow a l = (s.renewed a l, (s.renew a l.pa).2.putLine (s.renewed a l)) := by
  have hmem : (s.renew a l.pa).2.mem = s.mem := by rw [renew_rest]
  have hticks : ((s.renew a l.pa).2.cluster a.cl).ticks = (s.cluster a.cl).ticks := by rw [renew_rest]; rfl
  unfold State.renewNow State.renewed
  simp only [h.orderLine, hvalid, hfar, and_true, hmem, hticks]

end

/-! ### Writes of a line -/

/-- Byte j of a line after n bytes have been written from byte i on. -/
theorem storeLine_data (b : L1Line) (a : CtxId) (k : WKind) (cycle i n v : Nat) {j : Nat} (hj : j < b.data.length) :
    (storeLine b a k cycle i (leBytes n v)).data[j]? = if i ≤ j ∧ j < i + n then (leBytes n v)[j - i]? else b.data[j]? := by
  have hb : b.data[j]? = some b.data[j] := List.getElem?_eq_getElem hj
  show (b.data.mapIdx _)[j]? = _
  rw [List.getElem?_mapIdx, hb, Option.map_some]
  by_cases hi : i ≤ j
  · rw [if_pos hi]
    by_cases hn : j < i + n
    · have hlt : j - i < (leBytes n v).length := by rw [length_leBytes]; omega
      rw [if_pos ⟨hi, hn⟩, List.getElem?_eq_getElem hlt]
      rfl
    · have hge : (leBytes n v).length ≤ j - i := by rw [length_leBytes]; omega
      rw [if_neg (fun h => hn h.2), List.getElem?_eq_none hge]
      rfl
  · rw [if_neg hi, if_neg (fun h => hi h.1)]

theorem storeLine_valid (b : L1Line) (a : CtxId) (k : WKind) (cycle i n v : Nat) :
    (storeLine b a k cycle i (leBytes n v)).valid = b.valid ||| BitVec.ofNat 64 ((2 ^ n - 1) * 2 ^ i) := by
  show b.valid ||| byteMask i (leBytes n v).length = _
  rw [length_leBytes]
  rfl

theorem storeLine_dirty (b : L1Line) (a : CtxId) (k : WKind) (cycle i n v : Nat) :
    (storeLine b a k cycle i (leBytes n v)).dirty = b.dirty ||| BitVec.ofNat 64 ((2 ^ n - 1) * 2 ^ i) := by
  show b.dirty ||| byteMask i (leBytes n v).length = _
  rw [length_leBytes]
  rfl

/-- A store into a line, whose key and permissions it may renew. -/
theorem linePut_storeLine {l b : L1Line} (hb : b = { l with key := b.key, perm := b.perm, dset := b.dset }) (hlen : l.data.length = 64) (a : CtxId)
    (k : WKind) (cycle i n v : Nat) : LinePut l i n v (storeLine b a k cycle i (leBytes n v)) := by
  refine ⟨?_, fun j hj => ?_, ?_, ?_⟩
  · rw [hb]
    simp [sameLine, storeLine]
  · have hdata : b.data = l.data := by rw [hb]
    rw [storeLine_data _ _ _ _ _ _ _ (by rw [hdata, hlen]; exact hj), hdata]
  · rw [storeLine_valid, show b.valid = l.valid by rw [hb]]
  · rw [storeLine_dirty, show b.dirty = l.dirty by rw [hb]]

/-! ### Room for a line (R18) -/

theorem makeRoom_rest (s : State) (a : CtxId) (line : Nat) :
    s.makeRoom a line = { s with l1 := (s.makeRoom a line).l1, writes := (s.makeRoom a line).writes, poison := (s.makeRoom a line).poison } := by
  unfold State.makeRoom
  dsimp only
  split
  · split
    · rfl
    · unfold State.writeBack
      split <;> rfl
  · rfl

/-- What makes room keeps lines or drops them. -/
theorem mem_makeRoom {s : State} {a : CtxId} {line : Nat} {y : L1Line} (hy : y ∈ (s.makeRoom a line).l1) : y ∈ s.l1 := by
  unfold State.makeRoom at hy
  dsimp only at hy
  split at hy
  next l r _ =>
    split at hy
    · exact hy
    · unfold State.writeBack at hy
      split at hy
      · exact (List.mem_filter.mp hy).1
      · obtain ⟨hmem, hdiff⟩ := List.mem_filter.mp hy
        rcases List.mem_append.mp hmem with h | h
        · exact (List.mem_filter.mp h).1
        · rw [List.mem_singleton.mp h] at hdiff
          simp [sameLine] at hdiff
  next => exact hy

theorem findLine_makeRoom {s : State} {a : CtxId} {line : Nat} (h : s.findLine a line = none) : (s.makeRoom a line).findLine a line = none := by
  have hpipe : (s.makeRoom a line).bankPipe a line = s.bankPipe a line := by rw [makeRoom_rest]; rfl
  unfold State.findLine at h ⊢
  rw [hpipe, List.find?_eq_none] at *
  exact fun y hy => h y (mem_makeRoom hy)

theorem settled_makeRoom (s : State) (a : CtxId) (line : Nat) : Settled s (s.makeRoom a line) := settled_mem s (by rw [makeRoom_rest])

theorem settled_putLine (s : State) (l : L1Line) : Settled s (s.putLine l) := settled_mem s rfl

theorem mem_putLine (s : State) (l : L1Line) : l ∈ (s.putLine l).l1 := List.mem_append_right _ (List.mem_singleton.mpr rfl)

/-! ### Lines that the bank does not hold, and lines that it holds -/

theorem maskBytes_zero (old data : List Byte) : maskBytes old data 0 = old := by
  unfold maskBytes
  refine List.ext_getElem (by simp) fun i h1 h2 => ?_
  simp

/-- The line that the bank does not hold: its pipe and address, and that a fill or a store makes it. -/
structure NewLine (s : State) (a : CtxId) (line : Nat) (m : L1Line) : Prop where
  cl : m.cl = a.cl
  pipe : m.pipe = a.pipe
  line : m.line = line
  mem : m ∈ s.l1

/-- A fill of a line that the bank does not hold. -/
theorem fillLine_absent {s : State} {a : CtxId} {va : Nat} (h : BankIdle s a) (hnone : s.findLine a (va / 64) = none) (x : Xlat) :
    ∃ u m, Settled s u ∧ u.mem = s.mem ∧ NewLine u a (va / 64) m ∧ m.data = Memory.readN s.mem (x.pa (va / 64 * 64)) 64 ∧ m.dirty = 0 ∧
      m.valid = BitVec.allOnes 64 ∧ m.lease = (s.ctx a).pts + 64 ∧ s.fillLine a va x = (m, u) := by
  have hr := settled_renew s a (x.pa (va / 64 * 64))
  have hrest := renew_rest s a (x.pa (va / 64 * 64))
  have hlease : (s.renew a (x.pa (va / 64 * 64))).1.2 = (s.ctx a).pts + 64 := by
    show (s.ctx (s.leader a)).pts + 64 = _
    rw [leader_alone h.alone]
  unfold State.fillLine
  simp only [h.orderLine]
  generalize s.renew a (x.pa (va / 64 * 64)) = y at hr hrest hlease ⊢
  obtain ⟨⟨wts, lease⟩, r⟩ := y
  dsimp only at hr hrest hlease ⊢
  have hbank : r.bankPipe a (va / 64) = s.bankPipe a (va / 64) := by rw [State.bankPipe, State.bankPipe, hr.groupOf]
  have hrnone : r.findLine a (va / 64) = none := by
    unfold State.findLine at hnone ⊢
    rw [hbank, hrest]
    exact hnone
  have hm := settled_makeRoom r a (va / 64)
  have hnone' := findLine_makeRoom hrnone
  have hmem : (r.makeRoom a (va / 64)).mem = s.mem := by rw [makeRoom_rest, hrest]
  have hrmem : r.mem = s.mem := by rw [hrest]
  simp only [hrnone, Option.isNone_none, if_true]
  generalize r.makeRoom a (va / 64) = k at hm hnone' hmem ⊢
  have hpipe : k.bankPipe a (va / 64) = a.pipe := bankPipe_alone (by rw [hm.grp, hr.grp, h.alone]) _
  simp only [hnone', Option.map_none, Option.getD_none, maskBytes_zero]
  refine ⟨_, _, (hr.trans hm).trans (settled_putLine k _), hmem, ⟨rfl, hpipe, rfl, mem_putLine k _⟩, by rw [hrmem], rfl, rfl, hlease, rfl⟩

/-- A store merges into a line that the bank does not hold: one of its bytes alone. -/
theorem mergeLine_absent {s : State} {a : CtxId} {va : Nat} (ha : (s.ctx a).grp = none) (hnone : s.findLine a (va / 64) = none) (x : Xlat) (k : WKind)
    (n v : Nat) : ∃ m, Settled s (s.mergeLine a va x k (leBytes n v)) ∧ (s.mergeLine a va x k (leBytes n v)).mem = s.mem ∧
      NewLine (s.mergeLine a va x k (leBytes n v)) a (va / 64) m ∧ m.dirty = BitVec.ofNat 64 ((2 ^ n - 1) * 2 ^ (va % 64)) ∧ m.valid = m.dirty ∧
      ∀ j, va % 64 ≤ j → j < va % 64 + n → j < 64 → m.data[j]? = (leBytes n v)[j - va % 64]? := by
  have hm := settled_makeRoom s a (va / 64)
  have hnone' := findLine_makeRoom hnone
  have hmem : (s.makeRoom a (va / 64)).mem = s.mem := by rw [makeRoom_rest]
  unfold State.mergeLine
  simp only [hnone, Option.isNone_none, if_true]
  generalize s.makeRoom a (va / 64) = r at hm hnone' hmem ⊢
  have hpipe : r.bankPipe a (va / 64) = a.pipe := bankPipe_alone (by rw [hm.grp, ha]) _
  simp only [hnone']
  refine ⟨_, hm.trans (settled_putLine r _), hmem, ⟨rfl, hpipe, rfl, mem_putLine r _⟩, ?_, ?_, fun j hk hn hj => ?_⟩
  · rw [storeLine_dirty]
    exact BitVec.zero_or
  · rw [storeLine_dirty, storeLine_valid]
  · rw [storeLine_data _ _ _ _ _ _ _ (by simpa using hj), if_pos ⟨hk, hn⟩]

/-- A store merges into the line that the bank holds. -/
theorem mergeLine_held {s : State} {a : CtxId} {va : Nat} {l : L1Line} (hline : s.findLine a (va / 64) = some l) (hlen : l.data.length = 64) (x : Xlat)
    (k : WKind) (n v : Nat) : ∃ m, s.mergeLine a va x k (leBytes n v) = s.putLine m ∧ LinePut l (va % 64) n v m := by
  unfold State.mergeLine
  simp only [hline, Option.isNone_some, Bool.false_eq_true, if_false]
  exact ⟨_, rfl, linePut_storeLine rfl hlen _ _ _ _ _ _⟩

end Sys2Proof.Machine
end

section
/-! Cached loads and stores at their issue (O19). -/
namespace Sys2Proof.Machine

theorem startStage_l1 {s : State} {va : Word} (hlow : va.toNat < 2 ^ 56) (hreg : regionOf va.toNat = .paged) {op : MemOp} (hn : va.toNat % op.bytes = 0)
    {agent lane : CtxId} {r : Stage × State} (h : s.l1Stage agent lane va.toNat op = some r) : s.startStage agent lane va op = r := by
  unfold State.startStage
  dsimp only
  rw [if_neg (by omega), hreg]
  dsimp only
  rw [if_neg (fun hx => hx.2 hn), h]

section
variable {s : State} {va : Nat} {l : L1Line} (h : LineHeld s s.cur va l)
include h

/-- A load whose line is held, once it has been looked at or renewed. -/
theorem l1Stage_load {n : Nat} {sext : Bool} {d : Reg} {hint : Nat} (hhint : hint ≠ 2) (hvalid : maskHas l.valid (va % 64) n = true)
    (hchk : checkLine (whoOf (s.ctx s.cur)) .read l = .ok) {m : L1Line} {u : State} (hren : s.renewLine s.cur l va n = (m, u)) (hs : Settled s u)
    (hbad : m.bad = false) (hpoison : (u.poisonedAt (m.pa + va % 64) n && !maskHas m.dirty (va % 64) n) = false) :
    s.l1Stage s.cur s.cur va (.load n sext d hint none) =
      some (.passed none, u.withLate (oneLate s d (extend n sext (lineVal m va n)) none)) := by
  unfold State.l1Stage
  simp only [h.line, hhint, hvalid, hchk, h.idle.orderOwn, h.fresh, hren, hbad, hpoison, Bool.false_or, Bool.false_eq_true, Bool.true_eq_false, or_self,
    if_false]
  rw [laneLong_alone ((hs.grp s.cur).trans h.alone)]
  rfl

theorem l1Stage_store {n : Nat} {v : Word} {hint : Nat} {rel : Option Scope} (hhint : hint ≠ 2)
    (hpriv : (whoOf (s.ctx s.cur)).priv ≠ .user ∨ l.perm.getLsbD 3 = true) (hkey : keyOk (whoOf (s.ctx s.cur)) l.key = true)
    (hwrite : l.perm.getLsbD 1 = true) (hdset : l.dset = true) : ∃ m, LinePut l (va % 64) n v.toNat m ∧
      s.l1Stage s.cur s.cur va (.store n v hint rel) = some (.passed none, s.putLine m) := by
  have hpass : ((whoOf (s.ctx s.cur)).priv == .user && !l.perm.getLsbD 3) = false := by
    rcases hpriv with hp | hp <;> simp [hp]
  refine ⟨_, linePut_storeLine (b := l) rfl h.bytes (s.leader s.cur) (s.wkind s.cur rel false) (s.cycle s.cur.cl) _ _ _, ?_⟩
  unfold State.l1Stage
  simp only [h.line, hpass, hkey, hwrite, hdset, h.idle.orderOwn, hhint, Bool.false_eq_true, Bool.true_eq_false, or_self, if_false]

end

/-- The line that a renewal at the home slice leaves (R124). -/
theorem renewed_line {s : State} {a : CtxId} (ha : (s.ctx a).grp = none) (l : L1Line) : sameLine l (s.renewed a l) = true ∧
    (s.renewed a l).lease = (s.ctx a).pts + 64 ∧ (s.renewed a l).wts = (s.lineTs (l.pa / 64)).1 ∧ (s.renewed a l).dirty = l.dirty ∧
    (s.renewed a l).tick = (s.cluster a.cl).ticks ∧
    (s.renewed a l).data = (if (s.renewed a l).wts = l.wts then l.data else maskBytes (Memory.readN s.mem l.pa 64) l.data l.dirty) ∧
    (s.renewed a l).bad = l.bad ∧ (s.renewed a l).pa = l.pa := by
  have hlease : (s.renew a l.pa).1.2 = (s.ctx a).pts + 64 := by
    show (s.ctx (s.leader a)).pts + 64 = _
    rw [leader_alone ha]
  have hwts : (s.renew a l.pa).1.1 = (s.lineTs (l.pa / 64)).1 := rfl
  unfold State.renewed
  dsimp only
  by_cases hw : (s.renew a l.pa).1.1 = l.wts
  · rw [if_pos hw]
    exact ⟨by simp [sameLine], hlease, hw.symm.trans hwts, rfl, rfl, (if_pos rfl).symm, rfl, rfl⟩
  · rw [if_neg hw]
    exact ⟨by simp [sameLine], hlease, hwts, rfl, rfl, by dsimp only; rw [if_neg hw], rfl, rfl⟩

/-! ### The instructions -/

section
variable {s : State} {c : Ctx} (hc : s.findCtx s.cur = some c) {va : Word} {l : L1Line} (h : LineHeld s s.cur va.toNat l) (hlow : va.toNat < 2 ^ 56)
  (hreg : regionOf va.toNat = .paged) (hacc : ∀ x ∈ s.accesses, x.agent ≠ s.cur) {n : Nat} (hn : va.toNat % n = 0)
include hc h hlow hreg hacc hn

/-- A load of a line that the bank holds goes on with the bytes of the line once it has been looked at or renewed. -/
theorem issueMem_loadLine {sext : Bool} {d : Reg} {hint : Nat} (hhint : hint ≠ 2) (hvalid : maskHas l.valid (va.toNat % 64) n = true)
    (hchk : checkLine (whoOf (s.ctx s.cur)) .read l = .ok) {m : L1Line} {u : State} (hren : s.renewLine s.cur l va.toNat n = (m, u)) (hs : Settled s u)
    (hbad : m.bad = false) (hpoison : (u.poisonedAt (m.pa + va.toNat % 64) n && !maskHas m.dirty (va.toNat % 64) n) = false) (sm : Bool) :
    Owes (oneLate s d (extend n sext (lineVal m va.toNat n)) none) sm (c.pc + 4) u (s.issueMem sm [(s.cur, va, .load n sext d hint none)]) := by
  have hst := startStage_l1 hlow hreg (op := .load n sext d hint none) hn (l1Stage_load h (d := d) (sext := sext) hhint hvalid hchk hren hs hbad hpoison)
  have hfind := hs.here hc
  rw [← hs.cur] at hfind
  rw [issueMem_unreleased s sm va rfl rfl]
  exact issueOne_goesOn hs.cur hfind (by rw [← ctx_of_find hc]; exact h.alone) (by rw [hs.cur, hs.rest]; exact hacc) rfl _ hst sm

/-- A load of the bank's own bytes, or of a line within its age and lease. -/
theorem issueMem_loadHeld {sext : Bool} {d : Reg} {hint : Nat} (hhint : hint ≠ 2) (hvalid : maskHas l.valid (va.toNat % 64) n = true)
    (hchk : checkLine (whoOf (s.ctx s.cur)) .read l = .ok) (hbad : l.bad = false)
    (hpoison : s.poisonedAt (l.pa + va.toNat % 64) n = false ∨ maskHas l.dirty (va.toNat % 64) n = true)
    (huse : maskHas l.dirty (va.toNat % 64) n = true ∨ ((s.cluster l.cl).ticks ≤ l.tick + 64 ∧ (s.ctx s.cur).pts ≤ l.lease)) (sm : Bool) :
    ∃ u, Settled s u ∧ u.mem = s.mem ∧ u.ls = s.ls ∧ u.l1 = s.l1 ∧ l.wts ≤ (u.ctx s.cur).mts ∧
      Owes (oneLate s d (extend n sext (lineVal l va.toNat n)) none) sm (c.pc + 4) u (s.issueMem sm [(s.cur, va, .load n sext d hint none)]) := by
  have hs := (stamped_hasRead s s.cur l.wts).settled
  refine ⟨s.sawLine s.cur l, hs, rfl, rfl, rfl, hasRead_mts hc h.alone l.wts, ?_⟩
  refine issueMem_loadLine hc h hlow hreg hacc hn hhint hvalid hchk (renewLine_held h.alone huse) hs hbad ?_ sm
  have hp : (s.sawLine s.cur l).poisonedAt (l.pa + va.toNat % 64) n = s.poisonedAt (l.pa + va.toNat % 64) n := rfl
  rcases hpoison with hx | hx <;> simp [hp, hx]

/-- A load of bytes that are not the bank's own, of a line past its age or its lease. -/
theorem issueMem_loadRenewed {sext : Bool} {d : Reg} {hint : Nat} (hhint : hint ≠ 2) (hvalid : l.valid = BitVec.allOnes 64) (hfar : l.far = false)
    (hchk : checkLine (whoOf (s.ctx s.cur)) .read l = .ok) (hbad : l.bad = false) (hdirty : maskHas l.dirty (va.toNat % 64) n = false)
    (hpoison : s.poisonedAt (l.pa + va.toNat % 64) n = false)
    (hold : l.tick + 64 < (s.cluster l.cl).ticks ∨ (l.lease < (s.ctx s.cur).pts ∧ l.lease < (s.ctx s.cur).vis.hb)) (sm : Bool) :
    ∃ u m, Settled s u ∧ u.mem = s.mem ∧ u.ls = s.ls ∧ u.l1 = s.l1.filter (fun x => !sameLine x m) ++ [m] ∧ sameLine l m = true ∧
      m.lease = (s.ctx s.cur).pts + 64 ∧ m.wts = (s.lineTs (l.pa / 64)).1 ∧ m.dirty = l.dirty ∧ m.tick = (s.cluster s.cur.cl).ticks ∧
      m.data = (if m.wts = l.wts then l.data else maskBytes (Memory.readN s.mem l.pa 64) l.data l.dirty) ∧
      Owes (oneLate s d (extend n sext (lineVal m va.toNat n)) none) sm (c.pc + 4) u (s.issueMem sm [(s.cur, va, .load n sext d hint none)]) := by
  obtain ⟨hsame, hlease, hwts, hmdirty, htick, hdata, hmbad, hmpa⟩ := renewed_line h.alone l
  have hren := (renewLine_renewNow (n := n) h.alone hdirty hold).trans (renewNow_whole h.idle hvalid hfar)
  have hs := (settled_renew s s.cur l.pa).trans (settled_putLine _ (s.renewed s.cur l))
  have hrest := renew_rest s s.cur l.pa
  refine ⟨_, _, hs, ?_, ?_, ?_, hsame, hlease, hwts, hmdirty, htick, hdata, ?_⟩
  · exact (congrArg State.mem hrest :)
  · exact (congrArg State.ls hrest :)
  · exact (congrArg (fun t : State => t.l1.filter (fun x => !sameLine x (s.renewed s.cur l)) ++ [(s.renewed s.cur l)]) hrest :)
  · have hp : ((s.renew s.cur l.pa).2.putLine (s.renewed s.cur l)).poisonedAt (l.pa + va.toNat % 64) n = s.poisonedAt (l.pa + va.toNat % 64) n := by
      rw [hrest]; rfl
    refine issueMem_loadLine hc h hlow hreg hacc hn hhint ?_ hchk hren hs (hmbad.trans hbad) (by rw [hmpa, hp, hpoison, Bool.false_and]) sm
    rw [hvalid]
    exact decide_eq_true (BitVec.and_allOnes)

theorem issueMem_storeHeld {v : Word} {hint : Nat} (hhint : hint ≠ 2)
    (hpriv : (whoOf (s.ctx s.cur)).priv ≠ .user ∨ l.perm.getLsbD 3 = true) (hkey : keyOk (whoOf (s.ctx s.cur)) l.key = true)
    (hwrite : l.perm.getLsbD 1 = true) (hdset : l.dset = true) (sm : Bool) :
    ∃ u m, Settled s u ∧ u.mem = s.mem ∧ u.ls = s.ls ∧ u.writes = s.writes ∧ u.l1 = s.l1.filter (fun x => !sameLine x m) ++ [m] ∧
      LinePut l (va.toNat % 64) n v.toNat m ∧ Owes [] sm (c.pc + 4) u (s.issueMem sm [(s.cur, va, .store n v hint none)]) := by
  obtain ⟨m, hput, hstage⟩ := l1Stage_store h (n := n) (v := v) (rel := none) hhint hpriv hkey hwrite hdset
  have hst := startStage_l1 hlow hreg (op := .store n v hint none) hn hstage
  refine ⟨s.putLine m, m, settled_putLine s m, rfl, rfl, rfl, rfl, hput, ?_⟩
  rw [issueMem_unreleased s sm va rfl rfl]
  exact issueOne_goesOn (s := s) (w := s.putLine m) rfl hc (by rw [← ctx_of_find hc]; exact h.alone) hacc rfl []
    (by rw [hst, State.withLate, List.append_nil]) sm

end

end Sys2Proof.Machine
end

section
/-! Cached accesses at their check point (O19). -/
namespace Sys2Proof.Machine

section
variable {w : State} {n : Nat} {a : Access} (h : w.accesses[n]? = some a) (honly : (w.accesses.filter fun b => decide (b.agent = a.agent)) = [a])
  (hst : (w.ctx a.agent).st = .parked .check)
include h honly hst

/-- An access that has passed its check point, of an atomic that is an acquire at GRP scope, ends its instruction, which goes on. -/
theorem setStage_acquiredGroup (hacq : a.op.acq = some .grp) (ha : (w.ctx a.agent).grp = none)
    (hl : ∀ l ∈ w.longs, ∀ t, l.late = some t → t.agent ≠ a.agent) :
    w.setStage n a (.passed none) = State.retire { w with accesses := w.otherAccesses a.agent, cur := a.agent } a.sm := by
  have hmine := filter_set_single (p := fun b : Access => decide (b.agent = a.agent)) (b := { a with stage := .passed none, since := w.gtime })
    (decide_eq_true rfl) (decide_eq_true rfl) h honly
  have hrest := filter_set_other (p := fun b : Access => !decide (b.agent = a.agent)) (b := { a with stage := .passed none, since := w.gtime })
    (by simp) (by simp) h
  have hfin := finishAccess_acquired (s := { w with accesses := w.accesses.set n { a with stage := .passed none, since := w.gtime } })
    (a := { a with stage := .passed none, since := w.gtime }) hmine rfl hacq ha hl
  unfold State.setStage State.accessCheck
  dsimp only at hfin ⊢
  rw [hmine, hfin, State.otherAccesses, hrest]
  have hst' : (State.ctx { w with accesses := w.accesses.set n { a with stage := .passed none, since := w.gtime } } a.agent).st = .parked .check := hst
  simp only [hst', bne_self_eq_false, Bool.false_eq_true, if_false, List.all_cons, List.all_nil, Stage.resolved, Bool.and_true, if_true, List.any_cons,
    List.any_nil, Access.hit, Option.isSome_none, Bool.or_false, Bool.false_and]
  rfl

end

/-- The state after free values have been drawn, with what its slices' L2 then holds. -/
def State.atSlice (s : State) (f : Nat) (kept : List SLine) : State := { s with freeCtr := f, l2 := kept }

theorem Settled.of_atSlice {s u : State} {f : Nat} {kept : List SLine} (h : Settled (s.atSlice f kept) u) :
    ∃ v, Settled s v ∧ v.mem = u.mem ∧ v.l1 = u.l1 ∧ v.longs = u.longs ∧ u = v.atSlice f kept := by
  refine ⟨u.atSlice s.freeCtr s.l2, ⟨?_, h.ctxs, h.longs, h.teams, h.clusters⟩, rfl, rfl, rfl, ?_⟩
  · exact (congrArg (fun t : State => t.atSlice s.freeCtr s.l2) h.rest :)
  · exact h.rest.trans (congrArg (fun t : State => t.atSlice f kept) h.rest :).symm

/-- The access has passed its check point in a state that is the settled one with the results `late`, but for free values and what the slice keeps: the
instruction goes on. -/
theorem AtCheck.goesOn {s : State} {a : Access} {c : Ctx} (h : AtCheck s a c) (hcur : a.agent = s.cur) {u : State} (hs : Settled s u) (late : List Long)
    (hacq : a.op.acq = none ∨ (a.op.acq = some .grp ∧ ∀ l ∈ u.longs ++ late, ∀ t, l.late = some t → t.agent ≠ a.agent)) (f : Nat) (kept : List SLine) :
    ∃ t, ((u.atSlice f kept).withLate late).setStage s.subj.n a (.passed none) = t ∧
      Owes late a.sm (c.pc + 4) { u with accesses := s.otherAccesses a.agent, freeCtr := t.freeCtr, l2 := t.l2 } t := by
  generalize hw : (u.atSlice f kept).withLate late = w
  have hfind := hs.here h.ctx
  rw [show u.findCtx a.agent = w.findCtx a.agent by rw [← hw]; rfl] at hfind
  have hacc : w.accesses = s.accesses := by rw [← hw]; exact (congrArg State.accesses hs.rest :)
  have hctx := ctx_of_find hfind
  have hst : (w.ctx a.agent).st = .parked .check := by rw [hctx]; exact h.parked
  have hpc : (w.ctx a.agent).pc = c.pc := by rw [hctx]
  have hset : w.setStage s.subj.n a (.passed none) = State.retire { w with accesses := w.otherAccesses a.agent, cur := a.agent } a.sm := by
    have hat : w.accesses[s.subj.n]? = some a := by rw [hacc]; exact h.at_
    have honly : (w.accesses.filter fun b => decide (b.agent = a.agent)) = [a] := by rw [hacc]; exact h.only
    rcases hacq with hacq | ⟨hacq, hl⟩
    · exact setStage_passed hat honly hst hacq
    · exact setStage_acquiredGroup hat honly hst hacq (by rw [hctx]; exact h.alone) (by rw [← hw]; exact hl)
  have hother : w.otherAccesses a.agent = s.otherAccesses a.agent := by rw [State.otherAccesses, hacc]; rfl
  refine ⟨_, hset, ?_⟩
  have howes := owes_retire { w with accesses := s.otherAccesses a.agent, cur := a.agent } a.sm
  rw [show (State.ctx { w with accesses := s.otherAccesses a.agent, cur := a.agent } a.agent).pc = c.pc from hpc] at howes
  rw [hother]
  generalize State.retire { w with accesses := s.otherAccesses a.agent, cur := a.agent } a.sm = t at howes ⊢
  have hrest := howes.rest
  have hcur' : u.cur = a.agent := hs.cur.trans hcur.symm
  have hfree : t.freeCtr = f := by rw [hrest, ← hw]; rfl
  have hkept : t.l2 = kept := by rw [hrest, ← hw]; rfl
  have happ := Owes.append (s := { u with accesses := s.otherAccesses a.agent, freeCtr := f, l2 := kept, cur := a.agent }) (first := late) (later := [])
    (by rw [← hw] at howes; exact howes)
  rw [List.append_nil, ← hcur'] at happ
  rw [hfree, hkept]
  exact hcur' ▸ happ

theorem modHome_atSlice (s : State) (line : Nat) (g : HomeLine → HomeLine) (f : Nat) (kept : List SLine) :
    (s.atSlice f kept).modHome line g = (s.modHome line g).atSlice f kept := by
  unfold State.modHome
  by_cases h : (s.home.any fun h => decide (h.line = line)) = true
  · rw [if_pos h]
    exact if_pos h
  · rw [if_neg h]
    exact if_neg h

theorem noteAgent_atSlice (s : State) (a : Option CtxId) (va pa : Nat) (w : Bool) (f : Nat) (kept : List SLine) :
    (s.atSlice f kept).noteAgent a va pa w = (s.noteAgent a va pa w).atSlice f kept := by
  unfold State.noteAgent
  rw [show (a.bind fun a => (s.atSlice f kept).partOf a.cl) = a.bind fun a => s.partOf a.cl from rfl]
  cases a.bind fun a => s.partOf a.cl with
  | none => rfl
  | some p =>
    dsimp only
    unfold State.noteVia
    rw [modHome_atSlice]
    exact (apply_ite (fun t : State => t.atSlice f kept) _ _ _).symm

theorem isAliased_atSlice (s : State) (a : CtxId) (va pa f : Nat) (kept : List SLine) : (s.atSlice f kept).isAliased a va pa = s.isAliased a va pa := rfl

/-- An access whose target is there, and whose data, if it reads them, are not poisoned, is performed at its slice, which keeps the line's translation. -/
theorem checkStage_clean {s : State} {agent : CtxId} {va : Nat} {op : MemOp} {x : Xlat} (hlost : s.lostPeer (x.pa va) = false)
    (hclean : op.reads = false ∨ (s.poisonedAt (x.pa va) op.bytes = false ∧
      (op.isRmw = false ∨ ((s.findLine agent (va / 64)).map L1Line.bad).getD false = false))) :
    ∃ kept, s.checkStage agent agent va op x = (s.atSlice s.freeCtr kept).pagedPerform agent agent va op x := by
  refine ⟨(s.fillSlice (whoOf (s.ctx agent)) va x).l2, ?_⟩
  have hfill : s.fillSlice (whoOf (s.ctx agent)) va x = s.atSlice s.freeCtr (s.fillSlice (whoOf (s.ctx agent)) va x).l2 := fillSlice_rest s _ va x
  unfold State.checkStage
  rw [hfill]
  rcases hclean with hr | ⟨hp, hr | hr⟩
  · simp only [hlost, hr, Bool.and_false, Bool.false_eq_true, if_false]
    rfl
  · simp only [hlost, hp, hr, Bool.false_and, Bool.false_or, Bool.false_eq_true, if_false]
    rfl
  · simp only [hlost, hp, hr, Bool.false_and, Bool.and_false, Bool.false_or, Bool.false_eq_true, if_false]
    rfl

section
variable {s : State} (h : BankIdle s s.cur) {va : Nat} {x : Xlat} (f : Nat) (kept : List SLine)
include h

/-- A load of a WB page of a line that the bank does not hold reads its bytes at the home slice, now or later, or fills the line. -/
theorem pagedPerform_loadAbsent (hline : s.findLine s.cur (va / 64) = none) (hattr : x.attr = 0)
    (hal : (s.noteAgent (some s.cur) va (x.pa va) x.w).isAliased s.cur va (x.pa va) = false) (n : Nat) (sext : Bool) (d : Reg) :
    ∃ u g late, Settled s u ∧ u.mem = s.mem ∧
      (s.atSlice f kept).pagedPerform s.cur s.cur va (.load n sext d 0 none) x = (.passed none, (u.atSlice g kept).withLate late) ∧
      ((∃ l, (l = none ∨ l = some ⟨s.cur, .mem va (x.pa va), n, sext⟩) ∧ late = oneLate s d (extend n sext (leNat (Memory.readN s.mem (x.pa va) n))) l) ∨
        ∃ m, NewLine u s.cur (va / 64) m ∧ m.data = Memory.readN s.mem (x.pa (va / 64 * 64)) 64 ∧ m.dirty = 0 ∧ m.valid = BitVec.allOnes 64 ∧
          m.lease = (s.ctx s.cur).pts + 64 ∧ late = oneLate s d (extend n sext (lineVal m va n)) none) := by
  have hn := settled_noteAgent s (some s.cur) va (x.pa va) x.w
  have hrest := noteAgent_rest s (some s.cur) va (x.pa va) x.w
  have hnl := findLine_noteAgent hline (x.pa va) x.w
  have hidle : BankIdle (s.atSlice f kept) s.cur := h.congr rfl rfl rfl rfl
  unfold State.pagedPerform
  simp only [hidle.orderOwn, noteAgent_atSlice, isAliased_atSlice, hal, Bool.false_eq_true, if_false, show MemOp.bytes (.load n sext d 0 none) = n from rfl]
  generalize s.noteAgent (some s.cur) va (x.pa va) x.w = v at hn hrest hnl ⊢
  have hvidle : BankIdle (v.atSlice (f + 1) kept) s.cur := h.congr (hn.grp s.cur) (by rw [hrest]; rfl) (by rw [hrest]; rfl) (by rw [hrest]; rfl)
  have hvnl : (v.atSlice (f + 1) kept).findLine s.cur (va / 64) = none := hnl
  have hmem : v.mem = s.mem := by rw [hrest]
  rw [show (v.atSlice f kept).findLine s.cur (va / 64) = none from hnl, show (v.atSlice f kept).freshFree = (Config.free f, v.atSlice (f + 1) kept) from rfl]
  by_cases hf : (Config.free f).getLsbD 0 = true
  · have hr := settled_renew (v.atSlice (f + 1) kept) s.cur (x.pa va)
    have hrmem : ((v.atSlice (f + 1) kept).renew s.cur (x.pa va)).2.mem = s.mem := by rw [renew_rest]; exact hmem
    obtain ⟨u, hu, humem, -, -, heq⟩ := Settled.of_atSlice hr
    refine ⟨u, f + 1, _, hn.trans hu, humem.trans hrmem, ?_, .inl ⟨_, .inr rfl, rfl⟩⟩
    simp only [Option.isNone_none, Bool.true_and, hf, if_true]
    rw [laneLong_alone ((hr.grp s.cur).trans hvidle.alone), show (v.atSlice (f + 1) kept).mem = s.mem from hmem, heq]
    rfl
  · obtain ⟨k, m, hk, hkmem, hnew, hdata, hdirty, hvalid, hlease, hfill⟩ := fillLine_absent hvidle hvnl x
    obtain ⟨u, hu, humem, hul1, -, heq⟩ := Settled.of_atSlice hk
    have hpts : ((v.atSlice (f + 1) kept).ctx s.cur).pts = (s.ctx s.cur).pts := by rw [hrest]; rfl
    refine ⟨u, f + 1, _, hn.trans hu, humem.trans (hkmem.trans hmem), ?_, .inr ⟨m, ⟨hnew.cl, hnew.pipe, hnew.line, hul1 ▸ hnew.mem⟩, ?_, hdirty, hvalid,
      hlease.trans (congrArg (· + 64) hpts), rfl⟩⟩
    · simp only [Option.isNone_none, Bool.true_and, hf, if_false, hattr, and_self, if_true, hfill, Bool.false_eq_true]
      rw [laneLong_alone ((hk.grp s.cur).trans hvidle.alone), heq]
      rfl
    · rw [hdata]
      exact congrArg (fun y => Memory.readN y (x.pa (va / 64 * 64)) 64) hmem

/-- A store to a WB page of a line that the bank does not hold makes a line of its bytes. -/
theorem pagedPerform_storeAbsent (hline : s.findLine s.cur (va / 64) = none) (hattr : x.attr = 0) (n : Nat) (v : Word) :
    ∃ u m, Settled s u ∧ u.mem = s.mem ∧
      (s.atSlice f kept).pagedPerform s.cur s.cur va (.store n v 0 none) x = (.passed none, u.atSlice f kept) ∧
      NewLine u s.cur (va / 64) m ∧ m.dirty = BitVec.ofNat 64 ((2 ^ n - 1) * 2 ^ (va % 64)) ∧ m.valid = m.dirty ∧
      ∀ j, va % 64 ≤ j → j < va % 64 + n → j < 64 → m.data[j]? = (leBytes n v.toNat)[j - va % 64]? := by
  have hn := settled_noteAgent s (some s.cur) va (x.pa va) x.w
  have hrest := noteAgent_rest s (some s.cur) va (x.pa va) x.w
  have hnl := findLine_noteAgent hline (x.pa va) x.w
  have hidle : BankIdle (s.atSlice f kept) s.cur := h.congr rfl rfl rfl rfl
  unfold State.pagedPerform
  simp only [hidle.orderOwn, noteAgent_atSlice, show MemOp.bytes (.store n v 0 none) = n from rfl]
  generalize s.noteAgent (some s.cur) va (x.pa va) x.w = r at hn hrest hnl ⊢
  have hrnl : (r.atSlice f kept).findLine s.cur (va / 64) = none := hnl
  have hmem : r.mem = s.mem := by rw [hrest]
  simp only [hrnl, Option.isSome_none, Bool.false_and, Bool.false_eq_true, if_false, hattr, and_self, if_true]
  obtain ⟨m, hs, hsmem, hnew, hdirty, hvalid, hdata⟩ := mergeLine_absent (s := r.atSlice f kept) ((hn.grp s.cur).trans h.alone) hrnl x
    ((r.atSlice f kept).wkind s.cur none false) n v.toNat
  obtain ⟨u, hu, humem, hul1, -, heq⟩ := Settled.of_atSlice hs
  exact ⟨u, m, hn.trans hu, humem.trans (hsmem.trans hmem), congrArg (Prod.mk _) heq, ⟨hnew.cl, hnew.pipe, hnew.line, hul1 ▸ hnew.mem⟩, hdirty, hvalid, hdata⟩

end

theorem Stamped.findLine {s t : State} (h : Stamped s t) (a : CtxId) (line : Nat) : t.findLine a line = s.findLine a line := by
  unfold State.findLine State.bankPipe
  rw [h.settled.groupOf, h.rest]

/-- An atomic at GRP scope of the bank's own bytes works on the line. -/
theorem l1Rmw_held {s : State} {va : Nat} {l : L1Line} (ha : (s.ctx s.cur).grp = none) (hline : s.findLine s.cur (va / 64) = some l)
    (hlen : l.data.length = 64) {n : Nat} (hdirty : maskHas l.dirty (va % 64) n = true) (hvalid : maskHas l.valid (va % 64) n = true) (x : Xlat) {op : RmwOp}
    {v cmp : Word} {new : Nat} (hnew : rmwNew op n (lineVal l va n) v.toNat cmp.toNat = some new) (d : Reg) (rel : Option Scope) :
    ∃ u m, Settled s u ∧ u.mem = s.mem ∧ u.longs = s.longs ∧ m ∈ u.l1 ∧ LinePut l (va % 64) n new m ∧
      s.l1Rmw s.cur s.cur va x op n v cmp d .grp rel = u.withLate (oneLate s d (rmwOld op n (lineVal l va n)) none) := by
  have hr : Stamped s (((s.sawLine s.cur l).takeRels s.cur .grp l.rels (va % 64) n).relWhere s.cur op rel true) :=
    ((stamped_hasRead s s.cur l.wts).trans (stamped_takeRels _ _ _ _ _ _)).trans (stamped_relWhere _ _ _ _ _)
  unfold State.l1Rmw
  simp only [hline, hvalid, renewLine_held ha (.inl hdirty), hnew, Bool.true_and, show (Scope.grp != Scope.clu) = true from rfl, if_true,
    show (Scope.grp = Scope.clu) = False by simp, if_false]
  generalize ((s.sawLine s.cur l).takeRels s.cur .grp l.rels (va % 64) n).relWhere s.cur op rel true = r at hr ⊢
  obtain ⟨m, hmerge, hput⟩ := mergeLine_held ((hr.findLine s.cur (va / 64)).trans hline) hlen x (r.wkind s.cur (some .grp) true) n new
  have hs := hr.settled.trans (settled_putLine r m)
  refine ⟨r.putLine m, m, hs, (congrArg State.mem hr.rest :), (congrArg State.longs hr.rest :), mem_putLine r m, hput, ?_⟩
  rw [hmerge, laneLong_alone ((hs.grp s.cur).trans ha)]
  rfl

/-- The same atomic at its check point. -/
theorem pagedPerform_amoHeld {s : State} {va : Nat} {l : L1Line} (h : LineHeld s s.cur va l) {n : Nat} (hdirty : maskHas l.dirty (va % 64) n = true)
    (hvalid : maskHas l.valid (va % 64) n = true) {x : Xlat} (hattr : x.attr ≠ 2) {op : RmwOp} {v cmp : Word} {new : Nat}
    (hnew : rmwNew op n (lineVal l va n) v.toNat cmp.toNat = some new) (d : Reg) {o : Order} (ho : o ≠ .sc) (f : Nat) (kept : List SLine) :
    ∃ u m, Settled s u ∧ u.mem = s.mem ∧ u.longs = s.longs ∧ m ∈ u.l1 ∧ LinePut l (va % 64) n new m ∧
      (s.atSlice f kept).pagedPerform s.cur s.cur va (.amo op n v cmp d .grp o) x =
        (.passed none, (u.atSlice f kept).withLate (oneLate s d (rmwOld op n (lineVal l va n)) none)) := by
  have hn := settled_noteAgent s (some s.cur) va (x.pa va) x.w
  have hrest := noteAgent_rest s (some s.cur) va (x.pa va) x.w
  have hidle : BankIdle (s.atSlice f kept) s.cur := h.idle.congr rfl rfl rfl rfl
  unfold State.pagedPerform
  simp only [hidle.orderOwn, noteAgent_atSlice, ho, hattr, if_false, ne_eq, not_false_eq_true, true_or, and_self, if_true,
    show MemOp.bytes (.amo op n v cmp d .grp o) = n from rfl]
  generalize s.noteAgent (some s.cur) va (x.pa va) x.w = r at hn hrest ⊢
  have hline : (r.atSlice f kept).findLine s.cur (va / 64) = some l := by rw [hrest]; exact h.line
  have hcur : (r.atSlice f kept).cur = s.cur := hn.cur
  obtain ⟨k, m, hk, hkmem, hklongs, hm, hput, hrmw⟩ := l1Rmw_held (s := r.atSlice f kept) (by rw [hcur]; exact (hn.grp s.cur).trans h.alone)
    (by rw [hcur]; exact hline) h.bytes hdirty hvalid x hnew d (if orderReleases o then some .grp else none)
  rw [hcur] at hrmw
  obtain ⟨u, hu, humem, hul1, hulongs, heq⟩ := Settled.of_atSlice hk
  have hmem : r.mem = s.mem := by rw [hrest]
  have hlongs : r.longs = s.longs := by rw [hrest]
  refine ⟨u, m, hn.trans hu, humem.trans (hkmem.trans hmem), hulongs.trans (hklongs.trans hlongs), hul1 ▸ hm, hput, ?_⟩
  rw [hrmw, heq]
  unfold oneLate
  rw [hcur]

/-- The access of the issuing context at its check point has been performed: its instruction goes on. -/
theorem AtCheck.performed {s : State} {q : Access} {c : Ctx} (h : AtCheck s q c) (hcur : q.agent = s.cur) {x : Xlat} (hstage : q.stage = .check x) {u : State}
    (hs : Settled s u) {late : List Long} {f : Nat} {kept : List SLine}
    (hperf : s.checkStage s.cur s.cur q.va q.op x = (.passed none, (u.atSlice f kept).withLate late))
    (hacq : q.op.acq = none ∨ (q.op.acq = some .grp ∧ ∀ l ∈ u.longs ++ late, ∀ t, l.late = some t → t.agent ≠ s.cur)) :
    Runs .checkPointPass s fun t => Owes late q.sm (c.pc + 4)
      { u with accesses := s.accesses.filter fun b => !decide (b.agent = s.cur), freeCtr := t.freeCtr, l2 := t.l2 } t := by
  obtain ⟨t, ht, howes⟩ := h.goesOn hcur hs late (by rw [hcur]; exact hacq) f kept
  refine ⟨t, ?_, ?_⟩
  · rw [exec_checkPointPass h.at_ hstage, h.lane, hcur, hperf]
    exact congrArg Host.Outcome.next ht
  · rw [hcur] at howes
    exact howes

theorem extend_bytes (w : Fin 8) (l : List Byte) (i : Nat) : extend (2 ^ (w.val / 2)) (decide (w.val % 2 = 0)) (leNat ((l.drop i).take (2 ^ (w.val / 2)))) =
    (let m := leNat ((l.drop i).take (2 ^ (w.val / 2)))
     if w.val % 2 = 0 then (BitVec.ofNat (8 * 2 ^ (w.val / 2)) m).signExtend 64 else (BitVec.ofNat (8 * 2 ^ (w.val / 2)) m).setWidth 64) := by
  rw [extend_eq (List.length_take_le _ _)]
  simp only [decide_eq_true_eq]

/-- Settles O19: at its issue an access works on the line that the bank holds, which a load renews first where it must; at its check point a load or a store of
a line that the bank does not hold reads memory or makes the line, and an atomic at GRP scope works on it. -/
theorem cachedAccesses : Obligations.CachedAccesses := by
  unfold Obligations.CachedAccesses
  intro s sm d a w h o l n va c who i own val held inLease
  have hld : ∀ cc, s.findCtx s.cur = some cc → LineHeld s s.cur va l →
      exec (.ld sm d a w h o) s = .next (s.issueMem sm [(s.cur, s.accAddr a w o, .load n (decide (w.val % 2 = 0)) d h.val none)]) :=
    fun cc hc hl => loadOp_alone hc hl.alone sm d a w o h.val none
  have hst : ∀ cc, s.findCtx s.cur = some cc → LineHeld s s.cur va l →
      exec (.st sm d a w h o) s = .next (s.issueMem sm [(s.cur, s.accAddr a w o, .store n (s.rg s.cur d) h.val none)]) :=
    fun cc hc hl => storeOp_alone hc hl.alone sm d a w o h.val none
  have hhint : h ≠ 2 → h.val ≠ 2 := fun hne he => hne (Fin.ext he)
  refine ⟨?_, ?_, ?_⟩
  · rintro ⟨hhere, hl, hlow, hreg, hn, hacc⟩ hh hvalid hchk hbad hpoison
    obtain ⟨cc, hc⟩ := Option.isSome_iff_exists.mp hhere
    have hcc : c = cc := ctx_of_find hc
    have hval : ∀ m : L1Line, extend n (decide (w.val % 2 = 0)) (lineVal m va n) = val m.data := fun m => extend_bytes w m.data i
    have hmask : ∀ y : BitVec 64, (own &&& y = own) = (maskHas y i n = true) := fun y => propext decide_eq_true_iff.symm
    rw [hmask] at hvalid hpoison
    refine ⟨fun huse => ?_, fun hdirty hwhole hfar hold => ?_⟩
    · rw [hmask] at huse
      obtain ⟨u, hs, hmem, hls, hl1, hmts, howes⟩ := issueMem_loadHeld hc hl hlow hreg hacc hn (sext := decide (w.val % 2 = 0)) (d := d) (hhint hh) hvalid hchk
        hbad hpoison huse sm
      rw [hval, ← hcc] at howes
      exact ⟨_, hld cc hc hl, u, hs, hmem, hls, hl1, hmts, howes⟩
    · rw [ne_eq, hmask, Bool.not_eq_true] at hdirty
      obtain ⟨u, m, hs, hmem, hls, hl1, hsame, hlease, hwts, hmdirty, htick, hdata, howes⟩ := issueMem_loadRenewed hc hl hlow hreg hacc hn
        (sext := decide (w.val % 2 = 0)) (d := d) (hhint hh) hwhole hfar hchk hbad hdirty (hpoison.resolve_right (by rw [hdirty]; nofun)) hold sm
      rw [hval, ← hcc] at howes
      exact ⟨_, hld cc hc hl, u, m, hs, hmem, hls, hl1, hsame, hlease, hwts, hmdirty, htick, hdata, howes⟩
  · rintro ⟨hhere, hl, hlow, hreg, hn, hacc⟩ hh hpriv hkey hwrite hdset
    obtain ⟨cc, hc⟩ := Option.isSome_iff_exists.mp hhere
    have hcc : c = cc := ctx_of_find hc
    obtain ⟨u, m, hs, hmem, hls, hwrites, hl1, hput, howes⟩ := issueMem_storeHeld hc hl hlow hreg hacc hn (v := s.rg s.cur d) (hhint hh) hpriv hkey hwrite
      hdset sm
    rw [← hcc] at howes
    exact ⟨_, hst cc hc hl, u, m, hs, hmem, hls, hwrites, hl1, hput, howes⟩
  · intro q x hat hstage hagent hlane hhere hparked honly hgrp hw hr hlongs hal hlost rest after k
    obtain ⟨cc, hc⟩ := Option.isSome_iff_exists.mp hhere
    have hcc : c = cc := ctx_of_find hc
    have hcheck : AtCheck s q c :=
      ⟨hat, by rw [hagent, hcc]; exact hc, hlane.trans hagent.symm, hgrp, hparked, by rw [hagent]; exact honly⟩
    have hidle := bankIdle_of hgrp hw hr hlongs
    refine ⟨fun hline hattr => ⟨fun n sext d hop hpoison => ?_, fun n v hop => ?_⟩, ?_⟩
    · obtain ⟨kept, hperf⟩ := checkStage_clean (agent := s.cur) (op := q.op) hlost (.inr ⟨by rw [hop]; exact hpoison, .inl (by rw [hop]; rfl)⟩)
      obtain ⟨u, g, late, hs, hmem, hload, hcases⟩ := pagedPerform_loadAbsent hidle s.freeCtr kept hline hattr hal n sext d
      obtain ⟨t, ht, howes⟩ := hcheck.performed hagent hstage hs (hperf.trans (by rw [hop]; exact hload)) (.inl (by rw [hop]; rfl))
      refine ⟨t, ht, u, hs, hmem, ?_⟩
      rcases hcases with ⟨y, hy, rfl⟩ | ⟨m, hnew, hdata, hdirty, hvalid, hlease, rfl⟩
      · exact .inl ⟨y, hy, howes⟩
      · exact .inr ⟨m, hnew.mem, hnew.cl, hnew.pipe, hnew.line, hdata, hdirty, hvalid, hlease, howes⟩
    · obtain ⟨kept, hperf⟩ := checkStage_clean (agent := s.cur) (op := q.op) hlost (.inl (by rw [hop]; rfl))
      obtain ⟨u, m, hs, hmem, hstore, hnew, hdirty, hvalid, hdata⟩ := pagedPerform_storeAbsent hidle s.freeCtr kept hline hattr n v
      obtain ⟨t, ht, howes⟩ := hcheck.performed hagent hstage hs (late := [])
        (hperf.trans (by rw [hop, hstore, State.withLate, List.append_nil])) (.inl (by rw [hop]; rfl))
      exact ⟨t, ht, u, hs, hmem, ⟨m, hnew.mem, hnew.cl, hnew.pipe, hnew.line, hdirty, hvalid, hdata⟩, howes⟩
    · intro op n v cmp d ord new hop hord _ hattr hl hbad hpoison hdirty hvalid hnew
      obtain ⟨kept, hperf⟩ := checkStage_clean (agent := s.cur) (op := q.op) hlost
        (.inr ⟨by rw [hop]; exact hpoison, .inr (by rw [hl.line]; exact hbad)⟩)
      obtain ⟨u, m, hs, hmem, hulongs, hm, hput, hamo⟩ := pagedPerform_amoHeld hl (decide_eq_true hdirty) (decide_eq_true hvalid) hattr hnew d hord s.freeCtr kept
      obtain ⟨t, ht, howes⟩ := hcheck.performed hagent hstage hs (hperf.trans (by rw [hop]; exact hamo)) (by
        rw [hop, hulongs]
        cases hacq : orderAcquires ord with
        | false => exact .inl (by simp [MemOp.acq, hacq])
        | true => exact .inr ⟨by simp [MemOp.acq, hacq], notLate_append hlongs _ _ _⟩)
      exact ⟨t, ht, u, m, hs, hmem, hm, hput, howes⟩

end Sys2Proof.Machine
end

section
/-! Copy events (O41): a bulk copy into vector registers whose bytes are not in canonical form. -/
namespace Sys2Proof.Machine

/-- One f32 element at byte o of the vector registers. -/
def oneF32At (o : Nat) : View := { oneF32 with base := 0xC2 * 2 ^ 48 + o }

/-- A bulk copy of the element at byte 64 to the one at byte 0. -/
def copyOne : Copy where
  by_ := { ctx := ⟨0, 0, 0⟩, priv := .user, domain := 0, team := none, wds := [] }
  kind := 0
  sub := 0
  d := oneF32At 0
  s := oneF32At 64
  ix := none
  tag := 0
  ring := none
  oc := 0

/-- It is the only command of the copy unit, and its source reads 0. The keys of the vector registers' bytes do not rise. -/
def unsortedCopy : State := { State.reset with copies := [copyOne], vrs := [(5, 1), (0, 7)] }

/-- The only tuple of one element. -/
theorem tup_of_oneF32At {o : Nat} {i : Tup} (h : (oneF32At o).holds i) : i = (0, 0, 0, 0) := by
  obtain ⟨i0, i1, i2, i3⟩ := i
  have hext : ∀ k < 4, (oneF32At o).ext k = 1 := fun k hk => (show ∀ k < 4, oneF32.ext k = 1 by decide) k hk
  obtain ⟨h0, h1, h2, h3⟩ := h
  simp only [hext _ (show 0 < 4 by decide), hext _ (show 1 < 4 by decide), hext _ (show 2 < 4 by decide), hext _ (show 3 < 4 by decide),
    Nat.lt_one_iff] at h0 h1 h2 h3
  rw [h0, h1, h2, h3]

theorem oneF32At_inRegs {o : Nat} (hbase : (oneF32At o).base / 2 ^ 48 = 0xC2)
    (hinside : 0 ≤ (oneF32At o).vrByte (0, 0, 0, 0) ∧ (oneF32At o).vrByte (0, 0, 0, 0) + (oneF32At o).width ≤ 2 ^ 18) : InRegs (oneF32At o) :=
  ⟨hbase, (by decide : 8 ≤ tyBits 2), fun i hi => by rw [tup_of_oneF32At hi]; exact hinside,
    fun i j hi hj _ => (tup_of_oneF32At hi).trans (tup_of_oneF32At hj).symm⟩

theorem copyOne_disjoint : Disjoint2 copyOne.d copyOne.s := fun i j hi hj => by
  rw [tup_of_oneF32At hi, tup_of_oneF32At hj]
  decide

/-- Writing a zero over a byte whose key stands behind a greater one leaves the byte. -/
theorem copyOne_leaves_byte {t : State} (ht : exec .copyComplete unsortedCopy = .next t) : vrCode t ⟨0, 0, 0⟩ copyOne.d (copyOne.d.tup 0) = 7 := by
  have run : (match exec .copyComplete unsortedCopy with
    | .next t => decide (vrCode t ⟨0, 0, 0⟩ copyOne.d (copyOne.d.tup 0) = 7)
    | _ => false) = true := by decide +kernel
  rw [ht] at run
  exact of_decide_eq_true run

/-- Refutes O41: its clauses of the bytes moved do not ask for the canonical form of the vector registers, without which a byte that is written as 0 may
read as before. In `unsortedCopy` an element of zeros is copied, and the code in its place stays 7. -/
theorem not_copyEvents : ¬ Obligations.CopyEvents := by
  unfold Obligations.CopyEvents
  rintro ⟨-, hMoves⟩
  obtain ⟨hBulk, -⟩ := hMoves unsortedCopy copyOne rfl rfl rfl rfl rfl rfl rfl rfl rfl (oneF32At_inRegs (by decide) (by decide))
    (oneF32At_inRegs (by decide) (by decide)) copyOne_disjoint rfl
  obtain ⟨t, ht, -, hBytes⟩ := hBulk rfl rfl
  have zero : vrCode t ⟨0, 0, 0⟩ copyOne.d (copyOne.d.tup 0) = 0 := (congrArg leNat (hBytes 0 (by decide))).trans (by decide)
  rw [copyOne_leaves_byte ht] at zero
  exact absurd zero (by decide)

end Sys2Proof.Machine
end

section
/-! Acquires and releases of a fence by a context that runs alone, whatever of its traffic is on its way (R147). -/
namespace Sys2Proof.Machine

/-! ### Late loads that read their bytes -/

/-- Context id has observed more, and its pts has stayed. -/
def MtsRaised (id : CtxId) (s t : State) : Prop := (t.ctx id).pts = (s.ctx id).pts ∧ (s.ctx id).mts ≤ (t.ctx id).mts

theorem mtsRaised_hasRead (id : CtxId) (s : State) (a : CtxId) (wts : Nat) : MtsRaised id s (s.hasRead a wts) :=
  ⟨part_modCtx Ctx.pts s _ id (by intro; rfl) (by intro; rfl), (stamped_hasRead s a wts).mts id⟩

theorem mtsRaised_lateSeen (id : CtxId) (s : State) (l : Late) : MtsRaised id s (s.lateSeen l) := by
  unfold State.lateSeen
  split
  · split
    · exact mtsRaised_hasRead _ _ _ _
    · exact mtsRaised_hasRead _ _ _ _
  · exact ⟨rfl, le_rfl⟩

theorem mtsRaised_lateSeens (id : CtxId) : ∀ (ls : List Late) (s : State), MtsRaised id s (ls.foldl State.lateSeen s)
  | [], _ => ⟨rfl, le_rfl⟩
  | l :: r, s => by
    obtain ⟨hpts, hmts⟩ := mtsRaised_lateSeen id s l
    obtain ⟨hpts', hmts'⟩ := mtsRaised_lateSeens id r (s.lateSeen l)
    exact ⟨hpts'.trans hpts, hmts.trans hmts'⟩

theorem mtsRaised_settleLate (id : CtxId) (s : State) (f : Late → Bool) : MtsRaised id s (s.settleLate f) := mtsRaised_lateSeens id _ _

/-- None of the loads that were to read their bytes is late any more. -/
theorem settleLate_notLate (s : State) (a : CtxId) :
    ∀ l ∈ (s.settleLate fun t => decide (t.agent = a)).longs, ∀ t, l.late = some t → t.agent ≠ a := by
  have hlongs : (s.settleLate fun t => decide (t.agent = a)).longs = s.longs.map fun l => match l.late with
      | some t => if decide (t.agent = a) then { l with val := s.readLate t, late := none } else l
      | none => l := congrArg State.longs (foldl_lateSeen_rest _ _)
  rw [hlongs]
  intro l hl t ht
  obtain ⟨k, -, rfl⟩ := List.mem_map.mp hl
  split at ht
  next q hq =>
    split at ht
    · cases ht
    next hne =>
      rw [hq] at ht
      cases ht
      simpa using hne
  next hq => rw [hq] at ht; cases ht

/-! ### Acquires -/

/-- Above GRP scope an acquire raises the context's timestamps, and nothing else of it. -/
theorem findCtx_acquireAlone {s : State} {a : CtxId} {c : Ctx} (hc : s.findCtx a = some c) {sc : Scope} (hsc : sc ≠ .grp) :
    (s.acquireAlone a sc).findCtx a = some (acquireStamp sc c) := by
  have hctxs : (s.acquireAlone a sc).ctxs = (s.modCtx a (acquireStamp sc)).ctxs := by
    cases sc with
    | grp => exact absurd rfl hsc
    | clu => rfl
    | dev => rfl
    | sys => exact (congrArg State.ctxs (dropFar_rest (s.modCtx a (acquireStamp .sys)) a) :)
  unfold State.findCtx
  rw [hctxs]
  exact findCtx_modCtx_self hc (by intro; rfl)

/-- An acquire is one of a context none of whose loads are late, once they have read their bytes. -/
theorem acquire_settled {s : State} {a : CtxId} (ha : (s.ctx a).grp = none) (sc : Scope) :
    s.acquire a sc = (s.settleLate fun t => decide (t.agent = a)).acquireAlone a sc := by
  have hlate := settleLate_notLate s a
  have hgrp := ((settled_settleLate s fun t => decide (t.agent = a)).grp a).trans ha
  rw [← acquire_alone hgrp hlate]
  unfold State.acquire
  rw [settleLate_of_none (s := s.settleLate fun t => decide (t.agent = a)) fun l hl t ht => by simpa using hlate l hl t ht]

/-- The context's pts is raised to what its group has observed, now or before (R124). -/
def Raised (s : State) (c : Ctx) (t : State) : Prop := (t.ctx s.cur).pts = max c.pts (t.ctx s.cur).mts ∧ c.mts ≤ (t.ctx s.cur).mts

/-- The acquire of a fence has taken effect: timestamps are raised, and no byte has changed. -/
structure FenceAcquired (s : State) (c : Ctx) (u : State) : Prop where
  settled : Settled s u
  mem : u.mem = s.mem
  ls : u.ls = s.ls
  raised : Raised s c u

/-- The instruction has completed behind memory traffic that has settled, and no byte has changed. -/
def Settles (sm : Bool) (s : State) (c : Ctx) (t : State) : Prop := ∃ u, Settled s u ∧ u.mem = s.mem ∧ u.ls = s.ls ∧ Owes [] sm (c.pc + 4) u t

section
variable {s : State} {c : Ctx} (hc : s.findCtx s.cur = some c)
include hc

theorem fenceAcquired (ha : c.grp = none) (sc : Scope) : FenceAcquired s c (s.fenceAcquire sc) := by
  have hv := settled_settleLate s fun t => decide (t.agent = s.cur)
  have hrest := settleLate_rest s fun t => decide (t.agent = s.cur)
  have hobs := mtsRaised_settleLate s.cur s fun t => decide (t.agent = s.cur)
  have hlate := settleLate_notLate s s.cur
  have hacq := acquire_settled (grp_cur hc ha) sc
  unfold State.fenceAcquire State.acquireLocal
  generalize (s.settleLate fun t => decide (t.agent = s.cur)) = v at hv hrest hobs hlate hacq ⊢
  have hmem : v.mem = s.mem := by rw [hrest]
  have hls : v.ls = s.ls := by rw [hrest]
  have hfind := hv.here hc
  have hgrp := (hv.grp s.cur).trans (grp_cur hc ha)
  have hstamp : ∀ u : State, u.findCtx s.cur = some (acquireStamp sc { c with pts := (v.ctx s.cur).pts, mts := (v.ctx s.cur).mts, vis := (v.ctx s.cur).vis }) →
      Raised s c u := fun u hu => by
    obtain ⟨hpts, hmts⟩ := hobs
    rw [ctx_of_find hc] at hpts hmts
    rw [Raised, ctx_of_find hu]
    exact ⟨congrArg (max · _) hpts, hmts⟩
  by_cases hsc : sc = .grp
  · subst hsc
    rw [if_pos rfl, State.raisePts, leader_alone hgrp]
    refine ⟨hv.trans (settled_modCtx _ _ _ fun _ => ⟨_, _, _, rfl⟩), hmem, hls, hstamp _ ?_⟩
    exact findCtx_modCtx_self hfind (by intro; rfl)
  · rw [if_neg hsc, hacq]
    obtain ⟨hmem', hls'⟩ := acquireAlone_bytes v s.cur sc
    exact ⟨hv.trans (settled_acquireAlone hgrp hlate sc), hmem'.trans hmem, hls'.trans hls,
      hstamp _ (findCtx_acquireAlone hfind hsc)⟩

omit hc in
/-- Going on leaves timestamps. -/
theorem Raised.retire {u : State} (h : Raised s c u) (sm : Bool) : Raised s c (u.retire sm) := by
  have hpts : ((u.retire sm).ctx s.cur).pts = (u.ctx s.cur).pts := part_modCtx Ctx.pts u _ _ (by intro; rfl) (by intro; rfl)
  have hmts : ((u.retire sm).ctx s.cur).mts = (u.ctx s.cur).mts := part_modCtx Ctx.mts u _ _ (by intro; rfl) (by intro; rfl)
  rw [Raised, hpts, hmts]
  exact h

theorem settles_retire {u : State} (hu : Settled s u) (hmem : u.mem = s.mem) (hls : u.ls = s.ls) (sm : Bool) : Settles sm s c (u.retire sm) := by
  have howes := owes_retire u sm
  rw [hu.pc, hu.cur, ctx_of_find hc] at howes
  exact ⟨u, hu, hmem, hls, howes⟩

/-! ### Releases -/

/-- The state after the release of a context whose traffic is all performed. -/
def State.releasedAt (s : State) (sc : Scope) : State := if sc = .grp then s else s.releasePts s.cur sc

omit hc in
theorem Quiet.releaseThen_eq (hq : Quiet s) (sc : Scope) (k : State → State) : s.releaseThen sc k = k (s.releasedAt sc) := by
  unfold State.releasedAt
  by_cases hsc : sc = .grp
  · subst hsc
    unfold State.releaseThen
    simp only [hq.lost, State.release, if_true, hq.settleLate]
  · rw [if_neg hsc]
    exact hq.releaseThen hsc k

omit hc in
theorem stamped_releasedAt (sc : Scope) : Stamped s (s.releasedAt sc) := by
  unfold State.releasedAt
  split
  · exact Stamped.refl s
  · exact stamped_modCtx _ _ _ fun _ => ⟨_, _, _, le_rfl, rfl⟩

/-- A release raises the context's pts to what its group has observed, at most. -/
theorem findCtx_releasedAt (ha : c.grp = none) (sc : Scope) :
    ∃ p v, c.pts ≤ p ∧ p ≤ max c.pts c.mts ∧ (s.releasedAt sc).findCtx s.cur = some { c with pts := p, vis := v } := by
  unfold State.releasedAt
  split
  · exact ⟨c.pts, c.vis, le_rfl, le_max_left _ _, hc⟩
  · exact ⟨_, _, le_max_left _ _, le_rfl, findCtx_releasePts hc ha sc⟩

/-- Behind a release, an acquire raises timestamps as without it. -/
theorem fenceAcquired_releasedAt (ha : c.grp = none) (sc : Scope) : FenceAcquired s c ((s.releasedAt sc).fenceAcquire sc) := by
  have hr : Stamped s (s.releasedAt sc) := stamped_releasedAt sc
  obtain ⟨p, v, hp, hp', hfind⟩ := findCtx_releasedAt hc ha sc
  generalize s.releasedAt sc = r at hr hfind ⊢
  rw [← hr.cur] at hfind
  obtain ⟨hsettled, hmem, hls, hpts, hmts⟩ := fenceAcquired hfind ha sc
  rw [hr.cur] at hpts hmts
  refine ⟨hr.settled.trans hsettled, by rw [hmem, hr.rest], by rw [hls, hr.rest], ?_, hmts⟩
  dsimp only at hpts hmts
  omega

end

/-! ### A release that waits, and one that reports a lost write -/

theorem mem_writes_writeBacks {w : PWrite} : ∀ (ls : List L1Line) {s : State}, w ∈ s.writes → w ∈ (ls.foldl State.writeBack s).writes
  | [], _, h => h
  | l :: r, s, h => mem_writes_writeBacks r (by
      unfold State.writeBack
      split
      · exact h
      · exact List.mem_append_left _ h)

/-- Writes that have left are still on their way behind the first part of a release. -/
theorem mem_writes_releaseStart {s : State} {w : PWrite} (hw : w ∈ s.writes) (a : CtxId) : w ∈ (s.releaseStart a).writes :=
  mem_writes_writeBacks _ (by rw [settleLate_rest]; exact hw)

section
variable {s : State} {c : Ctx} (hc : s.findCtx s.cur = some c)
include hc

/-- A release above GRP scope waits for the writes of its bank. -/
theorem releaseThen_waits (hl : c.lostWrite = none) {sc : Scope} (hsc : sc ≠ .grp) (hw : ∃ w ∈ s.writes, s.sameBank s.cur w = true) (k : State → State) :
    s.releaseThen sc k = (s.releaseStart s.cur).waitFor (.performed sc) := by
  have hu : (s.releaseStart s.cur).unperformed s.cur = true := by
    obtain ⟨w, hmem, hsame⟩ := hw
    have hsame' : (s.releaseStart s.cur).sameBank s.cur w = true := by
      rw [← hsame, State.sameBank, State.ownsPipe, (settled_releaseStart s s.cur).groupOf]
      rfl
    have hany := List.any_eq_true.mpr ⟨w, mem_writes_releaseStart hmem s.cur, hsame'⟩
    simp [State.unperformed, hany]
  unfold State.releaseThen
  rw [ctx_of_find hc, hl]
  simp [State.release, hsc, hu]

/-- The report of a lost write is taken. -/
def forgetLost (c : Ctx) : Ctx := { c with lostWrite := none }

theorem Trappable.forgetLost (h : Trappable s s.cur) : Trappable (s.modCtx s.cur forgetLost) s.cur := by
  have hfind := findCtx_modCtx_self (f := Machine.forgetLost) hc (by intro; rfl)
  have hctx := ctx_of_find hfind
  obtain ⟨-, alone, booted, level, clean, answered⟩ := h
  rw [ctx_of_find hc] at alone level
  unfold State.poisonOf at clean
  rw [ctx_of_find hc] at clean
  exact ⟨by rw [hfind]; rfl, by rw [hctx]; exact alone, booted, by rw [hctx]; exact level, by rw [State.poisonOf, hctx]; exact clean, answered⟩

/-- A trap taken behind the report is the trap that the context would have taken before. -/
theorem TookTrap.of_forgetLost (ha : c.grp = none) {cause status : Nat} {val pc : Word} {t : State}
    (h : TookTrap s.cur cause status val pc (s.modCtx s.cur forgetLost) t) : TookTrap s.cur cause status val pc s t := by
  have hctx := ctx_of_find (findCtx_modCtx_self (f := forgetLost) hc (by intro; rfl))
  have hteam : ((s.modCtx s.cur forgetLost).ctx s.cur).team = (s.ctx s.cur).team := by rw [hctx, ctx_of_find hc]; rfl
  obtain ⟨v, hv, hfl⟩ := flush_alone s (grp_cur hc ha)
  have hf : (s.flushLongs s.cur).findCtx s.cur = some { c with g := (v.ctx s.cur).g, p := (v.ctx s.cur).p } := by
    have e : (s.flushLongs s.cur).findCtx s.cur = v.findCtx s.cur := by rw [hfl]; rfl
    rw [e, hv.ctxs, hc, Option.map_some, if_pos rfl]
  have hregs' : (((s.modCtx s.cur forgetLost).flushLongs s.cur).ctx s.cur) = forgetLost ((s.flushLongs s.cur).ctx s.cur) := by
    rw [flushLongs_modCtx (by intro; rfl) (by intros; rfl) (by intros; rfl) s s.cur (by intro; rfl), ctx_modCtx_self hf (by intro; rfl), ctx_of_find hf]
  obtain ⟨htl, hepc, hcause, heval, hestat, hbank, hpriv, hpc, hready, hregs, hkept, hothers, hwaits, hrest⟩ := h
  rw [hctx] at htl hepc hcause heval hestat hbank hpriv hpc hkept
  rw [hregs'] at hregs
  obtain rfl := ctx_of_find hc
  refine ⟨htl, hepc, hcause, heval, hestat, hbank, hpriv, hpc, hready, hregs, hkept, fun j hj => ?_, hwaits.trans (leaveBlocks_teams hteam rfl), hrest⟩
  rw [hothers j hj, findCtx_modCtx _ _ _ (by intro; rfl), if_neg hj]

/-- A release at SYS scope traps where a write has been lost (R458). -/
theorem trapsWith_of_lost {i : Instr} {v : Word} (hl : c.lostWrite = some v) {k : State → State} (hexec : exec i s = .next (s.releaseThen .sys k)) :
    TrapsWith i cPROTECTION 4 v s := by
  intro ht
  have ha : c.grp = none := by rw [← ctx_of_find hc]; exact ht.alone
  have hpc : ((s.modCtx s.cur forgetLost).ctx s.cur).pc = (s.ctx s.cur).pc := part_modCtx Ctx.pc s _ _ (by intro; rfl) (by intro; rfl)
  have htrap := tookTrap_trapAll (s := s.modCtx s.cur forgetLost) (ht.forgetLost hc) cPROTECTION 4 v
  have hrel : s.releaseThen .sys k = (s.modCtx s.cur forgetLost).trapAll cPROTECTION 4 v := by
    unfold State.releaseThen
    rw [ctx_of_find hc, hl]
    rfl
  refine ⟨_, hexec, ?_⟩
  rw [hrel, ← hpc]
  exact htrap.of_forgetLost hc ha

end

end Sys2Proof.Machine
end

section
/-! Announcements of sc operations (R148, R149), and fences (O22). -/
namespace Sys2Proof.Machine

/-! ### What an announcement leaves -/

/-- The agent has announced its operations and waits: in the window of a stamp of its cluster's clock, or in a later one where that has no room. -/
structure Announces (a : CtxId) (ops : List (CtxId × Place × MemOp)) (sm : Bool) (win g : Nat) (u t : State) : Prop where
  stamp : Stamp u a.cl g
  later : g / 16 ≤ win
  room : (u.scops.filter fun o => decide (o.agent.cl = a.cl ∧ o.window = g / 16)).length < 4 → win = g / 16
  scops : t.scops = u.scops ++ [{ agent := a, window := win, seq := u.scSeq, closed := false, ops := ops, sm := sm }]
  seq : t.scSeq = u.scSeq + 1
  ctx : ∀ c, u.findCtx a = some c → t.ctx a = { c with st := .waiting .scDone u.gtime, woken := false }
  rest : t = { u with ctxs := t.ctxs, scops := t.scops, scSeq := t.scSeq, freeCtr := t.freeCtr, clusters := t.clusters }

/-- Of the windows from `now` on, the first that a test picks; `now` where it picks none. -/
theorem find_window (f : Nat → Bool) (n now : Nat) :
    now ≤ ((((List.range (n + 1)).map (now + ·)).find? f).getD now) ∧ (f now = true → (((List.range (n + 1)).map (now + ·)).find? f).getD now = now) := by
  refine ⟨?_, fun h => ?_⟩
  · cases hw : ((List.range (n + 1)).map (now + ·)).find? f with
    | none => exact le_rfl
    | some w =>
      obtain ⟨i, -, rfl⟩ := List.mem_map.mp (List.mem_of_find?_eq_some hw)
      exact Nat.le_add_right now i
  · rw [List.range_succ_eq_map, List.map_cons, Nat.add_zero, List.find?_cons_of_pos h, Option.getD_some]

theorem announces_announce (u : State) (a : CtxId) (ops : List (CtxId × Place × MemOp)) (sm : Bool) :
    ∃ win g, Announces a ops sm win g u (u.announce a ops sm) := by
  obtain ⟨g, k, hg, hread⟩ := readGtime_eq u a.cl
  unfold State.announce
  rw [hread]
  dsimp only
  obtain ⟨hlater, hroom⟩ := find_window
    (fun w => decide ((u.scops.filter fun o => decide (o.agent.cl = a.cl ∧ o.window = w)).length < 4)) u.scops.length (g / 16)
  refine ⟨_, g, hg, hlater, fun h => hroom (decide_eq_true h), rfl, rfl, fun c hc => ?_, rfl⟩
  refine ctx_of_find (findCtx_modCtx_self (f := fun c : Ctx => { c with st := .waiting .scDone u.gtime, woken := false }) ?_ (by intro; rfl))
  exact hc

/-- The announcement of a context that runs alone, behind memory traffic that has settled: it stands at its instruction, and no byte has changed. -/
def Announced (ops : List (CtxId × Place × MemOp)) (sm : Bool) (s : State) (c : Ctx) (t : State) : Prop :=
  ∃ u win g, Settled s u ∧ u.mem = s.mem ∧ u.ls = s.ls ∧ Stamp s s.cur.cl g ∧ g / 16 ≤ win ∧
    ((s.scops.filter fun o => decide (o.agent.cl = s.cur.cl ∧ o.window = g / 16)).length < 4 → win = g / 16) ∧
    t.scops = s.scops ++ [{ agent := s.cur, window := win, seq := s.scSeq, closed := false, ops := ops, sm := sm }] ∧ t.scSeq = s.scSeq + 1 ∧
    (t.ctx s.cur).st = .waiting .scDone s.gtime ∧ (t.ctx s.cur).pc = c.pc ∧ (t.ctx s.cur).g = c.g ∧
    t = { u with ctxs := t.ctxs, scops := t.scops, scSeq := t.scSeq, freeCtr := t.freeCtr, clusters := t.clusters }

/-- Announced where the contexts stand as in v, of which the agent's is at its instruction. -/
theorem announced_of_settled {s u v : State} {c k : Ctx} (hu : Settled s u) (hmem : u.mem = s.mem) (hls : u.ls = s.ls)
    (hv : v = { u with ctxs := v.ctxs }) (hk : v.findCtx s.cur = some k) (hpc : k.pc = c.pc) (hg : k.g = c.g) (ops : List (CtxId × Place × MemOp)) (sm : Bool) :
    Announced ops sm s c (v.announce s.cur ops sm) := by
  obtain ⟨win, g, hstamp, hlater, hroom, hscops, hseq, hctx, hrest⟩ := announces_announce v s.cur ops sm
  have hscs : v.scops = s.scops := by rw [hv, hu.rest]
  have hsq : v.scSeq = s.scSeq := by rw [hv, hu.rest]
  have hgt : v.gtime = s.gtime := by rw [hv, hu.rest]
  have hlast : (v.cluster s.cur.cl).gLast = (s.cluster s.cur.cl).gLast := by
    rw [hv]
    exact (congrArg Cluster.gLast (hu.clusters s.cur.cl) :)
  rw [Stamp, hlast, hgt] at hstamp
  have hself := hctx k hk
  generalize v.announce s.cur ops sm = t at hscops hseq hself hrest ⊢
  rw [hscs] at hroom hscops
  rw [hsq] at hscops hseq
  rw [hgt] at hself
  rw [hv] at hrest
  exact ⟨u, win, g, hu, hmem, hls, hstamp, hlater, hroom, hscops, hseq, by rw [hself], by rw [hself]; exact hpc, by rw [hself]; exact hg, hrest⟩

/-! ### sc atomics in local store -/

/-- An sc atomic. -/
def scAmo (op : RmwOp) (n : Nat) (v cmp : Word) (d : Reg) (sc : Scope) : MemOp := .amo op n v cmp d sc .sc

section
variable {a : Access} {op : RmwOp} {n : Nat} {v cmp : Word} {d : Reg} {sc : Scope} {p : Place} (hop : a.op = scAmo op n v cmp d sc)
  (hst : a.stage = .passed (some p))
include hop hst

theorem scOf_scAmo : scOf [a] = [(a.lane, p, a.op)] := by
  obtain ⟨agent, lane, va, aop, st, sm, since⟩ := a
  subst hop hst
  unfold scOf
  rw [List.mergeSort_singleton]
  rfl

theorem redsOf_scAmo (s : State) (agent : CtxId) : s.redsOf agent [a] = [] := by
  obtain ⟨ag, lane, va, aop, st, sm, since⟩ := a
  subst hop hst
  unfold State.redsOf
  rw [List.mergeSort_singleton]
  rfl

/-- The one access of an agent, an sc atomic, has been let through to its place: behind its acquire it is announced. -/
theorem finishAccess_announces {s : State} (honly : (s.accesses.filter fun b => decide (b.agent = a.agent)) = [a]) (ha : (s.ctx a.agent).grp = none)
    (hl : ∀ l ∈ s.longs, ∀ t, l.late = some t → t.agent ≠ a.agent) :
    s.finishAccess a.agent false = State.announce
      { State.acquireAlone { s with cur := a.agent } a.agent sc with accesses := s.otherAccesses a.agent } a.agent [(a.lane, p, a.op)] a.sm := by
  have hhit : a.hit = none := by rw [Access.hit, hst]
  have hacq : a.op.acq = some sc := by rw [hop]; rfl
  have hfin := acquire_alone (s := { s with cur := a.agent }) (a := a.agent) ha hl sc
  unfold State.finishAccess
  rw [honly]
  simp only [redsOf_scAmo hop hst, scOf_scAmo hop hst, List.findSome?_cons, hacq, List.any_cons, List.any_nil, hhit, Option.isNone_none,
    Option.isSome_none, Bool.or_false, Bool.not_false, Bool.true_or, Bool.and_true, List.isEmpty_cons, if_true, List.foldl_nil, List.append_nil, hfin,
    acquireAlone_accesses]
  rfl

end

/-- An sc atomic let through at its issue: the instruction announces it, in a state that differs from the one behind its acquire in how the context
stands. -/
theorem begun_announces {u : State} {c : Ctx} (hc : u.findCtx u.cur = some c) (ha : c.grp = none) (hn : ∀ x ∈ u.accesses, x.agent ≠ u.cur)
    (hl : ∀ l ∈ u.longs, ∀ t, l.late = some t → t.agent ≠ u.cur) (sm : Bool) (va : Word) (op : RmwOp) (n : Nat) (v cmp : Word) (d : Reg) (sc : Scope)
    (p : Place) : (u.begun sm va (scAmo op n v cmp d sc) (.passed (some p))).accessCheck u.cur =
      ((u.acquireAlone u.cur sc).modCtx u.cur fun c => { c with st := .parked .check }).announce u.cur [(u.cur, p, scAmo op n v cmp d sc)] sm := by
  have hfin := finishAccess_announces (a := u.firstAccess sm va (scAmo op n v cmp d sc) (.passed (some p))) rfl rfl
    (begun_only hn sm va (scAmo op n v cmp d sc) (.passed (some p)))
    (by rw [show (u.firstAccess sm va (scAmo op n v cmp d sc) (.passed (some p))).agent = u.cur from rfl, begun_ctx hc]; exact ha) hl
  have hframe := acquireAlone_frame u u.cur u.cur (.parked .check) (u.accesses ++ [u.firstAccess sm va (scAmo op n v cmp d sc) (.passed (some p))])
    u.longs sc
  rw [show (u.firstAccess sm va (scAmo op n v cmp d sc) (.passed (some p))).agent = u.cur from rfl, begun_others hn] at hfin
  rw [begun_decided hc hn sm va _ _ rfl (.inl rfl), hfin]
  show State.announce { (u.begun sm va (scAmo op n v cmp d sc) (.passed (some p))).acquireAlone u.cur sc with accesses := u.accesses } _ _ _ = _
  rw [show (u.begun sm va (scAmo op n v cmp d sc) (.passed (some p))).acquireAlone u.cur sc = _ from hframe]
  show State.announce (State.modCtx { u.acquireAlone u.cur sc with accesses := u.accesses, longs := u.longs } u.cur _) _ _ _ = _
  rw [← acquireAlone_rest]
  rfl

section
variable {s : State} {c : Ctx} (hc : s.findCtx s.cur = some c) (hq : Quiet s)
include hc hq

/-- An sc atomic in local store through W0 by the issuing context is announced. -/
theorem issueMem_announces {va : Word} {n : Nat} {l : LsAt} (hl : LocalAt s va n l) (hp : s.lsPoisoned l.cl l.phys n = false) (sm : Bool) (op : RmwOp)
    (v cmp : Word) (d : Reg) (sc : Scope) :
    Announced [(s.cur, .ls l.cl l.phys, scAmo op n v cmp d sc)] sm s c (s.issueMem sm [(s.cur, va, scAmo op n v cmp d sc)]) := by
  have hr := stamped_released s (scAmo op n v cmp d sc)
  rw [hq.issueMem]
  generalize s.released (scAmo op n v cmp d sc) = r at hr ⊢
  have hrq := hr.quiet hq
  have hstart : r.startStage r.cur r.cur va (scAmo op n v cmp d sc) = (.passed (some (.ls l.cl l.phys)), r) := by
    rw [(hr.localAt hl).performs (op := scAmo op n v cmp d sc) rfl rfl (.inl (by rw [hr.rest]; exact hp))]
    unfold State.lsPerform
    simp only [hrq.orderOwn, scAmo, if_true]
  have ha : c.grp = none := by rw [← ctx_of_find hc]; exact hq.alone
  have hfind := hr.settled.here hc
  rw [← hr.cur] at hfind
  have hu := settled_acquireAlone hrq.alone hrq.longs sc
  obtain ⟨hmem, hls⟩ := acquireAlone_bytes r r.cur sc
  have hs := hr.settled.trans hu
  have hk := findCtx_modCtx_self (f := fun c : Ctx => { c with st := .parked .check }) (hs.here hc) (by intro; rfl)
  rw [issueOne_begun hstart rfl, begun_announces hfind ha hrq.accesses hrq.longs]
  rw [hr.cur] at hs hmem hls hk ⊢
  exact announced_of_settled hs (by rw [hmem, hr.rest]) (by rw [hls, hr.rest]) rfl hk rfl rfl _ sm

theorem atomic_announces {a b d : Reg} {k : Fin 4} {o : Fin 8} {w : Bool} {l : LsAt} (ho : 4 ≤ o.val) {i : Instr} {sm : Bool} {op : RmwOp}
    (hexec : exec i s = amoOp s sm op d a b k o w) (hl : LocalAt s (s.rg s.cur a) (amoBytes w) l)
    (hp : s.lsPoisoned l.cl l.phys (amoBytes w) = false) :
    Runs i s (Announced [(s.cur, .ls l.cl l.phys, scAmo op (amoBytes w) (s.rg s.cur b) (s.rg s.cur d) d (scopeOf k.val))] sm s c) := by
  have hsc : orderOf o.val = .sc := (by decide : ∀ o : Fin 8, 4 ≤ o.val → orderOf o.val = .sc) o ho
  have hrun := amoOp_alone hc hq.alone sm op d a b k o w
  rw [hsc] at hrun
  exact ⟨_, hexec.trans hrun, issueMem_announces hc hq hl hp sm op _ _ d _⟩

/-! ### Fences -/

theorem fenceSc_announces (sm : Bool) (k : Fin 4) : Runs (.fenceSc sm k) s (Announced [] sm s c) := by
  have ha : c.grp = none := by rw [← ctx_of_find hc]; exact hq.alone
  obtain ⟨hsettled, hmem, hls, -⟩ := fenceAcquired_releasedAt hc ha (scopeOf k.val)
  have hexec : exec (.fenceSc sm k) s = .next (((s.releasedAt (scopeOf k.val)).fenceAcquire (scopeOf k.val)).announce s.cur [] sm) :=
    (onCtx_some hc _).trans (by rw [hq.releaseThen_eq, (stamped_releasedAt (s := s) _).cur])
  exact ⟨_, hexec, announced_of_settled hsettled hmem hls rfl (hsettled.here hc) rfl rfl [] sm⟩

theorem fenceRel_ends (sm : Bool) (k : Fin 4) : Runs (.fenceRel sm k) s (Settles sm s c) := by
  have hr := stamped_releasedAt (s := s) (scopeOf k.val)
  exact ⟨_, (onCtx_some hc _).trans (by rw [hq.releaseThen_eq]), settles_retire hc hr.settled (by rw [hr.rest]) (by rw [hr.rest]) sm⟩

theorem fenceFull_ends (sm : Bool) (k : Fin 4) : Runs (.fenceFull sm k) s fun t => Raised s c t ∧ Settles sm s c t := by
  have ha : c.grp = none := by rw [← ctx_of_find hc]; exact hq.alone
  obtain ⟨hsettled, hmem, hls, hraised⟩ := fenceAcquired_releasedAt hc ha (scopeOf k.val)
  exact ⟨_, (onCtx_some hc _).trans (by rw [hq.releaseThen_eq]), hraised.retire sm, settles_retire hc hsettled hmem hls sm⟩

omit hq in
theorem fenceAcq_ends (ha : c.grp = none) (sm : Bool) (k : Fin 4) : Runs (.fenceAcq sm k) s fun t => Raised s c t ∧ Settles sm s c t := by
  obtain ⟨hsettled, hmem, hls, hraised⟩ := fenceAcquired hc ha (scopeOf k.val)
  exact ⟨_, onCtx_some hc _, hraised.retire sm, settles_retire hc hsettled hmem hls sm⟩

omit hq in
/-- An instruction that begins with a release above GRP scope waits for the writes of its bank. -/
theorem waits_of_releaseThen {i : Instr} {sc : Scope} (hsc : sc ≠ .grp) (hl : c.lostWrite = none) (hw : ∃ w ∈ s.writes, s.sameBank s.cur w = true)
    {k : State → State} (hexec : exec i s = .next (s.releaseThen sc k)) :
    Runs i s fun t => ∃ u, Settled s u ∧ t = u.waitFor (.performed sc) :=
  ⟨_, hexec, s.releaseStart s.cur, settled_releaseStart s s.cur, releaseThen_waits hc hl hsc hw k⟩

end

/-- Settles O22: an acquire reads what is late and raises timestamps, a release has nothing to wait for, waits, or traps, and an announcement takes the
first window that has room. -/
theorem fencesAndAnnouncements : Obligations.FencesAndAnnouncements := by
  unfold Obligations.FencesAndAnnouncements
  refine ⟨?_, ?_⟩
  · intro s c sm k hc ha settles raised
    have hrel : ∀ k, exec (.fenceRel sm k) s = .next (s.releaseThen (scopeOf k.val) fun s => s.retire sm) := fun k => onCtx_some hc _
    have hfull : ∀ k, exec (.fenceFull sm k) s = .next (s.releaseThen (scopeOf k.val) fun s => (s.fenceAcquire (scopeOf k.val)).retire sm) :=
      fun k => onCtx_some hc _
    refine ⟨fenceAcq_ends hc ha sm k, fun hq => ⟨fenceRel_ends hc hq sm k, fenceFull_ends hc hq sm k⟩, fun hl hk hw => ?_, fun v hl => ?_⟩
    · have hsc := scopeOf_ne_grp k fun h => hk (Fin.ext h)
      exact ⟨waits_of_releaseThen hc hsc hl hw (hrel k), waits_of_releaseThen hc hsc hl hw (hfull k)⟩
    · exact ⟨trapsWith_of_lost hc hl (hrel 3), trapsWith_of_lost hc hl (hfull 3)⟩
  · intro s c sm d a b k o w l hc hq ho n announced atomic
    have hatomic : ∀ i op, exec i s = amoOp s sm op d a b k o w → atomic i op := fun i op hexec hl hp => atomic_announces hc hq ho hexec hl hp
    exact ⟨fenceSc_announces hc hq sm k, hatomic _ .add rfl, hatomic _ .swp rfl, hatomic _ .cas rfl⟩

end Sys2Proof.Machine
end

section
/-! The encoder and the decoder (O59): an instruction's word is a list of fields, and the one row of the decoder that has its code reads the
fields back. -/
namespace Sys2Proof.Layout

/-! ### Words as lists of fields (R3, R172) -/

/-- A field of a word: so many bits, and the number they hold. -/
structure Slot where
  width : Nat
  val : Nat
  lt : val < 2 ^ width

namespace Slot

/-- Bits that the encoding fixes. -/
def code (k c : Nat) : Slot := ⟨k, c % 2 ^ k, Nat.mod_lt _ (Nat.two_pow_pos k)⟩

/-- Bits that must be zero. -/
def zeros (k : Nat) : Slot := ⟨k, 0, Nat.two_pow_pos k⟩

/-- A flag. -/
def bit (b : Bool) : Slot := ⟨1, b.toNat, b.toNat_lt⟩

/-- An operand below 2^k. -/
def fin (k : Nat) (x : Fin (2 ^ k)) : Slot := ⟨k, x, x.isLt⟩

/-- The number of a register. -/
def reg (a : Reg) : Slot := fin 5 a

/-- The number of a predicate register. -/
def pred (p : PReg) : Slot := fin 3 p

/-- An immediate. -/
def imm {k : Nat} (v : BitVec k) : Slot := ⟨k, v.toNat, v.isLt⟩

end Slot

/-- The word that holds the fields one above the other, the first in its lowest bits. -/
def pack : List Slot → Nat
  | [] => 0
  | x :: l => x.val + 2 ^ x.width * pack l

/-- The fields have no more than n bits. -/
def fits (n : Nat) : List Slot → Bool
  | [] => true
  | x :: l => x.width.ble n && fits (n - x.width) l

/-- What stands in the lowest k bits, where whole fields do. -/
def low (k : Nat) : List Slot → Option Nat
  | [] => bif k.beq 0 then some 0 else none
  | x :: l => bif k.beq 0 then some 0 else bif x.width.ble k then (low (k - x.width) l).map (x.val + 2 ^ x.width * ·) else none

/-- What stands in k bits from lo up, where whole fields do. -/
def look (lo k : Nat) : List Slot → Option Nat
  | [] => none
  | x :: l => bif lo.beq 0 then low k (x :: l) else bif x.width.ble lo then look (lo - x.width) k l else none

theorem pack_lt {l : List Slot} : ∀ {n : Nat}, fits n l = true → pack l < 2 ^ n := by
  induction l with
  | nil => exact fun {n} _ => Nat.two_pow_pos n
  | cons x l ih =>
    intro n h
    obtain ⟨hn, hl⟩ := Bool.and_eq_true_iff.1 h
    obtain ⟨e, rfl⟩ := Nat.exists_eq_add_of_le (Nat.le_of_ble_eq_true hn)
    rw [Nat.add_sub_cancel_left] at hl
    calc pack (x :: l) < 2 ^ x.width + 2 ^ x.width * pack l := Nat.add_lt_add_right x.lt _
      _ = 2 ^ x.width * (pack l + 1) := by ring
      _ ≤ 2 ^ x.width * 2 ^ e := Nat.mul_le_mul_left _ (ih hl)
      _ = 2 ^ (x.width + e) := (Nat.pow_add ..).symm

/-- The fields above the first are what is left above its bits. -/
theorem pack_cons_div (x : Slot) (l : List Slot) : pack (x :: l) / 2 ^ x.width = pack l := by
  rw [pack, Nat.add_mul_div_left _ _ (Nat.two_pow_pos _), Nat.div_eq_of_lt x.lt, Nat.zero_add]

theorem pack_mod_of_low {l : List Slot} : ∀ {k v : Nat}, low k l = some v → pack l % 2 ^ k = v := by
  induction l with
  | nil =>
    intro k v h
    unfold low at h
    cases hk : k.beq 0 with
    | true => simpa only [hk, cond_true, Option.some.injEq, pack, Nat.zero_mod] using h
    | false => simp [hk] at h
  | cons x l ih =>
    intro k v h
    unfold low at h
    cases hk : k.beq 0 with
    | true =>
      obtain rfl := Nat.eq_of_beq_eq_true hk
      obtain rfl : 0 = v := Option.some.inj h
      rw [Nat.pow_zero, Nat.mod_one]
    | false =>
      cases hx : x.width.ble k with
      | false => simp [hk, hx] at h
      | true =>
        simp only [hk, hx, cond_false, cond_true, Option.map_eq_some_iff] at h
        obtain ⟨u, hu, rfl⟩ := h
        obtain ⟨e, rfl⟩ := Nat.exists_eq_add_of_le (Nat.le_of_ble_eq_true hx)
        rw [Nat.add_sub_cancel_left] at hu
        rw [Nat.pow_add, Nat.mod_mul, pack_cons_div, ih hu, pack, Nat.add_mul_mod_self_left, Nat.mod_eq_of_lt x.lt]

/-- A field of the word is what stands in its bits. -/
theorem fld_pack_of_look {l : List Slot} : ∀ {lo k v : Nat}, look lo k l = some v → fld (pack l) lo k = v := by
  induction l with
  | nil => exact fun h => nomatch h
  | cons x l ih =>
    intro lo k v h
    unfold look at h
    cases hlo : lo.beq 0 with
    | true =>
      obtain rfl := Nat.eq_of_beq_eq_true hlo
      rw [fld, Nat.pow_zero, Nat.div_one]
      exact pack_mod_of_low h
    | false =>
      cases hx : x.width.ble lo with
      | false => simp [hlo, hx] at h
      | true =>
        simp only [hlo, hx, cond_false, cond_true] at h
        rw [← ih h, fld, fld, ← pack_cons_div x l, Nat.div_div_eq_div_mul, ← Nat.pow_add, Nat.add_sub_cancel' (Nat.le_of_ble_eq_true hx)]

/-! ### Fields read from a word -/

theorem bitAt_eq_iff {w lo : Nat} {b : Bool} : bitAt w lo = b ↔ fld w lo 1 = b.toNat := by
  rw [← bitAt_toNat]; cases b <;> cases bitAt w lo <;> decide

theorem bvAt_eq_iff {k w lo : Nat} {v : BitVec k} : bvAt k w lo = v ↔ fld w lo k = v.toNat := by
  rw [← BitVec.toNat_inj, bvAt_toNat]

/-- A field of a field is a field of the word. -/
theorem fld_fld {w lo n l k : Nat} (h : l + k ≤ n) : fld (fld w lo n) l k = fld w (lo + l) k := by
  obtain ⟨e, rfl⟩ := Nat.exists_eq_add_of_le h
  rw [fld, fld, fld, Nat.add_assoc, Nat.pow_add, Nat.mod_mul_right_div_self, Nat.pow_add 2 k, Nat.mod_mul_right_mod, Nat.div_div_eq_div_mul,
    ← Nat.pow_add]

/-- Bits that hold a code do not hold another one. (One premise, so that decide closes it where all its numbers are given.) -/
theorem fld_ne_of_code {w lo k c : Nat} (hc : fld w lo k = c) {l n v : Nat} (h : l ≤ lo ∧ lo + k ≤ l + n ∧ v / 2 ^ (lo - l) % 2 ^ k ≠ c) :
    fld w l n ≠ v := by
  obtain ⟨hl, hn, hv⟩ := h
  rintro rfl
  exact hv ((fld_fld (by omega)).trans (by rw [Nat.add_sub_cancel' hl, hc]))

/-! ### Rows of the decoder -/

/-- The fields of an instruction's word: the major and the switch marker stand above the others (R172). -/
def word (sm : Bool) (m : Nat) (l : List Slot) : List Slot := l ++ [.code 6 m, .bit sm]

/-- A row of the encoding: the word of i has the fields l, with the code c in the k bits from lo up, and the decoder reads i from it. -/
structure Row (lo k c : Nat) (l : List Slot) (i : Instr) : Prop where
  encode_eq : encode i = some (pack l)
  fits_word : fits 32 l = true
  code : look lo k l = some c
  decMajor_eq : decMajor (pack l) = some i

/-- Rows whose codes stand in the k bits from lo up, each code with the operation it means. -/
@[irreducible] def Rows {α : Type} (lo k : Nat) (ops : List (Nat × α)) (inst : α → Instr) (l : Nat → List Slot) : Prop :=
  ∀ p ∈ ops, Row lo k p.1 (l p.1) (inst p.2)

/-- A row: only how the decoder comes to it differs from row to row, for a word w of which each field reads as it stands in the list. -/
theorem Row.intro {sm : Bool} {m lo k c : Nat} {l : List Slot} {i : Instr}
    (hd : ∀ w, (∀ {lo k v}, look lo k (word sm m l) = some v → fld w lo k = v) → fld w 25 6 = m → fld w lo k = c → decMajor w = some i)
    (he : encode i = some (pack (word sm m l)) := by
      refine congrArg some ?_
      simp only [pack, word, List.cons_append, List.nil_append, Slot.code, Slot.zeros, Slot.bit, Slot.reg, Slot.pred, Slot.fin, Slot.imm]
      ring)
    (hfits : fits 32 (word sm m l) = true := by rfl) (hm : look 25 6 (word sm m l) = some m := by rfl)
    (hc : look lo k (word sm m l) = some c := by rfl) : Row lo k c (word sm m l) i :=
  ⟨he, hfits, hc, hd _ fld_pack_of_look (fld_pack_of_look hm) (fld_pack_of_look hc)⟩

/-- The row whose bits the word has answers. -/
theorem row_reads {p : Prop} [Decidable p] {i j : Instr} {r : Option Instr} (hp : p) (h : j = i) : (if p then some j else r) = some i := by
  rw [if_pos hp, h]

/-- The word of i is read back as i. -/
def ReadBack (i : Instr) : Prop := ∀ w, encode i = some w → decMajor w = some i ∧ w < 2 ^ 32

theorem Rows.readBack {α : Type} {lo k : Nat} {ops : List (Nat × α)} {inst : α → Instr} {l : Nat → List Slot} (h : Rows lo k ops inst l)
    {op : α} (hop : op ∈ ops.map Prod.snd) : ReadBack (inst op) := by
  unfold Rows at h
  obtain ⟨p, hp, rfl⟩ := List.mem_map.1 hop
  obtain ⟨he, hfits, -, hd⟩ := h p hp
  intro w hw
  obtain rfl := Option.some.inj (he.symm.trans hw)
  exact ⟨hd, pack_lt hfits⟩

/-! ### The rows of the majors (R175)

The code of a row excludes the rows before it; what the row itself tests and reads are fields of the list. -/

open Slot

/-- The majors of one row, whose code is the major itself. -/
theorem plain_rows :
    (∀ sm x y i, Rows 25 6 [(2, Instr.addi), (3, .andi), (4, .ori), (5, .xori), (22, .jalr), (18, .beq), (19, .bgeu), (36, .bne), (37, .blt),
        (38, .bge), (39, .bltu)]
      (· sm x y i) fun m => word sm m [imm i, reg y, reg x]) ∧
    (∀ sm d h v, Rows 25 6 [(8, Instr.lih)] (· sm d h v) fun m => word sm m [imm v, fin 4 h, reg d]) ∧
    (∀ sm d i, Rows 25 6 [(9, Instr.adpc), (21, .jal)] (· sm d i) fun m => word sm m [imm i, reg d]) ∧
    (∀ sm d a w h o, Rows 25 6 [(13, Instr.ld), (14, .st), (15, .lda), (16, .stl)]
      (· sm d a w h o) fun m => word sm m [imm o, fin 2 h, fin 3 w, reg a, reg d]) := by
  simp only [Rows, List.forall_mem_cons, List.not_mem_nil, false_implies, implies_true, and_true, forall_and]
  and_intros
  all_goals
    intros
    refine Row.intro fun w hw hm hc => ?_
    simp only [decMajor, hm]
    refine congrArg some ?_
    congr 1 <;> simp only [bitAt_eq_iff, bvAt_eq_iff, finAt, Fin.ext_iff] <;> exact hw rfl

/-- INT-R, SHI, CMPI, MULDIV, BP and PRED. -/
theorem integer_rows :
    (∀ sm d a b t, Rows 0 6 [(0, Instr.add), (1, .sub)] (· sm d a b t) fun f => word sm 1 [code 6 f, zeros 3, bit t, reg b, reg a, reg d]) ∧
    (∀ sm d a b, Rows 0 6 [(2, Instr.and), (3, .or), (4, .xor), (5, .andn), (6, .orn), (7, .sll), (8, .srl), (9, .sra), (10, .rol), (11, .ror),
        (12, .slt), (13, .sltu), (14, .min), (15, .max), (16, .minn), (17, .maxn), (27, .bfx), (28, .bfi)]
      (· sm d a b) fun f => word sm 1 [code 6 f, zeros 4, reg b, reg a, reg d]) ∧
    (∀ sm d a, Rows 0 6 [(18, Instr.clz), (19, .ctz), (20, .pop), (21, .brev), (22, .bswap), (23, .sextB), (24, .sextH), (25, .sextW), (26, .zextW)]
      (· sm d a) fun f => word sm 1 [code 6 f, zeros 9, reg a, reg d]) ∧
    (∀ sm d a b p, Rows 0 6 [(29, Instr.sel)] (· sm d a b p) fun f => word sm 1 [code 6 f, pred p, zeros 1, reg b, reg a, reg d]) ∧
    (∀ sm d a n, Rows 6 2 [(0, Instr.slli), (1, .srli), (2, .srai)] (· sm d a n) fun f => word sm 6 [fin 6 n, code 2 f, zeros 7, reg a, reg d]) ∧
    (∀ sm d a i, Rows 14 1 [(0, Instr.sltii), (1, .sltin)] (· sm d a i) fun f => word sm 7 [imm i, code 1 f, reg a, reg d]) ∧
    (∀ sm d a b w, Rows 0 3 [(0, Instr.mul), (1, .mulh), (2, .mulhn), (3, .div), (4, .divn), (5, .rem), (6, .remn)]
      (· sm d a b w) fun f => word sm 10 [code 3 f, bit w, zeros 6, reg b, reg a, reg d]) ∧
    (∀ sm p o, Rows 21 1 [(0, Instr.bp), (1, .bnp)] (· sm p o) fun f => word sm 20 [imm o, code 1 f, pred p]) ∧
    (∀ sm n a b c, Rows 6 4 [(0, Instr.pcmp)] (· sm n a b c) fun f => word sm 23 [fin 3 c, zeros 3, code 4 f, reg b, reg a, pred n, zeros 2]) ∧
    (∀ sm n x y, Rows 6 4 [(1, Instr.pand), (2, .por), (3, .pxor)]
      (· sm n x y) fun f => word sm 23 [zeros 6, code 4 f, pred y, zeros 2, pred x, zeros 2, pred n, zeros 2]) ∧
    (∀ sm n x, Rows 6 4 [(4, Instr.pnot)] (· sm n x) fun f => word sm 23 [zeros 6, code 4 f, zeros 5, pred x, zeros 2, pred n, zeros 2]) := by
  simp only [Rows, List.forall_mem_cons, List.not_mem_nil, false_implies, implies_true, and_true, forall_and]
  and_intros
  all_goals
    intros
    refine Row.intro fun w hw hm hc => ?_
    simp (disch := decide) only [decMajor, hm, decIntR, decShi, decCmpi, decMulDiv, decBp, decPred, fld_ne_of_code hc, false_and, ↓reduceIte]
    refine row_reads (by and_intros <;> exact hw rfl) ?_
    congr 1 <;> simp only [bitAt_eq_iff, bvAt_eq_iff, finAt, Fin.ext_iff] <;> exact hw rfl

/-- FPCVT and SFU, which have one row, and PF, the first row of AMO. -/
theorem firstRow_rows :
    (∀ sm d a c x z r t, Rows 25 6 [(12, Instr.fcvt)]
      (· sm d a c x z r t) fun m => word sm m [fin 4 t, fin 2 r, bit z, bit x, zeros 2, fin 4 c, zeros 1, reg a, reg d]) ∧
    (∀ sm d a r z f, Rows 25 6 [(28, Instr.sfu)] (· sm d a r z f) fun m => word sm m [fin 3 f, bit z, fin 2 r, zeros 9, reg a, reg d]) ∧
    (∀ sm a k, Rows 0 6 [(14, Instr.pf)] (· sm a k) fun f => word sm 17 [code 6 f, fin 4 k, zeros 5, reg a, zeros 5]) := by
  simp only [Rows, List.forall_mem_cons, List.not_mem_nil, false_implies, implies_true, and_true]
  and_intros
  all_goals
    intros
    refine Row.intro fun w hw hm hc => ?_
    simp only [decMajor, hm, decFpCvt, decSfu, decAmo]
    refine row_reads (by and_intros <;> exact hw rfl) ?_
    congr 1 <;> simp only [bitAt_eq_iff, finAt, Fin.ext_iff] <;> exact hw rfl

/-- FP and SYNC. -/
theorem float_sync_rows :
    (∀ sm d a b r z t, Rows 0 4 [(0, Instr.fadd), (1, .fsub), (2, .fmul), (3, .fma), (4, .fdiv)]
      (· sm d a b r z t) fun f => word sm 11 [code 4 f, bit t, bit z, fin 2 r, zeros 2, reg b, reg a, reg d]) ∧
    (∀ sm d a r z t, Rows 0 4 [(5, Instr.fsqrt)] (· sm d a r z t) fun f => word sm 11 [code 4 f, bit t, bit z, fin 2 r, zeros 7, reg a, reg d]) ∧
    (∀ sm d a b t, Rows 0 4 [(6, Instr.fmin), (7, .fmax)] (· sm d a b t) fun f => word sm 11 [code 4 f, bit t, zeros 5, reg b, reg a, reg d]) ∧
    (∀ sm d a b m t, Rows 0 4 [(8, Instr.fsign)]
      (· sm d a b m t) fun f => word sm 11 [code 4 f, bit t, zeros 1, fin 2 m, zeros 2, reg b, reg a, reg d]) ∧
    (∀ sm d a t, Rows 0 4 [(9, Instr.fclass)] (· sm d a t) fun f => word sm 11 [code 4 f, bit t, zeros 10, reg a, reg d]) ∧
    (∀ sm n a b c t, Rows 0 4 [(10, Instr.fcmp)]
      (· sm n a b c t) fun f => word sm 11 [code 4 f, bit t, fin 3 c, zeros 2, reg b, reg a, pred n, zeros 2]) ∧
    (∀ sm c, Rows 2 8 [(0, Instr.fenceAcq), (1, .fenceRel), (2, .fenceFull), (3, .fenceSc)]
      (· sm c) fun f => word sm 24 [fin 2 c, code 8 f, zeros 15]) ∧
    (∀ sm a n, Rows 5 5 [(1, Instr.barArv)] (· sm a n) fun f => word sm 24 [fin 5 n, code 5 f, zeros 5, reg a, zeros 5]) ∧
    (∀ sm d n, Rows 5 5 [(2, Instr.barWait)] (· sm d n) fun f => word sm 24 [fin 5 n, code 5 f, zeros 10, reg d]) ∧
    (∀ sm d a n, Rows 5 5 [(3, Instr.barArw)] (· sm d a n) fun f => word sm 24 [fin 5 n, code 5 f, zeros 5, reg a, reg d]) ∧
    (∀ sm n c, Rows 5 5 [(4, Instr.waitCnt)] (· sm n c) fun f => word sm 24 [fin 2 c, zeros 3, code 5 f, imm n, zeros 5]) ∧
    (∀ sm a, Rows 5 5 [(5, Instr.tagWany), (6, .tagWall), (8, .tagClr), (9, .waitNtc)]
      (· sm a) fun f => word sm 24 [zeros 5, code 5 f, zeros 5, reg a, zeros 5]) ∧
    (∀ sm d a, Rows 5 5 [(7, Instr.tagFfr)] (· sm d a) fun f => word sm 24 [zeros 5, code 5 f, zeros 5, reg a, reg d]) ∧
    (∀ sm, Rows 5 5 [(10, Instr.yield), (12, .join), (13, .exit)] (· sm) fun f => word sm 24 [zeros 5, code 5 f, zeros 15]) ∧
    (∀ sm o, Rows 5 5 [(11, Instr.rcv)] (· sm o) fun f => word sm 24 [zeros 5, code 5 f, imm o]) := by
  simp only [Rows, List.forall_mem_cons, List.not_mem_nil, false_implies, implies_true, and_true, forall_and]
  and_intros
  all_goals
    intros
    refine Row.intro fun w hw hm hc => ?_
    simp (disch := decide) only [decMajor, hm, decFpR, decSync, fld_ne_of_code hc, false_and, ↓reduceIte]
    refine row_reads (by and_intros <;> exact hw rfl) ?_
    congr 1 <;> simp only [bitAt_eq_iff, bvAt_eq_iff, finAt, Fin.ext_iff] <;> exact hw rfl

/-- SIMT, TASK, VRB, SYSREG and SYS. -/
theorem simt_task_system_rows :
    (∀ sm w, Rows 5 5 [(0, Instr.fuse)] (· sm w) fun f => word sm 25 [fin 5 w, code 5 f, zeros 15]) ∧
    (∀ sm, Rows 5 5 [(1, Instr.split)] (· sm) fun f => word sm 25 [zeros 5, code 5 f, zeros 15]) ∧
    (∀ sm n m, Rows 5 5 [(2, Instr.voteAny), (3, .voteAll)]
      (· sm n m) fun f => word sm 25 [zeros 5, code 5 f, zeros 5, pred m, zeros 2, pred n, zeros 2]) ∧
    (∀ sm d m, Rows 5 5 [(4, Instr.voteBal)] (· sm d m) fun f => word sm 25 [zeros 5, code 5 f, zeros 5, pred m, zeros 2, reg d]) ∧
    (∀ sm d a b, Rows 5 5 [(5, Instr.lget)] (· sm d a b) fun f => word sm 25 [zeros 5, code 5 f, reg b, reg a, reg d]) ∧
    (∀ sm a b d k, Rows 6 4 [(0, Instr.wqInit)] (· sm a b d k) fun f => word sm 26 [fin 2 k, zeros 4, code 4 f, reg d, reg b, reg a]) ∧
    (∀ sm d n k, Rows 6 4 [(1, Instr.wqNext)] (· sm d n k) fun f => word sm 26 [fin 2 k, pred n, zeros 1, code 4 f, reg d, zeros 10]) ∧
    (∀ sm a d, Rows 6 4 [(2, Instr.tskDone), (3, .tskSubmit)] (· sm a d) fun f => word sm 26 [zeros 6, code 4 f, reg d, zeros 5, reg a]) ∧
    (∀ sm a r p, Rows 6 4 [(4, Instr.stgAcq)] (· sm a r p) fun f => word sm 26 [zeros 2, bit p, fin 3 r, code 4 f, zeros 10, reg a]) ∧
    (∀ sm a r, Rows 6 4 [(5, Instr.stgRel)] (· sm a r) fun f => word sm 26 [zeros 3, fin 3 r, code 4 f, zeros 10, reg a]) ∧
    (∀ sm d r, Rows 6 4 [(6, Instr.stgPeek)] (· sm d r) fun f => word sm 26 [zeros 3, fin 3 r, code 4 f, reg d, zeros 10]) ∧
    (∀ sm a d, Rows 5 5 [(0, Instr.vbAcq), (2, .vbRel)] (· sm a d) fun f => word sm 33 [zeros 5, code 5 f, reg d, zeros 5, reg a]) ∧
    (∀ sm a d p, Rows 5 5 [(1, Instr.vbAcqTry)] (· sm a d p) fun f => word sm 33 [zeros 2, pred p, code 5 f, reg d, zeros 5, reg a]) ∧
    (∀ sm d r, Rows 12 3 [(0, Instr.rdsys)] (· sm d r) fun f => word sm 34 [imm r, code 3 f, zeros 5, reg d]) ∧
    (∀ sm a r, Rows 12 3 [(4, Instr.wrsys)] (· sm a r) fun f => word sm 34 [imm r, code 3 f, reg a, zeros 5]) ∧
    (∀ sm, Rows 0 9 [(0, Instr.ecall), (1, .ebreak), (2, .upret), (256, .eret)] (· sm) fun f => word sm 35 [code 9 f, zeros 16]) ∧
    (∀ sm n a, Rows 0 9 [(3, Instr.wcfg)] (· sm n a) fun f => word sm 35 [code 9 f, zeros 6, reg a, fin 3 n, zeros 2]) ∧
    (∀ sm d a b, Rows 0 9 [(257, Instr.fqPop), (258, .svcDone), (259, .xlatInv), (260, .cacheWb), (261, .cacheInv), (264, .halt), (265, .nbrPut),
        (266, .nbrGet), (267, .mcast), (268, .clReform)]
      (· sm d a b) fun f => word sm 35 [code 9 f, zeros 1, reg b, reg a, reg d]) ∧
    (∀ sm a, Rows 0 9 [(262, Instr.ctxSave), (263, .ctxRest)] (· sm a) fun f => word sm 35 [code 9 f, zeros 6, reg a, zeros 5]) := by
  simp only [Rows, List.forall_mem_cons, List.not_mem_nil, false_implies, implies_true, and_true, forall_and]
  and_intros
  all_goals
    intros
    refine Row.intro fun w hw hm hc => ?_
    simp (disch := decide) only [decMajor, hm, decSimt, decTask, decVrb, decSysReg, decSys, fld_ne_of_code hc, false_and, and_false, ↓reduceIte]
    refine row_reads (by and_intros <;> exact hw rfl) ?_
    congr 1 <;> simp only [bitAt_eq_iff, bvAt_eq_iff, finAt, Fin.ext_iff] <;> exact hw rfl

/-- VEC and MAT. -/
theorem vec_mat_rows :
    (∀ sm a b d c, Rows 5 5 [(0, Instr.vAdd), (1, .vSub), (2, .vMul), (3, .vFma), (4, .vFms), (5, .vMin), (6, .vMax), (9, .vAnd), (10, .vOr),
        (11, .vXor), (12, .vShl), (13, .vShr), (14, .vCmp), (15, .vSel), (22, .vBcast), (24, .vClamp)]
      (· sm a b d c) fun f => word sm 27 [bit c, zeros 4, code 5 f, reg d, reg b, reg a]) ∧
    (∀ sm a b d, Rows 5 5 [(7, Instr.vAbs), (8, .vNeg), (16, .vCvt), (17, .vMov), (18, .vRsum), (19, .vRmax), (20, .vRmin), (21, .vScan),
        (25, .vSfu), (26, .vGat), (27, .vSct)]
      (· sm a b d) fun f => word sm 27 [zeros 5, code 5 f, reg d, reg b, reg a]) ∧
    (∀ sm a b d, Rows 5 5 [(23, Instr.vIota)] (· sm a b d) fun f => word sm 27 [code 5 1, code 5 f, reg d, reg b, reg a]) ∧
    (∀ sm a d, Rows 6 4 [(0, Instr.mxCfg)] (· sm a d) fun f => word sm 29 [zeros 6, code 4 f, reg d, zeros 5, reg a]) ∧
    (∀ sm a b d v o u, Rows 6 4 [(1, Instr.mxLd)]
      (· sm a b d v o u) fun f => word sm 29 [zeros 3, bit u, bit o, bit v, code 4 f, reg d, reg b, reg a]) ∧
    (∀ sm d v u n, Rows 6 4 [(2, Instr.mxMma)] (· sm d v u n) fun f => word sm 29 [fin 3 n, bit u, zeros 1, bit v, code 4 f, reg d, zeros 10]) ∧
    (∀ sm d v n, Rows 6 4 [(3, Instr.mxZero)] (· sm d v n) fun f => word sm 29 [fin 3 n, zeros 2, bit v, code 4 f, reg d, zeros 10]) ∧
    (∀ sm a b d v n, Rows 6 4 [(4, Instr.mxSt)] (· sm a b d v n) fun f => word sm 29 [fin 3 n, zeros 2, bit v, code 4 f, reg d, reg b, reg a]) ∧
    (∀ sm a b d v, Rows 6 4 [(5, Instr.gmLay), (6, .gmGemv)]
      (· sm a b d v) fun f => word sm 29 [zeros 5, bit v, code 4 f, reg d, reg b, reg a]) := by
  simp only [Rows, List.forall_mem_cons, List.not_mem_nil, false_implies, implies_true, and_true, forall_and]
  and_intros
  all_goals
    intros
    refine Row.intro fun w hw hm hc => ?_
    simp (disch := decide) only [decMajor, hm, decVec, decMat, fld_ne_of_code hc, false_and, and_false, ↓reduceIte]
    refine row_reads (by and_intros <;> exact hw rfl) ?_
    congr 1 <;> simp only [bitAt_eq_iff, finAt, Fin.ext_iff] <;> exact hw rfl

/-- COPY, STRM and SPAR. -/
theorem copy_strm_spar_rows :
    (∀ sm a b d, Rows 6 4 [(0, Instr.cpBulk), (2, .gaGath), (5, .clAg), (7, .clBc), (8, .clSend), (9, .clRecv), (10, .clAbort)]
      (· sm a b d) fun f => word sm 30 [zeros 6, code 4 f, reg d, reg b, reg a]) ∧
    (∀ sm a d, Rows 6 4 [(1, Instr.cpCancel)] (· sm a d) fun f => word sm 30 [zeros 6, code 4 f, reg d, zeros 5, reg a]) ∧
    (∀ sm a b d u, Rows 6 4 [(3, Instr.scScat), (4, .clAr), (6, .clRs)]
      (· sm a b d u) fun f => word sm 30 [zeros 3, fin 3 u, code 4 f, reg d, reg b, reg a]) ∧
    (∀ sm a b d n, Rows 6 4 [(0, Instr.sqOpen)] (· sm a b d n) fun f => word sm 31 [zeros 2, fin 4 n, code 4 f, reg d, reg b, reg a]) ∧
    (∀ sm n, Rows 6 4 [(1, Instr.sqNext), (8, .sqClose)] (· sm n) fun f => word sm 31 [zeros 2, fin 4 n, code 4 f, zeros 15]) ∧
    (∀ sm m n, Rows 6 4 [(2, Instr.sqEnd)] (· sm m n) fun f => word sm 31 [zeros 2, fin 4 n, code 4 f, pred m, zeros 12]) ∧
    (∀ sm d n, Rows 6 4 [(3, Instr.sqCrd)] (· sm d n) fun f => word sm 31 [zeros 2, fin 4 n, code 4 f, reg d, zeros 10]) ∧
    (∀ sm d n p, Rows 6 4 [(4, Instr.sqPos)] (· sm d n p) fun f => word sm 31 [bit p, zeros 1, fin 4 n, code 4 f, reg d, zeros 10]) ∧
    (∀ sm a n, Rows 6 4 [(5, Instr.sqSeek), (11, .sqSave), (12, .sqRest)]
      (· sm a n) fun f => word sm 31 [zeros 2, fin 4 n, code 4 f, zeros 10, reg a]) ∧
    (∀ sm x y n, Rows 6 4 [(6, Instr.sqIsect), (7, .sqUnion)]
      (· sm x y n) fun f => word sm 31 [zeros 2, fin 4 n, code 4 f, zeros 5, fin 4 y, zeros 1, fin 4 x, zeros 1]) ∧
    (∀ sm a b d n w, Rows 6 4 [(9, Instr.sqDrain)]
      (· sm a b d n w) fun f => word sm 31 [bit w, zeros 1, fin 4 n, code 4 f, reg d, reg b, reg a]) ∧
    (∀ sm a b d, Rows 6 4 [(10, Instr.sqPart)] (· sm a b d) fun f => word sm 31 [zeros 6, code 4 f, reg d, reg b, reg a]) ∧
    (∀ sm a b d v w n, Rows 6 4 [(0, Instr.mxSpmm)]
      (· sm a b d v w n) fun f => word sm 32 [fin 3 n, zeros 1, bit w, bit v, code 4 f, reg d, reg b, reg a]) ∧
    (∀ sm a b d, Rows 6 4 [(1, Instr.spPack), (2, .spUnpack)] (· sm a b d) fun f => word sm 32 [zeros 6, code 4 f, reg d, reg b, reg a]) ∧
    (∀ sm a b d c, Rows 6 4 [(3, Instr.spInval), (4, .spPin)]
      (· sm a b d c) fun f => word sm 32 [bit c, zeros 5, code 4 f, reg d, reg b, reg a]) ∧
    (∀ sm a d c, Rows 6 4 [(5, Instr.spStat)] (· sm a d c) fun f => word sm 32 [bit c, zeros 5, code 4 f, reg d, zeros 5, reg a]) := by
  simp only [Rows, List.forall_mem_cons, List.not_mem_nil, false_implies, implies_true, and_true, forall_and]
  and_intros
  all_goals
    intros
    refine Row.intro fun w hw hm hc => ?_
    simp (disch := decide) only [decMajor, hm, decCopy, decStrm, decSpar, fld_ne_of_code hc, false_and, and_false, ↓reduceIte]
    refine row_reads (by and_intros <;> exact hw rfl) ?_
    congr 1 <;> simp only [bitAt_eq_iff, finAt, Fin.ext_iff] <;> exact hw rfl

/-- A word whose order is at most 4 is not one of PF (R214). -/
theorem fld_ne_of_order {w : Nat} {o : Fin 8} (hw : fld w 1 3 = o.val) (ho : o.val ≤ 4) : fld w 0 6 ≠ 14 :=
  fld_ne_of_code hw ⟨by decide, by decide, fun h : 7 = o.val => by omega⟩

/-- The atomics and reductions of AMO. The order 7, which R210 does not assign, would give PF's word (R214). -/
theorem amo_rows :
    (∀ sm d a b c o w, o.val ≤ 4 → Rows 6 4 [(0, Instr.amoAdd), (1, .amoAnd), (2, .amoOr), (3, .amoXor), (4, .amoMin), (5, .amoMax),
        (6, .amoMinn), (7, .amoMaxn), (8, .amoSwp), (9, .amoCas), (10, .amoFadd)]
      (· sm d a b c o w) fun f => word sm 17 [bit w, fin 3 o, fin 2 c, code 4 f, reg b, reg a, reg d]) ∧
    (∀ sm a b c o w, o.val ≤ 4 → Rows 6 4 [(11, Instr.redAdd), (12, .redFadd), (13, .redMin), (14, .redMax), (15, .redOr)]
      (· sm a b c o w) fun f => word sm 17 [bit w, fin 3 o, fin 2 c, code 4 f, reg b, reg a, zeros 5]) := by
  simp only [Rows, List.forall_mem_cons, List.not_mem_nil, false_implies, implies_true, and_true, forall_and]
  and_intros
  all_goals
    intros
    refine Row.intro fun w hw hm hc => ?_
    have hpf := fld_ne_of_order (hw rfl) ‹_ ≤ 4›
    simp (disch := decide) only [decMajor, hm, decAmo, hpf, false_and, fld_ne_of_code hc, ↓reduceIte]
    refine row_reads (by and_intros <;> exact hw rfl) ?_
    congr 1 <;> simp only [bitAt_eq_iff, finAt, Fin.ext_iff] <;> exact hw rfl

/-- The orders of a reduction are among those of an atomic. -/
theorem order_of_wf {o : Fin 8} (h : (o == 0 || o == 2) = true) : o.val ≤ 4 := by
  decide +revert

/-- A well-formed instruction is read back from its word. -/
theorem readBack_of_wf {i : Instr} (hwf : i.wf = true) : ReadBack i := by
  obtain ⟨imm15, lih, imm20, mem⟩ := plain_rows
  obtain ⟨addSub, intR, intR1, sel, shi, cmpi, mulDiv, bp, pcmp, pred2, pnot⟩ := integer_rows
  obtain ⟨fcvt, sfu, pf⟩ := firstRow_rows
  obtain ⟨fp3, fsqrt, fMinMax, fsign, fclass, fcmp, fence, barArv, barWait, barArw, waitCnt, tag, tagFfr, yieldJoinExit, rcv⟩ := float_sync_rows
  obtain ⟨fuse, split, vote, voteBal, lget, wqInit, wqNext, tsk, stgAcq, stgRel, stgPeek, vb, vbAcqTry, rdsys, wrsys, sys, wcfg, sys3, ctx⟩ :=
    simt_task_system_rows
  obtain ⟨vecBit, vec, vIota, mxCfg, mxLd, mxMma, mxZero, mxSt, gm⟩ := vec_mat_rows
  obtain ⟨copy, cpCancel, copyOp, sqOpen, sq, sqEnd, sqCrd, sqPos, sqReg, sqPair, sqDrain, sqPart, mxSpmm, spPack, spBit, spStat⟩ :=
    copy_strm_spar_rows
  obtain ⟨amo, red⟩ := amo_rows
  cases i with
  | addi | andi | ori | xori | jalr | beq | bgeu | bne | blt | bge | bltu => exact (imm15 ..).readBack (by simp)
  | lih => exact (lih ..).readBack (by simp)
  | adpc | jal => exact (imm20 ..).readBack (by simp)
  | ld | st | lda | stl => exact (mem ..).readBack (by simp)
  | add | sub => exact (addSub ..).readBack (by simp)
  | and | or | xor | andn | orn | sll | srl | sra | rol | ror | slt | sltu | min | max | minn | maxn | bfx | bfi =>
    exact (intR ..).readBack (by simp)
  | clz | ctz | pop | brev | bswap | sextB | sextH | sextW | zextW => exact (intR1 ..).readBack (by simp)
  | sel => exact (sel ..).readBack (by simp)
  | slli | srli | srai => exact (shi ..).readBack (by simp)
  | sltii | sltin => exact (cmpi ..).readBack (by simp)
  | mul | mulh | mulhn | div | divn | rem | remn => exact (mulDiv ..).readBack (by simp)
  | bp | bnp => exact (bp ..).readBack (by simp)
  | pcmp => exact (pcmp ..).readBack (by simp)
  | pand | por | pxor => exact (pred2 ..).readBack (by simp)
  | pnot => exact (pnot ..).readBack (by simp)
  | fcvt => exact (fcvt ..).readBack (by simp)
  | sfu => exact (sfu ..).readBack (by simp)
  | pf => exact (pf ..).readBack (by simp)
  | fadd | fsub | fmul | fma | fdiv => exact (fp3 ..).readBack (by simp)
  | fsqrt => exact (fsqrt ..).readBack (by simp)
  | fmin | fmax => exact (fMinMax ..).readBack (by simp)
  | fsign => exact (fsign ..).readBack (by simp)
  | fclass => exact (fclass ..).readBack (by simp)
  | fcmp => exact (fcmp ..).readBack (by simp)
  | fenceAcq | fenceRel | fenceFull | fenceSc => exact (fence ..).readBack (by simp)
  | barArv => exact (barArv ..).readBack (by simp)
  | barWait => exact (barWait ..).readBack (by simp)
  | barArw => exact (barArw ..).readBack (by simp)
  | waitCnt => exact (waitCnt ..).readBack (by simp)
  | tagWany | tagWall | tagClr | waitNtc => exact (tag ..).readBack (by simp)
  | tagFfr => exact (tagFfr ..).readBack (by simp)
  | yield | join | exit => exact (yieldJoinExit ..).readBack (by simp)
  | rcv => exact (rcv ..).readBack (by simp)
  | fuse => exact (fuse ..).readBack (by simp)
  | split => exact (split ..).readBack (by simp)
  | voteAny | voteAll => exact (vote ..).readBack (by simp)
  | voteBal => exact (voteBal ..).readBack (by simp)
  | lget => exact (lget ..).readBack (by simp)
  | wqInit => exact (wqInit ..).readBack (by simp)
  | wqNext => exact (wqNext ..).readBack (by simp)
  | tskDone | tskSubmit => exact (tsk ..).readBack (by simp)
  | stgAcq => exact (stgAcq ..).readBack (by simp)
  | stgRel => exact (stgRel ..).readBack (by simp)
  | stgPeek => exact (stgPeek ..).readBack (by simp)
  | vbAcq | vbRel => exact (vb ..).readBack (by simp)
  | vbAcqTry => exact (vbAcqTry ..).readBack (by simp)
  | rdsys => exact (rdsys ..).readBack (by simp)
  | wrsys => exact (wrsys ..).readBack (by simp)
  | ecall | ebreak | upret | eret => exact (sys ..).readBack (by simp)
  | wcfg => exact (wcfg ..).readBack (by simp)
  | fqPop | svcDone | xlatInv | cacheWb | cacheInv | halt | nbrPut | nbrGet | mcast | clReform => exact (sys3 ..).readBack (by simp)
  | ctxSave | ctxRest => exact (ctx ..).readBack (by simp)
  | vAdd | vSub | vMul | vFma | vFms | vMin | vMax | vAnd | vOr | vXor | vShl | vShr | vCmp | vSel | vBcast | vClamp =>
    exact (vecBit ..).readBack (by simp)
  | vAbs | vNeg | vCvt | vMov | vRsum | vRmax | vRmin | vScan | vSfu | vGat | vSct => exact (vec ..).readBack (by simp)
  | vIota => exact (vIota ..).readBack (by simp)
  | mxCfg => exact (mxCfg ..).readBack (by simp)
  | mxLd => exact (mxLd ..).readBack (by simp)
  | mxMma => exact (mxMma ..).readBack (by simp)
  | mxZero => exact (mxZero ..).readBack (by simp)
  | mxSt => exact (mxSt ..).readBack (by simp)
  | gmLay | gmGemv => exact (gm ..).readBack (by simp)
  | cpBulk | gaGath | clAg | clBc | clSend | clRecv | clAbort => exact (copy ..).readBack (by simp)
  | cpCancel => exact (cpCancel ..).readBack (by simp)
  | scScat | clAr | clRs => exact (copyOp ..).readBack (by simp)
  | sqOpen => exact (sqOpen ..).readBack (by simp)
  | sqNext | sqClose => exact (sq ..).readBack (by simp)
  | sqEnd => exact (sqEnd ..).readBack (by simp)
  | sqCrd => exact (sqCrd ..).readBack (by simp)
  | sqPos => exact (sqPos ..).readBack (by simp)
  | sqSeek | sqSave | sqRest => exact (sqReg ..).readBack (by simp)
  | sqIsect | sqUnion => exact (sqPair ..).readBack (by simp)
  | sqDrain => exact (sqDrain ..).readBack (by simp)
  | sqPart => exact (sqPart ..).readBack (by simp)
  | mxSpmm => exact (mxSpmm ..).readBack (by simp)
  | spPack | spUnpack => exact (spPack ..).readBack (by simp)
  | spInval | spPin => exact (spBit ..).readBack (by simp)
  | spStat => exact (spStat ..).readBack (by simp)
  | amoAdd | amoAnd | amoOr | amoXor | amoMin | amoMax | amoMinn | amoMaxn | amoSwp | amoCas | amoFadd =>
    exact (amo _ _ _ _ _ _ _ (of_decide_eq_true hwf)).readBack (by simp)
  | redAdd | redFadd | redMin | redMax | redOr => exact (red _ _ _ _ _ _ (order_of_wf hwf)).readBack (by simp)
  | _ => exact nofun

/-- Settles O59: the fields of the word meet the tests of one row of the decoder, which reads them back. -/
theorem encodeDecode : Obligations.EncodeDecode := by
  intro i w hwf hw
  obtain ⟨hi, hlt⟩ := readBack_of_wf hwf w hw
  exact ⟨decodeWord_ok_iff.2 ⟨hi, hwf⟩, hlt⟩

end Sys2Proof.Layout
end

section
/-! Words that a scalar major refuses, and the ILLEGAL trap that they raise (O2, O3, O8). -/
namespace Sys2Proof.Machine

/-- A word of another major than SYS lacks no privilege: it traps with ILLEGAL (R8). -/
theorem traps_illegalEncoding {s : State} {m : Nat} (hm : fld s.subj.num 25 6 = m) (hsys : m ≠ 0x23 := by decide) :
    Traps .illegalEncoding cILLEGAL s := by
  have hp : privWord s.subj.num = false := decide_eq_false fun h => hsys (hm.symm.trans h.1)
  have hx : exec .illegalEncoding s = execIllegalEncoding s := rfl
  refine traps_of fun c hc => hx.trans ((onCtx_some hc _).trans ?_)
  simp [hp]

end Sys2Proof.Machine

namespace Sys2Proof

/-- Two fields side by side are one field. -/
theorem fld_add (w lo j k : Nat) : fld w lo (j + k) = fld w lo j + 2 ^ j * fld w (lo + j) k := by
  rw [fld, fld, fld, Nat.pow_add, Nat.mod_mul, Nat.div_div_eq_div_mul, ← Nat.pow_add]

theorem fld_lt (w lo k : Nat) : fld w lo k < 2 ^ k := Nat.mod_lt _ (Nat.two_pow_pos k)

/-- A row whose bits the word does not have answers nothing. -/
theorem row_refuses {p : Prop} [Decidable p] {i : Instr} {r : Option Instr} (hp : ¬ p) (hr : r = none) : (if p then some i else r) = none := by
  rw [if_neg hp, hr]

theorem decodeWord_unassigned {w m : Nat} (hm : fld w 25 6 = m) (hn : decMajor w = none) (ha : majorAssigned m = true := by decide) :
    decodeWord w = .error (.unassigned m) := by
  simp only [decodeWord, hn, hm, ha, if_true]

/-- A word of which no well-formed instruction is read decodes to none. -/
theorem decodeWord_refuses {w : Nat} (h : ∀ i, decMajor w = some i → i.wf = false) : ∃ e, decodeWord w = .error e := by
  cases hd : decodeWord w with
  | error e => exact ⟨e, rfl⟩
  | ok i =>
    obtain ⟨hi, hwf⟩ := decodeWord_ok_iff.1 hd
    exact absurd hwf (by simp [h i hi])

/-- INT-R (R199): what stands above the function value decides, where the function value does not. -/
theorem decIntR_refuses {w : Nat} (h : 0x1E ≤ fld w 0 6 ∨ (fld w 9 1 = 1 ∧ 2 ≤ fld w 0 6) ∨ (fld w 6 3 ≠ 0 ∧ fld w 0 6 ≠ 0x1D) ∨
    (fld w 10 5 ≠ 0 ∧ 0x12 ≤ fld w 0 6 ∧ fld w 0 6 ≤ 0x1A)) : decIntR w = none := by
  have h9 := fld_add w 0 6 3
  have h10 := fld_add w 0 9 1
  have h15 := fld_add w 0 10 5
  simp only [Nat.zero_add, Nat.reduceAdd, Nat.reducePow] at h9 h10 h15
  unfold decIntR
  repeat' refine row_refuses (by omega) ?_
  rfl

theorem decShi_refuses {w : Nat} (h : fld w 6 2 = 3 ∨ fld w 8 7 ≠ 0) : decShi w = none := by
  have h9 := fld_add w 6 2 7
  simp only [Nat.reduceAdd, Nat.reducePow] at h9
  unfold decShi
  repeat' refine row_refuses (by omega) ?_
  rfl

/-- PRED (R219): `pcmp` alone reads a condition, and the conditions 6 and 7 are not assigned. -/
theorem decPred_refuses {w : Nat} (h : fld w 23 2 ≠ 0 ∨ fld w 3 3 ≠ 0 ∨ 5 ≤ fld w 6 4 ∨ (fld w 6 4 = 0 ∧ 6 ≤ fld w 0 3) ∨
    (1 ≤ fld w 6 4 ∧ (fld w 18 2 ≠ 0 ∨ fld w 13 2 ≠ 0 ∨ fld w 0 3 ≠ 0)) ∨ (fld w 6 4 = 4 ∧ fld w 10 5 ≠ 0)) :
    ∀ i, decPred w = some i → i.wf = false := by
  have h7 := fld_add w 3 3 4
  have h6 := fld_add w 0 3 3
  have h10 := fld_add w 0 6 4
  have h15 := fld_add w 0 10 5
  have h13 := fld_add w 10 3 2
  simp only [Nat.zero_add, Nat.reduceAdd, Nat.reducePow] at h7 h6 h10 h15 h13
  have hc := fld_lt w 0 3
  have hz := fld_lt w 3 3
  intro i hi
  by_cases hp : fld w 3 7 = 0 ∧ fld w 23 2 = 0
  · rw [decPred, if_pos hp] at hi
    obtain rfl := Option.some.inj hi
    exact decide_eq_false (by rw [finAt_val]; omega)
  · have hn : decPred w = none := by
      rw [decPred, if_neg hp]
      repeat' refine row_refuses (by omega) ?_
      rfl
    rw [hn] at hi
    cases hi

end Sys2Proof
end

section
/-! Float comparisons (O7). -/
namespace Sys2Proof.Machine

/-- The exact values are ordered: of two, one at most is below the other. -/
theorem Ex.lt_asymm : ∀ {x y : Ex}, x.lt y = true → y.lt x = false
  | .inf true, .inf false, _ => rfl
  | .inf true, .fin _ _ _, _ => rfl
  | .fin _ _ _, .inf false, _ => rfl
  | .fin _ _ _, .fin _ _ _, h => decide_eq_false (not_lt_of_gt (of_decide_eq_true h))

theorem Ex.not_nan_of_lt : ∀ {x y : Ex}, x.lt y = true → x.isNan = false ∧ y.isNan = false
  | .inf _, .inf _, _ => ⟨rfl, rfl⟩
  | .inf _, .fin _ _ _, _ => ⟨rfl, rfl⟩
  | .fin _ _ _, .inf _, _ => ⟨rfl, rfl⟩
  | .fin _ _ _, .fin _ _ _, _ => ⟨rfl, rfl⟩

/-- The conditions of R205 from the order alone: a value that is below another is no NaN, and the other is none and not below it. -/
theorem fCond_eq (c : Fin 8) (x y : Ex) : fCond c.val x y =
    let un := x.isNan || y.isNan
    let eq := !x.lt y && !y.lt x
    if c = 0 then !un && eq else if c = 1 then un || !eq else if c = 2 then !un && x.lt y else if c = 3 then !un && !y.lt x
    else if c = 4 then !un && y.lt x else if c = 5 then !un && !x.lt y else if c = 6 then un else !un := by
  have hxy := @Ex.lt_asymm x y
  have hx := @Ex.not_nan_of_lt x y
  have hy := @Ex.not_nan_of_lt y x
  unfold fCond Ex.eqv
  generalize x.lt y = l, y.lt x = g, x.isNan = m, y.isNan = n at *
  revert c l g m n
  decide

/-- Settles O7: each condition by the order of the two values. -/
theorem floatComparisons : Obligations.FloatComparisons := by
  refine ⟨fun s sm n a b c t => longPred_of ?_, fun sm n a b c t => congrArg some (by ring)⟩
  have hx : exec (.fcmp sm n a b c t) s = execFcmp sm n a b c t s := rfl
  rw [hx, execFcmp]
  simp only [fCond_eq]
  rfl

end Sys2Proof.Machine
end

section
/-! Predicates (O8). -/
namespace Sys2Proof.Machine

theorem pcmpCond_eq {c : Fin 8} (hc : c.val < 6) (x y : Word) : intCond c.val x y =
    if c = 0 then decide (x = y) else if c = 1 then decide (x ≠ y) else if c = 2 then decide (x.toInt < y.toInt)
    else if c = 3 then decide (y.toInt ≤ x.toInt) else if c = 4 then decide (x.toNat < y.toNat) else decide (y.toNat ≤ x.toNat) :=
  match c with
  | 0 => beq_eq_decide x y
  | 1 => intCond_ne x y
  | 2 => intCond_slt x y
  | 3 => intCond_sge x y
  | 4 => intCond_ult x y
  | 5 => intCond_uge x y

/-- Settles O8: `pcmp` by the six integer conditions, the other operations as they stand, and the refused words by the rows of the major. -/
theorem predicateResults : Obligations.PredicateResults := by
  refine ⟨fun s sm n k j a b c hc => ⟨fixedPred_of ?_, fixedPred_of rfl, fixedPred_of rfl, fixedPred_of rfl, fixedPred_of rfl⟩,
    ⟨fun sm n k j a b c => ?_, fun w hw h => decodeWord_refuses ?_⟩, fun s hs => traps_illegalEncoding hs⟩
  · have hx : exec (.pcmp sm n a b c) s = execPcmp sm n a b c s := rfl
    rw [hx, execPcmp]
    simp only [pcmpCond_eq hc]
  · and_intros <;> exact congrArg some (by ring)
  · simp only [decMajor, hw]
    exact decPred_refuses h

end Sys2Proof.Machine
end

section
/-! Votes and lane reads (O13). -/
namespace Sys2Proof.Machine

/-- The ballot of the lanes of l, each at the place that f gives it. -/
theorem getLsbD_ballot {f : CtxId → Nat} (hf : ∀ i, f i < 16) (l : List CtxId) (k : Nat) :
    (l.foldl (fun x i => x ||| laneBit (f i)) 0).getLsbD k = l.any fun i => decide (f i = k) := by
  rw [← List.foldl_map (f := f) (g := fun x i => x ||| laneBit i)]
  by_cases hk : k < 16
  · rw [getLsbD_foldl_laneBit hk, Bool.eq_iff_iff]
    simp only [BitVec.ofNat_eq_ofNat, BitVec.getLsbD_zero, Bool.false_or, decide_eq_true_eq, List.mem_map, List.any_eq_true]
  · rw [BitVec.getLsbD_of_ge _ _ (Nat.le_of_not_lt hk), eq_comm, List.any_eq_false]
    exact fun i _ h => hk (of_decide_eq_true h ▸ hf i)

/-- `lget` of a group reads a member's register, and 0 where the number is of none (R227). -/
theorem lgetVal_eq (s : State) (g : Group) (a : Reg) (w : Word) :
    (let k := wfld w 0 4
    if g.width ≤ k ∨ g.members.getLsbD k = false then 0 else s.rg ⟨g.cl, g.base + k, g.slot⟩ a) =
    (let k := w.toNat % 16
    if k < g.width ∧ g.members.getLsbD k = true then s.rg ⟨g.cl, g.base + k, g.slot⟩ a else 0) := by
  have hk : wfld w 0 4 = w.toNat % 16 := fld_zero w.toNat 4
  simp only [hk, ← Bool.not_eq_true, ← Nat.not_lt, ← not_and_or, ite_not]

/-- Settles O13: the ballot has the bit of each active lane whose predicate is true; a lane read finds a member of the group or none. -/
theorem votes : Obligations.Votes := by
  intro s sm n m d a b
  refine ⟨longPred_of rfl, longPred_of rfl, ⟨_, longReg_of rfl, fun k hk => ?_⟩, fun hg => longReg_of ?_, fun g hg => longReg_of ?_⟩
  · rw [BitVec.getLsbD_setWidth, decide_eq_true hk, Bool.true_and, getLsbD_ballot fun i => Nat.mod_lt _ (by decide), List.any_filter]
  · have hx : exec (.lget sm d a b) s = execLget sm d a b s := rfl
    rw [hx, execLget, hg]
  · have hx : exec (.lget sm d a b) s = execLget sm d a b s := rfl
    rw [hx, execLget, hg]
    exact congrArg (onCtx s) (funext fun _ => congrArg (s.longR sm d) (funext fun l => lgetVal_eq s g a (s.rg l b)))

end Sys2Proof.Machine
end

section
/-! Integer results as numbers (O2, O3). -/
namespace Sys2Proof.Machine

/-- A fixed instruction, with its results in other words. -/
theorem fixed_of_eq {i : Instr} {s : State} {sm : Bool} {d : Reg} {f v : CtxId → Word} (h : exec i s = onCtx s fun _ => s.fixedR sm d f)
    (hv : ∀ l, f l = v l) : Fixed i sm d v s :=
  funext hv ▸ fixed_of h

/-! ### Sums, comparisons, shift amounts (R90, R199) -/

theorem satWord_eq (i : Int) : satWord i = BitVec.ofInt 64 (max (-2 ^ 63) (min (2 ^ 63 - 1) i)) :=
  congrArg (BitVec.ofInt 64) (clampInt_eq (intLo_le_intHi 64 false) i)

theorem shAmt_eq (w : Word) : shAmt w = w.toNat % 64 := fld_zero w.toNat 6

theorem ofBool64_slt (x y : Word) : ofBool64 (x.slt y) = if x.toInt < y.toInt then 1 else 0 := by
  simp only [ofBool64, BitVec.slt, decide_eq_true_eq]

theorem ofBool64_ult (x y : Word) : ofBool64 (x.ult y) = if x.toNat < y.toNat then 1 else 0 := by
  simp only [ofBool64, BitVec.ult, decide_eq_true_eq]

theorem minSigned_eq (x y : Word) : (if y.slt x then y else x) = if x.toInt ≤ y.toInt then x else y := by
  simp only [BitVec.slt, decide_eq_true_eq, ← not_le, ite_not]

theorem minUnsigned_eq (x y : Word) : (if y.ult x then y else x) = if x.toNat ≤ y.toNat then x else y := by
  simp only [BitVec.ult, decide_eq_true_eq, ← Nat.not_le, ite_not]

theorem maxSigned_eq (x y : Word) : (if x.slt y then y else x) = if x.toInt ≤ y.toInt then y else x := by
  simp only [BitVec.slt, decide_eq_true_eq]
  rcases lt_trichotomy x.toInt y.toInt with h | h | h
  · rw [if_pos h, if_pos h.le]
  · rw [BitVec.eq_of_toInt_eq h, ite_self, ite_self]
  · rw [if_neg h.not_gt, if_neg h.not_ge]

theorem maxUnsigned_eq (x y : Word) : (if x.ult y then y else x) = if x.toNat ≤ y.toNat then y else x := by
  simp only [BitVec.ult, decide_eq_true_eq]
  rcases Nat.lt_trichotomy x.toNat y.toNat with h | h | h
  · rw [if_pos h, if_pos h.le]
  · rw [BitVec.eq_of_toNat_eq h, ite_self, ite_self]
  · rw [if_neg h.not_gt, if_neg h.not_ge]

/-! ### Counts (R199) -/

/-- A count of the bits of a word as a word. -/
theorem toNat_count {n : Nat} (h : n ≤ 64) : (BitVec.ofNat 64 n).toNat = n := by
  rw [BitVec.toNat_ofNat, Nat.mod_eq_of_lt (by omega)]

/-- The leading zeros of the low n bits, and the one bit below them. -/
theorem clzFrom_spec (x : Word) (n : Nat) : clzFrom x n ≤ n ∧ (∀ i, n - clzFrom x n ≤ i → i < n → x.getLsbD i = false) ∧
    (clzFrom x n < n → x.getLsbD (n - 1 - clzFrom x n) = true) := by
  induction n with
  | zero => exact ⟨Nat.le_refl 0, fun i _ hi => absurd hi (Nat.not_lt_zero i), fun h => absurd h (Nat.not_lt_zero _)⟩
  | succ n ih =>
    obtain ⟨hle, hzero, hone⟩ := ih
    cases hb : x.getLsbD n with
    | true =>
      simp only [clzFrom, hb, if_true]
      exact ⟨Nat.zero_le _, fun i hlo hhi => absurd hhi (by omega), fun _ => hb⟩
    | false =>
      simp only [clzFrom, hb, Bool.false_eq_true, if_false]
      refine ⟨by omega, fun i hlo hhi => ?_, fun h => ?_⟩
      · rcases Nat.lt_succ_iff_lt_or_eq.1 hhi with hi | rfl
        · exact hzero i (by omega) hi
        · exact hb
      · rw [show n + 1 - 1 - (clzFrom x n + 1) = n - 1 - clzFrom x n by omega]
        exact hone (by omega)

/-- The trailing zeros of the n bits from bit k on, and the one bit above them. -/
theorem ctzFrom_spec (x : Word) (k n : Nat) : ctzFrom x k n ≤ n ∧ (∀ i, i < ctzFrom x k n → x.getLsbD (k + i) = false) ∧
    (ctzFrom x k n < n → x.getLsbD (k + ctzFrom x k n) = true) := by
  induction n generalizing k with
  | zero => exact ⟨Nat.le_refl 0, fun i hi => absurd hi (Nat.not_lt_zero i), fun h => absurd h (Nat.not_lt_zero _)⟩
  | succ n ih =>
    obtain ⟨hle, hzero, hone⟩ := ih (k + 1)
    cases hb : x.getLsbD k with
    | true =>
      simp only [ctzFrom, hb, if_true]
      exact ⟨Nat.zero_le _, fun i hi => absurd hi (Nat.not_lt_zero i), fun _ => hb⟩
    | false =>
      simp only [ctzFrom, hb, Bool.false_eq_true, if_false]
      refine ⟨by omega, fun i hi => ?_, fun h => ?_⟩
      · cases i with
        | zero => exact hb
        | succ i =>
          rw [← Nat.add_assoc, Nat.add_right_comm]
          exact hzero i (by omega)
      · rw [← Nat.add_assoc, Nat.add_right_comm]
        exact hone (by omega)

theorem popFrom_eq (x : Word) (n : Nat) : popFrom x n = (List.range n).countP fun i => x.getLsbD i := by
  induction n with
  | zero => rfl
  | succ n ih => rw [popFrom, ih, List.range_succ, List.countP_append, List.countP_singleton, Nat.add_comm]

/-! ### Reversals (R199) -/

theorem bitsOf_lt (f : Nat → Bool) (n : Nat) : bitsOf f n < 2 ^ n := by
  induction n with
  | zero => exact Nat.one_pos
  | succ n ih =>
    rw [bitsOf, Nat.pow_succ]
    split <;> omega

theorem testBit_bitsOf (f : Nat → Bool) (n i : Nat) : (bitsOf f n).testBit i = (decide (i < n) && f i) := by
  induction n with
  | zero => simp [bitsOf]
  | succ n ih =>
    have hn : (if f n then 2 ^ n else 0) = 2 ^ n * (f n).toNat := by cases f n <;> simp
    rw [bitsOf, hn, Nat.testBit_two_pow_mul_add _ (bitsOf_lt f n), Nat.testBit_bool_toNat, ih]
    rcases lt_trichotomy i n with hi | rfl | hi
    · rw [if_pos hi, decide_eq_true hi, decide_eq_true (by omega : i < n + 1)]
    · simp
    · rw [if_neg (by omega), decide_eq_false (by omega : ¬ i - n = 0), decide_eq_false (by omega : ¬ i < n + 1), Bool.false_and, Bool.false_and]

/-- A bit of the number that bytes hold is a bit of the byte that it falls in. -/
theorem testBit_leNat (l : List Byte) (i : Nat) : (leNat l).testBit i = (l.getD (i / 8) 0).getLsbD (i % 8) := by
  induction l generalizing i with
  | nil => simp [leNat]
  | cons b r ih =>
    have hb : b.toNat < 2 ^ 8 := b.isLt
    rw [leNat, Nat.add_comm, show (256 : Nat) = 2 ^ 8 from rfl, Nat.testBit_two_pow_mul_add _ hb]
    split
    · rw [Nat.div_eq_of_lt ‹_›, Nat.mod_eq_of_lt ‹_›]
      rfl
    · rw [ih, show i / 8 = (i - 8) / 8 + 1 by omega, show i % 8 = (i - 8) % 8 by omega]
      rfl

theorem getElem_leBytes (n v j : Nat) (h : j < (leBytes n v).length) : (leBytes n v)[j] = BitVec.ofNat 8 (v / 256 ^ j) := by
  induction n generalizing v j with
  | zero => exact absurd h (Nat.not_lt_zero j)
  | succ n ih =>
    cases j with
    | zero => simp [leBytes]
    | succ j => simp only [leBytes, List.getElem_cons_succ, ih, Nat.div_div_eq_div_mul, Nat.pow_succ']

/-- Byte j of a word is byte 7 - j of the word with its bytes reversed. -/
theorem getLsbD_bswap (x : Word) {i : Nat} (hi : i < 64) :
    (BitVec.ofNat 64 (leNat (leBytes 8 x.toNat).reverse)).getLsbD i = x.getLsbD (8 * (7 - i / 8) + i % 8) := by
  have hlen : i / 8 < (leBytes 8 x.toNat).reverse.length := by rw [List.length_reverse, length_leBytes]; omega
  rw [BitVec.getLsbD_ofNat, decide_eq_true hi, Bool.true_and, testBit_leNat, List.getD_eq_getElem _ _ hlen, List.getElem_reverse, getElem_leBytes,
    length_leBytes, BitVec.getLsbD_ofNat, decide_eq_true (Nat.mod_lt i (by decide)), Bool.true_and, show (256 : Nat) = 2 ^ 8 from rfl, ← Nat.pow_mul,
    Nat.testBit_div_two_pow, Nat.add_comm]
  rfl

/-! ### Bit fields (R200) -/

theorem bfPos_eq (w : Word) : bfPos w = w.toNat % 64 := fld_zero w.toNat 6

theorem bfLen_eq (w : Word) : bfLen w = min (w.toNat / 256 % 128) (64 - w.toNat % 64) := by
  rw [bfLen, bfPos_eq]
  rfl

theorem getLsbD_bfxVal (x w : Word) {i : Nat} (hi : i < 64) :
    (bfxVal x w).getLsbD i = (decide (i < bfLen w) && x.getLsbD (bfPos w + i)) := by
  rw [bfxVal, BitVec.getLsbD_ofNat, decide_eq_true hi, Bool.true_and, wfld, fld, Nat.testBit_mod_two_pow, Nat.testBit_div_two_pow, Nat.add_comm i]
  rfl

theorem getLsbD_bfMask (pos len : Nat) {i : Nat} (hi : i < 64) : (bfMask pos len).getLsbD i = decide (pos ≤ i ∧ i < pos + len) := by
  rw [bfMask, BitVec.getLsbD_ofNat, decide_eq_true hi, Bool.true_and, Nat.testBit_mul_two_pow, Nat.testBit_two_pow_sub_one, ← Bool.decide_and]
  exact decide_eq_decide.2 (by omega)

/-- In the field the bits come from gA, and outside it they stay. -/
theorem getLsbD_bfiVal (old x w : Word) {i : Nat} (hi : i < 64) : (bfiVal old x w).getLsbD i =
    if bfPos w ≤ i ∧ i < bfPos w + bfLen w then x.getLsbD (i - bfPos w) else old.getLsbD i := by
  simp only [bfiVal, BitVec.getLsbD_or, BitVec.getLsbD_and, BitVec.getLsbD_not, BitVec.getLsbD_shiftLeft, getLsbD_bfMask _ _ hi, hi]
  split
  next h => simp [h]
  next h => simp [h]

/-! ### Immediates (R201) -/

theorem lihVal_eq (h : Fin 16) (v : BitVec 16) : lihVal h v = BitVec.ofNat 64 (v.toNat * 2 ^ (4 * h.val)) := by
  refine BitVec.eq_of_toNat_eq ?_
  rw [lihVal, BitVec.toNat_shiftLeft, BitVec.toNat_setWidth_of_le (by decide), Nat.shiftLeft_eq, BitVec.toNat_ofNat]

theorem adpcVal_eq (pc : Word) (j : BitVec 20) : adpcVal pc j = pc + j.signExtend 64 * 2 ^ 14 :=
  congrArg (pc + ·) (BitVec.shiftLeft_eq_mul_twoPow _ 14)

end Sys2Proof.Machine
end

section
/-! Integer register instructions (O2) and the immediate majors (O3). -/
namespace Sys2Proof.Machine

/-- Settles O2: the functions by their values as words and numbers, the counts, reversals and bit fields by the bits of their results. -/
theorem integerRegisterResults : Obligations.IntegerRegisterResults := by
  refine ⟨fun s sm d a b p => ?_,
    fun s sm d a => ⟨⟨_, fixed_of rfl, fun l => ?clz⟩, ⟨_, fixed_of rfl, fun l => ?ctz⟩, ⟨_, fixed_of rfl, fun l => ?pop⟩,
      ⟨_, fixed_of rfl, fun l i hi => ?brev⟩, ⟨_, fixed_of rfl, fun l i hi => getLsbD_bswap _ hi⟩⟩,
    fun s sm d a b => ⟨⟨_, fixed_of rfl, fun l i hi => ?bfx⟩, ⟨_, fixed_of rfl, fun l i hi => ?bfi⟩⟩,
    ⟨fun sm t d a b p => ?encode, fun w hw h => decodeWord_unassigned hw ?refused⟩, fun s hs => traps_illegalEncoding hs⟩
  · have amount : ∀ l, shAmt (s.rg l b) = (s.rg l b).toNat % 64 := fun l => shAmt_eq _
    exact ⟨fixed_of rfl, fixed_of rfl, fixed_of_eq rfl fun l => satWord_eq _, fixed_of_eq rfl fun l => satWord_eq _,
      fixed_of rfl, fixed_of rfl, fixed_of rfl, fixed_of rfl, fixed_of rfl,
      fixed_of_eq rfl fun l => congrArg _ (amount l), fixed_of_eq rfl fun l => congrArg _ (amount l), fixed_of_eq rfl fun l => congrArg _ (amount l),
      fixed_of_eq rfl fun l => congrArg _ (amount l), fixed_of_eq rfl fun l => congrArg _ (amount l),
      fixed_of_eq rfl fun l => ofBool64_slt _ _, fixed_of_eq rfl fun l => ofBool64_ult _ _,
      fixed_of_eq rfl fun l => minSigned_eq _ _, fixed_of_eq rfl fun l => maxSigned_eq _ _,
      fixed_of_eq rfl fun l => minUnsigned_eq _ _, fixed_of_eq rfl fun l => maxUnsigned_eq _ _,
      fixed_of rfl, fixed_of rfl, fixed_of rfl, fixed_of rfl, fixed_of rfl⟩
  case clz =>
    have h := clzFrom_spec (s.rg l a) 64
    rw [toNat_count h.1]
    exact h
  case ctz =>
    have h := ctzFrom_spec (s.rg l a) 0 64
    simp only [Nat.zero_add] at h
    rw [toNat_count h.1]
    exact h
  case pop =>
    have hle : popFrom (s.rg l a) 64 ≤ 64 := popFrom_eq _ 64 ▸ List.countP_le_length
    rw [toNat_count hle, popFrom_eq]
  case brev =>
    rw [BitVec.getLsbD_ofNat, testBit_bitsOf, decide_eq_true hi, Bool.true_and, Bool.true_and]
  case bfx =>
    rw [getLsbD_bfxVal _ _ hi, bfLen_eq, bfPos_eq]
  case bfi =>
    rw [getLsbD_bfiVal _ _ _ hi, bfLen_eq, bfPos_eq]
  case encode =>
    and_intros <;> exact congrArg some (by omega)
  case refused =>
    rw [decMajor, hw]
    exact decIntR_refuses h

/-- Settles O3: each immediate as the word that it stands for, and the refused shifts by the rows of SHI. -/
theorem integerImmediateResults : Obligations.IntegerImmediateResults := by
  refine ⟨fun s sm d a i k n h v j => ?_, fun w hw hf => decodeWord_unassigned hw ?_, fun s hs => traps_illegalEncoding hs⟩
  · refine ⟨fixed_of rfl, fixed_of rfl, fixed_of rfl, fixed_of rfl, fixed_of rfl, fixed_of rfl, fixed_of rfl,
      fixed_of_eq rfl fun l => ofBool64_slt _ _, fixed_of_eq rfl fun l => ofBool64_ult _ _, fixed_of_eq rfl fun _ => lihVal_eq h v, ?_⟩
    intro c hc
    have hx : exec (.adpc sm d j) s = .next (s.fixedR sm d fun _ => adpcVal c.pc j) := onCtx_some hc _
    refine ⟨_, hx, ?_⟩
    rw [adpcVal_eq, ← ctx_of_find hc]
    exact wroteReg_fixedR s sm d _
  · rw [decMajor, hw]
    exact decShi_refuses hf

end Sys2Proof.Machine
end

section
/-! Vector issue (O35). -/
namespace Sys2Proof.Machine

/-! ### A command joins the queue of its cluster -/

/-- A change of one cluster leaves the others. -/
theorem cluster_modCluster_ne (s : State) {cl j : Nat} (hj : j ≠ cl) {f : Cluster → Cluster} (hf : ∀ k, (f k).id = k.id) :
    (s.modCluster cl f).cluster j = s.cluster j := by
  have hid : ∀ k : Cluster, (if k.id = cl then f k else k).id = k.id := fun k => by split <;> simp only [hf]
  unfold State.modCluster State.cluster
  split
  · simp only [List.find?_map, Function.comp_def, hid]
    cases h : s.clusters.find? fun k => decide (k.id = j) with
    | none => rfl
    | some k =>
      have hk : k.id = j := of_decide_eq_true (List.find?_some h :)
      rw [Option.map_some, if_neg (hk ▸ hj)]
  · rw [List.find?_append, List.find?_singleton, hf, if_neg (by simpa using hj.symm), Option.or_none]

/-- A cluster with one more vector command, behind those that it has. -/
def Cluster.pushVec (v : VCmd) (k : Cluster) : Cluster := { k with vq := k.vq ++ [v] }

theorem cluster_pushVec (s : State) (cl : Nat) (v : VCmd) (j : Nat) :
    (s.modCluster cl (Cluster.pushVec v)).cluster j = if j = cl then (s.cluster j).pushVec v else s.cluster j := by
  split
  · rename_i h
    rw [h]
    exact cluster_modCluster_self s cl (f := Cluster.pushVec v) fun _ => rfl
  · rename_i h
    exact cluster_modCluster_ne s h fun _ => rfl

/-- The command that the checks of issue have let pass (R245, R246, R253, R255). -/
def State.vecCommand (s : State) (c : Ctx) (op : Nat) (scl : Bool) (gb : Word) (dv : View) (r : List (Option View)) : VCmd :=
  let parts := vecParts op (((s.groupOf s.cur).map Group.width).getD 1) dv
  { pipe := s.cur.pipe, by_ := s.behalf c, op := op, scl := scl, gb := gb, d := dv, s1 := (r[0]?).join, s2 := (r[1]?).join, s3 := (r[2]?).join
    weight := c.weight, parts := parts, work := List.replicate (max parts 1) {}
    sig := { bar := if wb gb 43 then some (wfld gb 44 5, 1) else none
             ring := if wb gb 49 then some (wfld gb 50 3, wfld gb 53 3) else none }
    oc := if op = 0x1A ∨ op = 0x1B then some s.ocNext else none }

/-- A gather or a scatter counts in OCG (R153, R269). -/
def State.vecCounted (s : State) (op : Nat) : State := if op = 0x1A ∨ op = 0x1B then (s.ocIssue s.cur .ocg).2 else s

theorem vecCounted_rest (s : State) (op : Nat) : s.vecCounted op = { s with ocq := (s.vecCounted op).ocq, ocNext := (s.vecCounted op).ocNext } := by
  unfold State.vecCounted
  split <;> rfl

theorem vecCounted_counts (s : State) (op : Nat) : if op = 0x1A ∨ op = 0x1B
    then (s.vecCounted op).ocq = s.ocq ++ [{ ticket := s.ocNext, ctx := s.cur, cls := .ocg, done := false }] ∧ (s.vecCounted op).ocNext = s.ocNext + 1
    else (s.vecCounted op).ocq = s.ocq ∧ (s.vecCounted op).ocNext = s.ocNext := by
  unfold State.vecCounted
  split <;> exact ⟨rfl, rfl⟩

theorem vecEnter_eq (s : State) (sm : Bool) (c : Ctx) (op : Nat) (scl : Bool) (gb : Word) (d : Reg) (dv : View) (r : List (Option View)) :
    s.vecEnter sm c op scl gb d dv (some dv :: r) =
      ((s.vecCounted op).modCluster s.cur.cl (Cluster.pushVec (s.vecCommand c op scl gb dv r))).longOnce sm d
        (BitVec.ofNat 64 (15 - ((s.cluster s.cur.cl).vq.filter fun v => decide (v.pipe = s.cur.pipe)).length)) := by
  unfold State.vecEnter State.vecCommand State.vecCounted
  by_cases h : op = 0x1A ∨ op = 0x1B
  · simp only [if_pos h]
    cases s.groupOf s.cur <;> rfl
  · simp only [if_neg h]
    cases s.groupOf s.cur <;> rfl

/-- A change of one cluster, and then a long result: the result is owed, and nothing else has changed but that cluster. -/
theorem owes_longOnce_modCluster (s : State) (cl : Nat) (f : Cluster → Cluster) (sm : Bool) (d : Reg) (v : Word) :
    ((s.modCluster cl f).longOnce sm d v).clusters = (s.modCluster cl f).clusters ∧
    Owes (lateOf s d fun _ => v) sm ((s.ctx s.cur).pc + 4) { s with clusters := (s.modCluster cl f).clusters } ((s.modCluster cl f).longOnce sm d v) := by
  have hw := modCluster_rest s cl f
  generalize s.modCluster cl f = w at hw ⊢
  generalize w.clusters = ks at hw ⊢
  subst hw
  have h := owes_longR { s with clusters := ks } sm d fun _ => v
  exact ⟨by rw [State.longOnce, h.rest], h⟩

theorem vecQueued_vecEnter (s u : State) (sm : Bool) (op : Nat) (scl : Bool) (gb : Word) (d : Reg) (dv : View) (r : List (Option View)) :
    VecQueued op scl sm gb d dv r s u (u.vecEnter sm (s.ctx s.cur) op scl gb d dv (some dv :: r)) := by
  have hcounts := vecCounted_counts u op
  have hv := vecCounted_rest u op
  generalize (u.vecCounted op).ocq = q, (u.vecCounted op).ocNext = m at hcounts hv
  rw [vecEnter_eq, hv]
  obtain ⟨hclusters, howes⟩ := owes_longOnce_modCluster { u with ocq := q, ocNext := m } u.cur.cl
    (Cluster.pushVec (u.vecCommand (s.ctx s.cur) op scl gb dv r)) sm d
    (BitVec.ofNat 64 (15 - ((u.cluster u.cur.cl).vq.filter fun v => decide (v.pipe = u.cur.pipe)).length))
  have hk := cluster_pushVec { u with ocq := q, ocNext := m } u.cur.cl (u.vecCommand (s.ctx s.cur) op scl gb dv r)
  generalize State.modCluster { u with ocq := q, ocNext := m } u.cur.cl _ = w at hclusters howes hk ⊢
  generalize w.longOnce sm d _ = t at hclusters howes ⊢
  have hcl : ∀ cl, t.cluster cl = if cl = u.cur.cl then (u.cluster cl).pushVec (u.vecCommand (s.ctx s.cur) op scl gb dv r) else u.cluster cl := fun cl => by
    rw [State.cluster, hclusters]
    exact hk cl
  have hocq : t.ocq = q := by rw [howes.rest]
  have hocNext : t.ocNext = m := by rw [howes.rest]
  refine ⟨fun cl => ?_, ?_, ?_, ?_⟩
  · rw [hcl]
    split <;> rfl
  · rw [hcl, if_pos rfl]
    rfl
  · rw [hocq, hocNext]
    exact hcounts
  · rw [hocq, hocNext, hclusters]
    exact howes

/-! ### The checks of issue (R246, R247) -/

theorem vecIssue_ready {s u : State} {op : Nat} {scl : Bool} {ga gb : Word} {dv : View} {r : List (Option View)} (h : VecReady op scl ga gb dv r s u)
    (sm : Bool) (d : Reg) : s.vecIssue sm (s.ctx s.cur) op scl ga gb d = u.vecEnter sm (s.ctx s.cur) op scl gb d dv (some dv :: r) := by
  have hindices : ((List.range 4).any fun k => vecIdxUsed op scl k == (vecIndex ga k == 0xFFFF)) = false := List.any_eq_false.mpr fun k hk => by
    have hused := h.indices k (List.mem_range.mp hk)
    rw [beq_iff_eq]
    intro he
    rw [he, beq_iff_eq] at hused
    exact iff_not_self hused
  have hrecords : (((List.range 4).filter (vecIdxUsed op scl)).any fun k => (s.recordBytes (s.teamOf s.cur) (vecIndex ga k)).isNone) = false :=
    List.any_eq_false.mpr fun k hk => by
      obtain ⟨hk, hused⟩ := List.mem_filter.mp hk
      rw [Option.isNone_eq_false_iff.mpr (h.records k (List.mem_range.mp hk) hused)]
      exact Bool.false_ne_true
  have hinside : (((some dv :: r).filterMap id).find? fun v => v.beyondVrs (s.ctx s.cur).vblocks) = none :=
    List.find?_eq_none.mpr fun v hv => by rw [h.inside v hv]; exact Bool.false_ne_true
  unfold State.vecIssue
  simp only [Nat.not_le.mpr h.room, h.signals, lacks, h.role, hindices, hrecords, h.word, h.views, hinside, h.whole, if_false, Bool.not_true,
    Bool.false_eq_true, List.getElem?_cons_zero, Option.join_some]

theorem vecIssue_lacksRole {s : State} (hroom : ((s.cluster s.cur.cl).vq.filter fun v => decide (v.pipe = s.cur.pipe)).length < 16)
    (hrole : (s.ctx s.cur).role.getLsbD 2 = false) {gb : Word} (hbar : wb gb 43 = false) (hring : wb gb 49 = false) (sm : Bool) (op : Nat) (scl : Bool)
    (ga : Word) (d : Reg) : s.vecIssue sm (s.ctx s.cur) op scl ga gb d = s.trapOpen cROLE := by
  unfold State.vecIssue
  simp only [Nat.not_le.mpr hroom, hbar, hring, lacks, hrole, Bool.false_and, Bool.or_false, Bool.not_false, Bool.false_eq_true, if_false, if_true]

/-- Settles O35: each operation is an issue with its function's number, which the ready command passes, and which a context without role V does not. -/
theorem vectorIssue : Obligations.VectorIssue := by
  intro s u sm x a b d dv r ops ga gb
  have hop : ∀ o ∈ ops, exec o.1 s = vecOp s sm o.2.1 o.2.2 a b d := List.forall_iff_forall_mem.mp (by and_intros <;> rfl)
  intro o ho
  refine ⟨fun h => ?_, fun hroom hrole hbar hring => traps_of fun c hc => ?_⟩
  · obtain ⟨c, hc⟩ := Option.isSome_iff_exists.mp h.here
    have hx : exec o.1 s = .next (s.vecIssue sm (s.ctx s.cur) o.2.1 o.2.2 ga gb d) := by
      rw [hop o ho, vecOp, onCtx_some hc, ctx_of_find hc]
    exact ⟨_, hx.trans (by rw [vecIssue_ready h]), vecQueued_vecEnter s u sm o.2.1 o.2.2 gb d dv r⟩
  · rw [hop o ho, vecOp, onCtx_some hc, ← ctx_of_find hc, vecIssue_lacksRole hroom hrole hbar hring]

end Sys2Proof.Machine
end

section
/-! The bytes of a switch area (O49): the image of a context lies at its place in its cluster's part. -/
namespace Sys2Proof.Machine

/-! ### Cells and bytes -/

theorem filter_inKeys_eq_nil {l : List Host.Cell} {lo n : Nat} (h : ∀ c ∈ l, c.1 < lo ∨ lo + n ≤ c.1) : l.filter (inKeys lo n) = [] :=
  List.filter_eq_nil_iff.mpr fun c hc => by
    have := h c hc
    simp only [inKeys, decide_eq_true_eq]
    omega

theorem filter_inKeys_eq_self {l : List Host.Cell} {lo n : Nat} (h : ∀ c ∈ l, lo ≤ c.1 ∧ c.1 < lo + n) : l.filter (inKeys lo n) = l :=
  List.filter_eq_self.mpr fun c hc => decide_eq_true (h c hc)

theorem cellsOf_range {lo : Nat} {b : List Byte} {c : Host.Cell} (h : c ∈ cellsOf lo b) : lo ≤ c.1 ∧ c.1 < lo + b.length := by
  obtain ⟨⟨v, i⟩, hx, hc⟩ := List.mem_filterMap.mp h
  have hi := List.snd_lt_of_mem_zipIdx hx
  dsimp only at hc hi
  split at hc
  · cases hc
  · cases hc
    exact ⟨Nat.le_add_right _ _, by dsimp only; omega⟩

theorem freeCells_range {c lo n : Nat} {x : Host.Cell} (h : x ∈ freeCells c lo n) : lo ≤ x.1 ∧ x.1 < lo + n := by
  have := cellsOf_range h
  rwa [List.length_map, List.length_range] at this

/-- Cells that all lie behind an address have a zero byte there. -/
theorem denseFrom_succ_of_lt {lo : Nat} (n : Nat) {l : List Host.Cell} (h : ∀ c ∈ l, lo < c.1) : denseFrom lo (n + 1) l = 0 :: denseFrom (lo + 1) n l := by
  cases l with
  | nil => rfl
  | cons c r => rw [denseFrom, if_neg (h c List.mem_cons_self).ne']

/-- The bytes of the cells of some bytes are those, from any place on in them. -/
theorem denseFrom_cells (lo : Nat) : ∀ (b : List Byte) (k : Nat),
    denseFrom (lo + k) b.length ((b.zipIdx k).filterMap fun x => if x.1 = 0 then none else some (lo + x.2, x.1)) = b
  | [], _ => rfl
  | v :: b, k => by
    have ih := denseFrom_cells lo b (k + 1)
    have hlater : ∀ c ∈ (b.zipIdx (k + 1)).filterMap fun x => if x.1 = 0 then none else some (lo + x.2, x.1), lo + k < c.1 := by
      intro c hc
      obtain ⟨⟨w, i⟩, hx, hc⟩ := List.mem_filterMap.mp hc
      have hi := List.le_snd_of_mem_zipIdx hx
      dsimp only at hc hi
      split at hc
      · cases hc
      · cases hc
        dsimp only
        omega
    rw [List.zipIdx_cons, List.filterMap_cons, List.length_cons]
    by_cases hv : v = 0
    · simp only [hv, if_true]
      rw [denseFrom_succ_of_lt _ hlater]
      exact congrArg _ ih
    · simp only [hv, if_false]
      rw [denseFrom, if_pos rfl]
      exact congrArg _ ih

theorem flatMap_range_single {α : Type} {f : Nat → List α} {k : Nat} : ∀ {n : Nat}, k < n → (∀ i < n, i ≠ k → f i = []) → (List.range n).flatMap f = f k
  | n + 1, hk, h => by
    rw [List.range_succ, List.flatMap_append, List.flatMap_singleton]
    by_cases hn : k = n
    · have hnil : (List.range n).flatMap f = [] := List.flatMap_eq_nil_iff.mpr fun i hi => by
        have := List.mem_range.mp hi
        exact h i (by omega) (by omega)
      rw [hnil, hn, List.nil_append]
    · rw [flatMap_range_single (by omega : k < n) fun i hi hik => h i (by omega) hik, h n (by omega) fun e => hn e.symm, List.append_nil]

/-! ### The part of a cluster (R387, R395) -/

theorem length_ctxImage (s : State) (id : CtxId) (l : Nat) (pc : Word) : (s.ctxImage id l pc).length = 512 := by
  have hregs : ∀ f : Fin 32 → Nat, ((List.finRange 32).flatMap fun r => leBytes 8 (f r)).length = 256 := fun f => by
    simp only [List.length_flatMap, length_leBytes, List.map_const', List.length_finRange, List.sum_replicate, smul_eq_mul]
  unfold State.ctxImage
  simp only [List.length_append, length_leBytes, hregs]
  cases (s.ctx id).rcd with
  | none => rw [List.length_replicate]
  | some r =>
    simp only [List.length_append, List.length_take, List.length_replicate, length_leBytes]
    omega

/-- The vector registers lie one context's behind the other's. -/
theorem vrsCells_range (s : State) : ∀ (cs : List Ctx) (o : Nat), (s.vrsCells cs o).2 = o + 1024 * (cs.map Ctx.vblocks).sum ∧
    ∀ c ∈ (s.vrsCells cs o).1, o ≤ c.1 ∧ c.1 < (s.vrsCells cs o).2
  | [], o => ⟨rfl, fun c hc => nomatch hc⟩
  | x :: cs, o => by
    obtain ⟨hend, hcells⟩ := vrsCells_range s cs (o + 1024 * x.vblocks)
    have hsum : (s.vrsCells (x :: cs) o).2 = o + 1024 * ((x :: cs).map Ctx.vblocks).sum := by
      rw [List.map_cons, List.sum_cons]
      refine Eq.trans (b := (s.vrsCells cs (o + 1024 * x.vblocks)).2) rfl ?_
      omega
    refine ⟨hsum, fun c hc => ?_⟩
    rw [hsum, List.map_cons, List.sum_cons]
    rcases List.mem_append.mp (hc :) with hc | hc
    · obtain ⟨y, hy, rfl⟩ := List.mem_map.mp hc
      have := of_decide_eq_true (List.mem_filter.mp hy).2
      dsimp only
      omega
    · have := hcells c hc
      omega

/-- What stands at image i of a cluster's part: the image of the context that is resident there, or bytes that nothing states. -/
def State.imageCells (s : State) (cl c i : Nat) : List Host.Cell :=
  match s.findCtx ⟨cl, i / 4, i % 4⟩ with
  | some x => cellsOf (imageOff ⟨cl, i / 4, i % 4⟩)
    (s.ctxImage ⟨cl, i / 4, i % 4⟩ (imageLevel x) (s.ctx (s.leader ⟨cl, i / 4, i % 4⟩)).pc)
  | none => freeCells (c + 64 * i) (imageOff ⟨cl, i / 4, i % 4⟩) 512

theorem imageCells_range {s : State} {cl c i : Nat} {x : Host.Cell} (h : x ∈ s.imageCells cl c i) :
    imagesOff + 512 * i ≤ x.1 ∧ x.1 < imagesOff + 512 * i + 512 := by
  have hoff : imageOff ⟨cl, i / 4, i % 4⟩ = imagesOff + 512 * i := by
    rw [imageOff, Nat.div_add_mod]
  rw [← hoff]
  unfold State.imageCells at h
  split at h
  · have := cellsOf_range h
    rwa [length_ctxImage] at this
  · exact freeCells_range h

theorem partCells_eq (s : State) (cl c : Nat) : s.partCells cl c =
    let blob := Blob.codec.bytes (s.blobOf cl)
    let vrs := s.vrsCells (s.ctxs.filter fun x => decide (x.id.cl = cl)) vrsOff
    List.flatten [(s.ls.filter (inKeys (lsKey cl 0) vrsOff)).map fun x => (x.1 - lsKey cl 0, x.2), vrs.1, freeCells (c + 4096) vrs.2 (imagesOff - vrs.2),
      (List.range 64).flatMap (s.imageCells cl c), cellsOf blobOff blob, freeCells (c + 40000) (blobOff + blob.length) (partLen - blobOff - blob.length)] := rfl

/-- The bytes at a context's place are those of its image: local store and vector registers lie before the images, the blob behind them, and another
context's image at another place. -/
theorem filter_partCells (s : State) {id : CtxId} (n : Nat) (hpipe : id.pipe < 16) (hslot : id.slot < 4)
    (hsum : ((s.ctxs.filter fun x => decide (x.id.cl = id.cl)).map Ctx.vblocks).sum ≤ 256) :
    (s.partCells id.cl n).filter (inKeys (imageOff id) 512) = s.imageCells id.cl n (4 * id.pipe + id.slot) := by
  have hoff : imageOff id = 0x140000 + 512 * (4 * id.pipe + id.slot) := rfl
  obtain ⟨hend, hvrs⟩ := vrsCells_range s (s.ctxs.filter fun x => decide (x.id.cl = id.cl)) vrsOff
  have hlast : (s.vrsCells (s.ctxs.filter fun x => decide (x.id.cl = id.cl)) vrsOff).2 ≤ 0x140000 := by
    rw [hend, vrsOff]
    omega
  have hls : ∀ x ∈ (s.ls.filter (inKeys (lsKey id.cl 0) vrsOff)).map fun x => (x.1 - lsKey id.cl 0, x.2), x.1 < 0x100000 := fun x hx => by
    obtain ⟨y, hy, rfl⟩ := List.mem_map.mp hx
    have := of_decide_eq_true (List.mem_filter.mp hy).2
    rw [vrsOff] at this
    dsimp only
    omega
  have hown : (s.imageCells id.cl n (4 * id.pipe + id.slot)).filter (inKeys (imageOff id) 512) = s.imageCells id.cl n (4 * id.pipe + id.slot) :=
    filter_inKeys_eq_self fun _ hx => imageCells_range hx
  rw [partCells_eq]
  dsimp only
  simp only [List.flatten_cons, List.flatten_nil, List.filter_append, List.append_nil, List.filter_flatMap]
  rw [filter_inKeys_eq_nil (l := List.map _ _), filter_inKeys_eq_nil (l := Prod.fst _), filter_inKeys_eq_nil (l := freeCells (n + 4096) _ _),
    filter_inKeys_eq_nil (l := cellsOf _ _), filter_inKeys_eq_nil (l := freeCells (n + 40000) _ _),
    flatMap_range_single (k := 4 * id.pipe + id.slot) (by omega), hown]
  · simp only [List.nil_append, List.append_nil]
  · intro i _ hne
    refine filter_inKeys_eq_nil fun x hx => ?_
    have := imageCells_range hx
    rw [imagesOff] at this
    omega
  · intro x hx
    have := freeCells_range hx
    rw [blobOff] at this
    omega
  · intro x hx
    have := cellsOf_range hx
    rw [blobOff] at this
    omega
  · intro x hx
    have := freeCells_range hx
    rw [imagesOff] at this
    omega
  · intro x hx
    have := hvrs x hx
    omega
  · intro x hx
    have := hls x hx
    omega

theorem imageCells_of_find {s : State} {id : CtxId} {c : Ctx} (n : Nat) (hc : s.findCtx id = some c) (hslot : id.slot < 4) :
    s.imageCells id.cl n (4 * id.pipe + id.slot) = cellsOf (imageOff id) (s.ctxImage id (imageLevel c) (s.ctx (s.leader id)).pc) := by
  have hid : (⟨id.cl, (4 * id.pipe + id.slot) / 4, (4 * id.pipe + id.slot) % 4⟩ : CtxId) = id := by
    rw [show (4 * id.pipe + id.slot) / 4 = id.pipe by omega, show (4 * id.pipe + id.slot) % 4 = id.slot by omega]
  rw [State.imageCells, hid, hc]

/-- A resident context's image is what its place in the part holds. -/
theorem dense_partCells {s : State} {id : CtxId} {c : Ctx} (n : Nat) (hc : s.findCtx id = some c) (hpipe : id.pipe < 16) (hslot : id.slot < 4)
    (hsum : ((s.ctxs.filter fun x => decide (x.id.cl = id.cl)).map Ctx.vblocks).sum ≤ 256) :
    dense (imageOff id) 512 (s.partCells id.cl n) = s.ctxImage id (imageLevel c) (s.ctx (s.leader id)).pc := by
  have h := denseFrom_cells (imageOff id) (s.ctxImage id (imageLevel c) (s.ctx (s.leader id)).pc) 0
  rw [length_ctxImage] at h
  rw [dense, filter_partCells s n hpipe hslot hsum, imageCells_of_find n hc hslot]
  exact h

end Sys2Proof.Machine
end

section
/-! Gang switches (O49): what a switch out takes away and a switch in takes up. -/
namespace Sys2Proof.Machine

/-! ### What writing the area leaves (R395) -/

/-- State t has the contexts of s but for timestamps, and its collectives and partitions. -/
structure Carried (s t : State) : Prop where
  retimed : Retimed s t
  colls : t.colls = s.colls
  parts : t.parts = s.parts

theorem Carried.trans {s t u : State} (h : Carried s t) (k : Carried t u) : Carried s u :=
  ⟨h.retimed.trans k.retimed, k.colls.trans h.colls, k.parts.trans h.parts⟩

theorem carried_of_settled {s t : State} (h : Settled s t) (k : Retimed s t) : Carried s t := ⟨k, by rw [h.rest], h.parts⟩

theorem carried_of_eq {s t : State} (hctxs : t.ctxs = s.ctxs) (hlongs : t.longs = s.longs) (hcolls : t.colls = s.colls) (hparts : t.parts = s.parts) :
    Carried s t := ⟨retimed_of_eq hctxs hlongs, hcolls, hparts⟩

theorem carried_foldl {α : Type} (f : State → α → State) (h : ∀ s a, Carried s (f s a)) : ∀ (l : List α) (s : State), Carried s (l.foldl f s)
  | [], _ => carried_of_eq rfl rfl rfl rfl
  | a :: r, s => (h s a).trans (carried_foldl f h r (f s a))

theorem carried_modCluster (s : State) (cl : Nat) (f : Cluster → Cluster) : Carried s (s.modCluster cl f) :=
  carried_of_eq (State.modCluster_ctxs _ _ _) (State.modCluster_longs _ _ _) (State.modCluster_colls _ _ _) (State.modCluster_parts _ _ _)

theorem carried_watchPa (s : State) (pa n : Nat) : Carried s (s.watchPa pa n) := carried_of_settled (settled_invalidate _ _) (retimed_invalidate _ _)

theorem carried_gridEnd (s : State) (p : Partition) : Carried s (s.gridEnd p) := by
  unfold State.gridEnd
  dsimp only
  have hlate := carried_of_settled (settled_settleLate s fun t => inPart p t.agent.cl) (retimed_settleLate s _)
  generalize s.settleLate _ = s1 at hlate ⊢
  have hlines := hlate.trans (carried_of_settled (settled_flushLines s1 false fun l => inPart p l.cl) (retimed_flushLines s1 _ _))
  generalize s1.flushLines _ _ = s2 at hlines ⊢
  have hwrites := hlines.trans (carried_of_settled (settled_drainWrites s2 fun w => inPart p w.agent.cl) (retimed_drainWrites s2 _))
  generalize s2.drainWrites _ = s3 at hwrites ⊢
  have hreds := hwrites.trans (carried_of_settled (settled_drainReds s3 fun r => inPart p r.agent.cl) (retimed_drainReds s3 _))
  generalize s3.drainReds _ = s4 at hreds ⊢
  exact hreds.trans (carried_of_eq rfl rfl rfl rfl)

/-- The partition as its switch out writes it to the area: none of its traffic is on its way, its accumulators have been spilled, and its SFU keeps scalar
requests for the images (R273, R395). -/
def State.swept (s : State) (p : Partition) (area : Nat) : State :=
  let s := (s.clusters.filter fun (k : Cluster) => inPart p k.id).foldl (fun (s : State) (k : Cluster) =>
    (s.modCluster k.id (sfuAway (fun _ => true) (.area p.num area))).spill k.id [0, 1, 2, 3]) s
  let s := (s.gridEnd p).dropSinter fun e => inPart p e.cl
  { s with compiles := s.compiles.filter fun c => !inPart p c.cl }

theorem carried_swept (s : State) (p : Partition) (area : Nat) : Carried s (s.swept p area) := by
  unfold State.swept
  dsimp only
  have hspill := carried_foldl (fun (s : State) (k : Cluster) => (s.modCluster k.id (sfuAway (fun _ => true) (.area p.num area))).spill k.id [0, 1, 2, 3])
    (fun s k => (carried_modCluster s k.id _).trans (carried_of_eq rfl rfl rfl rfl)) (s.clusters.filter fun k => inPart p k.id) s
  generalize List.foldl _ s _ = u at hspill ⊢
  have hgrid := hspill.trans (carried_gridEnd u p)
  generalize u.gridEnd p = v at hgrid ⊢
  exact hgrid.trans (carried_of_eq rfl rfl rfl rfl)

theorem carried_putPart (s : State) (p : Partition) (area k : Nat) (cells : List Host.Cell) : Carried s (s.putPart p area k cells) := by
  refine carried_foldl _ (fun s i => ?_) _ s
  split
  · exact (carried_watchPa s _ _).trans (carried_of_eq rfl rfl rfl rfl)
  · exact carried_of_eq rfl rfl rfl rfl

theorem carried_putParts (s : State) (p : Partition) (area : Nat) : Carried s (s.putParts p area) := by
  unfold State.putParts State.scribbleLast
  dsimp only
  refine (carried_foldl _ (fun s x => ?_) _ s).trans (carried_foldl _ (fun s i => ?_) _ _)
  · have h := carried_putPart s p area x.2 (s.partCells x.1 s.freeCtr)
    generalize s.putPart p area x.2 (s.partCells x.1 s.freeCtr) = u at h ⊢
    exact h.trans (carried_of_eq rfl rfl rfl rfl)
  · split
    · exact (carried_watchPa s _ _).trans (carried_of_eq rfl rfl rfl rfl)
    · exact carried_of_eq rfl rfl rfl rfl

/-! ### The switch out (R395, R396) -/

/-- Where no sc operation of the partition is outstanding, a switch out sweeps, writes the parts and takes away what they hold. -/
theorem switchOut_eq {s : State} {p : Partition} (hscops : ∀ o ∈ s.scops, inPart p o.agent.cl = false) (t area : Nat) :
    s.switchOut p t area = (((s.swept p area).putParts p area).emptyPart p area).modPart p.num fun p => { p with run := .away area } := by
  have hdue : (s.scops.filter fun o => inPart p o.agent.cl && decide (windowEnd o.window ≤ t)) = [] :=
    List.filter_eq_nil_iff.mpr fun o ho => by rw [hscops o ho]; exact Bool.false_ne_true
  have hkept : (s.scops.filter fun o => !(inPart p o.agent.cl && decide (windowEnd o.window ≤ t))) = s.scops :=
    List.filter_eq_self.mpr fun o ho => by rw [hscops o ho]; rfl
  unfold State.switchOut
  dsimp only
  rw [hdue, hkept, List.mergeSort_nil]
  rfl

/-- The subject's partition is found by its number in a state that keeps the partitions. -/
theorem partNo_of_parts {s u : State} {p : Partition} (hp : s.partNo s.subj.part = some p) (hu : u.parts = s.parts) : u.partNo p.num = some p := by
  have hnum : p.num = s.subj.part := of_decide_eq_true (List.find?_some hp :)
  rw [State.partNo, hu, hnum]
  exact hp

theorem run_modPart {u : State} {p : Partition} {f : Partition → Partition} (hf : ∀ q, (f q).num = q.num) (hp : u.partNo p.num = some p) :
    ((u.modPart p.num f).partNo p.num).map Partition.run = some (f p).run := by
  rw [partNo_modPart _ _ hf, hp]
  rfl

/-- What a switch out takes away, and what stays: the contexts of other partitions are found as before, and collectives wait. -/
theorem emptyPart_leaves (s : State) (p : Partition) (area : Nat) :
    let t := (s.emptyPart p area).modPart p.num fun p => { p with run := .away area }
    (∀ c ∈ t.ctxs, inPart p c.id.cl = false) ∧ (∀ c ∈ t.copies, inPart p c.by_.ctx.cl = false) ∧ (∀ w ∈ t.writes, inPart p w.agent.cl = false) ∧
      (∀ l ∈ t.longs, inPart p l.dst.cl = false) ∧
      t.colls = s.colls.map (fun (c : Coll) => if inPart p c.by_.ctx.cl = true ∧ c.away = none then { c with away := some area } else c) ∧
      (∀ id, inPart p id.cl = false → t.findCtx id = s.findCtx id) ∧
      (s.partNo p.num = some p → (t.partNo p.num).map Partition.run = some (.away area)) ∧ t.mem = s.mem := by
  have outside : ∀ {α : Type} {l : List α} {f : α → Bool}, ∀ c ∈ l.filter fun c => !f c, f c = false := fun c hc => by
    simpa using (List.mem_filter.mp hc).2
  refine ⟨outside, outside, outside, outside, List.map_congr_left fun c _ => ?_, fun id hid => ?_, run_modPart fun _ => rfl, rfl⟩
  · simp only [Bool.and_eq_true, Option.isNone_iff_eq_none]
  · show (s.ctxs.filter fun c => !inPart p c.id.cl).find? _ = s.ctxs.find? _
    rw [List.find?_filter]
    congr 1
    funext c
    by_cases hc : c.id = id
    · simp [hc, hid]
    · simp [hc]

section
variable {s : State} {p : Partition} {t0 area : Nat} (hp : s.partNo s.subj.part = some p) (hrun : p.run = .stopping t0 area)
include hp hrun

/-- A switch out waits for the `gm.gemv` and `gm.lay` of its clusters. -/
theorem gangSwitchOut_waits (hgm : s.gmLeft p = true) : Runs .gangSwitchOut s fun t => t = s :=
  ⟨s, congrArg Host.Outcome.next (by simp only [hp, hrun, hgm, Bool.true_eq_false, and_false, if_false]), rfl⟩

theorem exec_gangSwitchOut (ht : t0 ≤ s.gtime) (hgm : s.gmLeft p = false) : exec .gangSwitchOut s = .next (s.switchOut p t0 area) :=
  congrArg Host.Outcome.next (by simp only [hp, hrun, hgm, ht, and_self, if_true])

theorem gangSwitchOut_takes (ht : t0 ≤ s.gtime) (hgm : s.gmLeft p = false) (hscops : ∀ o ∈ s.scops, inPart p o.agent.cl = false) :
    Runs .gangSwitchOut s fun t => (∀ c ∈ t.ctxs, inPart p c.id.cl = false) ∧
      (∀ id, inPart p id.cl = false → (t.findCtx id).map Ctx.untimed = (s.findCtx id).map Ctx.untimed) ∧
      (t.partNo p.num).map Partition.run = some (.away area) ∧
      t.colls = s.colls.map (fun (c : Coll) => if inPart p c.by_.ctx.cl = true ∧ c.away = none then { c with away := some area } else c) ∧
      (∀ c ∈ t.copies, inPart p c.by_.ctx.cl = false) ∧ (∀ w ∈ t.writes, inPart p w.agent.cl = false) ∧ (∀ l ∈ t.longs, inPart p l.dst.cl = false) ∧
      ∃ u : State, (∀ id, (u.findCtx id).map Ctx.untimed = (s.findCtx id).map Ctx.untimed) ∧ t.mem = (u.putParts p area).mem := by
  have hswept := carried_swept s p area
  have hput := hswept.trans (carried_putParts (s.swept p area) p area)
  have hpart := partNo_of_parts hp hput.parts
  have hx := (exec_gangSwitchOut hp hrun ht hgm).trans (congrArg Host.Outcome.next (switchOut_eq hscops t0 area))
  obtain ⟨hctxs, hcopies, hwrites, hlongs, hcolls, hfind, hrun', hmem⟩ := emptyPart_leaves ((s.swept p area).putParts p area) p area
  refine ⟨_, hx, hctxs, fun id hid => ?_, hrun' hpart, ?_, hcopies, hwrites, hlongs, s.swept p area, hswept.retimed.findCtx, hmem⟩
  · rw [hfind id hid, hput.retimed.findCtx]
  · rw [hcolls, hput.colls]

end

/-! ### The switch in (R396, R397) -/

/-- State t is s with more of what an area's parts hold: where a page lies, and which clusters are active, is as before. -/
structure Loaded (s t : State) : Prop where
  rest : t = { s with
    ctxs := t.ctxs, groups := t.groups, teams := t.teams, longs := t.longs, accesses := t.accesses, writes := t.writes, reds := t.reds
    scops := t.scops, copies := t.copies, ocq := t.ocq, packets := t.packets, pins := t.pins, acc := t.acc, ls := t.ls, vrs := t.vrs
    sinter := t.sinter, clusters := t.clusters, compiles := t.compiles }
  active : ∀ cl, (t.cluster cl).active = (s.cluster cl).active

theorem Loaded.trans {s t u : State} (h : Loaded s t) (k : Loaded t u) : Loaded s u := by
  refine ⟨?_, fun cl => (k.active cl).trans (h.active cl)⟩
  rw [k.rest, h.rest]

theorem loaded_modCluster (s : State) (cl : Nat) {f : Cluster → Cluster} (hid : ∀ k, (f k).id = k.id) (hf : ∀ k, (f k).active = k.active) :
    Loaded s (s.modCluster cl f) := by
  refine ⟨by rw [modCluster_rest], fun j => ?_⟩
  by_cases hj : j = cl
  · rw [hj, cluster_modCluster_self _ _ hid, hf]
  · rw [cluster_modCluster_ne _ hj hid]

theorem loaded_lsChanged (s : State) (cl a n : Nat) : Loaded s (s.lsChanged cl a n) :=
  ⟨by rw [State.lsChanged, invalidate_rest], fun j => (congrArg Cluster.active ((settled_invalidate s fun _ => rangeHit (some cl) a n).clusters j) :)⟩

theorem putVrs_rest (cells : List Host.Cell) : ∀ (cs : List Ctx) (s : State) (o : Nat), s.putVrs cells cs o = { s with vrs := (s.putVrs cells cs o).vrs }
  | [], _, _ => rfl
  | c :: r, s, o => by rw [State.putVrs, putVrs_rest cells r]

theorem loaded_putVrs (s : State) (cells : List Host.Cell) (cs : List Ctx) (o : Nat) : Loaded s (s.putVrs cells cs o) := by
  rw [putVrs_rest]
  exact ⟨rfl, fun _ => rfl⟩

/-- The contexts that a cluster's part of an area holds, with the fields of their images (R387, R397). -/
def State.partCtxs (s : State) (p : Partition) (area : Nat) (x : Nat × Nat) : List Ctx :=
  match (s.getPart p area x.2).bind fun cells => (Blob.codec.ofBytes (dense blobOff (partLen - blobOff) cells)).map fun b => (cells, b) with
  | none => []
  | some (cells, b) => b.ctxs.map fun (c : Ctx) => c.ofImage (dense (imageOff c.id) 512 cells)
      (((b.groups.find? fun g => decide (g.slot = c.id.slot ∧ c.grp = some g.base)).map fun g => decide (g.base = c.id.pipe)).getD true)

theorem Loaded.partCtxs {s t : State} (h : Loaded s t) (p : Partition) (area : Nat) (x : Nat × Nat) : t.partCtxs p area x = s.partCtxs p area x := by
  rw [h.rest]
  rfl

theorem loadPart_loads (s : State) (p : Partition) (area : Nat) (x : Nat × Nat) :
    Loaded s (s.loadPart p area x.2 x.1) ∧ (s.loadPart p area x.2 x.1).ctxs = s.ctxs ++ s.partCtxs p area x := by
  unfold State.loadPart State.partCtxs
  cases hget : s.getPart p area x.2 with
  | none => exact ⟨⟨rfl, fun _ => rfl⟩, (List.append_nil _).symm⟩
  | some cells =>
    cases hblob : Blob.codec.ofBytes (dense blobOff (partLen - blobOff) cells) with
    | none =>
      simp only [Option.bind_some, hblob, Option.map_none]
      exact ⟨⟨rfl, fun _ => rfl⟩, (List.append_nil _).symm⟩
    | some b =>
      simp only [Option.bind_some, hblob, Option.map_some]
      constructor
      · refine Loaded.trans ?_ (loaded_modCluster _ _ ?_ ?_)
        · refine Loaded.trans ?_ (loaded_lsChanged _ _ _ _)
          refine Loaded.trans ?_ (loaded_putVrs _ _ _ _)
          exact ⟨rfl, fun _ => rfl⟩
        · exact fun _ => rfl
        · exact fun _ => rfl
      · rw [State.modCluster_ctxs, State.lsChanged, invalidate_rest, putVrs_rest]

theorem foldl_loadPart_loads (p : Partition) (area : Nat) : ∀ (l : List (Nat × Nat)) (s : State),
    Loaded s (l.foldl (fun (s : State) x => s.loadPart p area x.2 x.1) s) ∧
      (l.foldl (fun (s : State) x => s.loadPart p area x.2 x.1) s).ctxs = s.ctxs ++ l.flatMap (s.partCtxs p area)
  | [], s => ⟨⟨rfl, fun _ => rfl⟩, (List.append_nil _).symm⟩
  | x :: l, s => by
    obtain ⟨hloaded, hctxs⟩ := loadPart_loads s p area x
    obtain ⟨hrest, hmore⟩ := foldl_loadPart_loads p area l (s.loadPart p area x.2 x.1)
    refine ⟨hloaded.trans hrest, hmore.trans ?_⟩
    rw [hctxs, funext (hloaded.partCtxs p area), List.flatMap_cons, List.append_assoc]

/-- The partition's clusters ask for activity afresh (R440). -/
def State.rested (s : State) (p : Partition) : State :=
  { s with clusters := s.clusters.map fun (k : Cluster) => if inPart p k.id then { k with active := false, asks := none } else k }

theorem rested_inactive (s : State) {p : Partition} {cl : Nat} (h : inPart p cl = true) : ((s.rested p).cluster cl).active = false := by
  have hid : ∀ k : Cluster, (if inPart p k.id = true then { k with active := false, asks := none } else k).id = k.id := fun k => by split <;> rfl
  unfold State.rested State.cluster
  simp only [List.find?_map, Function.comp_def, hid]
  cases hk : s.clusters.find? fun k => decide (k.id = cl) with
  | none => rfl
  | some k =>
    have hcl : k.id = cl := of_decide_eq_true (List.find?_some hk :)
    simp only [Option.map_some, hcl, h, if_true, Option.getD_some]

section
variable {s : State} {p : Partition} {t0 area : Nat} (hp : s.partNo s.subj.part = some p) (hrun : p.run = .entering t0 area)
include hp hrun

/-- A switch in waits for the scalar results of the SFU for its area (R273). -/
theorem gangSwitchIn_waits (hsfu : s.sfuLeft p area = true) : Runs .gangSwitchIn s fun t => t = s :=
  ⟨s, congrArg Host.Outcome.next (by simp only [hp, hrun, hsfu, Bool.true_eq_false, and_false, if_false]), rfl⟩

theorem exec_gangSwitchIn (ht : t0 ≤ s.gtime) (hsfu : s.sfuLeft p area = false) : exec .gangSwitchIn s =
    .next ((if area = 0 then s.rested p else (s.rested p).switchIn p area).modPart p.num fun p => { p with run := .running, refill := true }) :=
  congrArg Host.Outcome.next (by simp only [hp, hrun, hsfu, ht, and_self, if_true]; rfl)

theorem gangSwitchIn_takes (ht : t0 ≤ s.gtime) (hsfu : s.sfuLeft p area = false) :
    Runs .gangSwitchIn s fun t => (t.partNo p.num).map Partition.run = some .running ∧ (∀ cl, inPart p cl = true → (t.cluster cl).active = false) ∧
      (area = 0 → t = { s with parts := t.parts, clusters := t.clusters }) ∧
      (area ≠ 0 → t.mem = s.mem ∧
        t.colls = s.colls.map (fun (c : Coll) => if c.part = p.num ∧ c.away = some area then { c with away := none } else c) ∧
        t.ctxs = s.ctxs ++ (s.partClusters p).zipIdx.flatMap (s.partCtxs p area)) := by
  refine ⟨_, exec_gangSwitchIn hp hrun ht hsfu, ?_⟩
  by_cases h0 : area = 0
  · rw [if_pos h0]
    exact ⟨run_modPart (u := s.rested p) (fun _ => rfl) (partNo_of_parts hp rfl), fun cl hcl => rested_inactive s hcl, fun _ => rfl, fun h => absurd h0 h⟩
  · rw [if_neg h0]
    have hload := foldl_loadPart_loads p area ((s.rested p).partClusters p).zipIdx (s.rested p)
    unfold State.switchIn
    dsimp only
    generalize List.foldl _ (s.rested p) _ = u at hload ⊢
    obtain ⟨hloaded, hctxs⟩ := hload
    have hcolls : u.colls = s.colls := (congrArg State.colls hloaded.rest :)
    refine ⟨run_modPart (fun _ => rfl) (partNo_of_parts hp (congrArg State.parts hloaded.rest :)), fun cl hcl => (hloaded.active cl).trans (rested_inactive s hcl),
      fun h => absurd h h0, fun _ => ⟨(congrArg State.mem hloaded.rest :), ?_, hctxs⟩⟩
    rw [← hcolls]
    rfl

end

/-- Settles O49: a switch out waits for its engines or takes what the parts then hold, the images among them; a switch in waits for the SFU or takes it up. -/
theorem gangSwitches : Obligations.GangSwitches := by
  intro s p t0 area strip hp ht
  exact ⟨fun hrun hgm => gangSwitchOut_waits hp hrun hgm, fun hrun hgm hscops => gangSwitchOut_takes hp hrun ht hgm hscops,
    fun id c n hc hpipe hslot hsum => dense_partCells n hc hpipe hslot hsum,
    fun hrun hsfu => gangSwitchIn_waits hp hrun hsfu, fun hrun hsfu => gangSwitchIn_takes hp hrun ht hsfu⟩

end Sys2Proof.Machine
end
